-- ==== Sys2Proof/Word.lean ====
section
/-! DEFINITION. The word types of the LX8 (R1, R3), their plainest arithmetic, and the types of the commands'
operands that are not plain numbers. -/

namespace Sys2Proof

/-- One byte, the addressable unit of every memory and record. -/
abbrev Byte := BitVec 8
/-- A register: 32 bits wide (R3). -/
abbrev Word := BitVec 32
/-- A 64-bit quantity: two consecutive registers, or eight bytes of memory (R3). -/
abbrev Quad := BitVec 64

/-- Frame numbers count modulo 2^48 (R44). -/
abbrev frameMod : Nat := 2 ^ 48

/-- The frame after frame `n`: the number wraps after 2^48 - 1 (R44). -/
def nextFrame (n : Nat) : Nat := (n + 1) % frameMod

/-- `a - b` modulo 2^48. -/
def frameSub (a b : Nat) : Nat := (a + frameMod - b % frameMod) % frameMod

/-- Frame `a` is later than frame `b` (R45). -/
def frameLater (a b : Nat) : Bool :=
  let d := frameSub a b
  decide (1 ≤ d) && decide (d ≤ 2 ^ 47 - 1)

/-- A count that saturates at 2^`w` - 1. -/
def satAdd (w a b : Nat) : Nat := min (a + b) (2 ^ w - 1)

/-- Who reads or writes a register: a PCIe function, the SMBus endpoint, or the fabric manager reaching registers
through Jilia management packets (R4, R57, R545). -/
inductive Requester where
  | pf
  | vf (n : Nat)
  | smbus
  | fabric
deriving DecidableEq, Repr

/-- The number under which a requester's own registers are kept: 0 the PF, 1 to 16 the VFs, then the other two. -/
def Requester.code : Requester → Nat
  | .pf => 0
  | .vf n => n
  | .smbus => 17
  | .fabric => 18

/-- The fields of an operation word after CLASS and OP (R128): predicate, operand specifiers, H, I and J. -/
structure OpWord where
  psel : Nat := 0
  pneg : Bool := false
  f0 : Nat := 0
  f1 : Nat := 0
  f2 : Nat := 0
  f3 : Nat := 0
  h : Nat := 0
  i : Nat := 0
  j : Nat := 0
deriving DecidableEq, Repr

/-- The fetch of an operation word by a core: the core, numbered as R442 numbers cores, and what SEC-DED found in the
low and the high half of the word: 0 no error, 1 a single-bit error, 2 a double-bit error (R78). -/
structure Fetch where
  core : Nat
  eccLo : Nat := 0
  eccHi : Nat := 0
deriving DecidableEq, Repr

/-- A defect of the matrix engine met by an MMA: a cell whose block sums come out too large by `delta` units of
R95 (of the first product's value as a multiple of 2^-40 for BF16 and FP16), a disagreement of the exponent copies,
and a residue mismatch (R423 to R425). The default is a sound engine. -/
structure MacFault where
  cell : Option (Nat × Nat) := none
  delta : Int := 0
  exponent : Bool := false
  residue : Bool := false
deriving DecidableEq, Repr

/-- What the module's own parts report to the sequencer at a threshold: the rooms whose step of the start sequence has
finished its work (R292), and those whose image could not be read again (R344). -/
structure RoomFacts where
  startDone : List Nat := []
  imageLost : List Nat := []
deriving DecidableEq, Repr

/-- A CELREQ record as it reaches a stack (R267): the stack, the endpoint that sent it, the owner of the lane it
arrived on (16 for a host slot), its place among the frame's records, whether it arrived in a replay, and its fields;
`zeros` when its unused bits are zero; `husk` the first word of a WRITE's data that is in the husk pattern. -/
structure CelRec where
  stack : Nat
  sender : Nat
  owner : Nat
  order : Nat
  late : Bool := false
  room : Nat
  pf : Bool := false
  tag : Nat
  slice : Nat
  count : Nat := 1
  reply : Nat
  off : Nat := 0
  line : Nat
  dest : Nat := 0
  zeros : Bool := true
  husk : Option Nat := none
deriving DecidableEq, Repr

/-- A CELRSP record as it reaches its requester (R268): the endpoint it reaches and its fields. -/
structure RspRec where
  ep : Nat
  stack : Nat
  room : Nat
  pf : Bool := false
  tag : Nat
  slice : Nat
  seq : Nat := 0
  status : Nat
  line : Nat := 0
  dest : Nat := 0
deriving DecidableEq, Repr

/-- A packet of the torus (R361): its header fields, its 12 bytes of ARGS, its body, and with HUSK the map of husked
body words, word 0 in bit 0. -/
structure Packet where
  type : Nat
  tc : Nat
  dl : Bool := false
  pip : Bool := false
  spec : Bool := false
  husk : Bool := false
  mcast : Bool := false
  retx : Bool := false
  dest : Nat
  src : Nat := 0
  room : Nat := 0
  hops : Nat := 0
  dirset : Nat := 0
  dir : Nat := 0
  esc : Bool := false
  gen : Nat := 0
  num : Nat := 0
  sframe : Nat := 0
  args : List Byte := []
  body : List Byte := []
  map : Nat := 0
  ecrc : Nat := 0
deriving DecidableEq, Repr

/-- A flit as received (R354): the fields of LINK, its BODY, its CRC. -/
structure Flit where
  fseq : Nat
  ack : Nat
  nak : Bool := false
  idle : Bool := false
  cvc : Nat := 0
  crd : Nat := 0
  body : List Byte := []
  crc : Nat
deriving DecidableEq, Repr

/-- What M measures for a congestion map (R384): for each port the credit-stall time in ns, the mean occupancy in KiB
and the throttled time in us; for sender windows, most window-full time first, the destination, the mean round trip in
units of 100 ns and the window-full time in us. -/
structure CmapFacts where
  ports : List (Nat × Nat × Nat) := []
  windows : List (Nat × Nat × Nat) := []
deriving DecidableEq, Repr

/-- What starts a calibration run (R486): the temperature trigger, another event of the table, or a write of CAL_CTL.RUN
by a requester, `t` ns after the last threshold. -/
inductive RunCause where
  | temperature
  | event
  | write (r : Requester) (t : Nat)
deriving DecidableEq, Repr

/-- What a group of bonds carries (R498): the core-to-pantry port of a position, Hall data, clock or control of a row, a cellar
channel as stack * 32 + channel. -/
inductive BondUse where
  | port (core : Nat)
  | row (w : Nat)
  | channel (n : Nat)
deriving DecidableEq, Repr

/-- What is wrong with a defective cell: it holds one value whatever is written, or the reads at some places among its reads of a
march run return the other value. -/
inductive CellFault where
  | stuck (v : Bool)
  | reads (l : List Nat)
deriving DecidableEq, Repr

/-- A defective cell of a pantry slice: core, word, bit 0 to 137 of the word with its check bits (R166, R174). -/
structure BadCell where
  core : Nat
  word : Nat
  bit : Nat
  fault : CellFault
deriving DecidableEq, Repr

/-- What the start steps of a block find: newly failed signal bonds, each with its group and what the group carries (R498), the
defective cells of its slices (R177), measured FMAX values as (core, 10 MHz) (R452), Hall lines that are not good, and measured
margins as (line, 0.1 dB) (R215, R500). Lines are bundle * 18 + line. -/
structure StartFacts where
  bonds : List (Nat × BondUse) := []
  cells : List BadCell := []
  fmax : List (Nat × Nat) := []
  badLines : List Nat := []
  margins : List (Nat × Nat) := []
deriving DecidableEq, Repr

/-- The input leaves the range in which the converters run (R20): above the over-voltage level or below the turn-off level; the flash records
that were being written at that moment (R21). -/
structure TurnOff where
  high : Bool := false
  torn : List Nat := []
deriving DecidableEq, Repr

/-- The meters of the frame that ends (R459, R466), in nJ: each row's rail; each tower's SRAM rail; how much of a tower's row rails its ballast
took; each stack's rails; the Hall with the laser bank; each porch die; the input at J2. Pantry port cycles by row. -/
structure Meters where
  rows : List (Nat × Nat) := []
  sram : List (Nat × Nat) := []
  ballast : List (Nat × Nat) := []
  cubes : List (Nat × Nat) := []
  hall : Nat := 0
  porch : List (Nat × Nat) := []
  total : Nat := 0
  ports : List (Nat × Nat) := []
deriving DecidableEq, Repr

/-- What the module's own parts measure and report at a threshold. Of the frame that ends: upsets in pantry words, as (word,
1 + bit for a single-bit error, 1000 for an uncorrectable one), and in cellar lines, as (line, symbol, what it differs by) (R167,
R270); tap powers by source, each of its 18 lines in nW (R235); the energy meters. Of the frame that
begins: whether the tiles have received its settings (R521); whether every rail has been in regulation for 1 ms (R28); bundles whose retraining is not complete (R226);
the good-line masks that both sides of a bundle see, as (bundle, base, upper) (R226), and the roles that an upper die's copy of a map reads
where upsets changed it (R204, R207); upsets in queue cells,
as (cell, byte of its data area, what it differs by) (R300); TX_OFFSET of each port in ns (R385). -/
structure Facts where
  rooms : RoomFacts := {}
  upsets : List (Nat × Nat) := []
  lines : List (Nat × Nat × Nat) := []
  taps : List (Nat × List Nat) := []
  meters : Meters := {}
  settings : Bool := true
  rails : Bool := true
  untrained : List Nat := []
  masks : List (Nat × Nat × Nat) := []
  upper : List (Nat × List Nat) := []
  cells : List (Nat × Nat × Nat) := []
  tx : List Nat := []
deriving DecidableEq, Repr

end Sys2Proof
end

