-- ==== Sys2Proof/Syntax.lean ====
section
/-! DEFINITION. The commands of the block: one constructor for each row of spec/opcode_table.json. -/

namespace Sys2Proof

/-- The commands the module takes and the events of its own engines. -/
inductive Instr where
  /-- The 48 V input rises through the under-voltage turn-on level; rails come up, the straps are sampled and PWR_GOOD is driven high once every rail is in regulation (R28). -/
  | powerOn (straps : Nat) (perstN modResetN : Bool)
  /-- The input falls below the turn-off level or rises above the over-voltage level; all converters turn off and PWR_GOOD falls (R20). -/
  | inputTurnOff (event : TurnOff)
  /-- PERST_N or MOD_RESET_N goes low for at least 100 ns and holds the module in module reset (R26). 0 PERST_N, 1 MOD_RESET_N -/
  | moduleReset (pin : Nat)
  /-- At a frame boundary the sequencer commits the previous frame, applies staged changes and publishes the committed state within 256 ns (R54). what the module's own parts measure and report at it -/
  | threshold (f : Facts)
  /-- A 32-bit read of the low word of a 64-bit pair latches the high word for the same requester (R4). `a`: address in PF BAR 0; `wide`: one aligned 64-bit access -/
  | pairLowRead (r : Requester) (a : Nat) (wide : Bool)
  /-- A read of a clear-on-read field returns the value and clears it, keeping any event of the same frame (R9). `a`: address in PF BAR 0; `be`: byte enables -/
  | rcRead (r : Requester) (a be : Nat)
  /-- A read of a watermark returns the published value and restarts the watermark instead of clearing it (R563). -/
  | watermarkRead (r : Requester) (a be : Nat)
  /-- Writing 1 to a W1C bit clears it, unless a new event in the same frame sets it again at the next threshold (R9). `t`: ns since the last threshold -/
  | w1cWrite (r : Requester) (t a v : Nat)
  /-- A write to a register that has no row of its own is staged, or rejected under its field's access code, including lock violations of RWL fields (R56). `t`: ns since the last threshold -/
  | registerWrite (r : Requester) (t a v : Nat)
  /-- Writing 1 to CONFIG_LOCK locks the RWL fields at once and clears ERR_INJ_CTL.ALLOW (R8). -/
  | configLock (r : Requester)
  /-- A write of FRM_PERIOD.LEN requests a new period, or sets BAD_WRITE when the value is out of range (R46). -/
  | periodWrite (r : Requester) (t len : Nat)
  /-- A read of FRM_VIEW_LO pins a consistent view of the last published frame for the requester (R57). -/
  | viewPin (r : Requester)
  /-- Writing 1 to FRM_CTL.VIEW_RELEASE ends the requester's view at once (R57). -/
  | viewRelease (r : Requester)
  /-- A view ends when 4,096 frames have passed, and VIEW_EXPIRED is set for the requester (R57). -/
  | viewExpired (r : Requester)
  /-- A write of FRM_SYNC_CTL.SRC moves the alignment state machine to ACQUIRING or OFF (R63). -/
  | syncSrcWrite (r : Requester) (t src : Nat)
  /-- A SYNC_IN edge is accepted in its capture window, or counted as an extra or out-of-window edge (R58). `t` ns after the running frame's threshold -/
  | syncInEdge (t : Nat)
  /-- Writing 1 to FRM_SYNC_CTL.COARSE with no room loaded makes the next edge place the next threshold with no step limit; otherwise BAD_WRITE is set (R62). -/
  | coarse (r : Requester) (t : Nat)
  /-- Writing 1 to SNAP_CTL.TRIGGER fires the SW snapshot trigger at once (R69). -/
  | snapTrigger (r : Requester)
  /-- Writing COLLECT from STALLED with a large enough buffer retries the DMA of the record (R72). -/
  | snapCollect (r : Requester) (t : Nat)
  /-- The snapshot record DMA completes; vector 3 is raised and the state becomes DONE, or ARMED when an ARM is pending (R72). -/
  | snapRecordWritten (ok : Bool)
  /-- Loads a vector register from 256 aligned pantry bytes (R147). -/
  | ldv (k : Fetch) (w : OpWord)
  /-- Stores the lanes of a vector register that its mask enables to 256 aligned pantry bytes (R147). -/
  | stv (k : Fetch) (w : OpWord)
  /-- Loads a scalar register from 4 pantry bytes (R147). -/
  | lds (k : Fetch) (w : OpWord)
  /-- Stores a scalar register to 4 pantry bytes (R147). -/
  | sts (k : Fetch) (w : OpWord)
  /-- Loads a 32-byte tile descriptor (R147). -/
  | ldd (k : Fetch) (w : OpWord)
  /-- Sets 4 bytes of a descriptor register from a scalar (R147). -/
  | setd (k : Fetch) (w : OpWord)
  /-- Copies H pantry lines, carrying husk marks without a trap (R147). -/
  | copy (k : Fetch) (w : OpWord)
  /-- Fills H pantry lines with a repeated 32-bit pattern (R147). -/
  | fill (k : Fetch) (w : OpWord)
  /-- Accumulates A times B into a bank over K-blocks, with the shell, exponent and residue checks made after each block (R148). `fault`: a defect the engine shows. -/
  | mma (k : Fetch) (w : OpWord) (fault : MacFault)
  /-- Converts a bank, scaled by its tag, into the output tile under R103–R105 (R148). -/
  | out (k : Fetch) (w : OpWord)
  /-- Stores a bank image, its tag factors and its mode to the pantry (R148). -/
  | stacc (k : Fetch) (w : OpWord)
  /-- Loads a bank, its tag and its mode from an image written by STACC (R148). -/
  | ldacc (k : Fetch) (w : OpWord)
  /-- Clears a bank, sets its tag to 1.0 and sets its mode (R148). -/
  | clr (k : Fetch) (w : OpWord)
  /-- Scales each row of an FP32 bank by a vector lane (R148). -/
  | rowscale (k : Fetch) (w : OpWord)
  /-- Copies one row of an FP32 bank into a vector register (R148). -/
  | tov (k : Fetch) (w : OpWord)
  /-- Writes one row of an FP32 bank from a vector register (R148). -/
  | fromv (k : Fetch) (w : OpWord)
  /-- Adds two vectors lane by lane (R152). -/
  | add (k : Fetch) (w : OpWord)
  /-- Subtracts two vectors lane by lane (R152). -/
  | sub (k : Fetch) (w : OpWord)
  /-- Multiplies two vectors lane by lane (R152). -/
  | mul (k : Fetch) (w : OpWord)
  /-- Fused multiply-add of vectors, with one rounding (R152). -/
  | fma (k : Fetch) (w : OpWord)
  /-- Takes the lane-by-lane vector minimum (R152). -/
  | vecMin (k : Fetch) (w : OpWord)
  /-- Takes the lane-by-lane vector maximum (R152). -/
  | vecMax (k : Fetch) (w : OpWord)
  /-- Compares two vectors into a lane mask (R152). -/
  | vecCmp (k : Fetch) (w : OpWord)
  /-- Selects lanes of two vectors by a mask (R152). -/
  | sel (k : Fetch) (w : OpWord)
  /-- Converts lanes between formats under R101–R104 (R152). -/
  | cvt (k : Fetch) (w : OpWord)
  /-- Quantises two 32-lane FP32 blocks to an MX format and returns their scales (R152). -/
  | qmx (k : Fetch) (w : OpWord)
  /-- Broadcasts a scalar or an immediate to every lane (R152). -/
  | bcast (k : Fetch) (w : OpWord)
  /-- Writes each lane's index into it (R152). -/
  | iota (k : Fetch) (w : OpWord)
  /-- Builds a mask with its lowest s bits set (R152). -/
  | mlen (k : Fetch) (w : OpWord)
  /-- Vector e^x approximation (R112). -/
  | exp (k : Fetch) (w : OpWord)
  /-- Vector 2^x approximation (R112). -/
  | exp2 (k : Fetch) (w : OpWord)
  /-- Vector natural logarithm approximation (R112). -/
  | ln (k : Fetch) (w : OpWord)
  /-- Vector base-2 logarithm approximation (R112). -/
  | log2 (k : Fetch) (w : OpWord)
  /-- Vector reciprocal approximation (R112). -/
  | rcp (k : Fetch) (w : OpWord)
  /-- Vector reciprocal square root approximation (R112). -/
  | rsq (k : Fetch) (w : OpWord)
  /-- Vector sine approximation (R112). -/
  | sin (k : Fetch) (w : OpWord)
  /-- Vector cosine approximation (R112). -/
  | cos (k : Fetch) (w : OpWord)
  /-- Stable sort of 64 keys with their payloads (R113). -/
  | sort (k : Fetch) (w : OpWord)
  /-- Returns the first k keys of the descending order (R113). -/
  | topk (k : Fetch) (w : OpWord)
  /-- Reads up to 64 indexed tile elements, marking indices out of range (R159). -/
  | gather (k : Fetch) (w : OpWord)
  /-- Integer lane addition (R152). -/
  | iadd (k : Fetch) (w : OpWord)
  /-- Integer lane subtraction (R152). -/
  | isub (k : Fetch) (w : OpWord)
  /-- Integer lane multiplication keeping the low bits (R152). -/
  | imul (k : Fetch) (w : OpWord)
  /-- Bitwise AND of lanes (R152). -/
  | and (k : Fetch) (w : OpWord)
  /-- Bitwise OR of lanes (R152). -/
  | or (k : Fetch) (w : OpWord)
  /-- Bitwise XOR of lanes (R152). -/
  | xor (k : Fetch) (w : OpWord)
  /-- Shifts lanes left (R152). -/
  | shl (k : Fetch) (w : OpWord)
  /-- Shifts lanes right arithmetically (R152). -/
  | sra (k : Fetch) (w : OpWord)
  /-- Sums lanes with a fixed pairwise tree into a scalar (R153). -/
  | sum (k : Fetch) (w : OpWord)
  /-- Reduces lanes to their maximum (R153). -/
  | redMax (k : Fetch) (w : OpWord)
  /-- Reduces lanes to their minimum (R153). -/
  | redMin (k : Fetch) (w : OpWord)
  /-- Returns the maximum lane value and its lowest lane index (R153). -/
  | argmax (k : Fetch) (w : OpWord)
  /-- Writes each bank row's maximum over the first n columns into a vector lane (R153). -/
  | browmax (k : Fetch) (w : OpWord)
  /-- Writes each bank row's sum over the first n columns into a vector lane (R153). -/
  | browsum (k : Fetch) (w : OpWord)
  /-- Performs one online-softmax step over a bank of scores (R158). -/
  | smx (k : Fetch) (w : OpWord)
  /-- Combines up to 8 expert vectors weighted by their gates (R160). -/
  | moec (k : Fetch) (w : OpWord)
  /-- Does nothing (R154). -/
  | nop (k : Fetch) (w : OpWord)
  /-- Sets a scalar register to an immediate (R154). -/
  | seti (k : Fetch) (w : OpWord)
  /-- Scalar arithmetic or logic operation selected by H (R154). -/
  | alu (k : Fetch) (w : OpWord)
  /-- Compares scalars into a predicate (R154). -/
  | ctrlCmp (k : Fetch) (w : OpWord)
  /-- Logical operation on predicates (R154). -/
  | plog (k : Fetch) (w : OpWord)
  /-- Runs the following words up to the end address H times (R155). -/
  | loop (k : Fetch) (w : OpWord)
  /-- Continues issue at the address J (R155). -/
  | jump (k : Fetch) (w : OpWord)
  /-- Stalls issue until earlier operations of the masked units complete (R154). -/
  | sync (k : Fetch) (w : OpWord)
  /-- Stalls issue until the core's last replay slot has ended (R124). -/
  | waitrx (k : Fetch) (w : OpWord)
  /-- Records the core's arrival at a room barrier (R157). -/
  | barrive (k : Fetch) (w : OpWord)
  /-- Waits until the replay point, then tests whether the barrier has completed (R157). -/
  | btest (k : Fetch) (w : OpWord)
  /-- Enters the end-of-frame wait once earlier operations complete (R122). `cycles` and `ns`: the core cycles and the time since the threshold. -/
  | frameend (k : Fetch) (w : OpWord) (cycles ns : Nat)
  /-- Traps the core with USER and the code (R161). -/
  | trap (k : Fetch) (w : OpWord)
  /-- Reads the core cycles since the threshold (R154). `cycles`: the core cycles since the threshold. -/
  | rdcyc (k : Fetch) (w : OpWord) (cycles : Nat)
  /-- Reads a half of the frame number (R154). -/
  | rdfrm (k : Fetch) (w : OpWord)
  /-- Sets a bank's shell tolerance in ULP (R156). -/
  | tol (k : Fetch) (w : OpWord)
  /-- Reads and clears the program flag copy after earlier operations complete (R156). -/
  | flags (k : Fetch) (w : OpWord)
  /-- Posts a CRC-32C over pantry lines to a cross-check comparison (R156). -/
  | xsig (k : Fetch) (w : OpWord)
  /-- A queued operation leaves its unit queue and starts when its unit and operands are free (R140). -/
  | unitStart (core cls : Nat)
  /-- An operation's latency ends and its results are complete, releasing waiting words (R144). -/
  | operationComplete (core cls cycles ns : Nat)
  /-- A WAITRX, SYNC or BTEST wait ends in the cycle in which its condition is met (R144). -/
  | waitEnd (core : Nat)
  /-- The pantry port is granted to one master in a cycle; losers retry, and write collisions drop the core write (R169). `reqs`: bit 0 MAT, 1 VEC, 2 HRX, 3 HTX, 4 DBG -/
  | pantryPortGrant (core reqs : Nat) (hrx : Option (Nat × List Byte × Bool)) (coreWord : Option Nat)
  /-- Writing READ starts a debug read of one pantry word, or is refused (R173). -/
  | dbgRead (r : Requester) (tower : Nat)
  /-- Writing WRITE starts a debug write of one pantry word, or is refused (R173). -/
  | dbgWrite (r : Requester) (tower : Nat)
  /-- A debug access receives its port grant, completes and clears BUSY (R173). -/
  | dbgAccessDone (r : Requester) (tower : Nat)
  /-- Writing START requests a march run on the named rows, or is refused (R175). `t`: ns since the last threshold -/
  | marchStart (r : Requester) (tower t rows algo bg : Nat) (preserve : Bool)
  /-- A march run completes, and its results are published at the next threshold (R176). slices that failed: row * 32 + position, failing line reads, word, bit -/
  | marchDone (tower : Nat) (cells : List BadCell)
  /-- A sum-on-arrival destination word is written once all its contributions, replays included, are held (R182). `late`: the contributions belong to the frame before -/
  | soaWrite (tile id k : Nat) (late : Bool)
  /-- A lane sends a scheduled, replayed, folded, idle or header slot, or sends a late slot with inverted parity (R198). `gen`: a payload that the endpoint generates -/
  | slotSend (bundle line slot : Nat) (late : Bool) (gen : List Byte)
  /-- A latch checks a received slot, then accepts it or rejects it and reports the reject to the sequencer (R203). `left`: ns before the next threshold -/
  | slotReceive (ep latch slot : Nat) (bytes : List Byte) (left : Nat)
  /-- A receiver checks a frame header for CRC, desync and map mismatch (R207). -/
  | frameHeader (ep latch : Nat) (bytes : List Byte)
  /-- A BARRIER_ARRIVE signal record reaches a barrier's home tile (R185). a record that reaches the home -/
  | barrierArrive (ep room id sender row mask : Nat) (late : Bool)
  /-- A BARRIER_DONE signal record delivers a barrier completion to a tile (R185). -/
  | barrierDone (ep room id frame : Nat)
  /-- A FLAG signal record raises a flag at its home tile, to be ORed and delivered in the next frame (R186). -/
  | flag (ep room id value : Nat) (late : Bool)
  /-- A DOORBELL signal record releases handed packets from a queue at threshold N+2 (R311). `late`: it travelled in a replay -/
  | doorbell (room q value : Nat) (late : Bool)
  /-- An INTERRUPT signal record asks M for an MSI-X message on a room vector (R541). `owner`: the owner of the lane it arrived on -/
  | interrupt (owner room vec : Nat) (late : Bool)
  /-- Writing HALL_MAINT.RETIRE asks for a line to be retired (R216). `t`: ns since the last threshold -/
  | retire (r : Requester) (bundle line t : Nat)
  /-- Writing HALL_MAINT.AGREE starts width agreement on a bundle (R226). -/
  | agree (r : Requester) (bundle t : Nat)
  /-- After 16 quiesced frames every line of the bundle is retired (R226). -/
  | agreementTimeout (b : Nat)
  /-- Writing HALL_LASER_CTL.SWAP warms a spare for a group and swaps it in when it is READY (R240). `t`: ns since the last threshold -/
  | swap (r : Requester) (g t : Nat)
  /-- A CELREQ READ record asks a stack for up to 16 lines (R267). -/
  | read (x : CelRec)
  /-- A CELREQ WRITE record writes a line under a byte-enable mask (R267). -/
  | write (x : CelRec) (enables : Nat) (data : List Byte)
  /-- Atomic 32-bit integer add on a cellar target (R404). -/
  | fadd32 (x : CelRec) (operand compare : Nat)
  /-- Atomic 64-bit integer add (R404). -/
  | fadd64 (x : CelRec) (operand compare : Nat)
  /-- Atomic FP32 add (R404). -/
  | faddf (x : CelRec) (operand compare : Nat)
  /-- Atomic 64-bit compare and swap (R404). -/
  | cas64 (x : CelRec) (operand compare : Nat)
  /-- Atomic 32-bit swap (R404). -/
  | swap32 (x : CelRec) (operand compare : Nat)
  /-- Atomic 64-bit swap (R404). -/
  | swap64 (x : CelRec) (operand compare : Nat)
  /-- Atomic signed 32-bit minimum (R404). -/
  | smin32 (x : CelRec) (operand compare : Nat)
  /-- Atomic signed 32-bit maximum (R404). -/
  | smax32 (x : CelRec) (operand compare : Nat)
  /-- Atomic signed 64-bit minimum (R404). -/
  | smin64 (x : CelRec) (operand compare : Nat)
  /-- Atomic signed 64-bit maximum (R404). -/
  | smax64 (x : CelRec) (operand compare : Nat)
  /-- Atomic unsigned 64-bit minimum (R404). -/
  | umin64 (x : CelRec) (operand compare : Nat)
  /-- Atomic unsigned 64-bit maximum (R404). -/
  | umax64 (x : CelRec) (operand compare : Nat)
  /-- Atomic FP32 minimum (R404). -/
  | fmin (x : CelRec) (operand compare : Nat)
  /-- Atomic FP32 maximum (R404). -/
  | fmax (x : CelRec) (operand compare : Nat)
  /-- A CELRSP data slot returns one line to its requester (R268). -/
  | data (x : RspRec) (data : List Byte)
  /-- A CELRSP acknowledgement record answers a WRITE or ATOMIC (R268). -/
  | ack (x : RspRec) (result : Nat)
  /-- Pending replies are sent in taken order when the room's step provides CELRSP slots to the requester (R269). `owner` 16: a host slot -/
  | celrspSend (stack owner ep : Nat)
  /-- A stack applies the Hall writes of a frame after the last retry slot of the next frame (R264). -/
  | cellarWriteApply (stack : Nat)
  /-- At a multiple of LEAK frames each slice's leaky bucket drains by one (R276). -/
  | bucketLeak (stack : Nat)
  /-- Writing CELn_SCRUB_CTL.START begins a scrub pass, or is refused while one runs (R277). `t`: ns since the last threshold -/
  | scrubStart (r : Requester) (n t : Nat)
  /-- The scrubber reads a line in an unneeded slice cycle and writes back a correction (R278). `raced`: a write reached the line before the write-back -/
  | scrubLine (n slice : Nat) (raced : Bool)
  /-- A scrub pass completes and its summary is published (R280). -/
  | scrubDone (n : Nat)
  /-- Writing CELn_INVAL_CTL.START invalidates pages at the next threshold, or is refused (R275). `t`: ns since the last threshold -/
  | invalStart (r : Requester) (n t : Nat)
  /-- Writing ROOMn_CTL.HALT halts the room with cause HOST (R289). `t`: ns since the last threshold -/
  | halt (r : Requester) (n t : Nat)
  /-- Writing ROOMn_CTL.RESUME resumes or restarts a halted room, or is refused (R289). `t`: ns since the last threshold -/
  | resume (r : Requester) (n t : Nat)
  /-- Writing ROOMn_CTL.RESET orders a room reset with cause HOST (R290). `t`: ns since the last threshold -/
  | roomResetCmd (r : Requester) (n t : Nat)
  /-- Writing ROOMn_SWITCH with GO requests a switch to a slot and phase (R295). `t`: ns since the last threshold -/
  | go (r : Requester) (n t slot phase : Nat)
  /-- A PRODUCER doorbell reports submission entries written to a FEED queue (R303). `v`: entries written; `be`: byte enables -/
  | producer (r : Requester) (q v be : Nat)
  /-- A CONSUMER doorbell releases delivery ring space (R310). `v`: bytes consumed; `be`: byte enables -/
  | consumer (r : Requester) (q v be : Nat)
  /-- The engine reads a submission entry and its packet data into cells (R303). `dma`: 0 good, 1 an error status, 2 a failed translation -/
  | submissionRead (q dma : Nat) (entry data : List Byte)
  /-- M takes a queue's stream of records for a frame and builds, aborts or rewinds packets (R304). -/
  | queueStream (q : Nat)
  /-- A delivery record is written to a host ring once it fits, then the shadow and vector follow (R310). `upsets`: (cell, byte, change) since the last threshold; `dma` 2: the translation fails -/
  | deliveryWrite (q : Nat) (upsets : List (Nat × Nat × Nat)) (dma : Nat)
  /-- A queue's EN takes effect as 1 and its free-running counts start from 0 (R564). -/
  | queueEnable (r : Requester) (q : Nat)
  /-- A queue's EN is cleared and all its packets and tail marker are discarded (R308). -/
  | queueDisable (r : Requester) (q : Nat)
  /-- A write to a queue limit or RESERVE is accepted or refused with BAD_CFG (R302). MAX_CELLS `a` and MIN_CELLS `b` of queue `q`, or RESERVE `a` for `q` = 8192 -/
  | queueConfigWrite (r : Requester) (t q a b : Nat)
  /-- Writing BIT_CTL.START starts an image load, or is refused with BUSY (R339). -/
  | loadStart (r : Requester)
  /-- The load engine finishes its checks and accepts the image or refuses it with a status (R340). `host`: what was read from host memory, none where a read failed -/
  | loadValidated (t : Nat) (host : Option (List Byte))
  /-- Writing BIT_CTL.ABORT ends the requester's load before acceptance (R345). -/
  | abort (r : Requester)
  /-- Writing BIT_ROOM_STATEn.RETRY restarts a stopped start sequence from step 3 (R344). `t`: ns since the last threshold -/
  | imageRetry (r : Requester) (n t : Nat)
  /-- A port's EN takes effect as 1 or 0, moving it toward DARK or to DISABLED (R357). -/
  | portEn (q : Nat) (en : Bool)
  /-- Writing PCHn_PORT_CTL.RESET resets one port, holding its light (R388). -/
  | jiliaPortReset (r : Requester) (q t : Nat)
  /-- A write of PCHn_NODE sets node ID and sizes and retrains every enabled port at the threshold (R359). sizes less one -/
  | nodeWrite (r : Requester) (node sx sy sz t : Nat)
  /-- A router routes a packet one hop, or drops it (R368). `input`: a port, or 6 for local injection -/
  | packetForward (input vc : Nat)
  /-- A LINK_STATE packet reports a link change, is applied at the next threshold and is forwarded (R367). a link of the ring of `dim` -/
  | linkState (q dim i : Nat) (down : Bool)
  /-- A windowed packet arrives at its destination and is accepted, held as pip, discarded or answered RESYNC (R372). -/
  | windowedPacket (p : Packet)
  /-- A WACK acknowledges packets of a pair to the sender (R370). -/
  | wack (p : Packet)
  /-- 2 µs after acceptance, or at 32 accepted packets, a WACK is sent (R370). -/
  | wackTimer (node : Nat)
  /-- A RESYNC restarts a pair at the expected GEN and loses its unacknowledged packets (R373). -/
  | resync (p : Packet)
  /-- A packet's retransmit timer expires and it is resent, or its pair fails (R371). -/
  | retransmitTimeout (node num : Nat)
  /-- A sender pair idle for 1 ms, or a receiver pair idle for 10 ms, is freed (R369). -/
  | pairIdleFree (node : Nat) (receiver : Bool)
  /-- A porch takes a buffer's stream of records for a frame, or drops a malformed stream (R376). `b`: die * 512 + buffer -/
  | injectionRecord (b : Nat)
  /-- Final records are sent into the fabric, speculatively or after their clear (R377). -/
  | injectionSend (b : Nat)
  /-- A MSG segment arrives and is reassembled, denied or passed to the queue engine (R379). -/
  | msg (p : Packet)
  /-- A message still incomplete 1 ms after its first segment is discarded (R379). -/
  | reassemblyTimeout (src room id queue : Nat)
  /-- A router removes fenced members, copies a multicast packet per port and delivers locally (R381). -/
  | multicastForward (input : Nat) (p : Packet)
  /-- A branch held for 4 µs without reassembly memory is dropped (R381). -/
  | branchDrop (src id member : Nat)
  /-- A MACK reports a member's multicast outcome to the source (R381). -/
  | mack (p : Packet)
  /-- After 1 ms of gathering MACKs the source sends a completion message (R382). -/
  | mcastCompletion (group id : Nat)
  /-- A MGMT packet carries an MCTP message to M firmware, or is denied (R383). -/
  | mgmt (p : Packet)
  /-- A CMAP_REQ is answered with a CMAP of the last latched congestion map (R384). -/
  | cmapReq (p : Packet)
  /-- At each 2^SHIFT-frame boundary M latches the congestion map (R384). -/
  | cmapLatch (f : CmapFacts)
  /-- A CLEAR releases speculative entries and held messages of a sender frame (R436). -/
  | clear (p : Packet)
  /-- A RETRACT discards speculative entries and rewinds held messages of a sender frame (R436). -/
  | retract (p : Packet)
  /-- Writing GLB_RESET.PCH resets a porch die while its tile holds the ports lit with HOLD markers (R389). -/
  | porchDieReset (r : Requester) (k t : Nat)
  /-- A LOAD request is checked at the target and read through CELREQ records (R402). a request by its running number -/
  | load (order : Nat)
  /-- A STORE request is checked at the target and written through CELREQ records (R402). -/
  | store (order : Nat)
  /-- A KEY request takes ownership of a key (R408). -/
  | acquire (order : Nat)
  /-- A KEY request releases an owned key (R408). -/
  | release (order : Nat)
  /-- A KEY request transfers an owned key to a new owner (R408). -/
  | transfer (order : Nat)
  /-- A FENCE record covers the room's earlier requests and completes when all have completed (R415). -/
  | fence (b : Nat)
  /-- A request is sent once its reply buffer reserves space for its completion record (R397). -/
  | requestSend (b : Nat)
  /-- A target die takes a request when a place is free and acknowledges it (R403). -/
  | requestTake (p : Packet)
  /-- An RSP arrives and the request's completion record is written (R399). -/
  | rsp (p : Packet)
  /-- A request with no RSP 50 ms after first sending completes LOST (R399). -/
  | rspTimeout (node seq : Nat)
  /-- A request not performed within 10 ms of being taken completes TIMEOUT (R403). -/
  | targetTimeout (order : Nat)
  /-- A provisional entry with no clear within 40 ms is discarded (R412). -/
  | psbExpiry (node gen num : Nat)
  /-- A held speculative message with no CLEAR within 40 ms is discarded (R436). -/
  | heldMessageExpiry (src room sframe : Nat)
  /-- A KEY slot SET record from the owning room changes a key (R410). `late`: the record travelled in a replay -/
  | set (room die key node job mode : Nat) (late : Bool)
  /-- A write to a window-table entry is staged, or refused as a duplicate with TGT_CFG (R400). `t`: ns since the last threshold -/
  | windowEntryWrite (r : Requester) (k t cfg job node base size : Nat)
  /-- Every PERIOD frames the free rows run a cross-check kernel in pairs (R428). cores whose posted value differs from the kernel's, with the difference -/
  | crossCheckFrame (posts : List (Nat × Nat))
  /-- A write of ERR_LOG_CONS moves the consumer pointer at once (R444). -/
  | logConsume (r : Requester) (v : Nat)
  /-- Writing ERR_INJ_CTL.ARM arms an error injection, or is refused (R443). `t`: ns since the last threshold -/
  | injArm (r : Requester) (t : Nat)
  /-- Writing ERR_INJ_CTL.DISARM ends an injection (R443). -/
  | injDisarm (r : Requester) (t : Nat)
  /-- A write of PWR_CAP.CAP_W stages a new cap, or sets BAD_WRITE (R459). `t`: ns since the last threshold -/
  | capWrite (r : Requester) (t w : Nat)
  /-- A write of PWR_STAGGER takes effect only with no room loaded, otherwise sets BAD_WRITE (R463). `t`: ns since the last threshold -/
  | staggerWrite (r : Requester) (t : Nat) (always : Bool) (waves cycles : Nat)
  /-- Writing JOB_MARK ends a room's job and moves its energy into LAST (R467). -/
  | jobMark (r : Requester) (room t : Nat)
  /-- Writing PWR_LEDGER_CTL.FORGET clears every ledger entry (R469). -/
  | forget (r : Requester) (t : Nat)
  /-- A temperature trigger, an event or CAL_CTL.RUN starts a calibration run of a kind on a unit (R486). -/
  | run (kind unit : Nat) (cause : RunCause)
  /-- A block completes its start steps and reports READY (R510). functions 26 M firmware, 27 lasers, 28 M-tile bundles -/
  | blockStartDone (k : Nat) (f : StartFacts)
  /-- A function does not report READY within its bound and goes OFF (R509). -/
  | startFail (k : Nat)
  /-- A STOPPING block completes its stop and goes OFF or restarts (R510). -/
  | blockStopDone (k : Nat)
  /-- A GLB_EN bit set to 1 starts a block (R512). -/
  | blockEnable (k : Nat)
  /-- A GLB_EN bit set to 0 stops a block, or is refused while a room uses it (R512). -/
  | blockDisable (k : Nat)
  /-- Writing GLB_RESET.QUAD fences, drains and resets a base quadrant (R516). -/
  | quadReset (r : Requester) (k t : Nat) (forced : Bool)
  /-- Writing GLB_RESET.TOW fences, drains and resets a tower (R516). -/
  | towerReset (r : Requester) (k t : Nat) (forced : Bool)
  /-- Writing GLB_RESET.CEL fences, drains and resets a cellar stack (R516). -/
  | stackReset (r : Requester) (k t : Nat) (forced : Bool)
  /-- A regulator fault on a tower triggers a tower reset (R513). -/
  | regulatorFault (t : Nat)
  /-- Writing GLB_CTL.MOD_RESET resets the module within 1 µs (R513). -/
  | modReset (r : Requester)
  /-- Writing GLB_CTL.M_WARM starts an M warm reset at once (R515). -/
  | mWarm (r : Requester)
  /-- A sequencer completes its BIST and reports READY or FAILED (R508). -/
  | seqBistDone (b ok : Bool)
  /-- The active sequencer recognises its own failure and releases the baton (R522). -/
  | sequencerFailure (cause : Nat)
  /-- The standby reads the last checkpoint, makes its load check and takes the baton (R524). -/
  | takeover (loadOk : Bool)
  /-- Writing SEQ_CTL.DRILL runs a takeover drill, or is refused (R528). -/
  | drill (r : Requester) (t : Nat)
  /-- A VF Function Level Reset resets the VF's state and its queues (R533). -/
  | vfFlr (n : Nat)
  /-- A BAR 2 read becomes CELREQ records and completes by the cellar outcome (R538). -/
  | bar2Read (fn addr len : Nat)
  /-- A BAR 2 write becomes CELREQ records or is dropped (R538). `ep`: the TLP is poisoned -/
  | bar2Write (fn addr : Nat) (bytes : List Byte) (ep : Bool)
  /-- A BAR 2 access not served within 8 ms completes with Completer Abort (R538). -/
  | bar2Timeout (id : Nat)
  /-- A device DMA completes, or fails and rewinds, disables or stalls its user (R542). `user` 0 a ring read, 1 a delivery write, 2 the snapshot, 3 the image; `status` 0 good, 1 an error, 2 a failed translation -/
  | dmaCompletion (user q status : Nat) (entry data : List Byte)
  /-- An ATS invalidation completes once reads under the old translation complete (R542). -/
  | atsInvalidate (fn tag : Nat)
  /-- An MCTP control message over SMBus, such as Set Endpoint ID, is handled (R543). -/
  | mctpControl (cmd eid : Nat)
  /-- A DOE data object carries a discovery request or a Zorwezen command body (R555). `t`: ns since the last threshold; `flashOk`: a flash write succeeds -/
  | doeObject (vid type t : Nat) (flashOk : Bool) (body : List Byte)
  /-- Returns the serial number, part, revisions and firmware state (R544). `via`: `.pf` DOE, `.smbus`, `.fabric` MGMT -/
  | getInfo (via : Requester) (tag : Nat)
  /-- Reads up to 16 registers of PF BAR 0 as one read (R545). -/
  | readReg (via : Requester) (tag a n : Nat)
  /-- Writes one of the permitted registers, or is answered DENIED (R545). -/
  | writeReg (via : Requester) (tag t a v : Nat)
  /-- Returns the identity public key and certificate (R544). -/
  | getIdentity (via : Requester) (tag : Nat)
  /-- Signs and returns an attestation report, reserving a signature leaf first (R554). -/
  | getReport (via : Requester) (tag : Nat) (nonce : List Byte) (flashOk : Bool)
  /-- Writes firmware data into the slot that is not running (R549). -/
  | fwWrite (via : Requester) (tag off : Nat) (data : List Byte) (flashOk : Bool)
  /-- Verifies the written slot and activates it with an M warm reset (R549). -/
  | fwActivate (via : Requester) (tag : Nat) (flashOk : Bool)
  /-- Raises MIN_SVN to the running SVN by blowing fuses (R549). -/
  | fwCommitSvn (via : Requester) (tag : Nat)
  /-- Enrols an owner key while enrolment is allowed (R550). -/
  | ownerEnrol (via : Requester) (tag : Nat) (key : List Byte) (flashOk : Bool)
  /-- Transfers ownership under a signature of the current owner (R550). -/
  | ownerTransfer (via : Requester) (tag : Nat) (key sig : List Byte) (flashOk : Bool)
  /-- Programs or refreshes IDE stream keys (R556). -/
  | ideKm (via : Requester) (tag stream : Nat) (keys : List Byte) (go : Bool)
  /-- An IDE integrity failure puts its stream into the Insecure state (R556). -/
  | ideFail (stream : Nat)
  /-- The input falls back through the 60.5 V over-voltage turn-on level after an over-voltage turn-off, and the converters start again (R19). -/
  | overVoltageTurnOn (straps : Nat) (perstN modResetN : Bool)
  /-- A configuration write sets or clears VF Enable, creating or removing the VFs that serve rooms and redirecting room interrupts between VF and PF vectors (R534). the configuration fields as the write leaves them: masks of functions, sizes as powers of two -/
  | vfEnable (en : Bool) (n d3 ats bar2 vfBar2 : Nat)
  /-- A vendor service command verified under the vendor key removes retire-list entries, removes an enrolled owner key or restores the signature counter (R501). -/
  | vendorService (via : Requester) (tag op : Nat) (places : List Nat) (leaf : Nat) (msg sig : List Byte)
  /-- A warming spare source completes its lock and becomes READY (R239). `left`: ns before the next threshold -/
  | spareReady (src left : Nat)
  /-- A spare is not READY within 20 ms, becomes RETIRED, and the next DARK source is started (R239). -/
  | warmFail (src : Nat)
  /-- After 10 s with fade above −1 dB, a READY spare returns to DARK (R237). -/
  | spareReturn (src : Nat)
  /-- A ring's closed heater loop updates every 64 ns and sets RETABLE at its correction limit (R245). `drop` and `tap`: the ring's drop-port monitor current and its through-port tap, in one unit; `step`: what the loop adds to the correction at gain 1.00 while their ratio is above its target, in tenths of a GHz -/
  | ringLoopUpdate (latch : Bool) (unit index drop tap : Nat) (step : Int)
  /-- A seed-tone detector completes a 512 ns window and identifies a line, or finds a modulator wrong lock (R249). `tone`: the line whose tone qualifies -/
  | seedWindow (latch : Bool) (unit index : Nat) (tone : Option Nat) (left : Nat)
  /-- A reacquiring ring's sweep completes and the ring is LOCKED (R252). -/
  | reacquireDone (latch : Bool) (unit index : Nat)
  /-- A ring without lock for 4 frames is retired (R252). -/
  | reacquireTimeout (latch : Bool) (unit index left : Nat)
  /-- Light has been present on both receive fibres for 1 ms, and training starts (R357). -/
  | lightDetect (q : Nat)
  /-- A receive fibre stays below the loss-of-light threshold for 100 µs, and the port enters SAFE (R352). -/
  | lossOfLight (q : Nat)
  /-- A port in SAFE sends a 10 µs safe pulse every 100 ms (R352). -/
  | safePulse (q : Nat)
  /-- A safe pulse arrives; the port answers it or restores full light and trains (R352). -/
  | safePulseReceived (q : Nat)
  /-- Training completes and the port becomes ACTIVE or DEGRADED, or fails with a cause (R356). `lanes`: mask of the lanes that locked; `farSizes`: SX, SY, SZ of the far end, 4 bits each; `markers`: lane numbers that arrived, and whether on the higher fibre -/
  | trainingDone (q lanes farNode farPort farSizes : Nat) (markers : List (Nat × Bool))
  /-- 400 ms pass without training completing (R356). -/
  | trainFail (q : Nat)
  /-- The 1 s wait after a training failure ends and training runs again (R357). -/
  | trainingRetry (q : Nat)
  /-- HOLD markers from the far end return the port to TRAINING (R357). -/
  | farReset (q : Nat)
  /-- A lane receives an RS(544,514) codeword and decodes its two flits (R353). `marker`: its 20 bits; `errors`: symbols in error -/
  | codeword (q lane marker errors : Nat) (f0 f1 : Flit)
  /-- A flit is received, checked, and answered with ACK or NAK, with credits returned (R355). -/
  | flit (q lane : Nat) (f : Flit)
  /-- A LANES packet names the new live-lane mask, which the transmitter applies (R358). -/
  | lanes (q mask : Nat)
  /-- Writing PCHn_PORT_CTL.RETIRE retires a receive lane (R358). `t`: ns since the last threshold -/
  | portRetire (r : Requester) (q lane t : Nat)
  /-- Writing PCHn_PORT_CTL.RETRAIN sends the port back to training (R357). -/
  | retrain (r : Requester) (q t : Nat)
  /-- A TICK arrives, is taken as an edge or ignored, and may carry a snapshot request (R386). -/
  | tick (q arrival master tx depth flags snap : Nat)
  /-- A DELAY_REQ is answered with a DELAY_RSP carrying the turnaround (R386). `t1` as received; `turn`: the turnaround in ns -/
  | delayReq (q t1 turn : Nat)
  /-- A DELAY_RSP completes a link-delay measurement (R386). -/
  | delayRsp (q t1 turn t4 : Nat)
  /-- Every 1,024 frames a port sends a DELAY_REQ (R386). -/
  | delayMeasure (q t1 : Nat)
  /-- A row rail falls below 97 % of setpoint and the oscillator stretches its cycle (R451). -/
  | droop (row lost : Nat)
  /-- A pantry-to-base FIFO overflows or underflows; affected slots are invalidated and the FIFO restarts (R456). places as (corridor, lane, slot) -/
  | crossingSlip (row : Nat) (sends receives : List (Nat × Nat × Nat))
  /-- Every 2^31 frames M measures each core's critical-path replicas and updates the held FMAX (R452). `measured` in units of 10 MHz -/
  | fmaxMeasure (core measured : Nat)
  /-- At each 64-frame cycle boundary the controller chooses the idle level k (R464). `nj` and `ns`: the input energy and the time of the running frame up to the choice; `mean`: the 1 ms average of input power then, in mW -/
  | idleCycleStart (nj ns mean : Nat)
  /-- A temperature sensor is sampled at least every 100 µs (R472). a temperature in units of 0.25 K; `t`: ns since the last threshold -/
  | sensorSample (k : Nat) (v : Int) (t : Nat)
  /-- A sensor fails its self-check and is FAILED from the next threshold (R473). -/
  | sensorFailed (k : Nat) (openShort : Bool)
  /-- A buried sensor reads more than 6 K below its estimate for 8 frames and becomes SUSPECT (R481). -/
  | suspect (k : Nat)
  /-- A SUSPECT sensor returns to OK after 1,024 plausible frames (R481). -/
  | sensorOk (k : Nat)
  /-- A trip comparator fires; clocks stop, lasers go dark, rails turn off and THERM_TRIP_N falls (R478). -/
  | thermalTrip (k : Nat)
  /-- M computes coolant means, flow estimate and rating, and sets COOLANT_HOT, REVERSED or LOW_FLOW (R482). means of 1 s: temperatures in units of 0.25 K, input power in W -/
  | coolantCheck (inlet outlet : Int) (p : Nat)
  /-- A calibration run completes and its set is judged plausible or rejected (R489). `limits`: the limits that the values alone do not show hold -/
  | calRunDone (kind unit : Nat) (values : List Int) (temp : Int) (limits : Bool) (left : Nat)
  /-- A calibration record or the retire list is written to its free flash slot (R493). kind 32 the retire list -/
  | calRecordWrite (kind unit : Nat) (ok : Bool)
  /-- A failed record write is retried once a second (R501). -/
  | flashWriteRetry (ok : Bool)
  /-- The active sequencer's heartbeat reaches M's arbiter (R523). -/
  | heartbeat (frame : Nat)
  /-- No heartbeat arrives for HB_LIMIT frame periods, and the arbiter isolates the active sequencer (R523). -/
  | heartbeatTimeout (periods : Nat)
  /-- A mailbox answer is later than MBX_US, and the arbiter isolates the sequencer (R523). -/
  | mailboxTimeout (us : Nat)
  /-- A rail leaves regulation and PWR_GOOD is driven low (R28). -/
  | railOutOfRegulation
  /-- Both reset pins are high; the module leaves module reset and each function starts toward READY (R506). -/
  | moduleResetRelease
  /-- SYNC_OUT falls when its 256 ns high time expires (R64). -/
  | syncOutFall
  /-- The 1,024 frames of quarantine have elapsed, and alignment returns to ACQUIRING (R63). -/
  | quarantineEnd
  /-- 64 consecutive frames pass without an accepted edge; SYNC_LOST is set, the device runs free and vector 3 is raised (R60). -/
  | syncLost
  /-- A rising edge on SNAP_IN fires the PIN snapshot trigger (R69). -/
  | snapInEdge
  /-- ARM takes effect, arming the snapshot and releasing latched copies, or is held pending during collection (R72). -/
  | snapArm
  /-- DISARM takes effect, disarming the snapshot or cancelling a pending ARM (R72). -/
  | snapDisarm
  /-- The sequencer assigns the rejected slots of the last frame to retry slots and posts the assignments (R210). -/
  | replayAssign
  /-- REFCLK stops or strays, and the base PLLs enter holdover (R457). -/
  | refclkLost
  /-- REFCLK has been within 1,000 ppm for 100 µs, and the PLLs pull back (R458). -/
  | refclkBack
  /-- The PLLs lock to REFCLK again and HOLDOVER clears (R458). -/
  | holdoverEnd
  /-- Every 2^28 frames M writes a lifetime energy checkpoint to flash (R468). -/
  | energyCheckpoint
  /-- After 5 s with every counted sensor below 70 °C, the device performs a thermal restart (R479). -/
  | thermalRestart
  /-- No controller idle frame occurs within WAIT frames, so the sequencer inserts one for a CELPHY run (R488). -/
  | idleInsert
  /-- The M firmware watchdog expires after 100 ms without service and starts an M warm reset (R513). -/
  | mWatchdog
  /-- An M warm reset completes and M's blocks return to service (R515). -/
  | mRestarted
  /-- M posts a mailbox command to the active sequencer every 1,024 frames (R523). -/
  | mailboxPost
  /-- A hot reset, link disable or DL_Down resets configuration space and per-function state (R533). -/
  | linkDown
  /-- A PF Function Level Reset acts as DL_Down with the link kept up (R533). -/
  | pfFlr
  /-- The PCIe link trains and comes up, setting GLB_READY0.PCIE (R506). -/
  | pcieLinkUp
deriving DecidableEq, Repr

end Sys2Proof
end

