-- ==== Sys2Proof/Decode.lean ====
section
/-! DEFINITION. Reading a command from a word. The table of commands gives none of its rows bits: a command comes from
outside with its operands, so no word spells one. -/

namespace Sys2Proof

/-- The command that a word spells by the table's bits. No row of the table gives bits, so there is none. -/
def decodeTableWord (_nbits _w : Nat) : Option Instr := none

end Sys2Proof
end

