-- ==== Sys2Proof/Machine/Bits.lean ====
section
/-! DEFINITION. Bit fields, sign extension, byte order (R1) and the CRC-32C the spec names. -/

namespace Sys2Proof.Machine

/-- Bits [lo + w - 1 : lo] of a number. -/
def bitsOf (n lo w : Nat) : Nat := n >>> lo % 2 ^ w

/-- `n` with bits [lo + w - 1 : lo] replaced by `v`. -/
def setBits (n lo w v : Nat) : Nat :=
  n - (bitsOf n lo w) * 2 ^ lo + (v % 2 ^ w) * 2 ^ lo

/-- Bit `i` of a number. -/
def bitOf (n i : Nat) : Bool := n.testBit i

/-- `n` with bit `i` set. -/
def orBit (n i : Nat) : Nat := n ||| 2 ^ i

/-- `n` with bit `i` cleared. -/
def clrBit (n i : Nat) : Nat := if n.testBit i then n - 2 ^ i else n

/-- 1 for true, 0 for false. -/
def b2n (b : Bool) : Nat := if b then 1 else 0

/-- The number of bits set among the lowest `w`. -/
def popcount (w n : Nat) : Nat := ((List.range w).filter fun i => n.testBit i).length

/-- The indices of the bits set among the lowest `w`, rising. -/
def bitList (w n : Nat) : List Nat := (List.range w).filter fun i => n.testBit i

/-- The number whose set bits are those of the list. -/
def ofBitList (l : List Nat) : Nat := l.foldl orBit 0

/-- A `w`-bit pattern read as two's complement. -/
def toSigned (w n : Nat) : Int :=
  if n % 2 ^ w < 2 ^ (w - 1) then (n % 2 ^ w : Nat) else ((n % 2 ^ w : Nat) : Int) - (2 ^ w : Nat)

/-- An integer as a `w`-bit two's complement pattern. -/
def ofSigned (w : Nat) (i : Int) : Nat := (i % (2 ^ w : Nat)).toNat

/-- Little-endian bytes of a number (R1). -/
def leBytes : Nat → Nat → List Byte
  | 0, _ => []
  | k + 1, n => BitVec.ofNat 8 n :: leBytes k (n / 256)

/-- The number of little-endian bytes (R1). -/
def ofLe : List Byte → Nat
  | [] => 0
  | b :: bs => b.toNat + 256 * ofLe bs

/-- `k` bytes of a record from offset `o`, as a number; bytes past its end read 0. -/
def leField (l : List Byte) (o k : Nat) : Nat := ofLe ((l.drop o).take k)

/-- The 32-bit words of a byte list, little-endian. -/
def wordsLe : List Byte → List Nat
  | a :: b :: c :: d :: r => ofLe [a, b, c, d] :: wordsLe r
  | [] => []
  | l => [ofLe l]

/-- `l` cut or filled with `x` to length `n`. -/
def padTo {α : Type} (n : Nat) (x : α) (l : List α) : List α :=
  l.take n ++ List.replicate (n - l.length) x

/-- The highest of a list of numbers. -/
def maxInt : List Int → Option Int
  | [] => none
  | x :: l => match maxInt l with
    | some y => some (max x y)
    | none => some x

/-- The least number above `lo` and not above `hi` that passes a test which every greater one passes too; `fuel` bounds the halvings. -/
def leastInt (p : Int → Bool) : Nat → Int → Int → Int
  | 0, _, hi => hi
  | fuel + 1, lo, hi =>
    let m := (lo + hi) / 2
    if hi ≤ lo + 1 then hi else if p m then leastInt p fuel lo m else leastInt p fuel m hi

/-- `l` with its bytes from offset `o` replaced by `v`, where they lie inside `l`. -/
def patch (l : List Byte) (o : Nat) (v : List Byte) : List Byte :=
  l.take o ++ (v.take (l.length - o)) ++ l.drop (o + v.length)

/-- One bit of the CRC-32C register, reflected form; the polynomial is the Castagnoli one (log 3). -/
def crcBit (c : BitVec 32) : BitVec 32 :=
  if c.getLsbD 0 then (c >>> 1) ^^^ 0x82F63B78#32 else c >>> 1

/-- One byte of the CRC-32C register. -/
def crcByte (c : BitVec 32) (b : Byte) : BitVec 32 :=
  let x := c ^^^ b.zeroExtend 32
  crcBit (crcBit (crcBit (crcBit (crcBit (crcBit (crcBit (crcBit x)))))))

/-- CRC-32C of a byte string, as the spec names it without defining it (log 3). -/
def crc32c (l : List Byte) : BitVec 32 := (l.foldl crcByte 0xFFFFFFFF#32) ^^^ 0xFFFFFFFF#32

end Sys2Proof.Machine
end

