-- ==== Sys2Proof/Machine/Code.lean ====
section
/-! DEFINITION. Reed-Solomon codes over GF(2^m): the check symbols of a systematic code whose generator has the roots 1, α, ... (R270,
R353). -/

namespace Sys2Proof.Machine

/-- Multiply by α = x in GF(2^m) with the field polynomial `poly`. -/
def gfDouble (m poly a : Nat) : Nat := if a.testBit (m - 1) then (2 * a) ^^^ poly else 2 * a

/-- The product of two elements: Horner over the bits of `b`, highest first. -/
def gfMul (m poly a b : Nat) : Nat :=
  (List.range m).foldr (fun i acc => let t := gfDouble m poly acc; if b.testBit i then t ^^^ a else t) 0

/-- α^i. -/
def gfPow (m poly : Nat) : Nat → Nat
  | 0 => 1
  | i + 1 => gfDouble m poly (gfPow m poly i)

/-- The coefficients of Π (x − α^i) for i below `n`, highest first, without the leading 1. -/
def rsGen (m poly : Nat) : Nat → List Nat
  | 0 => []
  | n + 1 =>
    let g := rsGen m poly n
    let r := gfPow m poly n
    (List.range (n + 1)).map fun k => g.getD k 0 ^^^ gfMul m poly r ((1 :: g).getD k 0)

/-- The check symbols of a message, both highest first: u(x)·x^n mod g(x). -/
def rsCheck (m poly n : Nat) (u : List Nat) : List Nat :=
  let g := rsGen m poly n
  u.foldl (fun r s =>
    let q := s ^^^ r.headD 0
    (r.drop 1 ++ [0]).zipWith (fun a b => a ^^^ gfMul m poly q b) g) (List.replicate n 0)

/-- a^(2^m − 2), the inverse of an element that is not 0. -/
def gfInv (m poly a : Nat) : Nat :=
  ((List.range (m - 1)).foldl (fun (x : Nat × Nat) _ => let s := gfMul m poly x.1 x.1; (s, gfMul m poly x.2 s)) (a, 1)).2

/-- Syndrome `j` of a word of `len` symbols that is 0 but for the symbols listed, each with its place from the front. -/
def rsSyndrome (m poly len j : Nat) (e : List (Nat × Nat)) : Nat :=
  e.foldl (fun acc x => acc ^^^ gfMul m poly x.2 (gfPow m poly (j * (len - 1 - x.1) % (2 ^ m - 1)))) 0

/-- The pattern of one or two symbols with the same eight syndromes as another pattern: what a decoder that corrects two symbols takes
it for; none where there is none. -/
def rsTwo (m poly len : Nat) (e : List (Nat × Nat)) : Option (List (Nat × Nat)) :=
  let s (j : Nat) : Nat := rsSyndrome m poly len j e
  let same (p : List (Nat × Nat)) : Bool := (List.range 8).all fun j => rsSyndrome m poly len j p = s j
  let mul := gfMul m poly
  let place (p : Nat) : Nat := gfPow m poly (len - 1 - p)
  let one := (List.range len).map fun p => [(p, s 0)]
  let det := mul (s 0) (s 2) ^^^ mul (s 1) (s 1)
  let inv := gfInv m poly det
  let a := mul inv (mul (s 1) (s 2) ^^^ mul (s 0) (s 3))
  let b := mul inv (mul (s 1) (s 3) ^^^ mul (s 2) (s 2))
  let two := match (List.range len).filter fun p => mul (place p) (place p) ^^^ mul a (place p) ^^^ b = 0 with
    | [p, q] =>
      let v := mul (gfInv m poly (place p ^^^ place q)) (s 1 ^^^ mul (place p) (s 0))
      [[(p, s 0 ^^^ v), (q, v)]]
    | _ => []
  (one ++ two).find? fun p => (p.all fun x => x.2 ≠ 0) && same p

end Sys2Proof.Machine
end

