-- ==== Sys2Proof/Machine/Hash.lean ====
section
/-! DEFINITION. SHA-256 and the verification of LMS signatures, which the spec names by their standards (R318 to R320, R547,
R550; log 16). Integers in them are big-endian. -/

namespace Sys2Proof.Machine

/-! ## SHA-256 -/

/-- Big-endian bytes of a number. -/
def beBytes (k n : Nat) : List Byte := (leBytes k n).reverse
/-- The number of big-endian bytes. -/
def ofBe (l : List Byte) : Nat := ofLe l.reverse

/-- The round constants of SHA-256: the first 32 bits of the fractions of the cube roots of the first 64 primes. -/
def shaK : List Word :=
  [0x428a2f98#32, 0x71374491#32, 0xb5c0fbcf#32, 0xe9b5dba5#32, 0x3956c25b#32, 0x59f111f1#32, 0x923f82a4#32, 0xab1c5ed5#32,
   0xd807aa98#32, 0x12835b01#32, 0x243185be#32, 0x550c7dc3#32, 0x72be5d74#32, 0x80deb1fe#32, 0x9bdc06a7#32, 0xc19bf174#32,
   0xe49b69c1#32, 0xefbe4786#32, 0x0fc19dc6#32, 0x240ca1cc#32, 0x2de92c6f#32, 0x4a7484aa#32, 0x5cb0a9dc#32, 0x76f988da#32] ++
  [0x983e5152#32, 0xa831c66d#32, 0xb00327c8#32, 0xbf597fc7#32, 0xc6e00bf3#32, 0xd5a79147#32, 0x06ca6351#32, 0x14292967#32,
   0x27b70a85#32, 0x2e1b2138#32, 0x4d2c6dfc#32, 0x53380d13#32, 0x650a7354#32, 0x766a0abb#32, 0x81c2c92e#32, 0x92722c85#32] ++
  [0xa2bfe8a1#32, 0xa81a664b#32, 0xc24b8b70#32, 0xc76c51a3#32, 0xd192e819#32, 0xd6990624#32, 0xf40e3585#32, 0x106aa070#32,
   0x19a4c116#32, 0x1e376c08#32, 0x2748774c#32, 0x34b0bcb5#32, 0x391c0cb3#32, 0x4ed8aa4a#32, 0x5b9cca4f#32, 0x682e6ff3#32,
   0x748f82ee#32, 0x78a5636f#32, 0x84c87814#32, 0x8cc70208#32, 0x90befffa#32, 0xa4506ceb#32, 0xbef9a3f7#32, 0xc67178f2#32]

/-- The eight chaining words. -/
structure ShaSt where
  a : Word
  b : Word
  c : Word
  d : Word
  e : Word
  f : Word
  g : Word
  h : Word
deriving DecidableEq, Repr

/-- The first chaining value. -/
def shaInit : ShaSt :=
  ⟨0x6a09e667#32, 0xbb67ae85#32, 0x3c6ef372#32, 0xa54ff53a#32, 0x510e527f#32, 0x9b05688c#32, 0x1f83d9ab#32, 0x5be0cd19#32⟩

/-- One round: `k` the round constant, `w` the schedule word. -/
def shaRound (s : ShaSt) (kw : Word × Word) : ShaSt :=
  let s1 := s.e.rotateRight 6 ^^^ s.e.rotateRight 11 ^^^ s.e.rotateRight 25
  let ch := (s.e &&& s.f) ^^^ (~~~s.e &&& s.g)
  let t1 := s.h + s1 + ch + kw.1 + kw.2
  let s0 := s.a.rotateRight 2 ^^^ s.a.rotateRight 13 ^^^ s.a.rotateRight 22
  let maj := (s.a &&& s.b) ^^^ (s.a &&& s.c) ^^^ (s.b &&& s.c)
  ⟨t1 + (s0 + maj), s.a, s.b, s.c, s.d + t1, s.e, s.f, s.g⟩

/-- The message schedule, last word first: sixteen words of the block extended by `n` more. -/
def shaExtend : Nat → List Word → List Word
  | 0, l => l
  | n + 1, l =>
    let x := l.getD 14 0
    let y := l.getD 1 0
    let s0 := x.rotateRight 7 ^^^ x.rotateRight 18 ^^^ (x >>> 3)
    let s1 := y.rotateRight 17 ^^^ y.rotateRight 19 ^^^ (y >>> 10)
    shaExtend n ((s1 + l.getD 6 0 + s0 + l.getD 15 0) :: l)

/-- A block of 64 bytes as sixteen words. -/
def shaWords (b : List Byte) : List Word := (List.range 16).map fun i => BitVec.ofNat 32 (ofBe ((b.drop (4 * i)).take 4))

/-- One block is taken in. -/
def shaBlock (s : ShaSt) (b : List Byte) : ShaSt :=
  let r := (shaK.zip (shaExtend 48 (shaWords b).reverse).reverse).foldl shaRound s
  ⟨s.a + r.a, s.b + r.b, s.c + r.c, s.d + r.d, s.e + r.e, s.f + r.f, s.g + r.g, s.h + r.h⟩

/-- `n` blocks of a padded message. -/
def shaBlocks : Nat → ShaSt → List Byte → ShaSt
  | 0, s, _ => s
  | n + 1, s, l => shaBlocks n (shaBlock s (l.take 64)) (l.drop 64)

/-- A message with its padding: the byte 0x80, zeros to 8 bytes short of a block, and its length in bits. -/
def shaPad (l : List Byte) : List Byte :=
  l ++ 0x80 :: List.replicate ((119 - l.length % 64) % 64) 0 ++ beBytes 8 (8 * l.length)

/-- SHA-256 (FIPS 180-4). -/
def sha256 (l : List Byte) : List Byte :=
  let p := shaPad l
  let s := shaBlocks (p.length / 64) shaInit p
  [s.a, s.b, s.c, s.d, s.e, s.f, s.g, s.h].flatMap fun w => beBytes 4 w.toNat

/-! ## LMS -/

/-- The one-time parameter sets of R320 by their type code: width W, number of chains and checksum shift (RFC 8554). -/
def otsOf (type : Nat) : Option (Nat × Nat × Nat) :=
  if type = 3 then some (4, 67, 4) else if type = 4 then some (8, 34, 0) else none

/-- The tree heights of R320 by their type code (RFC 8554). -/
def lmsHeight (type : Nat) : Option Nat :=
  if type = 6 then some 10 else if type = 7 then some 15 else if type = 8 then some 20 else none

/-- Digit `i` of width `w`, the high digit of a byte first. -/
def lmsDigit (l : List Byte) (w i : Nat) : Nat :=
  if w = 8 then (l.getD i 0).toNat else (l.getD (i / 2) 0).toNat / (if i % 2 = 0 then 16 else 1) % 16

/-- `n` steps of chain `i` from step `j`; `pre` is the key's identifier and leaf. -/
def lmsChain (pre : List Byte) (i : Nat) : Nat → Nat → List Byte → List Byte
  | 0, _, x => x
  | n + 1, j, x => lmsChain pre i n (j + 1) (sha256 (pre ++ beBytes 2 i ++ beBytes 1 j ++ x))

/-- Part `i` of 32 bytes. -/
def part32 (l : List Byte) (i : Nat) : List Byte := (l.drop (32 * i)).take 32

/-- The one-time public key that a one-time signature over a message stands for: `c` its randomizer, `ys` its chains. -/
def otsKey (w p sh : Nat) (pre c ys msg : List Byte) : List Byte :=
  let q := sha256 (pre ++ [0x81, 0x81] ++ c ++ msg)
  let top := 2 ^ w - 1
  let sum := ((List.range (256 / w)).map fun i => top - lmsDigit q w i).foldl (· + ·) 0
  let digits := q ++ beBytes 2 (sum * 2 ^ sh)
  sha256 (pre ++ [0x80, 0x80] ++ (List.range p).flatMap fun i =>
    let a := lmsDigit digits w i
    lmsChain pre i (top - a) a (part32 ys i))

/-- The root over a path of `n` nodes from node `node`. -/
def lmsRoot (ident : List Byte) : Nat → Nat → List Byte → List Byte → List Byte
  | 0, _, x, _ => x
  | n + 1, node, x, path =>
    let sib := path.take 32
    let pair := if node % 2 = 1 then sib ++ x else x ++ sib
    lmsRoot ident n (node / 2) (sha256 (ident ++ beBytes 4 (node / 2) ++ [0x83, 0x83] ++ pair)) (path.drop 32)

/-- An LMS signature over a message verifies under a public key of a parameter set of R320 (RFC 8554). -/
def lmsVerify (key msg sig : List Byte) : Bool :=
  let field (l : List Byte) (o : Nat) := ofBe ((l.drop o).take 4)
  match lmsHeight (field key 0), otsOf (field key 4) with
  | some h, some (w, p, sh) =>
    let ident := (key.drop 8).take 16
    let q := field sig 0
    let o := 8 + 32 * (p + 1)
    let leaf := otsKey w p sh (ident ++ beBytes 4 q) ((sig.drop 8).take 32) (sig.drop 40) msg
    decide (key.length = 56) && decide (sig.length = o + 4 + 32 * h) && decide (q < 2 ^ h) && decide (field sig 4 = field key 4)
      && decide (field sig o = field key 0)
      && decide (lmsRoot ident h (2 ^ h + q) (sha256 (ident ++ beBytes 4 (2 ^ h + q) ++ [0x82, 0x82] ++ leaf)) (sig.drop (o + 4)) = key.drop 24)
  | _, _ => false

end Sys2Proof.Machine
end

