-- ==== Sys2Proof/Config.lean ====
section
/-! DEFINITION. What the spec leaves open: free values, which nothing in Lean can evaluate, and the module's
configuration that the spec leaves to fuses and flash. -/

namespace Sys2Proof

/-- A value the spec leaves open, by a running number: nothing constrains it (log 4). -/
opaque Config.free : Nat → Nat

/-- The sixteen bits the core's stochastic rounding generator gives next: R102 specifies neither its seed nor the order
of use (log 4). -/
opaque Config.srBits : Nat → BitVec 16

/-- The result a function approximation would return for a finite, unexceptional input: the function (0 EXP to 7 COS), the
lane type (8 more for the FP32 value behind a stochastic rounding), the input's bits. R112 bounds its error and gives no value (log 5). -/
opaque Config.approx : Nat → Nat → Nat → Nat

/-- The vendor's public key in the boot ROM (R547; log 16). -/
opaque Config.vendorKey : List Byte

/-- The LMS signature that the identity key makes over a message with a leaf (R551, R554; log 16). -/
opaque Config.lmsSign : Nat → List Byte → List Byte

/-- The assembly values of a kind and unit in its ASSY record (R495, R497; log 17). -/
opaque Config.assyCal : Nat → Nat → List Int

/-- The built-in nominal values of a kind and unit (R496; log 17). -/
opaque Config.nominalCal : Nat → Nat → List Int

/-- The largest step per threshold of a kind whose step the table of R489 gives in other units than the value's (log 17). -/
opaque Config.calStep : Nat → Nat

/-- The energy of one access to a cellar line, in nJ: R466 gives none (log 132). -/
opaque Config.lineNj : Nat

/-- Coefficients `a`, as a fraction of 2^16, and `b`, in 0.001 K/W, of a buried sensor's estimate: of a pantry sensor from its tower's assembly
test record, of a stack sensor from the qualified thermal model (R260, R481, R497; log 17). -/
opaque Config.thermal : Nat → Nat × Nat

/-- Where the PRBS31 generator of a line stands at module reset, by bundle * 18 + line: R201 gives no seed (log 119). -/
opaque Config.prbsSeed : Nat → Nat

end Sys2Proof
end

