-- ==== Sys2Proof/Machine/Float.lean ====
section
/-! DEFINITION. The number formats (R87 to R93), exact arithmetic on their values, and the one rounding each operation
makes (R101 to R105, R111). -/

namespace Sys2Proof.Machine

/-- A floating-point datum: a NaN, an infinity, or (-1)^neg * m * 2^e; a zero keeps its sign. -/
inductive FV where
  | nan
  | inf (neg : Bool)
  | fin (neg : Bool) (m : Nat) (e : Int)
deriving DecidableEq, Repr

/-- The format codes of R133. -/
inductive Fmt where
  | fp32 | bf16 | fp16 | e4m3 | e5m2 | e2m3 | e3m2 | e2m1 | int8 | int4 | int32 | int16 | e8m0
deriving DecidableEq, Repr

/-- The format of a code; codes 0xD to 0xF are illegal (R133). -/
def Fmt.ofCode : Nat → Option Fmt
  | 0 => some .fp32 | 1 => some .bf16 | 2 => some .fp16 | 3 => some .e4m3 | 4 => some .e5m2 | 5 => some .e2m3
  | 6 => some .e3m2 | 7 => some .e2m1 | 8 => some .int8 | 9 => some .int4 | 10 => some .int32 | 11 => some .int16
  | 12 => some .e8m0 | _ => none

/-- Element size in bits. -/
def Fmt.bits : Fmt → Nat
  | .fp32 | .int32 => 32
  | .bf16 | .fp16 | .int16 => 16
  | .e4m3 | .e5m2 | .int8 | .e8m0 => 8
  | .e2m3 | .e3m2 => 6
  | .e2m1 | .int4 => 4

/-- Whether the elements are two's complement integers (R88). -/
def Fmt.isInt : Fmt → Bool
  | .int8 | .int4 | .int32 | .int16 => true
  | _ => false

/-- A floating-point format: exponent and mantissa widths, bias, the code of its largest finite value, of infinity and
of the canonical NaN (R87, R89). -/
structure FP where
  eb : Nat
  mb : Nat
  bias : Nat
  maxCode : Nat
  infCode : Option Nat
  nanCode : Option Nat
deriving DecidableEq, Repr

/-- The parameters of a floating-point format (R87, R89). -/
def Fmt.fp : Fmt → FP
  | .bf16 => ⟨8, 7, 127, 0x7F7F, some 0x7F80, some 0x7FC0⟩
  | .fp16 => ⟨5, 10, 15, 0x7BFF, some 0x7C00, some 0x7E00⟩
  | .e4m3 => ⟨4, 3, 7, 0x7E, none, some 0x7F⟩
  | .e5m2 => ⟨5, 2, 15, 0x7B, some 0x7C, some 0x7E⟩
  | .e2m3 => ⟨2, 3, 1, 0x1F, none, none⟩
  | .e3m2 => ⟨3, 2, 3, 0x1F, none, none⟩
  | .e2m1 => ⟨2, 1, 1, 0x7, none, none⟩
  | _ => ⟨8, 23, 127, 0x7F7FFFFF, some 0x7F800000, some 0x7FC00000⟩

/-- The value a floating-point code stands for (R87). -/
def FP.decode (f : FP) (code : Nat) : FV :=
  let w := f.eb + f.mb
  let neg := code.testBit w
  let mag := code % 2 ^ w
  let ex := mag / 2 ^ f.mb
  let m := mag % 2 ^ f.mb
  if mag > f.maxCode then
    match f.infCode with
    | some ic => if mag = ic then .inf neg else .nan
    | none => .nan
  else if ex = 0 then .fin neg m (1 - (f.bias : Int) - f.mb)
  else .fin neg (2 ^ f.mb + m) ((ex : Int) - f.bias - f.mb)

/-- The value a code of any format stands for; an E8M0 code is a power of two (R92). -/
def Fmt.decode (f : Fmt) (code : Nat) : FV :=
  match f with
  | .int8 | .int4 | .int32 | .int16 =>
    let i := toSigned f.bits code
    .fin (decide (i < 0)) i.natAbs 0
  | .e8m0 => if code % 256 = 255 then .nan else .fin false 1 (((code % 256 : Nat) : Int) - 127)
  | _ => f.fp.decode (code % 2 ^ f.bits)

/-- `m / 2^k` rounded to an integer: to nearest, ties to even, or stochastically with 16 random bits (R101, R102). -/
def roundShift (m k : Nat) (sr : Option Nat) : Nat :=
  let q := m >>> k
  let rem := m % 2 ^ k
  match sr with
  | none => if 2 ^ k < 2 * rem ∨ (2 * rem = 2 ^ k ∧ q % 2 = 1) then q + 1 else q
  | some r =>
    let d := if 16 ≤ k then rem >>> (k - 16) else rem <<< (16 - k)
    if 65536 ≤ d + r then q + 1 else q

/-- `m * 2^e` rounded once to an integer multiple of 2^q. -/
def roundAt (m : Nat) (e q : Int) (sr : Option Nat) : Nat :=
  if q ≤ e then m <<< (e - q).toNat else roundShift m (q - e).toNat sr

/-- The magnitude code of `m * 2^e` rounded once into a format; it exceeds `maxCode` on overflow. -/
def FP.encodeMag (f : FP) (m : Nat) (e : Int) (sr : Option Nat) : Nat :=
  if m = 0 then 0
  else
    let qmin : Int := 1 - (f.bias : Int) - f.mb
    let q := max ((Nat.log2 m : Int) + e - f.mb) qmin
    let n := roundAt m e q sr
    if n < 2 ^ f.mb then n else ((q - qmin).toNat + 1) * 2 ^ f.mb + (n - 2 ^ f.mb)

/-- The arithmetic flags as R156 numbers them: bit 0 NV, 1 OF, 2 SAT, 3 TRUNC, 4 SPEC (R114). -/
def flagNV : Nat := 1
def flagOF : Nat := 2
def flagSAT : Nat := 4
def flagTRUNC : Nat := 8
def flagSPEC : Nat := 16

/-- The sign bit of a format's code. -/
def FP.sign (f : FP) (neg : Bool) : Nat := if neg then 2 ^ (f.eb + f.mb) else 0

/-- An integer result clamped to a `w`-bit two's complement range, with OF and SAT when it was clamped (R104). -/
def clampInt (w : Nat) (i : Int) : Nat × Nat :=
  let hi : Int := 2 ^ (w - 1) - 1
  let lo : Int := -(2 ^ (w - 1))
  if hi < i then (ofSigned w hi, flagOF ||| flagSAT)
  else if i < lo then (ofSigned w lo, flagOF ||| flagSAT)
  else (ofSigned w i, 0)

/-- One conversion into a format, rounding once, with the flags it sets (R101 to R104). -/
def convert (f : Fmt) (v : FV) (sat : Bool) (sr : Option Nat) : Nat × Nat :=
  if f.isInt then
    match v with
    | .nan => (0, flagNV)
    | .inf neg => ((clampInt f.bits (if neg then -(2 ^ 64) else 2 ^ 64)).1, flagOF ||| flagSAT)
    | .fin neg m e =>
      let n := roundAt m e 0 sr
      clampInt f.bits (if neg then -(n : Int) else n)
  else
    let p := f.fp
    let small := p.nanCode.isNone
    let clamp := sat || small
    match v with
    | .nan => match p.nanCode with
      | some c => (c, 0)
      | none => (0, flagNV)
    | .inf neg =>
      if clamp then (p.sign neg + p.maxCode, flagOF ||| flagSAT)
      else match p.infCode with
        | some c => (p.sign neg + c, 0)
        | none => (p.nanCode.getD 0, flagNV)
    | .fin neg m e =>
      let c := p.encodeMag m e sr
      if p.maxCode < c then
        if clamp then (p.sign neg + p.maxCode, flagOF ||| flagSAT)
        else match p.infCode with
          | some ic => (p.sign neg + ic, flagOF)
          | none => (p.nanCode.getD 0, flagOF ||| flagNV)
      else (p.sign neg + c, 0)

/-- Rounding to FP32, nearest even (R97, R111). -/
def toF32 (v : FV) : Word := BitVec.ofNat 32 (convert .fp32 v false none).1

/-- The value of an FP32 word. -/
def f32 (w : Word) : FV := Fmt.fp32.decode w.toNat

/-- Is the datum a NaN. -/
def FV.isNan : FV → Bool
  | .nan => true
  | _ => false

/-- Is the datum an infinity. -/
def FV.isInf : FV → Bool
  | .inf _ => true
  | _ => false

/-- The opposite of a datum. -/
def FV.neg : FV → FV
  | .nan => .nan
  | .inf n => .inf (!n)
  | .fin n m e => .fin (!n) m e

/-- The signed integer `±m`. -/
def signedMag (neg : Bool) (m : Nat) : Int := if neg then -(m : Int) else m

/-- Exact sum; an exact zero sum is +0 unless both operands are -0 (IEEE 754, R97). -/
def FV.add : FV → FV → FV
  | .nan, _ => .nan
  | _, .nan => .nan
  | .inf a, .inf b => if a = b then .inf a else .nan
  | .inf a, .fin _ _ _ => .inf a
  | .fin _ _ _, .inf b => .inf b
  | .fin n1 m1 e1, .fin n2 m2 e2 =>
    let e := min e1 e2
    let i := signedMag n1 (m1 <<< (e1 - e).toNat) + signedMag n2 (m2 <<< (e2 - e).toNat)
    if i = 0 then .fin (n1 && n2) 0 e else .fin (decide (i < 0)) i.natAbs e

/-- Exact product (IEEE 754: 0 times infinity is a NaN). -/
def FV.mul : FV → FV → FV
  | .nan, _ => .nan
  | _, .nan => .nan
  | .inf a, .inf b => .inf (a != b)
  | .inf a, .fin b m _ => if m = 0 then .nan else .inf (a != b)
  | .fin a m _, .inf b => if m = 0 then .nan else .inf (a != b)
  | .fin a m e, .fin b k g => .fin (a != b) (m * k) (e + g)

/-- A datum times a power of two. -/
def FV.scale (v : FV) (k : Int) : FV :=
  match v with
  | .fin n m e => .fin n m (e + k)
  | v => v

/-- Numeric order of two data that are no NaNs; -0 equals +0. -/
def FV.lt : FV → FV → Bool
  | .nan, _ => false
  | _, .nan => false
  | .inf a, .inf b => a && !b
  | .inf a, .fin _ _ _ => a
  | .fin _ _ _, .inf b => !b
  | .fin n1 m1 e1, .fin n2 m2 e2 =>
    let e := min e1 e2
    decide (signedMag n1 (m1 <<< (e1 - e).toNat) < signedMag n2 (m2 <<< (e2 - e).toNat))

/-- Equal values (a NaN equals nothing). -/
def FV.eq (a b : FV) : Bool := !a.isNan && !b.isNan && !FV.lt a b && !FV.lt b a

/-- FP32 sum, rounded once. -/
def addF32 (a b : Word) : Word := toF32 ((f32 a).add (f32 b))

/-- Minimum of R152: -0 < +0, a NaN operand gives the canonical NaN. -/
def FV.min (a b : FV) : FV :=
  if a.isNan || b.isNan then .nan
  else if FV.lt a b then a else if FV.lt b a then b
  else match a with
    | .fin true _ _ => a
    | _ => b

/-- Maximum of R152. -/
def FV.max (a b : FV) : FV :=
  if a.isNan || b.isNan then .nan
  else if FV.lt a b then b else if FV.lt b a then a
  else match a with
    | .fin true _ _ => b
    | _ => a

/-- floor(log2) of a positive magnitude `m * 2^e`. -/
def ilog2 (m : Nat) (e : Int) : Int := (Nat.log2 m : Int) + e

/-- emax of the formats an MX output may have (R105). -/
def Fmt.emax : Fmt → Option Int
  | .e4m3 => some 8
  | .e5m2 => some 15
  | .e2m3 => some 2
  | .e3m2 => some 4
  | .e2m1 => some 2
  | .int8 => some 0
  | .int4 => some 2
  | _ => none

/-- The largest finite magnitude of a block: |a| >= |b| on finite data. -/
def maxMag (vs : List FV) : Nat × Int :=
  vs.foldl (fun acc v =>
    match v with
    | .fin _ m e => if FV.lt (.fin false acc.1 acc.2) (.fin false m e) then (m, e) else acc
    | _ => acc) (0, 0)

/-- The scale code of an MX block (R105). -/
def mxScale (f : Fmt) (vs : List FV) : Nat :=
  if vs.any FV.isNan then 0xFF
  else
    let mm := maxMag vs
    if mm.1 = 0 then 127
    else
      let x := ilog2 mm.1 mm.2 - (f.emax.getD 0)
      ((max (-127) (min 127 x)) + 127).toNat

/-- One element of an MX block: its value over 2^(scale - 127), as R93 reads it, with SAT = 1 (R105). -/
def mxElem (f : Fmt) (scale : Nat) (v : FV) (sr : Option Nat) : Nat × Nat :=
  if scale = 0xFF then (0, 0)
  else
    let k : Int := 127 - (scale : Int) + (if f = .int8 then 6 else 0)
    convert f (v.scale k) true sr

/-- The unit of R95 as a power of two: every element of an exact-block format is an integer multiple of it. -/
def Fmt.unitExp (f : Fmt) (mx : Bool) : Int :=
  match f with
  | .e4m3 => -9
  | .e5m2 => -16
  | .e2m3 => -3
  | .e3m2 => -4
  | .e2m1 => -1
  | .int8 => if mx then -6 else 0
  | _ => 0

/-- The element integer of R95: the value over the unit of an unscaled element. -/
def Fmt.elemInt (f : Fmt) (code : Nat) : Int :=
  match f.decode code with
  | .fin n m e => signedMag n (m <<< (e - f.unitExp false).toNat)
  | _ => 0

end Sys2Proof.Machine
end

