-- ==== Sys2Proof/Machine/RegMap.lean ====
section
/-! DEFINITION. The register map of PF BAR 0 (R558, R562): one row per register with its address, its element
strides, the masks of its access codes (R7) and its reset value (R10), and one name per field, written from the
register tables of chapters 02 to 18. -/

namespace Sys2Proof.Machine

/-- What selects the element that a register refers to: nothing, a selection register of the requester, or the
requester itself (R117, R230, R258, R284, R314, R390, R417, R444, R484, R504). -/
inductive Sel where
  | none | core | line | latch | ring | slice | queue | group | member | window | key | hist | sensor | kind | retire
  | requester
deriving DecidableEq, Repr

/-- One register: `ni` block instances `ist` apart, `ne` elements `est` apart; the masks of its read/write,
write-1-to-clear, clear-on-read, read-only and write-1-to-set fields; the reset value; the fields marked live; whether
it is the low word of a pair; what selects its element; whether a write acts at once; whether both porch blocks show
the one register of the module. -/
structure RegRow where
  name : String
  addr : Nat
  ni : Nat
  ist : Nat
  ne : Nat
  est : Nat
  rw : Nat
  w1c : Nat
  rc : Nat
  ro : Nat
  w1s : Nat
  reset : Nat
  live : Nat
  pair : Bool
  sel : Sel
  now : Bool
  shared : Bool
deriving DecidableEq, Repr

/-- One field of a register: the register's address for instance 0 and element 0, the strides, and its bits. -/
structure Fld where
  addr : Nat
  ist : Nat
  est : Nat
  lo : Nat
  w : Nat
deriving DecidableEq, Repr

/-- The address of the field's register for an instance and an element. -/
def Fld.addrOf (f : Fld) (i e : Nat) : Nat := f.addr + f.ist * i + f.est * e

/-! Fields of the FRM block. -/

def F.FRM_CTL_VIEW_RELEASE : Fld := ⟨0x40000, 0x0, 0, 0, 1⟩
def F.FRM_STATUS_SLOTS : Fld := ⟨0x40004, 0x0, 0, 16, 12⟩
def F.FRM_STATUS_PERIOD_PENDING : Fld := ⟨0x40004, 0x0, 0, 8, 1⟩
def F.FRM_STATUS_VIEW_EXPIRED : Fld := ⟨0x40004, 0x0, 0, 1, 1⟩
def F.FRM_STATUS_VIEW_PINNED : Fld := ⟨0x40004, 0x0, 0, 0, 1⟩
def F.FRM_PERIOD_ACTIVE : Fld := ⟨0x40008, 0x0, 0, 24, 8⟩
def F.FRM_PERIOD_LEN : Fld := ⟨0x40008, 0x0, 0, 0, 8⟩
def F.FRM_CURRENT_LO : Fld := ⟨0x40010, 0x0, 0, 0, 32⟩
def F.FRM_CURRENT_HI : Fld := ⟨0x40014, 0x0, 0, 0, 16⟩
def F.FRM_COMMIT_LO : Fld := ⟨0x40018, 0x0, 0, 0, 32⟩
def F.FRM_COMMIT_HI : Fld := ⟨0x4001C, 0x0, 0, 0, 16⟩
def F.FRM_VIEW_LO : Fld := ⟨0x40020, 0x0, 0, 0, 32⟩
def F.FRM_VIEW_HI : Fld := ⟨0x40024, 0x0, 0, 0, 16⟩
def F.FRM_MASTER_OFFSET_LO : Fld := ⟨0x40040, 0x0, 0, 0, 32⟩
def F.FRM_MASTER_OFFSET_HI : Fld := ⟨0x40044, 0x0, 0, 0, 16⟩
def F.FRM_SYNC_CTL_OUT_DIV : Fld := ⟨0x40030, 0x0, 0, 8, 4⟩
def F.FRM_SYNC_CTL_OUT_EN : Fld := ⟨0x40030, 0x0, 0, 7, 1⟩
def F.FRM_SYNC_CTL_COARSE : Fld := ⟨0x40030, 0x0, 0, 6, 1⟩
def F.FRM_SYNC_CTL_MASTER : Fld := ⟨0x40030, 0x0, 0, 5, 1⟩
def F.FRM_SYNC_CTL_PORT : Fld := ⟨0x40030, 0x0, 0, 2, 3⟩
def F.FRM_SYNC_CTL_SRC : Fld := ⟨0x40030, 0x0, 0, 0, 2⟩
def F.FRM_SYNC_STATUS_MISS_FRAMES : Fld := ⟨0x40034, 0x0, 0, 16, 16⟩
def F.FRM_SYNC_STATUS_QUAR_LEFT : Fld := ⟨0x40034, 0x0, 0, 5, 11⟩
def F.FRM_SYNC_STATUS_SYNC_LOST : Fld := ⟨0x40034, 0x0, 0, 4, 1⟩
def F.FRM_SYNC_STATUS_STATE : Fld := ⟨0x40034, 0x0, 0, 0, 3⟩
def F.FRM_SYNC_PHASE_PHASE : Fld := ⟨0x40038, 0x0, 0, 0, 16⟩
def F.FRM_SYNC_COUNT_OUT_WINDOW : Fld := ⟨0x4003C, 0x0, 0, 16, 16⟩
def F.FRM_SYNC_COUNT_EXTRA : Fld := ⟨0x4003C, 0x0, 0, 0, 16⟩
def F.FRM_INT_STATUS_BAD_WRITE : Fld := ⟨0x40048, 0x0, 0, 4, 1⟩
def F.FRM_INT_STATUS_QUARANTINE : Fld := ⟨0x40048, 0x0, 0, 3, 1⟩
def F.FRM_INT_STATUS_SYNC_LOST : Fld := ⟨0x40048, 0x0, 0, 2, 1⟩
def F.FRM_INT_STATUS_LOCKED : Fld := ⟨0x40048, 0x0, 0, 1, 1⟩
def F.FRM_INT_STATUS_PERIOD_APPLIED : Fld := ⟨0x40048, 0x0, 0, 0, 1⟩
def F.FRM_INT_EN_BAD_WRITE : Fld := ⟨0x4004C, 0x0, 0, 4, 1⟩
def F.FRM_INT_EN_QUARANTINE : Fld := ⟨0x4004C, 0x0, 0, 3, 1⟩
def F.FRM_INT_EN_SYNC_LOST : Fld := ⟨0x4004C, 0x0, 0, 2, 1⟩
def F.FRM_INT_EN_LOCKED : Fld := ⟨0x4004C, 0x0, 0, 1, 1⟩
def F.FRM_INT_EN_PERIOD_APPLIED : Fld := ⟨0x4004C, 0x0, 0, 0, 1⟩

/-! Fields of the SNAP block. -/

def F.SNAP_CTL_SRC_EN : Fld := ⟨0x30000, 0x0, 0, 8, 5⟩
def F.SNAP_CTL_COLLECT : Fld := ⟨0x30000, 0x0, 0, 3, 1⟩
def F.SNAP_CTL_TRIGGER : Fld := ⟨0x30000, 0x0, 0, 2, 1⟩
def F.SNAP_CTL_DISARM : Fld := ⟨0x30000, 0x0, 0, 1, 1⟩
def F.SNAP_CTL_ARM : Fld := ⟨0x30000, 0x0, 0, 0, 1⟩
def F.SNAP_STATUS_SOURCES : Fld := ⟨0x30004, 0x0, 0, 8, 5⟩
def F.SNAP_STATUS_TAKEOVER : Fld := ⟨0x30004, 0x0, 0, 4, 1⟩
def F.SNAP_STATUS_TOO_SMALL : Fld := ⟨0x30004, 0x0, 0, 3, 1⟩
def F.SNAP_STATUS_STATE : Fld := ⟨0x30004, 0x0, 0, 0, 3⟩
def F.SNAP_ERR_MASK : Fld := ⟨0x30008, 0x0, 0, 0, 32⟩
def F.SNAP_MATCH_LO : Fld := ⟨0x30010, 0x0, 0, 0, 32⟩
def F.SNAP_MATCH_HI : Fld := ⟨0x30014, 0x0, 0, 0, 16⟩
def F.SNAP_DEST_LO : Fld := ⟨0x30018, 0x0, 0, 6, 26⟩
def F.SNAP_DEST_HI : Fld := ⟨0x3001C, 0x0, 0, 0, 32⟩
def F.SNAP_DEST_SIZE : Fld := ⟨0x30020, 0x0, 0, 6, 26⟩
def F.SNAP_LEN : Fld := ⟨0x30024, 0x0, 0, 0, 32⟩
def F.SNAP_FRAME_LO : Fld := ⟨0x30028, 0x0, 0, 0, 32⟩
def F.SNAP_FRAME_HI : Fld := ⟨0x3002C, 0x0, 0, 0, 16⟩
def F.SNAP_MISSED : Fld := ⟨0x30030, 0x0, 0, 0, 32⟩

/-! Fields of the TOW block. -/

def F.TOW_ID_TOWER : Fld := ⟨0x200000, 0x80000, 0, 24, 8⟩
def F.TOW_ID_REV : Fld := ⟨0x200000, 0x80000, 0, 16, 8⟩
def F.TOW_ID_PHYS_PER_ROW : Fld := ⟨0x200000, 0x80000, 0, 8, 8⟩
def F.TOW_ID_ROWS : Fld := ⟨0x200000, 0x80000, 0, 0, 8⟩
def F.TOW_ROWSTATE_RETIRED : Fld := ⟨0x200004, 0x80000, 0, 16, 16⟩
def F.TOW_ROWSTATE_DEGRADED : Fld := ⟨0x200004, 0x80000, 0, 0, 16⟩
def F.TOW_ROWMAP_ROW_STATE : Fld := ⟨0x200100, 0x80000, 4, 14, 2⟩
def F.TOW_ROWMAP_SUB_EN : Fld := ⟨0x200100, 0x80000, 4, 13, 1⟩
def F.TOW_ROWMAP_SUB_LOGICAL : Fld := ⟨0x200100, 0x80000, 4, 9, 4⟩
def F.TOW_ROWMAP_SPARE_POS : Fld := ⟨0x200100, 0x80000, 4, 0, 5⟩
def F.TOW_CORE_SEL_POS : Fld := ⟨0x200200, 0x80000, 0, 8, 5⟩
def F.TOW_CORE_SEL_ROW : Fld := ⟨0x200200, 0x80000, 0, 0, 4⟩
def F.TOW_CORE_INFO_FMAX : Fld := ⟨0x200204, 0x80000, 0, 24, 8⟩
def F.TOW_CORE_INFO_LOGICAL : Fld := ⟨0x200204, 0x80000, 0, 20, 4⟩
def F.TOW_CORE_INFO_STATE : Fld := ⟨0x200204, 0x80000, 0, 18, 2⟩
def F.TOW_CORE_FLAGS_SPEC : Fld := ⟨0x200208, 0x80000, 0, 4, 1⟩
def F.TOW_CORE_FLAGS_TRUNC : Fld := ⟨0x200208, 0x80000, 0, 3, 1⟩
def F.TOW_CORE_FLAGS_SAT : Fld := ⟨0x200208, 0x80000, 0, 2, 1⟩
def F.TOW_CORE_FLAGS_OF : Fld := ⟨0x200208, 0x80000, 0, 1, 1⟩
def F.TOW_CORE_FLAGS_NV : Fld := ⟨0x200208, 0x80000, 0, 0, 1⟩
def F.TOW_ISTORE_ECC_CORRECTED : Fld := ⟨0x20020C, 0x80000, 0, 0, 16⟩
def F.TOW_TRUNC_COUNT : Fld := ⟨0x200010, 0x80000, 0, 0, 32⟩
def F.TOW_SPEC_COUNT : Fld := ⟨0x200014, 0x80000, 0, 0, 32⟩
def F.TOW_SAT_COUNT : Fld := ⟨0x200018, 0x80000, 0, 0, 32⟩
def F.TOW_CORE_STATUS_TRAP_CODE : Fld := ⟨0x200210, 0x80000, 0, 24, 4⟩
def F.TOW_CORE_STATUS_TRAP_ADDR : Fld := ⟨0x200210, 0x80000, 0, 12, 12⟩
def F.TOW_CORE_STATUS_END_ADDR : Fld := ⟨0x200210, 0x80000, 0, 0, 12⟩
def F.TOW_CORE_USER_USER_CODE : Fld := ⟨0x200214, 0x80000, 0, 16, 8⟩
def F.TOW_CORE_USER_USED : Fld := ⟨0x200214, 0x80000, 0, 0, 16⟩
def F.TOW_CORE_SLACK_MIN_SLACK : Fld := ⟨0x200218, 0x80000, 0, 0, 16⟩
def F.TOW_CORE_SENDDROP_DROPPED : Fld := ⟨0x20021C, 0x80000, 0, 0, 16⟩
def F.TOW_PAN_STATUS_TX_LATE : Fld := ⟨0x200300, 0x80000, 0, 4, 1⟩
def F.TOW_PAN_STATUS_MARCH_FAIL : Fld := ⟨0x200300, 0x80000, 0, 3, 1⟩
def F.TOW_PAN_STATUS_UNCORR : Fld := ⟨0x200300, 0x80000, 0, 2, 1⟩
def F.TOW_PAN_STATUS_DBG_COLLIDE : Fld := ⟨0x200300, 0x80000, 0, 1, 1⟩
def F.TOW_PAN_STATUS_COLLIDE : Fld := ⟨0x200300, 0x80000, 0, 0, 1⟩
def F.TOW_PAN_ECC_ADDR_VALID : Fld := ⟨0x20030C, 0x80000, 0, 31, 1⟩
def F.TOW_PAN_ECC_ADDR_WORD : Fld := ⟨0x20030C, 0x80000, 0, 0, 18⟩
def F.TOW_PAN_CORR : Fld := ⟨0x200304, 0x80000, 0, 0, 32⟩
def F.TOW_PAN_UNCORR : Fld := ⟨0x200308, 0x80000, 0, 0, 32⟩
def F.TOW_PAN_CONFLICT_MAT : Fld := ⟨0x200310, 0x80000, 0, 0, 32⟩
def F.TOW_PAN_CONFLICT_VEC : Fld := ⟨0x200314, 0x80000, 0, 0, 32⟩
def F.TOW_PAN_CONFLICT_HRX : Fld := ⟨0x200318, 0x80000, 0, 0, 32⟩
def F.TOW_PAN_CONFLICT_HTX : Fld := ⟨0x20031C, 0x80000, 0, 0, 32⟩
def F.TOW_PAN_CONFLICT_DBG : Fld := ⟨0x200320, 0x80000, 0, 0, 32⟩
def F.TOW_PAN_COLLIDE : Fld := ⟨0x200324, 0x80000, 0, 0, 32⟩
def F.TOW_PAN_TXLATE : Fld := ⟨0x200328, 0x80000, 0, 0, 32⟩
def F.TOW_DBG_ADDR : Fld := ⟨0x200334, 0x80000, 0, 4, 18⟩
def F.TOW_DBG_DATA : Fld := ⟨0x200340, 0x80000, 4, 0, 32⟩
def F.TOW_SOA_TREES : Fld := ⟨0x2003C0, 0x80000, 0, 0, 11⟩
def F.TOW_SOA_SAT : Fld := ⟨0x2003C4, 0x80000, 0, 0, 32⟩
def F.TOW_SOA_HUSK : Fld := ⟨0x2003C8, 0x80000, 0, 0, 32⟩
def F.TOW_SOA_HWM : Fld := ⟨0x2003CC, 0x80000, 0, 0, 11⟩
def F.TOW_DBG_CTL_STATUS : Fld := ⟨0x200330, 0x80000, 0, 4, 4⟩
def F.TOW_DBG_CTL_BUSY : Fld := ⟨0x200330, 0x80000, 0, 2, 1⟩
def F.TOW_DBG_CTL_WRITE : Fld := ⟨0x200330, 0x80000, 0, 1, 1⟩
def F.TOW_DBG_CTL_READ : Fld := ⟨0x200330, 0x80000, 0, 0, 1⟩
def F.TOW_MARCH_CTL_ROWS : Fld := ⟨0x200380, 0x80000, 0, 16, 16⟩
def F.TOW_MARCH_CTL_BG : Fld := ⟨0x200380, 0x80000, 0, 8, 4⟩
def F.TOW_MARCH_CTL_ALGO : Fld := ⟨0x200380, 0x80000, 0, 2, 2⟩
def F.TOW_MARCH_CTL_PRESERVE : Fld := ⟨0x200380, 0x80000, 0, 1, 1⟩
def F.TOW_MARCH_CTL_START : Fld := ⟨0x200380, 0x80000, 0, 0, 1⟩
def F.TOW_MARCH_STATUS_FAIL_ROWS : Fld := ⟨0x200384, 0x80000, 0, 16, 16⟩
def F.TOW_MARCH_STATUS_STATE : Fld := ⟨0x200384, 0x80000, 0, 0, 3⟩
def F.TOW_MARCH_RESULT_FAIL : Fld := ⟨0x200388, 0x80000, 0, 31, 1⟩
def F.TOW_MARCH_RESULT_FAIL_COUNT : Fld := ⟨0x200388, 0x80000, 0, 0, 24⟩
def F.TOW_MARCH_ADDR_BIT : Fld := ⟨0x20038C, 0x80000, 0, 24, 8⟩
def F.TOW_MARCH_ADDR_WORD : Fld := ⟨0x20038C, 0x80000, 0, 0, 18⟩

/-! Fields of the HALL block. -/

def F.HALL_STATUS_READY : Fld := ⟨0x100000, 0x0, 0, 23, 9⟩
def F.HALL_STATUS_DEGRADED : Fld := ⟨0x100000, 0x0, 0, 14, 9⟩
def F.HALL_STATUS_RETIRED : Fld := ⟨0x100000, 0x0, 0, 5, 9⟩
def F.HALL_STATUS_ALL_UP : Fld := ⟨0x100000, 0x0, 0, 0, 1⟩
def F.HALL_MAINT_BUNDLE : Fld := ⟨0x100008, 0x0, 0, 16, 9⟩
def F.HALL_MAINT_LINE : Fld := ⟨0x100008, 0x0, 0, 8, 5⟩
def F.HALL_MAINT_AGREE : Fld := ⟨0x100008, 0x0, 0, 1, 1⟩
def F.HALL_MAINT_RETIRE : Fld := ⟨0x100008, 0x0, 0, 0, 1⟩
def F.HALL_REJECTS : Fld := ⟨0x100010, 0x0, 0, 0, 32⟩
def F.HALL_REPLAYS : Fld := ⟨0x100014, 0x0, 0, 0, 32⟩
def F.HALL_REPLAY_LOST : Fld := ⟨0x100018, 0x0, 0, 0, 32⟩
def F.HALL_FOLDED : Fld := ⟨0x10001C, 0x0, 0, 0, 32⟩
def F.HALL_HDR_ERR : Fld := ⟨0x100020, 0x0, 0, 0, 32⟩
def F.HALL_DESYNC : Fld := ⟨0x100024, 0x0, 0, 0, 32⟩
def F.HALL_ROOM_NARROW : Fld := ⟨0x100050, 0x0, 0, 0, 16⟩
def F.HALL_ROOM_RECOMPILE : Fld := ⟨0x100054, 0x0, 0, 0, 16⟩
def F.HALL_INT_STATUS_DESYNC : Fld := ⟨0x100040, 0x0, 0, 8, 1⟩
def F.HALL_INT_STATUS_REPLAY_LOST : Fld := ⟨0x100040, 0x0, 0, 7, 1⟩
def F.HALL_INT_STATUS_MAP_MISMATCH : Fld := ⟨0x100040, 0x0, 0, 6, 1⟩
def F.HALL_INT_STATUS_NEEDS_RECOMPILE : Fld := ⟨0x100040, 0x0, 0, 5, 1⟩
def F.HALL_INT_STATUS_NARROW : Fld := ⟨0x100040, 0x0, 0, 4, 1⟩
def F.HALL_INT_STATUS_FOLD : Fld := ⟨0x100040, 0x0, 0, 3, 1⟩
def F.HALL_INT_STATUS_SPARES_SPENT : Fld := ⟨0x100040, 0x0, 0, 2, 1⟩
def F.HALL_INT_STATUS_SPARE_USED : Fld := ⟨0x100040, 0x0, 0, 1, 1⟩
def F.HALL_INT_STATUS_LANE_RETIRED : Fld := ⟨0x100040, 0x0, 0, 0, 1⟩
def F.HALL_INT_EN_DESYNC : Fld := ⟨0x100044, 0x0, 0, 8, 1⟩
def F.HALL_INT_EN_REPLAY_LOST : Fld := ⟨0x100044, 0x0, 0, 7, 1⟩
def F.HALL_INT_EN_MAP_MISMATCH : Fld := ⟨0x100044, 0x0, 0, 6, 1⟩
def F.HALL_INT_EN_NEEDS_RECOMPILE : Fld := ⟨0x100044, 0x0, 0, 5, 1⟩
def F.HALL_INT_EN_NARROW : Fld := ⟨0x100044, 0x0, 0, 4, 1⟩
def F.HALL_INT_EN_FOLD : Fld := ⟨0x100044, 0x0, 0, 3, 1⟩
def F.HALL_INT_EN_SPARES_SPENT : Fld := ⟨0x100044, 0x0, 0, 2, 1⟩
def F.HALL_INT_EN_SPARE_USED : Fld := ⟨0x100044, 0x0, 0, 1, 1⟩
def F.HALL_INT_EN_LANE_RETIRED : Fld := ⟨0x100044, 0x0, 0, 0, 1⟩
def F.HALL_LINE_SEL_BUNDLE : Fld := ⟨0x100080, 0x0, 0, 16, 9⟩
def F.HALL_LINE_SEL_LINE : Fld := ⟨0x100080, 0x0, 0, 0, 5⟩
def F.HALL_LINE_INFO_ROLE : Fld := ⟨0x100084, 0x0, 0, 29, 3⟩
def F.HALL_LINE_INFO_LOGICAL : Fld := ⟨0x100084, 0x0, 0, 24, 5⟩
def F.HALL_LINE_INFO_MARGIN : Fld := ⟨0x100084, 0x0, 0, 16, 8⟩
def F.HALL_LINE_REJECTS : Fld := ⟨0x100088, 0x0, 0, 0, 32⟩
def F.HALL_LINE_HIST : Fld := ⟨0x10008C, 0x0, 0, 0, 16⟩
def F.HALL_LATCH_SEL_ENDPOINT : Fld := ⟨0x1000A0, 0x0, 0, 24, 5⟩
def F.HALL_LATCH_SEL_LATCH : Fld := ⟨0x1000A0, 0x0, 0, 0, 9⟩
def F.HALL_LATCH_INFO_PARKED : Fld := ⟨0x1000A4, 0x0, 0, 31, 1⟩
def F.HALL_LATCH_INFO_RETIRED : Fld := ⟨0x1000A4, 0x0, 0, 30, 1⟩
def F.HALL_LATCH_INFO_CORRIDOR : Fld := ⟨0x1000A4, 0x0, 0, 16, 9⟩
def F.HALL_LATCH_INFO_LOGICAL : Fld := ⟨0x1000A4, 0x0, 0, 8, 5⟩
def F.HALL_LATCH_INFO_LINE : Fld := ⟨0x1000A4, 0x0, 0, 0, 5⟩
def F.HALL_BSTATE_STATE : Fld := ⟨0x101000, 0x0, 4, 29, 3⟩
def F.HALL_BSTATE_SPARES : Fld := ⟨0x101000, 0x0, 4, 27, 2⟩
def F.HALL_BSTATE_FOLD_DECL : Fld := ⟨0x101000, 0x0, 4, 25, 2⟩
def F.HALL_BSTATE_LIVE : Fld := ⟨0x101000, 0x0, 4, 20, 5⟩
def F.HALL_BSTATE_FOLDED : Fld := ⟨0x101000, 0x0, 4, 17, 3⟩
def F.HALL_BSTATE_NARROW : Fld := ⟨0x101000, 0x0, 4, 16, 1⟩
def F.HALL_BSTATE_EPOCH : Fld := ⟨0x101000, 0x0, 4, 0, 16⟩
def F.HALL_MAP0_ROLES : Fld := ⟨0x102000, 0x0, 16, 0, 30⟩
def F.HALL_MAP1_ROLES : Fld := ⟨0x102004, 0x0, 16, 0, 30⟩
def F.HALL_MAP2_ROLES : Fld := ⟨0x102008, 0x0, 16, 0, 30⟩
def F.HALL_MAP3_CHECK : Fld := ⟨0x10200C, 0x0, 16, 0, 32⟩
def F.HALL_SRC_STATE : Fld := ⟨0x108000, 0x0, 4, 29, 3⟩
def F.HALL_SRC_GROUP : Fld := ⟨0x108000, 0x0, 4, 24, 5⟩
def F.HALL_SRC_DRIVE : Fld := ⟨0x108000, 0x0, 4, 16, 8⟩
def F.HALL_SRC_FADE : Fld := ⟨0x108000, 0x0, 4, 8, 8⟩
def F.HALL_SRC_AT_MAX : Fld := ⟨0x108000, 0x0, 4, 7, 1⟩
def F.HALL_SRC_RAISED : Fld := ⟨0x108000, 0x0, 4, 6, 1⟩
def F.HALL_LASER_CTL_GROUP : Fld := ⟨0x108100, 0x0, 0, 8, 5⟩
def F.HALL_LASER_CTL_SWAP : Fld := ⟨0x108100, 0x0, 0, 0, 1⟩
def F.HALL_LASER_STATUS_SPARES_LB0 : Fld := ⟨0x108104, 0x0, 0, 2, 2⟩
def F.HALL_LASER_STATUS_SPARES_LB1 : Fld := ⟨0x108104, 0x0, 0, 0, 2⟩
def F.HALL_GROUP_ALERT_NO_SPARE : Fld := ⟨0x108108, 0x0, 0, 0, 26⟩
def F.HALL_LASER_INT_STATUS_SOURCE_LOST : Fld := ⟨0x108110, 0x0, 0, 5, 1⟩
def F.HALL_LASER_INT_STATUS_NO_SPARE : Fld := ⟨0x108110, 0x0, 0, 4, 1⟩
def F.HALL_LASER_INT_STATUS_WARM_FAIL : Fld := ⟨0x108110, 0x0, 0, 3, 1⟩
def F.HALL_LASER_INT_STATUS_SWAPPED : Fld := ⟨0x108110, 0x0, 0, 2, 1⟩
def F.HALL_LASER_INT_STATUS_SPARE_READY : Fld := ⟨0x108110, 0x0, 0, 1, 1⟩
def F.HALL_LASER_INT_STATUS_DRIVE_RAISED : Fld := ⟨0x108110, 0x0, 0, 0, 1⟩
def F.HALL_LASER_INT_EN_SOURCE_LOST : Fld := ⟨0x108114, 0x0, 0, 5, 1⟩
def F.HALL_LASER_INT_EN_NO_SPARE : Fld := ⟨0x108114, 0x0, 0, 4, 1⟩
def F.HALL_LASER_INT_EN_WARM_FAIL : Fld := ⟨0x108114, 0x0, 0, 3, 1⟩
def F.HALL_LASER_INT_EN_SWAPPED : Fld := ⟨0x108114, 0x0, 0, 2, 1⟩
def F.HALL_LASER_INT_EN_SPARE_READY : Fld := ⟨0x108114, 0x0, 0, 1, 1⟩
def F.HALL_LASER_INT_EN_DRIVE_RAISED : Fld := ⟨0x108114, 0x0, 0, 0, 1⟩
def F.HALL_LASER_SWAPS : Fld := ⟨0x108118, 0x0, 0, 0, 32⟩
def F.HALL_RING_WRONG : Fld := ⟨0x109008, 0x0, 0, 0, 32⟩
def F.HALL_RELOCKS : Fld := ⟨0x109010, 0x0, 0, 0, 32⟩
def F.HALL_REACQUIRES : Fld := ⟨0x109014, 0x0, 0, 0, 32⟩
def F.HALL_RINGS_RETIRED : Fld := ⟨0x109018, 0x0, 0, 0, 16⟩
def F.HALL_SEED_NOTONE : Fld := ⟨0x109100, 0x0, 0, 0, 32⟩
def F.HALL_SLEW_EXCEED : Fld := ⟨0x109204, 0x0, 0, 0, 32⟩
def F.HALL_RING_SEL_KIND : Fld := ⟨0x109000, 0x0, 0, 31, 1⟩
def F.HALL_RING_SEL_UNIT : Fld := ⟨0x109000, 0x0, 0, 22, 9⟩
def F.HALL_RING_SEL_INDEX : Fld := ⟨0x109000, 0x0, 0, 0, 9⟩
def F.HALL_RING_INFO_STATE : Fld := ⟨0x109004, 0x0, 0, 29, 3⟩
def F.HALL_RING_INFO_LINE : Fld := ⟨0x109004, 0x0, 0, 24, 5⟩
def F.HALL_RING_INFO_WRONG_WIN : Fld := ⟨0x109004, 0x0, 0, 22, 2⟩
def F.HALL_RING_INFO_RETABLE : Fld := ⟨0x109004, 0x0, 0, 21, 1⟩
def F.HALL_RING_INFO_HEATER : Fld := ⟨0x109004, 0x0, 0, 0, 16⟩
def F.HALL_RING_CORR_CORR : Fld := ⟨0x10900C, 0x0, 0, 0, 16⟩
def F.HALL_SLEW_FALL : Fld := ⟨0x109200, 0x0, 0, 16, 5⟩
def F.HALL_SLEW_RISE : Fld := ⟨0x109200, 0x0, 0, 0, 5⟩

/-! Fields of the CEL block. -/

def F.CEL_ID_SUPPLIER : Fld := ⟨0x600000, 0x20000, 0, 24, 8⟩
def F.CEL_ID_STACK_REV : Fld := ⟨0x600000, 0x20000, 0, 16, 8⟩
def F.CEL_ID_SPEC_REV : Fld := ⟨0x600000, 0x20000, 0, 8, 8⟩
def F.CEL_ID_STACK : Fld := ⟨0x600000, 0x20000, 0, 0, 4⟩
def F.CEL_STATUS_STATE : Fld := ⟨0x600004, 0x20000, 0, 29, 3⟩
def F.CEL_STATUS_BAND : Fld := ⟨0x600004, 0x20000, 0, 27, 2⟩
def F.CEL_STATUS_REFRESH : Fld := ⟨0x600004, 0x20000, 0, 25, 2⟩
def F.CEL_STATUS_RETIRED : Fld := ⟨0x600004, 0x20000, 0, 0, 7⟩
def F.CEL_RETIRED_LO : Fld := ⟨0x600008, 0x20000, 0, 0, 32⟩
def F.CEL_RETIRED_HI : Fld := ⟨0x60000C, 0x20000, 0, 0, 32⟩
def F.CEL_CE_OVF_LO : Fld := ⟨0x600010, 0x20000, 0, 0, 32⟩
def F.CEL_CE_OVF_HI : Fld := ⟨0x600014, 0x20000, 0, 0, 32⟩
def F.CEL_TXLATE : Fld := ⟨0x600018, 0x20000, 0, 0, 32⟩
def F.CEL_REQ_BUSY : Fld := ⟨0x60001C, 0x20000, 0, 0, 32⟩
def F.CEL_SLICE_CORR : Fld := ⟨0x600034, 0x20000, 0, 0, 32⟩
def F.CEL_SLICE_UNCORR : Fld := ⟨0x600038, 0x20000, 0, 0, 32⟩
def F.CEL_SCRUB_FIRST : Fld := ⟨0x600110, 0x20000, 0, 0, 24⟩
def F.CEL_SCRUB_LAST : Fld := ⟨0x600114, 0x20000, 0, 0, 24⟩
def F.CEL_SCRUB_MASK_LO : Fld := ⟨0x600108, 0x20000, 0, 0, 32⟩
def F.CEL_SCRUB_MASK_HI : Fld := ⟨0x60010C, 0x20000, 0, 0, 32⟩
def F.CEL_SCRUB_SUM : Fld := ⟨0x600120, 0x20000, 4, 0, 32⟩
def F.CEL_INVAL_MASK_LO : Fld := ⟨0x600208, 0x20000, 0, 0, 32⟩
def F.CEL_INVAL_MASK_HI : Fld := ⟨0x60020C, 0x20000, 0, 0, 32⟩
def F.CEL_INVAL_FIRST : Fld := ⟨0x600210, 0x20000, 0, 0, 18⟩
def F.CEL_INVAL_LAST : Fld := ⟨0x600214, 0x20000, 0, 0, 18⟩
def F.CEL_VALID_PAGES : Fld := ⟨0x600218, 0x20000, 0, 0, 24⟩
def F.CEL_SOA_TREES : Fld := ⟨0x600300, 0x20000, 0, 0, 11⟩
def F.CEL_SOA_SAT : Fld := ⟨0x600304, 0x20000, 0, 0, 32⟩
def F.CEL_SOA_HUSK : Fld := ⟨0x600308, 0x20000, 0, 0, 32⟩
def F.CEL_SOA_HWM : Fld := ⟨0x60030C, 0x20000, 0, 0, 9⟩
def F.CEL_CE_CTL_LEAK : Fld := ⟨0x600020, 0x20000, 0, 16, 16⟩
def F.CEL_CE_CTL_DEPTH : Fld := ⟨0x600020, 0x20000, 0, 0, 8⟩
def F.CEL_SLICE_SEL_SLICE : Fld := ⟨0x600030, 0x20000, 0, 0, 6⟩
def F.CEL_SLICE_INFO_RETIRED : Fld := ⟨0x60003C, 0x20000, 0, 31, 1⟩
def F.CEL_SLICE_INFO_LEVEL : Fld := ⟨0x60003C, 0x20000, 0, 16, 8⟩
def F.CEL_SLICE_INFO_OVF_COUNT : Fld := ⟨0x60003C, 0x20000, 0, 0, 16⟩
def F.CEL_INT_STATUS_INVAL_DONE : Fld := ⟨0x600050, 0x20000, 0, 5, 1⟩
def F.CEL_INT_STATUS_TRAIN_FAIL : Fld := ⟨0x600050, 0x20000, 0, 4, 1⟩
def F.CEL_INT_STATUS_SLICE_RETIRED : Fld := ⟨0x600050, 0x20000, 0, 3, 1⟩
def F.CEL_INT_STATUS_SCRUB_DONE : Fld := ⟨0x600050, 0x20000, 0, 2, 1⟩
def F.CEL_INT_STATUS_UNCORR : Fld := ⟨0x600050, 0x20000, 0, 1, 1⟩
def F.CEL_INT_STATUS_CE_OVF : Fld := ⟨0x600050, 0x20000, 0, 0, 1⟩
def F.CEL_INT_EN_INVAL_DONE : Fld := ⟨0x600054, 0x20000, 0, 5, 1⟩
def F.CEL_INT_EN_TRAIN_FAIL : Fld := ⟨0x600054, 0x20000, 0, 4, 1⟩
def F.CEL_INT_EN_SLICE_RETIRED : Fld := ⟨0x600054, 0x20000, 0, 3, 1⟩
def F.CEL_INT_EN_SCRUB_DONE : Fld := ⟨0x600054, 0x20000, 0, 2, 1⟩
def F.CEL_INT_EN_UNCORR : Fld := ⟨0x600054, 0x20000, 0, 1, 1⟩
def F.CEL_INT_EN_CE_OVF : Fld := ⟨0x600054, 0x20000, 0, 0, 1⟩
def F.CEL_SCRUB_CTL_SHARE : Fld := ⟨0x600100, 0x20000, 0, 2, 6⟩
def F.CEL_SCRUB_CTL_START : Fld := ⟨0x600100, 0x20000, 0, 0, 1⟩
def F.CEL_SCRUB_STATUS_REFUSED : Fld := ⟨0x600118, 0x20000, 0, 3, 1⟩
def F.CEL_SCRUB_STATUS_STATE : Fld := ⟨0x600118, 0x20000, 0, 0, 3⟩
def F.CEL_INVAL_CTL_STATUS : Fld := ⟨0x600200, 0x20000, 0, 4, 2⟩
def F.CEL_INVAL_CTL_START : Fld := ⟨0x600200, 0x20000, 0, 0, 1⟩

/-! Fields of the ROOM block. -/

def F.ROOM_STATUS_STATE : Fld := ⟨0xC00000, 0x10000, 0, 29, 3⟩
def F.ROOM_STATUS_CAUSE : Fld := ⟨0xC00000, 0x10000, 0, 26, 3⟩
def F.ROOM_STATUS_DEGRADED : Fld := ⟨0xC00000, 0x10000, 0, 25, 1⟩
def F.ROOM_STATUS_TRANSIT : Fld := ⟨0xC00000, 0x10000, 0, 24, 1⟩
def F.ROOM_STATUS_NARROW : Fld := ⟨0xC00000, 0x10000, 0, 23, 1⟩
def F.ROOM_STATUS_SLOT : Fld := ⟨0xC00000, 0x10000, 0, 10, 6⟩
def F.ROOM_STATUS_PHASE : Fld := ⟨0xC00000, 0x10000, 0, 6, 4⟩
def F.ROOM_CTL_AUTORUN : Fld := ⟨0xC00004, 0x10000, 0, 8, 1⟩
def F.ROOM_CTL_RESET : Fld := ⟨0xC00004, 0x10000, 0, 2, 1⟩
def F.ROOM_CTL_RESUME : Fld := ⟨0xC00004, 0x10000, 0, 1, 1⟩
def F.ROOM_CTL_HALT : Fld := ⟨0xC00004, 0x10000, 0, 0, 1⟩
def F.ROOM_SWITCH_SLOT : Fld := ⟨0xC00008, 0x10000, 0, 16, 6⟩
def F.ROOM_SWITCH_PHASE : Fld := ⟨0xC00008, 0x10000, 0, 8, 4⟩
def F.ROOM_SWITCH_GO : Fld := ⟨0xC00008, 0x10000, 0, 0, 1⟩
def F.ROOM_SWITCH_STATUS_LEFT : Fld := ⟨0xC0000C, 0x10000, 0, 16, 16⟩
def F.ROOM_SWITCH_STATUS_REASON : Fld := ⟨0xC0000C, 0x10000, 0, 4, 4⟩
def F.ROOM_SWITCH_STATUS_STATE : Fld := ⟨0xC0000C, 0x10000, 0, 0, 3⟩
def F.ROOM_RESETS_LAST_CAUSE : Fld := ⟨0xC00020, 0x10000, 0, 24, 8⟩
def F.ROOM_RESETS_COUNT : Fld := ⟨0xC00020, 0x10000, 0, 0, 16⟩
def F.ROOM_LIMITS_RESET_LIMIT : Fld := ⟨0xC00024, 0x10000, 0, 0, 8⟩
def F.ROOM_RESIDENT_LO : Fld := ⟨0xC00010, 0x10000, 0, 0, 32⟩
def F.ROOM_RESIDENT_HI : Fld := ⟨0xC00014, 0x10000, 0, 0, 32⟩
def F.ROOM_FILLED_LO : Fld := ⟨0xC00018, 0x10000, 0, 0, 32⟩
def F.ROOM_FILLED_HI : Fld := ⟨0xC0001C, 0x10000, 0, 0, 32⟩
def F.ROOM_SWITCHES : Fld := ⟨0xC00028, 0x10000, 0, 0, 32⟩
def F.ROOM_STATE_FRAME_LO : Fld := ⟨0xC00030, 0x10000, 0, 0, 32⟩
def F.ROOM_STATE_FRAME_HI : Fld := ⟨0xC00034, 0x10000, 0, 0, 16⟩
def F.ROOM_ROWS_T_ROWS : Fld := ⟨0xC00100, 0x10000, 4, 0, 16⟩
def F.ROOM_SLICES : Fld := ⟨0xC00200, 0x10000, 4, 0, 32⟩
def F.ROOM_INT_STATUS_REFUSED : Fld := ⟨0xC00040, 0x10000, 0, 5, 1⟩
def F.ROOM_INT_STATUS_RUNNING : Fld := ⟨0xC00040, 0x10000, 0, 4, 1⟩
def F.ROOM_INT_STATUS_RESET : Fld := ⟨0xC00040, 0x10000, 0, 3, 1⟩
def F.ROOM_INT_STATUS_HALTED : Fld := ⟨0xC00040, 0x10000, 0, 2, 1⟩
def F.ROOM_INT_STATUS_SWITCH_REFUSED : Fld := ⟨0xC00040, 0x10000, 0, 1, 1⟩
def F.ROOM_INT_STATUS_SWITCH_DONE : Fld := ⟨0xC00040, 0x10000, 0, 0, 1⟩
def F.ROOM_INT_EN_REFUSED : Fld := ⟨0xC00044, 0x10000, 0, 5, 1⟩
def F.ROOM_INT_EN_RUNNING : Fld := ⟨0xC00044, 0x10000, 0, 4, 1⟩
def F.ROOM_INT_EN_RESET : Fld := ⟨0xC00044, 0x10000, 0, 3, 1⟩
def F.ROOM_INT_EN_HALTED : Fld := ⟨0xC00044, 0x10000, 0, 2, 1⟩
def F.ROOM_INT_EN_SWITCH_REFUSED : Fld := ⟨0xC00044, 0x10000, 0, 1, 1⟩
def F.ROOM_INT_EN_SWITCH_DONE : Fld := ⟨0xC00044, 0x10000, 0, 0, 1⟩

/-! Fields of the QUE block. -/

def F.QUE_POOL_STATUS_FREE : Fld := ⟨0xA00000, 0x0, 0, 0, 18⟩
def F.QUE_POOL_CTL_RESERVE : Fld := ⟨0xA00004, 0x0, 0, 0, 17⟩
def F.QUE_Q_CFG_EN : Fld := ⟨0xA00104, 0x0, 0, 31, 1⟩
def F.QUE_Q_CFG_KIND : Fld := ⟨0xA00104, 0x0, 0, 28, 3⟩
def F.QUE_Q_CFG_ROOM : Fld := ⟨0xA00104, 0x0, 0, 24, 4⟩
def F.QUE_Q_CFG_SLOT : Fld := ⟨0xA00104, 0x0, 0, 18, 6⟩
def F.QUE_Q_CFG_MAX_PKT : Fld := ⟨0xA00104, 0x0, 0, 0, 16⟩
def F.QUE_Q_LIM_MAX_CELLS : Fld := ⟨0xA00108, 0x0, 0, 16, 16⟩
def F.QUE_Q_LIM_MIN_CELLS : Fld := ⟨0xA00108, 0x0, 0, 0, 16⟩
def F.QUE_POOL_LOW : Fld := ⟨0xA00008, 0x0, 0, 0, 18⟩
def F.QUE_BAD_DOORBELL : Fld := ⟨0xA00018, 0x0, 0, 0, 32⟩
def F.QUE_SEL : Fld := ⟨0xA00100, 0x0, 0, 0, 13⟩
def F.QUE_Q_RINGSZ : Fld := ⟨0xA0010C, 0x0, 0, 0, 5⟩
def F.QUE_Q_RING_LO : Fld := ⟨0xA00110, 0x0, 0, 12, 20⟩
def F.QUE_Q_RING_HI : Fld := ⟨0xA00114, 0x0, 0, 0, 32⟩
def F.QUE_Q_SHADOW_LO : Fld := ⟨0xA00118, 0x0, 0, 3, 29⟩
def F.QUE_Q_SHADOW_HI : Fld := ⟨0xA0011C, 0x0, 0, 0, 32⟩
def F.QUE_Q_VEC : Fld := ⟨0xA00120, 0x0, 0, 0, 11⟩
def F.QUE_Q_CELLS : Fld := ⟨0xA00124, 0x0, 0, 0, 17⟩
def F.QUE_Q_PACKETS : Fld := ⟨0xA00128, 0x0, 0, 0, 17⟩
def F.QUE_Q_GAP_COUNT : Fld := ⟨0xA0012C, 0x0, 0, 0, 32⟩
def F.QUE_Q_GAP_FRAME_LO : Fld := ⟨0xA00130, 0x0, 0, 0, 32⟩
def F.QUE_Q_GAP_FRAME_HI : Fld := ⟨0xA00134, 0x0, 0, 0, 16⟩
def F.QUE_Q_DROPS : Fld := ⟨0xA00138, 0x0, 0, 0, 32⟩
def F.QUE_Q_REWOUND : Fld := ⟨0xA0013C, 0x0, 0, 0, 32⟩
def F.QUE_Q_SEQ : Fld := ⟨0xA00140, 0x0, 0, 0, 32⟩
def F.QUE_INT_STATUS_RESERVE_HIT : Fld := ⟨0xA00010, 0x0, 0, 3, 1⟩
def F.QUE_INT_STATUS_REWIND : Fld := ⟨0xA00010, 0x0, 0, 2, 1⟩
def F.QUE_INT_STATUS_DROP : Fld := ⟨0xA00010, 0x0, 0, 1, 1⟩
def F.QUE_INT_STATUS_BAD_CFG : Fld := ⟨0xA00010, 0x0, 0, 0, 1⟩
def F.QUE_INT_EN_RESERVE_HIT : Fld := ⟨0xA00014, 0x0, 0, 3, 1⟩
def F.QUE_INT_EN_REWIND : Fld := ⟨0xA00014, 0x0, 0, 2, 1⟩
def F.QUE_INT_EN_DROP : Fld := ⟨0xA00014, 0x0, 0, 1, 1⟩
def F.QUE_INT_EN_BAD_CFG : Fld := ⟨0xA00014, 0x0, 0, 0, 1⟩

/-! Fields of the BIT block. -/

def F.BIT_CTL_ABORT : Fld := ⟨0xD00000, 0x0, 0, 1, 1⟩
def F.BIT_CTL_START : Fld := ⟨0xD00000, 0x0, 0, 0, 1⟩
def F.BIT_CFG_ROOM : Fld := ⟨0xD00004, 0x0, 0, 8, 4⟩
def F.BIT_CFG_KIND : Fld := ⟨0xD00004, 0x0, 0, 0, 2⟩
def F.BIT_SRC_LO : Fld := ⟨0xD00008, 0x0, 0, 6, 26⟩
def F.BIT_SRC_HI : Fld := ⟨0xD0000C, 0x0, 0, 0, 32⟩
def F.BIT_LEN : Fld := ⟨0xD00010, 0x0, 0, 6, 25⟩
def F.BIT_FAIL_STEP : Fld := ⟨0xD00028, 0x0, 0, 0, 32⟩
def F.BIT_FAIL_OFFSET : Fld := ⟨0xD0002C, 0x0, 0, 0, 32⟩
def F.BIT_RESULT_ID_LO : Fld := ⟨0xD00030, 0x0, 0, 0, 32⟩
def F.BIT_RESULT_ID_HI : Fld := ⟨0xD00034, 0x0, 0, 0, 32⟩
def F.BIT_STATUS_PROGRESS : Fld := ⟨0xD00020, 0x0, 0, 16, 16⟩
def F.BIT_STATUS_OWNER : Fld := ⟨0xD00020, 0x0, 0, 8, 5⟩
def F.BIT_STATUS_STATE : Fld := ⟨0xD00020, 0x0, 0, 0, 3⟩
def F.BIT_RESULT_STATUS : Fld := ⟨0xD00024, 0x0, 0, 24, 8⟩
def F.BIT_RESULT_STATE : Fld := ⟨0xD00024, 0x0, 0, 16, 3⟩
def F.BIT_RESULT_FAIL_SECTION : Fld := ⟨0xD00024, 0x0, 0, 0, 16⟩
def F.BIT_STORE_USED : Fld := ⟨0xD00040, 0x0, 0, 16, 16⟩
def F.BIT_STORE_CAPACITY : Fld := ⟨0xD00040, 0x0, 0, 0, 16⟩
def F.BIT_INT_STATUS_IMAGE_LOST : Fld := ⟨0xD00048, 0x0, 0, 2, 1⟩
def F.BIT_INT_STATUS_FAILED : Fld := ⟨0xD00048, 0x0, 0, 1, 1⟩
def F.BIT_INT_STATUS_TOOK_EFFECT : Fld := ⟨0xD00048, 0x0, 0, 0, 1⟩
def F.BIT_INT_EN_IMAGE_LOST : Fld := ⟨0xD0004C, 0x0, 0, 2, 1⟩
def F.BIT_INT_EN_FAILED : Fld := ⟨0xD0004C, 0x0, 0, 1, 1⟩
def F.BIT_INT_EN_TOOK_EFFECT : Fld := ⟨0xD0004C, 0x0, 0, 0, 1⟩
def F.BIT_ROOM_SRC_LO_ADDR : Fld := ⟨0xD00100, 0x0, 16, 6, 26⟩
def F.BIT_ROOM_SRC_LO_KIND : Fld := ⟨0xD00100, 0x0, 16, 0, 2⟩
def F.BIT_ROOM_SRC_HI : Fld := ⟨0xD00104, 0x0, 16, 0, 32⟩
def F.BIT_ROOM_LEN_LEN : Fld := ⟨0xD00108, 0x0, 16, 6, 25⟩
def F.BIT_ROOM_STATE_LOST : Fld := ⟨0xD0010C, 0x0, 16, 31, 1⟩
def F.BIT_ROOM_STATE_FUNC : Fld := ⟨0xD0010C, 0x0, 16, 4, 5⟩
def F.BIT_ROOM_STATE_RETRY : Fld := ⟨0xD0010C, 0x0, 16, 0, 1⟩

/-! Fields of the PCH block. -/

def F.PCH_NODE_SX : Fld := ⟨0x800004, 0x100000, 0, 24, 4⟩
def F.PCH_NODE_SY : Fld := ⟨0x800004, 0x100000, 0, 20, 4⟩
def F.PCH_NODE_SZ : Fld := ⟨0x800004, 0x100000, 0, 16, 4⟩
def F.PCH_NODE_NODE_ID : Fld := ⟨0x800004, 0x100000, 0, 0, 12⟩
def F.PCH_FAB_CTL_WINDOW : Fld := ⟨0x800008, 0x100000, 0, 28, 4⟩
def F.PCH_FAB_CTL_RTO_BASE : Fld := ⟨0x800008, 0x100000, 0, 20, 8⟩
def F.PCH_FAB_CTL_RETX_LIMIT : Fld := ⟨0x800008, 0x100000, 0, 14, 6⟩
def F.PCH_FAB_CTL_RTO_MAX : Fld := ⟨0x800008, 0x100000, 0, 0, 8⟩
def F.PCH_MGMT_EN : Fld := ⟨0x80000C, 0x100000, 0, 31, 1⟩
def F.PCH_MGMT_NODE : Fld := ⟨0x80000C, 0x100000, 0, 0, 12⟩
def F.PCH_THROTTLE_HI : Fld := ⟨0x800020, 0x100000, 0, 16, 16⟩
def F.PCH_THROTTLE_LO : Fld := ⟨0x800020, 0x100000, 0, 0, 16⟩
def F.PCH_ID_REV : Fld := ⟨0x800000, 0x100000, 0, 8, 8⟩
def F.PCH_ID_DIE : Fld := ⟨0x800000, 0x100000, 0, 0, 1⟩
def F.PCH_ROUTE_EPOCH : Fld := ⟨0x800010, 0x100000, 0, 0, 32⟩
def F.PCH_BREAK_X_BREAK_X : Fld := ⟨0x800014, 0x100000, 0, 0, 16⟩
def F.PCH_BREAK_Y_BREAK_X : Fld := ⟨0x800018, 0x100000, 0, 0, 16⟩
def F.PCH_BREAK_Z_BREAK_X : Fld := ⟨0x80001C, 0x100000, 0, 0, 16⟩
def F.PCH_CMAP_CTL_SHIFT : Fld := ⟨0x800024, 0x100000, 0, 0, 4⟩
def F.PCH_TICK_SNAP_HI_EN : Fld := ⟨0x80002C, 0x100000, 0, 31, 1⟩
def F.PCH_TICK_SNAP_HI : Fld := ⟨0x80002C, 0x100000, 0, 0, 16⟩
def F.PCH_TICK_SNAP_LO : Fld := ⟨0x800028, 0x100000, 0, 0, 32⟩
def F.PCH_WIN_ACTIVE : Fld := ⟨0x800040, 0x100000, 0, 0, 12⟩
def F.PCH_WIN_FAILED : Fld := ⟨0x800044, 0x100000, 0, 0, 32⟩
def F.PCH_RETX : Fld := ⟨0x800048, 0x100000, 0, 0, 32⟩
def F.PCH_MSG_LOST : Fld := ⟨0x80004C, 0x100000, 0, 0, 32⟩
def F.PCH_MSG_DENY : Fld := ⟨0x800050, 0x100000, 0, 0, 32⟩
def F.PCH_INJ_DROP : Fld := ⟨0x800054, 0x100000, 0, 0, 32⟩
def F.PCH_UNREACH : Fld := ⟨0x800058, 0x100000, 0, 0, 32⟩
def F.PCH_DEAD_LINK_DROP : Fld := ⟨0x80005C, 0x100000, 0, 0, 32⟩
def F.PCH_THROTTLED : Fld := ⟨0x800060, 0x100000, 0, 0, 32⟩
def F.PCH_BAD_PKT : Fld := ⟨0x800064, 0x100000, 0, 0, 32⟩
def F.PCH_MGMT_DENY : Fld := ⟨0x800068, 0x100000, 0, 0, 32⟩
def F.PCH_INT_STATUS_TGT_CFG : Fld := ⟨0x800030, 0x100000, 0, 8, 1⟩
def F.PCH_INT_STATUS_INJ_DROP : Fld := ⟨0x800030, 0x100000, 0, 7, 1⟩
def F.PCH_INT_STATUS_MSG_DENY : Fld := ⟨0x800030, 0x100000, 0, 6, 1⟩
def F.PCH_INT_STATUS_WIN_FAILED : Fld := ⟨0x800030, 0x100000, 0, 5, 1⟩
def F.PCH_INT_STATUS_BREAK : Fld := ⟨0x800030, 0x100000, 0, 4, 1⟩
def F.PCH_INT_STATUS_SAFE : Fld := ⟨0x800030, 0x100000, 0, 3, 1⟩
def F.PCH_INT_STATUS_LANE_RETIRED : Fld := ⟨0x800030, 0x100000, 0, 2, 1⟩
def F.PCH_INT_STATUS_PORT_DOWN : Fld := ⟨0x800030, 0x100000, 0, 1, 1⟩
def F.PCH_INT_STATUS_PORT_UP : Fld := ⟨0x800030, 0x100000, 0, 0, 1⟩
def F.PCH_INT_EN_TGT_CFG : Fld := ⟨0x800034, 0x100000, 0, 8, 1⟩
def F.PCH_INT_EN_INJ_DROP : Fld := ⟨0x800034, 0x100000, 0, 7, 1⟩
def F.PCH_INT_EN_MSG_DENY : Fld := ⟨0x800034, 0x100000, 0, 6, 1⟩
def F.PCH_INT_EN_WIN_FAILED : Fld := ⟨0x800034, 0x100000, 0, 5, 1⟩
def F.PCH_INT_EN_BREAK : Fld := ⟨0x800034, 0x100000, 0, 4, 1⟩
def F.PCH_INT_EN_SAFE : Fld := ⟨0x800034, 0x100000, 0, 3, 1⟩
def F.PCH_INT_EN_LANE_RETIRED : Fld := ⟨0x800034, 0x100000, 0, 2, 1⟩
def F.PCH_INT_EN_PORT_DOWN : Fld := ⟨0x800034, 0x100000, 0, 1, 1⟩
def F.PCH_INT_EN_PORT_UP : Fld := ⟨0x800034, 0x100000, 0, 0, 1⟩
def F.PCH_PORT_CTL_LANE : Fld := ⟨0x800100, 0x100000, 64, 8, 4⟩
def F.PCH_PORT_CTL_RESET : Fld := ⟨0x800100, 0x100000, 64, 3, 1⟩
def F.PCH_PORT_CTL_RETIRE : Fld := ⟨0x800100, 0x100000, 64, 2, 1⟩
def F.PCH_PORT_CTL_RETRAIN : Fld := ⟨0x800100, 0x100000, 64, 1, 1⟩
def F.PCH_PORT_CTL_EN : Fld := ⟨0x800100, 0x100000, 64, 0, 1⟩
def F.PCH_PORT_STATUS_STATE : Fld := ⟨0x800104, 0x100000, 64, 29, 3⟩
def F.PCH_PORT_STATUS_CAUSE : Fld := ⟨0x800104, 0x100000, 64, 25, 4⟩
def F.PCH_PORT_STATUS_NEIGHBOUR : Fld := ⟨0x800104, 0x100000, 64, 0, 12⟩
def F.PCH_PORT_LANES_RETIRED : Fld := ⟨0x800108, 0x100000, 64, 16, 16⟩
def F.PCH_PORT_LANES_LIVE : Fld := ⟨0x800108, 0x100000, 64, 0, 16⟩
def F.PCH_PORT_DELAY : Fld := ⟨0x80010C, 0x100000, 64, 0, 16⟩
def F.PCH_PORT_FEC_CORR : Fld := ⟨0x800110, 0x100000, 64, 0, 32⟩
def F.PCH_PORT_FEC_UNCORR : Fld := ⟨0x800114, 0x100000, 64, 0, 32⟩
def F.PCH_PORT_REPLAYS : Fld := ⟨0x800118, 0x100000, 64, 0, 32⟩
def F.PCH_PORT_TICK_IGN : Fld := ⟨0x80011C, 0x100000, 64, 0, 32⟩
def F.PCH_MC_SEL : Fld := ⟨0x800400, 0x100000, 0, 0, 10⟩
def F.PCH_MC_CFG_N : Fld := ⟨0x800404, 0x100000, 0, 0, 7⟩
def F.PCH_MC_MEMBER_SEL : Fld := ⟨0x800408, 0x100000, 0, 0, 6⟩
def F.PCH_MC_MEMBER : Fld := ⟨0x80040C, 0x100000, 0, 0, 32⟩
def F.PCH_ALLOW_EN : Fld := ⟨0x800600, 0x100000, 4, 31, 1⟩
def F.PCH_ALLOW_MASK : Fld := ⟨0x800600, 0x100000, 4, 16, 12⟩
def F.PCH_ALLOW_VALUE : Fld := ⟨0x800600, 0x100000, 4, 0, 12⟩
def F.PCH_JOB_EN : Fld := ⟨0x801000, 0x100000, 4, 31, 1⟩
def F.PCH_JOB : Fld := ⟨0x801000, 0x100000, 4, 0, 16⟩
def F.PCH_WIN_CFG_VALID : Fld := ⟨0x801104, 0x100000, 0, 31, 1⟩
def F.PCH_WIN_CFG_KEYED : Fld := ⟨0x801104, 0x100000, 0, 30, 1⟩
def F.PCH_WIN_CFG_R : Fld := ⟨0x801104, 0x100000, 0, 29, 1⟩
def F.PCH_WIN_CFG_W : Fld := ⟨0x801104, 0x100000, 0, 28, 1⟩
def F.PCH_WIN_CFG_A : Fld := ⟨0x801104, 0x100000, 0, 27, 1⟩
def F.PCH_WIN_CFG_ROOM : Fld := ⟨0x801104, 0x100000, 0, 16, 4⟩
def F.PCH_WIN_CFG_WINDOW : Fld := ⟨0x801104, 0x100000, 0, 0, 12⟩
def F.PCH_KEY_CFG_VALID : Fld := ⟨0x801204, 0x100000, 0, 31, 1⟩
def F.PCH_KEY_CFG_MODE : Fld := ⟨0x801204, 0x100000, 0, 28, 2⟩
def F.PCH_KEY_CFG_WIN : Fld := ⟨0x801204, 0x100000, 0, 0, 12⟩
def F.PCH_WIN_SEL : Fld := ⟨0x801100, 0x100000, 0, 0, 12⟩
def F.PCH_WIN_JOB : Fld := ⟨0x801108, 0x100000, 0, 0, 16⟩
def F.PCH_WIN_NODE_MASK : Fld := ⟨0x80110C, 0x100000, 0, 16, 12⟩
def F.PCH_WIN_NODE_VALUE : Fld := ⟨0x80110C, 0x100000, 0, 0, 12⟩
def F.PCH_WIN_BASE_LO : Fld := ⟨0x801110, 0x100000, 0, 12, 20⟩
def F.PCH_WIN_BASE_HI : Fld := ⟨0x801114, 0x100000, 0, 0, 8⟩
def F.PCH_WIN_SIZE_LO : Fld := ⟨0x801118, 0x100000, 0, 12, 20⟩
def F.PCH_WIN_SIZE_HI : Fld := ⟨0x80111C, 0x100000, 0, 0, 8⟩
def F.PCH_KEY_SEL : Fld := ⟨0x801200, 0x100000, 0, 0, 12⟩
def F.PCH_KEY_OWNER_JOB : Fld := ⟨0x801208, 0x100000, 0, 16, 16⟩
def F.PCH_KEY_OWNER_NODE : Fld := ⟨0x801208, 0x100000, 0, 0, 12⟩
def F.PCH_KEY_START : Fld := ⟨0x80120C, 0x100000, 0, 0, 24⟩
def F.PCH_KEY_LEN : Fld := ⟨0x801210, 0x100000, 0, 0, 24⟩
def F.PCH_KEY_VERSION : Fld := ⟨0x801214, 0x100000, 0, 0, 16⟩
def F.PCH_PSB_USED : Fld := ⟨0x801300, 0x100000, 0, 0, 15⟩
def F.PCH_PSB_HWM : Fld := ⟨0x801304, 0x100000, 0, 0, 15⟩
def F.PCH_PSB_EXPIRED : Fld := ⟨0x801308, 0x100000, 0, 0, 32⟩
def F.PCH_PSB_RETRACTED : Fld := ⟨0x80130C, 0x100000, 0, 0, 32⟩
def F.PCH_TGT_DONE : Fld := ⟨0x801310, 0x100000, 0, 0, 32⟩
def F.PCH_TGT_REFUSED : Fld := ⟨0x801314, 0x100000, 0, 0, 32⟩
def F.PCH_TGT_TIMEOUT : Fld := ⟨0x801318, 0x100000, 0, 0, 32⟩
def F.PCH_OP_LOST : Fld := ⟨0x80131C, 0x100000, 0, 0, 32⟩
def F.PCH_FENCE_ROUTE : Fld := ⟨0x801320, 0x100000, 0, 0, 32⟩
def F.PCH_KEY_BAD : Fld := ⟨0x801324, 0x100000, 0, 0, 32⟩

/-! Fields of the ERR block. -/

def F.ERR_INT_STATUS_INJECT_DONE : Fld := ⟨0x20000, 0x0, 0, 7, 1⟩
def F.ERR_INT_STATUS_OUTBOUND : Fld := ⟨0x20000, 0x0, 0, 6, 1⟩
def F.ERR_INT_STATUS_XCHECK : Fld := ⟨0x20000, 0x0, 0, 5, 1⟩
def F.ERR_INT_STATUS_CONTAINMENT : Fld := ⟨0x20000, 0x0, 0, 4, 1⟩
def F.ERR_INT_STATUS_PERMANENT : Fld := ⟨0x20000, 0x0, 0, 3, 1⟩
def F.ERR_INT_STATUS_LOG_OVF : Fld := ⟨0x20000, 0x0, 0, 2, 1⟩
def F.ERR_INT_STATUS_LOG_FILL : Fld := ⟨0x20000, 0x0, 0, 1, 1⟩
def F.ERR_INT_STATUS_LOG_NEW : Fld := ⟨0x20000, 0x0, 0, 0, 1⟩
def F.ERR_INT_EN_INJECT_DONE : Fld := ⟨0x20004, 0x0, 0, 7, 1⟩
def F.ERR_INT_EN_OUTBOUND : Fld := ⟨0x20004, 0x0, 0, 6, 1⟩
def F.ERR_INT_EN_XCHECK : Fld := ⟨0x20004, 0x0, 0, 5, 1⟩
def F.ERR_INT_EN_CONTAINMENT : Fld := ⟨0x20004, 0x0, 0, 4, 1⟩
def F.ERR_INT_EN_PERMANENT : Fld := ⟨0x20004, 0x0, 0, 3, 1⟩
def F.ERR_INT_EN_LOG_OVF : Fld := ⟨0x20004, 0x0, 0, 2, 1⟩
def F.ERR_INT_EN_LOG_FILL : Fld := ⟨0x20004, 0x0, 0, 1, 1⟩
def F.ERR_INT_EN_LOG_NEW : Fld := ⟨0x20004, 0x0, 0, 0, 1⟩
def F.ERR_SUMMARY_CAL : Fld := ⟨0x20008, 0x0, 0, 20, 1⟩
def F.ERR_SUMMARY_CEL : Fld := ⟨0x20008, 0x0, 0, 8, 12⟩
def F.ERR_SUMMARY_GLB : Fld := ⟨0x20008, 0x0, 0, 7, 1⟩
def F.ERR_SUMMARY_SEC : Fld := ⟨0x20008, 0x0, 0, 6, 1⟩
def F.ERR_SUMMARY_PCH : Fld := ⟨0x20008, 0x0, 0, 4, 2⟩
def F.ERR_SUMMARY_BIT : Fld := ⟨0x20008, 0x0, 0, 3, 1⟩
def F.ERR_SUMMARY_QUE : Fld := ⟨0x20008, 0x0, 0, 2, 1⟩
def F.ERR_SUMMARY_HALL : Fld := ⟨0x20008, 0x0, 0, 1, 1⟩
def F.ERR_SUMMARY_ERR : Fld := ⟨0x20008, 0x0, 0, 0, 1⟩
def F.ERR_LOG_CTL_FILL_LVL : Fld := ⟨0x20018, 0x0, 0, 0, 11⟩
def F.ERR_POLICY_HITS_IN_FORCE : Fld := ⟨0x20100, 0x0, 4, 24, 5⟩
def F.ERR_POLICY_CONSEC_IN_FORCE : Fld := ⟨0x20100, 0x0, 4, 16, 4⟩
def F.ERR_POLICY_HITS : Fld := ⟨0x20100, 0x0, 4, 8, 5⟩
def F.ERR_POLICY_CONSEC : Fld := ⟨0x20100, 0x0, 4, 0, 4⟩
def F.ERR_HIST_SEL_CLASS : Fld := ⟨0x20180, 0x0, 0, 28, 4⟩
def F.ERR_HIST_SEL_INDEX : Fld := ⟨0x20180, 0x0, 0, 0, 16⟩
def F.ERR_HIST_PERMANENT : Fld := ⟨0x20184, 0x0, 0, 31, 1⟩
def F.ERR_HIST_RUN : Fld := ⟨0x20184, 0x0, 0, 24, 4⟩
def F.ERR_HIST : Fld := ⟨0x20184, 0x0, 0, 0, 16⟩
def F.ERR_XCHK_CTL_EN : Fld := ⟨0x20300, 0x0, 0, 31, 1⟩
def F.ERR_XCHK_CTL_FMT : Fld := ⟨0x20300, 0x0, 0, 20, 4⟩
def F.ERR_XCHK_CTL_PERIOD : Fld := ⟨0x20300, 0x0, 0, 0, 16⟩
def F.ERR_XCHK_STATUS_ROWS : Fld := ⟨0x20304, 0x0, 0, 16, 8⟩
def F.ERR_XCHK_STATUS_ROUND : Fld := ⟨0x20304, 0x0, 0, 0, 16⟩
def F.ERR_INJ_CTL_ALLOW : Fld := ⟨0x20600, 0x0, 0, 31, 1⟩
def F.ERR_INJ_CTL_NOCOUNT : Fld := ⟨0x20600, 0x0, 0, 30, 1⟩
def F.ERR_INJ_CTL_KIND : Fld := ⟨0x20600, 0x0, 0, 24, 4⟩
def F.ERR_INJ_CTL_COUNT : Fld := ⟨0x20600, 0x0, 0, 8, 16⟩
def F.ERR_INJ_CTL_DISARM : Fld := ⟨0x20600, 0x0, 0, 1, 1⟩
def F.ERR_INJ_CTL_ARM : Fld := ⟨0x20600, 0x0, 0, 0, 1⟩
def F.ERR_INJ_TARGET_SRC_KIND : Fld := ⟨0x20604, 0x0, 0, 28, 4⟩
def F.ERR_INJ_TARGET_INDEX : Fld := ⟨0x20604, 0x0, 0, 0, 16⟩
def F.ERR_INJ_STATUS_LEFT : Fld := ⟨0x20618, 0x0, 0, 16, 16⟩
def F.ERR_INJ_STATUS_STATE : Fld := ⟨0x20618, 0x0, 0, 0, 3⟩
def F.ERR_LOG_PROD : Fld := ⟨0x20010, 0x0, 0, 0, 32⟩
def F.ERR_LOG_CONS : Fld := ⟨0x20014, 0x0, 0, 0, 32⟩
def F.ERR_LOG_LOST : Fld := ⟨0x2001C, 0x0, 0, 0, 32⟩
def F.ERR_XCHK_FAIL : Fld := ⟨0x20308, 0x0, 0, 0, 32⟩
def F.ERR_XCHK_ORPHAN : Fld := ⟨0x2030C, 0x0, 0, 0, 32⟩
def F.ERR_OUTBOUND_FAIL : Fld := ⟨0x20310, 0x0, 0, 0, 32⟩
def F.ERR_OVF_COUNT : Fld := ⟨0x20400, 0x0, 16, 0, 32⟩
def F.ERR_OVF_FRAME_LO : Fld := ⟨0x20404, 0x0, 16, 0, 32⟩
def F.ERR_OVF_FRAME_HI : Fld := ⟨0x20408, 0x0, 16, 0, 16⟩
def F.ERR_INJ_ADDR : Fld := ⟨0x20608, 0x0, 0, 0, 32⟩
def F.ERR_INJ_FRAME_HI_MATCH_EN : Fld := ⟨0x20614, 0x0, 0, 31, 1⟩
def F.ERR_INJ_FRAME_HI : Fld := ⟨0x20614, 0x0, 0, 0, 16⟩
def F.ERR_INJ_FRAME_LO : Fld := ⟨0x20610, 0x0, 0, 0, 32⟩
def F.ERR_LOG_ENTRY : Fld := ⟨0x28000, 0x0, 4, 0, 32⟩

/-! Fields of the PWR block. -/

def F.PWR_STATUS_LIMIT_SRC : Fld := ⟨0x60000, 0x0, 0, 30, 2⟩
def F.PWR_STATUS_IDLE_K : Fld := ⟨0x60000, 0x0, 0, 27, 3⟩
def F.PWR_STATUS_CAP_UNATTAINABLE : Fld := ⟨0x60000, 0x0, 0, 26, 1⟩
def F.PWR_STATUS_AT_FLOOR : Fld := ⟨0x60000, 0x0, 0, 25, 1⟩
def F.PWR_STATUS_LIFE_INVALID : Fld := ⟨0x60000, 0x0, 0, 24, 1⟩
def F.PWR_STATUS_POWER : Fld := ⟨0x60000, 0x0, 0, 0, 16⟩
def F.PWR_CAP_CAP_W : Fld := ⟨0x60004, 0x0, 0, 0, 16⟩
def F.PWR_STAGGER_ALWAYS : Fld := ⟨0x60018, 0x0, 0, 31, 1⟩
def F.PWR_STAGGER_WAVES : Fld := ⟨0x60018, 0x0, 0, 16, 5⟩
def F.PWR_STAGGER_CYCLES : Fld := ⟨0x60018, 0x0, 0, 0, 8⟩
def F.PWR_CLK_STATUS_REFCLK_OK : Fld := ⟨0x60014, 0x0, 0, 31, 1⟩
def F.PWR_CLK_STATUS_HOLDOVER : Fld := ⟨0x60014, 0x0, 0, 30, 1⟩
def F.PWR_CLK_STATUS_RELOCKING : Fld := ⟨0x60014, 0x0, 0, 29, 1⟩
def F.PWR_CLK_STATUS_GUARD : Fld := ⟨0x60014, 0x0, 0, 0, 8⟩
def F.PWR_LEDGER_CTL_USED : Fld := ⟨0x6001C, 0x0, 0, 16, 16⟩
def F.PWR_LEDGER_CTL_SHIFT : Fld := ⟨0x6001C, 0x0, 0, 8, 4⟩
def F.PWR_LEDGER_CTL_FORGET : Fld := ⟨0x6001C, 0x0, 0, 0, 1⟩
def F.PWR_TOWER_POWER : Fld := ⟨0x60040, 0x0, 4, 16, 16⟩
def F.PWR_TOWER_BALLAST : Fld := ⟨0x60040, 0x0, 4, 8, 8⟩
def F.PWR_ROWFREQ_FREQ : Fld := ⟨0x60100, 0x0, 4, 24, 8⟩
def F.PWR_ROWFREQ_FMAX : Fld := ⟨0x60100, 0x0, 4, 16, 8⟩
def F.PWR_ROWFREQ_FREQ_REQ : Fld := ⟨0x60100, 0x0, 4, 8, 8⟩
def F.PWR_ROWFREQ_LOSS : Fld := ⟨0x60100, 0x0, 4, 0, 8⟩
def F.PWR_LIMIT : Fld := ⟨0x60008, 0x0, 0, 0, 16⟩
def F.PWR_FLOOR_K7_W : Fld := ⟨0x6000C, 0x0, 0, 16, 16⟩
def F.PWR_FLOOR_K0_W : Fld := ⟨0x6000C, 0x0, 0, 0, 16⟩
def F.PWR_SLIPS : Fld := ⟨0x60020, 0x0, 0, 0, 32⟩
def F.PWR_STRETCHES : Fld := ⟨0x60024, 0x0, 0, 0, 32⟩
def F.PWR_IDLE_FRAMES : Fld := ⟨0x60028, 0x0, 0, 0, 32⟩
def F.PWR_SLEW_HOLDS : Fld := ⟨0x6002C, 0x0, 0, 0, 32⟩
def F.PWR_REFCLK_LOSSES : Fld := ⟨0x60030, 0x0, 0, 0, 32⟩
def F.PWR_ENERGY_LO : Fld := ⟨0x60038, 0x0, 0, 0, 32⟩
def F.PWR_ENERGY_HI : Fld := ⟨0x6003C, 0x0, 0, 0, 32⟩
def F.PWR_LIFE_LO : Fld := ⟨0x60060, 0x0, 0, 0, 32⟩
def F.PWR_LIFE_HI : Fld := ⟨0x60064, 0x0, 0, 0, 32⟩
def F.PWR_INT_STATUS_BAD_WRITE : Fld := ⟨0x60070, 0x0, 0, 7, 1⟩
def F.PWR_INT_STATUS_FMAX_DROP : Fld := ⟨0x60070, 0x0, 0, 6, 1⟩
def F.PWR_INT_STATUS_REFCLK_BACK : Fld := ⟨0x60070, 0x0, 0, 5, 1⟩
def F.PWR_INT_STATUS_REFCLK_LOST : Fld := ⟨0x60070, 0x0, 0, 4, 1⟩
def F.PWR_INT_STATUS_SLEW_HOLD : Fld := ⟨0x60070, 0x0, 0, 3, 1⟩
def F.PWR_INT_STATUS_IDLE_CHANGE : Fld := ⟨0x60070, 0x0, 0, 2, 1⟩
def F.PWR_INT_STATUS_CAP_MET : Fld := ⟨0x60070, 0x0, 0, 1, 1⟩
def F.PWR_INT_STATUS_CAP_UNATTAINABLE : Fld := ⟨0x60070, 0x0, 0, 0, 1⟩
def F.PWR_INT_EN_BAD_WRITE : Fld := ⟨0x60074, 0x0, 0, 7, 1⟩
def F.PWR_INT_EN_FMAX_DROP : Fld := ⟨0x60074, 0x0, 0, 6, 1⟩
def F.PWR_INT_EN_REFCLK_BACK : Fld := ⟨0x60074, 0x0, 0, 5, 1⟩
def F.PWR_INT_EN_REFCLK_LOST : Fld := ⟨0x60074, 0x0, 0, 4, 1⟩
def F.PWR_INT_EN_SLEW_HOLD : Fld := ⟨0x60074, 0x0, 0, 3, 1⟩
def F.PWR_INT_EN_IDLE_CHANGE : Fld := ⟨0x60074, 0x0, 0, 2, 1⟩
def F.PWR_INT_EN_CAP_MET : Fld := ⟨0x60074, 0x0, 0, 1, 1⟩
def F.PWR_INT_EN_CAP_UNATTAINABLE : Fld := ⟨0x60074, 0x0, 0, 0, 1⟩
def F.PWR_ROOM_TOTAL_LO : Fld := ⟨0x60400, 0x0, 32, 0, 32⟩
def F.PWR_ROOM_TOTAL_HI : Fld := ⟨0x60404, 0x0, 32, 0, 32⟩
def F.PWR_ROOM_JOB_LO : Fld := ⟨0x60408, 0x0, 32, 0, 32⟩
def F.PWR_ROOM_JOB_HI : Fld := ⟨0x6040C, 0x0, 32, 0, 32⟩
def F.PWR_ROOM_LAST_LO : Fld := ⟨0x60410, 0x0, 32, 0, 32⟩
def F.PWR_ROOM_LAST_HI : Fld := ⟨0x60414, 0x0, 32, 0, 32⟩
def F.PWR_ROOM_JOB_FRAMES : Fld := ⟨0x60418, 0x0, 32, 0, 32⟩
def F.PWR_ROOM_CTL_ALLOC_W : Fld := ⟨0x6041C, 0x0, 32, 16, 16⟩
def F.PWR_ROOM_CTL_JOB_MARK : Fld := ⟨0x6041C, 0x0, 32, 0, 1⟩

/-! Fields of the THM block. -/

def F.THM_STATUS_TRIPPED : Fld := ⟨0x70000, 0x0, 0, 31, 1⟩
def F.THM_STATUS_MOD_THROTTLE : Fld := ⟨0x70000, 0x0, 0, 30, 1⟩
def F.THM_STATUS_SUSPECT_ANY : Fld := ⟨0x70000, 0x0, 0, 29, 1⟩
def F.THM_STATUS_FAILED_ANY : Fld := ⟨0x70000, 0x0, 0, 28, 1⟩
def F.THM_STATUS_COOLANT_HOT : Fld := ⟨0x70000, 0x0, 0, 27, 1⟩
def F.THM_STATUS_REVERSED : Fld := ⟨0x70000, 0x0, 0, 26, 1⟩
def F.THM_STATUS_LOW_FLOW : Fld := ⟨0x70000, 0x0, 0, 25, 1⟩
def F.THM_STATUS_TOWER_THROTTLE : Fld := ⟨0x70000, 0x0, 0, 0, 8⟩
def F.THM_CTL_FLUID : Fld := ⟨0x70004, 0x0, 0, 0, 1⟩
def F.THM_SENSOR_SEL_INDEX : Fld := ⟨0x70010, 0x0, 0, 0, 9⟩
def F.THM_SENSOR_STATE : Fld := ⟨0x70014, 0x0, 0, 30, 2⟩
def F.THM_SENSOR_BAND : Fld := ⟨0x70014, 0x0, 0, 28, 2⟩
def F.THM_SENSOR_TEMP : Fld := ⟨0x70014, 0x0, 0, 0, 16⟩
def F.THM_SENSOR_EFF_ESTIMATE : Fld := ⟨0x70018, 0x0, 0, 16, 16⟩
def F.THM_SENSOR_EFF_EFF : Fld := ⟨0x70018, 0x0, 0, 0, 16⟩
def F.THM_MOD_CEIL_ACTIVE : Fld := ⟨0x70024, 0x0, 0, 31, 1⟩
def F.THM_MOD_CEIL_REF : Fld := ⟨0x70024, 0x0, 0, 16, 15⟩
def F.THM_MOD_CEIL_CEIL : Fld := ⟨0x70024, 0x0, 0, 0, 16⟩
def F.THM_TOWER_CEIL_ACTIVE : Fld := ⟨0x70040, 0x0, 4, 31, 1⟩
def F.THM_TOWER_CEIL_REF : Fld := ⟨0x70040, 0x0, 4, 16, 15⟩
def F.THM_TOWER_CEIL_CEIL : Fld := ⟨0x70040, 0x0, 4, 0, 16⟩
def F.THM_TRIP_INFO_VALID : Fld := ⟨0x70030, 0x0, 0, 31, 1⟩
def F.THM_TRIP_INFO_SENSOR : Fld := ⟨0x70030, 0x0, 0, 16, 9⟩
def F.THM_TRIP_INFO_TEMP : Fld := ⟨0x70030, 0x0, 0, 0, 16⟩
def F.THM_PEAK : Fld := ⟨0x7001C, 0x0, 0, 0, 16⟩
def F.THM_HOTTEST_SENSOR : Fld := ⟨0x70020, 0x0, 0, 16, 9⟩
def F.THM_HOTTEST_EFF : Fld := ⟨0x70020, 0x0, 0, 0, 16⟩
def F.THM_COOLANT_INLET : Fld := ⟨0x70028, 0x0, 0, 16, 16⟩
def F.THM_COOLANT_OUTLET : Fld := ⟨0x70028, 0x0, 0, 0, 16⟩
def F.THM_COOLANT_RATING_FLOW : Fld := ⟨0x7002C, 0x0, 0, 16, 16⟩
def F.THM_COOLANT_RATING_RATING : Fld := ⟨0x7002C, 0x0, 0, 0, 16⟩
def F.THM_TRIP_FRAME_LO : Fld := ⟨0x70034, 0x0, 0, 0, 32⟩
def F.THM_TRIP_FRAME_HI : Fld := ⟨0x70038, 0x0, 0, 0, 16⟩
def F.THM_TRIPS : Fld := ⟨0x7003C, 0x0, 0, 0, 32⟩
def F.THM_THROTTLE_FRAMES : Fld := ⟨0x70068, 0x0, 0, 0, 32⟩
def F.THM_INT_STATUS_RESTARTED : Fld := ⟨0x70060, 0x0, 0, 8, 1⟩
def F.THM_INT_STATUS_LOW_FLOW : Fld := ⟨0x70060, 0x0, 0, 7, 1⟩
def F.THM_INT_STATUS_REVERSED : Fld := ⟨0x70060, 0x0, 0, 6, 1⟩
def F.THM_INT_STATUS_COOLANT_HOT : Fld := ⟨0x70060, 0x0, 0, 5, 1⟩
def F.THM_INT_STATUS_SENSOR_FAILED : Fld := ⟨0x70060, 0x0, 0, 4, 1⟩
def F.THM_INT_STATUS_SUSPECT : Fld := ⟨0x70060, 0x0, 0, 3, 1⟩
def F.THM_INT_STATUS_BAND_CHANGE : Fld := ⟨0x70060, 0x0, 0, 2, 1⟩
def F.THM_INT_STATUS_THROTTLE_OFF : Fld := ⟨0x70060, 0x0, 0, 1, 1⟩
def F.THM_INT_STATUS_THROTTLE_ON : Fld := ⟨0x70060, 0x0, 0, 0, 1⟩
def F.THM_INT_EN_RESTARTED : Fld := ⟨0x70064, 0x0, 0, 8, 1⟩
def F.THM_INT_EN_LOW_FLOW : Fld := ⟨0x70064, 0x0, 0, 7, 1⟩
def F.THM_INT_EN_REVERSED : Fld := ⟨0x70064, 0x0, 0, 6, 1⟩
def F.THM_INT_EN_COOLANT_HOT : Fld := ⟨0x70064, 0x0, 0, 5, 1⟩
def F.THM_INT_EN_SENSOR_FAILED : Fld := ⟨0x70064, 0x0, 0, 4, 1⟩
def F.THM_INT_EN_SUSPECT : Fld := ⟨0x70064, 0x0, 0, 3, 1⟩
def F.THM_INT_EN_BAND_CHANGE : Fld := ⟨0x70064, 0x0, 0, 2, 1⟩
def F.THM_INT_EN_THROTTLE_OFF : Fld := ⟨0x70064, 0x0, 0, 1, 1⟩
def F.THM_INT_EN_THROTTLE_ON : Fld := ⟨0x70064, 0x0, 0, 0, 1⟩

/-! Fields of the CAL block. -/

def F.CAL_CTL_RUN : Fld := ⟨0x80000, 0x0, 0, 16, 8⟩
def F.CAL_CTL_EN : Fld := ⟨0x80000, 0x0, 0, 8, 8⟩
def F.CAL_CTL_PROFILE : Fld := ⟨0x80000, 0x0, 0, 0, 2⟩
def F.CAL_TRIG0_LASER : Fld := ⟨0x80004, 0x0, 0, 24, 5⟩
def F.CAL_TRIG0_RXTHR : Fld := ⟨0x80004, 0x0, 0, 16, 5⟩
def F.CAL_TRIG0_MODBIAS : Fld := ⟨0x80004, 0x0, 0, 8, 5⟩
def F.CAL_TRIG0_RING : Fld := ⟨0x80004, 0x0, 0, 0, 5⟩
def F.CAL_TRIG1_VREG : Fld := ⟨0x80008, 0x0, 0, 16, 5⟩
def F.CAL_TRIG1_JEQ : Fld := ⟨0x80008, 0x0, 0, 8, 5⟩
def F.CAL_TRIG1_CELPHY : Fld := ⟨0x80008, 0x0, 0, 0, 5⟩
def F.CAL_IDLE_GAP_WAIT : Fld := ⟨0x8000C, 0x0, 0, 16, 16⟩
def F.CAL_IDLE_GAP_GAP : Fld := ⟨0x8000C, 0x0, 0, 0, 16⟩
def F.CAL_STATUS_STEPPING : Fld := ⟨0x80010, 0x0, 0, 16, 8⟩
def F.CAL_STATUS_RUNNING : Fld := ⟨0x80010, 0x0, 0, 8, 8⟩
def F.CAL_STATUS_RETIRE_FULL : Fld := ⟨0x80010, 0x0, 0, 2, 1⟩
def F.CAL_STATUS_FLASH_ERR : Fld := ⟨0x80010, 0x0, 0, 1, 1⟩
def F.CAL_STATUS_FALLBACK_ANY : Fld := ⟨0x80010, 0x0, 0, 0, 1⟩
def F.CAL_INT_STATUS_ROW_REPAIR : Fld := ⟨0x80020, 0x0, 0, 8, 1⟩
def F.CAL_INT_STATUS_RETIRE_FULL : Fld := ⟨0x80020, 0x0, 0, 7, 1⟩
def F.CAL_INT_STATUS_ADAPT : Fld := ⟨0x80020, 0x0, 0, 6, 1⟩
def F.CAL_INT_STATUS_BOND_RETIRED : Fld := ⟨0x80020, 0x0, 0, 5, 1⟩
def F.CAL_INT_STATUS_BOND_STEERED : Fld := ⟨0x80020, 0x0, 0, 4, 1⟩
def F.CAL_INT_STATUS_RECORD_FALLBACK : Fld := ⟨0x80020, 0x0, 0, 3, 1⟩
def F.CAL_INT_STATUS_FLASH_ERR : Fld := ⟨0x80020, 0x0, 0, 2, 1⟩
def F.CAL_INT_STATUS_IMPLAUSIBLE : Fld := ⟨0x80020, 0x0, 0, 1, 1⟩
def F.CAL_INT_STATUS_APPLIED : Fld := ⟨0x80020, 0x0, 0, 0, 1⟩
def F.CAL_INT_EN_ROW_REPAIR : Fld := ⟨0x80024, 0x0, 0, 8, 1⟩
def F.CAL_INT_EN_RETIRE_FULL : Fld := ⟨0x80024, 0x0, 0, 7, 1⟩
def F.CAL_INT_EN_ADAPT : Fld := ⟨0x80024, 0x0, 0, 6, 1⟩
def F.CAL_INT_EN_BOND_RETIRED : Fld := ⟨0x80024, 0x0, 0, 5, 1⟩
def F.CAL_INT_EN_BOND_STEERED : Fld := ⟨0x80024, 0x0, 0, 4, 1⟩
def F.CAL_INT_EN_RECORD_FALLBACK : Fld := ⟨0x80024, 0x0, 0, 3, 1⟩
def F.CAL_INT_EN_FLASH_ERR : Fld := ⟨0x80024, 0x0, 0, 2, 1⟩
def F.CAL_INT_EN_IMPLAUSIBLE : Fld := ⟨0x80024, 0x0, 0, 1, 1⟩
def F.CAL_INT_EN_APPLIED : Fld := ⟨0x80024, 0x0, 0, 0, 1⟩
def F.CAL_KIND_SEL_KIND : Fld := ⟨0x80040, 0x0, 0, 16, 4⟩
def F.CAL_KIND_SEL_UNIT : Fld := ⟨0x80040, 0x0, 0, 0, 5⟩
def F.CAL_KIND_INFO_VALID : Fld := ⟨0x80044, 0x0, 0, 31, 1⟩
def F.CAL_KIND_INFO_SOURCE : Fld := ⟨0x80044, 0x0, 0, 26, 2⟩
def F.CAL_KIND_INFO_REJECTS : Fld := ⟨0x80044, 0x0, 0, 16, 10⟩
def F.CAL_KIND_INFO_TEMP : Fld := ⟨0x80044, 0x0, 0, 0, 16⟩
def F.CAL_RUNS : Fld := ⟨0x80030, 0x0, 0, 0, 32⟩
def F.CAL_REJECTS : Fld := ⟨0x80034, 0x0, 0, 0, 32⟩
def F.CAL_IDLE_INSERTED : Fld := ⟨0x80038, 0x0, 0, 0, 32⟩
def F.CAL_ADAPTS : Fld := ⟨0x8003C, 0x0, 0, 0, 32⟩
def F.CAL_KIND_FRAME_LO : Fld := ⟨0x80048, 0x0, 0, 0, 32⟩
def F.CAL_KIND_FRAME_HI : Fld := ⟨0x8004C, 0x0, 0, 0, 16⟩
def F.CAL_BOND_STATUS_STEERED : Fld := ⟨0x80050, 0x0, 0, 16, 16⟩
def F.CAL_BOND_STATUS_RETIRED : Fld := ⟨0x80050, 0x0, 0, 0, 16⟩
def F.CAL_RETIRE_COUNT_CAPACITY : Fld := ⟨0x80054, 0x0, 0, 16, 16⟩
def F.CAL_RETIRE_COUNT_USED : Fld := ⟨0x80054, 0x0, 0, 0, 16⟩
def F.CAL_RETIRE_SEL : Fld := ⟨0x80058, 0x0, 0, 0, 14⟩
def F.CAL_RETIRE_ENTRY : Fld := ⟨0x80060, 0x0, 4, 0, 32⟩

/-! Fields of the GLB block. -/

def F.GLB_ID_PART : Fld := ⟨0x0, 0x0, 0, 16, 16⟩
def F.GLB_ID_BASE_REV : Fld := ⟨0x0, 0x0, 0, 8, 8⟩
def F.GLB_ID_M_REV : Fld := ⟨0x0, 0x0, 0, 0, 8⟩
def F.GLB_CTL_CONFIG_LOCK : Fld := ⟨0x4, 0x0, 0, 2, 1⟩
def F.GLB_CTL_M_WARM : Fld := ⟨0x4, 0x0, 0, 1, 1⟩
def F.GLB_CTL_MOD_RESET : Fld := ⟨0x4, 0x0, 0, 0, 1⟩
def F.GLB_STATUS_MOD_CAUSE : Fld := ⟨0x8, 0x0, 0, 29, 3⟩
def F.GLB_STATUS_WARM_CAUSE : Fld := ⟨0x8, 0x0, 0, 26, 3⟩
def F.GLB_STATUS_WARM_COUNT : Fld := ⟨0x8, 0x0, 0, 0, 16⟩
def F.GLB_READY0_TOW : Fld := ⟨0x10, 0x0, 0, 22, 8⟩
def F.GLB_READY0_CEL : Fld := ⟨0x10, 0x0, 0, 10, 12⟩
def F.GLB_READY0_QUAD : Fld := ⟨0x10, 0x0, 0, 6, 4⟩
def F.GLB_READY0_HALL : Fld := ⟨0x10, 0x0, 0, 5, 1⟩
def F.GLB_READY0_LASER : Fld := ⟨0x10, 0x0, 0, 4, 1⟩
def F.GLB_READY0_SEQ_B : Fld := ⟨0x10, 0x0, 0, 3, 1⟩
def F.GLB_READY0_SEQ_A : Fld := ⟨0x10, 0x0, 0, 2, 1⟩
def F.GLB_READY0_MFW : Fld := ⟨0x10, 0x0, 0, 1, 1⟩
def F.GLB_READY0_PCIE : Fld := ⟨0x10, 0x0, 0, 0, 1⟩
def F.GLB_READY1_ALL : Fld := ⟨0x14, 0x0, 0, 8, 1⟩
def F.GLB_READY1_PORT : Fld := ⟨0x14, 0x0, 0, 2, 6⟩
def F.GLB_READY1_PCH : Fld := ⟨0x14, 0x0, 0, 0, 2⟩
def F.GLB_EN_QUAD : Fld := ⟨0x18, 0x0, 0, 22, 4⟩
def F.GLB_EN_PCH : Fld := ⟨0x18, 0x0, 0, 20, 2⟩
def F.GLB_EN_CEL : Fld := ⟨0x18, 0x0, 0, 8, 12⟩
def F.GLB_EN_TOW : Fld := ⟨0x18, 0x0, 0, 0, 8⟩
def F.GLB_RESET_FORCE : Fld := ⟨0x1C, 0x0, 0, 31, 1⟩
def F.GLB_RESET_PCH : Fld := ⟨0x1C, 0x0, 0, 28, 2⟩
def F.GLB_RESET_QUAD : Fld := ⟨0x1C, 0x0, 0, 24, 4⟩
def F.GLB_RESET_CEL : Fld := ⟨0x1C, 0x0, 0, 12, 12⟩
def F.GLB_RESET_TOW : Fld := ⟨0x1C, 0x0, 0, 0, 8⟩
def F.GLB_INT_STATUS_M_RESTARTED : Fld := ⟨0x20, 0x0, 0, 4, 1⟩
def F.GLB_INT_STATUS_RESET_DONE : Fld := ⟨0x20, 0x0, 0, 3, 1⟩
def F.GLB_INT_STATUS_REFUSED : Fld := ⟨0x20, 0x0, 0, 2, 1⟩
def F.GLB_INT_STATUS_START_FAIL : Fld := ⟨0x20, 0x0, 0, 1, 1⟩
def F.GLB_INT_STATUS_READY : Fld := ⟨0x20, 0x0, 0, 0, 1⟩
def F.GLB_INT_EN_M_RESTARTED : Fld := ⟨0x24, 0x0, 0, 4, 1⟩
def F.GLB_INT_EN_RESET_DONE : Fld := ⟨0x24, 0x0, 0, 3, 1⟩
def F.GLB_INT_EN_REFUSED : Fld := ⟨0x24, 0x0, 0, 2, 1⟩
def F.GLB_INT_EN_START_FAIL : Fld := ⟨0x24, 0x0, 0, 1, 1⟩
def F.GLB_INT_EN_READY : Fld := ⟨0x24, 0x0, 0, 0, 1⟩
def F.GLB_BSTATE_STATE : Fld := ⟨0x100, 0x0, 4, 29, 3⟩
def F.GLB_BSTATE_PEND_EN : Fld := ⟨0x100, 0x0, 4, 28, 1⟩
def F.GLB_BSTATE_FAIL : Fld := ⟨0x100, 0x0, 4, 27, 1⟩
def F.GLB_BSTATE_LAST : Fld := ⟨0x100, 0x0, 4, 24, 3⟩
def F.GLB_BSTATE_RESETS : Fld := ⟨0x100, 0x0, 4, 0, 16⟩

/-! Fields of the SEQ block. -/

def F.SEQ_STATUS_A_STATE : Fld := ⟨0x50000, 0x0, 0, 29, 3⟩
def F.SEQ_STATUS_B_STATE : Fld := ⟨0x50000, 0x0, 0, 26, 3⟩
def F.SEQ_STATUS_ACTIVE : Fld := ⟨0x50000, 0x0, 0, 25, 1⟩
def F.SEQ_STATUS_STANDBY_OK : Fld := ⟨0x50000, 0x0, 0, 24, 1⟩
def F.SEQ_STATUS_SEQUENCER_LOST : Fld := ⟨0x50000, 0x0, 0, 23, 1⟩
def F.SEQ_STATUS_TAKEOVERS : Fld := ⟨0x50000, 0x0, 0, 0, 16⟩
def F.SEQ_CTL_MBX_US : Fld := ⟨0x50004, 0x0, 0, 16, 8⟩
def F.SEQ_CTL_HB_LIMIT : Fld := ⟨0x50004, 0x0, 0, 8, 8⟩
def F.SEQ_CTL_DRILL : Fld := ⟨0x50004, 0x0, 0, 0, 1⟩
def F.SEQ_TAKEOVER_INFO_CAUSE : Fld := ⟨0x50018, 0x0, 0, 24, 8⟩
def F.SEQ_TAKEOVER_INFO_LOST : Fld := ⟨0x50018, 0x0, 0, 16, 8⟩
def F.SEQ_CKPT_LO : Fld := ⟨0x50008, 0x0, 0, 0, 32⟩
def F.SEQ_CKPT_HI : Fld := ⟨0x5000C, 0x0, 0, 0, 16⟩
def F.SEQ_LOST_FIRST_LO : Fld := ⟨0x50010, 0x0, 0, 0, 32⟩
def F.SEQ_LOST_FIRST_HI : Fld := ⟨0x50014, 0x0, 0, 0, 16⟩
def F.SEQ_LOST_TOTAL : Fld := ⟨0x5001C, 0x0, 0, 0, 32⟩
def F.SEQ_INT_STATUS_DRILL_REFUSED : Fld := ⟨0x50020, 0x0, 0, 4, 1⟩
def F.SEQ_INT_STATUS_DRILL_DONE : Fld := ⟨0x50020, 0x0, 0, 3, 1⟩
def F.SEQ_INT_STATUS_SEQUENCER_LOST : Fld := ⟨0x50020, 0x0, 0, 2, 1⟩
def F.SEQ_INT_STATUS_STANDBY_LOST : Fld := ⟨0x50020, 0x0, 0, 1, 1⟩
def F.SEQ_INT_STATUS_TAKEOVER : Fld := ⟨0x50020, 0x0, 0, 0, 1⟩
def F.SEQ_INT_EN_DRILL_REFUSED : Fld := ⟨0x50024, 0x0, 0, 4, 1⟩
def F.SEQ_INT_EN_DRILL_DONE : Fld := ⟨0x50024, 0x0, 0, 3, 1⟩
def F.SEQ_INT_EN_SEQUENCER_LOST : Fld := ⟨0x50024, 0x0, 0, 2, 1⟩
def F.SEQ_INT_EN_STANDBY_LOST : Fld := ⟨0x50024, 0x0, 0, 1, 1⟩
def F.SEQ_INT_EN_TAKEOVER : Fld := ⟨0x50024, 0x0, 0, 0, 1⟩

/-! Fields of the SEC block. -/

def F.SEC_SERIAL : Fld := ⟨0x10000, 0x0, 4, 0, 32⟩
def F.SEC_FW_VERSION : Fld := ⟨0x10010, 0x0, 0, 16, 16⟩
def F.SEC_FW_SVN : Fld := ⟨0x10010, 0x0, 0, 0, 16⟩
def F.SEC_OWNER_ID : Fld := ⟨0x10020, 0x0, 4, 0, 32⟩
def F.SEC_OWNER_NONCE_LO : Fld := ⟨0x10030, 0x0, 0, 0, 32⟩
def F.SEC_OWNER_NONCE_HI : Fld := ⟨0x10034, 0x0, 0, 0, 32⟩
def F.SEC_FW_STATE_MIN_SVN : Fld := ⟨0x10014, 0x0, 0, 16, 16⟩
def F.SEC_FW_STATE_RECOVERY : Fld := ⟨0x10014, 0x0, 0, 5, 1⟩
def F.SEC_FW_STATE_FALLBACK : Fld := ⟨0x10014, 0x0, 0, 4, 1⟩
def F.SEC_FW_STATE_B_VALID : Fld := ⟨0x10014, 0x0, 0, 3, 1⟩
def F.SEC_FW_STATE_A_VALID : Fld := ⟨0x10014, 0x0, 0, 2, 1⟩
def F.SEC_FW_STATE_PREFERRED : Fld := ⟨0x10014, 0x0, 0, 1, 1⟩
def F.SEC_FW_STATE_SLOT : Fld := ⟨0x10014, 0x0, 0, 0, 1⟩
def F.SEC_CTL_ENROL_ALLOW : Fld := ⟨0x10018, 0x0, 0, 0, 1⟩
def F.SEC_OWNER_ENROLLED : Fld := ⟨0x1001C, 0x0, 0, 0, 1⟩
def F.SEC_SIG_LEFT_NO_COUNTER : Fld := ⟨0x10038, 0x0, 0, 31, 1⟩
def F.SEC_SIG_LEFT_LEFT : Fld := ⟨0x10038, 0x0, 0, 0, 21⟩
def F.SEC_SIG_CTL_MIN_S : Fld := ⟨0x1003C, 0x0, 0, 0, 12⟩
def F.SEC_APERTURE_LO : Fld := ⟨0x10040, 0x0, 0, 30, 2⟩
def F.SEC_APERTURE_HI : Fld := ⟨0x10044, 0x0, 0, 0, 8⟩
def F.SEC_IDE_STATUS_INSECURE : Fld := ⟨0x10050, 0x0, 0, 4, 4⟩
def F.SEC_IDE_STATUS_SECURE : Fld := ⟨0x10050, 0x0, 0, 0, 4⟩
def F.SEC_INT_STATUS_IDE_FAIL : Fld := ⟨0x10060, 0x0, 0, 5, 1⟩
def F.SEC_INT_STATUS_SIG_EXHAUSTED : Fld := ⟨0x10060, 0x0, 0, 4, 1⟩
def F.SEC_INT_STATUS_SIG_LOW : Fld := ⟨0x10060, 0x0, 0, 3, 1⟩
def F.SEC_INT_STATUS_OWNER_CHANGED : Fld := ⟨0x10060, 0x0, 0, 2, 1⟩
def F.SEC_INT_STATUS_FW_FALLBACK : Fld := ⟨0x10060, 0x0, 0, 1, 1⟩
def F.SEC_INT_STATUS_FW_ACTIVATED : Fld := ⟨0x10060, 0x0, 0, 0, 1⟩
def F.SEC_INT_EN_IDE_FAIL : Fld := ⟨0x10064, 0x0, 0, 5, 1⟩
def F.SEC_INT_EN_SIG_EXHAUSTED : Fld := ⟨0x10064, 0x0, 0, 4, 1⟩
def F.SEC_INT_EN_SIG_LOW : Fld := ⟨0x10064, 0x0, 0, 3, 1⟩
def F.SEC_INT_EN_OWNER_CHANGED : Fld := ⟨0x10064, 0x0, 0, 2, 1⟩
def F.SEC_INT_EN_FW_FALLBACK : Fld := ⟨0x10064, 0x0, 0, 1, 1⟩
def F.SEC_INT_EN_FW_ACTIVATED : Fld := ⟨0x10064, 0x0, 0, 0, 1⟩

/-- The registers of the FRM block. -/
def rowsFrm : List RegRow := [
  ⟨"FRM_CTL", 0x40000, 1, 0x0, 1, 0, 0x0, 0x0, 0x0, 0x0, 0x1, 0x0, 0x0, false, .none, false, false⟩,
  ⟨"FRM_STATUS", 0x40004, 1, 0x0, 1, 0, 0x0, 0x0, 0x0, 0xFFF0103, 0x0, 0x1000000, 0x0, false, .none, false, false⟩,
  ⟨"FRM_PERIOD", 0x40008, 1, 0x0, 1, 0, 0xFF, 0x0, 0x0, 0xFF000000, 0x0, 0x10000010, 0x0, false, .none, false, false⟩,
  ⟨"FRM_CURRENT_LO", 0x40010, 1, 0x0, 1, 0, 0x0, 0x0, 0x0, 0xFFFFFFFF, 0x0, 0x0, 0xFFFFFFFF, true, .none, false, false⟩,
  ⟨"FRM_CURRENT_HI", 0x40014, 1, 0x0, 1, 0, 0x0, 0x0, 0x0, 0xFFFF, 0x0, 0x0, 0xFFFF, false, .none, false, false⟩,
  ⟨"FRM_COMMIT_LO", 0x40018, 1, 0x0, 1, 0, 0x0, 0x0, 0x0, 0xFFFFFFFF, 0x0, 0x0, 0x0, true, .none, false, false⟩,
  ⟨"FRM_COMMIT_HI", 0x4001C, 1, 0x0, 1, 0, 0x0, 0x0, 0x0, 0xFFFF, 0x0, 0x0, 0x0, false, .none, false, false⟩,
  ⟨"FRM_VIEW_LO", 0x40020, 1, 0x0, 1, 0, 0x0, 0x0, 0x0, 0xFFFFFFFF, 0x0, 0x0, 0x0, true, .none, false, false⟩,
  ⟨"FRM_VIEW_HI", 0x40024, 1, 0x0, 1, 0, 0x0, 0x0, 0x0, 0xFFFF, 0x0, 0x0, 0x0, false, .none, false, false⟩,
  ⟨"FRM_MASTER_OFFSET_LO", 0x40040, 1, 0x0, 1, 0, 0x0, 0x0, 0x0, 0xFFFFFFFF, 0x0, 0x0, 0x0, true, .none, false, false⟩,
  ⟨"FRM_MASTER_OFFSET_HI", 0x40044, 1, 0x0, 1, 0, 0x0, 0x0, 0x0, 0xFFFF, 0x0, 0x0, 0x0, false, .none, false, false⟩,
  ⟨"FRM_SYNC_CTL", 0x40030, 1, 0x0, 1, 0, 0xFBF, 0x0, 0x0, 0x0, 0x40, 0x80, 0x0, false, .none, false, false⟩,
  ⟨"FRM_SYNC_STATUS", 0x40034, 1, 0x0, 1, 0, 0x0, 0x0, 0x0, 0xFFFFFFF7, 0x0, 0x0, 0x0, false, .none, false, false⟩,
  ⟨"FRM_SYNC_PHASE", 0x40038, 1, 0x0, 1, 0, 0x0, 0x0, 0x0, 0xFFFF, 0x0, 0x0, 0x0, false, .none, false, false⟩,
  ⟨"FRM_SYNC_COUNT", 0x4003C, 1, 0x0, 1, 0, 0x0, 0x0, 0xFFFFFFFF, 0x0, 0x0, 0x0, 0x0, false, .none, false, false⟩,
  ⟨"FRM_INT_STATUS", 0x40048, 1, 0x0, 1, 0, 0x0, 0x1F, 0x0, 0x0, 0x0, 0x0, 0x0, false, .none, false, false⟩,
  ⟨"FRM_INT_EN", 0x4004C, 1, 0x0, 1, 0, 0x1F, 0x0, 0x0, 0x0, 0x0, 0x0, 0x0, false, .none, false, false⟩]

/-- The registers of the SNAP block. -/
def rowsSnap : List RegRow := [
  ⟨"SNAP_CTL", 0x30000, 1, 0x0, 1, 0, 0x1F00, 0x0, 0x0, 0x0, 0xF, 0x0, 0x0, false, .none, false, false⟩,
  ⟨"SNAP_STATUS", 0x30004, 1, 0x0, 1, 0, 0x0, 0x0, 0x0, 0x1F1F, 0x0, 0x0, 0x0, false, .none, false, false⟩,
  ⟨"SNAP_ERR_MASK", 0x30008, 1, 0x0, 1, 0, 0xFFFFFFFF, 0x0, 0x0, 0x0, 0x0, 0x0, 0x0, false, .none, false, false⟩,
  ⟨"SNAP_MATCH_LO", 0x30010, 1, 0x0, 1, 0, 0xFFFFFFFF, 0x0, 0x0, 0x0, 0x0, 0x0, 0x0, true, .none, false, false⟩,
  ⟨"SNAP_MATCH_HI", 0x30014, 1, 0x0, 1, 0, 0xFFFF, 0x0, 0x0, 0x0, 0x0, 0x0, 0x0, false, .none, false, false⟩,
  ⟨"SNAP_DEST_LO", 0x30018, 1, 0x0, 1, 0, 0xFFFFFFC0, 0x0, 0x0, 0x0, 0x0, 0x0, 0x0, true, .none, false, false⟩,
  ⟨"SNAP_DEST_HI", 0x3001C, 1, 0x0, 1, 0, 0xFFFFFFFF, 0x0, 0x0, 0x0, 0x0, 0x0, 0x0, false, .none, false, false⟩,
  ⟨"SNAP_DEST_SIZE", 0x30020, 1, 0x0, 1, 0, 0xFFFFFFC0, 0x0, 0x0, 0x0, 0x0, 0x0, 0x0, false, .none, false, false⟩,
  ⟨"SNAP_LEN", 0x30024, 1, 0x0, 1, 0, 0x0, 0x0, 0x0, 0xFFFFFFFF, 0x0, 0x0, 0x0, false, .none, false, false⟩,
  ⟨"SNAP_FRAME_LO", 0x30028, 1, 0x0, 1, 0, 0x0, 0x0, 0x0, 0xFFFFFFFF, 0x0, 0x0, 0x0, true, .none, false, false⟩,
  ⟨"SNAP_FRAME_HI", 0x3002C, 1, 0x0, 1, 0, 0x0, 0x0, 0x0, 0xFFFF, 0x0, 0x0, 0x0, false, .none, false, false⟩,
  ⟨"SNAP_MISSED", 0x30030, 1, 0x0, 1, 0, 0x0, 0x0, 0xFFFFFFFF, 0x0, 0x0, 0x0, 0x0, false, .none, false, false⟩]

/-- The registers of the TOW block. -/
def rowsTow_0 : List RegRow := [
  ⟨"TOW_ID", 0x200000, 8, 0x80000, 1, 0, 0x0, 0x0, 0x0, 0xFFFFFFFF, 0x0, 0x1110, 0x0, false, .none, false, false⟩,
  ⟨"TOW_ROWSTATE", 0x200004, 8, 0x80000, 1, 0, 0x0, 0x0, 0x0, 0xFFFFFFFF, 0x0, 0x0, 0x0, false, .none, false, false⟩,
  ⟨"TOW_ROWMAP", 0x200100, 8, 0x80000, 16, 4, 0x0, 0x0, 0x0, 0xFE1F, 0x0, 0x0, 0x0, false, .none, false, false⟩,
  ⟨"TOW_CORE_SEL", 0x200200, 8, 0x80000, 1, 0, 0x1F0F, 0x0, 0x0, 0x0, 0x0, 0x0, 0x0, false, .requester, true, false⟩,
  ⟨"TOW_CORE_INFO", 0x200204, 8, 0x80000, 1, 0, 0x0, 0x0, 0x0, 0xFFFC0000, 0x0, 0x0, 0x0, false, .core, false, false⟩,
  ⟨"TOW_CORE_FLAGS", 0x200208, 8, 0x80000, 1, 0, 0x0, 0x1F, 0x0, 0x0, 0x0, 0x0, 0x0, false, .core, false, false⟩,
  ⟨"TOW_ISTORE_ECC", 0x20020C, 8, 0x80000, 1, 0, 0x0, 0x0, 0xFFFF, 0x0, 0x0, 0x0, 0x0, false, .core, false, false⟩,
  ⟨"TOW_TRUNC_COUNT", 0x200010, 8, 0x80000, 1, 0, 0x0, 0x0, 0xFFFFFFFF, 0x0, 0x0, 0x0, 0x0, false, .none, false, false⟩,
  ⟨"TOW_SPEC_COUNT", 0x200014, 8, 0x80000, 1, 0, 0x0, 0x0, 0xFFFFFFFF, 0x0, 0x0, 0x0, 0x0, false, .none, false, false⟩,
  ⟨"TOW_SAT_COUNT", 0x200018, 8, 0x80000, 1, 0, 0x0, 0x0, 0xFFFFFFFF, 0x0, 0x0, 0x0, 0x0, false, .none, false, false⟩,
  ⟨"TOW_CORE_STATUS", 0x200210, 8, 0x80000, 1, 0, 0x0, 0x0, 0x0, 0xFFFFFFF, 0x0, 0x0, 0x0, false, .core, false, false⟩,
  ⟨"TOW_CORE_USER", 0x200214, 8, 0x80000, 1, 0, 0x0, 0x0, 0x0, 0xFFFFFF, 0x0, 0x0, 0x0, false, .core, false, false⟩,
  ⟨"TOW_CORE_SLACK", 0x200218, 8, 0x80000, 1, 0, 0x0, 0x0, 0xFFFF, 0x0, 0x0, 0xFFFF, 0x0, false, .core, false, false⟩,
  ⟨"TOW_CORE_SENDDROP", 0x20021C, 8, 0x80000, 1, 0, 0x0, 0x0, 0xFFFF, 0x0, 0x0, 0x0, 0x0, false, .core, false, false⟩,
  ⟨"TOW_PAN_STATUS", 0x200300, 8, 0x80000, 1, 0, 0x0, 0x17, 0x0, 0x8, 0x0, 0x0, 0x0, false, .core, false, false⟩,
  ⟨"TOW_PAN_ECC_ADDR", 0x20030C, 8, 0x80000, 1, 0, 0x0, 0x0, 0x0, 0x8003FFFF, 0x0, 0x0, 0x0, false, .core, false, false⟩,
  ⟨"TOW_PAN_CORR", 0x200304, 8, 0x80000, 1, 0, 0x0, 0x0, 0xFFFFFFFF, 0x0, 0x0, 0x0, 0x0, false, .core, false, false⟩,
  ⟨"TOW_PAN_UNCORR", 0x200308, 8, 0x80000, 1, 0, 0x0, 0x0, 0xFFFFFFFF, 0x0, 0x0, 0x0, 0x0, false, .core, false, false⟩,
  ⟨"TOW_PAN_CONFLICT_MAT", 0x200310, 8, 0x80000, 1, 0, 0x0, 0x0, 0xFFFFFFFF, 0x0, 0x0, 0x0, 0x0, false, .core, false, false⟩,
  ⟨"TOW_PAN_CONFLICT_VEC", 0x200314, 8, 0x80000, 1, 0, 0x0, 0x0, 0xFFFFFFFF, 0x0, 0x0, 0x0, 0x0, false, .core, false, false⟩,
  ⟨"TOW_PAN_CONFLICT_HRX", 0x200318, 8, 0x80000, 1, 0, 0x0, 0x0, 0xFFFFFFFF, 0x0, 0x0, 0x0, 0x0, false, .core, false, false⟩,
  ⟨"TOW_PAN_CONFLICT_HTX", 0x20031C, 8, 0x80000, 1, 0, 0x0, 0x0, 0xFFFFFFFF, 0x0, 0x0, 0x0, 0x0, false, .core, false, false⟩,
  ⟨"TOW_PAN_CONFLICT_DBG", 0x200320, 8, 0x80000, 1, 0, 0x0, 0x0, 0xFFFFFFFF, 0x0, 0x0, 0x0, 0x0, false, .core, false, false⟩,
  ⟨"TOW_PAN_COLLIDE", 0x200324, 8, 0x80000, 1, 0, 0x0, 0x0, 0xFFFFFFFF, 0x0, 0x0, 0x0, 0x0, false, .core, false, false⟩]

/-- The registers of the TOW block, continued. -/
def rowsTow_1 : List RegRow := [
  ⟨"TOW_PAN_TXLATE", 0x200328, 8, 0x80000, 1, 0, 0x0, 0x0, 0xFFFFFFFF, 0x0, 0x0, 0x0, 0x0, false, .core, false, false⟩,
  ⟨"TOW_DBG_ADDR", 0x200334, 8, 0x80000, 1, 0, 0x3FFFF0, 0x0, 0x0, 0x0, 0x0, 0x0, 0x0, false, .requester, true, false⟩,
  ⟨"TOW_DBG_DATA", 0x200340, 8, 0x80000, 4, 4, 0xFFFFFFFF, 0x0, 0x0, 0x0, 0x0, 0x0, 0x0, false, .requester, true, false⟩,
  ⟨"TOW_SOA_TREES", 0x2003C0, 8, 0x80000, 1, 0, 0x0, 0x0, 0x0, 0x7FF, 0x0, 0x0, 0x0, false, .none, false, false⟩,
  ⟨"TOW_SOA_SAT", 0x2003C4, 8, 0x80000, 1, 0, 0x0, 0x0, 0xFFFFFFFF, 0x0, 0x0, 0x0, 0x0, false, .none, false, false⟩,
  ⟨"TOW_SOA_HUSK", 0x2003C8, 8, 0x80000, 1, 0, 0x0, 0x0, 0xFFFFFFFF, 0x0, 0x0, 0x0, 0x0, false, .none, false, false⟩,
  ⟨"TOW_SOA_HWM", 0x2003CC, 8, 0x80000, 1, 0, 0x0, 0x0, 0x7FF, 0x0, 0x0, 0x0, 0x0, false, .none, false, false⟩,
  ⟨"TOW_DBG_CTL", 0x200330, 8, 0x80000, 1, 0, 0x0, 0x0, 0x0, 0xF4, 0x3, 0x0, 0xF4, false, .requester, true, false⟩,
  ⟨"TOW_MARCH_CTL", 0x200380, 8, 0x80000, 1, 0, 0xFFFF0F0E, 0x0, 0x0, 0x0, 0x1, 0xF02, 0x0, false, .none, false, false⟩,
  ⟨"TOW_MARCH_STATUS", 0x200384, 8, 0x80000, 1, 0, 0x0, 0x0, 0x0, 0xFFFF0007, 0x0, 0x0, 0x0, false, .none, false, false⟩,
  ⟨"TOW_MARCH_RESULT", 0x200388, 8, 0x80000, 1, 0, 0x0, 0x0, 0x0, 0x80FFFFFF, 0x0, 0x0, 0x0, false, .core, false, false⟩,
  ⟨"TOW_MARCH_ADDR", 0x20038C, 8, 0x80000, 1, 0, 0x0, 0x0, 0x0, 0xFF03FFFF, 0x0, 0x0, 0x0, false, .core, false, false⟩]

/-- The registers of the TOW block. -/
def rowsTow : List RegRow := rowsTow_0 ++ rowsTow_1

/-- The registers of the HALL block. -/
def rowsHall_0 : List RegRow := [
  ⟨"HALL_STATUS", 0x100000, 1, 0x0, 1, 0, 0x0, 0x0, 0x0, 0xFFFFFFE1, 0x0, 0x0, 0x0, false, .none, false, false⟩,
  ⟨"HALL_MAINT", 0x100008, 1, 0x0, 1, 0, 0x1FF1F00, 0x0, 0x0, 0x0, 0x3, 0x0, 0x0, false, .none, false, false⟩,
  ⟨"HALL_REJECTS", 0x100010, 1, 0x0, 1, 0, 0x0, 0x0, 0xFFFFFFFF, 0x0, 0x0, 0x0, 0x0, false, .none, false, false⟩,
  ⟨"HALL_REPLAYS", 0x100014, 1, 0x0, 1, 0, 0x0, 0x0, 0xFFFFFFFF, 0x0, 0x0, 0x0, 0x0, false, .none, false, false⟩,
  ⟨"HALL_REPLAY_LOST", 0x100018, 1, 0x0, 1, 0, 0x0, 0x0, 0xFFFFFFFF, 0x0, 0x0, 0x0, 0x0, false, .none, false, false⟩,
  ⟨"HALL_FOLDED", 0x10001C, 1, 0x0, 1, 0, 0x0, 0x0, 0xFFFFFFFF, 0x0, 0x0, 0x0, 0x0, false, .none, false, false⟩,
  ⟨"HALL_HDR_ERR", 0x100020, 1, 0x0, 1, 0, 0x0, 0x0, 0xFFFFFFFF, 0x0, 0x0, 0x0, 0x0, false, .none, false, false⟩,
  ⟨"HALL_DESYNC", 0x100024, 1, 0x0, 1, 0, 0x0, 0x0, 0xFFFFFFFF, 0x0, 0x0, 0x0, 0x0, false, .none, false, false⟩,
  ⟨"HALL_ROOM_NARROW", 0x100050, 1, 0x0, 1, 0, 0x0, 0x0, 0x0, 0xFFFF, 0x0, 0x0, 0x0, false, .none, false, false⟩,
  ⟨"HALL_ROOM_RECOMPILE", 0x100054, 1, 0x0, 1, 0, 0x0, 0x0, 0x0, 0xFFFF, 0x0, 0x0, 0x0, false, .none, false, false⟩,
  ⟨"HALL_INT_STATUS", 0x100040, 1, 0x0, 1, 0, 0x0, 0x1FF, 0x0, 0x0, 0x0, 0x0, 0x0, false, .none, false, false⟩,
  ⟨"HALL_INT_EN", 0x100044, 1, 0x0, 1, 0, 0x1FF, 0x0, 0x0, 0x0, 0x0, 0x0, 0x0, false, .none, false, false⟩,
  ⟨"HALL_LINE_SEL", 0x100080, 1, 0x0, 1, 0, 0x1FF001F, 0x0, 0x0, 0x0, 0x0, 0x0, 0x0, false, .requester, true, false⟩,
  ⟨"HALL_LINE_INFO", 0x100084, 1, 0x0, 1, 0, 0x0, 0x0, 0x0, 0xFFFF0000, 0x0, 0x0, 0x0, false, .line, false, false⟩,
  ⟨"HALL_LINE_REJECTS", 0x100088, 1, 0x0, 1, 0, 0x0, 0x0, 0xFFFFFFFF, 0x0, 0x0, 0x0, 0x0, false, .line, false, false⟩,
  ⟨"HALL_LINE_HIST", 0x10008C, 1, 0x0, 1, 0, 0x0, 0x0, 0x0, 0xFFFF, 0x0, 0x0, 0x0, false, .line, false, false⟩,
  ⟨"HALL_LATCH_SEL", 0x1000A0, 1, 0x0, 1, 0, 0x1F0001FF, 0x0, 0x0, 0x0, 0x0, 0x0, 0x0, false, .requester, true, false⟩,
  ⟨"HALL_LATCH_INFO", 0x1000A4, 1, 0x0, 1, 0, 0x0, 0x0, 0x0, 0xC1FF1F1F, 0x0, 0x80000000, 0x0, false, .latch, false, false⟩,
  ⟨"HALL_BSTATE", 0x101000, 1, 0x0, 293, 4, 0x0, 0x0, 0x0, 0xFFFFFFFF, 0x0, 0x0, 0x0, false, .none, false, false⟩,
  ⟨"HALL_MAP0", 0x102000, 1, 0x0, 293, 16, 0x0, 0x0, 0x0, 0x3FFFFFFF, 0x0, 0x0, 0x0, false, .none, false, false⟩,
  ⟨"HALL_MAP1", 0x102004, 1, 0x0, 293, 16, 0x0, 0x0, 0x0, 0x3FFFFFFF, 0x0, 0x0, 0x0, false, .none, false, false⟩,
  ⟨"HALL_MAP2", 0x102008, 1, 0x0, 293, 16, 0x0, 0x0, 0x0, 0x3FFFFFFF, 0x0, 0x0, 0x0, false, .none, false, false⟩,
  ⟨"HALL_MAP3", 0x10200C, 1, 0x0, 293, 16, 0x0, 0x0, 0x0, 0xFFFFFFFF, 0x0, 0x0, 0x0, false, .none, false, false⟩,
  ⟨"HALL_SRC", 0x108000, 1, 0x0, 30, 4, 0x0, 0x0, 0x0, 0xFFFFFFC0, 0x0, 0x0, 0x0, false, .none, false, false⟩]

/-- The registers of the HALL block, continued. -/
def rowsHall_1 : List RegRow := [
  ⟨"HALL_LASER_CTL", 0x108100, 1, 0x0, 1, 0, 0x1F00, 0x0, 0x0, 0x0, 0x1, 0x0, 0x0, false, .none, false, false⟩,
  ⟨"HALL_LASER_STATUS", 0x108104, 1, 0x0, 1, 0, 0x0, 0x0, 0x0, 0xF, 0x0, 0x0, 0x0, false, .none, false, false⟩,
  ⟨"HALL_GROUP_ALERT", 0x108108, 1, 0x0, 1, 0, 0x0, 0x0, 0x0, 0x3FFFFFF, 0x0, 0x0, 0x0, false, .none, false, false⟩,
  ⟨"HALL_LASER_INT_STATUS", 0x108110, 1, 0x0, 1, 0, 0x0, 0x3F, 0x0, 0x0, 0x0, 0x0, 0x0, false, .none, false, false⟩,
  ⟨"HALL_LASER_INT_EN", 0x108114, 1, 0x0, 1, 0, 0x3F, 0x0, 0x0, 0x0, 0x0, 0x0, 0x0, false, .none, false, false⟩,
  ⟨"HALL_LASER_SWAPS", 0x108118, 1, 0x0, 1, 0, 0x0, 0x0, 0xFFFFFFFF, 0x0, 0x0, 0x0, 0x0, false, .none, false, false⟩,
  ⟨"HALL_RING_WRONG", 0x109008, 1, 0x0, 1, 0, 0x0, 0x0, 0xFFFFFFFF, 0x0, 0x0, 0x0, 0x0, false, .ring, false, false⟩,
  ⟨"HALL_RELOCKS", 0x109010, 1, 0x0, 1, 0, 0x0, 0x0, 0xFFFFFFFF, 0x0, 0x0, 0x0, 0x0, false, .none, false, false⟩,
  ⟨"HALL_REACQUIRES", 0x109014, 1, 0x0, 1, 0, 0x0, 0x0, 0xFFFFFFFF, 0x0, 0x0, 0x0, 0x0, false, .none, false, false⟩,
  ⟨"HALL_RINGS_RETIRED", 0x109018, 1, 0x0, 1, 0, 0x0, 0x0, 0x0, 0xFFFF, 0x0, 0x0, 0x0, false, .none, false, false⟩,
  ⟨"HALL_SEED_NOTONE", 0x109100, 1, 0x0, 1, 0, 0x0, 0x0, 0xFFFFFFFF, 0x0, 0x0, 0x0, 0x0, false, .none, false, false⟩,
  ⟨"HALL_SLEW_EXCEED", 0x109204, 1, 0x0, 1, 0, 0x0, 0x0, 0xFFFFFFFF, 0x0, 0x0, 0x0, 0x0, false, .none, false, false⟩,
  ⟨"HALL_RING_SEL", 0x109000, 1, 0x0, 1, 0, 0xFFC001FF, 0x0, 0x0, 0x0, 0x0, 0x0, 0x0, false, .requester, true, false⟩,
  ⟨"HALL_RING_INFO", 0x109004, 1, 0x0, 1, 0, 0x0, 0x0, 0x0, 0xFFE0FFFF, 0x0, 0xBF000000, 0x0, false, .ring, false, false⟩,
  ⟨"HALL_RING_CORR", 0x10900C, 1, 0x0, 1, 0, 0x0, 0x0, 0x0, 0xFFFF, 0x0, 0x0, 0x0, false, .ring, false, false⟩,
  ⟨"HALL_SLEW", 0x109200, 1, 0x0, 1, 0, 0x1F001F, 0x0, 0x0, 0x0, 0x0, 0x14000C, 0x0, false, .none, false, false⟩]

/-- The registers of the HALL block. -/
def rowsHall : List RegRow := rowsHall_0 ++ rowsHall_1

/-- The registers of the CEL block. -/
def rowsCel_0 : List RegRow := [
  ⟨"CEL_ID", 0x600000, 12, 0x20000, 1, 0, 0x0, 0x0, 0x0, 0xFFFFFF0F, 0x0, 0x0, 0x0, false, .none, false, false⟩,
  ⟨"CEL_STATUS", 0x600004, 12, 0x20000, 1, 0, 0x0, 0x0, 0x0, 0xFE00007F, 0x0, 0x0, 0x0, false, .none, false, false⟩,
  ⟨"CEL_RETIRED_LO", 0x600008, 12, 0x20000, 1, 0, 0x0, 0x0, 0x0, 0xFFFFFFFF, 0x0, 0x0, 0x0, true, .none, false, false⟩,
  ⟨"CEL_RETIRED_HI", 0x60000C, 12, 0x20000, 1, 0, 0x0, 0x0, 0x0, 0xFFFFFFFF, 0x0, 0x0, 0x0, false, .none, false, false⟩,
  ⟨"CEL_CE_OVF_LO", 0x600010, 12, 0x20000, 1, 0, 0x0, 0xFFFFFFFF, 0x0, 0x0, 0x0, 0x0, 0x0, true, .none, false, false⟩,
  ⟨"CEL_CE_OVF_HI", 0x600014, 12, 0x20000, 1, 0, 0x0, 0xFFFFFFFF, 0x0, 0x0, 0x0, 0x0, 0x0, false, .none, false, false⟩,
  ⟨"CEL_TXLATE", 0x600018, 12, 0x20000, 1, 0, 0x0, 0x0, 0xFFFFFFFF, 0x0, 0x0, 0x0, 0x0, false, .none, false, false⟩,
  ⟨"CEL_REQ_BUSY", 0x60001C, 12, 0x20000, 1, 0, 0x0, 0x0, 0xFFFFFFFF, 0x0, 0x0, 0x0, 0x0, false, .none, false, false⟩,
  ⟨"CEL_SLICE_CORR", 0x600034, 12, 0x20000, 1, 0, 0x0, 0x0, 0xFFFFFFFF, 0x0, 0x0, 0x0, 0x0, false, .slice, false, false⟩,
  ⟨"CEL_SLICE_UNCORR", 0x600038, 12, 0x20000, 1, 0, 0x0, 0x0, 0xFFFFFFFF, 0x0, 0x0, 0x0, 0x0, false, .slice, false, false⟩,
  ⟨"CEL_SCRUB_FIRST", 0x600110, 12, 0x20000, 1, 0, 0xFFFFFF, 0x0, 0x0, 0x0, 0x0, 0x0, 0x0, false, .none, false, false⟩,
  ⟨"CEL_SCRUB_LAST", 0x600114, 12, 0x20000, 1, 0, 0xFFFFFF, 0x0, 0x0, 0x0, 0x0, 0xEE6B27, 0x0, false, .none, false, false⟩,
  ⟨"CEL_SCRUB_MASK_LO", 0x600108, 12, 0x20000, 1, 0, 0xFFFFFFFF, 0x0, 0x0, 0x0, 0x0, 0x0, 0x0, true, .none, false, false⟩,
  ⟨"CEL_SCRUB_MASK_HI", 0x60010C, 12, 0x20000, 1, 0, 0xFFFFFFFF, 0x0, 0x0, 0x0, 0x0, 0x0, 0x0, false, .none, false, false⟩,
  ⟨"CEL_SCRUB_SUM", 0x600120, 12, 0x20000, 8, 4, 0x0, 0x0, 0x0, 0xFFFFFFFF, 0x0, 0x0, 0x0, false, .none, false, false⟩,
  ⟨"CEL_INVAL_MASK_LO", 0x600208, 12, 0x20000, 1, 0, 0xFFFFFFFF, 0x0, 0x0, 0x0, 0x0, 0x0, 0x0, true, .none, false, false⟩,
  ⟨"CEL_INVAL_MASK_HI", 0x60020C, 12, 0x20000, 1, 0, 0xFFFFFFFF, 0x0, 0x0, 0x0, 0x0, 0x0, 0x0, false, .none, false, false⟩,
  ⟨"CEL_INVAL_FIRST", 0x600210, 12, 0x20000, 1, 0, 0x3FFFF, 0x0, 0x0, 0x0, 0x0, 0x0, 0x0, false, .none, false, false⟩,
  ⟨"CEL_INVAL_LAST", 0x600214, 12, 0x20000, 1, 0, 0x3FFFF, 0x0, 0x0, 0x0, 0x0, 0x0, 0x0, false, .none, false, false⟩,
  ⟨"CEL_VALID_PAGES", 0x600218, 12, 0x20000, 1, 0, 0x0, 0x0, 0x0, 0xFFFFFF, 0x0, 0x0, 0x0, false, .none, false, false⟩,
  ⟨"CEL_SOA_TREES", 0x600300, 12, 0x20000, 1, 0, 0x0, 0x0, 0x0, 0x7FF, 0x0, 0x0, 0x0, false, .none, false, false⟩,
  ⟨"CEL_SOA_SAT", 0x600304, 12, 0x20000, 1, 0, 0x0, 0x0, 0xFFFFFFFF, 0x0, 0x0, 0x0, 0x0, false, .none, false, false⟩,
  ⟨"CEL_SOA_HUSK", 0x600308, 12, 0x20000, 1, 0, 0x0, 0x0, 0xFFFFFFFF, 0x0, 0x0, 0x0, 0x0, false, .none, false, false⟩,
  ⟨"CEL_SOA_HWM", 0x60030C, 12, 0x20000, 1, 0, 0x0, 0x0, 0x1FF, 0x0, 0x0, 0x0, 0x0, false, .none, false, false⟩]

/-- The registers of the CEL block, continued. -/
def rowsCel_1 : List RegRow := [
  ⟨"CEL_CE_CTL", 0x600020, 12, 0x20000, 1, 0, 0xFFFF00FF, 0x0, 0x0, 0x0, 0x0, 0x10000040, 0x0, false, .none, false, false⟩,
  ⟨"CEL_SLICE_SEL", 0x600030, 12, 0x20000, 1, 0, 0x3F, 0x0, 0x0, 0x0, 0x0, 0x0, 0x0, false, .requester, true, false⟩,
  ⟨"CEL_SLICE_INFO", 0x60003C, 12, 0x20000, 1, 0, 0x0, 0x0, 0x0, 0x80FFFFFF, 0x0, 0x0, 0x0, false, .slice, false, false⟩,
  ⟨"CEL_INT_STATUS", 0x600050, 12, 0x20000, 1, 0, 0x0, 0x3F, 0x0, 0x0, 0x0, 0x0, 0x0, false, .none, false, false⟩,
  ⟨"CEL_INT_EN", 0x600054, 12, 0x20000, 1, 0, 0x3F, 0x0, 0x0, 0x0, 0x0, 0x0, 0x0, false, .none, false, false⟩,
  ⟨"CEL_SCRUB_CTL", 0x600100, 12, 0x20000, 1, 0, 0xFC, 0x0, 0x0, 0x0, 0x1, 0x10, 0x0, false, .none, false, false⟩,
  ⟨"CEL_SCRUB_STATUS", 0x600118, 12, 0x20000, 1, 0, 0x0, 0x8, 0x0, 0x7, 0x0, 0x0, 0x0, false, .none, false, false⟩,
  ⟨"CEL_INVAL_CTL", 0x600200, 12, 0x20000, 1, 0, 0x0, 0x0, 0x0, 0x30, 0x1, 0x0, 0x0, false, .none, false, false⟩]

/-- The registers of the CEL block. -/
def rowsCel : List RegRow := rowsCel_0 ++ rowsCel_1

/-- The registers of the ROOM block. -/
def rowsRoom : List RegRow := [
  ⟨"ROOM_STATUS", 0xC00000, 16, 0x10000, 1, 0, 0x0, 0x0, 0x0, 0xFF80FFC0, 0x0, 0x0, 0x0, false, .none, false, false⟩,
  ⟨"ROOM_CTL", 0xC00004, 16, 0x10000, 1, 0, 0x100, 0x0, 0x0, 0x0, 0x7, 0x100, 0x0, false, .none, false, false⟩,
  ⟨"ROOM_SWITCH", 0xC00008, 16, 0x10000, 1, 0, 0x3F0F00, 0x0, 0x0, 0x0, 0x1, 0x0, 0x0, false, .none, false, false⟩,
  ⟨"ROOM_SWITCH_STATUS", 0xC0000C, 16, 0x10000, 1, 0, 0x0, 0x0, 0x0, 0xFFFF00F7, 0x0, 0x0, 0x0, false, .none, false, false⟩,
  ⟨"ROOM_RESETS", 0xC00020, 16, 0x10000, 1, 0, 0x0, 0x0, 0x0, 0xFF00FFFF, 0x0, 0x0, 0x0, false, .none, false, false⟩,
  ⟨"ROOM_LIMITS", 0xC00024, 16, 0x10000, 1, 0, 0xFF, 0x0, 0x0, 0x0, 0x0, 0x3, 0x0, false, .none, false, false⟩,
  ⟨"ROOM_RESIDENT_LO", 0xC00010, 16, 0x10000, 1, 0, 0x0, 0x0, 0x0, 0xFFFFFFFF, 0x0, 0x0, 0x0, true, .none, false, false⟩,
  ⟨"ROOM_RESIDENT_HI", 0xC00014, 16, 0x10000, 1, 0, 0x0, 0x0, 0x0, 0xFFFFFFFF, 0x0, 0x0, 0x0, false, .none, false, false⟩,
  ⟨"ROOM_FILLED_LO", 0xC00018, 16, 0x10000, 1, 0, 0x0, 0x0, 0x0, 0xFFFFFFFF, 0x0, 0x0, 0x0, true, .none, false, false⟩,
  ⟨"ROOM_FILLED_HI", 0xC0001C, 16, 0x10000, 1, 0, 0x0, 0x0, 0x0, 0xFFFFFFFF, 0x0, 0x0, 0x0, false, .none, false, false⟩,
  ⟨"ROOM_SWITCHES", 0xC00028, 16, 0x10000, 1, 0, 0x0, 0x0, 0xFFFFFFFF, 0x0, 0x0, 0x0, 0x0, false, .none, false, false⟩,
  ⟨"ROOM_STATE_FRAME_LO", 0xC00030, 16, 0x10000, 1, 0, 0x0, 0x0, 0x0, 0xFFFFFFFF, 0x0, 0x0, 0x0, true, .none, false, false⟩,
  ⟨"ROOM_STATE_FRAME_HI", 0xC00034, 16, 0x10000, 1, 0, 0x0, 0x0, 0x0, 0xFFFF, 0x0, 0x0, 0x0, false, .none, false, false⟩,
  ⟨"ROOM_ROWS_T", 0xC00100, 16, 0x10000, 8, 4, 0x0, 0x0, 0x0, 0xFFFF, 0x0, 0x0, 0x0, false, .none, false, false⟩,
  ⟨"ROOM_SLICES", 0xC00200, 16, 0x10000, 24, 4, 0x0, 0x0, 0x0, 0xFFFFFFFF, 0x0, 0x0, 0x0, false, .none, false, false⟩,
  ⟨"ROOM_INT_STATUS", 0xC00040, 16, 0x10000, 1, 0, 0x0, 0x3F, 0x0, 0x0, 0x0, 0x0, 0x0, false, .none, false, false⟩,
  ⟨"ROOM_INT_EN", 0xC00044, 16, 0x10000, 1, 0, 0x3F, 0x0, 0x0, 0x0, 0x0, 0x0, 0x0, false, .none, false, false⟩]

/-- The registers of the QUE block. -/
def rowsQue : List RegRow := [
  ⟨"QUE_POOL_STATUS", 0xA00000, 1, 0x0, 1, 0, 0x0, 0x0, 0x0, 0x3FFFF, 0x0, 0x20000, 0x0, false, .none, false, false⟩,
  ⟨"QUE_POOL_CTL", 0xA00004, 1, 0x0, 1, 0, 0x1FFFF, 0x0, 0x0, 0x0, 0x0, 0x2000, 0x0, false, .none, false, false⟩,
  ⟨"QUE_Q_CFG", 0xA00104, 1, 0x0, 1, 0, 0x80000000, 0x0, 0x0, 0x7FFCFFFF, 0x0, 0x0, 0x0, false, .queue, false, false⟩,
  ⟨"QUE_Q_LIM", 0xA00108, 1, 0x0, 1, 0, 0xFFFFFFFF, 0x0, 0x0, 0x0, 0x0, 0x1000000, 0x0, false, .queue, false, false⟩,
  ⟨"QUE_POOL_LOW", 0xA00008, 1, 0x0, 1, 0, 0x0, 0x0, 0x3FFFF, 0x0, 0x0, 0x20000, 0x0, false, .none, false, false⟩,
  ⟨"QUE_BAD_DOORBELL", 0xA00018, 1, 0x0, 1, 0, 0x0, 0x0, 0xFFFFFFFF, 0x0, 0x0, 0x0, 0x0, false, .none, false, false⟩,
  ⟨"QUE_SEL", 0xA00100, 1, 0x0, 1, 0, 0x1FFF, 0x0, 0x0, 0x0, 0x0, 0x0, 0x0, false, .requester, true, false⟩,
  ⟨"QUE_Q_RINGSZ", 0xA0010C, 1, 0x0, 1, 0, 0x1F, 0x0, 0x0, 0x0, 0x0, 0xC, 0x0, false, .queue, false, false⟩,
  ⟨"QUE_Q_RING_LO", 0xA00110, 1, 0x0, 1, 0, 0xFFFFF000, 0x0, 0x0, 0x0, 0x0, 0x0, 0x0, true, .queue, false, false⟩,
  ⟨"QUE_Q_RING_HI", 0xA00114, 1, 0x0, 1, 0, 0xFFFFFFFF, 0x0, 0x0, 0x0, 0x0, 0x0, 0x0, false, .queue, false, false⟩,
  ⟨"QUE_Q_SHADOW_LO", 0xA00118, 1, 0x0, 1, 0, 0xFFFFFFF8, 0x0, 0x0, 0x0, 0x0, 0x0, 0x0, true, .queue, false, false⟩,
  ⟨"QUE_Q_SHADOW_HI", 0xA0011C, 1, 0x0, 1, 0, 0xFFFFFFFF, 0x0, 0x0, 0x0, 0x0, 0x0, 0x0, false, .queue, false, false⟩,
  ⟨"QUE_Q_VEC", 0xA00120, 1, 0x0, 1, 0, 0x7FF, 0x0, 0x0, 0x0, 0x0, 0x20, 0x0, false, .queue, false, false⟩,
  ⟨"QUE_Q_CELLS", 0xA00124, 1, 0x0, 1, 0, 0x0, 0x0, 0x0, 0x1FFFF, 0x0, 0x0, 0x0, false, .queue, false, false⟩,
  ⟨"QUE_Q_PACKETS", 0xA00128, 1, 0x0, 1, 0, 0x0, 0x0, 0x0, 0x1FFFF, 0x0, 0x0, 0x0, false, .queue, false, false⟩,
  ⟨"QUE_Q_GAP_COUNT", 0xA0012C, 1, 0x0, 1, 0, 0x0, 0x0, 0x0, 0xFFFFFFFF, 0x0, 0x0, 0x0, false, .queue, false, false⟩,
  ⟨"QUE_Q_GAP_FRAME_LO", 0xA00130, 1, 0x0, 1, 0, 0x0, 0x0, 0x0, 0xFFFFFFFF, 0x0, 0x0, 0x0, true, .queue, false, false⟩,
  ⟨"QUE_Q_GAP_FRAME_HI", 0xA00134, 1, 0x0, 1, 0, 0x0, 0x0, 0x0, 0xFFFF, 0x0, 0x0, 0x0, false, .queue, false, false⟩,
  ⟨"QUE_Q_DROPS", 0xA00138, 1, 0x0, 1, 0, 0x0, 0x0, 0xFFFFFFFF, 0x0, 0x0, 0x0, 0x0, false, .queue, false, false⟩,
  ⟨"QUE_Q_REWOUND", 0xA0013C, 1, 0x0, 1, 0, 0x0, 0x0, 0xFFFFFFFF, 0x0, 0x0, 0x0, 0x0, false, .queue, false, false⟩,
  ⟨"QUE_Q_SEQ", 0xA00140, 1, 0x0, 1, 0, 0x0, 0x0, 0x0, 0xFFFFFFFF, 0x0, 0x0, 0x0, false, .queue, false, false⟩,
  ⟨"QUE_INT_STATUS", 0xA00010, 1, 0x0, 1, 0, 0x0, 0xF, 0x0, 0x0, 0x0, 0x0, 0x0, false, .none, false, false⟩,
  ⟨"QUE_INT_EN", 0xA00014, 1, 0x0, 1, 0, 0xF, 0x0, 0x0, 0x0, 0x0, 0x0, 0x0, false, .none, false, false⟩]

/-- The registers of the BIT block. -/
def rowsBit : List RegRow := [
  ⟨"BIT_CTL", 0xD00000, 1, 0x0, 1, 0, 0x0, 0x0, 0x0, 0x0, 0x3, 0x0, 0x0, false, .requester, true, false⟩,
  ⟨"BIT_CFG", 0xD00004, 1, 0x0, 1, 0, 0xF03, 0x0, 0x0, 0x0, 0x0, 0x0, 0x0, false, .requester, true, false⟩,
  ⟨"BIT_SRC_LO", 0xD00008, 1, 0x0, 1, 0, 0xFFFFFFC0, 0x0, 0x0, 0x0, 0x0, 0x0, 0x0, true, .requester, true, false⟩,
  ⟨"BIT_SRC_HI", 0xD0000C, 1, 0x0, 1, 0, 0xFFFFFFFF, 0x0, 0x0, 0x0, 0x0, 0x0, 0x0, false, .requester, true, false⟩,
  ⟨"BIT_LEN", 0xD00010, 1, 0x0, 1, 0, 0x7FFFFFC0, 0x0, 0x0, 0x0, 0x0, 0x0, 0x0, false, .requester, true, false⟩,
  ⟨"BIT_FAIL_STEP", 0xD00028, 1, 0x0, 1, 0, 0x0, 0x0, 0x0, 0xFFFFFFFF, 0x0, 0x0, 0x0, false, .requester, true, false⟩,
  ⟨"BIT_FAIL_OFFSET", 0xD0002C, 1, 0x0, 1, 0, 0x0, 0x0, 0x0, 0xFFFFFFFF, 0x0, 0x0, 0x0, false, .requester, true, false⟩,
  ⟨"BIT_RESULT_ID_LO", 0xD00030, 1, 0x0, 1, 0, 0x0, 0x0, 0x0, 0xFFFFFFFF, 0x0, 0x0, 0x0, true, .requester, true, false⟩,
  ⟨"BIT_RESULT_ID_HI", 0xD00034, 1, 0x0, 1, 0, 0x0, 0x0, 0x0, 0xFFFFFFFF, 0x0, 0x0, 0x0, false, .requester, true, false⟩,
  ⟨"BIT_STATUS", 0xD00020, 1, 0x0, 1, 0, 0x0, 0x0, 0x0, 0xFFFF1F07, 0x0, 0x0, 0xFFFF1F07, false, .none, false, false⟩,
  ⟨"BIT_RESULT", 0xD00024, 1, 0x0, 1, 0, 0x0, 0x0, 0x0, 0xFF07FFFF, 0x0, 0xFFFF, 0x0, false, .requester, true, false⟩,
  ⟨"BIT_STORE", 0xD00040, 1, 0x0, 1, 0, 0x0, 0x0, 0x0, 0xFFFFFFFF, 0x0, 0x4000, 0x0, false, .none, false, false⟩,
  ⟨"BIT_INT_STATUS", 0xD00048, 1, 0x0, 1, 0, 0x0, 0x7, 0x0, 0x0, 0x0, 0x0, 0x0, false, .none, false, false⟩,
  ⟨"BIT_INT_EN", 0xD0004C, 1, 0x0, 1, 0, 0x7, 0x0, 0x0, 0x0, 0x0, 0x0, 0x0, false, .none, false, false⟩,
  ⟨"BIT_ROOM_SRC_LO", 0xD00100, 1, 0x0, 16, 16, 0x0, 0x0, 0x0, 0xFFFFFFC3, 0x0, 0x0, 0x0, true, .none, false, false⟩,
  ⟨"BIT_ROOM_SRC_HI", 0xD00104, 1, 0x0, 16, 16, 0x0, 0x0, 0x0, 0xFFFFFFFF, 0x0, 0x0, 0x0, false, .none, false, false⟩,
  ⟨"BIT_ROOM_LEN", 0xD00108, 1, 0x0, 16, 16, 0x0, 0x0, 0x0, 0x7FFFFFC0, 0x0, 0x0, 0x0, false, .none, false, false⟩,
  ⟨"BIT_ROOM_STATE", 0xD0010C, 1, 0x0, 16, 16, 0x0, 0x0, 0x0, 0x800001F0, 0x1, 0x0, 0x0, false, .none, false, false⟩]

/-- The registers of the PCH block. -/
def rowsPch_0 : List RegRow := [
  ⟨"PCH_NODE", 0x800004, 2, 0x100000, 1, 0, 0xFFF0FFF, 0x0, 0x0, 0x0, 0x0, 0x0, 0x0, false, .none, false, true⟩,
  ⟨"PCH_FAB_CTL", 0x800008, 2, 0x100000, 1, 0, 0xFFFFC0FF, 0x0, 0x0, 0x0, 0x0, 0x81460014, 0x0, false, .none, false, true⟩,
  ⟨"PCH_MGMT", 0x80000C, 2, 0x100000, 1, 0, 0x80000FFF, 0x0, 0x0, 0x0, 0x0, 0x0, 0x0, false, .none, false, true⟩,
  ⟨"PCH_THROTTLE", 0x800020, 2, 0x100000, 1, 0, 0xFFFFFFFF, 0x0, 0x0, 0x0, 0x0, 0x2000100, 0x0, false, .none, false, true⟩,
  ⟨"PCH_ID", 0x800000, 2, 0x100000, 1, 0, 0x0, 0x0, 0x0, 0xFF01, 0x0, 0x0, 0x0, false, .none, false, false⟩,
  ⟨"PCH_ROUTE_EPOCH", 0x800010, 2, 0x100000, 1, 0, 0x0, 0x0, 0x0, 0xFFFFFFFF, 0x0, 0x0, 0x0, false, .none, false, true⟩,
  ⟨"PCH_BREAK_X", 0x800014, 2, 0x100000, 1, 0, 0x0, 0x0, 0x0, 0xFFFF, 0x0, 0x0, 0x0, false, .none, false, true⟩,
  ⟨"PCH_BREAK_Y", 0x800018, 2, 0x100000, 1, 0, 0x0, 0x0, 0x0, 0xFFFF, 0x0, 0x0, 0x0, false, .none, false, true⟩,
  ⟨"PCH_BREAK_Z", 0x80001C, 2, 0x100000, 1, 0, 0x0, 0x0, 0x0, 0xFFFF, 0x0, 0x0, 0x0, false, .none, false, true⟩,
  ⟨"PCH_CMAP_CTL", 0x800024, 2, 0x100000, 1, 0, 0xF, 0x0, 0x0, 0x0, 0x0, 0xA, 0x0, false, .none, false, true⟩,
  ⟨"PCH_TICK_SNAP_HI", 0x80002C, 2, 0x100000, 1, 0, 0x8000FFFF, 0x0, 0x0, 0x0, 0x0, 0x0, 0x0, false, .none, false, true⟩,
  ⟨"PCH_TICK_SNAP_LO", 0x800028, 2, 0x100000, 1, 0, 0xFFFFFFFF, 0x0, 0x0, 0x0, 0x0, 0x0, 0x0, true, .none, false, true⟩,
  ⟨"PCH_WIN_ACTIVE", 0x800040, 2, 0x100000, 1, 0, 0x0, 0x0, 0x0, 0xFFF, 0x0, 0x0, 0x0, false, .none, false, false⟩,
  ⟨"PCH_WIN_FAILED", 0x800044, 2, 0x100000, 1, 0, 0x0, 0x0, 0xFFFFFFFF, 0x0, 0x0, 0x0, 0x0, false, .none, false, false⟩,
  ⟨"PCH_RETX", 0x800048, 2, 0x100000, 1, 0, 0x0, 0x0, 0xFFFFFFFF, 0x0, 0x0, 0x0, 0x0, false, .none, false, false⟩,
  ⟨"PCH_MSG_LOST", 0x80004C, 2, 0x100000, 1, 0, 0x0, 0x0, 0xFFFFFFFF, 0x0, 0x0, 0x0, 0x0, false, .none, false, false⟩,
  ⟨"PCH_MSG_DENY", 0x800050, 2, 0x100000, 1, 0, 0x0, 0x0, 0xFFFFFFFF, 0x0, 0x0, 0x0, 0x0, false, .none, false, false⟩,
  ⟨"PCH_INJ_DROP", 0x800054, 2, 0x100000, 1, 0, 0x0, 0x0, 0xFFFFFFFF, 0x0, 0x0, 0x0, 0x0, false, .none, false, false⟩,
  ⟨"PCH_UNREACH", 0x800058, 2, 0x100000, 1, 0, 0x0, 0x0, 0xFFFFFFFF, 0x0, 0x0, 0x0, 0x0, false, .none, false, false⟩,
  ⟨"PCH_DEAD_LINK_DROP", 0x80005C, 2, 0x100000, 1, 0, 0x0, 0x0, 0xFFFFFFFF, 0x0, 0x0, 0x0, 0x0, false, .none, false, false⟩,
  ⟨"PCH_THROTTLED", 0x800060, 2, 0x100000, 1, 0, 0x0, 0x0, 0xFFFFFFFF, 0x0, 0x0, 0x0, 0x0, false, .none, false, false⟩,
  ⟨"PCH_BAD_PKT", 0x800064, 2, 0x100000, 1, 0, 0x0, 0x0, 0xFFFFFFFF, 0x0, 0x0, 0x0, 0x0, false, .none, false, false⟩,
  ⟨"PCH_MGMT_DENY", 0x800068, 2, 0x100000, 1, 0, 0x0, 0x0, 0xFFFFFFFF, 0x0, 0x0, 0x0, 0x0, false, .none, false, false⟩,
  ⟨"PCH_INT_STATUS", 0x800030, 2, 0x100000, 1, 0, 0x0, 0x1FF, 0x0, 0x0, 0x0, 0x0, 0x0, false, .none, false, false⟩]

/-- The registers of the PCH block, continued. -/
def rowsPch_1 : List RegRow := [
  ⟨"PCH_INT_EN", 0x800034, 2, 0x100000, 1, 0, 0x1FF, 0x0, 0x0, 0x0, 0x0, 0x0, 0x0, false, .none, false, false⟩,
  ⟨"PCH_PORT_CTL", 0x800100, 2, 0x100000, 3, 64, 0xF01, 0x0, 0x0, 0x0, 0xE, 0x1, 0x0, false, .none, false, false⟩,
  ⟨"PCH_PORT_STATUS", 0x800104, 2, 0x100000, 3, 64, 0x0, 0x0, 0x0, 0xFE000FFF, 0x0, 0x0, 0x0, false, .none, false, false⟩,
  ⟨"PCH_PORT_LANES", 0x800108, 2, 0x100000, 3, 64, 0x0, 0x0, 0x0, 0xFFFFFFFF, 0x0, 0x0, 0x0, false, .none, false, false⟩,
  ⟨"PCH_PORT_DELAY", 0x80010C, 2, 0x100000, 3, 64, 0x0, 0x0, 0x0, 0xFFFF, 0x0, 0x0, 0x0, false, .none, false, false⟩,
  ⟨"PCH_PORT_FEC_CORR", 0x800110, 2, 0x100000, 3, 64, 0x0, 0x0, 0xFFFFFFFF, 0x0, 0x0, 0x0, 0x0, false, .none, false, false⟩,
  ⟨"PCH_PORT_FEC_UNCORR", 0x800114, 2, 0x100000, 3, 64, 0x0, 0x0, 0xFFFFFFFF, 0x0, 0x0, 0x0, 0x0, false, .none, false, false⟩,
  ⟨"PCH_PORT_REPLAYS", 0x800118, 2, 0x100000, 3, 64, 0x0, 0x0, 0xFFFFFFFF, 0x0, 0x0, 0x0, 0x0, false, .none, false, false⟩,
  ⟨"PCH_PORT_TICK_IGN", 0x80011C, 2, 0x100000, 3, 64, 0x0, 0x0, 0xFFFFFFFF, 0x0, 0x0, 0x0, 0x0, false, .none, false, false⟩,
  ⟨"PCH_MC_SEL", 0x800400, 2, 0x100000, 1, 0, 0x3FF, 0x0, 0x0, 0x0, 0x0, 0x0, 0x0, false, .requester, true, true⟩,
  ⟨"PCH_MC_CFG", 0x800404, 2, 0x100000, 1, 0, 0x7F, 0x0, 0x0, 0x0, 0x0, 0x0, 0x0, false, .group, false, true⟩,
  ⟨"PCH_MC_MEMBER_SEL", 0x800408, 2, 0x100000, 1, 0, 0x3F, 0x0, 0x0, 0x0, 0x0, 0x0, 0x0, false, .requester, true, true⟩,
  ⟨"PCH_MC_MEMBER", 0x80040C, 2, 0x100000, 1, 0, 0xFFFFFFFF, 0x0, 0x0, 0x0, 0x0, 0x0, 0x0, false, .member, false, true⟩,
  ⟨"PCH_ALLOW", 0x800600, 2, 0x100000, 128, 4, 0x8FFF0FFF, 0x0, 0x0, 0x0, 0x0, 0x0, 0x0, false, .none, false, true⟩,
  ⟨"PCH_JOB", 0x801000, 2, 0x100000, 16, 4, 0x8000FFFF, 0x0, 0x0, 0x0, 0x0, 0x0, 0x0, false, .none, false, true⟩,
  ⟨"PCH_WIN_CFG", 0x801104, 2, 0x100000, 1, 0, 0xF80F0FFF, 0x0, 0x0, 0x0, 0x0, 0x0, 0x0, false, .window, false, true⟩,
  ⟨"PCH_KEY_CFG", 0x801204, 2, 0x100000, 1, 0, 0xB0000FFF, 0x0, 0x0, 0x0, 0x0, 0x0, 0x0, false, .key, false, true⟩,
  ⟨"PCH_WIN_SEL", 0x801100, 2, 0x100000, 1, 0, 0xFFF, 0x0, 0x0, 0x0, 0x0, 0x0, 0x0, false, .requester, true, true⟩,
  ⟨"PCH_WIN_JOB", 0x801108, 2, 0x100000, 1, 0, 0xFFFF, 0x0, 0x0, 0x0, 0x0, 0x0, 0x0, false, .window, false, true⟩,
  ⟨"PCH_WIN_NODE", 0x80110C, 2, 0x100000, 1, 0, 0xFFF0FFF, 0x0, 0x0, 0x0, 0x0, 0x0, 0x0, false, .window, false, true⟩,
  ⟨"PCH_WIN_BASE_LO", 0x801110, 2, 0x100000, 1, 0, 0xFFFFF000, 0x0, 0x0, 0x0, 0x0, 0x0, 0x0, true, .window, false, true⟩,
  ⟨"PCH_WIN_BASE_HI", 0x801114, 2, 0x100000, 1, 0, 0xFF, 0x0, 0x0, 0x0, 0x0, 0x0, 0x0, false, .window, false, true⟩,
  ⟨"PCH_WIN_SIZE_LO", 0x801118, 2, 0x100000, 1, 0, 0xFFFFF000, 0x0, 0x0, 0x0, 0x0, 0x0, 0x0, true, .window, false, true⟩,
  ⟨"PCH_WIN_SIZE_HI", 0x80111C, 2, 0x100000, 1, 0, 0xFF, 0x0, 0x0, 0x0, 0x0, 0x0, 0x0, false, .window, false, true⟩]

/-- The registers of the PCH block, continued. -/
def rowsPch_2 : List RegRow := [
  ⟨"PCH_KEY_SEL", 0x801200, 2, 0x100000, 1, 0, 0xFFF, 0x0, 0x0, 0x0, 0x0, 0x0, 0x0, false, .requester, true, true⟩,
  ⟨"PCH_KEY_OWNER", 0x801208, 2, 0x100000, 1, 0, 0xFFFF0FFF, 0x0, 0x0, 0x0, 0x0, 0x0, 0x0, false, .key, false, true⟩,
  ⟨"PCH_KEY_START", 0x80120C, 2, 0x100000, 1, 0, 0xFFFFFF, 0x0, 0x0, 0x0, 0x0, 0x0, 0x0, false, .key, false, true⟩,
  ⟨"PCH_KEY_LEN", 0x801210, 2, 0x100000, 1, 0, 0xFFFFFF, 0x0, 0x0, 0x0, 0x0, 0x0, 0x0, false, .key, false, true⟩,
  ⟨"PCH_KEY_VERSION", 0x801214, 2, 0x100000, 1, 0, 0x0, 0x0, 0x0, 0xFFFF, 0x0, 0x0, 0x0, false, .key, false, true⟩,
  ⟨"PCH_PSB_USED", 0x801300, 2, 0x100000, 1, 0, 0x0, 0x0, 0x0, 0x7FFF, 0x0, 0x0, 0x0, false, .none, false, false⟩,
  ⟨"PCH_PSB_HWM", 0x801304, 2, 0x100000, 1, 0, 0x0, 0x0, 0x7FFF, 0x0, 0x0, 0x0, 0x0, false, .none, false, false⟩,
  ⟨"PCH_PSB_EXPIRED", 0x801308, 2, 0x100000, 1, 0, 0x0, 0x0, 0xFFFFFFFF, 0x0, 0x0, 0x0, 0x0, false, .none, false, false⟩,
  ⟨"PCH_PSB_RETRACTED", 0x80130C, 2, 0x100000, 1, 0, 0x0, 0x0, 0xFFFFFFFF, 0x0, 0x0, 0x0, 0x0, false, .none, false, false⟩,
  ⟨"PCH_TGT_DONE", 0x801310, 2, 0x100000, 1, 0, 0x0, 0x0, 0xFFFFFFFF, 0x0, 0x0, 0x0, 0x0, false, .none, false, false⟩,
  ⟨"PCH_TGT_REFUSED", 0x801314, 2, 0x100000, 1, 0, 0x0, 0x0, 0xFFFFFFFF, 0x0, 0x0, 0x0, 0x0, false, .none, false, false⟩,
  ⟨"PCH_TGT_TIMEOUT", 0x801318, 2, 0x100000, 1, 0, 0x0, 0x0, 0xFFFFFFFF, 0x0, 0x0, 0x0, 0x0, false, .none, false, false⟩,
  ⟨"PCH_OP_LOST", 0x80131C, 2, 0x100000, 1, 0, 0x0, 0x0, 0xFFFFFFFF, 0x0, 0x0, 0x0, 0x0, false, .none, false, false⟩,
  ⟨"PCH_FENCE_ROUTE", 0x801320, 2, 0x100000, 1, 0, 0x0, 0x0, 0xFFFFFFFF, 0x0, 0x0, 0x0, 0x0, false, .none, false, false⟩,
  ⟨"PCH_KEY_BAD", 0x801324, 2, 0x100000, 1, 0, 0x0, 0x0, 0xFFFFFFFF, 0x0, 0x0, 0x0, 0x0, false, .none, false, false⟩]

/-- The registers of the PCH block. -/
def rowsPch : List RegRow := rowsPch_0 ++ rowsPch_1 ++ rowsPch_2

/-- The registers of the ERR block. -/
def rowsErr_0 : List RegRow := [
  ⟨"ERR_INT_STATUS", 0x20000, 1, 0x0, 1, 0, 0x0, 0xFF, 0x0, 0x0, 0x0, 0x0, 0x0, false, .none, false, false⟩,
  ⟨"ERR_INT_EN", 0x20004, 1, 0x0, 1, 0, 0xFF, 0x0, 0x0, 0x0, 0x0, 0x0, 0x0, false, .none, false, false⟩,
  ⟨"ERR_SUMMARY", 0x20008, 1, 0x0, 1, 0, 0x0, 0x0, 0x0, 0x1FFFFF, 0x0, 0x0, 0x0, false, .none, false, false⟩,
  ⟨"ERR_LOG_CTL", 0x20018, 1, 0x0, 1, 0, 0x7FF, 0x0, 0x0, 0x0, 0x0, 0x300, 0x0, false, .none, false, false⟩,
  ⟨"ERR_POLICY", 0x20104, 1, 0x0, 6, 4, 0x1F0F, 0x0, 0x0, 0x1F0F0000, 0x0, 0x3020302, 0x0, false, .none, false, false⟩,
  ⟨"ERR_HIST_SEL", 0x20180, 1, 0x0, 1, 0, 0xF000FFFF, 0x0, 0x0, 0x0, 0x0, 0x10000000, 0x0, false, .requester, true, false⟩,
  ⟨"ERR_HIST", 0x20184, 1, 0x0, 1, 0, 0x0, 0x0, 0x0, 0x8F00FFFF, 0x0, 0x0, 0x0, false, .hist, false, false⟩,
  ⟨"ERR_XCHK_CTL", 0x20300, 1, 0x0, 1, 0, 0x80F0FFFF, 0x0, 0x0, 0x0, 0x0, 0x300400, 0x0, false, .none, false, false⟩,
  ⟨"ERR_XCHK_STATUS", 0x20304, 1, 0x0, 1, 0, 0x0, 0x0, 0x0, 0xFFFFFF, 0x0, 0x0, 0x0, false, .none, false, false⟩,
  ⟨"ERR_INJ_CTL", 0x20600, 1, 0x0, 1, 0, 0xCFFFFF00, 0x0, 0x0, 0x0, 0x3, 0x100, 0x0, false, .none, false, false⟩,
  ⟨"ERR_INJ_TARGET", 0x20604, 1, 0x0, 1, 0, 0xF000FFFF, 0x0, 0x0, 0x0, 0x0, 0x0, 0x0, false, .none, false, false⟩,
  ⟨"ERR_INJ_STATUS", 0x20618, 1, 0x0, 1, 0, 0x0, 0x0, 0x0, 0xFFFF0007, 0x0, 0x0, 0x0, false, .none, false, false⟩,
  ⟨"ERR_LOG_PROD", 0x20010, 1, 0x0, 1, 0, 0x0, 0x0, 0x0, 0xFFFFFFFF, 0x0, 0x0, 0x0, false, .none, false, false⟩,
  ⟨"ERR_LOG_CONS", 0x20014, 1, 0x0, 1, 0, 0xFFFFFFFF, 0x0, 0x0, 0x0, 0x0, 0x0, 0x0, false, .none, true, false⟩,
  ⟨"ERR_LOG_LOST", 0x2001C, 1, 0x0, 1, 0, 0x0, 0x0, 0xFFFFFFFF, 0x0, 0x0, 0x0, 0x0, false, .none, false, false⟩,
  ⟨"ERR_XCHK_FAIL", 0x20308, 1, 0x0, 1, 0, 0x0, 0x0, 0xFFFFFFFF, 0x0, 0x0, 0x0, 0x0, false, .none, false, false⟩,
  ⟨"ERR_XCHK_ORPHAN", 0x2030C, 1, 0x0, 1, 0, 0x0, 0x0, 0xFFFFFFFF, 0x0, 0x0, 0x0, 0x0, false, .none, false, false⟩,
  ⟨"ERR_OUTBOUND_FAIL", 0x20310, 1, 0x0, 1, 0, 0x0, 0x0, 0xFFFFFFFF, 0x0, 0x0, 0x0, 0x0, false, .none, false, false⟩,
  ⟨"ERR_OVF_COUNT", 0x20400, 1, 0x0, 32, 16, 0x0, 0x0, 0xFFFFFFFF, 0x0, 0x0, 0x0, 0x0, false, .none, false, false⟩,
  ⟨"ERR_OVF_FRAME_LO", 0x20404, 1, 0x0, 32, 16, 0x0, 0x0, 0x0, 0xFFFFFFFF, 0x0, 0x0, 0x0, true, .none, false, false⟩,
  ⟨"ERR_OVF_FRAME_HI", 0x20408, 1, 0x0, 32, 16, 0x0, 0x0, 0x0, 0xFFFF, 0x0, 0x0, 0x0, false, .none, false, false⟩,
  ⟨"ERR_INJ_ADDR", 0x20608, 1, 0x0, 1, 0, 0xFFFFFFFF, 0x0, 0x0, 0x0, 0x0, 0x0, 0x0, false, .none, false, false⟩,
  ⟨"ERR_INJ_FRAME_HI", 0x20614, 1, 0x0, 1, 0, 0x8000FFFF, 0x0, 0x0, 0x0, 0x0, 0x0, 0x0, false, .none, false, false⟩,
  ⟨"ERR_INJ_FRAME_LO", 0x20610, 1, 0x0, 1, 0, 0xFFFFFFFF, 0x0, 0x0, 0x0, 0x0, 0x0, 0x0, true, .none, false, false⟩]

/-- The registers of the ERR block, continued. -/
def rowsErr_1 : List RegRow := [
  ⟨"ERR_LOG_ENTRY", 0x28000, 1, 0x0, 8192, 4, 0x0, 0x0, 0x0, 0xFFFFFFFF, 0x0, 0x0, 0x0, false, .none, false, false⟩]

/-- The registers of the ERR block. -/
def rowsErr : List RegRow := rowsErr_0 ++ rowsErr_1

/-- The registers of the PWR block. -/
def rowsPwr_0 : List RegRow := [
  ⟨"PWR_STATUS", 0x60000, 1, 0x0, 1, 0, 0x0, 0x0, 0x0, 0xFF00FFFF, 0x0, 0xC0000000, 0x0, false, .none, false, false⟩,
  ⟨"PWR_CAP", 0x60004, 1, 0x0, 1, 0, 0xFFFF, 0x0, 0x0, 0x0, 0x0, 0x5DC, 0x0, false, .none, false, false⟩,
  ⟨"PWR_STAGGER", 0x60018, 1, 0x0, 1, 0, 0x801F00FF, 0x0, 0x0, 0x0, 0x0, 0x100020, 0x0, false, .none, false, false⟩,
  ⟨"PWR_CLK_STATUS", 0x60014, 1, 0x0, 1, 0, 0x0, 0x0, 0x0, 0xE00000FF, 0x0, 0x14, 0x80000000, false, .none, false, false⟩,
  ⟨"PWR_LEDGER_CTL", 0x6001C, 1, 0x0, 1, 0, 0xF00, 0x0, 0x0, 0xFFFF0000, 0x1, 0x400, 0x0, false, .none, false, false⟩,
  ⟨"PWR_TOWER", 0x60040, 1, 0x0, 8, 4, 0x0, 0x0, 0x0, 0xFFFFFF00, 0x0, 0x0, 0x0, false, .none, false, false⟩,
  ⟨"PWR_ROWFREQ", 0x60100, 1, 0x0, 128, 4, 0x0, 0x0, 0x0, 0xFFFFFFFF, 0x0, 0x50005000, 0x0, false, .none, false, false⟩,
  ⟨"PWR_LIMIT", 0x60008, 1, 0x0, 1, 0, 0x0, 0x0, 0x0, 0xFFFF, 0x0, 0x5DC, 0x0, false, .none, false, false⟩,
  ⟨"PWR_FLOOR", 0x6000C, 1, 0x0, 1, 0, 0x0, 0x0, 0x0, 0xFFFFFFFF, 0x0, 0x0, 0x0, false, .none, false, false⟩,
  ⟨"PWR_SLIPS", 0x60020, 1, 0x0, 1, 0, 0x0, 0x0, 0xFFFFFFFF, 0x0, 0x0, 0x0, 0x0, false, .none, false, false⟩,
  ⟨"PWR_STRETCHES", 0x60024, 1, 0x0, 1, 0, 0x0, 0x0, 0xFFFFFFFF, 0x0, 0x0, 0x0, 0x0, false, .none, false, false⟩,
  ⟨"PWR_IDLE_FRAMES", 0x60028, 1, 0x0, 1, 0, 0x0, 0x0, 0xFFFFFFFF, 0x0, 0x0, 0x0, 0x0, false, .none, false, false⟩,
  ⟨"PWR_SLEW_HOLDS", 0x6002C, 1, 0x0, 1, 0, 0x0, 0x0, 0xFFFFFFFF, 0x0, 0x0, 0x0, 0x0, false, .none, false, false⟩,
  ⟨"PWR_REFCLK_LOSSES", 0x60030, 1, 0x0, 1, 0, 0x0, 0x0, 0xFFFFFFFF, 0x0, 0x0, 0x0, 0x0, false, .none, false, false⟩,
  ⟨"PWR_ENERGY_LO", 0x60038, 1, 0x0, 1, 0, 0x0, 0x0, 0x0, 0xFFFFFFFF, 0x0, 0x0, 0x0, true, .none, false, false⟩,
  ⟨"PWR_ENERGY_HI", 0x6003C, 1, 0x0, 1, 0, 0x0, 0x0, 0x0, 0xFFFFFFFF, 0x0, 0x0, 0x0, false, .none, false, false⟩,
  ⟨"PWR_LIFE_LO", 0x60060, 1, 0x0, 1, 0, 0x0, 0x0, 0x0, 0xFFFFFFFF, 0x0, 0x0, 0x0, true, .none, false, false⟩,
  ⟨"PWR_LIFE_HI", 0x60064, 1, 0x0, 1, 0, 0x0, 0x0, 0x0, 0xFFFFFFFF, 0x0, 0x0, 0x0, false, .none, false, false⟩,
  ⟨"PWR_INT_STATUS", 0x60070, 1, 0x0, 1, 0, 0x0, 0xFF, 0x0, 0x0, 0x0, 0x0, 0x0, false, .none, false, false⟩,
  ⟨"PWR_INT_EN", 0x60074, 1, 0x0, 1, 0, 0xFF, 0x0, 0x0, 0x0, 0x0, 0x0, 0x0, false, .none, false, false⟩,
  ⟨"PWR_ROOM_TOTAL_LO", 0x60400, 1, 0x0, 16, 32, 0x0, 0x0, 0x0, 0xFFFFFFFF, 0x0, 0x0, 0x0, true, .none, false, false⟩,
  ⟨"PWR_ROOM_TOTAL_HI", 0x60404, 1, 0x0, 16, 32, 0x0, 0x0, 0x0, 0xFFFFFFFF, 0x0, 0x0, 0x0, false, .none, false, false⟩,
  ⟨"PWR_ROOM_JOB_LO", 0x60408, 1, 0x0, 16, 32, 0x0, 0x0, 0x0, 0xFFFFFFFF, 0x0, 0x0, 0x0, true, .none, false, false⟩,
  ⟨"PWR_ROOM_JOB_HI", 0x6040C, 1, 0x0, 16, 32, 0x0, 0x0, 0x0, 0xFFFFFFFF, 0x0, 0x0, 0x0, false, .none, false, false⟩]

/-- The registers of the PWR block, continued. -/
def rowsPwr_1 : List RegRow := [
  ⟨"PWR_ROOM_LAST_LO", 0x60410, 1, 0x0, 16, 32, 0x0, 0x0, 0x0, 0xFFFFFFFF, 0x0, 0x0, 0x0, true, .none, false, false⟩,
  ⟨"PWR_ROOM_LAST_HI", 0x60414, 1, 0x0, 16, 32, 0x0, 0x0, 0x0, 0xFFFFFFFF, 0x0, 0x0, 0x0, false, .none, false, false⟩,
  ⟨"PWR_ROOM_JOB_FRAMES", 0x60418, 1, 0x0, 16, 32, 0x0, 0x0, 0x0, 0xFFFFFFFF, 0x0, 0x0, 0x0, false, .none, false, false⟩,
  ⟨"PWR_ROOM_CTL", 0x6041C, 1, 0x0, 16, 32, 0x0, 0x0, 0x0, 0xFFFF0000, 0x1, 0x0, 0x0, false, .none, false, false⟩]

/-- The registers of the PWR block. -/
def rowsPwr : List RegRow := rowsPwr_0 ++ rowsPwr_1

/-- The registers of the THM block. -/
def rowsThm : List RegRow := [
  ⟨"THM_STATUS", 0x70000, 1, 0x0, 1, 0, 0x0, 0x0, 0x0, 0xFE0000FF, 0x0, 0x0, 0x0, false, .none, false, false⟩,
  ⟨"THM_CTL", 0x70004, 1, 0x0, 1, 0, 0x1, 0x0, 0x0, 0x0, 0x0, 0x0, 0x0, false, .none, false, false⟩,
  ⟨"THM_SENSOR_SEL", 0x70010, 1, 0x0, 1, 0, 0x1FF, 0x0, 0x0, 0x0, 0x0, 0x0, 0x0, false, .requester, true, false⟩,
  ⟨"THM_SENSOR", 0x70014, 1, 0x0, 1, 0, 0x0, 0x0, 0x0, 0xF000FFFF, 0x0, 0xC0000000, 0x0, false, .sensor, false, false⟩,
  ⟨"THM_SENSOR_EFF", 0x70018, 1, 0x0, 1, 0, 0x0, 0x0, 0x0, 0xFFFFFFFF, 0x0, 0x0, 0x0, false, .sensor, false, false⟩,
  ⟨"THM_MOD_CEIL", 0x70024, 1, 0x0, 1, 0, 0x0, 0x0, 0x0, 0xFFFFFFFF, 0x0, 0x0, 0x0, false, .none, false, false⟩,
  ⟨"THM_TOWER_CEIL", 0x70040, 1, 0x0, 8, 4, 0x0, 0x0, 0x0, 0xFFFFFFFF, 0x0, 0x0, 0x0, false, .none, false, false⟩,
  ⟨"THM_TRIP_INFO", 0x70030, 1, 0x0, 1, 0, 0x0, 0x0, 0x0, 0x81FFFFFF, 0x0, 0x0, 0x0, false, .none, false, false⟩,
  ⟨"THM_PEAK", 0x7001C, 1, 0x0, 1, 0, 0x0, 0x0, 0xFFFF, 0x0, 0x0, 0x8000, 0x0, false, .sensor, false, false⟩,
  ⟨"THM_HOTTEST", 0x70020, 1, 0x0, 1, 0, 0x0, 0x0, 0x0, 0x1FFFFFF, 0x0, 0x0, 0x0, false, .none, false, false⟩,
  ⟨"THM_COOLANT", 0x70028, 1, 0x0, 1, 0, 0x0, 0x0, 0x0, 0xFFFFFFFF, 0x0, 0x0, 0x0, false, .none, false, false⟩,
  ⟨"THM_COOLANT_RATING", 0x7002C, 1, 0x0, 1, 0, 0x0, 0x0, 0x0, 0xFFFFFFFF, 0x0, 0x5DC05DC, 0x0, false, .none, false, false⟩,
  ⟨"THM_TRIP_FRAME_LO", 0x70034, 1, 0x0, 1, 0, 0x0, 0x0, 0x0, 0xFFFFFFFF, 0x0, 0x0, 0x0, true, .none, false, false⟩,
  ⟨"THM_TRIP_FRAME_HI", 0x70038, 1, 0x0, 1, 0, 0x0, 0x0, 0x0, 0xFFFF, 0x0, 0x0, 0x0, false, .none, false, false⟩,
  ⟨"THM_TRIPS", 0x7003C, 1, 0x0, 1, 0, 0x0, 0x0, 0x0, 0xFFFFFFFF, 0x0, 0x0, 0x0, false, .none, false, false⟩,
  ⟨"THM_THROTTLE_FRAMES", 0x70068, 1, 0x0, 1, 0, 0x0, 0x0, 0xFFFFFFFF, 0x0, 0x0, 0x0, 0x0, false, .none, false, false⟩,
  ⟨"THM_INT_STATUS", 0x70060, 1, 0x0, 1, 0, 0x0, 0x1FF, 0x0, 0x0, 0x0, 0x0, 0x0, false, .none, false, false⟩,
  ⟨"THM_INT_EN", 0x70064, 1, 0x0, 1, 0, 0x1FF, 0x0, 0x0, 0x0, 0x0, 0x0, 0x0, false, .none, false, false⟩]

/-- The registers of the CAL block. -/
def rowsCal : List RegRow := [
  ⟨"CAL_CTL", 0x80000, 1, 0x0, 1, 0, 0xFF03, 0x0, 0x0, 0x0, 0xFF0000, 0x7F02, 0x0, false, .none, false, false⟩,
  ⟨"CAL_TRIG0", 0x80004, 1, 0x0, 1, 0, 0x1F1F1F1F, 0x0, 0x0, 0x0, 0x0, 0x5060604, 0x0, false, .none, false, false⟩,
  ⟨"CAL_TRIG1", 0x80008, 1, 0x0, 1, 0, 0x1F1F1F, 0x0, 0x0, 0x0, 0x0, 0xF0A08, 0x0, false, .none, false, false⟩,
  ⟨"CAL_IDLE_GAP", 0x8000C, 1, 0x0, 1, 0, 0xFFFFFFFF, 0x0, 0x0, 0x0, 0x0, 0x400400, 0x0, false, .none, false, false⟩,
  ⟨"CAL_STATUS", 0x80010, 1, 0x0, 1, 0, 0x0, 0x0, 0x0, 0xFFFF07, 0x0, 0x0, 0x0, false, .none, false, false⟩,
  ⟨"CAL_INT_STATUS", 0x80020, 1, 0x0, 1, 0, 0x0, 0x1FF, 0x0, 0x0, 0x0, 0x0, 0x0, false, .none, false, false⟩,
  ⟨"CAL_INT_EN", 0x80024, 1, 0x0, 1, 0, 0x1FF, 0x0, 0x0, 0x0, 0x0, 0x0, 0x0, false, .none, false, false⟩,
  ⟨"CAL_KIND_SEL", 0x80040, 1, 0x0, 1, 0, 0xF001F, 0x0, 0x0, 0x0, 0x0, 0x10000, 0x0, false, .requester, true, false⟩,
  ⟨"CAL_KIND_INFO", 0x80044, 1, 0x0, 1, 0, 0x0, 0x0, 0x0, 0x8FFFFFFF, 0x0, 0x0, 0x0, false, .kind, false, false⟩,
  ⟨"CAL_RUNS", 0x80030, 1, 0x0, 1, 0, 0x0, 0x0, 0xFFFFFFFF, 0x0, 0x0, 0x0, 0x0, false, .none, false, false⟩,
  ⟨"CAL_REJECTS", 0x80034, 1, 0x0, 1, 0, 0x0, 0x0, 0xFFFFFFFF, 0x0, 0x0, 0x0, 0x0, false, .none, false, false⟩,
  ⟨"CAL_IDLE_INSERTED", 0x80038, 1, 0x0, 1, 0, 0x0, 0x0, 0xFFFFFFFF, 0x0, 0x0, 0x0, 0x0, false, .none, false, false⟩,
  ⟨"CAL_ADAPTS", 0x8003C, 1, 0x0, 1, 0, 0x0, 0x0, 0xFFFFFFFF, 0x0, 0x0, 0x0, 0x0, false, .none, false, false⟩,
  ⟨"CAL_KIND_FRAME_LO", 0x80048, 1, 0x0, 1, 0, 0x0, 0x0, 0x0, 0xFFFFFFFF, 0x0, 0x0, 0x0, true, .kind, false, false⟩,
  ⟨"CAL_KIND_FRAME_HI", 0x8004C, 1, 0x0, 1, 0, 0x0, 0x0, 0x0, 0xFFFF, 0x0, 0x0, 0x0, false, .kind, false, false⟩,
  ⟨"CAL_BOND_STATUS", 0x80050, 1, 0x0, 1, 0, 0x0, 0x0, 0x0, 0xFFFFFFFF, 0x0, 0x0, 0x0, false, .none, false, false⟩,
  ⟨"CAL_RETIRE_COUNT", 0x80054, 1, 0x0, 1, 0, 0x0, 0x0, 0x0, 0xFFFFFFFF, 0x0, 0x40000000, 0x0, false, .none, false, false⟩,
  ⟨"CAL_RETIRE_SEL", 0x80058, 1, 0x0, 1, 0, 0x3FFF, 0x0, 0x0, 0x0, 0x0, 0x0, 0x0, false, .requester, true, false⟩,
  ⟨"CAL_RETIRE_ENTRY", 0x80060, 1, 0x0, 4, 4, 0x0, 0x0, 0x0, 0xFFFFFFFF, 0x0, 0x0, 0x0, false, .retire, false, false⟩]

/-- The registers of the GLB block. -/
def rowsGlb : List RegRow := [
  ⟨"GLB_ID", 0x0, 1, 0x0, 1, 0, 0x0, 0x0, 0x0, 0xFFFFFFFF, 0x0, 0x1080000, 0x0, false, .none, false, false⟩,
  ⟨"GLB_CTL", 0x4, 1, 0x0, 1, 0, 0x0, 0x0, 0x0, 0x0, 0x7, 0x0, 0x0, false, .none, false, false⟩,
  ⟨"GLB_STATUS", 0x8, 1, 0x0, 1, 0, 0x1C00FFFF, 0x0, 0x0, 0xE0000000, 0x0, 0x0, 0x0, false, .none, false, false⟩,
  ⟨"GLB_READY0", 0x10, 1, 0x0, 1, 0, 0x0, 0x0, 0x0, 0x3FFFFFFF, 0x0, 0x0, 0x0, false, .none, false, false⟩,
  ⟨"GLB_READY1", 0x14, 1, 0x0, 1, 0, 0x0, 0x0, 0x0, 0x1FF, 0x0, 0x0, 0x0, false, .none, false, false⟩,
  ⟨"GLB_EN", 0x18, 1, 0x0, 1, 0, 0x3FFFFFF, 0x0, 0x0, 0x0, 0x0, 0x3FFFFFF, 0x0, false, .none, false, false⟩,
  ⟨"GLB_RESET", 0x1C, 1, 0x0, 1, 0, 0x80000000, 0x0, 0x0, 0x0, 0x3FFFF0FF, 0x0, 0x0, false, .none, false, false⟩,
  ⟨"GLB_INT_STATUS", 0x20, 1, 0x0, 1, 0, 0x0, 0x1F, 0x0, 0x0, 0x0, 0x0, 0x0, false, .none, false, false⟩,
  ⟨"GLB_INT_EN", 0x24, 1, 0x0, 1, 0, 0x1F, 0x0, 0x0, 0x0, 0x0, 0x0, 0x0, false, .none, false, false⟩,
  ⟨"GLB_BSTATE", 0x100, 1, 0x0, 26, 4, 0x0, 0x0, 0x0, 0xFF00FFFF, 0x0, 0x0, 0x0, false, .none, false, false⟩]

/-- The registers of the SEQ block. -/
def rowsSeq : List RegRow := [
  ⟨"SEQ_STATUS", 0x50000, 1, 0x0, 1, 0, 0x0, 0x0, 0x0, 0xFF80FFFF, 0x0, 0x0, 0x800000, false, .none, false, false⟩,
  ⟨"SEQ_CTL", 0x50004, 1, 0x0, 1, 0, 0xFFFF00, 0x0, 0x0, 0x0, 0x1, 0x100400, 0x0, false, .none, false, false⟩,
  ⟨"SEQ_TAKEOVER_INFO", 0x50018, 1, 0x0, 1, 0, 0x0, 0x0, 0x0, 0xFFFF0000, 0x0, 0x0, 0x0, false, .none, false, false⟩,
  ⟨"SEQ_CKPT_LO", 0x50008, 1, 0x0, 1, 0, 0x0, 0x0, 0x0, 0xFFFFFFFF, 0x0, 0x0, 0x0, true, .none, false, false⟩,
  ⟨"SEQ_CKPT_HI", 0x5000C, 1, 0x0, 1, 0, 0x0, 0x0, 0x0, 0xFFFF, 0x0, 0x0, 0x0, false, .none, false, false⟩,
  ⟨"SEQ_LOST_FIRST_LO", 0x50010, 1, 0x0, 1, 0, 0x0, 0x0, 0x0, 0xFFFFFFFF, 0x0, 0x0, 0x0, true, .none, false, false⟩,
  ⟨"SEQ_LOST_FIRST_HI", 0x50014, 1, 0x0, 1, 0, 0x0, 0x0, 0x0, 0xFFFF, 0x0, 0x0, 0x0, false, .none, false, false⟩,
  ⟨"SEQ_LOST_TOTAL", 0x5001C, 1, 0x0, 1, 0, 0x0, 0x0, 0x0, 0xFFFFFFFF, 0x0, 0x0, 0x0, false, .none, false, false⟩,
  ⟨"SEQ_INT_STATUS", 0x50020, 1, 0x0, 1, 0, 0x0, 0x1F, 0x0, 0x0, 0x0, 0x0, 0x0, false, .none, false, false⟩,
  ⟨"SEQ_INT_EN", 0x50024, 1, 0x0, 1, 0, 0x1F, 0x0, 0x0, 0x0, 0x0, 0x0, 0x0, false, .none, false, false⟩]

/-- The registers of the SEC block. -/
def rowsSec : List RegRow := [
  ⟨"SEC_SERIAL", 0x10000, 1, 0x0, 4, 4, 0x0, 0x0, 0x0, 0xFFFFFFFF, 0x0, 0x0, 0x0, false, .none, false, false⟩,
  ⟨"SEC_FW", 0x10010, 1, 0x0, 1, 0, 0x0, 0x0, 0x0, 0xFFFFFFFF, 0x0, 0x0, 0x0, false, .none, false, false⟩,
  ⟨"SEC_OWNER_ID", 0x10020, 1, 0x0, 4, 4, 0x0, 0x0, 0x0, 0xFFFFFFFF, 0x0, 0x0, 0x0, false, .none, false, false⟩,
  ⟨"SEC_OWNER_NONCE_LO", 0x10030, 1, 0x0, 1, 0, 0x0, 0x0, 0x0, 0xFFFFFFFF, 0x0, 0x0, 0x0, true, .none, false, false⟩,
  ⟨"SEC_OWNER_NONCE_HI", 0x10034, 1, 0x0, 1, 0, 0x0, 0x0, 0x0, 0xFFFFFFFF, 0x0, 0x0, 0x0, false, .none, false, false⟩,
  ⟨"SEC_FW_STATE", 0x10014, 1, 0x0, 1, 0, 0x0, 0x0, 0x0, 0xFFFF003F, 0x0, 0x0, 0x0, false, .none, false, false⟩,
  ⟨"SEC_CTL", 0x10018, 1, 0x0, 1, 0, 0x1, 0x0, 0x0, 0x0, 0x0, 0x1, 0x0, false, .none, false, false⟩,
  ⟨"SEC_OWNER", 0x1001C, 1, 0x0, 1, 0, 0x0, 0x0, 0x0, 0x1, 0x0, 0x0, 0x0, false, .none, false, false⟩,
  ⟨"SEC_SIG_LEFT", 0x10038, 1, 0x0, 1, 0, 0x0, 0x0, 0x0, 0x801FFFFF, 0x0, 0x0, 0x0, false, .none, false, false⟩,
  ⟨"SEC_SIG_CTL", 0x1003C, 1, 0x0, 1, 0, 0xFFF, 0x0, 0x0, 0x0, 0x0, 0x3C, 0x0, false, .none, false, false⟩,
  ⟨"SEC_APERTURE_LO", 0x10040, 1, 0x0, 1, 0, 0xC0000000, 0x0, 0x0, 0x0, 0x0, 0x0, 0x0, true, .none, true, false⟩,
  ⟨"SEC_APERTURE_HI", 0x10044, 1, 0x0, 1, 0, 0xFF, 0x0, 0x0, 0x0, 0x0, 0x0, 0x0, false, .none, true, false⟩,
  ⟨"SEC_IDE_STATUS", 0x10050, 1, 0x0, 1, 0, 0x0, 0x0, 0x0, 0xFF, 0x0, 0x0, 0x0, false, .none, false, false⟩,
  ⟨"SEC_INT_STATUS", 0x10060, 1, 0x0, 1, 0, 0x0, 0x3F, 0x0, 0x0, 0x0, 0x0, 0x0, false, .none, false, false⟩,
  ⟨"SEC_INT_EN", 0x10064, 1, 0x0, 1, 0, 0x3F, 0x0, 0x0, 0x0, 0x0, 0x0, 0x0, false, .none, false, false⟩]

/-- The registers of the block that covers an address (R558). -/
def rowsAt (a : Nat) : List RegRow :=
  if 0x0 ≤ a ∧ a < 0x10000 then rowsGlb
  else if 0x10000 ≤ a ∧ a < 0x20000 then rowsSec
  else if 0x20000 ≤ a ∧ a < 0x30000 then rowsErr
  else if 0x30000 ≤ a ∧ a < 0x40000 then rowsSnap
  else if 0x40000 ≤ a ∧ a < 0x50000 then rowsFrm
  else if 0x50000 ≤ a ∧ a < 0x60000 then rowsSeq
  else if 0x60000 ≤ a ∧ a < 0x70000 then rowsPwr
  else if 0x70000 ≤ a ∧ a < 0x80000 then rowsThm
  else if 0x80000 ≤ a ∧ a < 0x90000 then rowsCal
  else if 0x100000 ≤ a ∧ a < 0x200000 then rowsHall
  else if 0x200000 ≤ a ∧ a < 0x600000 then rowsTow
  else if 0x600000 ≤ a ∧ a < 0x780000 then rowsCel
  else if 0x800000 ≤ a ∧ a < 0xA00000 then rowsPch
  else if 0xA00000 ≤ a ∧ a < 0xC00000 then rowsQue
  else if 0xC00000 ≤ a ∧ a < 0xD00000 then rowsRoom
  else if 0xD00000 ≤ a ∧ a < 0xD10000 then rowsBit
  else []

/-- The instance and element of a row that an address names. -/
def RegRow.place (r : RegRow) (a : Nat) : Option (Nat × Nat) :=
  if a < r.addr then none
  else
    let d := a - r.addr
    let i := if r.ist = 0 then 0 else d / r.ist
    let o := d - i * r.ist
    let e := if r.est = 0 then 0 else o / r.est
    if i < r.ni ∧ e < r.ne ∧ o = e * r.est then some (i, e) else none

/-- The register at an address, with its instance and element; none at an unassigned offset (R6). -/
def regAt (a : Nat) : Option (RegRow × Nat × Nat) :=
  (rowsAt a).findSome? fun r => (r.place a).map fun p => (r, p.1, p.2)

/-- The key of a register's value: its address, its high part the selected element or the requester. -/
def regKey (addr sel : Nat) : Nat := sel * 2 ^ 26 + addr

/-- The reset value of the register at an address (R10). -/
def resetWord (a : Nat) : Word :=
  match regAt (a % 2 ^ 26) with
  | some (r, _, _) => BitVec.ofNat 32 r.reset
  | none => 0

end Sys2Proof.Machine
end

