-- ==== Sys2Proof/Machine/Tab.lean ====
section
/-! DEFINITION. Sparse tables: lists of (key, value) pairs, keys strictly rising, no entry equal to what an
unlisted key reads as. Equal tables are equal lists. -/

namespace Sys2Proof.Machine

/-- A sparse table: what an unlisted key reads as is given with each read and write. -/
abbrev Tab (α : Type) := List (Nat × α)

/-- The entry at a key, if it is listed. -/
def Tab.find {α : Type} : Tab α → Nat → Option α
  | [], _ => none
  | (k, v) :: t, n => if n = k then some v else Tab.find t n

/-- The value at a key; an unlisted key reads as `d`. -/
def Tab.get {α : Type} (d : α) (t : Tab α) (n : Nat) : α := (Tab.find t n).getD d

/-- List `v` at a key, keeping the keys rising. -/
def Tab.ins {α : Type} : Tab α → Nat → α → Tab α
  | [], n, v => [(n, v)]
  | (k, w) :: t, n, v =>
    if n < k then (n, v) :: (k, w) :: t
    else if n = k then (n, v) :: t
    else (k, w) :: Tab.ins t n v

/-- Remove a key wherever it is listed. -/
def Tab.del {α : Type} : Tab α → Nat → Tab α
  | [], _ => []
  | (k, w) :: t, n => if n = k then Tab.del t n else (k, w) :: Tab.del t n

/-- Make a key read as `v`: an entry equal to `d` is not listed. -/
def Tab.put {α : Type} [DecidableEq α] (d : α) (t : Tab α) (n : Nat) (v : α) : Tab α :=
  if v = d then Tab.del t n else Tab.ins t n v

/-- Apply `f` to the value at a key. -/
def Tab.upd {α : Type} [DecidableEq α] (d : α) (t : Tab α) (n : Nat) (f : α → α) : Tab α :=
  Tab.put d t n (f (Tab.get d t n))

/-- Keys strictly rising, all above `lo`, and no entry equal to `d`. -/
def Tab.okFrom {α : Type} [DecidableEq α] (d : α) : Option Nat → Tab α → Bool
  | _, [] => true
  | none, (k, v) :: t => decide (v ≠ d) && Tab.okFrom d (some k) t
  | some lo, (k, v) :: t => decide (lo < k) && decide (v ≠ d) && Tab.okFrom d (some k) t

/-- The canonical form. -/
def Tab.wf {α : Type} [DecidableEq α] (d : α) (t : Tab α) : Bool := Tab.okFrom d none t

/-- Every listed value changed by `f`, the canonical form kept. -/
def Tab.mapAll {α : Type} [DecidableEq α] (d : α) (t : Tab α) (f : Nat → α → α) : Tab α :=
  t.foldl (fun acc kv => Tab.put d acc kv.1 (f kv.1 kv.2)) []

/-- The entries whose key passes the test. -/
def Tab.keep {α : Type} (t : Tab α) (p : Nat → Bool) : Tab α := t.filter fun kv => p kv.1

end Sys2Proof.Machine
end

