-- ==== Sys2Proof/Machine/State.lean ====
section
/-! DEFINITION. The state of the module as plain data: every register, table, engine, counter and pin the spec gives
it, the queue of waiting commands, and State.reset. A field's default is its value at reset. -/

namespace Sys2Proof.Machine

/-! ## Memory: pantries and cellars -/

/-- Memory: (address, byte) pairs, addresses strictly rising, no byte 0 listed. An unlisted byte reads 0 (R177, R273;
log 2). -/
abbrev Mem := List Host.Cell

/-- What a command does to memory: store bytes from an address, or make a region read 0. -/
inductive MemOp where
  | write (a : Nat) (bytes : List Byte)
  | clear (a n : Nat)
  /-- Exclusive or with the bytes that stand there. -/
  | flip (a : Nat) (bytes : List Byte)
deriving DecidableEq, Repr

/-! ## What leaves the module -/

/-- What the last command sent or answered: the value of a register read, an MSI-X message of a function, a DMA write
or read request, a completion, a packet, a flit,
credits or a link report on a port, a record or a slot into the Hall, the latter as PAM4 levels, a light pulse, an MCTP message to firmware, an answer to an MCTP or DOE
command, the completion of an ATS invalidation, a DOE discovery response. The model's own field: it is replaced at each command. -/
inductive Out where
  | value (w : Nat)
  | msix (fn vec : Nat)
  | dmaWrite (fn addr : Nat) (bytes : List Byte)
  | dmaRead (fn addr len : Nat)
  | completion (status : Nat) (poisoned : Bool) (bytes : List Byte)
  /-- A packet put on a port; the codewords that follow carry it. -/
  | packet (port : Nat) (bytes : List Byte)
  | record (dest : Nat) (bytes : List Byte)
  /-- A codeword of a Jilia lane: its line, whether it runs on the higher fibre of the pair, and its 544 symbols (R350, R353). -/
  | codeword (port line : Nat) (high : Bool) (symbols : List Nat)
  | mctp (bytes : List Byte)
  | slot (bundle line : Nat) (symbols : List Nat)
  | pulse (port : Nat)
  | answer (tag status : Nat) (bytes : List Byte)
  | invalDone (fn tag : Nat)
  | doe (bytes : List Byte)
deriving DecidableEq, Repr

/-! ## Power, pins, resets and blocks (chapters 01 and 17) -/

/-- The pins the module drives and the straps it sampled (R25 to R29). ALERT_N and THERM_TRIP_N are held as the
assertion, not the level. -/
structure Pins where
  perstN : Bool := true
  modResetN : Bool := true
  pwrGood : Bool := true
  thermTrip : Bool := false
  syncOut : Bool := false
  smbAddr : Nat := 0x58
  railsOk : Bool := true
  ovOff : Bool := false
deriving DecidableEq, Repr

/-- The states of a block (R510). -/
inductive BSt where
  | off | starting | ready | stopping | degraded
deriving DecidableEq, Repr

/-- A tower, stack, porch die or quadrant, numbered as GLB_BSTATE numbers them (R510, R529). -/
structure Block where
  st : BSt := .off
  pendEn : Bool := false
  fail : Bool := false
  last : Nat := 0
  resets : Nat := 0
  /-- The drain frame of a stop or a reset: the next threshold resets the scope (R516). -/
  drain : Bool := false
  /-- The start under way, or awaited, follows a reset. -/
  viaReset : Bool := false
deriving DecidableEq, Repr

/-- Readiness and resets of M (R506, R513, R515, R548). -/
structure Boot where
  /-- The functions have begun to start since module reset (R506). -/
  started : Bool := false
  pcie : Bool := false
  mfw : Bool := false
  recovery : Bool := false
  laser : Bool := false
  modCause : Nat := 0
  /-- An M warm reset is in progress. -/
  warm : Bool := false
  /-- Towers whose regulator faulted in the running frame. -/
  regFaults : Nat := 0
  blockResets : Nat := 0
  startFails : Nat := 0
deriving DecidableEq, Repr

/-- The state of one sequencer (R530). -/
inductive SeqSt where
  | off | bist | active | standby | failed
deriving DecidableEq, Repr

/-- A takeover under way: why, whether it is a drill, and whether the standby holds the baton and has sent the
settings of the next frame (R524, R528). -/
structure Takeover where
  cause : Nat
  drill : Bool
  taken : Bool
deriving DecidableEq, Repr

/-- The duplicated sequencer (R519 to R530). -/
structure Seqs where
  a : SeqSt := .off
  b : SeqSt := .off
  /-- Which sequencer drives the frame: false SEQ-A, true SEQ-B. -/
  act : Bool := false
  lost : Bool := false
  take : Option Takeover := none
  /-- Isolation switches opened by the arbiter (R523). -/
  isoA : Bool := false
  isoB : Bool := false
  takeovers : Nat := 0
  cause : Nat := 0
  lostFrames : Nat := 0
  lostFirst : Nat := 0
  lostTotal : Nat := 0
  /-- Frame of the checkpoint in each bank, and the bank written last (R520). -/
  bank0 : Option Nat := none
  bank1 : Option Nat := none
  bank : Bool := false
  /-- The former active sequencer runs its BIST at the end of a drill. -/
  drillBist : Bool := false
  heartbeat : Option Nat := none
  mailbox : Bool := false
  /-- The frame after a takeover, whose headers carry TAKEOVER (R524). -/
  firstFrame : Bool := false
deriving DecidableEq, Repr

/-! ## Frames, alignment and snapshots (chapter 02) -/

/-- The alignment states (R63). -/
inductive SyncSt where
  | off | acquiring | locked | lost | quarantined | holdover
deriving DecidableEq, Repr

/-- External frame sync (R58 to R63, R68). -/
structure Sync where
  st : SyncSt := .off
  missFrames : Nat := 0
  quarLeft : Nat := 0
  syncLost : Bool := false
  /-- An accepted edge clears SYNC_LOST at the next threshold (R60). -/
  clearLost : Bool := false
  /-- Phase error of the last accepted edge, in ns. -/
  phase : Int := 0
  /-- Consecutive accepted edges of at most 16 ns. -/
  good : Nat := 0
  /-- An edge was accepted in the capture window of the running frame's threshold, and the next one's. -/
  seen : Bool := false
  seenNext : Bool := false
  /-- The step of the running frame and of the next, in ns. -/
  step : Int := 0
  stepNext : Int := 0
  /-- In HOLDOVER, which accepts none: an edge has come in the capture window of the running frame's threshold, and of the next
  one's, so that a further one is extra (R59, R61). -/
  came : Bool := false
  cameNext : Bool := false
  /-- Extra edges of the running frame. -/
  extra : Nat := 0
  /-- Coarse acquisition waits for the next edge; the frame in progress then lasts this many ns in all. -/
  coarse : Bool := false
  coarseLen : Option Nat := none
  /-- The next accepted tick marker sets FRM_MASTER_OFFSET (R68). -/
  setOffset : Bool := false
  offset : Nat := 0
  /-- DEPTH of the last TICK on the tick port, and the snapshot master frame that it carried (R385). -/
  depth : Nat := 0
  tickSnap : Option Nat := none
deriving DecidableEq, Repr

/-- The frame and its number (R44 to R48, R54). -/
structure Frm where
  begun : Bool := false
  cur : Nat := 0
  commit : Nat := 0
  published : Bool := false
  /-- The running frame is an idle frame (R464). -/
  idle : Bool := false
  /-- The running frame is a safe frame at the tiles (R521). -/
  safe : Bool := false
  /-- Period in force, in units of 128 ns. -/
  active : Nat := 16
  /-- Nanoseconds of the frames that have ended: the clock for the spec's millisecond and second bounds. The model's own
  field. -/
  time : Nat := 0
  sync : Sync := {}
deriving DecidableEq, Repr

/-- Snapshot states (R72). -/
inductive SnapSt where
  | idle | armed | latched | collecting | done | stalled
deriving DecidableEq, Repr

/-- The snapshot controller (R69 to R73). -/
structure Snap where
  st : SnapSt := .idle
  /-- Sources that fired in the running frame while armed, and the frame in which the first fired. -/
  fired : Nat := 0
  firstFrame : Nat := 0
  errClass : Nat := 0xFFFF
  pendArm : Bool := false
  /-- The latched record: its sources, flags, frames and length. -/
  sources : Nat := 0
  takeover : Bool := false
  tooSmall : Bool := false
  len : Nat := 0
  latchFrame : Nat := 0
  /-- A tick marker asked for a snapshot at this master frame (R69). -/
  tick : Option Nat := none
deriving DecidableEq, Repr

/-! ## Cores and pantry slices (chapters 03 to 05) -/

/-- An accumulator bank: entries of 48 bits keyed by 64 i + j, the two FP32 tag factors, and the mode (R83, R119). -/
structure Bank where
  ent : Tab (BitVec 48) := []
  tagA : Word := 0
  tagB : Word := 0x3F800000
  isInt : Bool := false
deriving DecidableEq, Repr

/-- An active loop: runs left, first and last word of its body (R119, R155). -/
structure Loop where
  left : Nat
  first : Nat
  last : Nat
deriving DecidableEq, Repr

/-- What a core is doing (R121 to R123): between steps, issuing, at its end-of-frame wait, or trapped. -/
inductive CoreSt where
  | idle | running | ending | ended | trapped
deriving DecidableEq, Repr

/-- A wait that stalls issue (R144): SYNC on units, WAITRX, BTEST of a barrier into a predicate. -/
inductive CoreWait where
  | sync (units : Nat)
  | rx
  | btest (p barrier : Nat)
deriving DecidableEq, Repr

/-- The four units with queues or datapaths of their own (R140). -/
inductive UnitId where
  | move | mat | vec
deriving DecidableEq, Repr

/-- An operation issued to a unit, with the operands read at issue (R140, R141): class and code, its word, the values
of its scalar and descriptor operands, its address, and whether its predicate held. -/
structure UOp where
  cls : Nat
  op : Nat
  w : OpWord
  addr : Nat := 0
  sc : List Word := []
  ds : List (BitVec 256) := []
  run : Bool := true
  /-- Word address it was issued from. -/
  pc : Nat := 0
  fault : MacFault := {}
  /-- KEEP_A of an MMA was accepted (R150). -/
  keep : Bool := false
  /-- Its place in the order of issue among the operations that have not completed (R143). -/
  seq : Nat := 0
deriving DecidableEq, Repr

/-- What the last MAT word leaves for KEEP_A (R150): its A descriptor register, the descriptor, the offset and kb0;
none when it was no MMA or the register was written since. -/
structure LastMat where
  reg : Nat
  desc : BitVec 256
  off : Nat
  kb0 : Nat
deriving DecidableEq, Repr

/-- One operand buffer of A: element codes of a K-block, row by row, the scales, and the record of a husked word it
holds (R84, R150). -/
structure ABuf where
  elems : List Nat := []
  scales : List Nat := []
  husk : Option (List Byte) := none
deriving DecidableEq, Repr

/-- A core: program state (R119), the units' queues and operations in flight (R140), its instruction store (R78), and
what its registers report (R116, R162). -/
structure Core where
  s : Tab Word := []
  p : Tab Bool := []
  m : Tab (BitVec 128) := []
  w : Tab (BitVec 2048) := []
  d : Tab (BitVec 256) := []
  b : Tab Bank := []
  loops : List Loop := []
  flags : Nat := 0
  tol : Tab Nat := []
  pc : Nat := 0
  st : CoreSt := .idle
  wait : Option CoreWait := none
  /-- A replay slot that WAITRX waits for has still to end in this frame (R124). -/
  replay : Bool := false
  moveQ : List UOp := []
  matQ : List UOp := []
  vecQ : List UOp := []
  flight : List (UnitId × UOp) := []
  lastMat : Option LastMat := none
  abuf : ABuf := {}
  istore : Tab (BitVec 128) := []
  entry : Nat := 0
  /-- The first trap of the running frame has been recorded. -/
  trappedNow : Bool := false
  trapCode : Nat := 0
  trapAddr : Nat := 0
  userCode : Nat := 0
  /-- FRAMEEND word, cycles and time of the running step, and the same of the last committed one. -/
  endAddr : Nat := 0
  endCycles : Nat := 0
  endAt : Nat := 0
  endAddrC : Nat := 0
  usedC : Nat := 0
  /-- Barriers this core has arrived at, with the frame of its last arrival, and whose completion has not been delivered
  to it. -/
  arrived : List (Nat × Nat) := []
  /-- Barriers whose completion after this core's last BARRIVE was delivered in an earlier frame (R157). -/
  done : List Nat := []
  /-- Byte ranges [lo, hi) the frame program sends in this frame, and those still held for replays (R127, R212). -/
  sends : List (Nat × Nat) := []
  held : List (Nat × Nat) := []
deriving DecidableEq, Repr

/-- A debug window of one requester on one tower (R173): its status, whether an access is in progress, and the access
(write, the slice, the word). -/
structure Dbg where
  busy : Bool := false
  status : Nat := 0
  isWrite : Bool := false
  core : Nat := 0
  word : Nat := 0
deriving DecidableEq, Repr

/-- A march run of a tower (R174 to R176): 0 IDLE, 1 RUNNING, 2 DONE, 3 REFUSED; the rows and setting of the run. -/
structure March where
  st : Nat := 0
  rows : Nat := 0
  algo : Nat := 0
  bg : Nat := 0
  preserve : Bool := true
  failRows : Nat := 0
  /-- A START waits for the threshold after the one at which it took effect. -/
  due : Bool := false
deriving DecidableEq, Repr

/-- The last march result of a slice: failing line reads, first failing word and lowest failing bit (R176). -/
structure MarchRes where
  fail : Bool := false
  count : Nat := 0
  word : Nat := 0
  bit : Nat := 0
deriving DecidableEq, Repr

/-- A row of a tower (R80 to R82): its state, the spare's place, and what the spare carries. -/
structure Row where
  st : Nat := 0
  subEn : Bool := false
  subLogical : Nat := 0
  sparePos : Nat := 16
  /-- The room that holds the row as a member. -/
  room : Option Nat := none
  /-- The map that start-up row repair gave, (ROW_STATE, SUB_EN, SUB_LOGICAL), until the next threshold puts it in force (R81). -/
  next : Option (Nat × Bool × Nat) := none
deriving DecidableEq, Repr

/-- Service state of a core position: 0 in service or spare, 2 FENCED, 3 RETIRED (R116); whether its slice failed the march run of
the start, and whether its bonds have failed (R499). -/
structure Pos where
  st : Nat := 0
  fmax : Nat := 220
  march : Bool := false
  bond : Bool := false
deriving DecidableEq, Repr

/-- A reduction under way in a tile (R178 to R183): the declared tree and the contributions held, by source. -/
structure SoaTree where
  tile : Nat
  id : Nat
  ty : Nat
  accum : Bool
  kind : Nat
  unit : Nat
  addr : Nat
  slots : Nat
  /-- (corridor, logical lane, first slot) of each source, in order. -/
  srcs : List (Nat × Nat × Nat) := []
  /-- Room that declares the tree. -/
  room : Nat := 0
deriving DecidableEq, Repr

/-- A contribution held in an accumulation buffer: frame, tree, source, slot number within the source, its 112 bytes,
the 7 husk marks of its words as a mask, the room; `good` false for a slot lost after its replay. -/
structure SoaPart where
  frame : Nat
  tile : Nat
  tree : Nat
  src : Nat
  k : Nat
  bytes : List Byte
  husks : Nat
  good : Bool
  room : Nat := 0
deriving DecidableEq, Repr

/-- A SIGNAL record that a tile's barrier service has still to send: the sender, the destination, the record's fields (R185, R197). -/
structure SigRec where
  room : Nat
  ep : Nat
  dest : Nat
  kind : Nat
  id : Nat
  row : Nat := 0
  value : Nat
deriving DecidableEq, Repr

/-- A room's barrier (R185): members that have arrived since it last completed, and the
frame of the last completion. -/
structure Barrier where
  members : List Nat := []
  home : Nat := 0
  arrived : List Nat := []
  doneFrame : Option Nat := none
deriving DecidableEq, Repr

/-- A room's flag word (R186): its home tile, the subscribers' (core, address), the values raised in the running frame
ORed, and those to deliver in it. -/
structure Flag where
  home : Nat := 0
  subs : List (Nat × Nat) := []
  raised : Option Nat := none
  deliver : Option Nat := none
deriving DecidableEq, Repr

/-- The towers: cores keyed as R442 numbers them, rows by tower * 16 + row, positions as cores; the marks of pantry
words keyed by memory address / 16; debug windows keyed by tower * 32 + requester; march runs by tower (R163 to R189). -/
structure Towers where
  cores : Tab Core := []
  rows : Tab Row := []
  pos : Tab Pos := []
  /-- Husk marks of words. -/
  husk : Tab Bool := []
  /-- Errors standing in words: 1 + bit for a single-bit error, 1000 for an uncorrectable one. -/
  errs : Tab Nat := []
  dbg : Tab Dbg := []
  march : Tab March := []
  marchRes : Tab MarchRes := []
  /-- K-blocks of each tower in which R424 alone set SPEC, since module reset (R118). -/
  specs : Tab Nat := []
  /-- Last corrected word of each slice, as word + 1 (R167). -/
  eccAddr : Tab Nat := []
  /-- Trees of the running frame and of the one before. -/
  trees : List SoaTree := []
  treesPrev : List SoaTree := []
  parts : List SoaPart := []
  /-- Instruction words of load frames, which take effect at the next threshold (R78): (core, word, value). -/
  istoreDue : List (Nat × Nat × BitVec 128) := []
  /-- Cores that the next threshold fences, with whether their FMAX is the cause (R453). -/
  fenceDue : List (Nat × Bool) := []
  /-- Measured FMAX values that the next threshold puts in force: (core, units of 10 MHz) (R452). -/
  fmaxDue : List (Nat × Nat) := []
  /-- Rows that retire at a threshold: (row, threshold, CAUSE of R501) (R81, R421). -/
  rowsDue : List (Nat × Nat × Nat) := []
  /-- Barriers keyed by room * 256 + barrier, flags by room * 64 + flag. -/
  barriers : Tab Barrier := []
  /-- Barrier records that the tiles have still to send. -/
  signals : List SigRec := []
  flags : Tab Flag := []
deriving DecidableEq, Repr

/-! ## Kullity images as parsed (chapter 10) -/

/-- A CORE entry of a step (R334). -/
structure CoreE where
  tower : Nat
  row : Nat
  mask : Nat
  entry : Nat
  last : Nat
deriving DecidableEq, Repr

/-- A LATCH entry of a step (R335). -/
structure LatchE where
  ep : Nat
  latch : Nat
  corridor : Nat
  lane : Nat
deriving DecidableEq, Repr

/-- A RUN entry of a step (R336). -/
structure RunE where
  bundle : Nat
  lane : Nat
  cls : Nat
  first : Nat
  count : Nat
  dest : Nat
  dkind : Nat
  srcUnit : Nat
  dstUnit : Nat
  srcAddr : Nat
  dstAddr : Nat
deriving DecidableEq, Repr

/-- A TREE entry (R179, R337): the tile that reduces, the tree, its sources as (corridor, lane, first slot). -/
structure TreeE where
  ep : Nat
  id : Nat
  ty : Nat
  accum : Bool
  kind : Nat
  unit : Nat
  addr : Nat
  slots : Nat
  srcs : List (Nat × Nat × Nat)
  /-- Its unused bits are zero. -/
  zero : Bool := true
deriving DecidableEq, Repr

/-- A step of a program (R331 to R337); `occ` holds (endpoint, KiB). -/
structure Step where
  cores : List CoreE := []
  latches : List LatchE := []
  runs : List RunE := []
  trees : List TreeE := []
  occ : List (Nat × Nat) := []
  switchPt : Bool := false
  /-- Where its block and its entries stand in the image, each entry as (type, offset): what BIT_FAIL_OFFSET names (R340). -/
  off : Nat := 0
  ents : List (Nat × Nat) := []
deriving DecidableEq, Repr

/-- A barrier declared by a program: members as (endpoint, row, logical cores) (R338). -/
structure BarE where
  id : Nat
  home : Nat
  members : List (Nat × Nat × Nat)
deriving DecidableEq, Repr

/-- A flag declared by a program: subscribers as (tower, row, logical core, address) (R338). -/
structure FlagE where
  id : Nat
  home : Nat
  subs : List (Nat × Nat × Nat × Nat)
deriving DecidableEq, Repr

/-- A PROGRAM section: role 0 PHASE, 1 LOAD, 2 RESHARD; needs as (bundle, lanes) (R330 to R332, R338). -/
structure Prog where
  role : Nat
  slot : Nat
  phase : Nat
  toPhase : Nat
  variant : Nat
  loopTo : Nat := 0
  nextPhase : Nat := 0xFF
  steps : List Step := []
  bars : List BarE := []
  flags : List FlagE := []
  needs : List (Nat × Nat) := []
  /-- Table index of its section, and where its body stands in the image. -/
  sect : Nat := 0
  off : Nat := 0
deriving DecidableEq, Repr

/-- A slot record: home, and the weight regions of its phases as (base, length) (R323). -/
structure SlotE where
  slot : Nat
  pinned : Bool
  home : Nat
  len : Nat
  regions : List (Nat × Nat)
deriving DecidableEq, Repr

/-- A queue declaration (R324). -/
structure QueueE where
  queue : Nat
  kind : Nat
  slot : Nat
  maxPkt : Nat
deriving DecidableEq, Repr

/-- A CORE_CODE section: the row, the cores, the first word and the words (R328). -/
structure CodeE where
  tower : Nat
  row : Nat
  mask : Nat
  base : Nat
  words : List (BitVec 128)
deriving DecidableEq, Repr

/-- A PANTRY_INIT record, a FILL written out (R329). -/
structure InitE where
  tower : Nat
  row : Nat
  mask : Nat
  addr : Nat
  bytes : List Byte
deriving DecidableEq, Repr

/-- A section that every start sequence reads again: whether it is CORE_CODE, its place in the image, and its SHA256 (R344). -/
structure ShaE where
  code : Bool
  offset : Nat
  length : Nat
  sha : List Byte
deriving DecidableEq, Repr

/-- An image (R317 to R338): members in ascending order, rows as tower * 16 + row, slices as stack * 64 + slice, lanes
as bundle * 16 + lane, latches as endpoint * 512 + latch; `store` is its size in the program store, in 4 KiB units. -/
structure Image where
  id : Nat := 0
  period : Nat := 16
  floor : Nat := 800
  initSlot : Nat := 0
  initPhase : Nat := 0
  rows : List Nat := []
  slices : List Nat := []
  lanes : List Nat := []
  latches : List Nat := []
  slots : List SlotE := []
  queues : List QueueE := []
  retryPct : Nat := 2
  foldDefault : Nat := 0
  foldOvr : List (Nat × Nat) := []
  profile : Nat := 0
  speculative : Bool := false
  /-- RESILIENCE overrides as (class, CONSEC, HITS) (R326). -/
  classes : List (Nat × Nat × Nat) := []
  minW : Nat := 0
  maxW : Nat := 1500
  priority : Nat := 0
  /-- Hints as (slot, phase, tower, watts) (R327). -/
  hints : List (Nat × Nat × Nat × Nat) := []
  progs : List Prog := []
  code : List CodeE := []
  inits : List InitE := []
  store : Nat := 0
  /-- The SHA256 fields of its CORE_CODE and PANTRY_INIT sections as the program store holds them (R341, R344). -/
  shas : List ShaE := []
  /-- SHA-256 of the signed message (R320, R554). -/
  digest : List Byte := []
deriving DecidableEq, Repr

/-- An image loaded or accepted for a room, with its source: kind 1 host memory through a function, 2 cellar (R348). -/
structure Loaded where
  image : Image
  srcKind : Nat
  src : Nat
  len : Nat
  fn : Nat
  /-- BIT_CFG.KIND at START, and for kind 2 the room's slices as they stood then (R339). -/
  kind : Nat := 0
  slices : List Nat := []
deriving DecidableEq, Repr

/-- The load engine's states (R348). -/
inductive EngSt where
  | idle | reading | validating | accepted
deriving DecidableEq, Repr

/-- A load in the engine: the owner, the target room, the source, the length, and once accepted the image and the
frame at whose threshold it falls due (R339, R342). -/
structure Load where
  owner : Nat
  room : Nat
  srcKind : Nat
  src : Nat
  len : Nat
  image : Option Image := none
  due : Nat := 0
  /-- BIT_CFG.KIND, and for kind 2 the target room's slices as they stood at START (R339). -/
  kind : Nat := 0
  slices : List Nat := []
deriving DecidableEq, Repr

/-- What the BIT block keeps for each function of its last load (R348). -/
structure LoadRes where
  status : Nat := 0
  st : Nat := 0
  failSection : Nat := 0xFFFF
  failStep : Nat := 0
  failOffset : Nat := 0
  id : Nat := 0
deriving DecidableEq, Repr

/-- The BIT block (R339 to R348). -/
structure Bit where
  eng : EngSt := .idle
  load : Option Load := none
  progress : Nat := 0
  res : Tab LoadRes := []
  /-- Program store in use, in 4 KiB units (R341). -/
  used : Nat := 0
deriving DecidableEq, Repr

/-! ## Rooms and queues (chapter 09) -/

/-- Room states (R289). -/
inductive RoomSt where
  | empty | starting | running | halted | resetting
deriving DecidableEq, Repr

/-- Which program a room runs: a slot's phase program in a variant, its load program, or the program from one phase to
another; the index of the step of the running frame; and whether a step has run since it was entered (R294 to R297,
R332). -/
structure Exec where
  role : Nat := 0
  slot : Nat := 0
  phase : Nat := 0
  toPhase : Nat := 0
  variant : Nat := 0
  step : Nat := 0
  ran : Bool := false
deriving DecidableEq, Repr

/-- A room (R286 to R297). -/
structure Room where
  st : RoomSt := .empty
  cause : Nat := 0
  /-- The image in force. -/
  cur : Option Loaded := none
  /-- The state from which a HALT stopped the room. -/
  was : RoomSt := .running
  /-- The present step of the start sequence, 1 to 5, and the pinned slots still to load in step 5 (R292). -/
  start : Nat := 0
  pinned : List Nat := []
  /-- The running program; `transit` while it is a load or re-shard program on the way to a target. -/
  run : Exec := {}
  transit : Bool := false
  target : Nat × Nat := (0, 0)
  /-- Frames N that the room holds: its running frame is a hold frame (R51). -/
  hold : Bool := true
  resident : Nat := 0
  /-- Switch status, reason, and the pending request (R295). -/
  swSt : Nat := 0
  swReason : Nat := 0
  pendSw : Option (Nat × Nat) := none
  /-- A reset, halt, resume falls due at the next threshold; a reset with its lowest cause. -/
  haltDue : Bool := false
  resumeDue : Bool := false
  resetDue : Option Nat := none
  retryDue : Bool := false
  switchDue : Option (Nat × Nat) := none
  /-- Overrun in the frame before: reset at the next threshold (R50). -/
  overran : Bool := false
  lost : Bool := false
  lastCause : Nat := 0
  resets : Nat := 0
  /-- Frames of the resets of the last 1,024 frames. -/
  hist : List Nat := []
  stateFrame : Nat := 0
  /-- Frame at which the image took effect (R554). -/
  imageFrame : Nat := 0
  /-- The last frame committed, and the two before, with whether the room was reset at their threshold (R431). -/
  committed : Bool := false
  loopLimit : Bool := false
deriving DecidableEq, Repr

/-- A packet (R299 to R307): committed ones carry their SEQ; `last` is the frame that carried the LAST record, `spec`
the (node, room, sender frame) of a speculative message and `clear` whether its clear has arrived. -/
structure Pkt where
  data : List Byte
  origin : Nat
  source : Nat
  seq : Nat := 0
  commitFrame : Nat := 0
  gapCount : Nat := 0
  gapFrame : Nat := 0
  deliveries : Nat := 0
  handed : Bool := false
  last : Nat := 0
  spec : Option (Nat × Nat × Nat) := none
  clear : Bool := true
  /-- When a speculative message was taken, in ns of frm.time (R436). -/
  since : Nat := 0
  /-- The chain of pool cells that it occupies (R299). -/
  cells : List Nat := []
deriving DecidableEq, Repr

/-- A stream packet in progress (R304): its data so far and the endpoint that sent its first record; `dead` once it was
dropped or rewound while records of it still follow. -/
structure Build where
  data : List Byte
  source : Nat
  dead : Bool := false
  /-- The cells granted to it so far (R299). -/
  cells : List Nat := []
deriving DecidableEq, Repr

/-- One slot of a queue's stream (R304): its place in the order, the endpoint that sent it, its payload, the husk marks
of its seven words, and whether it was delivered good. -/
structure StreamSlot where
  order : Nat
  source : Nat
  bytes : List Byte
  husks : Nat
  good : Bool
deriving DecidableEq, Repr

/-- A queue's own state (R298 to R311, R564). -/
structure Queue where
  /-- The function through which EN was last set (R540); 31, none, before. -/
  fn : Nat := 31
  /-- Committed packets in commit order. -/
  pkts : List Pkt := []
  /-- Complete packets that wait for their commit threshold. -/
  wait : List Pkt := []
  building : Option Build := none
  /-- The stream received in the running frame and in the one before (R304). -/
  stream : List StreamSlot := []
  streamPrev : List StreamSlot := []
  /-- The tail marker (R309). -/
  gapCount : Nat := 0
  gapFrame : Nat := 0
  seq : Nat := 0
  /-- Delivery ring: producer and consumed byte counts (R310). -/
  prod : Nat := 0
  cons : Nat := 0
  /-- Submission ring: entries written, read and consumed (R303). -/
  written : Nat := 0
  readE : Nat := 0
  taken : Nat := 0
  /-- Releases under way: (VALUE, sending frame) (R311). -/
  releases : List (Nat × Nat) := []
  /-- The intake stream of the running frame (R311). -/
  intake : List Byte := []
  /-- The shadow is due after the next publication; with it the vector. -/
  shadowDue : Bool := false
  vecDue : Bool := false
deriving DecidableEq, Repr

/-- The queue engine (R298 to R316), with the packets committed and the MARKER records delivered since module reset. -/
structure Queues where
  qs : Tab Queue := []
  committed : Nat := 0
  markers : Nat := 0
  /-- Cells that came back to the pool, the last first, and the lowest that was never granted (R299; log 129). -/
  returned : List Nat := []
  unused : Nat := 0
  /-- Bytes of cells' data areas that upsets changed, by cell: the byte, and what it differs by (R300). -/
  cellErrs : Tab (Tab Nat) := []
deriving DecidableEq, Repr

/-! ## The Hall (chapters 06 and 07) -/

/-- A bundle: its state as HALL_BSTATE codes it, the roles of its lines, the map's EPOCH, the good-line masks that both
sides post, quiesced frames so far, and whether agreement starts at the next threshold (R214, R226, R229). -/
structure Bundle where
  st : Nat := 0
  roles : List Nat := []
  epoch : Nat := 0
  /-- The copy of the map that the upper die holds, whose check word the headers carry as CHECK_UPPER (R204). -/
  upperRoles : List Nat := []
  upperEpoch : Nat := 0
  goodBase : Nat := 0x3FFFF
  goodUpper : Nat := 0x3FFFF
  quiesced : Nat := 0
  /-- Agreement is under way; the group's light is lost (R226, R242): both make the bundle QUIESCED. -/
  agree : Bool := false
  dark : Bool := false
  agreeDue : Bool := false
  mapNew : Bool := false
  /-- Agreement follows a mismatch found in the running frame: its slots are rejected without touching any line. -/
  mismatch : Bool := false
deriving DecidableEq, Repr

/-- A latch: whether its ring is retired, and its assignment in the running frame (R193, R228). -/
structure Latch where
  retired : Bool := false
  assigned : Option (Nat × Nat) := none
deriving DecidableEq, Repr

/-- A slot as the schedule names it, and where it was rejected (R203, R210). -/
structure Slot where
  bundle : Nat
  lane : Nat
  slot : Nat
  ep : Nat
  room : Nat
  /-- The lane it travelled on. -/
  via : Nat
deriving DecidableEq, Repr

/-- A slot of the frame before assigned to a retry slot of the running frame (R210). -/
structure Replay where
  orig : Slot
  run : RunE
  lane : Nat
  slot : Nat
  lost : Bool := false
deriving DecidableEq, Repr

/-- A folded slot: in a step of the program a room runs, a dead lane's slot carried in another lane's slot (R219). -/
structure Fold where
  room : Nat
  bundle : Nat
  dead : Nat
  step : Nat
  slot : Nat
  lane : Nat
  place : Nat
deriving DecidableEq, Repr

/-- A line retirement decided and not yet in effect: the line, the threshold, and its CAUSE under R501, 0 where the spec
states none (R216). -/
structure LineRetire where
  line : Nat
  due : Nat
  cause : Nat
deriving DecidableEq, Repr

/-- A payload that a source keeps for replays because it cannot be read again, or that the outbound check covers (R212,
R432): its place in the schedule, its 112 bytes, the husk marks of its seven words. -/
structure SentSlot where
  bundle : Nat
  lane : Nat
  slot : Nat
  bytes : List Byte
  husks : Nat
deriving DecidableEq, Repr

/-- The Hall (R190 to R231): bundles by number; latches by endpoint * 512 + latch; margins by bundle * 18 +
line. -/
structure Hall where
  bundles : Tab Bundle := []
  latches : Tab Latch := []
  margin : Tab Nat := []
  /-- Slots rejected in the running frame, with the run each belongs to. -/
  rejects : List (Slot × RunE) := []
  /-- Those of the frame before that no replay has been assigned to. -/
  rejectsPrev : List (Slot × RunE) := []
  /-- Lanes, as (bundle, lane), that rejected a slot in the running frame, and in the one before (R210). -/
  rejLanes : List (Nat × Nat) := []
  rejLanesPrev : List (Nat × Nat) := []
  /-- Lines with a reject in the running frame; bit `k` of a line: a reject in the frame `k` + 1 frames before (R203, R230). -/
  lineHits : List Nat := []
  lineHist : Tab Nat := []
  /-- The 31 bits of each line's PRBS31 generator, once it has run (R201). -/
  prbs : Tab Nat := []
  /-- Payloads kept, of the running frame and of the one before. -/
  sent : List SentSlot := []
  sentPrev : List SentSlot := []
  replays : List Replay := []
  folds : List Fold := []
  retires : List LineRetire := []
  /-- Corridors whose slots the running frame rejects at a tile: (corridor, endpoint) (R207). -/
  desync : List (Nat × Nat) := []
  /-- Husked words sent in the running frame and in the one before: the words' slots, keyed by corridor * 16 +
  room (R204). -/
  husks : Tab Nat := []
  husksPrev : Tab Nat := []
  /-- Places of the running frame whose data a crossing slip spoiled: (corridor, lane, slot) (R456). -/
  slipped : List (Nat × Nat × Nat) := []
  mismatches : Nat := 0
  retiredLines : Nat := 0
deriving DecidableEq, Repr

/-! ## Light: sources, feed groups, rings (chapter 07) -/

/-- A comb source (R232 to R243): its state as HALL_SRC codes it; the group lit, warmed for or held READY for, 31 none;
DRIVE in half percents; the fade in tenths of a dB. -/
structure Src where
  st : Nat := 0
  group : Nat := 31
  drive : Nat := 0
  fade : Int := 0
  /-- Drive has been raised since the last calibration; it is being raised (R237). -/
  raised : Bool := false
  /-- The frame in which it was first raised, or a run for its being raised was last started (R486). -/
  raisedAt : Nat := 0
  raising : Bool := false
  /-- When its warm-up began, in ns of frm.time (R239). -/
  warmAt : Nat := 0
  /-- Warmed for a commanded swap (R257). -/
  asked : Bool := false
  /-- While READY: since when its group's fade has been above -1.0 dB (R237). -/
  okSince : Option Nat := none
  /-- Replaced: the state it takes when it goes dark at the next threshold (R240, R243). -/
  leaving : Option Nat := none
  /-- The tap powers of its 18 lines in the last 8 frames, in nW, the last first (R235). -/
  taps : List (List Nat) := []
deriving DecidableEq, Repr

/-- The assembly assignment (R234): LS0 to LS12 light the even groups, LS15 to LS27 the odd ones, the others are spares. -/
def assemblySources : Tab Src :=
  ((List.range 13).map fun k => (k, { st := 3, group := 2 * k })) ++ (List.range 13).map fun k => (15 + k, { st := 3, group := 2 * k + 1 })

/-- A ring (R244 to R252): its state, 3 PARKED being computed from the latch; the line read from its tone, 31 none; what
its loop last held; the frames of its wrong locks. -/
structure Ring where
  st : Nat := 5
  line : Nat := 31
  heater : Nat := 0
  corr : Int := 0
  retable : Bool := false
  wrong : List Nat := []
  /-- The tile's base temperature when it last locked after its start-up acquisition, in 0.25 K (R251). -/
  lockTemp : Option Int := none
  /-- Heater setpoints of the last 16 updates of the loop, 1,024 ns, the last first (R245, R255). -/
  past : List Int := []
  /-- Rejected slots that R250 attributes to this latch alone. -/
  rejects : Nat := 0
  /-- A relock that is due: its threshold (R251). -/
  due : Option Nat := none
  /-- Frame in which its reacquisition began. -/
  since : Nat := 0
deriving DecidableEq, Repr

/-- A swap that falls due: group, new source, threshold, and whether it was commanded (R240). -/
structure SwapDue where
  group : Nat
  src : Nat
  due : Nat
  asked : Bool
deriving DecidableEq, Repr

/-- Light control (R232 to R258): sources by number; rings by the index of R442. -/
structure Light where
  srcs : Tab Src := assemblySources
  rings : Tab Ring := []
  swaps : List SwapDue := []
  /-- HALL_GROUP_ALERT. -/
  alert : Nat := 0
  /-- Groups whose source is lost, with the threshold from which their bundles are QUIESCED (R242). -/
  lost : List (Nat × Nat) := []
  /-- Groups whose lines are all retired at a threshold, for want of a source (R242). -/
  ending : List (Nat × Nat) := []
  /-- Rings that are retired at a threshold, by index (R252). -/
  retires : List (Nat × Nat) := []
  /-- Groups whose lines were all retired for want of light, until a source lights them again (R242). -/
  gone : Nat := 0
  /-- Endpoints whose rings have completed start-up acquisition, with the base temperature then, in 0.25 K (R251, R252). -/
  acquired : Tab (Option Int) := []
deriving DecidableEq, Repr

/-! ## Cellar memory (chapter 08) -/

/-- A CELREQ record that a stack holds (R267, R269): who asked, what, with which operands; the status already judged;
the frame in which it was received and its place in the order of taking. -/
structure CelReq where
  order : Nat
  frame : Nat
  /-- Owner of the lane it arrived on. -/
  owner : Nat
  room : Nat
  pf : Bool
  tag : Nat
  /-- Slice, as stack * 64 + slice, and the SLICE byte as the record had it. -/
  slice : Nat
  sliceByte : Nat
  kind : Nat
  count : Nat
  op : Nat
  reply : Nat
  off : Nat
  line : Nat
  dest : Nat
  data : List Byte := []
  enables : Nat := 0
  operand : Nat := 0
  compare : Nat := 0
  status : Nat := 0
  /-- The first word of a WRITE's data that is husked (R413). -/
  husk : Option Nat := none
deriving DecidableEq, Repr

/-- A reply record (R268): a data slot or an acknowledgement, and where it goes. -/
structure CelRsp where
  stack : Nat
  owner : Nat
  reply : Nat
  isData : Bool
  room : Nat
  pf : Bool
  tag : Nat
  slice : Nat
  seq : Nat
  status : Nat
  line : Nat
  dest : Nat
  data : List Byte := []
  result : Nat := 0
  /-- The last reply of a record that holds a place among the 256 of R269: the place is free once it is sent. -/
  place : Bool := false
deriving DecidableEq, Repr

/-- A write from the Hall that the stack applies after the last retry slot of the next frame (R212, R264): bytes, and
the husk marks of its 16-byte words. -/
structure HallWrite where
  frame : Nat
  slice : Nat
  addr : Nat
  bytes : List Byte
  husks : Nat
deriving DecidableEq, Repr

/-- A memory slice (R276, R283, R284). -/
structure Slice where
  level : Nat := 0
  ovf : Nat := 0
  retired : Bool := false
  /-- Corrections of the running frame (R276). -/
  corr : Nat := 0
  /-- Declared permanent: retired at the threshold of this frame (R421, R283). -/
  due : Option Nat := none
deriving DecidableEq, Repr

/-- A stack's scrubber (R277 to R280): state 0 IDLE, 1 RUNNING, 2 DONE, 3 ABORTED; the pass and its summary so far. -/
structure Scrub where
  st : Nat := 0
  slices : Nat := 0
  first : Nat := 0
  last : Nat := 0
  /-- Next line of each slice, keyed by slice. -/
  next : Tab Nat := []
  began : Nat := 0
  ended : Nat := 0
  checked : Nat := 0
  corrected : Nat := 0
  uncorr : Nat := 0
  skipped : Nat := 0
  firstBad : Option (Nat × Nat) := none
  /-- The summary as last completed: SUM0 to SUM7. -/
  sum : List Nat := []
deriving DecidableEq, Repr

/-- The twelve stacks: slices keyed by stack * 64 + slice; lines by slice * 15,625,000 + line; pages by slice * 244,141 +
page (R261 to R284). -/
structure Cellar where
  slices : Tab Slice := []
  /-- Husk bits of lines, with the marks of words: a line's data then holds husk records. -/
  husk : Tab Bool := []
  /-- Symbols in error standing in a line: for each, by its place in the codeword, what it differs by (R270). -/
  errs : Tab (Tab Nat) := []
  /-- Valid pages. -/
  valid : Tab Bool := []
  reqs : List CelReq := []
  rsps : List CelRsp := []
  writes : List HallWrite := []
  scrub : Tab Scrub := []
  /-- INVAL_CTL.STATUS, by stack (R275). -/
  inval : Tab Nat := []
  /-- The threshold at which each stack's buckets last leaked, as frame + 1 (R276). -/
  leaked : Tab Nat := []
  /-- Line accesses to each slice in the frame (R466). -/
  uses : Tab Nat := []
deriving DecidableEq, Repr

/-! ## Jilia: ports, the router, windows, messages (chapter 11) -/

/-- A Jilia port (R349 to R358): state and cause as PCHn_PORT_STATUS codes them, lane masks, and the link's own state. -/
structure Port where
  st : Nat := 0
  cause : Nat := 0
  neighbour : Nat := 0
  live : Nat := 0
  retired : Nat := 0
  /-- Lanes that the transmitter uses, and those that it will use from the next codeword round, as the far end named them (R358). -/
  txLive : Nat := 0xFFFF
  txNext : Option Nat := none
  /-- The codeword round under way and the lowest lane that it has still to use: sent, and expected (R353, R355). -/
  txRound : Nat := 0
  txLane : Nat := 0
  rxRound : Nat := 0
  rxLane : Nat := 0
  /-- Codewords that came ahead of their turn: round, lane, and the flits, none where they were lost (R355). -/
  skew : List (Nat × Nat × Option (Flit × Flit)) := []
  carrying : Bool := false
  /-- When the state was entered, in ns of frm.time; a training failure waits for its retry (R357). -/
  since : Nat := 0
  waiting : Bool := false
  /-- When the port last sent a safe pulse (R352). -/
  pulseAt : Option Nat := none
  /-- Receive lanes to retire: lane, threshold, and whether a declaration caused it (R358). -/
  retires : List (Nat × Nat × Bool) := []
  /-- FSEQ of the last good numbered flit, and of the next one to send (R354, R355). -/
  rxSeq : Nat := 2047
  txSeq : Nat := 0
  /-- The numbered flits kept for replay, oldest first: (FSEQ, body). -/
  keep : List (Nat × List Byte) := []
  /-- Credits at the next hop by VC, in units of 128 bytes (R364). -/
  credit : List Nat := []
  /-- Neighbour packets of this module that wait for credit or for the port to carry (R362, R364). -/
  near : List Packet := []
  /-- The input that sent last in each class of service (R365): a port, 6 and 7 for local injection on this die and over the bridge. -/
  turns : List Nat := [7, 7, 7]
  /-- Body bytes of a packet still incomplete; the packets in the input buffer, oldest first. -/
  rx : List Byte := []
  inq : List Packet := []
  /-- The last 8 link delays, the delay in force, and the time t1 of a DELAY_REQ under way (R386). -/
  delays : List Nat := []
  delay : Nat := 0
  askedAt : Option Nat := none
  /-- Counts of the congestion-map interval: flits, replays, uncorrectable codewords, peak occupancy in KiB (R384). -/
  mFlits : Nat := 0
  mReplays : Nat := 0
  mUncorr : Nat := 0
  mPeak : Nat := 0
deriving DecidableEq, Repr

/-- An unacknowledged packet of a sender pair: resends so far, when its timer expires, when it was first sent (R371). -/
structure RTx where
  pkt : Packet
  sends : Nat := 0
  due : Nat
  first : Nat
deriving DecidableEq, Repr

/-- A sender pair (R369, R370): GEN, next packet number, unacknowledged packets in order, since when it is idle; KiB in
bytes and resends of the congestion-map interval. -/
structure SPair where
  gen : Nat := 0
  next : Nat := 0
  un : List RTx := []
  idle : Nat := 0
  mBytes : Nat := 0
  mResends : Nat := 0
deriving DecidableEq, Repr

/-- A receiver pair (R370, R372): every number below `cum` accepted, those accepted above it, held pip packets, packets
accepted since the last WACK, and the time of the last packet. -/
structure RPair where
  gen : Nat := 0
  cum : Nat := 0
  got : List Nat := []
  pips : List Packet := []
  owe : Nat := 0
  last : Nat := 0
deriving DecidableEq, Repr

/-- A message being reassembled (R379): its identity, its segments as (OFFSET, packet), when the first arrived. -/
structure Asm where
  src : Nat
  room : Nat
  id : Nat
  queue : Nat
  total : Nat
  segs : List (Nat × Packet)
  since : Nat
deriving DecidableEq, Repr

/-- MACKs being gathered for a multicast message of this module (R382). -/
structure Gather where
  room : Nat
  group : Nat
  id : Nat
  reply : Nat
  mask : Nat
  delivered : Nat := 0
  fenced : Nat := 0
  dropped : Nat := 0
  since : Nat
deriving DecidableEq, Repr

/-- A record that waits in an injection buffer (R376, R377): the sender frame, the packet, its bytes in the buffer, and
whether the clear for the frame is held (R434). -/
structure InjRec where
  frame : Nat
  pkt : Packet
  size : Nat
  clear : Bool := false
deriving DecidableEq, Repr

/-- An injection buffer (R374 to R377): what the running frame and the one before delivered, and its records. -/
structure InjBuf where
  stream : List StreamSlot := []
  prev : List StreamSlot := []
  recs : List InjRec := []
deriving DecidableEq, Repr

/-! ## Loads, stores and atomics across the rack (chapter 12) -/

/-- A request of this module with no completion yet (R399): its room, reply buffer (die * 512 + buffer), TAG, kind, bytes
reserved, target, SEQ, the epoch and time of its first sending, and the frame in which its record was received. -/
structure Req where
  room : Nat
  rbuf : Nat
  tag : Nat
  kind : Nat
  reserve : Nat
  node : Nat
  seq : Nat
  epoch : Nat
  first : Nat
  frame : Nat
deriving DecidableEq, Repr

/-- A FENCE under way (R415): the frame of its record, the operations it covered that have completed, what they met. -/
structure Fence where
  room : Nat
  rbuf : Nat
  tag : Nat
  frame : Nat
  count : Nat := 0
  lost : Bool := false
  routed : Bool := false
deriving DecidableEq, Repr

/-- A completion record with its data (R397), and the husk marks of its 16-byte words. -/
structure RepRec where
  bytes : List Byte
  husks : Nat := 0
deriving DecidableEq, Repr

/-- A reply buffer (R397, R398): records, bytes reserved, what the running frame's run carries, and space to be freed. -/
structure RBuf where
  recs : List RepRec := []
  reserved : Nat := 0
  out : List RepRec := []
  freeing : Nat := 0
deriving DecidableEq, Repr

/-- A cellar record that a die has issued for a request, or M for a host access, and its operands (R402). -/
structure CelMsg where
  die : Nat
  stack : Nat
  room : Nat
  pf : Bool := false
  tag : Nat
  slice : Nat
  line : Nat
  kind : Nat
  op : Nat := 0
  off : Nat := 0
  data : List Byte := []
  enables : Nat := 0
  operand : Nat := 0
  compare : Nat := 0
  /-- The first word of a WRITE's data that is husked (R413). -/
  husk : Option Nat := none
deriving DecidableEq, Repr

/-- A request taken at this module (R403): the die, when, its window entry and room once checked, the cellar records still
open as (record, byte offset in the request), what its records met, and the data read. -/
structure Taken where
  die : Nat
  pkt : Packet
  since : Nat
  order : Nat
  checked : Bool := false
  room : Nat := 0
  waits : List (CelMsg × Nat) := []
  status : Nat := 0
  data : List Byte := []
  husks : Nat := 0
  result : Nat := 0
  /-- The slice (stack * 64 + slice) and the line of the first record answered ABSENT. -/
  absent : Option (Nat × Nat) := none
  /-- A KEY request whose change takes effect at this threshold (R409). -/
  keyDue : Option Nat := none
deriving DecidableEq, Repr

/-- An entry of the provisional store buffer (R411). -/
structure Held where
  die : Nat
  pkt : Packet
  since : Nat
deriving DecidableEq, Repr

/-- A key change by a SET record, due at a threshold (R409, R410). -/
structure KeySet where
  due : Nat
  key : Nat
  node : Nat
  job : Nat
  mode : Nat
deriving DecidableEq, Repr

/-- NOTICEs queued by one die for one room (R410): records, and whether one was dropped before the next. -/
structure Notices where
  recs : List (List Byte) := []
  dropped : Bool := false
deriving DecidableEq, Repr

/-- The porch dies and the fabric (R349 to R418). Ports by index; pairs by the other node; buffers by die * 512 + number. -/
structure Jilia where
  ports : Tab Port := []
  /-- Ring-break maps of X, Y and Z, and the changes that the next threshold applies: (dimension, link, broken) (R366). -/
  breaks : List Nat := [0, 0, 0]
  breakDue : List (Nat × Nat × Bool) := []
  epoch : Nat := 0
  send : Tab SPair := []
  recv : Tab RPair := []
  /-- The GEN last used with a destination, as GEN + 1 (R370). -/
  lastGen : Tab Nat := []
  /-- Windowed packets that wait for a pair, its window or the store; packets in the local injection input (R365, R369). -/
  waits : List Packet := []
  inject : List Packet := []
  /-- Output ports that take no injected packets from a die: bit die * 6 + port (R378). -/
  stopped : Nat := 0
  /-- Throttled time of each die below a whole us, in ns (R369). -/
  throttledNs : List Nat := [0, 0]
  /-- Bytes that the porch dies handled in the frame, by die * 32 + room, 16 for transit (R466). -/
  bytes : Tab Nat := []
  asms : List Asm := []
  gathers : List Gather := []
  /-- Multicast branches held in their input for want of memory: (packet, member, since, input) (R381). -/
  branches : List (Packet × Nat × Nat × Nat) := []
  bufs : Tab InjBuf := []
  /-- Modules to which SPEC packets were sent: (room, sender frame, node) (R387). -/
  specs : List (Nat × Nat × Nat) := []
  /-- The congestion map last latched, with its frame, and the frame its interval began (R384). -/
  cmap : List Byte := []
  cmapAt : Option Nat := none
  cmapFrom : Nat := 0
  /-- Frame of each port's last DELAY_REQ, as frame + 1 (R386). -/
  asked : Tab Nat := []
  reqs : List Req := []
  fences : List Fence := []
  rbufs : Tab RBuf := []
  celq : List CelMsg := []
  taken : List Taken := []
  psb : List Held := []
  keyVer : Tab Nat := []
  keySets : List KeySet := []
  notices : Tab Notices := []
  /-- Running numbers: of taken requests, of cellar records. -/
  order : Nat := 0
  tag : Nat := 0
deriving DecidableEq, Repr

/-! ## Integrity: channels, the error log, injection, outbound checks (chapter 13) -/

/-- One channel's history (R420, R421): the last 16 units, the run of erroneous units, whether it was declared
permanent, and whether the running unit is erroneous or, for a core, was checked at all. -/
structure Chan where
  hist : Nat := 0
  run : Nat := 0
  perm : Bool := false
  err : Bool := false
  checked : Bool := false
deriving DecidableEq, Repr

/-- An error event of the running frame (R419, R440, R441), coalesced. -/
structure LogEv where
  cls : Nat
  kind : Nat
  index : Nat
  room : Nat := 0xFF
  detail : List Byte := []
  injected : Bool := false
  contain : Bool := false
  permanent : Bool := false
  rep : Nat := 1
  frame : Nat := 0
deriving DecidableEq, Repr

/-- An XSIG post of the running frame (R427). -/
structure XPost where
  room : Nat
  id : Nat
  core : Nat
  value : Nat
deriving DecidableEq, Repr

/-- The check words of one room's outbound runs of one frame on one die (R432). -/
structure OutWord where
  frame : Nat
  room : Nat
  die : Nat
  src : Nat := 0
  dst : Nat := 0
  endpoint : Nat := 0xFF
deriving DecidableEq, Repr

/-- What became of a room's frame, kept until its outbound clear is decided (R431). -/
structure FrameFate where
  frame : Nat
  room : Nat
  committed : Bool
  outboundOk : Bool := true
  wasReset : Bool := false
  /-- The room's own checks failed for the frame (R433). -/
  failed : Bool := false
deriving DecidableEq, Repr

/-- The states of an injection (R444). -/
inductive InjSt where
  | idle | armed | active | done | refused
deriving DecidableEq, Repr

/-- An injection as it was armed (R443). -/
structure Inj where
  st : InjSt := .idle
  left : Nat := 0
  kind : Nat := 0
  target : Nat := 0
  srcKind : Nat := 0
  addr : Nat := 0
  nocount : Bool := false
  start : Option Nat := none
deriving DecidableEq, Repr

/-- The integrity unit of M and the sequencer (R419 to R445). -/
structure Integ where
  /-- Histories, keyed by class * 65536 + index. -/
  chans : Tab Chan := []
  /-- Error events of the running frame, first occurrences in order. -/
  events : List LogEv := []
  /-- Log entries, keyed by number modulo 1024. -/
  entries : Tab (List Byte) := []
  prod : Nat := 0
  cons : Nat := 0
  /-- Unconsumed entries had reached FILL_LVL at the last threshold. -/
  filled : Bool := false
  /-- Frame of the last loss, per class. -/
  ovfFrame : Tab Nat := []
  posts : List XPost := []
  outWords : List OutWord := []
  fates : List FrameFate := []
  /-- Room r's frames M-1, M-2, M-3 and M-4 as the CLEAR masks of the running header state them (R433). -/
  clear1 : Nat := 0
  clear2 : Nat := 0
  clear3 : Nat := 0
  clear4 : Nat := 0
  /-- Retractions of the running headers: (room, endpoint, rows) (R206, R433). -/
  retracts : List (Nat × Nat × Nat) := []
  xRound : Nat := 0
  /-- The injection as ERR_INJ_STATUS shows it: STATE and LEFT. -/
  injShown : Nat × Nat := (0, 0)
  /-- Frame of the last cross-check frame (R428). -/
  xLast : Option Nat := none
  xRows : Nat := 0
  permanents : Nat := 0
  contained : Nat := 0
  shells : Nat := 0
  xchecks : Nat := 0
  outbounds : Nat := 0
  injected : Nat := 0
  lost : Nat := 0
  /-- CONSEC and HITS in force, keyed by class (R422). -/
  consec : Tab Nat := []
  hits : Tab Nat := []
deriving DecidableEq, Repr

/-! ## Clocks and power (chapter 14) -/

/-- The clock of a row region, in units of 10 MHz (R448 to R454): committed frequency, the changes fixed with their
thresholds, the stretch loss of the running frame in cycles. -/
structure RowClk where
  freq : Nat := 80
  next : List (Nat × Nat) := []
  loss : Nat := 0
deriving DecidableEq, Repr

/-- Power of a tower as measured in the frame (R469): in units of 0.1 W; ballast in W. -/
structure TowPow where
  power : Nat := 0
  ballast : Nat := 0
deriving DecidableEq, Repr

/-- A ledger entry (R460): its key; the activity in mW per GHz·V²; the static power in mW, by the band of the tower's compute die (log 131);
the frame it was last used. -/
structure LedgerE where
  room : Nat
  slot : Nat
  phase : Nat
  tower : Nat
  act : Nat
  stat : Tab Nat := []
  used : Nat
deriving DecidableEq, Repr

/-- A room's energy account, in nJ, and the power allocated to it in W (R466, R467, R469). -/
structure Account where
  total : Nat := 0
  job : Nat := 0
  last : Nat := 0
  jobFrames : Nat := 0
  alloc : Nat := 0
deriving DecidableEq, Repr

/-- What the meters had counted at a threshold: when, in ns of frm.time; the input and each tower, in nJ (R459, R469, R476). -/
structure PowMark where
  time : Nat := 0
  input : Nat := 0
  towers : Tab Nat := []
deriving DecidableEq, Repr

/-- The power-cap controller, the clocks and the accounts (R446 to R470). -/
structure Power where
  /-- The meters at the thresholds of the last 10 ms, the newest first; input power of the last frame and its mean of 1 ms, in mW. -/
  marks : List PowMark := []
  frameMw : Nat := 0
  input : Nat := 0
  /-- The idle cycle so far: its input energy in nJ and its time in ns; whether the 1 ms mean was above the limit in each of its frames (R465). -/
  cycleNj : Nat := 0
  cycleNs : Nat := 0
  aboveAll : Bool := false
  /-- Learned powers outside the towers in running and in idle frames, in mW (R460). -/
  outRun : Option Nat := none
  outIdle : Option Nat := none
  idleK : Nat := 0
  /-- The level chosen for the cycle that begins at the next threshold, with whether CAP_UNATTAINABLE holds in it (R465). -/
  kNext : Option (Nat × Bool) := none
  capUn : Bool := false
  lifeInvalid : Bool := false
  rows : Tab RowClk := []
  towers : Tab TowPow := []
  refclkOk : Bool := false
  holdover : Bool := false
  relocking : Bool := false
  floor0 : Nat := 0
  floor7 : Nat := 0
  ledger : List LedgerE := []
  /-- Accounts keyed by room; the module account and the module's energy in nJ; its lifetime energy in J at start, and powered seconds. -/
  accounts : Tab Account := []
  own : Nat := 0
  energy : Nat := 0
  /-- The plan of the running frame, as (room, tower, 0.1 W); each tower's planned power with its ballast, in 0.1 W, and how much that
  is above what it drew in the frame before; rooms that the slew governor holds (R253, R462). -/
  plan : List (Nat × Nat × Nat) := []
  level : Tab Nat := []
  rise : Tab Int := []
  slewHeld : List Nat := []
  /-- The rooms whose change caused each tower's ballast (R462). -/
  causes : Tab (List Nat) := []
  lifeBase : Nat := 0
  lifeSecs : Nat := 0
  capFrames : Nat := 0
deriving DecidableEq, Repr

/-! ## Temperature and cooling (chapter 15) -/

/-- A temperature sensor (R471 to R481): its state, 0 OK, 1 SUSPECT, 2 FAILED, 3 OFF; temperatures in units of 0.25 K:
the published value, the estimate; its band and the one that takes effect at the next threshold. -/
structure Sensor where
  st : Nat := 3
  value : Int := 0
  est : Int := 0
  band : Nat := 0
  bandNext : Nat := 0
  /-- Samples of the last 1 ms: (time in ns of frm.time, value); the last sample. -/
  samples : List (Nat × Int) := []
  last : Int := 0
  /-- Consecutive frames with the value implausibly low, and plausible; frames with the same value. -/
  low : Nat := 0
  fine : Nat := 0
  same : Nat := 0
  /-- FAILED from the next threshold; whether it reads open or shorted. -/
  failing : Bool := false
  openShort : Bool := false
deriving DecidableEq, Repr

/-- A throttle episode (R476): the reference power, in 0.1 W for a tower and in W for the module. -/
structure Episode where
  active : Bool := false
  pref : Nat := 0
  ceil : Nat := 0
deriving DecidableEq, Repr

/-- The coolant (R482): means in 0.25 K, flow in 0.01 L/min, the rating; since when a condition has held, in ns. -/
structure Coolant where
  inlet : Int := 0
  outlet : Int := 0
  flow : Nat := 0
  rating : Nat := 1500
  hot : Bool := false
  reversed : Bool := false
  lowFlow : Bool := false
  revAt : Option Nat := none
  fwdAt : Option Nat := none
  lowAt : Option Nat := none
  highAt : Option Nat := none
deriving DecidableEq, Repr

/-- The thermal unit (R471 to R485): episodes by scope, towers 0-7, the module 8. -/
structure Thermal where
  sensors : Tab Sensor := []
  episodes : Tab Episode := []
  cool : Coolant := {}
  tripped : Bool := false
  tripValid : Bool := false
  tripSensor : Nat := 0
  tripTemp : Int := 0
  tripFrame : Nat := 0
  trips : Nat := 0
  /-- While tripped: since when every counted sensor has read below 70 °C, in ns. -/
  coolAt : Option Nat := none
deriving DecidableEq, Repr

/-! ## Calibration, test and repair (chapter 16) -/

/-- A calibrated unit (R486 to R496): whether a run is in progress; values in force and those being stepped in; where
the values came from at start; rejected sets; the governing sensor at the last run, in 0.25 K; the threshold of the last
step. -/
structure CalUnit where
  running : Bool := false
  valid : Bool := false
  source : Nat := 0
  cur : List Int := []
  goal : Option (List Int) := none
  /-- The values that plausible limits are judged against: the assembly values or what was loaded in their place. -/
  base : List Int := []
  /-- The threshold at which stepping begins. -/
  due : Nat := 0
  rejects : Nat := 0
  temp : Int := 0
  ran : Bool := false
  frame : Nat := 0
  /-- The set has been stepped in and its record is still to be written. -/
  record : Bool := false
deriving DecidableEq, Repr

/-- An entry of the field retire list (R501). -/
structure RetireE where
  type : Nat
  cause : Nat
  index : Nat
  data : Nat := 0
  frame : Nat
deriving DecidableEq, Repr

/-- A calibration record in flash (R494): its body as values, whether it passes its CRC. -/
structure CalRecord where
  seq : Nat
  temp : Int
  fw : Nat
  frame : Nat
  body : List Int
  ok : Bool := true
deriving DecidableEq, Repr

/-- One copy of a record that the flash keeps in two: its sequence number, whether its CRC-32C holds, what it says (R493, R546). -/
structure Copy (α : Type) where
  seq : Nat
  ok : Bool
  val : α
deriving DecidableEq, Repr

/-- A record kept in two copies, of which none, one or both have been written. -/
structure TwoCopy (α : Type) where
  c0 : Option (Copy α) := none
  c1 : Option (Copy α) := none
deriving DecidableEq, Repr

/-- The parts of the flash that calibration and energy use (R468, R493): calibration records keyed by (kind * 64 + unit) *
2 + copy; the dies whose ASSY record fails its check, by ASSY UNIT, and the bond groups steered at assembly, as die * 65536 + group;
the retire list; energy checkpoints (sequence, J, s); fused FMAX by core. `bondUse`: what the groups named in the retire list carry,
which the layout of the dies fixes and the spec does not give (log 118). -/
structure CalFlash where
  records : Tab (Option CalRecord) := []
  assyBad : List Nat := []
  assyBonds : List Nat := []
  bondUse : Tab BondUse := []
  retire : TwoCopy (List RetireE) := { c0 := some ⟨0, true, []⟩ }
  eng0 : Option (Nat × Nat × Nat) := none
  eng1 : Option (Nat × Nat × Nat) := none
  fmax : Tab Nat := []
  /-- Fused voltage-frequency curves of row regions, as (10 MHz, mV), where they are not the nominal one (R448). -/
  curves : Tab (List (Nat × Nat)) := []
deriving DecidableEq, Repr

/-- The calibration engine (R486 to R505): units keyed by kind * 64 + unit. -/
structure Calib where
  units : Tab CalUnit := []
  /-- CELPHY: channels still to retrain in idle frames, by stack; the frame of the trigger (R488). -/
  phyLeft : Tab Nat := []
  phyAt : Tab Nat := []
  /-- The next frame is an idle frame that the sequencer inserts; the frame of the last one. -/
  insert : Bool := false
  insertedAt : Option Nat := none
  retire : List RetireE := []
  /-- Entries appended since the list was last written to flash; an append was refused for want of room. -/
  retireNew : Bool := false
  retireFull : Bool := false
  /-- A record whose write failed: kind * 64 + unit, 32 * 64 for the retire list. -/
  retry : List Nat := []
  steered : Nat := 0
  bondsRetired : Nat := 0
  /-- Failed signal bonds of each group, keyed by die (as ASSY UNIT) * 65536 + group (R12, R498). -/
  bonds : Tab Nat := []
  /-- Adapt attempts: (channel key, history units since) (R502). -/
  adapted : Tab Nat := []
  /-- Equaliser taps of each port in force, and the ports that walk to the preset of a new band (R492). -/
  eq : Tab (List Int) := []
  walk : List Nat := []
  /-- Some unit loaded a fallback at its start (R496). -/
  fallback : Bool := false
deriving DecidableEq, Repr

/-! ## Host interface (chapter 18) -/

/-- A BAR 2 access under way (R538): its number, the function, its address and length, its cellar
records with the status and data of those answered, and when it arrived. -/
structure HostAcc where
  id : Nat
  fn : Nat
  write : Bool
  addr : Nat
  len : Nat
  recs : List (CelMsg × Option (Nat × List Byte)) := []
  since : Nat
deriving DecidableEq, Repr

/-- The host interface of M (R532 to R545, R555, R556). -/
structure HostIf where
  numVFs : Nat := 0
  vfEnable : Bool := false
  /-- Sizes of the BAR 2 of the PF and of each VF, as powers of two. -/
  bar2 : Nat := 30
  vfBar2 : Nat := 30
  /-- Functions with ATS enabled, and invalidations that wait for reads: (function, tag). -/
  ats : Nat := 0
  inval : List (Nat × Nat) := []
  accs : List HostAcc := []
  /-- Endpoint ID of the SMBus endpoint (R543). -/
  eid : Nat := 0
  /-- IDE stream keys as programmed (R556). -/
  ideKeys : Tab (List Byte) := []
  /-- Functions in D3hot (R532). -/
  d3 : Nat := 0
  /-- In-band interrupts of the running frame and of the one before: (room, vector, sending frame, place in the order of the original
  slots) (R220, R541). -/
  inband : List (Nat × Nat × Nat × Nat) := []
  /-- Running numbers of accesses and of their cellar records. -/
  order : Nat := 0
  tag : Nat := 0
  /-- Errors reported through AER, by function: bit 0 Unsupported Request, 1 Completer Abort, 2 Poisoned TLP. -/
  aer : Tab Nat := []
deriving DecidableEq, Repr

/-! ## Host interface and security (chapter 18) -/

/-- A firmware slot of the flash (R546, R547): its bytes, an unlisted one reading FFH as erased flash does; `shipped`
while it holds the verified image written at assembly, whose VERSION, SVN and hash the fields give (log 1). -/
structure FwSlot where
  bytes : Tab Byte := []
  shipped : Bool := false
  version : Nat := 0
  svn : Nat := 0
  hash : List Byte := []
deriving DecidableEq, Repr

/-- The security part of the flash and the fuses (R546, R549 to R552): what outlives module reset and power. -/
structure SecFlash where
  slotA : FwSlot := { shipped := true }
  slotB : FwSlot := {}
  /-- The boot control record: the slot it names, false A, true B. -/
  boot : TwoCopy Bool := {}
  /-- The owner key record: the key and the nonce. -/
  ownerRec : TwoCopy (Option (List Byte) × Nat) := {}
  /-- The signature counter record, its HWM, and whether a write of it has failed its read-back (R552). -/
  counter : TwoCopy Nat := { c0 := some ⟨0, true, 0⟩ }
  counterBad : Bool := false
  minSvn : Nat := 0
  /-- Times MIN_SVN was raised (R549). -/
  svnBurns : Nat := 0
  serial : List Byte := []
  pubKey : List Byte := []
  cert : List Byte := []
deriving DecidableEq, Repr

/-- The security engine (R548 to R556). -/
structure Sec where
  /-- Running slot: false A, true B; what the running image states. -/
  runB : Bool := false
  version : Nat := 0
  svn : Nat := 0
  hash : List Byte := []
  aValid : Bool := false
  bValid : Bool := false
  fallback : Bool := false
  /-- A FW_WRITE has erased the slot since the last activation or boot. -/
  erased : Bool := false
  /-- Time of the last activation, and M watchdog resets since (R549). -/
  activated : Option Nat := none
  dogs : Nat := 0
  /-- The next firmware start follows FW_ACTIVATE. -/
  activating : Bool := false
  /-- Owner key in force: the flash's, from the threshold after a change (R550). -/
  owner : Option (List Byte) := none
  nonce : Nat := 0
  ownerNew : Bool := false
  /-- The slot that the boot control record names and the fused minimum, as the frame in progress began with them. -/
  pref : Bool := false
  minSvn : Nat := 0
  /-- Next leaf, and whether signing is refused (R552). -/
  leaf : Nat := 0
  noCounter : Bool := false
  /-- Signatures that may be made at once, and the time up to which they were credited, in ns (R553). -/
  credit : Nat := 8
  creditAt : Nat := 0
  /-- IDE streams as masks (R556). -/
  secure : Nat := 0
  insecure : Nat := 0
deriving DecidableEq, Repr

/-! ## The whole -/

/-- A staged register write (R56): the register's key, the bits it writes and their values, the frame at whose
threshold it takes effect, and who wrote it. -/
structure Staged where
  key : Nat
  mask : Nat
  value : Nat
  due : Nat
  req : Requester
deriving DecidableEq, Repr

/-- A watermark (R563): the extremum over the committed frames since it restarted, and over the running frame. -/
structure Wmark where
  acc : Option Nat := none
  cur : Option Nat := none
deriving DecidableEq, Repr

/-- A saturating count of a field `w` bits wide. -/
structure Cnt where
  w : Nat := 32
  n : Nat := 0
deriving DecidableEq, Repr

/-- The hardware in force: what its registers are read from. -/
structure Chip where
  pins : Pins := {}
  boot : Boot := {}
  /-- Towers 0-7, stacks 8-19, porch dies 20-21, quadrants 22-25 (R529). -/
  blocks : Tab Block := []
  seq : Seqs := {}
  frm : Frm := {}
  snap : Snap := {}
  /-- RW fields in force, keyed by regKey; a register not listed holds its reset value. -/
  regs : Tab Word := []
  integ : Integ := {}
  tow : Towers := {}
  bit : Bit := {}
  /-- Rooms 0 to 15. -/
  rooms : Tab Room := []
  que : Queues := {}
  hall : Hall := {}
  light : Light := {}
  sec : Sec := {}
  cel : Cellar := {}
  jil : Jilia := {}
  pwr : Power := {}
  thm : Thermal := {}
  cal : Calib := {}
  host : HostIf := {}
deriving DecidableEq, Repr

/-- A view pinned by a requester (R57): the published frame and its state. -/
structure View where
  frame : Nat
  pinned : Nat
  chip : Chip
  /-- The W1C bits as published with it, which ERR_SUMMARY gathers. -/
  ev : Tab Word := []
deriving DecidableEq, Repr

/-- Everything but the queue, the memory and the gate. -/
structure Dev where
  chip : Chip := {}
  /-- The chip as last published (R54). -/
  pub : Chip := {}
  /-- What a snapshot latched (R70), as the record that its blocks' copies make (R73); none when nothing is latched. -/
  latched : Option (List Byte) := none
  /-- Writes of the host that wait for their threshold, in the order M received them (R56). -/
  staged : List Staged := []
  /-- W1C bits set in the running frame, by regKey; and as published (R9, R55). -/
  ev : Tab Word := []
  pubEv : Tab Word := []
  /-- RC counts made in the running frame, by regKey * 32 + lowest bit of the field; and as published (R9, R55). -/
  cnt : Tab Cnt := []
  pubCnt : Tab Cnt := []
  /-- Published W1C bits and RC counts of registers that were reset since: they leave with the next publication (R52, R55, R514). -/
  dropEv : List Nat := []
  dropCnt : List Nat := []
  /-- Counts since module reset, keyed alike: the snapshot sections' counters. -/
  tot : Tab Nat := []
  wm : Tab Wmark := []
  pubWm : Tab Nat := []
  /-- Views, and views that ended by the frame limit, by requester (R57). -/
  views : List (Nat × View) := []
  expired : List Nat := []
  /-- High words latched by a read of the low word: (requester, address of the high word, value) (R4). -/
  pairs : List (Nat × Nat × Nat) := []
  /-- MSI-X requests of the running frame: (function, vector). -/
  irq : List (Nat × Nat) := []
  /-- MSI-X table words that differ from their reset value, and pending bits, keyed by function * 65536 + offset. -/
  msix : Tab Word := []
  pba : Tab Bool := []
  /-- Rooms whose running frame fails, each with the cause code of the reset it orders (R290, R430). -/
  failed : List (Nat × Nat) := []
  /-- Flash and fuses: kept through every reset. -/
  flash : SecFlash := {}
  calFlash : CalFlash := {}
  /-- Running number of the free values used so far. The model's own field. -/
  free : Nat := 0
  /-- What the last command sent out. The model's own field. -/
  out : List Out := []
  /-- Memory operations of the command being executed; empty between commands. The model's own field. -/
  wr : List MemOp := []
  /-- Injection uses of the command being executed; 0 between commands. The model's own field. -/
  injUsed : Nat := 0
deriving DecidableEq, Repr

/-- What only resets, power, CONFIG_LOCK and the injection rules change (R26, R8, R443): whether the module is powered,
whether module reset holds it, the lock, ERR_INJ_CTL.ALLOW, the staged writes of ALLOW with their thresholds, the
injection, and the ARM and DISARM writes that wait. -/
structure Gate where
  powered : Bool := true
  held : Bool := false
  locked : Bool := false
  allow : Bool := false
  allowStaged : List (Bool × Nat) := []
  inj : Inj := {}
  injStaged : List (Bool × Nat) := []
deriving DecidableEq, Repr

/-- The state of the module, with the queue of commands that wait. -/
structure State where
  /-- Commands waiting, first in, first out. -/
  pending : List Instr := []
  gate : Gate := {}
  mem : Mem := []
  dev : Dev := {}
deriving DecidableEq, Repr

/-- Why a command could stop the machine. No rule of the spec stops the module: no meaning of this model raises a
fault. -/
inductive Fault where
  /-- Raised by nothing; kept so that the type has a name to give (safe). -/
  | none
deriving DecidableEq, Repr

/-- Why a command has no meaning. -/
inductive Refusal where
  /-- Answered by an arm of exec whose command has no meaning yet (safe). -/
  | notModelled (mnemonic : String)
deriving DecidableEq, Repr

/-- The module right after module reset is released (R10, R506, R513): every field at its reset value, the queue
empty, memory with nothing listed. -/
def State.reset : State := {}

end Sys2Proof.Machine
end

