-- ==== Sys2Proof/Machine/Ops.lean ====
section
/-! DEFINITION. The named operations every command is written with: memory, register fields, events and counts, the
error log, snapshot triggers, interrupts, and how a command's effect is committed to the state. -/

namespace Sys2Proof.Machine

open Host

/-! ## Memory -/

/-- The byte at an address; an unlisted one reads 0. -/
def Mem.get (m : Mem) (a : Nat) : Byte := Tab.get 0 m a

/-- Store a byte. -/
def Mem.set (m : Mem) (a : Nat) (b : Byte) : Mem := Tab.put 0 m a b

/-- Store bytes from an address upward. -/
def Mem.write : Mem → Nat → List Byte → Mem
  | m, _, [] => m
  | m, a, b :: bs => Mem.write (Mem.set m a b) (a + 1) bs

/-- Make `n` bytes from an address read 0. -/
def Mem.clear (m : Mem) (a n : Nat) : Mem := Tab.keep m fun k => decide (k < a) || decide (a + n ≤ k)

/-- One memory operation. -/
def Mem.op (m : Mem) : MemOp → Mem
  | .write a bs => Mem.write m a bs
  | .clear a n => Mem.clear m a n
  | .flip a bs => Mem.write m a (bs.mapIdx fun k b => m.get (a + k) ^^^ b)

/-- The memory operations of a command, in order. -/
def Mem.apply (m : Mem) (ops : List MemOp) : Mem := ops.foldl Mem.op m

/-- The canonical form: addresses strictly rising, no byte 0 listed. -/
def Mem.wf (m : Mem) : Bool := Tab.wf 0 m

/-- `n` bytes from an address. -/
def Mem.bytes (m : Mem) (a n : Nat) : List Byte := (List.range n).map fun i => Mem.get m (a + i)

/-- The memory a command sees: what stood there before it, with its own operations so far. -/
def Dev.memory (d : Dev) (s : State) : Mem := Mem.apply s.mem d.wr

/-- Add a memory operation to the command's. -/
def Dev.memOp (d : Dev) (o : MemOp) : Dev := { d with wr := d.wr ++ [o] }

/-- Address of byte `a` of the pantry slice of a core position, numbered as R442 numbers cores. -/
def pantryAddr (core a : Nat) : Nat := core * 2 ^ 22 + a

/-- Address of byte `a` of memory slice `slice` (stack * 64 + slice), beyond every pantry. -/
def cellarAddr (slice a : Nat) : Nat := 2 ^ 40 + slice * 2 ^ 30 + a

/-! ## Register fields -/

/-- A register in force: its listed value, else its reset value. -/
def Chip.reg (c : Chip) (key : Nat) : Word := (Tab.find c.regs key).getD (resetWord key)

/-- A field in force, for an instance, an element and a selected element or requester. -/
def Chip.fld (c : Chip) (f : Fld) (i : Nat := 0) (e : Nat := 0) (sel : Nat := 0) : Nat :=
  bitsOf (c.reg (regKey (f.addrOf i e) sel)).toNat f.lo f.w

/-- A register in force becomes `v`. -/
def Chip.setReg (c : Chip) (key : Nat) (v : Word) : Chip := { c with regs := Tab.ins c.regs key v }

/-- A field in force becomes `v`. -/
def Chip.setFld (c : Chip) (f : Fld) (v : Nat) (i : Nat := 0) (e : Nat := 0) (sel : Nat := 0) : Chip :=
  let k := regKey (f.addrOf i e) sel
  c.setReg k (BitVec.ofNat 32 (setBits (c.reg k).toNat f.lo f.w v))

/-- A 48- or 64-bit quantity in force, from the field of its low word and of its high word. -/
def Chip.pair (c : Chip) (lo hi : Fld) (i : Nat := 0) (e : Nat := 0) (sel : Nat := 0) : Nat :=
  (c.reg (regKey (lo.addrOf i e) sel)).toNat + (c.reg (regKey (hi.addrOf i e) sel)).toNat * 2 ^ 32

/-- Change the chip in force. -/
def Dev.onChip (d : Dev) (f : Chip → Chip) : Dev := { d with chip := f d.chip }

/-- A field in force becomes `v`. -/
def Dev.setFld (d : Dev) (f : Fld) (v : Nat) (i : Nat := 0) (e : Nat := 0) (sel : Nat := 0) : Dev :=
  d.onChip fun c => c.setFld f v i e sel

/-! ## Events: W1C bits, counts, watermarks, interrupts -/

/-- Record an event in a W1C field: the bit is set at the next publication (R9). -/
def Dev.flag (d : Dev) (f : Fld) (i : Nat := 0) (e : Nat := 0) (sel : Nat := 0) : Dev :=
  { d with ev := Tab.upd 0 d.ev (regKey (f.addrOf i e) sel) fun v => v ||| BitVec.ofNat 32 ((2 ^ f.w - 1) * 2 ^ f.lo) }

/-- Record events in a multi-bit W1C field, by mask. -/
def Dev.flagMask (d : Dev) (f : Fld) (mask : Nat) (i : Nat := 0) (e : Nat := 0) (sel : Nat := 0) : Dev :=
  { d with ev := Tab.upd 0 d.ev (regKey (f.addrOf i e) sel) fun v => v ||| BitVec.ofNat 32 ((mask % 2 ^ f.w) * 2 ^ f.lo) }

/-- The key of a count: its register's key and its lowest bit. -/
def cntKey (f : Fld) (i e sel : Nat) : Nat := regKey (f.addrOf i e) sel * 32 + f.lo

/-- Count `n` events in an RC field, saturating; the count since module reset is kept apart (R7, R445). -/
def Dev.count (d : Dev) (f : Fld) (n : Nat := 1) (i : Nat := 0) (e : Nat := 0) (sel : Nat := 0) : Dev :=
  let k := cntKey f i e sel
  { d with
    cnt := Tab.upd {} d.cnt k fun c => ⟨f.w, satAdd f.w c.n n⟩
    tot := Tab.upd 0 d.tot k fun t => t + n }

/-- What was counted since module reset. -/
def Dev.total (d : Dev) (f : Fld) (i : Nat := 0) (e : Nat := 0) (sel : Nat := 0) : Nat := Tab.get 0 d.tot (cntKey f i e sel)

/-- Whether a watermark keeps the least value (R563). -/
def wmIsMin (f : Fld) : Bool := f.addr = F.TOW_CORE_SLACK_MIN_SLACK.addr || f.addr = F.QUE_POOL_LOW.addr

/-- The order of a watermark's values: THM_PEAK is signed (R484). -/
def wmOrd (f : Fld) (v : Nat) : Int := if f.addr = F.THM_PEAK.addr then toSigned 16 v else v

/-- The extremum of two observations, for the field whose register has address `a`. -/
def wmJoin (isMin : Bool) (ord : Nat → Int) : Option Nat → Option Nat → Option Nat
  | none, y => y
  | x, none => x
  | some x, some y =>
    if isMin then (if ord y < ord x then some y else some x) else (if ord x < ord y then some y else some x)

/-- Record an observation of a watermark in the running frame (R563); the extremum since module reset is kept apart, that of a
least value as its distance from the greatest the field holds. -/
def Dev.observe (d : Dev) (f : Fld) (v : Nat) (i : Nat := 0) (e : Nat := 0) (sel : Nat := 0) : Dev :=
  { d with
    wm := Tab.upd {} d.wm (regKey (f.addrOf i e) sel) fun w => { w with cur := wmJoin (wmIsMin f) (wmOrd f) w.cur (some v) }
    tot := Tab.upd 0 d.tot (cntKey f i e sel) fun t => max t (if wmIsMin f then 2 ^ f.w - 1 - v else v) }

/-- Ask for an MSI-X message of a function's vector with the running frame's publication (R54, R540). -/
def Dev.msixReq (d : Dev) (fn vec : Nat) : Dev :=
  if (fn, vec) ∈ d.irq then d else { d with irq := d.irq ++ [(fn, vec)] }

/-- Send something out with this command. -/
def Dev.emit (d : Dev) (o : Out) : Dev := { d with out := d.out ++ [o] }

/-- Take a free value (log 4). -/
def Dev.fresh (d : Dev) : Nat × Dev := (Config.free d.free, { d with free := d.free + 1 })

/-- Take sixteen bits of stochastic rounding (R102). -/
def Dev.freshSr (d : Dev) : Nat × Dev := ((Config.srBits d.free).toNat, { d with free := d.free + 1 })

/-! ## Snapshot triggers -/

/-- A snapshot trigger source fires in the running frame (R69, R70): 0 SW, 1 MATCH, 2 ERROR, 3 TICK, 4 PIN.
During M warm reset the event is lost (R513); each event that finds the snapshot not armed is missed (log 138). -/
def Dev.fire (d : Dev) (src : Nat) (cls : Nat := 0xFFFF) : Dev :=
  if d.chip.boot.warm || !bitOf (d.chip.fld F.SNAP_CTL_SRC_EN) src then d
  else if d.chip.snap.st = .armed then
    d.onChip fun c => { c with snap := { c.snap with
      fired := orBit c.snap.fired src
      firstFrame := if c.snap.fired = 0 then c.frm.cur else c.snap.firstFrame
      errClass := if c.snap.errClass = 0xFFFF then cls else c.snap.errClass } }
  else d.count F.SNAP_MISSED

/-! ## The error log and channel histories -/

/-- The classes of R419 that have names here. -/
def clsLineReject : Nat := 1
def clsBundle : Nat := 2
def clsReplayLost : Nat := 3
def clsRing : Nat := 4
def clsLaser : Nat := 5
def clsShell : Nat := 6
def clsXcheck : Nat := 7
def clsTrap : Nat := 8
def clsHusk : Nat := 9
def clsOverrun : Nat := 10
def clsSlip : Nat := 11
def clsPantryUncorr : Nat := 12
def clsCellarCe : Nat := 13
def clsCellarUncorr : Nat := 14
def clsOutbound : Nat := 15
def clsJiliaLane : Nat := 16
def clsJiliaPair : Nat := 17
def clsJiliaDrop : Nat := 18
def clsSync : Nat := 19
def clsThermal : Nat := 20
def clsPower : Nat := 21
def clsCalibration : Nat := 22
def clsSequencer : Nat := 23
def clsConfig : Nat := 24
def clsRoomReset : Nat := 25
def clsRetire : Nat := 26
def clsInjected : Nat := 27

/-- Two events make one entry (R441). -/
def LogEv.same (a b : LogEv) : Bool := a.cls = b.cls && a.kind = b.kind && a.index = b.index && a.injected = b.injected

/-- Add an event to those of the running frame: a repeat adds to REPEAT and keeps the first DETAIL (R441). -/
def addEvent (e : LogEv) : List LogEv → List LogEv
  | [] => [e]
  | x :: xs =>
    if x.same e then { x with rep := satAdd 16 x.rep 1, contain := x.contain || e.contain, permanent := x.permanent || e.permanent } :: xs
    else x :: addEvent e xs

/-- Record an error event of the running frame; it may fire the ERROR snapshot trigger (R69, R441). While M is in warm
reset the event is lost (R515). -/
def Dev.log (d : Dev) (e : LogEv) : Dev :=
  if d.chip.boot.warm then d
  else
    let e := { e with frame := d.chip.frm.cur }
    let d := d.onChip fun c => { c with integ := { c.integ with events := addEvent e c.integ.events } }
    if bitOf (d.chip.fld F.SNAP_ERR_MASK) e.cls then d.fire 2 e.cls else d

/-- A short event: class, source kind and index. -/
def Dev.log3 (d : Dev) (cls kind index : Nat) (room : Nat := 0xFF) : Dev := d.log { cls, kind, index, room }

/-- The key of a channel: its class of R420 and its index of R442. -/
def chanKey (cls index : Nat) : Nat := cls * 65536 + index

/-- A channel recorded an error in its running unit; a permanent channel's history is frozen (R420, R421). -/
def Dev.chanErr (d : Dev) (cls index : Nat) : Dev :=
  d.onChip fun c => { c with integ := { c.integ with chans := Tab.upd {} c.integ.chans (chanKey cls index) fun h =>
    if h.perm then h else { h with err := true, checked := true } } }

/-- A core completed a check in the running frame (R420). -/
def Dev.chanChecked (d : Dev) (cls index : Nat) : Dev :=
  d.onChip fun c => { c with integ := { c.integ with chans := Tab.upd {} c.integ.chans (chanKey cls index) fun h =>
    if h.perm then h else { h with checked := true } } }

/-- Append an entry to the field retire list (R501). `cause` 0: the spec states none, so the byte is a free value. When the
list is full the entry is lost. -/
def Dev.appendRetire (d : Dev) (type cause index : Nat) (data : Nat := 0) : Dev :=
  let v := if cause = 0 then d.fresh.1 % 256 else cause
  let d := if cause = 0 then d.fresh.2 else d
  if 16384 ≤ d.chip.cal.retire.length then
    ((d.onChip fun c => { c with cal := { c.cal with retireFull := true } }).flag F.CAL_INT_STATUS_RETIRE_FULL).log3 clsCalibration 0 0
  else d.onChip fun c => { c with cal := { c.cal with
    retire := c.cal.retire ++ [⟨type, v, index, data, c.frm.cur⟩], retireNew := true } }

/-- A room's running frame fails and a reset with the cause falls due at the next threshold (R290, R430). -/
def Dev.failRoom (d : Dev) (room cause : Nat) : Dev :=
  let d := if (room, cause) ∈ d.failed then d else { d with failed := d.failed ++ [(room, cause)] }
  (d.flag F.ERR_INT_STATUS_CONTAINMENT).onChip fun c => { c with integ := { c.integ with contained := satAdd 32 c.integ.contained 1 } }

/-! ## Committing a command -/

/-- Module reset holds the module or it has no power: nothing acts (R26, R20). -/
def State.active (s : State) : Bool := s.gate.powered && !s.gate.held

/-- Take `n` uses of an active injection; the last use ends it (R443). -/
def Inj.use (i : Inj) (n : Nat) : Inj :=
  if i.st = .active ∧ 0 < n then { i with left := i.left - n, st := if i.left ≤ n then .done else .active } else i

/-- What a command leaves: its memory operations performed, its injection uses taken. -/
def commit (s : State) (d : Dev) : State :=
  let inj := s.gate.inj.use d.injUsed
  let d := if inj.st ≠ s.gate.inj.st then d.flag F.ERR_INT_STATUS_INJECT_DONE else d
  { s with gate := { s.gate with inj }, mem := Mem.apply s.mem d.wr, dev := { d with wr := [], injUsed := 0 } }

/-- Run a command's effect on a powered module that is out of module reset; otherwise nothing happens. -/
def runs (s : State) (k : Dev → Dev) : Outcome State Fault Refusal :=
  if s.active then .next (commit s (k { s.dev with out := [] })) else .next s

/-- Run a command that is a write of a GLB, SEC, ERR, SNAP, PWR, QUE or BIT register: dropped during M warm reset (R515). -/
def runsM (s : State) (k : Dev → Dev) : Outcome State Fault Refusal := runs s fun d => if d.chip.boot.warm then d else k d

/-- The injection a meaning sees: an active one of the kind, while ALLOW is 1 (R443). -/
def State.injOn (s : State) (d : Dev) (kind : Nat) : Option Inj :=
  if s.gate.allow ∧ s.gate.inj.st = .active ∧ s.gate.inj.kind = kind ∧ d.injUsed < s.gate.inj.left then some s.gate.inj
  else none

/-- An injection is used once: it is logged as INJECTED at its target (R419, R443). -/
def Dev.useInj (d : Dev) (i : Inj) : Dev :=
  let d := { d with injUsed := d.injUsed + 1 }
  let d := d.log { cls := clsInjected, kind := i.srcKind, index := i.target, injected := true }
  d.onChip fun c => { c with integ := { c.integ with injected := satAdd 32 c.integ.injected 1 } }

/-! ## Blocks, frames, members -/

/-- Block `k` of GLB_BSTATE: towers 0-7, stacks 8-19, porch dies 20-21, quadrants 22-25 (R529). -/
def Chip.block (c : Chip) (k : Nat) : Block := Tab.get {} c.blocks k

/-- Change a block. -/
def Chip.setBlock (c : Chip) (k : Nat) (b : Block) : Chip := { c with blocks := Tab.put {} c.blocks k b }

/-- READY or DEGRADED (R506). -/
def Block.up (b : Block) : Bool := b.st = .ready || b.st = .degraded

/-- The quadrant of a tower: NW T0-1, NE T2-3, SW T4-5, SE T6-7 (R13). -/
def quadOfTower (t : Nat) : Nat := t / 2

/-- The quadrant of a stack: NW C0-2, NE C3-5, SW C6-8, SE C9-11 (R13). -/
def quadOfStack (k : Nat) : Nat := k / 3

/-- The length of the running frame in ns: the period, the step of alignment, or what coarse acquisition made it
(R46, R58, R62). -/
def Chip.frameNs (c : Chip) : Nat :=
  match c.frm.sync.coarseLen with
  | some n => n
  | none => ((c.frm.active * 128 : Nat) + c.frm.sync.step).toNat

/-- Slots of a frame, S (R48). -/
def Chip.slots (c : Chip) : Nat := c.frm.active * 16

end Sys2Proof.Machine
end

