-- ==== Sys2Proof/Machine/Operands.lean ====
section
/-! DEFINITION. Operand forms: the operation word (R128 to R131), the register files of a core (R119), the operand
roles of every operation (R147 to R160), and tile descriptors (R132 to R139). -/

namespace Sys2Proof.Machine

/-! ## The operation word -/

/-- The 128 bits of an operation word (R128). -/
def packWord (cls op : Nat) (w : OpWord) : Nat :=
  cls % 16 * 2 ^ 124 + op % 256 * 2 ^ 116 + b2n w.pneg * 2 ^ 115 + w.psel % 8 * 2 ^ 112 + w.f0 % 256 * 2 ^ 104
    + w.f1 % 256 * 2 ^ 96 + w.f2 % 256 * 2 ^ 88 + w.f3 % 256 * 2 ^ 80 + w.h % 2 ^ 16 * 2 ^ 64 + w.i % 2 ^ 32 * 2 ^ 32
    + w.j % 2 ^ 32

/-- The operation word of 128 bits: class, code and fields (R128). -/
def unpackWord (n : Nat) : Nat × Nat × OpWord :=
  (bitsOf n 124 4, bitsOf n 116 8,
    { psel := bitsOf n 112 3, pneg := bitOf n 115, f0 := bitsOf n 104 8, f1 := bitsOf n 96 8, f2 := bitsOf n 88 8
      f3 := bitsOf n 80 8, h := bitsOf n 64 16, i := bitsOf n 32 32, j := bitsOf n 0 32 })

/-- The six register files of R129. -/
inductive RFile where
  | s | w | m | p | d | b
deriving DecidableEq, Repr

/-- The code of a file (R129). -/
def RFile.code : RFile → Nat
  | .s => 0 | .w => 1 | .m => 2 | .p => 3 | .d => 4 | .b => 5

/-- The number of registers of a file (R129). -/
def RFile.size : RFile → Nat
  | .s | .w | .d => 32
  | .m | .p => 8
  | .b => 4

/-- The specifier of a register (R129); it also names the register among those an operation waits for (R141). -/
def regNo (f : RFile) (i : Nat) : Nat := f.code * 32 + i

/-- The index of a specifier. -/
def opIdx (x : Nat) : Nat := x % 32

/-- A specifier names a valid register of a file (R129, R130). -/
def RFile.names (f : RFile) (x : Nat) : Bool := x / 32 = f.code && x % 32 < f.size

/-- What an operation does with a register: reads it, writes it, or both. -/
structure Opd where
  file : RFile
  rd : Bool
  wr : Bool
deriving DecidableEq, Repr

/-- A register that an operation reads. -/
def src (f : RFile) : Option Opd := some ⟨f, true, false⟩
/-- A register that an operation writes. -/
def dst (f : RFile) : Option Opd := some ⟨f, false, true⟩
/-- A register that an operation reads and writes. -/
def upd (f : RFile) : Option Opd := some ⟨f, true, true⟩

/-- The form of an operation: its four operands, the bits of H, I and J that it uses (R130), the further scalar
registers and lane mask that it reads, and whether its predicate must be p0 (R131). -/
structure Form where
  f0 : Option Opd := none
  f1 : Option Opd := none
  f2 : Option Opd := none
  f3 : Option Opd := none
  h : Nat := 0
  i : Nat := 0
  j : Nat := 0
  sx : List Nat := []
  mx : List Nat := []
  always : Bool := false
deriving DecidableEq, Repr

/-- All bits of J or I. -/
def all32 : Nat := 0xFFFFFFFF

/-- The second source of a VEC operation: a vector, or the scalar whose broadcast replaces it when I[31] is 1 (R152). -/
def vsrc (w : OpWord) : Option Opd := if bitOf w.i 31 then src .s else src .w

/-- The lane mask of a VEC or RED word, H[7:4] (R152). -/
def maskIdx (w : OpWord) : Nat := bitsOf w.h 4 4

/-- The lane type of a VEC or RED word, H[3:0] (R152). -/
def laneTy (w : OpWord) : Nat := bitsOf w.h 0 4

/-- MOVE operations (R147). -/
def formMove (op : Nat) : Option Form :=
  match op with
  | 0x01 => some { f0 := dst .w, f1 := src .s, j := all32 }
  | 0x02 => some { f0 := src .w, f1 := src .s, f2 := src .m, h := 0xF, j := all32 }
  | 0x03 => some { f0 := dst .s, f1 := src .s, j := all32 }
  | 0x04 => some { f0 := src .s, f1 := src .s, j := all32 }
  | 0x05 => some { f0 := dst .d, f1 := src .s, j := all32 }
  | 0x06 => some { f0 := upd .d, f1 := src .s, h := 0xFFFF }
  | 0x07 => some { f1 := src .s, f2 := src .s, h := 0xFFFF, i := all32, j := all32 }
  | 0x08 => some { f1 := src .s, h := 0xFFFF, i := all32, j := all32 }
  | _ => none

/-- MAT operations (R148, R149). -/
def formMat (op : Nat) (w : OpWord) : Option Form :=
  match op with
  | 0x01 => some { f0 := upd .b, f1 := src .d, f2 := src .d, f3 := src .s, h := 0xFFFF, i := 0x7FFFF
                   sx := [bitsOf w.i 0 8, bitsOf w.i 8 8] }
  | 0x02 => some { f0 := src .b, f1 := src .d, i := 0xFF, sx := [bitsOf w.i 0 8] }
  | 0x03 => some { f0 := src .b, f1 := src .s, j := all32 }
  | 0x04 => some { f0 := dst .b, f1 := src .s, j := all32 }
  | 0x05 => some { f0 := dst .b, i := 2 ^ 18 }
  | 0x06 => some { f0 := upd .b, f1 := src .w }
  | 0x07 => some { f0 := dst .w, f1 := src .b, h := 0xFFFF }
  | 0x08 => some { f0 := upd .b, f1 := src .w, h := 0xFFFF }
  | _ => none

/-- VEC operations (R152). A masked destination keeps its other lanes, so it is read too. -/
def formVec (op : Nat) (w : OpWord) : Option Form :=
  let bc : Nat := 2 ^ 31
  let mx := [maskIdx w]
  let two (h : Nat) : Option Form := some { f0 := upd .w, f1 := src .w, f2 := vsrc w, h, i := bc, mx }
  if op = 0x01 ∨ op = 0x02 ∨ op = 0x03 then two 0x1FF
  else if op = 0x04 then some { f0 := upd .w, f1 := src .w, f2 := vsrc w, f3 := src .w, h := 0x1FF, i := bc, mx }
  else if op = 0x05 ∨ op = 0x06 then two 0xFF
  else if op = 0x07 then some { f0 := dst .m, f1 := src .w, f2 := vsrc w, h := 0xFF, i := bc + 7, mx }
  else if op = 0x08 then some { f0 := upd .w, f1 := src .w, f2 := vsrc w, f3 := src .m, h := 0xFF, i := bc, mx }
  else if op = 0x09 then some { f0 := upd .w, f1 := src .w, h := 0x1FF, i := 0x3F, mx }
  else if op = 0x0A then some { f0 := upd .w, f1 := src .w, f2 := dst .s, h := 0xF, i := 0xF }
  else if op = 0x0B then
    if bitOf w.i 31 then some { f0 := upd .w, h := 0xFF, i := bc, j := all32, mx }
    else some { f0 := upd .w, f1 := src .s, h := 0xFF, i := bc, mx }
  else if op = 0x0C then some { f0 := upd .w, h := 0xFF, mx }
  else if op = 0x0D then some { f0 := dst .m, f1 := src .s, h := 0xF }
  else if 0x10 ≤ op ∧ op ≤ 0x17 then some { f0 := upd .w, f1 := src .w, h := 0x1FF, mx }
  else if op = 0x20 then some { f0 := upd .w, f1 := src .w, f2 := vsrc w, f3 := upd .w, h := 0xF, i := bc + 1 }
  else if op = 0x21 then some { f0 := dst .w, f1 := src .w, f2 := vsrc w, f3 := dst .w, h := 0xF, i := bc + 0x7F }
  else if op = 0x22 then some { f0 := upd .w, f1 := src .d, f2 := vsrc w, f3 := dst .m, h := 0xFF, i := bc, mx }
  else if 0x30 ≤ op ∧ op ≤ 0x37 then two 0xFF
  else none

/-- RED operations (R153, R158, R160). -/
def formRed (op : Nat) (w : OpWord) : Option Form :=
  match op with
  | 0x01 | 0x02 | 0x03 => some { f0 := dst .s, f1 := src .w, h := 0xFF, mx := [maskIdx w] }
  | 0x04 => some { f0 := dst .s, f1 := src .w, f2 := dst .s, h := 0xFF, mx := [maskIdx w] }
  | 0x05 | 0x06 => some { f0 := upd .w, f1 := src .b, f2 := src .s }
  | 0x08 => some { f0 := upd .w, f1 := upd .b, f2 := upd .w, f3 := upd .w, h := 0xFFFF
                   sx := [bitsOf w.h 0 8, bitsOf w.h 8 8] }
  | 0x09 => some { f0 := dst .w, f1 := src .d, f2 := src .w, f3 := src .s, h := 0xF }
  | _ => none

/-- CTRL operations (R154). -/
def formCtrl (op : Nat) (w : OpWord) : Option Form :=
  let bc : Nat := 2 ^ 31
  match op with
  | 0x00 => some {}
  | 0x01 => some { f0 := dst .s, j := all32 }
  | 0x02 => if bitOf w.i 31 then some { f0 := dst .s, f1 := src .s, h := 0xF, i := bc, j := all32 }
            else some { f0 := dst .s, f1 := src .s, f2 := src .s, h := 0xF, i := bc }
  | 0x03 => if bitOf w.i 31 then some { f0 := dst .p, f1 := src .s, h := 0xF, i := bc, j := all32 }
            else some { f0 := dst .p, f1 := src .s, f2 := src .s, h := 0xF, i := bc }
  | 0x04 => some { f0 := dst .p, f1 := src .p, f2 := src .p, h := 0x3 }
  | 0x08 => some { h := 0xFFFF, j := all32, always := true }
  | 0x09 => some { j := 0xFFF, always := true }
  | 0x0A => some { h := 0xF, always := true }
  | 0x0B => some { always := true }
  | 0x0C => some { h := 0xFF }
  | 0x0D => some { f0 := dst .p, h := 0xFF, always := true }
  | 0x0E => some { always := true }
  | 0x0F => some { h := 0xFF }
  | 0x10 => some { f0 := dst .s }
  | 0x11 => some { f0 := dst .s, i := 1 }
  | _ => none

/-- CHECK operations (R156). -/
def formCheck (op : Nat) : Option Form :=
  match op with
  | 0x01 => some { f0 := upd .b, h := 0xFFFF }
  | 0x02 => some { f0 := dst .s, h := 0x1F }
  | 0x03 => some { f1 := src .s, h := 0xFFFF, i := 0xFF, j := all32 }
  | _ => none

/-- The form of an operation; none where its class or code is not listed (R128, R130). -/
def opForm (cls op : Nat) (w : OpWord) : Option Form :=
  match cls with
  | 0 => formMove op
  | 1 => formMat op w
  | 2 => formVec op w
  | 3 => formRed op w
  | 4 => formCtrl op w
  | 5 => formCheck op
  | _ => none

/-- An operand specifier fits its position; an unused one is zero (R130). -/
def opdOk (o : Option Opd) (x : Nat) : Bool :=
  match o with
  | some p => p.file.names x
  | none => x = 0

/-- A field uses no bit outside its mask (R130). -/
def inMask (mask x : Nat) : Bool := x &&& mask = x

/-- The floating-point lane types. -/
def isFloatTy (t : Nat) : Bool := t < 3

/-- Values that an operation's own description excludes (R147 to R160), except those that depend on the state. -/
def valuesOk (cls op : Nat) (w : OpWord) : Bool :=
  let ty := laneTy w
  let mk := decide (maskIdx w < 8)
  let sr := !bitOf w.h 8 || ty = 1 || ty = 2
  match cls with
  | 0 =>
    if op = 0x02 then decide (bitsOf w.h 0 4 < 5)
    else if op = 0x06 then decide (w.h ≤ 28) && w.h % 4 = 0
    else if op = 0x07 ∨ op = 0x08 then decide (0 < w.h)
    else true
  | 1 =>
    if op = 0x01 then decide (0 < w.h) && decide (w.h ≤ 1024) && decide (bitsOf w.i 0 8 < 32) && decide (bitsOf w.i 8 8 < 32)
    else if op = 0x02 then decide (bitsOf w.i 0 8 < 32)
    else if op = 0x07 ∨ op = 0x08 then decide (w.h < 32)
    else true
  | 2 =>
    if op ≤ 0x04 then isFloatTy ty && mk && sr
    else if op = 0x07 then decide (ty < 5) && mk && decide (bitsOf w.i 0 3 < 6)
    else if op = 0x09 then
      decide (ty < 5) && mk && decide (bitsOf w.i 0 4 < 5) && sr
        && (!bitOf w.i 4 || !((ty = 0 || ty = 3) && (bitsOf w.i 0 4 = 0 || bitsOf w.i 0 4 = 3)))
    else if op = 0x0A then ty = 0 && decide (3 ≤ w.i) && decide (w.i ≤ 9)
    else if op = 0x0C then (ty = 3 || ty = 4) && mk
    else if 0x10 ≤ op ∧ op ≤ 0x17 then isFloatTy ty && mk && sr
    else if op = 0x20 then decide (ty < 4)
    else if op = 0x21 then decide (ty < 4) && decide (0 < bitsOf w.i 0 7) && decide (bitsOf w.i 0 7 ≤ 64)
    else if 0x30 ≤ op then (ty = 3 || ty = 4) && mk
    else decide (ty < 5) && mk
  | 3 =>
    if op = 0x01 then (ty = 0 || ty = 3) && mk
    else if op ≤ 0x04 then decide (ty < 5) && mk
    else if op = 0x08 then decide (bitsOf w.h 0 8 < 32) && decide (bitsOf w.h 8 8 < 32)
    else if op = 0x09 then decide (0 < w.h) && decide (w.h ≤ 8)
    else true
  | 4 =>
    if op = 0x02 then decide (w.h ≤ 10)
    else if op = 0x03 then decide (bitsOf w.h 0 3 < 6)
    else true
  | _ => true

/-- The parts of R130 that do not depend on the state. -/
def wordLegal (cls op : Nat) (w : OpWord) : Bool :=
  match opForm cls op w with
  | none => false
  | some f =>
    opdOk f.f0 w.f0 && opdOk f.f1 w.f1 && opdOk f.f2 w.f2 && opdOk f.f3 w.f3 && inMask f.h w.h && inMask f.i w.i
      && inMask f.j w.j && valuesOk cls op w && (!f.always || (w.psel = 0 && !w.pneg))

/-- The operands of a form with their specifiers. -/
def Form.opds (f : Form) (w : OpWord) : List (Opd × Nat) :=
  [(f.f0, w.f0), (f.f1, w.f1), (f.f2, w.f2), (f.f3, w.f3)].filterMap fun p => p.1.map fun o => (o, p.2)

/-- The registers that an operation reads. -/
def Form.reads (f : Form) (w : OpWord) : List Nat :=
  ((f.opds w).filter fun p => p.1.rd).map (fun p => regNo p.1.file (opIdx p.2)) ++ f.sx.map (regNo .s) ++ f.mx.map (regNo .m)
    ++ [regNo .p w.psel]

/-- The registers that an operation writes. -/
def Form.writes (f : Form) (w : OpWord) : List Nat :=
  ((f.opds w).filter fun p => p.1.wr).map fun p => regNo p.1.file (opIdx p.2)

/-- Vector, mask and bank registers are read when the operation starts, the others at issue (R141). -/
def readLate (r : Nat) : Bool := r / 32 = RFile.w.code || r / 32 = RFile.m.code || r / 32 = RFile.b.code

/-! ## The register files of a core -/

/-- A scalar register; s0 reads 0 (R119). -/
def Core.rdS (c : Core) (i : Nat) : Word := if i = 0 then 0 else Tab.get 0 c.s i
/-- A predicate; p0 reads 1 (R119). -/
def Core.rdP (c : Core) (i : Nat) : Bool := if i = 0 then true else Tab.get false c.p i
/-- A lane mask; m0 reads all ones (R119). -/
def Core.rdM (c : Core) (i : Nat) : BitVec 128 := if i = 0 then BitVec.allOnes 128 else Tab.get 0 c.m i
/-- A vector register. -/
def Core.rdW (c : Core) (i : Nat) : BitVec 2048 := Tab.get 0 c.w i
/-- A descriptor register. -/
def Core.rdD (c : Core) (i : Nat) : BitVec 256 := Tab.get 0 c.d i
/-- An accumulator bank. -/
def Core.rdB (c : Core) (i : Nat) : Bank := Tab.get {} c.b i

/-- Write a scalar register; a write to s0 is discarded (R119). -/
def Core.wrS (c : Core) (i : Nat) (v : Word) : Core := if i = 0 then c else { c with s := Tab.put 0 c.s i v }
/-- Write a predicate; a write to p0 is discarded (R119). -/
def Core.wrP (c : Core) (i : Nat) (v : Bool) : Core := if i = 0 then c else { c with p := Tab.put false c.p i v }
/-- Write a lane mask; a write to m0 is discarded (R119). -/
def Core.wrM (c : Core) (i : Nat) (v : BitVec 128) : Core := if i = 0 then c else { c with m := Tab.put 0 c.m i v }
/-- Write a vector register. -/
def Core.wrW (c : Core) (i : Nat) (v : BitVec 2048) : Core := { c with w := Tab.put 0 c.w i v }
/-- Write a descriptor register. -/
def Core.wrD (c : Core) (i : Nat) (v : BitVec 256) : Core := { c with d := Tab.put 0 c.d i v }
/-- Write a bank. -/
def Core.wrB (c : Core) (i : Nat) (v : Bank) : Core := { c with b := Tab.put {} c.b i v }

/-- An entry of a bank (R83). -/
def Bank.at' (b : Bank) (i j : Nat) : BitVec 48 := Tab.get 0 b.ent (64 * i + j)
/-- Write an entry of a bank. -/
def Bank.set (b : Bank) (i j : Nat) (v : BitVec 48) : Bank := { b with ent := Tab.put 0 b.ent (64 * i + j) v }

/-- The value of an entry: an FP32 value, or an integer (R83). -/
def Bank.value (b : Bank) (i j : Nat) : FV :=
  let e := b.at' i j
  if b.isInt then .fin (decide (e.toInt < 0)) e.toInt.natAbs 0 else f32 (e.truncate 32)

/-- A core by its number (R442). -/
def Chip.core (c : Chip) (n : Nat) : Core := Tab.get {} c.tow.cores n
/-- Replace a core. -/
def Chip.setCore (c : Chip) (n : Nat) (v : Core) : Chip := { c with tow := { c.tow with cores := Tab.put {} c.tow.cores n v } }
/-- Change a core. -/
def Dev.onCore (d : Dev) (n : Nat) (f : Core → Core) : Dev := d.onChip fun c => c.setCore n (f (c.core n))

/-- A core position exists: eight towers, 16 rows, 17 positions (R442). -/
def coreExists (n : Nat) : Bool := n < 4096 && n % 32 < 17
/-- The tower of a core. -/
def towerOf (n : Nat) : Nat := n / 512
/-- The selection index of a core within its tower. -/
def coreSel (n : Nat) : Nat := n % 512
/-- The row of a core, numbered tower * 16 + row. -/
def rowOf (n : Nat) : Nat := n / 32
/-- A row's state. -/
def Chip.row (c : Chip) (r : Nat) : Row := Tab.get {} c.tow.rows r
/-- Change a row. -/
def Dev.onRow (d : Dev) (r : Nat) (f : Row → Row) : Dev :=
  d.onChip fun c => { c with tow := { c.tow with rows := Tab.upd {} c.tow.rows r f } }
/-- The room that holds a core's row. -/
def Chip.coreRoom (c : Chip) (n : Nat) : Option Nat := (c.row (rowOf n)).room

/-! ## Tile descriptors -/

/-- A tile descriptor's fields (R132, R134). -/
structure Desc where
  base : Nat
  stride : Nat
  scale : Nat
  sstride : Nat
  meta' : Nat
  tile : Word
  rows : Nat
  cols : Nat
  fmt : Nat
  blk : Bool
  mode : Nat
  pp : Nat
deriving DecidableEq, Repr

/-- The descriptor held in 32 bytes (R132). -/
def Desc.ofBits (v : BitVec 256) : Desc :=
  let n := v.toNat
  { base := bitsOf n 0 22, stride := bitsOf n 32 22, scale := bitsOf n 64 22, sstride := bitsOf n 96 16
    meta' := bitsOf n 128 22, tile := BitVec.ofNat 32 (bitsOf n 160 32), rows := bitsOf n 192 16
    cols := bitsOf n 208 16, fmt := bitsOf n 224 4, blk := bitOf n 228, mode := bitsOf n 232 8, pp := bitsOf n 240 16 }

/-- The bits that R132 gives as zero, and the codes that R133 and R134 exclude. -/
def descOk (v : BitVec 256) : Bool :=
  let n := v.toNat
  bitsOf n 22 10 = 0 && bitsOf n 54 10 = 0 && bitsOf n 86 10 = 0 && bitsOf n 112 16 = 0 && bitsOf n 150 10 = 0
    && bitsOf n 229 3 = 0 && decide (bitsOf n 224 4 ≤ 0xC) && bitsOf n 234 2 ≠ 3

/-- MODE fields (R134). -/
def Desc.sr (t : Desc) : Bool := bitOf t.mode 7
def Desc.sat (t : Desc) : Bool := bitOf t.mode 6
def Desc.axisM (t : Desc) : Bool := bitOf t.mode 5
def Desc.sparse (t : Desc) : Nat := bitsOf t.mode 2 2
def Desc.mx (t : Desc) : Bool := bitOf t.mode 0
/-- The tile scale in force: 1.0 unless TS is set (R94, R134). -/
def Desc.tileScale (t : Desc) : Word := if bitOf t.mode 1 then t.tile else 0x3F800000
/-- The format. -/
def Desc.format (t : Desc) : Fmt := (Fmt.ofCode t.fmt).getD .fp32

/-- The descriptor with ping-pong applied in a frame (R135). -/
def Desc.pingPong (t : Desc) (frame : Nat) : Desc :=
  if bitOf t.mode 4 && frame % 2 = 1 then
    { t with base := t.base + t.pp * 128, scale := t.scale + t.pp * 128, meta' := t.meta' + t.pp * 128 }
  else t

/-- Byte address of the byte or group that holds element (i, j), and the element's bit position from there (R91,
R136). -/
def Desc.elemAt (t : Desc) (i j : Nat) : Nat × Nat :=
  let e := t.format.bits
  let row := if t.blk then t.base + j / 32 * t.stride + i * (4 * e) else t.base + i * t.stride
  let k := if t.blk then j % 32 else j
  if e = 6 then (row + k / 4 * 3, k % 4 * 6) else (row + k * e / 8, k * e % 8)

/-- The bytes that `n` elements from the start of a row take (R91). -/
def rowBytes (e n : Nat) : Nat := if e = 6 then (n + 3) / 4 * 3 else (n * e + 7) / 8

/-- Elements of `e` bits from the bytes of a packed array (R91). -/
def unpackElems (e n : Nat) (bs : List Byte) : List Nat :=
  if e = 6 then (List.range n).map fun j => bitsOf (leField bs (j / 4 * 3) 3) (j % 4 * 6) 6
  else if e = 4 then (List.range n).map fun j => bitsOf (bs.getD (j / 2) 0).toNat (j % 2 * 4) 4
  else (List.range n).map fun j => leField bs (j * (e / 8)) (e / 8)

/-- The byte ranges (address, length) that the rows of a whole tile take: the extent that R135 checks. -/
def Desc.extent (t : Desc) : List (Nat × Nat) :=
  let e := t.format.bits
  if t.blk then
    (List.range ((t.cols + 31) / 32)).map fun q =>
      (t.base + q * t.stride, (t.rows - 1) * (4 * e) + rowBytes e (min 32 (t.cols - 32 * q)))
  else (List.range t.rows).map fun i => (t.base + i * t.stride, rowBytes e t.cols)

/-- The size of a pantry slice in bytes (R135, R163). -/
def sliceBytes : Nat := 0x300000

/-- A byte range lies outside the slice (R135). -/
def outside (r : Nat × Nat) : Bool := decide (0 < r.2) && decide (sliceBytes < r.1 + r.2)

/-- The addresses of a tile that must be multiples of 16, offsets added (R135; log 143). -/
def Desc.aligned (t : Desc) : Bool := t.base % 16 = 0 && t.meta' % 16 = 0 && t.stride % 16 = 0

end Sys2Proof.Machine
end

