-- ==== Sys2Proof/Machine/Flags.lean ====
section
/-! DEFINITION. The sticky arithmetic flags of a core (R114), the counts that go with them (R116), and the program's
copy (R156). -/

namespace Sys2Proof.Machine

/-- The five host flag bits of a core as one field (R116). -/
def fldCoreFlags : Fld := { F.TOW_CORE_FLAGS_NV with w := 5 }

/-- An operation sets flags: the program copy and the host copy are each ORed (R114). -/
def Dev.coreFlags (d : Dev) (core mask : Nat) : Dev :=
  if mask = 0 then d
  else (d.onCore core fun c => { c with flags := c.flags ||| mask }).flagMask fldCoreFlags mask (towerOf core) 0 (coreSel core)

/-- Saturations counted in the tower (R116). -/
def Dev.countSat (d : Dev) (core n : Nat) : Dev := if n = 0 then d else d.count F.TOW_SAT_COUNT n (towerOf core)

/-- A K-block with TRUNC is counted (R116). -/
def Dev.countTrunc (d : Dev) (core : Nat) : Dev := d.count F.TOW_TRUNC_COUNT 1 (towerOf core)

/-- A K-block whose shell comparison was suppressed is counted (R116). -/
def Dev.countSpec (d : Dev) (core : Nat) : Dev := d.count F.TOW_SPEC_COUNT 1 (towerOf core)

/-- FLAGS: the program copy is read, then the bits of `clear` are cleared; the host copy stays (R114, R156). -/
def Core.takeFlags (c : Core) (clear : Nat) : Nat × Core :=
  (c.flags, { c with flags := ofBitList ((bitList 5 c.flags).filter fun b => !clear.testBit b) })

/-- The OR of a list of flag masks. -/
def orAll (l : List Nat) : Nat := l.foldl (· ||| ·) 0

/-- How many of a list of flag masks report a saturation. -/
def satCount (l : List Nat) : Nat := (l.filter fun m => m &&& flagSAT ≠ 0).length

/-- NV is set when a NaN comes from operands that are no NaNs (R104). -/
def nvFlag (res : FV) (ops : List FV) : Nat := if res.isNan && !ops.any FV.isNan then flagNV else 0

end Sys2Proof.Machine
end

