-- ==== Sys2Proof/Machine/Pantry.lean ====
section
/-! DEFINITION. Pantry words: husks and errors (R163 to R168, R437), reads and writes by a core (R126, R127, R212), by the
Hall receive writer and by the other masters. -/

namespace Sys2Proof.Machine

/-- A husk record (R437). -/
def huskRecord (origin flags unit node addr frame : Nat) : List Byte :=
  [0x48#8, 0x4B#8] ++ leBytes 1 origin ++ leBytes 1 flags ++ leBytes 2 unit ++ leBytes 2 node ++ leBytes 4 addr
    ++ leBytes 4 (frame % 2 ^ 32)

/-- The node ID of the module (R359). -/
def Chip.nodeId (c : Chip) : Nat := c.fld F.PCH_NODE_NODE_ID

/-- The key of a pantry word: its memory address over 16. -/
def wordKey (core w : Nat) : Nat := core * 2 ^ 18 + w

/-- Whether a pantry word is husked (R166). -/
def Dev.husked (d : Dev) (key : Nat) : Bool := Tab.get false d.chip.tow.husk key

/-- Change the marks of pantry words. -/
def Dev.onTow (d : Dev) (f : Towers → Towers) : Dev := d.onChip fun c => { c with tow := f c.tow }

/-- Set or clear a word's husk mark, with no error left in it. -/
def Dev.mark (d : Dev) (key : Nat) (b : Bool) : Dev :=
  d.onTow fun t => { t with husk := Tab.put false t.husk key b, errs := Tab.del t.errs key }

/-- Write a word husked with a record (R166). -/
def Dev.huskWord (d : Dev) (key : Nat) (rec : List Byte) : Dev := (d.mark key true).memOp (.write (16 * key) rec)

/-- What a read of a word does to it: a single-bit error is corrected and written back, an uncorrectable one makes the
word husked with origin PANTRY (R167). -/
def Dev.eccWord (d : Dev) (core w : Nat) : Dev :=
  let key := wordKey core w
  match Tab.get 0 d.chip.tow.errs key with
  | 0 => d
  | 1000 =>
    let d := d.huskWord key (huskRecord 1 0 core d.chip.nodeId w d.chip.frm.cur)
    let d := (d.count F.TOW_PAN_UNCORR 1 (towerOf core) 0 (coreSel core)).flag F.TOW_PAN_STATUS_UNCORR (towerOf core) 0 (coreSel core)
    d.log { cls := clsPantryUncorr, kind := 1, index := core, room := (d.chip.coreRoom core).getD 0xFF, detail := leBytes 4 w }
  | _ =>
    (d.onTow fun t => { t with errs := Tab.del t.errs key, eccAddr := Tab.ins t.eccAddr core (w + 1) }).count
      F.TOW_PAN_CORR 1 (towerOf core) 0 (coreSel core)

/-- The words that a byte range touches, inside the slice. -/
def wordsOf (a n : Nat) : List Nat :=
  if n = 0 then []
  else ((List.range ((a + n - 1) / 16 - a / 16 + 1)).map (· + a / 16)).filter fun w => decide (w < sliceBytes / 16)

/-- Read the words of a byte range: their errors are met (R167). -/
def Dev.readWords (d : Dev) (core a n : Nat) : Dev := (wordsOf a n).foldl (fun d w => d.eccWord core w) d

/-- The first husked word of a byte range. -/
def Dev.firstHusk (d : Dev) (core a n : Nat) : Option Nat := (wordsOf a n).find? fun w => d.husked (wordKey core w)

/-- Bytes of a slice; bytes outside it read zero. -/
def Dev.bytesOf (d : Dev) (s : State) (core a n : Nat) : List Byte :=
  (d.memory s).bytes (pantryAddr core a) (min n (sliceBytes - a)) ++ List.replicate (n - (sliceBytes - a)) 0

/-- The sixteen bytes of a word. -/
def Dev.wordBytes (d : Dev) (s : State) (core w : Nat) : List Byte := d.bytesOf s core (16 * w) 16

/-- Memory operations for enabled bytes from an address. -/
def segs : Nat → List (Option Byte) → List MemOp
  | _, [] => []
  | a, none :: t => segs (a + 1) t
  | a, some b :: t =>
    match segs (a + 1) t with
    | .write a' bs :: r => if a' = a + 1 then .write a (b :: bs) :: r else .write a [b] :: .write a' bs :: r
    | r => .write a [b] :: r

/-- The enabled bytes of word `w` in a write of `l` from `a`. -/
def wordPart (a : Nat) (l : List (Option Byte)) (w : Nat) : List (Option Byte) :=
  (List.range 16).map fun k => if 16 * w + k < a then none else l.getD (16 * w + k - a) none

/-- A write with byte enables. A word written whole loses its mark and its errors; a word written in part is read
first and stays husked (R165). -/
def Dev.pantryWrite (d : Dev) (core a : Nat) (l : List (Option Byte)) : Dev :=
  let d := (wordsOf a l.length).foldl (fun d w =>
    let p := wordPart a l w
    if p.all Option.isSome then d.mark (wordKey core w) false
    else if p.any Option.isSome then d.eccWord core w else d) d
  { d with wr := d.wr ++ segs (pantryAddr core a) (l.take (sliceBytes - a)) }

/-- An address lies in one of the ranges [lo, hi). -/
def inRanges (rs : List (Nat × Nat)) (a : Nat) : Bool := rs.any fun r => decide (r.1 ≤ a) && decide (a < r.2)

/-- The ranges into which a core may not write now: those sent in this frame, and those held for replays until its last
replay slot has ended (R127, R212). -/
def Core.closed (c : Core) : List (Nat × Nat) := c.sends ++ (if c.replay then c.held else [])

/-- A core's write with byte enables, without the bytes it may not write; whether it lost one (R127). -/
def Dev.coreWrite (d : Dev) (core a : Nat) (l : List (Option Byte)) : Dev × Bool :=
  let cl := (d.chip.core core).closed
  let kept := l.mapIdx fun k b => if inRanges cl (a + k) then none else b
  (d.pantryWrite core a kept, (l.mapIdx fun k b => b.isSome && inRanges cl (a + k)).any id)

/-- A write operation that lost bytes is counted once (R127). -/
def Dev.dropped (d : Dev) (core : Nat) (lost : Bool) : Dev :=
  if lost then d.count F.TOW_CORE_SENDDROP_DROPPED 1 (towerOf core) 0 (coreSel core) else d

/-- A core's write of whole bytes. -/
def Dev.coreStore (d : Dev) (core a : Nat) (bs : List Byte) : Dev :=
  let r := d.coreWrite core a (bs.map some)
  r.1.dropped core r.2

/-- A core's write of one word that carries a husk mark: unless every byte is dropped, the word becomes husked with the
source's record (R165). -/
def Dev.coreHusk (d : Dev) (core w : Nat) (rec : List Byte) : Dev × Bool :=
  let cl := (d.chip.core core).closed
  let hit := (List.range 16).map fun k => inRanges cl (16 * w + k)
  (if hit.all id then d else d.huskWord (wordKey core w) rec, hit.any id)

/-- The Hall receive writer writes a whole word, husked or not (R165). -/
def Dev.hrxWord (d : Dev) (core w : Nat) (bs : List Byte) (husk : Bool) : Dev :=
  (d.mark (wordKey core w) husk).memOp (.write (pantryAddr core (16 * w)) bs)

/-- Make a whole slice zero data with no marks and no errors (R175, R177, R292). -/
def Dev.clearSlice (d : Dev) (core : Nat) : Dev :=
  let out (k : Nat) : Bool := decide (k / 2 ^ 18 ≠ core)
  (d.onTow fun t => { t with husk := Tab.keep t.husk out, errs := Tab.keep t.errs out }).memOp
    (.clear (pantryAddr core 0) sliceBytes)

/-! ## Traps -/

/-- A core traps (R123, R161): issue stops; the first trap of the frame is recorded; the room's frame fails with
cause TRAP (R290, R430). The entry's class is HUSK_CONSUMED with the record for code HUSK, else TRAP (R419). -/
def Dev.trap (d : Dev) (core code pc : Nat) (user : Nat := 0) (rec : List Byte := []) : Dev :=
  let c := d.chip.core core
  let d := d.onCore core fun c =>
    { c with st := .trapped, wait := none, trappedNow := true
             trapCode := if c.trappedNow then c.trapCode else code
             trapAddr := if c.trappedNow then c.trapAddr else pc
             userCode := if code = 6 then user else c.userCode }
  if c.trappedNow then d
  else
    let room := d.chip.coreRoom core
    let d := d.log { cls := if code = 5 then clsHusk else clsTrap, kind := 1, index := core, room := room.getD 0xFF
                     detail := if code = 5 then rec else leBytes 4 pc, contain := room.isSome }
    match room with
    | some r => d.failRoom r 2
    | none => d

/-- The codes of R161. -/
def trapIllegal : Nat := 1
def trapAddr : Nat := 2
def trapAlign : Nat := 3
def trapIstore : Nat := 4
def trapHusk : Nat := 5
def trapUser : Nat := 6

end Sys2Proof.Machine
end

