-- ==== Sys2Proof/Machine/HallMap.lean ====
section
/-! DEFINITION. Lane maps, folds and narrow variants of the Hall (R190, R191, R209, R214 to R224, R228). -/

namespace Sys2Proof.Machine

/-! ## Endpoints and bundles -/

/-- The number of bundles (R190). -/
def nBundles : Nat := 293

/-- The endpoint that owns a bundle: 12 per tower, 15 per stack, 8 per porch die, one for M (R190). -/
def endpointOf (b : Nat) : Nat :=
  if b < 96 then b / 12 else if b < 276 then 8 + (b - 96) / 15 else if b < 292 then 20 + (b - 276) / 8 else 22

/-- The bundles of an endpoint (R190). -/
def bundlesOf (ep : Nat) : List Nat := (List.range nBundles).filter fun b => endpointOf b = ep

/-- The latches of an endpoint (R190). -/
def latchCount (ep : Nat) : Nat := if ep < 8 then 384 else if ep < 20 then 112 else if ep < 22 then 128 else 16

/-- The block of an endpoint as GLB_BSTATE numbers blocks; M has none (R529). -/
def blockOfEndpoint (ep : Nat) : Option Nat := if ep < 22 then some ep else none

/-- The roles of R214. -/
def roleSpare : Nat := 0x10
def roleRetired : Nat := 0x11

/-- A bundle by its number. -/
def Chip.bundle (c : Chip) (b : Nat) : Bundle := Tab.get {} c.hall.bundles b
/-- Change the Hall. -/
def Dev.onHall (d : Dev) (f : Hall → Hall) : Dev := d.onChip fun c => { c with hall := f c.hall }
/-- Change a bundle. -/
def Dev.onBundle (d : Dev) (b : Nat) (f : Bundle → Bundle) : Dev :=
  d.onHall fun h => { h with bundles := Tab.upd {} h.bundles b f }
/-- A latch by endpoint and number. -/
def Chip.latch (c : Chip) (ep l : Nat) : Latch := Tab.get {} c.hall.latches (ep * 512 + l)
/-- Change a latch. -/
def Dev.onLatch (d : Dev) (ep l : Nat) (f : Latch → Latch) : Dev :=
  d.onHall fun h => { h with latches := Tab.upd {} h.latches (ep * 512 + l) f }

/-- The line that carries a logical lane (R214). -/
def Bundle.lineOf (b : Bundle) (lane : Nat) : Option Nat := b.roles.findIdx? fun r => r = lane
/-- A logical lane that no line carries is dead (R214). -/
def Bundle.dead (b : Bundle) (lane : Nat) : Bool := (b.lineOf lane).isNone
/-- The live logical lanes. -/
def Bundle.live (b : Bundle) : List Nat := (List.range 16).filter fun l => !b.dead l
/-- The spare lines. -/
def Bundle.spares (b : Bundle) : List Nat := (List.range 18).filter fun l => b.roles.getD l roleRetired = roleSpare
/-- Whether a line is retired. -/
def Bundle.lineRetired (b : Bundle) (l : Nat) : Bool := b.roles.getD l roleRetired = roleRetired

/-- The 24-byte map record (R214). -/
def Bundle.record (b : Bundle) (corridor : Nat) : List Byte :=
  (padTo 18 0 b.roles).flatMap (leBytes 1) ++ leBytes 2 b.epoch ++ leBytes 2 corridor ++ leBytes 2 0
/-- The check word of a map: CRC-32C over the record (R214). -/
def Bundle.check (b : Bundle) (corridor : Nat) : Word := crc32c (b.record corridor)

/-- The check word of the upper die's copy (R204). -/
def Bundle.checkUpper (b : Bundle) (corridor : Nat) : Word := { b with roles := b.upperRoles, epoch := b.upperEpoch }.check corridor
/-- A new map reaches the base tile and the upper die (R204, R216). -/
def Bundle.setMap (b : Bundle) (roles : List Nat) (epoch : Nat) : Bundle :=
  { b with roles, epoch, upperRoles := roles, upperEpoch := epoch, mapNew := true }

/-- A line's measured margin. -/
def Chip.margin (c : Chip) (b l : Nat) : Nat := Tab.get 0 c.hall.margin (b * 18 + l)

/-- The lines left out as spares: of the good lines, those of least margin, the higher-numbered first among equals
(R215). -/
def leastMargin (m : Nat → Nat) (good : List Nat) : Option Nat :=
  good.foldl (fun best l => match best with
    | none => some l
    | some x => if m l ≤ m x then some l else some x) none

/-- Remove up to `n` lines of least margin. -/
def dropLeast (m : Nat → Nat) : Nat → List Nat → List Nat
  | 0, g => g
  | n + 1, g => match leastMargin m g with
    | none => g
    | some x => dropLeast m n (g.filter (· ≠ x))

/-- A bundle's map at start: logical lanes in ascending order on the good lines in ascending order, spares left out;
with fewer than 16 good lines the highest lanes are dead (R215). -/
def buildRoles (m : Nat → Nat) (good : List Nat) : List Nat :=
  let data := dropLeast m (good.length - 16) good
  (List.range 18).map fun l =>
    match data.findIdx? (· = l) with
    | some k => k
    | none => if l ∈ good then roleSpare else roleRetired

/-! ## Rooms and their programs -/

/-- A room by its number. -/
def Chip.room (c : Chip) (r : Nat) : Room := Tab.get {} c.rooms r
/-- Change a room. -/
def Dev.onRoom (d : Dev) (r : Nat) (f : Room → Room) : Dev := d.onChip fun c => { c with rooms := Tab.upd {} c.rooms r f }
/-- The image in force in a room. -/
def Chip.image (c : Chip) (r : Nat) : Option Image := (c.room r).cur.map Loaded.image
/-- A room holds an image (R205). -/
def Chip.loaded (c : Chip) (r : Nat) : Bool := (c.room r).st ≠ .empty && (c.room r).cur.isSome
/-- The rooms that are loaded. -/
def Chip.loadedRooms (c : Chip) : List Nat := (List.range 16).filter c.loaded

/-- The program of an image that a state of execution names (R330). -/
def Image.prog (i : Image) (x : Exec) : Option Prog :=
  i.progs.find? fun p => p.role = x.role && p.slot = x.slot && (p.role = 1 || p.phase = x.phase)
    && (p.role ≠ 2 || p.toPhase = x.toPhase) && (p.role ≠ 0 || p.variant = x.variant)

/-- The program a room is in. -/
def Chip.prog (c : Chip) (r : Nat) : Option Prog := (c.image r).bind fun i => i.prog (c.room r).run

/-- The step of a program. -/
def Prog.step (p : Prog) (k : Nat) : Step := p.steps.getD k {}

/-- The step that a room's running frame runs; none in a hold frame (R51, R194). -/
def Chip.roomStep (c : Chip) (r : Nat) : Option Step :=
  if (c.room r).hold then none else (c.prog r).map fun p => p.step (c.room r).run.step

/-- Classes of R196. -/
def clsTensor : Nat := 1
def clsCelReq : Nat := 2
def clsCelRsp : Nat := 3
def clsKey : Nat := 4
def clsSignal : Nat := 5
def clsRetry : Nat := 7
def clsFold : Nat := 8

/-- A payload class: scheduled data that is neither retry nor fold reserve nor idle (R196, R209). -/
def payloadCls (k : Nat) : Bool := decide (1 ≤ k) && decide (k ≤ 6)

/-- The slots of a run. -/
def RunE.slots (r : RunE) : List Nat := (List.range r.count).map (· + r.first)

/-- The destination endpoint of a lane in a step: that of the latch which takes it (R193, R218). -/
def Step.destOf (t : Step) (bundle lane : Nat) : Option Nat :=
  (t.latches.find? fun l => l.corridor = bundle && l.lane = lane).map LatchE.ep

/-- The payload slots of a pair (bundle, destination endpoint) in a step (R209). -/
def Step.payload (t : Step) (bundle dest : Nat) : Nat :=
  ((t.runs.filter fun r => r.bundle = bundle && r.dest = dest && payloadCls r.cls).map RunE.count).foldl (· + ·) 0

/-- The retry slots of a pair in a step, on lanes that pass a test. -/
def Step.retries (t : Step) (bundle dest : Nat) (ok : Nat → Bool) : Nat :=
  ((t.runs.filter fun r => r.bundle = bundle && r.dest = dest && r.cls = clsRetry && ok r.lane).map RunE.count).foldl (· + ·) 0

/-- The retry slots that a pair needs: max(1, ceil(pct * n / 100)) where it carries payload (R209). -/
def retryNeed (pct n : Nat) : Nat := if n = 0 then 0 else max 1 ((pct * n + 99) / 100)

/-- Step `b` may follow step `a`: every pair of `a` has its retry slots in `b` (R209). -/
def retryCover (pct : Nat) (ok : Nat → Nat → Bool) (a b : Step) : Bool :=
  a.runs.all fun r => !payloadCls r.cls
    || decide (retryNeed pct (a.payload r.bundle r.dest) ≤ b.retries r.bundle r.dest (ok r.bundle))

/-- The successions within a program: each step to the next, the last to LOOP_TO for a program that loops (R219). -/
def Prog.successions (p : Prog) : List (Step × Step) :=
  let n := p.steps.length
  ((List.range (n - 1)).map fun k => (p.step k, p.step (k + 1)))
    ++ (if p.role = 0 ∧ p.nextPhase = 0xFF then [(p.step (n - 1), p.step p.loopTo)] else [])

/-! ## Folds -/

/-- The lanes of one room on a bundle. -/
def Image.lanesOn (i : Image) (b : Nat) : List Nat := (i.lanes.filter fun x => x / 16 = b).map (· % 16)

/-- A lane is dead for a step: no line carries it, or its latch is retired (R214, R228). -/
def Chip.deadIn (c : Chip) (t : Step) (bundle lane : Nat) : Bool :=
  (c.bundle bundle).dead lane
    || t.latches.any fun l => l.corridor = bundle && l.lane = lane && (c.latch l.ep l.latch).retired

/-- The free FOLD slots of a lane's group in a step, ascending by slot and then lane (R218, R219). -/
def Chip.freeFold (c : Chip) (i : Image) (t : Step) (bundle dead k : Nat) (used : List Fold) : List (Nat × Nat) :=
  let dest := t.destOf bundle dead
  let lanes := (i.lanesOn bundle).filter fun l => l ≠ dead && t.destOf bundle l = dest && !c.deadIn t bundle l
  (List.range c.slots).flatMap fun s =>
    ((List.range 16).filter fun l => l ∈ lanes
      && t.runs.any (fun r => r.bundle = bundle && r.lane = l && r.cls = clsFold && s ∈ r.slots)
      && !used.any (fun f => f.bundle = bundle && f.step = k && f.lane = l && f.place = s)).map fun l => (s, l)

/-- The payload slots of a lane in a step, ascending. -/
def Step.laneSlots (t : Step) (bundle lane : Nat) : List Nat :=
  (List.range 2048).filter fun s => t.runs.any fun r => r.bundle = bundle && r.lane = lane && payloadCls r.cls && s ∈ r.slots

/-- Fold one dead lane in every step of a program in which it is dead and not yet folded; none when a step's group cannot take it
(R219, R221, R228). -/
def Chip.foldLane (c : Chip) (room : Nat) (i : Image) (p : Prog) (bundle dead : Nat) (used : List Fold) : Option (List Fold) :=
  (List.range p.steps.length).foldl (fun acc k =>
    acc.bind fun fs =>
      let t := p.step k
      if !c.deadIn t bundle dead || used.any (fun f => f.bundle = bundle && f.dead = dead && f.step = k) then some fs
      else
        let ss := t.laneSlots bundle dead
        let free := c.freeFold i t bundle dead k (used ++ fs)
        if ss.length ≤ free.length then
          some (fs ++ (ss.zip free).map fun x => ⟨room, bundle, dead, k, x.1, x.2.2, x.2.1⟩)
        else none) (some [])

/-- The dead lanes that a program's steps use: (bundle, lane), by a lost line or a retired latch (R219, R228). -/
def Chip.deadLanes (c : Chip) (i : Image) (p : Prog) : List (Nat × Nat) :=
  (i.lanes.map fun x => (x / 16, x % 16)).filter fun bl => p.steps.any fun t => c.deadIn t bl.1 bl.2

/-- The retry cover of R209 on the surviving lanes, over the successions within a program and from a step before it. -/
def Chip.coverOk (c : Chip) (i : Image) (p : Prog) (before : Option Step) : Bool :=
  let ok (t : Step) (b l : Nat) : Bool := !c.deadIn t b l
  (p.successions.all fun ab => retryCover i.retryPct (ok ab.2) ab.1 ab.2)
    && (match before with
        | some a => retryCover i.retryPct (ok (p.step 0)) a (p.step 0)
        | none => true)

/-- Fold every dead lane of a program afresh, for a room that enters it (R219). -/
def Chip.foldAll (c : Chip) (room : Nat) (i : Image) (p : Prog) (before : Option Step) : Option (List Fold) :=
  let dead := c.deadLanes i p
  let r := dead.foldl (fun acc bl => acc.bind fun fs => (c.foldLane room i p bl.1 bl.2 fs).map (fs ++ ·)) (some [])
  if dead.isEmpty || c.coverOk i p before then r else none

/-- Add newly dead lanes to the folds in force; a lane that carries folded slots and dies fails the fold (R219, R221). -/
def Chip.foldMore (c : Chip) (room : Nat) (i : Image) (p : Prog) : Option (List Fold) :=
  let old := c.hall.folds.filter fun f => f.room = room
  let lost := old.any fun f => c.deadIn (p.step f.step) f.bundle f.lane
  let fresh := (c.deadLanes i p).filter fun bl => (List.range p.steps.length).any fun k =>
    c.deadIn (p.step k) bl.1 bl.2 && !old.any fun f => f.bundle = bl.1 && f.dead = bl.2 && f.step = k
  if lost then none
  else if fresh.isEmpty then some old
  else
    let r := fresh.foldl (fun acc bl => acc.bind fun fs => (c.foldLane room i p bl.1 bl.2 fs).map (fs ++ ·)) (some old)
    if c.coverOk i p none then r else none

/-! ## Narrow variants -/

/-- A variant's needs are met: the room's live lanes on every bundle it names, of which none of those that it uses, the lowest once
they are renumbered, ends in a retired latch in a step of the variant (R222, R223, R228). -/
def Chip.needsMet (c : Chip) (i : Image) (p : Prog) : Bool :=
  p.needs.all fun n =>
    let mine := (List.range 16).filter (· ∈ i.lanesOn n.1)
    decide (n.2 ≤ (mine.filter fun l => !(c.bundle n.1).dead l).length)
      && !p.steps.any fun t => t.latches.any fun e =>
        e.corridor = n.1 && e.lane ∈ mine.take n.2 && (c.latch e.ep e.latch).retired

/-- The narrow variants of a phase program, in image order (R222, R330). -/
def Image.variants (i : Image) (x : Exec) : List Prog :=
  if x.role ≠ 0 then []
  else (List.range 15).filterMap fun v => i.progs.find? fun p => p.role = 0 && p.slot = x.slot && p.phase = x.phase && p.variant = v + 1

/-- The first narrow variant that fits. -/
def Chip.pickVariant (c : Chip) (i : Image) (x : Exec) : Option Nat := ((i.variants x).find? (c.needsMet i)).map Prog.variant

/-- The room's lanes of one bundle renumbered: live lanes take its lowest numbers in their order, dead lanes the rest;
other rooms' lanes keep theirs (R223). -/
def renumber (mine : List Nat) (b : Bundle) : Bundle :=
  let live := mine.filter fun l => !b.dead l
  let order := live ++ mine.filter fun l => b.dead l
  let sorted := (List.range 16).filter (· ∈ mine)
  { b with roles := b.roles.map fun r =>
      match order.findIdx? (· = r) with
      | some k => sorted.getD k r
      | none => r }

/-- Renumber a room's lanes on every bundle it holds lanes of; each changed map is a map change (R216, R223). -/
def Dev.renumberRoom (d : Dev) (i : Image) : Dev :=
  (List.range nBundles).foldl (fun d b =>
    let mine := i.lanesOn b
    if mine.isEmpty then d
    else
      let old := d.chip.bundle b
      let new := renumber mine old
      if new.roles = old.roles then d
      else d.onBundle b fun _ => new.setMap new.roles ((old.epoch + 1) % 65536)) d

/-- Replace a room's folds; FOLD is set when another dead lane is folded. -/
def Dev.setFolds (d : Dev) (room : Nat) (fs : List Fold) : Dev :=
  let new := fs.any fun f => !d.chip.hall.folds.any fun g => g.room = room && g.bundle = f.bundle && g.dead = f.dead
  let d := if new then d.flag F.HALL_INT_STATUS_FOLD else d
  d.onHall fun h => { h with folds := h.folds.filter (fun f => f.room ≠ room) ++ fs }

/-- What choosing a variant for a program gives: the variant (0 the full program), or none (R222, R224). -/
def Dev.enterProg (d : Dev) (room : Nat) (i : Image) (x : Exec) (before : Option Step) : Option (Exec × Dev) :=
  match i.prog { x with variant := 0 } with
  | none => none
  | some p =>
    match d.chip.foldAll room i p before with
    | some fs => some ({ x with variant := 0 }, d.setFolds room fs)
    | none =>
      match d.chip.pickVariant i x with
      | some v => some ({ x with variant := v }, ((d.setFolds room []).renumberRoom i).flag F.HALL_INT_STATUS_NARROW)
      | none => none

/-! ## Retirement of lines -/

/-- A bundle's state from its map: READY, DEGRADED with a dead lane, RETIRED with no live line (R229). -/
def Bundle.settled (b : Bundle) : Bundle :=
  if b.st = 0 ∨ b.st = 1 ∨ b.st = 3 ∨ b.st = 5 then b
  else if b.roles.all fun r => r = roleRetired then { b with st := 6 }
  else if b.live.length < 16 then { b with st := 4 } else { b with st := 2 }

/-- The spare that takes a lane: of greater margin, the lower-numbered of equals (R216). -/
def Chip.bestSpare (c : Chip) (bn : Nat) : Option Nat :=
  (c.bundle bn).spares.foldl (fun best l => match best with
    | none => some l
    | some x => if c.margin bn x < c.margin bn l then some l else some x) none

/-- Retire a line at this threshold (R216): a spare is marked; a data lane moves to a spare or becomes dead. `cause` is
that of R501; the RETIRE entry carries PERMANENT when a declaration caused it (R421, R440). -/
def Dev.retireLine (d : Dev) (bn line cause : Nat) : Dev :=
  let b := d.chip.bundle bn
  if bn ≥ nBundles ∨ line ≥ 18 ∨ b.roles.isEmpty ∨ b.lineRetired line then d
  else
    let role := b.roles.getD line roleRetired
    let sp := d.chip.bestSpare bn
    let roles := if role = roleSpare then b.roles.set line roleRetired
      else match sp with
        | some x => (b.roles.set line roleRetired).set x role
        | none => b.roles.set line roleRetired
    let d := d.onBundle bn fun b => (b.setMap roles ((b.epoch + 1) % 65536)).settled
    let d := d.flag F.HALL_INT_STATUS_LANE_RETIRED
    let d := if role ≠ roleSpare ∧ sp.isSome then d.flag F.HALL_INT_STATUS_SPARE_USED else d
    let d := if !b.spares.isEmpty ∧ (d.chip.bundle bn).spares.isEmpty then d.flag F.HALL_INT_STATUS_SPARES_SPENT else d
    let d := d.onHall fun h => { h with retiredLines := satAdd 32 h.retiredLines 1 }
    (d.appendRetire 1 cause (bn * 18 + line)).log { cls := clsRetire, kind := 3, index := bn * 18 + line, permanent := cause = 1 }

/-- The threshold at which a decision made `left` ns before the next one acts: the next if at least 256 ns remain, else
the one after (R216, R283, R358). -/
def Chip.actsAt (c : Chip) (left : Nat) : Nat :=
  if 256 ≤ left then nextFrame c.frm.cur else nextFrame (nextFrame c.frm.cur)

/-- Decide a line's retirement (R216). -/
def Dev.decideRetire (d : Dev) (bn line due cause : Nat) : Dev :=
  let k := bn * 18 + line
  if d.chip.hall.retires.any fun x => x.line = k then d
  else d.onHall fun h => { h with retires := h.retires ++ [⟨k, due, cause⟩] }

end Sys2Proof.Machine
end

