-- ==== Sys2Proof/Machine/Stage.lean ====
section
/-! DEFINITION. Staged writes (R56), who may write what (R287, R536, R545), and the start of calibration runs (R486). -/

namespace Sys2Proof.Machine

/-- The threshold, named by the frame it begins, at which a write received `t` ns after the last threshold takes
effect: the next when at least 128 ns remain, else the one after; threshold 0 before frame 0 has begun (R56). -/
def Chip.dueFrame (c : Chip) (t : Nat) : Nat :=
  if !c.frm.begun then 0
  else if t + 128 ≤ c.frameNs then nextFrame c.frm.cur else nextFrame (nextFrame c.frm.cur)

/-- Stage a write of the masked bits of a register (R56). -/
def Dev.stage (d : Dev) (r : Requester) (t key mask value : Nat) : Dev :=
  { d with staged := d.staged ++ [⟨key, mask, value &&& mask, d.chip.dueFrame t, r⟩] }

/-- The key of a field's register. -/
def Fld.key (f : Fld) (i : Nat := 0) (e : Nat := 0) (sel : Nat := 0) : Nat := regKey (f.addrOf i e) sel

/-- The mask of a field. -/
def Fld.mask (f : Fld) : Nat := (2 ^ f.w - 1) * 2 ^ f.lo

/-- Stage a write of one field. -/
def Dev.stageFld (d : Dev) (r : Requester) (t : Nat) (f : Fld) (v : Nat) (i : Nat := 0) (e : Nat := 0) (sel : Nat := 0) : Dev :=
  d.stage r t (f.key i e sel) f.mask (v % 2 ^ f.w * 2 ^ f.lo)

/-- Change the calibration engine. -/
def Dev.onCal (d : Dev) (f : Calib → Calib) : Dev := d.onChip fun c => { c with cal := f c.cal }

/-- The key of a calibrated unit. -/
def calKey (kind unit : Nat) : Nat := kind * 64 + unit

/-- A calibration run of a kind starts on a unit (R486, R488); none while the device is tripped (R491). -/
def Dev.calStart (d : Dev) (kind unit : Nat) : Dev :=
  if d.chip.thm.tripped then d
  else
    let busy := (Tab.get {} d.chip.cal.units (calKey kind unit)).running
    let d := d.onCal fun c => { c with units := Tab.upd {} c.units (calKey kind unit) fun u => { u with running := true } }
    if kind = 5 ∧ !busy then
      d.onCal fun c => { c with phyLeft := Tab.put 0 c.phyLeft unit 32, phyAt := Tab.put 0 c.phyAt unit d.chip.frm.cur }
    else d

/-- A refused or ignored write sets FRM_INT_STATUS.BAD_WRITE (R76). -/
def Dev.badWrite (d : Dev) : Dev := d.flag F.FRM_INT_STATUS_BAD_WRITE

/-- A PCIe function that may write a register of room `n`: the PF every room's, a VF its own (R287, R534). -/
def roomWriter (r : Requester) (n : Nat) : Bool :=
  n < 16 && (match r with
    | .pf => true
    | .vf v => v = n + 1
    | _ => false)

/-- The PF: registers that no VF window shows and WRITE_REG does not permit (R536, R545). -/
def isPf (r : Requester) : Bool := r = .pf

/-- The room a VF serves (R534); 16, no room, for a number that is no VF's. -/
def vfRoom : Requester → Option Nat
  | .vf v => some (if 1 ≤ v ∧ v ≤ 16 then v - 1 else 16)
  | _ => none

end Sys2Proof.Machine
end

