-- ==== Sys2Proof/Machine/Repair.lean ====
section
/-! DEFINITION. Row repair at start and at a room's quiesce (R81, R82, R499). -/

namespace Sys2Proof.Machine

/-- FMAX held for a core position (R452). -/
def Chip.fmaxOf (c : Chip) (core : Nat) : Nat := (Tab.get {} c.tow.pos core).fmax

/-- The latest entry of a type and index (R501). -/
def Calib.latest (c : Calib) (type index : Nat) : Option RetireE := c.retire.reverse.find? fun e => e.type = type && e.index = index

/-- A position is out of service (R499). -/
def Dev.posOut (d : Dev) (core : Nat) : Bool :=
  (Tab.get {} d.chip.tow.pos core).st = 2 || (d.chip.cal.latest 3 core).isSome || (Tab.get {} d.chip.tow.pos core).march || (Tab.get {} d.chip.tow.pos core).bond || decide (d.chip.fmaxOf core < 80)

/-- The map that row repair gives a row (R499). -/
def Dev.rowRepair (d : Dev) (w : Nat) : Row :=
  let x := d.chip.row w
  let bad := (List.range 17).filter fun p => d.posOut (w * 32 + p)
  let logical (p : Nat) : Nat := if p < x.sparePos then p else p - 1
  let clean : Row := { x with st := 0, subEn := false, subLogical := 0 }
  match bad with
  | _ :: _ :: _ => { clean with st := 2 }
  | [p] => if p = x.sparePos then clean else { clean with subEn := true, subLogical := logical p }
  | [] =>
    let fm (p : Nat) : Nat := d.chip.fmaxOf (w * 32 + p)
    let others := (List.range 17).filter (· ≠ x.sparePos)
    let s := others.foldl (fun b p => if fm p < fm b then p else b) (others.headD 0)
    if ((List.range 17).filter (· ≠ s)).all fun p => decide (fm s < fm p) then { clean with subEn := true, subLogical := logical s } else clean

/-- A row is retired at this threshold (R81, R82): it carries no logical cores. -/
def Dev.retireRow (d : Dev) (w cause : Nat) : Dev :=
  if (d.chip.row w).st = 2 then d
  else
    let d := d.onRow w fun x => { x with st := 2, subEn := false, subLogical := 0 }
    let d := d.onTow fun t => { t with pos := (List.range 17).foldl (fun t p => Tab.upd {} t (w * 32 + p) fun x => { x with st := 3 }) t.pos }
    (d.appendRetire 5 cause w).log { cls := clsRetire, kind := 2, index := w, permanent := cause = 1 }

/-- Why the lowest position of a row that is out of service is so, as CAUSE of R501; 5, FMAX, when none is. -/
def Dev.outCause (d : Dev) (w : Nat) : Nat :=
  match (List.range 17).find? fun p => d.posOut (w * 32 + p) with
  | none => 5
  | some p =>
    let x := Tab.get {} d.chip.tow.pos (w * 32 + p)
    if x.bond then 3 else if x.march then 4 else ((d.chip.cal.latest 3 (w * 32 + p)).map RetireE.cause).getD 5

/-- Row repair of one row (R81, R499): a change is recorded in the retire list, ROW_REPAIR is set. `cause`: that of a
position taken out of service, under R501. -/
def Dev.repairRow (d : Dev) (cause w : Nat) : Dev :=
  let old := d.chip.row w
  if old.st = 2 then d
  else
    let new := d.rowRepair w
    let out := (List.range 17).filter fun p => d.posOut (w * 32 + p)
    if new.st = 2 ∨ (d.chip.cal.latest 5 w).isSome then (d.flag F.CAL_INT_STATUS_ROW_REPAIR).retireRow w cause
    else
      let d := d.onRow w fun _ => new
      let d := out.foldl (fun d p => d.onTow fun t => { t with pos := Tab.upd {} t.pos (w * 32 + p) fun x => { x with st := 2 } }) d
      if old.subEn = new.subEn ∧ old.subLogical = new.subLogical then d
      else
        let lg := if new.subEn then new.subLogical else old.subLogical
        let place := if lg < new.sparePos then lg else lg + 1
        let d := (d.flag F.CAL_INT_STATUS_ROW_REPAIR).log3 clsRetire 2 w
        d.appendRetire 4 (if out.isEmpty then 5 else cause) w (place + lg * 256)

end Sys2Proof.Machine
end

