-- ==== Sys2Proof/Machine/Rooms.lean ====
section
/-! DEFINITION. Rooms (R286 to R297): what a threshold does to them, and the commands that halt, resume, reset and
switch them. -/

namespace Sys2Proof.Machine

/-! ## Cores of a room -/

/-- The physical position that carries a logical core of a row (R80). -/
def Row.place (x : Row) (c : Nat) : Nat :=
  if x.subEn && c = x.subLogical then x.sparePos else if c < x.sparePos then c else c + 1

/-- The core that carries logical core `c` of a row numbered tower * 16 + row. -/
def Chip.physCore (k : Chip) (row c : Nat) : Nat := row * 32 + (k.row row).place c

/-- The cores that carry the logical cores of a room's rows. -/
def Chip.roomCores (c : Chip) (r : Nat) : List Nat :=
  match c.image r with
  | some i => i.rows.flatMap fun w => (List.range 16).map (c.physCore w)
  | none => []

/-- The sixteen rows of a tower. -/
def towerRows (t : Nat) : List Nat := (List.range 16).map (t * 16 + ·)

/-- The 17 positions of a row. -/
def rowCores (w : Nat) : List Nat := (List.range 17).map (w * 32 + ·)

/-- Program state cleared (R120): what a room load and a room reset clear. -/
def Core.cleared (c : Core) : Core :=
  { c with s := [], p := [], m := [], w := [], d := [], b := [], loops := [], flags := 0, tol := [], pc := 0, st := .ended
           wait := none, replay := false, moveQ := [], matQ := [], vecQ := [], flight := [], lastMat := none, abuf := {}
           arrived := [], done := [], sends := [], held := [] }

/-- A core at the load of its room: cleared, with no trap since (R162). -/
def Core.loaded (c : Core) : Core := { c.cleared with trapCode := 0 }

/-! ## The outcome of a frame -/

/-- A core of the room has not reached its end-of-frame wait; a trap in the room takes precedence (R50, R123). -/
def Chip.overran (c : Chip) (r : Nat) : Bool :=
  let cs := (c.roomCores r).map c.core
  !(c.room r).hold && cs.any (fun k => k.st = .running || k.st = .ending) && !cs.any (fun k => k.st = .trapped)

/-- The lowest of the causes that a failed frame orders (R290). -/
def minCause (a b : Option Nat) : Option Nat :=
  match a, b with
  | some x, some y => some (min x y)
  | some x, none => some x
  | none, y => y

/-- A reset falls due for a room; causes at one threshold make one reset (R290). -/
def Dev.dueReset (d : Dev) (r cause : Nat) : Dev :=
  d.onRoom r fun m => { m with resetDue := minCause m.resetDue (some cause) }

/-- The causes for which the running frame of a room has failed. -/
def Dev.failCause (d : Dev) (r : Nat) : Option Nat :=
  (d.failed.filter fun p => p.1 = r).foldl (fun m p => minCause m (some p.2)) none

/-- A host reset of the room takes effect at the threshold that begins frame `m`. -/
def Dev.hostReset (d : Dev) (r m : Nat) : Bool :=
  d.staged.any fun s => s.due = m && s.key = F.ROOM_CTL_RESET.key r && bitOf s.value 2

/-- The values of the last step of a core whose room committed the frame (R162). -/
def commitCore (core frameNs : Nat) (d : Dev) : Dev :=
  let c := d.chip.core core
  if c.st ≠ .ended then d
  else (d.onCore core fun c => { c with endAddrC := c.endAddr, usedC := min c.endCycles 0xFFFF }).observe
    F.TOW_CORE_SLACK_MIN_SLACK (min ((frameNs - c.endAt) / 8) 0xFFFF) (towerOf core) 0 (coreSel core)

/-- The frame that ends is judged for one room: whether it is committed, and what falls due (R50, R51, R290, R430). -/
def judgeRoom (m : Nat) (d : Dev) (r : Nat) : Dev :=
  let c := d.chip
  let x := c.room r
  if x.st = .empty then d
  else
    let fail := d.failCause r
    let late := c.overran r && fail.isNone
    let later := if x.overran then some 3 else none
    let cause := minCause fail later
    let ok := fail.isNone && !late && x.resetDue.isNone && cause.isNone && !d.hostReset r m && x.st ≠ .resetting
    let d := d.onRoom r fun x => { x with committed := ok, resetDue := minCause x.resetDue cause, overran := late }
    let d := if late then d.log { cls := clsOverrun, kind := 11, index := r, room := r } else d
    let d := d.onChip fun c => { c with integ := { c.integ with fates :=
      c.integ.fates ++ [{ frame := c.frm.cur, room := r, committed := ok, failed := fail.isSome || late }] } }
    if ok && !x.hold then (c.roomCores r).foldl (fun d k => commitCore k c.frameNs d) d else d

/-! ## State changes -/

/-- A room's state changes at the threshold that begins the running frame (R289). -/
def Dev.roomTo (d : Dev) (r : Nat) (st : RoomSt) (cause : Nat := 0) : Dev :=
  let d := d.onRoom r fun x => { x with
    stateFrame := if x.st = st then x.stateFrame else d.chip.frm.cur
    st, cause }
  match st with
  | .halted => d.flag F.ROOM_INT_STATUS_HALTED r
  | .running => d.flag F.ROOM_INT_STATUS_RUNNING r
  | _ => d

/-- A pending switch or a transit ends cancelled (R291, R293). -/
def Dev.cancelSwitch (d : Dev) (r : Nat) (transit : Bool) : Dev :=
  let x := d.chip.room r
  if x.pendSw.isSome || x.switchDue.isSome || (transit && x.transit) then
    (d.onRoom r fun x => { x with pendSw := none, switchDue := none, swSt := 5, swReason := 0
                                  transit := x.transit && !transit }).flag F.ROOM_INT_STATUS_SWITCH_REFUSED r
  else d

/-- Halt causes of ROOMn_STATUS.CAUSE (R312). -/
def causeHost : Nat := 1
def causeOverrun : Nat := 2
def causeRecompile : Nat := 3
def causeReset : Nat := 4
def causeLoop : Nat := 5
def causeSeqLost : Nat := 6

/-- A room halts (R289). -/
def Dev.haltRoom (d : Dev) (r cause : Nat) : Dev :=
  let was := (d.chip.room r).st
  let d := d.cancelSwitch r false
  let d := (d.onRoom r fun x => { x with was }).roomTo r .halted cause
  if cause = causeRecompile then d.flag F.HALL_INT_STATUS_NEEDS_RECOMPILE else d

/-- A room's barriers lose their arrivals, and what was still to be sent of them (R185, R291). -/
def Dev.clearBarriers (d : Dev) (r : Nat) : Dev :=
  d.onTow fun t => { t with
    barriers := t.barriers.map fun p => if p.1 / 256 = r then (p.1, { p.2 with arrived := [], doneFrame := none }) else p
    signals := t.signals.filter fun x => x.room ≠ r }

/-- The room's own part of a reset (R291): program state and barriers cleared, no slot resident, a switch cancelled,
replays dropped; the reset limit judged. -/
def Dev.resetRoom (d : Dev) (r cause : Nat) : Dev :=
  let now := d.chip.frm.cur
  let limit := d.chip.fld F.ROOM_LIMITS_RESET_LIMIT r
  let cores := d.chip.roomCores r
  let d := d.cancelSwitch r true
  let d := cores.foldl (fun d k => d.onCore k Core.cleared) d
  let d := d.clearBarriers r
  let d := d.onTow fun t => { t with parts := t.parts.filter fun p => p.room ≠ r }
  let d := d.onHall fun h => { h with
    replays := h.replays.filter (fun p => p.orig.room ≠ r)
    rejects := h.rejects.filter (fun p => p.1.room ≠ r)
    rejectsPrev := h.rejectsPrev.filter (fun p => p.1.room ≠ r) }
  let d := d.onChip fun c => { c with integ := { c.integ with fates := c.integ.fates.map fun f => if f.room = r then { f with wasReset := true } else f } }
  let d := d.onRoom r fun x =>
    let hist := now :: x.hist.filter fun f => frameSub now f < 1024
    { x with resident := 0, resetDue := none, haltDue := false, overran := false, lastCause := cause, resets := satAdd 16 x.resets 1
             hist, loopLimit := decide (0 < limit) && decide (limit ≤ hist.length), start := 0, pinned := [], transit := false
             run := {}, lost := false, retryDue := false }
  let d := (d.roomTo r .resetting).flag F.ROOM_INT_STATUS_RESET r
  d.log { cls := clsRoomReset, kind := 11, index := r, room := r, detail := leBytes 1 cause, contain := true }

/-- Whether a reset that falls due is taken: not by an EMPTY room, not while RESETTING, and not by a room that leaves its
halt only by a new image or by module reset (R289, R290). -/
def Room.takesReset (x : Room) : Bool :=
  x.resetDue.isSome && (x.st = .starting || x.st = .running
    || (x.st = .halted && x.cause ≠ causeSeqLost && x.cause ≠ causeRecompile))

/-- A RESUME takes effect (R289). -/
def Dev.resumeRoom (d : Dev) (r : Nat) : Dev :=
  let x := d.chip.room r
  if x.st = .halted ∧ x.cause = causeHost then d.roomTo r x.was
  else if x.st = .halted ∧ (x.cause = causeReset ∨ x.cause = causeLoop) then
    (d.roomTo r .starting).onRoom r fun x => { x with start := 1 }
  else d.flag F.ROOM_INT_STATUS_REFUSED r

/-- Resets and halts of one room at the threshold (R225 step 1, R289): `reset` performs every chapter's part. -/
def roomStep1 (reset : Nat → Nat → Dev → Dev) (d : Dev) (r : Nat) : Dev :=
  let x := d.chip.room r
  let d := if x.takesReset then reset r (x.resetDue.getD 5) d
    else d.onRoom r fun x => { x with resetDue := none }
  let x := d.chip.room r
  let d := if x.overran ∧ (x.st = .running ∨ x.st = .starting) then d.haltRoom r causeOverrun
    else if x.haltDue ∧ (x.st = .running ∨ x.st = .starting) then d.haltRoom r causeHost else d
  let d := if x.resumeDue then d.resumeRoom r else d
  d.onRoom r fun x => { x with haltDue := false, resumeDue := false }

/-! ## Members and the start sequence -/

/-- The blocks a room's members lie in: towers, stacks and the endpoints of its bundles (R286, R290, R292). -/
def Image.blocks (i : Image) : List Nat :=
  let ts := i.rows.map (· / 16)
  let ks := i.slices.map fun x => 8 + x / 64
  let es := (i.lanes.map fun x => endpointOf (x / 16)) ++ i.latches.map (· / 512)
  (List.range 22).filter fun k => k ∈ ts || k ∈ ks || k ∈ es

/-- Every member is READY: its block and its quadrants, and its bundles have left STARTING and quiescence (R292). -/
def Chip.membersReady (c : Chip) (i : Image) : Bool :=
  i.blocks.all (fun k => (c.block k).up)
    && i.lanes.all fun x => let b := c.bundle (x / 16); b.st = 2 || b.st = 4

/-- The words of a core's instruction store that an image writes; every other word is zero (R328). -/
def Image.storeOf (i : Image) (row c : Nat) : Tab (BitVec 128) :=
  (i.code.filter fun e => e.tower * 16 + e.row = row && bitOf e.mask c).foldl (fun t e =>
    e.words.zipIdx.foldl (fun t p => Tab.put 0 t (e.base + p.2) p.1) t) []

/-- Step 3 of the start sequence: pantries zeroed, instruction stores written (R292, R328, R344). -/
def Dev.startZero (d : Dev) (i : Image) : Dev :=
  i.rows.foldl (fun d w =>
    let d := (rowCores w).foldl Dev.clearSlice d
    (List.range 16).foldl (fun d c => d.onCore (d.chip.physCore w c) fun k => { k with istore := i.storeOf w c }) d) d

/-- Step 4: the records of PANTRY_INIT, later ones prevailing (R292, R329). -/
def Dev.startInit (d : Dev) (i : Image) : Dev :=
  i.inits.foldl (fun d e =>
    ((List.range 16).filter fun c => bitOf e.mask c).foldl (fun d c =>
      d.pantryWrite (d.chip.physCore (e.tower * 16 + e.row) c) e.addr (e.bytes.map some)) d) d

/-- Two slots overlap: a region of one intersects a region of the other (R323). -/
def overlap (a b : SlotE) : Bool :=
  a.regions.any fun x => b.regions.any fun y => decide (0 < x.2) && decide (0 < y.2) && decide (x.1 < y.1 + y.2) && decide (y.1 < x.1 + x.2)

/-- The slots that stop being resident when the load of a slot begins: every other whose region overlaps (R294). -/
def Image.evicts (i : Image) (slot : Nat) : List Nat :=
  match i.slots.find? fun s => s.slot = slot with
  | some e => (i.slots.filter fun s => s.slot ≠ slot && overlap e s).map SlotE.slot
  | none => []

/-- The number of steps of the room's program. -/
def Chip.progLen (c : Chip) (r : Nat) : Nat := ((c.prog r).map fun p => p.steps.length).getD 0

/-- The step after the one that the room has run, within its program (R219). -/
def Dev.nextStep (d : Dev) (r : Nat) : Dev :=
  match d.chip.prog r with
  | none => d
  | some p => d.onRoom r fun m =>
    if !m.run.ran then m
    else { m with run := { m.run with step := if m.run.step + 1 < p.steps.length then m.run.step + 1 else p.loopTo, ran := false } }

/-- A program has a variant that the room's live lanes meet (R219, R222). -/
def Chip.fits (c : Chip) (r : Nat) (i : Image) (x : Exec) : Bool :=
  match i.prog { x with variant := 0 } with
  | some p => (c.foldAll r i p none).isSome || (c.pickVariant i x).isSome
  | none => false

/-- The room halts with NEEDS_RECOMPILE in place of a program that no variant fits; a switch to it is refused (R224, R312). -/
def Dev.haltUnfit (d : Dev) (r : Nat) : Dev :=
  let was := (d.chip.room r).st
  let d := ((d.haltRoom r causeRecompile).nextStep r).onRoom r fun m => { m with transit := false, pendSw := none }
  if was = .running then (d.onRoom r fun m => { m with swSt := 4, swReason := 4 }).flag F.ROOM_INT_STATUS_SWITCH_REFUSED r else d

/-- Enter a program at its step 0, or halt with NEEDS_RECOMPILE when no variant fits (R222, R224). A load makes the
slots it overwrites stop being resident (R294). -/
def Dev.enter (d : Dev) (r : Nat) (i : Image) (x : Exec) (before : Option Step) (transit : Bool) (target : Nat × Nat) : Dev :=
  match d.enterProg r i x before with
  | none => d.haltUnfit r
  | some (x, d) =>
    d.onRoom r fun m => { m with
      run := { x with step := 0, ran := false }, transit, target
      swSt := if transit ∧ m.st = .running then 2 else m.swSt
      resident := if x.role = 1 then ofBitList ((bitList 64 m.resident).filter fun s => s ≠ x.slot && s ∉ i.evicts x.slot) else m.resident }

/-- The target phase of a switch begins: DONE, one more switch (R296). -/
def Dev.switchDone (d : Dev) (r : Nat) : Dev :=
  ((d.onRoom r fun m => { m with swSt := 3, swReason := 0 }).flag F.ROOM_INT_STATUS_SWITCH_DONE r).count F.ROOM_SWITCHES 1 r

/-- Go to a slot and phase at this threshold (R296); a transit begins only to a target that fits. -/
def Dev.performSwitch (d : Dev) (r : Nat) (i : Image) (slot phase : Nat) : Dev :=
  let m := d.chip.room r
  let here := (d.chip.prog r).map fun p => p.step m.run.step
  let d := d.onRoom r fun m => { m with pendSw := none }
  if slot = m.run.slot then
    let x : Exec := { role := 2, slot, phase := m.run.phase, toPhase := phase }
    if (i.prog x).isSome then
      if d.chip.fits r i { slot, phase } then d.enter r i x here true (slot, phase) else d.haltUnfit r
    else
      let d := d.enter r i { slot, phase } here false (slot, phase)
      if (d.chip.room r).st = .running then d.switchDone r else d
  else if bitOf m.resident slot then
    let d := d.enter r i { slot, phase } here false (slot, phase)
    if (d.chip.room r).st = .running then d.switchDone r else d
  else if d.chip.fits r i { slot, phase } then d.enter r i { role := 1, slot } here true (slot, phase)
  else d.haltUnfit r

/-- A switch request takes effect: it is judged against the image (R295). -/
def Dev.takeSwitch (d : Dev) (r : Nat) (i : Image) (slot phase : Nat) : Dev :=
  let m := d.chip.room r
  let refuse (why : Nat) : Dev := (d.onRoom r fun m => { m with swSt := 4, swReason := why, pendSw := none }).flag F.ROOM_INT_STATUS_SWITCH_REFUSED r
  match i.slots.find? fun s => s.slot = slot with
  | none => refuse 1
  | some e =>
    let cur := if m.transit then m.target else (m.run.slot, m.run.phase)
    let change : Exec := { role := 2, slot, phase := cur.2, toPhase := phase }
    if e.regions.length ≤ phase ∨ (slot = cur.1 ∧ phase ≠ cur.2 ∧ (i.prog change).isNone) then refuse 2
    else if m.st ≠ .running then refuse 3
    else if slot = cur.1 ∧ phase = cur.2 ∧ !m.transit then
      (d.onRoom r fun m => { m with pendSw := none }).switchDone r
    else d.onRoom r fun m => { m with swSt := if m.transit then m.swSt else 1, swReason := 0, pendSw := some (slot, phase) }

/-- The room becomes RUNNING with the initial slot and phase (R292 step 6). -/
def Dev.startRun (d : Dev) (r : Nat) (i : Image) : Dev :=
  let d := d.enter r i { slot := i.initSlot, phase := i.initPhase } none false (i.initSlot, i.initPhase)
  if (d.chip.room r).st = .halted then d
  else (d.roomTo r .running).onRoom r fun m => { m with start := 0 }

/-- Step 5: the load program of the next pinned slot, or step 6 (R292). -/
def Dev.startPinned (d : Dev) (r : Nat) (i : Image) : Dev :=
  let m := d.chip.room r
  match m.pinned with
  | s :: rest =>
    let d := d.onRoom r fun m => { m with pinned := rest, start := 5 }
    d.enter r i { role := 1, slot := s } none true (s, 0)
  | [] => d.startRun r i

/-- Step 3 begins at this threshold (R292, R344). -/
def Dev.startStep3 (d : Dev) (r : Nat) (i : Image) : Dev :=
  (d.startZero i).onRoom r fun m => { m with start := 3, lost := false, retryDue := false, pinned := (i.slots.filter SlotE.pinned).map SlotE.slot }

/-- The image of a room could not be read again (R344). -/
def Dev.imageLost (d : Dev) (r : Nat) : Dev :=
  (d.onRoom r fun m => { m with lost := true }).flag F.BIT_INT_STATUS_IMAGE_LOST

/-- The start sequence of one room at a threshold (R292). -/
def Dev.startNext (d : Dev) (r : Nat) (i : Image) (f : RoomFacts) : Dev :=
  let m := d.chip.room r
  if m.lost then (if m.retryDue then d.startStep3 r i else d)
  else if m.start ≤ 1 then
    if d.chip.membersReady i then
      let d := i.rows.foldl (fun d w => d.repairRow 1 w) d
      d.startStep3 r i
    else d.onRoom r fun m => { m with start := 1 }
  else if r ∈ f.imageLost then d.imageLost r
  else if m.start = 3 then
    if r ∉ f.startDone then d
    else if i.inits.isEmpty then d.startPinned r i
    else (d.startInit i).onRoom r fun m => { m with start := 4 }
  else if m.start = 4 then (if r ∈ f.startDone then d.startPinned r i else d)
  else d

/-- What follows the step that a room has run (R295 to R297, R332). -/
def Dev.advanceRoom (d : Dev) (r : Nat) (i : Image) : Dev :=
  let m := d.chip.room r
  match i.prog m.run with
  | none => d
  | some p =>
    let last := m.run.step + 1 ≥ p.steps.length
    let stepNo (k : Nat) : Dev := d.onRoom r fun m => { m with run := { m.run with step := k, ran := false } }
    if !m.run.ran then
      -- a request that took effect in hold frames waits for the next switch point
      d
    else if m.run.role ≠ 0 then
      if !last then stepNo (m.run.step + 1)
      else
        let here := some (p.step m.run.step)
        let d := if m.run.role = 1 then d.onRoom r fun m => { m with resident := orBit m.resident m.run.slot } else d
        if m.st = .starting then (d.onRoom r fun m => { m with transit := false }).startPinned r i
        else
          let d := d.enter r i { slot := m.target.1, phase := m.target.2 } here false m.target
          let d := if (d.chip.room r).st = .running then d.switchDone r else d
          d.onRoom r fun m => { m with swSt := if m.pendSw.isSome ∧ m.st = .running then 1 else m.swSt }
    else if last ∧ p.nextPhase ≠ 0xFF then
      let pend := m.pendSw
      let d := d.performSwitch r i m.run.slot p.nextPhase
      d.onRoom r fun m => { m with pendSw := if m.st = .running then pend else none }
    else
      match m.pendSw with
      | some (s, ph) =>
        if (p.step m.run.step).switchPt then d.performSwitch r i s ph
        else stepNo (if last then p.loopTo else m.run.step + 1)
      | none => stepNo (if last then p.loopTo else m.run.step + 1)

/-- A halted room stands at the step that its hold frames would have run (R51, R213, R289): what follows the step that it has run when
HALT stopped it; within its program after any other halt. A pinned load that has run its last step stays there until the room resumes. -/
def Dev.advanceHalted (d : Dev) (r : Nat) (i : Image) : Dev :=
  let m := d.chip.room r
  if !m.run.ran then d
  else if m.cause ≠ causeHost then d.nextStep r
  else if m.was = .starting then (if m.run.step + 1 < d.chip.progLen r then d.nextStep r else d)
  else
    let d := (d.onRoom r fun m => { m with st := .running }).advanceRoom r i
    d.onRoom r fun m => { m with st := .halted }

/-- Switches, phase changes and the start sequence of one room at a threshold (R225 step 6). A switch request to a room without an image
names a slot that is not filled (R295). -/
def roomStep6 (f : RoomFacts) (d : Dev) (r : Nat) : Dev :=
  let m := d.chip.room r
  match m.cur with
  | none =>
    if m.switchDue.isNone then d
    else (d.onRoom r fun m => { m with switchDue := none, swSt := 4, swReason := 1 }).flag F.ROOM_INT_STATUS_SWITCH_REFUSED r
  | some l =>
    let i := l.image
    let d := match m.switchDue with
      | some (s, ph) => (d.onRoom r fun m => { m with switchDue := none }).takeSwitch r i s ph
      | none => d
    match m.st with
    | .resetting =>
      if m.stateFrame = d.chip.frm.cur then d
      else if m.loopLimit then d.roomTo r .halted causeLoop
      else if d.chip.fld F.ROOM_CTL_AUTORUN r = 0 then d.roomTo r .halted causeReset
      else ((d.roomTo r .starting).onRoom r fun m => { m with start := 1 }).startNext r i f
    | .starting => if m.start = 5 then d.advanceRoom r i else d.startNext r i f
    | .running => d.advanceRoom r i
    | .halted => d.advanceHalted r i
    | .empty => d

/-! ## The step that a frame runs -/

/-- The room runs a step in the frame that begins unless it is a hold frame: it is RUNNING, or STARTING in step 5, and
nothing holds it (R51, R226, R488). -/
def Room.steps (m : Room) (held : Bool) : Bool := !held && (m.st = .running || (m.st = .starting && m.start = 5))

/-- The pantry ranges that a core sends in a step: its runs' sources (R127, R336). -/
def Step.sendsOf (t : Step) (tower row c : Nat) : List (Nat × Nat) :=
  (t.runs.filter fun x => endpointOf x.bundle = tower && decide (tower < 8) && x.srcUnit = row * 16 + c
      && payloadCls x.cls && (x.cls = clsTensor || x.srcAddr + x.srcUnit ≠ 0)).map fun x =>
    (x.srcAddr, x.srcAddr + 112 * x.count)

/-- A core starts its step (R121): loops cleared, the entry address taken, the regions it may not write set; a replay
slot of the core has still to end when the entry names one (R124, R127, R212). -/
def startCore (t : Step) (e : CoreE) (c : Nat) (d : Dev) : Dev :=
  d.onCore (d.chip.physCore (e.tower * 16 + e.row) c) fun k =>
    { k with loops := [], pc := e.entry, st := .running, wait := none, trappedNow := false, replay := e.last ≠ 0xFFFF
             held := k.sends, sends := t.sendsOf e.tower e.row c, entry := e.entry }

/-- A core stays at its end-of-frame wait (R51). -/
def holdCore (k : Core) : Core :=
  { k with st := .ended, wait := none, trappedNow := false, held := k.sends, sends := [], replay := false }

/-- The room's cores and latches take the step of the frame that begins (R121, R194, R225 step 7). -/
def roomStep7 (held : Nat → Bool) (d : Dev) (r : Nat) : Dev :=
  let m := d.chip.room r
  let go := m.steps (held r)
  let d := d.onRoom r fun m => { m with hold := !go, run := { m.run with ran := go || (m.st = .halted && m.run.ran) } }
  match d.chip.image r with
  | none => d
  | some i =>
    let d := i.latches.foldl (fun d x => d.onLatch (x / 512) (x % 512) fun l => { l with assigned := none }) d
    match d.chip.roomStep r with
    | none => (d.chip.roomCores r).foldl (fun d k => d.onCore k holdCore) d
    | some t =>
      let d := t.latches.foldl (fun d e => d.onLatch e.ep e.latch fun l =>
        if l.retired then l else { l with assigned := some (e.corridor, e.lane) }) d
      t.cores.foldl (fun d e => (bitList 16 e.mask).foldl (fun d c => startCore t e c d) d) d

/-! ## The commands -/

/-- A W1S bit of ROOMn_CTL is staged for a function that may write the room's registers (R287, R312). -/
def roomBit (f : Fld) (r : Requester) (n t : Nat) (d : Dev) : Dev :=
  if roomWriter r n then d.stageFld r t f 1 n else d

/-- A switch request is staged (R295). -/
def goWrite (r : Requester) (n t slot phase : Nat) (d : Dev) : Dev :=
  if roomWriter r n then
    d.stage r t (F.ROOM_SWITCH_GO.key n) (F.ROOM_SWITCH_SLOT.mask + F.ROOM_SWITCH_PHASE.mask + 1)
      (slot % 64 * 2 ^ 16 + phase % 16 * 2 ^ 8 + 1)
  else d

/-- What a staged write of ROOMn_CTL does when it takes effect (R289, R290). -/
def effectRoomCtl (n value : Nat) (d : Dev) : Dev :=
  d.onRoom n fun m => { m with
    haltDue := m.haltDue || bitOf value 0
    resumeDue := m.resumeDue || bitOf value 1
    resetDue := if bitOf value 2 && m.st ≠ .empty then minCause m.resetDue (some 5) else m.resetDue }

/-- What a staged write of ROOMn_SWITCH with GO does when it takes effect: the last one prevails (R295). -/
def effectSwitch (n value : Nat) (d : Dev) : Dev :=
  if bitOf value 0 then d.onRoom n fun m => { m with switchDue := some (bitsOf value 16 6, bitsOf value 8 4) } else d

open Host

/-- HALT: halts the room with cause HOST at the write's threshold (R289). `t`: ns since the last threshold. -/
def execHalt (r : Requester) (n t : Nat) (s : State) : Outcome State Fault Refusal := runs s (roomBit F.ROOM_CTL_HALT r n t)

/-- RESUME: resumes or restarts a halted room at the write's threshold, or is refused there (R289). -/
def execResume (r : Requester) (n t : Nat) (s : State) : Outcome State Fault Refusal := runs s (roomBit F.ROOM_CTL_RESUME r n t)

/-- ROOM_RESET_CMD: orders a room reset with cause HOST (R290). -/
def execRoomResetCmd (r : Requester) (n t : Nat) (s : State) : Outcome State Fault Refusal := runs s (roomBit F.ROOM_CTL_RESET r n t)

/-- GO: requests a switch to a slot and phase (R295). -/
def execGo (r : Requester) (n t slot phase : Nat) (s : State) : Outcome State Fault Refusal := runs s (goWrite r n t slot phase)

end Sys2Proof.Machine
end

