-- ==== Sys2Proof/Machine/Queues.lean ====
section
/-! DEFINITION. Queues (R298 to R311, R314, R315, R564): cells, streams, commits, delivery, intake and doorbells. -/

namespace Sys2Proof.Machine

/-! ## Staged values -/

/-- A register as it reads once every staged write has taken effect (R56). -/
def Dev.stagedReg (d : Dev) (key : Nat) : Nat :=
  (d.staged.filter fun s => s.key = key).foldl (fun v s => v - (v &&& s.mask) + s.value) (d.chip.reg key).toNat

/-- A field likewise. -/
def Dev.stagedOf (d : Dev) (f : Fld) (i : Nat := 0) (e : Nat := 0) (sel : Nat := 0) : Nat :=
  bitsOf (d.stagedReg (f.key i e sel)) f.lo f.w

/-! ## What a queue is -/

/-- The kinds of R298. -/
def qFeed : Nat := 0
def qCompl : Nat := 1
def qFabModel : Nat := 2
def qFabHost : Nat := 3

/-- The number of queues (R298). -/
def nQueues : Nat := 8192

/-- A queue's declaration and owning room, from the loaded rooms' images (R298). -/
def Chip.queueDecl (c : Chip) (q : Nat) : Option (Nat × QueueE) :=
  c.loadedRooms.findSome? fun r => (c.image r).bind fun i => (i.queues.find? fun e => e.queue = q).map fun e => (r, e)

/-- The kind of a queue. -/
def Chip.queueKind (c : Chip) (q : Nat) : Option Nat := (c.queueDecl q).map fun x => x.2.kind

/-- A queue by its number. -/
def Chip.queue (c : Chip) (q : Nat) : Queue := Tab.get {} c.que.qs q

/-- EN in force. -/
def Chip.queueOn (c : Chip) (q : Nat) : Bool := c.fld F.QUE_Q_CFG_EN 0 0 q = 1

/-- The largest packet (R304). -/
def maxPacket : Nat := 61408

/-! ## The cell pool -/

/-- Cells of a packet of `l` bytes (R299). -/
def cellsOf (l : Nat) : Nat := if l ≤ 208 then 1 else 1 + (l - 208 + 239) / 240

/-- Cells that a queue holds (R302). -/
def Queue.cells (q : Queue) : Nat :=
  ((q.pkts ++ q.wait).map fun p => cellsOf p.data.length).foldl (· + ·) 0
    + (match q.building with
       | some b => if b.dead then 0 else cellsOf b.data.length
       | none => 0)

/-- Cells of the pool (R299). -/
def poolCells : Nat := 131072

/-- Free cells. -/
def Chip.freeCells (c : Chip) : Nat := poolCells - (c.que.qs.map fun p => p.2.cells).foldl (· + ·) 0

/-- The reserve (R302). -/
def Chip.reserve (c : Chip) : Nat := c.fld F.QUE_POOL_CTL_RESERVE

/-- Change the queue engine; a fill of the pool down to the reserve is flagged (R302, R314). -/
def Dev.onQueues (d : Dev) (f : Queues → Queues) : Dev :=
  let was := d.chip.freeCells
  let d := d.onChip fun c => { c with que := f c.que }
  let now := d.chip.freeCells
  if d.chip.reserve < was ∧ now ≤ d.chip.reserve then d.flag F.QUE_INT_STATUS_RESERVE_HIT else d

/-- The numbers of the cells that a queue holds (R299). -/
def Queue.held (x : Queue) : List Nat := (x.pkts ++ x.wait).flatMap Pkt.cells ++ (x.building.map Build.cells).getD []

/-- Cells come back to the pool. -/
def Queues.give (e : Queues) (l : List Nat) : Queues :=
  { e with returned := l ++ e.returned, cellErrs := Tab.keep e.cellErrs fun k => k ∉ l }

/-- The next `n` cells of the pool (R299; log 129): those that came back last, then those never granted; their data areas are written. -/
def Queues.cellsFor (e : Queues) (n : Nat) : List Nat :=
  e.returned.take n ++ (List.range (n - e.returned.length)).map fun k => e.unused + k

/-- They are no longer free. -/
def Queues.grant (e : Queues) (n : Nat) : Queues :=
  { e with returned := e.returned.drop n, unused := e.unused + (n - e.returned.length), cellErrs := Tab.keep e.cellErrs fun k => k ∉ e.cellsFor n }

/-- Change a queue; the cells that it holds no longer come back to the pool (R299). -/
def Dev.onQueue (d : Dev) (q : Nat) (f : Queue → Queue) : Dev :=
  d.onQueues fun e =>
    let x := Tab.get {} e.qs q
    let y := f x
    let e := { e with qs := Tab.put {} e.qs q y }
    if y.held.length < x.held.length then e.give (x.held.filter fun n => n ∉ y.held) else e

/-- One more cell is granted to a queue that holds `cq` when `free` are free (R302). -/
def Chip.grants (c : Chip) (q cq free : Nat) : Bool :=
  decide (cq < c.fld F.QUE_Q_LIM_MAX_CELLS 0 0 q) && decide (0 < free)
    && (decide (cq < c.fld F.QUE_Q_LIM_MIN_CELLS 0 0 q) || decide (c.reserve < free))

/-- `n` more cells are granted, one after another. -/
def Chip.grantsAll (c : Chip) (q : Nat) : Nat → Nat → Nat → Bool
  | 0, _, _ => true
  | n + 1, cq, free => c.grants q cq free && c.grantsAll q n (cq + 1) (free - 1)

/-- A queue gets the cells of a packet that grows from `have'` cells to `want`. -/
def Chip.room4 (c : Chip) (q have' want : Nat) : Bool := c.grantsAll q (want - have') (c.queue q).cells c.freeCells

/-! ## Drops and rewinds -/

/-- A packet is rewound (R307). -/
def Dev.rewound (d : Dev) (q : Nat) (n : Nat := 1) : Dev :=
  if n = 0 then d else (d.count F.QUE_Q_REWOUND n 0 0 q).flag F.QUE_INT_STATUS_REWIND

/-- A packet is dropped in frame `frame`: it joins the tail marker (R309). -/
def Dev.queueDrop (d : Dev) (q frame : Nat) : Dev :=
  let d := d.onQueue q fun x => { x with gapCount := satAdd 32 x.gapCount 1,
                                          gapFrame := if x.gapCount = 0 then frame else x.gapFrame }
  (d.count F.QUE_Q_DROPS 1 0 0 q).flag F.QUE_INT_STATUS_DROP

/-- A whole packet arrives: it waits for its commit, or is dropped where a cell is refused (R302, R309). -/
def Dev.queueTake (d : Dev) (q : Nat) (p : Pkt) : Dev :=
  let n := cellsOf p.data.length
  if d.chip.room4 q 0 n then
    let cells := d.chip.que.cellsFor n
    (d.onQueues fun e => e.grant n).onQueue q fun x => { x with wait := x.wait ++ [{ p with cells }] }
  else
    let d := d.queueDrop q d.chip.frm.cur
    if p.origin = 0 then d.onQueue q fun x => { x with taken := (x.taken + 1) % 2 ^ 32, shadowDue := true } else d

/-! ## Streams -/

/-- The packet in progress is rewound; `keep`: records of it follow, and are ignored (R307). -/
def Dev.rewindBuild (d : Dev) (q : Nat) (keep : Bool) : Dev :=
  match (d.chip.queue q).building with
  | none => d
  | some b =>
    let d := if b.dead then d else d.rewound q
    d.onQueue q fun x => { x with building := if keep then some { b with data := [], dead := true, cells := [] } else none }

/-- The bytes of a stream, each with whether it was delivered good and unhusked. -/
def streamBytes (l : List StreamSlot) : List (Byte × Bool) :=
  l.flatMap fun s => (padTo 112 0 s.bytes).zipIdx.map fun p => (p.1, s.good && !bitOf s.husks (p.2 / 16))

/-- A slot of a stream was delivered good and carries no husked word (R307). -/
def streamWhole (l : List StreamSlot) (k : Nat) : Bool := match l[k]? with
  | some s => s.good && s.husks % 128 = 0
  | none => false

/-- The endpoint that sent byte `o` of a stream. -/
def streamSource (l : List StreamSlot) (o : Nat) : Nat := ((l.drop (o / 112)).head?.map StreamSlot.source).getD 0

/-- A DATA record that the stream's form admits: its data `dat` joins the packet in progress (R304, R307, R309). -/
def Dev.streamData (d : Dev) (q frame source : Nat) (first last good : Bool) (dat : List Byte) : Dev :=
  let d := if first then d.onQueue q fun x => { x with building := some { data := [], source, dead := true } } else d
  match (d.chip.queue q).building with
  | none => d
  | some b =>
    let data := b.data ++ dat
    let d :=
      if b.dead && !first then d
      else if !good then (d.rewound q).onQueue q fun x => { x with building := some { b with data := [], dead := true, cells := [] } }
      else if d.chip.room4 q (if first then 0 else cellsOf b.data.length) (cellsOf data.length) then
        let n := cellsOf data.length - (if first then 0 else cellsOf b.data.length)
        let cells := b.cells ++ d.chip.que.cellsFor n
        (d.onQueues fun e => e.grant n).onQueue q fun x => { x with building := some { b with data, dead := false, cells } }
      else (d.onQueue q fun x => { x with building := some { b with data := [], dead := true, cells := [] } }).queueDrop q frame
    if last then
      match (d.chip.queue q).building with
      | some b => d.onQueue q fun x =>
          { x with building := none,
                   wait := if b.dead then x.wait else x.wait ++ [{ data := b.data, origin := 1, source := b.source, last := frame, cells := b.cells }] }
      | none => d
    else d

/-- The records of one frame's stream, from offset `o` on (R304, R307): `src` tells who sent a byte, `whole` whether a slot is sound. -/
def Dev.streamWalk (d : Dev) (q frame : Nat) (src : Nat → Nat) (whole : Nat → Bool) : Nat → Nat → List (Byte × Bool) → Dev
  | 0, _, _ => d
  | fuel + 1, o, l =>
    if l.length = 0 then d
    else
      let head := l.take 16
      let hb := head.map Prod.fst
      let kind := leField hb 0 1
      let flags := leField hb 1 1
      let len := leField hb 2 2
      let size := 16 + (len + 15) / 16 * 16
      let build := (d.chip.queue q).building
      let total := len + (match build with
        | some b => if bitOf flags 0 then 0 else b.data.length
        | none => 0)
      if head.length < 16 ∨ !head.all Prod.snd then d.rewindBuild q false
      else if kind = 0 then d
      else if kind ≠ 1 ∧ kind ≠ 2 ∨ l.length < size ∨ (kind = 1 ∧ bitOf flags 0 = build.isSome) ∨ maxPacket < total then
        d.rewindBuild q false
      else if kind = 2 then (d.rewindBuild q false).streamWalk q frame src whole fuel (o + size) (l.drop size)
      else
        let dat := (l.drop 16).take len
        let good := (List.range ((o + size - 1) / 112 - o / 112 + 1)).all fun k => whole (o / 112 + k)
        let d := d.streamData q frame (src o) (bitOf flags 0) (bitOf flags 1) good (dat.map Prod.fst)
        d.streamWalk q frame src whole fuel (o + size) (l.drop size)

/-- M takes a queue's stream of the frame before the running one (R304). -/
def Dev.queueStream (d : Dev) (q : Nat) : Dev :=
  let l := (d.chip.queue q).streamPrev
  let d := d.onQueue q fun x => { x with streamPrev := [] }
  let bytes := streamBytes l
  d.streamWalk q (frameSub d.chip.frm.cur 1) (streamSource l) (streamWhole l) bytes.length 0 bytes

/-- A queue's streams that M has not taken yet are taken (R307, R308). -/
def Dev.takeStreams (d : Dev) (q : Nat) : Dev :=
  let d := d.queueStream q
  (d.onQueue q fun x => { x with streamPrev := x.stream, stream := [] }).queueStream q

/-- Place a slot in a stream: in order, a replayed slot in place of the rejected one (R210, R220, R304). -/
def placeSlot (x : StreamSlot) : List StreamSlot → List StreamSlot
  | [] => [x]
  | y :: t => if x.order < y.order then x :: y :: t else if x.order = y.order then x :: t else y :: placeSlot x t

/-! ## Commits -/

/-- The fate of a room's frame, where it is known (R306, R431). -/
def Chip.committedFrame (c : Chip) (room frame : Nat) : Bool :=
  c.integ.fates.any fun f => f.room = room && f.frame = frame && f.committed

/-- A packet commits at the threshold that begins frame `m` (R301, R306, R309). -/
def Queue.commit (q : Queue) (m : Nat) (p : Pkt) : Queue :=
  { q with
    pkts := q.pkts ++ [{ p with seq := q.seq, commitFrame := m, gapCount := q.gapCount, gapFrame := q.gapFrame }]
    seq := (q.seq + 1) % 2 ^ 32, gapCount := 0, gapFrame := 0
    taken := if p.origin = 0 then (q.taken + 1) % 2 ^ 32 else q.taken
    shadowDue := q.shadowDue || p.origin = 0 }

/-- One waiting packet at the threshold that begins frame `m`: it commits, waits on, or is rewound (R306). -/
def Dev.judgePkt (m q : Nat) (d : Dev) (p : Pkt) : Dev :=
  let stay : Dev := d.onQueue q fun x => { x with wait := x.wait ++ [p] }
  let go : Dev := (d.onQueue q fun x => x.commit m p).onQueues fun e => { e with committed := e.committed + 1 }
  let room := ((d.chip.queueDecl q).map Prod.fst).getD 16
  if !d.chip.queueOn q then d.rewound q
  else if p.origin = 1 then
    if nextFrame (nextFrame p.last) ≠ m then
      (if d.chip.integ.fates.any fun f => f.room = room && f.frame = p.last && !f.committed then d.rewound q else stay)
    else if d.chip.committedFrame room p.last && d.chip.committedFrame room (nextFrame p.last) then go
    else d.rewound q
  else if p.clear then go
  else stay

/-- The waiting packets of every queue at the threshold that begins frame `m`; streams not yet taken are taken first. -/
def Dev.commitQueues (d : Dev) (m : Nat) : Dev :=
  (d.chip.que.qs.map Prod.fst).foldl (fun d q =>
    let d := if (d.chip.queue q).streamPrev.isEmpty then d else d.queueStream q
    let w := (d.chip.queue q).wait
    if w.isEmpty then d else w.foldl (Dev.judgePkt m q) (d.onQueue q fun x => { x with wait := [] })) d

/-- The releases that fall due at the threshold that begins frame `m` (R311); a room reset has removed those that it
cancels. -/
def Dev.releaseQueues (d : Dev) (m : Nat) : Dev :=
  (d.chip.que.qs.map Prod.fst).foldl (fun d q =>
    let room := ((d.chip.queueDecl q).map Prod.fst).getD 16
    let x := d.chip.queue q
    if x.releases.isEmpty then d
    else
      let due := x.releases.filter fun r => nextFrame (nextFrame r.2) = m && d.chip.committedFrame room r.2
      let frees (p : Pkt) : Bool := p.handed && due.any fun r => decide ((r.1 + 2 ^ 32 - p.seq) % 2 ^ 32 < 2 ^ 31)
      d.onQueue q fun x => { x with pkts := x.pkts.filter (fun p => !frees p),
                                    releases := x.releases.filter fun r => nextFrame (nextFrame r.2) ≠ m }) d

/-- What a room's reset does to its queues (R308, R311). -/
def Dev.resetQueues (d : Dev) (r : Nat) : Dev :=
  (d.chip.que.qs.map Prod.fst).foldl (fun d q =>
    if (d.chip.queueDecl q).map Prod.fst ≠ some r then d
    else
      let d := d.takeStreams q
      let lost := ((d.chip.queue q).wait.filter fun p => p.origin = 1).length
      let d := (d.rewindBuild q false).rewound q lost
      d.onQueue q fun x => { x with wait := x.wait.filter (fun p => p.origin ≠ 1), stream := [], streamPrev := [], releases := [],
                                    pkts := x.pkts.map fun p => { p with handed := false } }) d

/-- A queue is cleared of its packets and its tail marker, which count as rewound (R308). -/
def Dev.discardQueue (d : Dev) (q : Nat) : Dev :=
  let d := d.takeStreams q
  let x := d.chip.queue q
  let n := x.pkts.length + x.wait.length
  let d := (d.rewindBuild q false).rewound q n
  d.onQueue q fun x => { x with pkts := [], wait := [], gapCount := 0, gapFrame := 0, stream := [], streamPrev := [], releases := [],
                                intake := [], vecDue := false, shadowDue := false }

/-- EN takes effect as 1 (R540, R564). -/
def Dev.enableQueue (d : Dev) (q fn : Nat) : Dev :=
  let on := d.chip.queueOn q
  let d := (d.setFld F.QUE_Q_CFG_EN 1 0 0 q).onQueue q fun x => { x with fn }
  if on then d else d.onQueue q fun x => { x with prod := 0, cons := 0, written := 0, readE := 0, taken := 0, shadowDue := true }

/-- EN takes effect as 0 (R308). -/
def Dev.disableQueue (d : Dev) (q : Nat) : Dev :=
  if d.chip.queueOn q then (d.setFld F.QUE_Q_CFG_EN 0 0 0 q).discardQueue q else d

/-! ## Records -/

/-- A packet header (R301). -/
def pktHeader (len queue origin flags frame source seq gap gapFrame deliveries : Nat) : List Byte :=
  leBytes 4 len ++ leBytes 2 queue ++ leBytes 1 origin ++ leBytes 1 flags ++ leBytes 6 frame ++ leBytes 2 source ++ leBytes 4 seq
    ++ leBytes 4 gap ++ leBytes 6 gapFrame ++ leBytes 1 deliveries ++ leBytes 1 0

/-- The delivery record of a packet (R309, R310). -/
def Pkt.record (p : Pkt) (q : Nat) : List Byte :=
  pktHeader p.data.length q p.origin (b2n (p.gapCount ≠ 0) + (if 1 < p.deliveries then 16 else 0)) p.commitFrame p.source p.seq
      p.gapCount p.gapFrame p.deliveries
    ++ padTo ((p.data.length + 15) / 16 * 16) 0 p.data

/-- The bytes that a packet puts into the data areas of its chain: its header, then its data (R299, R301). -/
def Pkt.area (p : Pkt) (q : Nat) : List Byte := (p.record q).take 32 ++ p.data

/-- The data area of a packet's cell `k`, as far as it is in use (R299). -/
def Pkt.cellData (p : Pkt) (q k : Nat) : List Byte := ((p.area q).drop (240 * k)).take 240

/-- The 256 bytes of a packet's cell `k` (R300); `next`: the first cell of the next packet in the queue's list. -/
def Pkt.cell (p : Pkt) (q k : Nat) (next : Option Nat) : List Byte :=
  let n := p.cells.length
  let a := p.cellData q k
  let dest := if k + 1 < n then p.cells[k + 1]? else next
  leBytes 4 (dest.getD 0 + b2n dest.isNone * 2 ^ 17 + b2n (k = 0) * 2 ^ 18 + b2n (k + 1 = n) * 2 ^ 19) ++ leBytes 2 q ++ leBytes 1 a.length ++ [0]
    ++ leBytes 4 (crc32c a).toNat ++ List.replicate 4 0 ++ padTo 240 0 a

/-- The bytes of pool cell `n`, upsets among them; none where it is free or belongs to a packet in progress (R299, R300). -/
def Chip.cellBytes (c : Chip) (n : Nat) : Option (List Byte) :=
  c.que.qs.findSome? fun x =>
    let l := x.2.pkts ++ x.2.wait
    (l.zip (l.drop 1 |>.map some |>.append [none])).findSome? fun p =>
      (p.1.cells.idxOf? n).map fun k =>
        (p.1.cell x.1 k (p.2.bind fun y => y.cells.head?)).mapIdx fun i b => if i < 16 then b else b ^^^ BitVec.ofNat 8 (Tab.get 0 (Tab.get [] c.que.cellErrs n) (i - 16))

/-- A cell of a packet fails CHECK when it is read out (R300). -/
def Queues.fails (e : Queues) (q : Nat) (p : Pkt) : Bool :=
  p.cells.zipIdx.any fun x =>
    let errs := Tab.get [] e.cellErrs x.1
    let a := p.cellData q x.2
    !errs.isEmpty && crc32c (a.mapIdx fun i b => b ^^^ BitVec.ofNat 8 (Tab.get 0 errs i)) ≠ crc32c a

/-- Upsets in the data areas of cells. -/
def Dev.cellUpsets (d : Dev) (l : List (Nat × Nat × Nat)) : Dev :=
  if l.isEmpty then d
  else d.onQueues fun e => { e with cellErrs := l.foldl (fun t x => Tab.upd [] t x.1 fun y => Tab.upd 0 y x.2.1 fun v => v ^^^ (x.2.2 % 256)) e.cellErrs }

/-- A MARKER record (R309). -/
def Queue.marker (x : Queue) (q : Nat) : List Byte :=
  pktHeader 0 q 0 2 0 0 ((x.seq + 2 ^ 32 - 1) % 2 ^ 32) x.gapCount x.gapFrame 0

/-- An END record (R311). -/
def endRecord (q : Nat) : List Byte := pktHeader 0 q 0 4 0 0 0 0 0 0

/-- A PAD record that fills `n` bytes; where fewer than 32 are left its first bytes (R310, log 15). -/
def padRecord (q n : Nat) : List Byte := padTo n 0 (pktHeader (n - 32) q 0 8 0 0 0 0 0 0)

/-- Ring size in bytes. -/
def Chip.ringSize (c : Chip) (q : Nat) : Nat := 2 ^ c.fld F.QUE_Q_RINGSZ 0 0 q

/-- Ring and shadow addresses. -/
def Chip.ringAddr (c : Chip) (q : Nat) : Nat := c.pair F.QUE_Q_RING_LO F.QUE_Q_RING_HI 0 0 q
def Chip.shadowAddr (c : Chip) (q : Nat) : Nat := c.pair F.QUE_Q_SHADOW_LO F.QUE_Q_SHADOW_HI 0 0 q

/-- The queue's EN is cleared at the next threshold, after a failed translation (R542). -/
def Dev.stageDisable (d : Dev) (q : Nat) : Dev :=
  { d with staged := d.staged ++ [⟨F.QUE_Q_CFG_EN.key 0 0 q, 2 ^ 31, 0, nextFrame d.chip.frm.cur, .pf⟩] }

/-- The first record that a delivery queue has to write: a packet's, or the tail marker at its end (R309, R310). -/
def Queue.nextRecord (x : Queue) (q : Nat) : Option (List Byte × Bool) :=
  match x.pkts with
  | p :: _ => some (p.record q, true)
  | [] => if x.gapCount ≠ 0 then some (x.marker q, false) else none

/-- A delivery record is written once it fits (R310); the PAD record before it is written as soon as that fits. A packet with a cell that
fails CHECK is rewound (R300, R307). `dma` 2: the translation fails (R542). -/
def Dev.deliver (d : Dev) (q : Nat) (dma : Nat) : Dev :=
  let x := d.chip.queue q
  let kind := d.chip.queueKind q
  if !d.chip.queueOn q ∨ (kind ≠ some qCompl ∧ kind ≠ some qFabHost) then d
  else match x.nextRecord q with
    | none => d
    | some (rec, isPkt) =>
      if isPkt && (x.pkts.head?.map (d.chip.que.fails q)).getD false then (d.onQueue q fun x => { x with pkts := x.pkts.drop 1 }).rewound q
      else
        let size := d.chip.ringSize q
        let pos := x.prod % size
        let pad := if size < pos + rec.length then size - pos else 0
        let used := (x.prod + 2 ^ 32 - x.cons) % 2 ^ 32
        let base := d.chip.ringAddr q
        let fits := decide (used + pad + rec.length ≤ size)
        if size < used + pad ∨ (pad = 0 ∧ !fits) then d
        else if dma = 2 then d.stageDisable q
        else
          let d := if pad = 0 then d else
            (d.emit (.dmaWrite x.fn (base + pos) (padRecord q pad))).onQueue q fun x =>
              { x with prod := (x.prod + pad) % 2 ^ 32, shadowDue := true, vecDue := true }
          if !fits then d
          else
          let d := d.emit (.dmaWrite x.fn (base + (pos + pad) % size) rec)
          let d := d.onQueue q fun x =>
            let x := { x with prod := (x.prod + rec.length) % 2 ^ 32, shadowDue := true, vecDue := true }
            if isPkt then { x with pkts := x.pkts.drop 1 } else { x with gapCount := 0, gapFrame := 0 }
          if isPkt then d else d.onQueues fun e => { e with markers := e.markers + 1 }

/-- The mask bit of a vector's control word in the MSI-X table; 1 after reset (log 7). -/
def Dev.msixMasked (d : Dev) (fn vec : Nat) : Bool := bitOf ((Tab.find d.msix (fn * 65536 + 16 * vec + 12)).getD 1).toNat 0

/-- Send an MSI-X message now: a masked vector becomes pending (R540). -/
def Dev.sendMsix (d : Dev) (fn vec : Nat) : Dev :=
  if d.msixMasked fn vec then { d with pba := Tab.put false d.pba (fn * 65536 + vec) true } else d.emit (.msix fn vec)

/-- After the publication of frame `n`: shadows and vectors of the queues that changed (R303, R310, R564). -/
def Dev.publishQueues (d : Dev) (n : Nat) : Dev :=
  (d.chip.que.qs.map Prod.fst).foldl (fun d q =>
    let x := d.chip.queue q
    let kind := d.chip.queueKind q
    if !x.shadowDue ∨ !d.chip.queueOn q ∨ kind = some qFabModel then d
    else
      let v := if kind = some qFeed then x.taken else x.prod
      let d := d.emit (.dmaWrite x.fn (d.chip.shadowAddr q) (leBytes 4 v ++ leBytes 4 (n % 2 ^ 32)))
      let d := if x.vecDue then d.sendMsix x.fn (d.chip.fld F.QUE_Q_VEC 0 0 q) else d
      d.onQueue q fun x => { x with shadowDue := false, vecDue := false }) d

/-! ## Intake -/

/-- The packets handed: in queue order the longest run of those not handed whose records fit in `room` bytes; the
records, the packets, and whether the end of the queue was reached (R311). A packet whose cells fail CHECK is rewound. -/
def handOut (q : Nat) (bad : Pkt → Bool) : List Pkt → Nat → List Byte × List Pkt × Bool × Nat
  | [], _ => ([], [], true, 0)
  | p :: t, room =>
    if p.handed then
      let r := handOut q bad t room
      (r.1, p :: r.2.1, r.2.2)
    else if bad p then
      let r := handOut q bad t room
      (r.1, r.2.1, r.2.2.1, r.2.2.2 + 1)
    else
      let p' := { p with handed := true, deliveries := min 255 (p.deliveries + 1) }
      let rec' := p'.record q
      if rec'.length ≤ room then
        let r := handOut q bad t (room - rec'.length)
        (rec' ++ r.1, p' :: r.2.1, r.2.2)
      else ([], p :: t, false, 0)

/-- The intake stream of one queue in a frame with `cap` bytes of slots (R311). -/
def Dev.handQueue (d : Dev) (q cap : Nat) : Dev :=
  let x := d.chip.queue q
  let on := d.chip.queueOn q
  let r := if on then handOut q (d.chip.que.fails q) x.pkts (cap - 32) else ([], x.pkts, false, 0)
  let mark := on && r.2.2.1 && x.gapCount ≠ 0 && decide (r.1.length + 32 ≤ cap - 32)
  let bytes := r.1 ++ (if mark then x.marker q else []) ++ endRecord q
  let d := d.onQueue q fun x => { x with pkts := r.2.1, intake := padTo cap 0 bytes,
                                          gapCount := if mark then 0 else x.gapCount, gapFrame := if mark then 0 else x.gapFrame }
  let d := d.rewound q r.2.2.2
  if mark then d.onQueues fun e => { e with markers := e.markers + 1 } else d

/-- The corridor of M (R311). -/
def mCorridor : Nat := 292

/-- The intakes of the step that a room's frame runs: (queue, slots) (R311). -/
def Step.intakes (t : Step) : List (Nat × Nat) :=
  let runs := t.runs.filter fun x => x.bundle = mCorridor && x.cls = clsTensor
  (runs.map RunE.srcUnit).eraseDups.map fun q =>
    (q, ((runs.filter fun x => x.srcUnit = q).map RunE.count).foldl (· + ·) 0)

/-- The intakes of a room in the frame that begins, which feed the model that runs: none in a transit frame (R296, R311). -/
def Dev.intakeRoom (d : Dev) (r : Nat) : Dev :=
  let x := (d.chip.room r).run
  match d.chip.roomStep r with
  | none => d
  | some t => t.intakes.foldl (fun d i =>
      match d.chip.queueDecl i.1 with
      | some (room, e) =>
        if room = r ∧ (e.kind = qFeed ∨ e.kind = qFabModel) ∧ x.role = 0 ∧ e.slot = x.slot then d.handQueue i.1 (112 * i.2) else d
      | none => d) d

/-- Streams and intakes move on to the frame that begins. -/
def Dev.shiftQueues (d : Dev) : Dev :=
  (d.chip.que.qs.map Prod.fst).foldl (fun d q =>
    d.onQueue q fun x => { x with streamPrev := x.stream, stream := [], intake := [] }) d

/-! ## Doorbells and records -/

/-- A doorbell or record is ignored and counted (R287, R315, R561). -/
def Dev.badDoorbell (d : Dev) : Dev := d.count F.QUE_BAD_DOORBELL

/-- A function's doorbell page reaches the queue: the PF every queue's, a VF its room's (R315, R561). -/
def Chip.rings (c : Chip) (r : Requester) (q : Nat) : Bool :=
  match r with
  | .pf => true
  | .vf _ => (c.queueDecl q).map Prod.fst = vfRoom r && (vfRoom r).isSome
  | _ => false

/-- PRODUCER: entries written to a submission ring (R303, R561). `be`: the byte enables of the write. -/
def producer (r : Requester) (q v be : Nat) (d : Dev) : Dev :=
  let v := v % 2 ^ 32
  let x := d.chip.queue q
  if be % 16 = 15 ∧ d.chip.rings r q ∧ d.chip.queueOn q ∧ d.chip.queueKind q = some qFeed
      ∧ (v + 2 ^ 32 - x.taken) % 2 ^ 32 ≤ d.chip.ringSize q / 16 then
    d.onQueue q fun x => { x with written := v }
  else d.badDoorbell

/-- CONSUMER: space released in a delivery ring (R310, R315, R561). `be`: the byte enables of the write. -/
def consumer (r : Requester) (q v be : Nat) (d : Dev) : Dev :=
  let v := v % 2 ^ 32
  let x := d.chip.queue q
  let kind := d.chip.queueKind q
  if be % 16 = 15 ∧ d.chip.rings r q ∧ d.chip.queueOn q ∧ (kind = some qCompl ∨ kind = some qFabHost) ∧ v % 16 = 0
      ∧ (v + 2 ^ 32 - x.cons) % 2 ^ 32 ≤ (x.prod + 2 ^ 32 - x.cons) % 2 ^ 32 then
    d.onQueue q fun x => { x with cons := v }
  else d.badDoorbell

/-- The engine reads the next entry of a submission ring, and at the address which that names the packet (R303, R306, R307, R542): `dma`
0 good, 1 an error status, 2 a failed translation; no entry where its own read failed. -/
def submissionRead (q dma : Nat) (entry data : List Byte) (d : Dev) : Dev :=
  let x := d.chip.queue q
  if !d.chip.queueOn q ∨ d.chip.queueKind q ≠ some qFeed ∨ x.readE = x.written then d
  else
    let maxPkt := ((d.chip.queueDecl q).map fun e => e.2.maxPkt).getD 0
    let len := leField entry 8 4
    let d := d.emit (.dmaRead x.fn (d.chip.ringAddr q + 16 * x.readE % d.chip.ringSize q) 16)
    let d := if entry.length = 16 ∧ 0 < len ∧ len ≤ maxPkt then d.emit (.dmaRead x.fn (leField entry 0 8) len) else d
    let d := d.onQueue q fun x => { x with readE := (x.readE + 1) % 2 ^ 32 }
    let gone (d : Dev) : Dev :=
      (d.onQueue q fun x => { x with taken := (x.taken + 1) % 2 ^ 32, shadowDue := true }).rewound q
    if dma ≠ 0 then (let d := gone d; if dma = 2 then d.stageDisable q else d)
    else if maxPkt < len then gone d
    else d.queueTake q { data := padTo len 0 data, origin := 0, source := x.fn }

/-- A DOORBELL record from a room's lane: packets of a queue up to VALUE are released at threshold N+2 (R287, R311).
`late`: the record travelled in a replay and was sent in the frame before. -/
def doorbell (room q value : Nat) (late : Bool) (d : Dev) : Dev :=
  match d.chip.queueDecl q with
  | some (r, e) =>
    if r = room ∧ (e.kind = qFeed ∨ e.kind = qFabModel) then
      d.onQueue q fun x => { x with releases :=
        x.releases ++ [(value % 2 ^ 32, if late then frameSub d.chip.frm.cur 1 else d.chip.frm.cur)] }
    else d.badDoorbell
  | none => d.badDoorbell

/-! ## Registers of a queue -/

/-- A function may write a queue's registers: the PF any, a VF its room's (R314). -/
def Chip.queueWriter (c : Chip) (r : Requester) (q : Nat) : Bool := decide (q < nQueues) && c.rings r q

/-- The sum of MIN_CELLS over enabled queues as staged writes leave them, without queue `skip` (R302). -/
def Dev.minSum (d : Dev) (skip : Nat) : Nat :=
  let qs := ((d.chip.regs.map Prod.fst) ++ d.staged.map Staged.key).eraseDups.filter fun k =>
    k % 2 ^ 26 = F.QUE_Q_CFG_EN.addr
  ((qs.map (· / 2 ^ 26)).filter fun q => q ≠ skip && d.stagedOf F.QUE_Q_CFG_EN 0 0 q = 1).foldl
    (fun n q => n + d.stagedOf F.QUE_Q_LIM_MIN_CELLS 0 0 q) 0

/-- A write is refused with BAD_CFG (R302, R314). -/
def Dev.badCfg (d : Dev) : Dev := d.flag F.QUE_INT_STATUS_BAD_CFG

/-- A write of 1 to EN is accepted (R298, R302, R303, R310, R314). -/
def Dev.enableOk (d : Dev) (q : Nat) : Bool :=
  let sz := d.stagedOf F.QUE_Q_RINGSZ 0 0 q
  match d.chip.queueKind q with
  | none => false
  | some k =>
    decide ((if k = qCompl ∨ k = qFabHost then 16 else 12) ≤ sz) && decide (sz ≤ 24)
      && decide (d.minSum q + d.stagedOf F.QUE_Q_LIM_MIN_CELLS 0 0 q ≤ d.stagedOf F.QUE_POOL_CTL_RESERVE)

/-- A write of QUE_Q_LIM (R302, R314): MAX_CELLS of 0 leaves that field unchanged. -/
def writeLim (r : Requester) (t q maxCells minCells : Nat) (d : Dev) : Dev :=
  if !d.chip.queueWriter r q then d
  else if d.stagedOf F.QUE_Q_CFG_EN 0 0 q = 1 ∧ d.stagedOf F.QUE_POOL_CTL_RESERVE < d.minSum q + minCells % 2 ^ 16 then d.badCfg
  else
    let mask := 0xFFFF + (if maxCells % 2 ^ 16 = 0 then 0 else 0xFFFF0000)
    d.stage r t (F.QUE_Q_LIM_MIN_CELLS.key 0 0 q) mask (maxCells % 2 ^ 16 * 2 ^ 16 + minCells % 2 ^ 16)

/-- A write of RESERVE (R302, R314). -/
def writeReserve (r : Requester) (t v : Nat) (d : Dev) : Dev :=
  if !isPf r then d
  else if 65536 < v ∨ v < d.minSum nQueues then d.badCfg
  else d.stageFld r t F.QUE_POOL_CTL_RESERVE v

/-- QUEUE_ENABLE: EN takes effect as 1 for a function that may write the queue, or the write is refused. -/
def queueEnable (r : Requester) (q : Nat) (d : Dev) : Dev :=
  if !d.chip.queueWriter r q then d
  else if d.chip.queueOn q || d.enableOk q then d.enableQueue q r.code
  else d.badCfg

/-- QUEUE_DISABLE: EN is cleared by a function that may write the queue. -/
def queueDisable (r : Requester) (q : Nat) (d : Dev) : Dev :=
  if d.chip.queueWriter r q then d.disableQueue q else d

open Host

/-- PRODUCER: `v` entries have been written to a FEED queue's submission ring (R303, R315, R561). -/
def execProducer (r : Requester) (q v be : Nat) (s : State) : Outcome State Fault Refusal := runs s (producer r q v be)

/-- CONSUMER: the consumed byte count of a delivery ring is `v` (R310, R315). -/
def execConsumer (r : Requester) (q v be : Nat) (s : State) : Outcome State Fault Refusal := runs s (consumer r q v be)

/-- SUBMISSION_READ: the engine's read of the next entry ends with `dma`, the 16 bytes of the entry and the packet's
data (R303, R542). -/
def execSubmissionRead (q dma : Nat) (entry data : List Byte) (s : State) : Outcome State Fault Refusal :=
  runs s (submissionRead q dma entry data)

/-- QUEUE_STREAM: M takes the queue's stream of the last frame (R304). -/
def execQueueStream (q : Nat) (s : State) : Outcome State Fault Refusal := runs s fun d => d.queueStream q

/-- DELIVERY_WRITE, after the `upsets` in cells since the last threshold: the next delivery record of a queue is written once it fits (R310); the shadow and the vector follow
the publication. -/
def execDeliveryWrite (q : Nat) (upsets : List (Nat × Nat × Nat)) (dma : Nat) (s : State) : Outcome State Fault Refusal :=
  runs s fun d => (d.cellUpsets upsets).deliver q dma

/-- QUEUE_ENABLE (R564). -/
def execQueueEnable (r : Requester) (q : Nat) (s : State) : Outcome State Fault Refusal := runs s (queueEnable r q)

/-- QUEUE_DISABLE (R308). -/
def execQueueDisable (r : Requester) (q : Nat) (s : State) : Outcome State Fault Refusal := runs s (queueDisable r q)

/-- QUEUE_CONFIG_WRITE: a write of a queue's limits, or with `q` = 8192 of RESERVE (R302). -/
def execQueueConfigWrite (r : Requester) (t q a b : Nat) (s : State) : Outcome State Fault Refusal :=
  runsM s (if q = nQueues then writeReserve r t a else writeLim r t q a b)

/-- DOORBELL: a room's record releases handed packets (R311). -/
def execDoorbell (room q value : Nat) (late : Bool) (s : State) : Outcome State Fault Refusal := runs s (doorbell room q value late)

end Sys2Proof.Machine
end

