-- ==== Sys2Proof/Machine/ImageParse.lean ====
section
/-! DEFINITION. Kullity images as bytes (R317 to R338): the checks of R340 that need no device state but the owner key
and the firmware version, from MAGIC to FIELD, and the parsed image. -/

namespace Sys2Proof.Machine

/-! ## Refusals -/

/-- The statuses of R340. -/
def stOk : Nat := 0x00
def stBusy : Nat := 0x01
def stDenied : Nat := 0x02
def stSeqLost : Nat := 0x03
def stBadLen : Nat := 0x04
def stReadErr : Nat := 0x05
def stMagic : Nat := 0x06
def stHdrCrc : Nat := 0x07
def stFormat : Nat := 0x08
def stTarget : Nat := 0x09
def stFirmware : Nat := 0x0A
def stLayout : Nat := 0x0B
def stNoOwner : Nat := 0x0C
def stKey : Nat := 0x0D
def stSignature : Nat := 0x0E
def stHash : Nat := 0x0F
def stUnknown : Nat := 0x10
def stVersion : Nat := 0x11
def stMissing : Nat := 0x12
def stField : Nat := 0x13
def stPeriod : Nat := 0x14
def stConflict : Nat := 0x15
def stRetired : Nat := 0x16
def stStoreFull : Nat := 0x17
def stOwnership : Nat := 0x18
def stLatch : Nat := 0x19
def stClass : Nat := 0x1A
def stLane : Nat := 0x1B
def stRetryPos : Nat := 0x1C
def stRetryCover : Nat := 0x1D
def stFoldCover : Nat := 0x1E
def stTree : Nat := 0x1F
def stSuccession : Nat := 0x20
def stIntake : Nat := 0x21
def stQueue : Nat := 0x22
def stCellarRate : Nat := 0x23
def stPower : Nat := 0x24
def stAborted : Nat := 0x25

/-- A refusal: its status, and the section, step, entry and byte offset at which it was found, where they apply (R340,
R348). -/
structure Bad where
  status : Nat
  sect : Nat := 0xFFFF
  step : Nat := 0xFFFF
  entry : Nat := 0
  offset : Nat := 0
deriving DecidableEq, Repr

/-- The result of a check. -/
abbrev Chk (α : Type) := Except Bad α

/-- Refuse unless `ok`. -/
def need (ok : Bool) (b : Bad) : Chk Unit := if ok then .ok () else .error b

/-- All bytes of a range are zero. -/
def zeros (l : List Byte) (o n : Nat) : Bool := ((l.drop o).take n).all (· = 0)

/-- A list is strictly ascending. -/
def ascending : List Nat → Bool
  | a :: b :: t => decide (a < b) && ascending (b :: t)
  | _ => true

/-- No value stands twice. -/
def noRepeat (l : List Nat) : Bool := decide l.Nodup

/-- The bits of a 16-bit mask beyond `w` are zero, and so on: `v` fits in `w` bits. -/
def fits (w v : Nat) : Bool := decide (v < 2 ^ w)

/-! ## Sections -/

/-- A section: its table entry and its body (R319). -/
structure Sect where
  idx : Nat
  kind : Nat
  version : Nat
  opt : Bool
  offset : Nat
  length : Nat
  selector : List Byte
  sha : List Byte
  body : List Byte
deriving DecidableEq, Repr

/-- Section `k` of an image (R319). -/
def sectAt (l : List Byte) (k : Nat) : Sect :=
  let e := (l.drop (128 + 64 * k)).take 64
  let o := leField e 0x08 4
  let n := leField e 0x0C 4
  { idx := k, kind := leField e 0 2, version := leField e 2 2, opt := bitOf (leField e 4 2) 0, offset := o, length := n
    selector := (e.drop 0x10).take 16, sha := (e.drop 0x20).take 32, body := (l.drop o).take n }

/-- A table entry keeps R317 and R319. -/
def sectOk (l : List Byte) (count sigOff : Nat) (s : Sect) : Bool :=
  let e := (l.drop (128 + 64 * s.idx)).take 64
  decide (leField e 4 2 < 2) && leField e 6 2 = 0 && s.offset % 64 = 0 && s.length % 16 = 0 && decide (16 ≤ s.length)
    && decide (128 + 64 * count ≤ s.offset) && decide (s.offset + s.length ≤ sigOff)

/-- No two section bodies overlap (R317). -/
def disjointSects (ss : List Sect) : Bool :=
  ss.all fun a => ss.all fun b => a.idx = b.idx || decide (a.offset + a.length ≤ b.offset) || decide (b.offset + b.length ≤ a.offset)

/-- The kinds of R321. -/
def kRoom : Nat := 0x0001
def kSlots : Nat := 0x0002
def kQueues : Nat := 0x0003
def kLane : Nat := 0x0004
def kResil : Nat := 0x0005
def kPower : Nat := 0x0006
def kProgram : Nat := 0x0010
def kCode : Nat := 0x0020
def kInit : Nat := 0x0030
def kSymbols : Nat := 0x00F0

/-- The kinds this firmware knows. -/
def knownKinds : List Nat := [kRoom, kSlots, kQueues, kLane, kResil, kPower, kProgram, kCode, kInit, kSymbols]

/-- The device reads a section: its kind and version are known and it is not SYMBOLS (R321, R340). -/
def Sect.used (s : Sect) : Bool := s.kind ∈ knownKinds && s.version = 1 && s.kind ≠ kSymbols

/-- The header checks of R340, from MAGIC to LAYOUT, and the sections (R317 to R319). -/
def parseHead (l : List Byte) (len fw : Nat) : Chk (List Sect) := do
  need (l.take 4 = [0x5A#8, 0x4B#8, 0x49#8, 0x4D#8]) { status := stMagic }
  need (leField l 0x7C 4 = (crc32c (l.take 0x7C)).toNat) { status := stHdrCrc, offset := 0x7C }
  need (leField l 4 2 = 1 && leField l 8 2 = 128 && leField l 10 2 = 64) { status := stFormat, offset := 4 }
  need (leField l 0x1C 2 = 0x0108) { status := stTarget, offset := 0x1C }
  need (decide (leField l 0x1E 2 ≤ fw)) { status := stFirmware, offset := 0x1E }
  let count := leField l 0x0C 2
  let total := leField l 0x10 4
  let sigOff := leField l 0x14 4
  let sigLen := leField l 0x18 4
  need (total = len && total % 64 = 0 && decide (total ≤ 2 ^ 30)) { status := stLayout, offset := 0x10 }
  need (decide (2 ≤ count) && decide (count ≤ 4096) && decide (128 + 64 * count ≤ total)) { status := stLayout, offset := 0x0C }
  need (sigOff % 64 = 0 && decide (1 ≤ sigLen) && decide (sigLen ≤ 4096) && decide (sigOff + sigLen ≤ total))
    { status := stLayout, offset := 0x14 }
  let ss := (List.range count).map (sectAt l)
  match ss.find? fun s => !sectOk l count sigOff s with
  | some s => .error { status := stLayout, sect := 0xFFFF, offset := 128 + 64 * s.idx }
  | none => pure ()
  need (disjointSects ss) { status := stLayout }
  pure ss

/-- The first 16 bytes of the SHA-256 of a key (R318, R550). -/
def keyId (key : List Byte) : List Byte := (sha256 key).take 16

/-- The signed message of an image (R320). -/
def signedMessage (l : List Byte) : List Byte := l.take (128 + 64 * leField l 0x0C 2)

/-- The checks NO_OWNER to HASH (R320, R340). -/
def checkSigned (l : List Byte) (owner : Option (List Byte)) (ss : List Sect) : Chk Unit := do
  match owner with
  | none => .error { status := stNoOwner }
  | some key =>
    need ((l.drop 0x30).take 16 = keyId key) { status := stKey, offset := 0x30 }
    let so := leField l 0x14 4
    need (lmsVerify key (signedMessage l) ((l.drop so).take (leField l 0x18 4))) { status := stSignature, offset := so }
    match ss.find? fun s => s.sha ≠ sha256 s.body with
    | some s => .error { status := stHash, sect := s.idx, offset := s.offset }
    | none => pure ()

/-! ## Selectors and counts -/

/-- The selector of a section keeps R321, R328 and R330. -/
def selectorOk (s : Sect) : Bool :=
  let b (k : Nat) : Nat := leField s.selector k 1
  if s.kind = kProgram then
    zeros s.selector 5 11 && decide (b 1 < 64)
      && (if b 0 = 0 then decide (b 2 < 16) && b 3 = 0 && decide (b 4 < 16)
          else if b 0 = 1 then b 2 = 0 && b 3 = 0 && b 4 = 0
          else if b 0 = 2 then decide (b 2 < 16) && decide (b 3 < 16) && b 2 ≠ b 3 && b 4 = 0
          else false)
  else if s.kind = kCode then
    decide (b 0 < 8) && decide (b 1 < 16) && zeros s.selector 6 10 && decide (leField s.selector 4 2 + s.length / 16 ≤ 4096)
  else zeros s.selector 0 16

/-- The program of a section, its steps still to be read: (role, slot, phase, to, variant) (R330). -/
def Sect.progKey (s : Sect) : Nat × Nat × Nat × Nat × Nat :=
  let b (k : Nat) : Nat := leField s.selector k 1
  (b 0, b 1, b 2, b 3, b 4)

/-- The slots and their phases as a SLOTS body declares them: (slot, number of phases), for the counts of R330. -/
def slotCounts : Nat → List Byte → List (Nat × Nat)
  | 0, _ => []
  | fuel + 1, l =>
    if l.length < 32 then []
    else
      let n := leField l 1 1
      (leField l 0 1, n) :: slotCounts fuel (l.drop (32 + 16 * n))

/-- The counts of R321 and R330: each filled slot has one LOAD program, each of its phases one full program, and no
program is declared twice. -/
def countsOk (ss : List Sect) : Bool :=
  let n (k : Nat) : Nat := (ss.filter fun s => s.kind = k && s.version = 1).length
  let keys := (ss.filter fun s => s.kind = kProgram && s.version = 1).map Sect.progKey
  let slots := (ss.filter fun s => s.kind = kSlots && s.version = 1).flatMap fun s => slotCounts s.body.length s.body
  n kRoom = 1 && n kSlots = 1 && decide (n kQueues ≤ 1) && n kLane = 1 && n kResil = 1 && decide (n kPower ≤ 1)
    && decide (1 ≤ n kProgram) && decide (1 ≤ n kCode) && decide (n kSymbols ≤ 1)
    && decide keys.Nodup
    && (slots.all fun x => (1, x.1, 0, 0, 0) ∈ keys && (List.range x.2).all fun p => (0, x.1, p, 0, 0) ∈ keys)

/-! ## Declaration sections -/

/-- A FIELD refusal in a sects body at an offset. -/
def Sect.bad (s : Sect) (o : Nat) : Bad := { status := stField, sect := s.idx, offset := s.offset + o }

/-- `n` two-byte members from an offset. -/
def members (l : List Byte) (o n : Nat) : List Nat := (List.range n).map fun k => leField l (o + 2 * k) 2

/-- The ROOM section (R322). -/
def parseRoom (s : Sect) (i : Image) : Chk Image := do
  let l := s.body
  let nr := leField l 4 2
  let ns := leField l 6 2
  let nl := leField l 8 2
  let nt := leField l 10 2
  let floor := leField l 0 2
  need (decide (800 ≤ floor) && decide (floor ≤ 2200)) (s.bad 0)
  need (decide (1 ≤ nr) && decide (nr ≤ 128) && decide (ns ≤ 768) && decide (nl ≤ 4688) && decide (nt ≤ 4688) && zeros l 12 4) (s.bad 4)
  let used := 16 + 2 * (nr + ns + nl + nt)
  need (s.length = (used + 15) / 16 * 16 && zeros l used (s.length - used)) (s.bad 4)
  let rows := members l 16 nr
  let slices := members l (16 + 2 * nr) ns
  let lanes := members l (16 + 2 * (nr + ns)) nl
  let latches := members l (16 + 2 * (nr + ns + nl)) nt
  need (ascending rows && rows.all fun r => decide (r < 2 ^ 11) && bitsOf r 4 4 = 0) (s.bad 16)
  need (ascending slices && slices.all fun x => decide (x < 768)) (s.bad (16 + 2 * nr))
  need (ascending lanes && lanes.all fun x => decide (x < 4688)) (s.bad (16 + 2 * (nr + ns)))
  need (ascending latches && latches.all fun x => decide (x / 512 < 23) && decide (x % 512 < latchCount (x / 512)))
    (s.bad (16 + 2 * (nr + ns + nl)))
  pure { i with floor, initSlot := leField l 2 1, initPhase := leField l 3 1, rows := rows.map (fun r => r / 256 * 16 + r % 16)
                slices, lanes, latches }

/-- The slot records of a SLOTS body (R323), from an offset. -/
def parseSlotList (s : Sect) : Nat → Nat → Int → Chk (List SlotE)
  | 0, _, _ => .error (s.bad 0)
  | fuel + 1, o, prev =>
    if o = s.length then pure []
    else do
      let l := s.body.drop o
      let slot := leField l 0 1
      let np := leField l 1 1
      let homeA := leField l 8 8
      need (decide (32 ≤ l.length) && decide (slot < 64) && decide (prev < slot) && decide (1 ≤ np) && decide (np ≤ 16)
        && decide (leField l 2 1 < 2) && zeros l 3 5 && zeros l 0x18 8 && homeA % 256 = 0
        && decide (32 + 16 * np ≤ l.length)) (s.bad o)
      let regions := (List.range np).map fun p => (leField l (32 + 16 * p) 4, leField l (36 + 16 * p) 4)
      need ((List.range np).all fun p => zeros l (40 + 16 * p) 8) (s.bad o)
      need (regions.all fun r => r.1 % 128 = 0 && r.2 % 128 = 0 && decide (r.1 + r.2 ≤ sliceBytes)) (s.bad (o + 32))
      let rest ← parseSlotList s fuel (o + 32 + 16 * np) slot
      pure ({ slot, pinned := bitOf (leField l 2 1) 0, home := homeA, len := leField l 0x10 8, regions } :: rest)

/-- Bytes of a cellar slice (R261). -/
def cellarBytes : Nat := 1000000000

/-- The homes that the slot records from an offset of a SLOTS body name lie in the room's cellar window, `k` slices wide (R263, R323). -/
def homesOk (s : Sect) (k : Nat) : Nat → List SlotE → Chk Unit
  | _, [] => pure ()
  | o, e :: t => do
    need (decide (e.home + e.len ≤ k * cellarBytes)) (s.bad (o + 8))
    homesOk s k (o + 32 + 16 * e.regions.length) t

/-- The SLOTS section (R323). -/
def parseSlots (s : Sect) (i : Image) : Chk Image := do
  let slots ← parseSlotList s (s.length + 1) 0 (-1)
  pure { i with slots }

/-- The QUEUES section (R324); a breach is refused with QUEUE, in its own place of R340. -/
def parseQueues (s : Sect) (i : Image) : Image × Option Bad :=
  let es := (List.range (s.length / 8)).map fun k => s.body.drop (8 * k) |>.take 8
  let real := es.takeWhile fun e => leField e 0 2 ≠ 0xFFFF
  let pad := es.drop real.length
  let ok (e : List Byte) : Bool :=
    let k := leField e 2 1
    let sl := leField e 3 1
    let m := leField e 4 2
    decide (leField e 0 2 < nQueues) && decide (k < 4) && zeros e 6 2
      && (if k = qFeed ∨ k = qFabModel then (i.slots.any fun x => x.slot = sl) && (decide (m ≤ maxPacket) || m = 0xFFFF)
          else sl = 0 && m = 0)
  let wrong := ((real.zipIdx.filter fun e => !ok e.1 || (decide (0 < e.2) && decide (leField e.1 0 2 ≤ leField (real.getD (e.2 - 1) []) 0 2))).map
      Prod.snd) ++ ((pad.zipIdx real.length).filter fun e => decide (real.length < e.2) || !(leField e.1 0 2 = 0xFFFF || zeros e.1 0 8)).map Prod.snd
  let bad : Option Bad := wrong.head?.map fun k => { status := stQueue, sect := s.idx, offset := s.offset + 8 * k }
  ({ i with queues := real.map fun e =>
      { queue := leField e 0 2, kind := leField e 2 1, slot := leField e 3 1, maxPkt := min (leField e 4 2) maxPacket } }, bad)

/-- The LANE_POLICY section (R325). -/
def parseLane (s : Sect) (i : Image) : Chk Image := do
  let l := s.body
  let n := leField l 2 2
  let used := 16 + 4 * n
  need (decide (1 ≤ leField l 0 1) && decide (leField l 0 1 ≤ 25) && decide (leField l 1 1 ≤ 2) && zeros l 4 12) (s.bad 0)
  need (s.length = (used + 15) / 16 * 16 && zeros l used (s.length - used)) (s.bad 2)
  let ovr := (List.range n).map fun k => (leField l (16 + 4 * k) 2, leField l (18 + 4 * k) 1)
  need (((List.range n).all fun k => zeros l (19 + 4 * k) 1) && ovr.all fun o => decide (o.2 ≤ 2) && i.lanes.any fun x => x / 16 = o.1) (s.bad 16)
  need (noRepeat (ovr.map Prod.fst)) (s.bad 16)
  pure { i with retryPct := leField l 0 1, foldDefault := leField l 1 1, foldOvr := ovr }

/-- The RESILIENCE section (R326). -/
def parseResil (s : Sect) (i : Image) : Chk Image := do
  let l := s.body
  let n := leField l 2 2
  let used := 16 + 4 * n
  need (decide (leField l 0 1 ≤ 2) && decide (leField l 1 1 ≤ 1) && zeros l 4 12) (s.bad 0)
  need (s.length = (used + 15) / 16 * 16 && zeros l used (s.length - used)) (s.bad 2)
  let cs := (List.range n).map fun k => (leField l (16 + 4 * k) 1, leField l (17 + 4 * k) 1, leField l (18 + 4 * k) 1)
  need (((List.range n).all fun k => zeros l (19 + 4 * k) 1) && cs.all fun c => decide (1 ≤ c.1) && decide (c.1 ≤ 6) && decide (1 ≤ c.2.1) && decide (c.2.1 ≤ 15)
    && decide (1 ≤ c.2.2) && decide (c.2.2 ≤ 16)) (s.bad 16)
  pure { i with profile := leField l 0 1, speculative := leField l 1 1 = 1, classes := cs }

/-- The POWER section (R327); the relation of MIN_W and MAX_W is judged under POWER. -/
def parsePower (s : Sect) (i : Image) : Chk Image := do
  let l := s.body
  let n := leField l 8 2
  let used := 16 + 8 * n
  need (zeros l 5 3 && zeros l 10 6 && s.length = (used + 15) / 16 * 16 && zeros l used (s.length - used)) (s.bad 0)
  let hs := (List.range n).map fun k =>
    (leField l (16 + 8 * k) 1, leField l (17 + 8 * k) 1, leField l (18 + 8 * k) 1, leField l (20 + 8 * k) 2)
  need (decide (leField l 4 1 ≤ 7)) (s.bad 4)
  need (((List.range n).all fun k => zeros l (19 + 8 * k) 1 && zeros l (22 + 8 * k) 2)
    && hs.all fun h => decide (h.2.2.1 < 8) && i.slots.any fun x => x.slot = h.1 && decide (h.2.1 < x.regions.length)) (s.bad 16)
  pure { i with minW := leField l 0 2, maxW := leField l 2 2, priority := leField l 4 1, hints := hs }

/-- A CORE_CODE section (R328). -/
def parseCode (s : Sect) (i : Image) : Chk Image := do
  let t := leField s.selector 0 1
  let r := leField s.selector 1 1
  let e : CodeE := { tower := t, row := r, mask := leField s.selector 2 2, base := leField s.selector 4 2
                     words := (List.range (s.length / 16)).map fun k => BitVec.ofNat 128 (leField s.body (16 * k) 16) }
  need (t * 16 + r ∈ i.rows) (s.bad 0)
  need (i.code.all fun c => c.tower ≠ t || c.row ≠ r || c.mask &&& e.mask = 0
    || decide (c.base + c.words.length ≤ e.base) || decide (e.base + e.words.length ≤ c.base)) (s.bad 0)
  pure { i with code := i.code ++ [e] }

/-- The records of a PANTRY_INIT body (R329), from an offset. -/
def parseInitList (s : Sect) (rows : List Nat) : Nat → Nat → Chk (List InitE)
  | 0, _ => .error (s.bad 0)
  | fuel + 1, o =>
    if o = s.length then pure []
    else do
      let l := s.body.drop o
      let kind := leField l 0 1
      let t := leField l 1 1
      let r := leField l 2 1
      let addr := leField l 8 4
      let len := leField l 12 4
      let body := if kind = 1 then len else 16
      let span := if kind = 1 then len else 16 * len
      need (decide (16 ≤ l.length) && (kind = 1 || kind = 2) && decide (t < 8) && decide (r < 16) && t * 16 + r ∈ rows && zeros l 3 1
        && zeros l 6 2 && addr % 16 = 0 && (kind = 2 || len % 16 = 0) && decide (addr + span ≤ sliceBytes)
        && decide (16 + body ≤ l.length)) (s.bad o)
      let bytes := if kind = 1 then (l.drop 16).take len else (List.replicate len ((l.drop 16).take 16)).flatten
      let rest ← parseInitList s rows fuel (o + 16 + body)
      pure ({ tower := t, row := r, mask := leField l 4 2, addr, bytes } :: rest)

/-- A PANTRY_INIT section (R329). -/
def parseInit (s : Sect) (i : Image) : Chk Image := do
  let es ← parseInitList s i.rows (s.length + 1) 0
  pure { i with inits := i.inits ++ es }

/-! ## Programs -/

/-- A refusal in a step of a program, at an entry. -/
def Sect.badStep (s : Sect) (status step entry o : Nat) : Bad :=
  { status, sect := s.idx, step, entry, offset := s.offset + o }

/-- One entry of a step block (R334 to R337): its bytes are `e`. Fields whose breach has a status of its own are taken
as they stand. -/
def parseStepEntry (i : Image) (slots : Nat) (e : List Byte) (t : Step) : Option Step :=
  let size := leField e 1 1
  match leField e 0 1 with
  | 0x01 =>
    let tower := leField e 2 1
    let row := leField e 3 1
    let last := leField e 8 2
    if size = 1 ∧ tower < 8 ∧ row < 16 ∧ tower * 16 + row ∈ i.rows ∧ leField e 6 2 < 4096
        ∧ (last = 0xFFFF ∨ (8 ≤ last ∧ last ≤ slots - 3)) ∧ zeros e 10 6 then
      some { t with cores := t.cores ++ [{ tower, row, mask := leField e 4 2, entry := leField e 6 2, last }] }
    else none
  | 0x02 =>
    let ep := leField e 2 1
    let c := leField e 6 2
    if size = 1 ∧ ep < 23 ∧ leField e 4 2 < latchCount ep ∧ c < nBundles ∧ leField e 8 1 < 18 ∧ zeros e 3 1 ∧ zeros e 9 7 then
      some { t with latches := t.latches ++ [{ ep, latch := leField e 4 2, corridor := c, lane := leField e 8 1 }] }
    else none
  | 0x03 =>
    if size = 2 ∧ leField e 2 2 < nBundles ∧ leField e 4 1 < 18 ∧ leField e 10 1 < 23 ∧ zeros e 0x18 8 then
      some { t with runs := t.runs ++
        [{ bundle := leField e 2 2, lane := leField e 4 1, cls := leField e 5 1, first := leField e 6 2, count := leField e 8 2
           dest := leField e 10 1, dkind := leField e 11 1, srcUnit := leField e 12 2, dstUnit := leField e 14 2
           srcAddr := leField e 16 4, dstAddr := leField e 20 4 }] }
    else none
  | 0x04 =>
    let n := leField e 0x14 1
    if size = 3 + (n + 3) / 4 ∧ zeros e 3 13 ∧ ((List.range n).all fun k => decide (bitsOf (leField e (0x30 + 4 * k) 4) 18 5 < 18)) ∧ zeros e (0x30 + 4 * n) (16 * size - 0x30 - 4 * n) then
      some { t with trees := t.trees ++
        [{ ep := leField e 2 1, id := leField e 0x10 2, ty := leField e 0x12 1, accum := bitOf (leField e 0x13 1) 0
           kind := leField e 0x15 1, unit := leField e 0x16 2, addr := leField e 0x18 8, slots := leField e 0x20 2
           srcs := (List.range n).map fun k =>
             let w := leField e (0x30 + 4 * k) 4
             (bitsOf w 23 9, bitsOf w 18 5, bitsOf w 7 11)
           zero := leField e 0x13 1 / 2 = 0 && zeros e 0x22 14 && (List.range n).all fun k => leField e (0x30 + 4 * k) 4 % 128 = 0 }] }
    else none
  | 0x05 =>
    if size = 1 ∧ leField e 2 1 < 20 ∧ zeros e 3 1 ∧ zeros e 6 10 then some { t with occ := t.occ ++ [(leField e 2 1, leField e 4 2)] }
    else none
  | _ => none

/-- The entries of a block: their offsets within it and their bytes; none where one does not fit (R333). -/
def blockEntries : Nat → Nat → List Byte → Option (List (Nat × List Byte))
  | 0, _, _ => none
  | fuel + 1, o, l =>
    if l.isEmpty then some []
    else
      let n := 16 * leField l 1 1
      if n = 0 ∨ l.length < n then none
      else (blockEntries fuel (o + n) (l.drop n)).map ((o, l.take n) :: ·)

/-- A step block (R333), with step index `k`, at offset `o` of the body. -/
def parseStep (s : Sect) (i : Image) (slots k o : Nat) (sw : Bool) (l : List Byte) : Chk Step := do
  match blockEntries (l.length + 1) 0 l with
  | none => .error (s.badStep stField k 0 o)
  | some es =>
    let t ← es.zipIdx.foldlM (fun t e =>
      match parseStepEntry i slots e.1.2 t with
      | some t => pure t
      | none => .error (s.badStep stField k e.2 (o + e.1.1))) ({ switchPt := sw, off := s.offset + o, ents := es.map fun e => (leField e.2 0 1, s.offset + o + e.1) } : Step)
    -- every logical core of the room's rows in exactly one CORE entry (R334)
    need (i.rows.all fun r => (List.range 16).all fun c =>
      (t.cores.filter fun x => x.tower * 16 + x.row = r && bitOf x.mask c).length = 1) (s.badStep stField k 0 o)
    pure t

/-- One entry of the program-wide block (R338). -/
def parseWide (i : Image) (variant : Bool) (e : List Byte) (p : Prog) : Option Prog :=
  let size := leField e 1 1
  let n := leField e 4 2
  match leField e 0 1 with
  | 0x10 =>
    let ms := (List.range n).map fun k => leField e (16 + 4 * k) 4
    if size = 1 + (4 * n + 15) / 16 ∧ leField e 3 1 < 23 ∧ zeros e 6 10 ∧ zeros e (16 + 4 * n) (16 * size - 16 - 4 * n)
        ∧ ms.all (fun w => bitsOf w 16 7 = 0 && decide (bitsOf w 27 5 < 23)
            && (if bitsOf w 27 5 < 8 then bitsOf w 27 5 * 16 + bitsOf w 23 4 ∈ i.rows else bitsOf w 23 4 = 0 && bitsOf w 0 16 = 1)) then
      some { p with bars := p.bars ++ [{ id := leField e 2 1, home := leField e 3 1
                                         members := ms.map fun w => (bitsOf w 27 5, bitsOf w 23 4, bitsOf w 0 16) }] }
    else none
  | 0x11 =>
    let ss := (List.range n).map fun k => (leField e (16 + 8 * k) 1, leField e (17 + 8 * k) 1, leField e (18 + 8 * k) 1, leField e (20 + 8 * k) 4)
    if size = 1 + (8 * n + 15) / 16 ∧ leField e 2 1 < 64 ∧ leField e 3 1 < 23 ∧ zeros e 6 10 ∧ zeros e (16 + 8 * n) (16 * size - 16 - 8 * n)
        ∧ ss.all (fun x => x.1 * 16 + x.2.1 ∈ i.rows && decide (x.2.1 < 16) && decide (x.2.2.1 < 16) && x.2.2.2 % 16 = 0
            && decide (x.2.2.2 + 16 ≤ sliceBytes))
        ∧ ((List.range n).all fun k => zeros e (19 + 8 * k) 1) then
      some { p with flags := p.flags ++ [{ id := leField e 2 1, home := leField e 3 1, subs := ss }] }
    else none
  | 0x12 =>
    if size = 1 ∧ variant ∧ leField e 2 2 < nBundles ∧ 1 ≤ leField e 4 1 ∧ leField e 4 1 ≤ 16 ∧ zeros e 5 11 then
      some { p with needs := p.needs ++ [(leField e 2 2, leField e 4 1)] }
    else none
  | _ => none

/-- A PROGRAM section (R330 to R338). -/
def parseProgram (s : Sect) (i : Image) : Chk Image := do
  let l := s.body
  let n := leField l 0 2
  let k := s.progKey
  let dir := 16 + 8 * (n + 1)
  need (decide (1 ≤ n) && zeros l 5 11 && decide (dir ≤ s.length)) (s.bad 0)
  need (decide (leField l 2 2 < n) && (leField l 4 1 = 0xFF || decide (leField l 4 1 < 16))) (s.bad 2)
  let entry (j : Nat) : Nat × Nat × Nat := (leField l (16 + 8 * j) 4, 16 * leField l (20 + 8 * j) 2, leField l (22 + 8 * j) 2)
  let es := (List.range (n + 1)).map entry
  need (es.zipIdx.all fun x => x.1.1 % 16 = 0 && decide (dir ≤ x.1.1 || x.1.2.1 = 0) && decide (x.1.1 + x.1.2.1 ≤ s.length)
    && decide (x.1.2.2 < (if x.2 = 0 then 1 else 2))) (s.bad 16)
  need (es.zipIdx.all fun a => es.zipIdx.all fun b => a.2 = b.2 || a.1.2.1 = 0 || b.1.2.1 = 0
    || decide (a.1.1 + a.1.2.1 ≤ b.1.1) || decide (b.1.1 + b.1.2.1 ≤ a.1.1)) (s.bad 16)
  let w := entry 0
  let base : Prog := { role := k.1, slot := k.2.1, phase := k.2.2.1, toPhase := k.2.2.2.1, variant := k.2.2.2.2, loopTo := leField l 2 2
                       nextPhase := leField l 4 1, sect := s.idx, off := s.offset }
  let p ← match blockEntries (w.2.1 + 1) 0 ((l.drop w.1).take w.2.1) with
    | none => .error (s.badStep stField 0xFFFF 0 w.1)
    | some ws => ws.zipIdx.foldlM (fun p e =>
        match parseWide i (k.1 = 0 && k.2.2.2.2 ≠ 0) e.1.2 p with
        | some p => pure p
        | none => Except.error (s.badStep stField 0xFFFF e.2 (w.1 + e.1.1))) base
  need (noRepeat (p.bars.map BarE.id) && noRepeat (p.flags.map FlagE.id) && noRepeat (p.needs.map Prod.fst)) (s.badStep stField 0xFFFF 0 w.1)
  -- a barrier or flag of several programs is declared identically in each (R338)
  need (i.progs.all fun q => (p.bars.all fun b => q.bars.all fun c => b.id ≠ c.id || b = c)
    && p.flags.all fun b => q.flags.all fun c => b.id ≠ c.id || b = c) (s.badStep stField 0xFFFF 0 w.1)
  let steps ← (List.range n).mapM fun j =>
    let x := entry (j + 1)
    parseStep s i (i.period * 16) j x.1 (bitOf x.2.2 0) ((l.drop x.1).take x.2.1)
  pure { i with progs := i.progs ++ [{ p with steps }] }

/-- What the ROOM and SLOTS sections of a table declare: the rows, and the slots; none where such a section is not there once or
cannot be read, so that its own refusal stands. -/
def declared (ss : List Sect) : Option (List Nat) × Option (List SlotE) :=
  let one (k : Nat) (f : Sect → Image → Chk Image) : Option Image :=
    match ss.filter fun s => s.kind = k && s.used with
    | [s] => (f s {}).toOption
    | _ => none
  ((one kRoom parseRoom).map Image.rows, (one kSlots parseSlots).map Image.slots)

/-- A selector names what the image declares: a member row, whose instruction stores it shares with no earlier section (R328); a
filled slot and its phases (R330). -/
def selectorKnown (ss : List Sect) (rows : Option (List Nat)) (slots : Option (List SlotE)) (s : Sect) : Bool :=
  let e (x : Sect) : Nat × Nat × Nat × Nat :=
    (leField x.selector 0 2, leField x.selector 2 2, leField x.selector 4 2, leField x.selector 4 2 + x.length / 16)
  if s.kind = kProgram then
    let k := s.progKey
    match slots with
    | some l => l.any fun x => x.slot = k.2.1 && decide (k.2.2.1 < x.regions.length) && decide (k.2.2.2.1 < x.regions.length)
    | none => true
  else if s.kind = kCode then
    let m := match rows with
      | some l => decide (leField s.selector 0 1 * 16 + leField s.selector 1 1 ∈ l)
      | none => true
    m && ss.all fun x => x.kind ≠ kCode || !x.used || decide (s.idx ≤ x.idx) || (e x).1 ≠ (e s).1 || (e x).2.1 &&& (e s).2.1 = 0
      || decide ((e x).2.2.2 ≤ (e s).2.2.1) || decide ((e s).2.2.2 ≤ (e x).2.2.1)
  else true

/-- The checks UNKNOWN_SECTION to MISSING (R340). -/
def checkKinds (ss : List Sect) : Chk Unit := do
  match ss.find? fun s => s.kind ∉ knownKinds && !s.opt with
  | some s => .error { status := stUnknown, sect := s.idx, offset := 128 + 64 * s.idx }
  | none => pure ()
  match ss.find? fun s => s.kind ∈ knownKinds && s.version ≠ 1 && !s.opt with
  | some s => .error { status := stVersion, sect := s.idx, offset := 128 + 64 * s.idx + 2 }
  | none => pure ()
  let n := declared ss
  match ss.find? fun s => s.kind ∈ knownKinds && s.version = 1 && !(selectorOk s && selectorKnown ss n.1 n.2 s) with
  | some s => .error { status := stField, sect := s.idx, offset := 128 + 64 * s.idx + 16 }
  | none => pure ()
  need (countsOk ss) { status := stMissing }

/-- The space that an image takes in the program store, in 4 KiB units (R341). -/
def storeUnits (ss : List Sect) : Nat :=
  let unit (n : Nat) : Nat := (n + 4095) / 4096
  ((ss.filter fun s => s.kind ∈ [kProgram, kLane, kResil, kPower, kRoom, kSlots] && s.version = 1).map fun s => unit s.length).foldl (· + ·) 0
    + unit (32 * ss.length)

/-- The bodies of the sections of one kind, in table order. -/
def foldKind (ss : List Sect) (k : Nat) (f : Sect → Image → Chk Image) (i : Image) : Chk Image :=
  (ss.filter fun s => s.kind = k && s.used).foldlM (fun i s => f s i) i

/-- The checks FIELD of R340: header fields and every sects body; with them a breach of R324, kept for its place. -/
def parseBody (l : List Byte) (ss : List Sect) : Chk (Image × Option Bad) := do
  need (zeros l 0x0E 2 && zeros l 0x29 7 && zeros l 0x40 60 && decide (8 ≤ leField l 0x28 1) && decide (leField l 0x28 1 ≤ 128))
    { status := stField, offset := 0x28 }
  let i : Image := { id := leField l 0x20 8, period := leField l 0x28 1, store := storeUnits ss
                     digest := sha256 (signedMessage l)
                     shas := (ss.filter fun s => s.used && (s.kind = kCode || s.kind = kInit)).map fun s =>
                       { code := s.kind = kCode, offset := s.offset, length := s.length, sha := s.sha } }
  match ss.find? fun s => s.kind = kSymbols && s.version = 1 && !s.opt with
  | some s => .error { status := stField, sect := s.idx, offset := 128 + 64 * s.idx + 4 }
  | none => pure ()
  let i ← foldKind ss kRoom parseRoom i
  let i ← foldKind ss kSlots parseSlots i
  match ss.find? fun s => s.kind = kSlots && s.used with
  | some s => homesOk s i.slices.length 0 i.slots
  | none => pure ()
  need (i.slots.any fun x => x.slot = i.initSlot && decide (i.initPhase < x.regions.length))
    { status := stField, sect := ((ss.find? fun s => s.kind = kRoom).map Sect.idx).getD 0xFFFF }
  let q := match ss.find? fun s => s.kind = kQueues && s.used with
    | some s => parseQueues s i
    | none => (i, none)
  let i ← foldKind ss kLane parseLane q.1
  let i ← foldKind ss kResil parseResil i
  let i ← foldKind ss kPower parsePower i
  let i ← foldKind ss kCode parseCode i
  let i ← foldKind ss kInit parseInit i
  let i ← foldKind ss kProgram parseProgram i
  pure (i, q.2)

/-- The whole of an image's own checks, in the order of R340. -/
def parseImage (l : List Byte) (len fw : Nat) (owner : Option (List Byte)) : Chk (Image × Option Bad) := do
  let ss ← parseHead l len fw
  checkSigned l owner ss
  checkKinds ss
  parseBody l ss

end Sys2Proof.Machine
end

