-- ==== Sys2Proof/Machine/Cellar.lean ====
section
/-! DEFINITION. Cellar memory (R261 to R285): addresses, lines and their protection, valid pages, CELREQ records, the
writes of the Hall, leaky buckets, scrub and invalidation. -/

namespace Sys2Proof.Machine

/-! ## Addresses -/

/-- Lines and pages of a slice (R261, R272). -/
def cellarLines : Nat := 15625000
def cellarPages : Nat := 244141

/-- The slice (as stack * 64 + slice) and slice address of a module cellar address; none where it is not backed (R262). -/
def moduleMap (a : Nat) : Option (Nat × Nat) :=
  let stack := bitsOf a 36 4
  let o := bitsOf a 0 36
  if stack < 12 ∧ o < 64000000000 then
    let g := o >>> 8
    some (stack * 64 + (bitsOf g 0 6 ^^^ bitsOf g 6 6 ^^^ bitsOf g 12 6), g / 64 * 256 + o % 256)
  else none

/-- The module cellar address of a slice address (R262, R339). -/
def moduleAddr (slice a : Nat) : Nat :=
  let h := a / 256
  let low := slice % 64 ^^^ bitsOf h 0 6 ^^^ bitsOf h 6 6
  slice / 64 * 2 ^ 36 + (h * 64 + low) * 256 + a % 256

/-- The slice and slice address of a room address, in the room's list of slices (R263). -/
def roomMap (slices : List Nat) (r : Nat) : Option (Nat × Nat) :=
  let g := r / 256
  match slices[g % slices.length]? with
  | some s => if r < slices.length * cellarBytes then some (s, g / slices.length * 256 + r % 256) else none
  | none => none

/-- The slices a loaded room holds, in the order of its image (R263, R322). -/
def Chip.roomSlices (c : Chip) (r : Nat) : List Nat := ((c.image r).map Image.slices).getD []

/-- The room that holds a slice. -/
def Chip.sliceRoom (c : Chip) (slice : Nat) : Option Nat := c.loadedRooms.find? fun r => slice ∈ c.roomSlices r

/-! ## State of slices and lines -/

/-- Change the cellar. -/
def Dev.onCel (d : Dev) (f : Cellar → Cellar) : Dev := d.onChip fun c => { c with cel := f c.cel }
/-- A slice. -/
def Chip.slice (c : Chip) (k : Nat) : Slice := Tab.get {} c.cel.slices k
/-- Change a slice. -/
def Dev.onSlice (d : Dev) (k : Nat) (f : Slice → Slice) : Dev := d.onCel fun x => { x with slices := Tab.upd {} x.slices k f }

/-- A slice cannot be reached: it is retired, or its stack or its quadrant is in reset (R268, R283). -/
def Chip.absent (c : Chip) (k : Nat) : Bool :=
  (c.slice k).retired || !(c.block (8 + k / 64)).up || !(c.block (22 + quadOfStack (k / 64))).up

/-- The key of a line, and of the page that holds it. -/
def lineKey (slice line : Nat) : Nat := slice * cellarLines + line
def pageKey (slice line : Nat) : Nat := slice * cellarPages + line / 64

/-- A page's bit (R272). -/
def Chip.pageValid (c : Chip) (slice line : Nat) : Bool := Tab.get false c.cel.valid (pageKey slice line)

/-- A line's husk bit. -/
def Chip.lineHusked (c : Chip) (slice line : Nat) : Bool := Tab.get false c.cel.husk (lineKey slice line)

/-- Count in a slice's registers. -/
def Dev.countSlice (d : Dev) (f : Fld) (slice : Nat) : Dev := d.count f 1 (slice / 64) 0 (slice % 64)

/-- The symbols of a line as the array holds it (R270): its 64 bytes, the metadata byte with the husk bit, and 8 check symbols. -/
def lineCode (bytes : List Byte) (husk : Bool) : List Nat :=
  let u := (padTo 64 0 bytes).map BitVec.toNat ++ [b2n husk]
  u ++ rsCheck 8 0x11D 8 u

/-- A symbol of a line comes to differ by `x` more. -/
def lineErr (e : Tab (Tab Nat)) (key sym x : Nat) : Tab (Tab Nat) :=
  Tab.upd [] e key fun t => Tab.upd 0 t (sym % 73) fun y => y ^^^ (x % 256)

/-- What the decoder corrects in a line with the symbols `e` in error (R270): up to two of them, none of three to six; more are
taken for two where the code has them alike, whose syndromes are those of `e`, and are else uncorrectable (log 109). -/
def lineFix (e : Tab Nat) : Option (Tab Nat) :=
  if e.length ≤ 2 then some e else if e.length ≤ 6 then none else rsTwo 8 0x11D 73 e

/-- A line becomes husked: it holds the record in each of its four words (R271, R437). -/
def Dev.lineHusk (d : Dev) (slice line : Nat) (rec : List Byte) : Dev :=
  (d.onCel fun x => { x with husk := Tab.put false x.husk (lineKey slice line) true, errs := Tab.del x.errs (lineKey slice line) }).memOp
    (.write (cellarAddr slice (64 * line)) (rec ++ rec ++ rec ++ rec))

/-- An uncorrectable line is found (R271): counted, logged, rewritten husked. -/
def Dev.lineUncorr (d : Dev) (slice line : Nat) : Dev :=
  let d := d.lineHusk slice line (huskRecord 2 0 slice d.chip.nodeId line d.chip.frm.cur)
  let d := (d.countSlice F.CEL_SLICE_UNCORR slice).flag F.CEL_INT_STATUS_UNCORR (slice / 64)
  (d.log { cls := clsCellarUncorr, kind := 7, index := slice, room := (d.chip.sliceRoom slice).getD 0xFF, detail := leBytes 4 line }).chanErr 5 slice

/-- A line is corrected and written back (R271, R276). -/
def Dev.lineCorrected (d : Dev) (slice line : Nat) : Dev :=
  ((d.onCel fun x => { x with errs := Tab.del x.errs (lineKey slice line) }).onSlice slice fun x =>
    { x with corr := x.corr + 1 }).countSlice F.CEL_SLICE_CORR slice

/-- The symbols in error that a line of a valid page stands with. -/
def Chip.lineErrs (c : Chip) (slice line : Nat) : Tab Nat :=
  if c.pageValid slice line then Tab.get [] c.cel.errs (lineKey slice line) else []

/-- A line is corrected by `fix` where `e` was wrong: what they differ in stays in its bytes and its metadata (R270). -/
def Dev.lineMiss (d : Dev) (slice line : Nat) (e fix : Tab Nat) : Dev :=
  let left (k : Nat) : Nat := Tab.get 0 e k ^^^ Tab.get 0 fix k
  let d := if bitOf (left 64) 0 then
      d.onCel fun x => { x with husk := Tab.upd false x.husk (lineKey slice line) Bool.not } else d
  if (List.range 64).all fun k => left k = 0 then d
  else d.memOp (.flip (cellarAddr slice (64 * line)) ((List.range 64).map fun k => BitVec.ofNat 8 (left k)))

/-- A line of a slice is accessed (R466). -/
def Dev.lineUse (d : Dev) (slice : Nat) : Dev := d.onCel fun x => { x with uses := Tab.upd 0 x.uses slice (· + 1) }

/-- A read of a line meets its errors (R270, R271, R273). -/
def Dev.lineMeet (d : Dev) (slice line : Nat) : Dev :=
  let d := d.lineUse slice
  let e := d.chip.lineErrs slice line
  if e = [] then d
  else match lineFix e with
    | some fix => (d.lineCorrected slice line).lineMiss slice line e fix
    | none => d.lineUncorr slice line

/-- The 64 bytes of a line as they stand; a line of an invalid page is zero (R273). -/
def Dev.lineBytes (d : Dev) (s : State) (slice line : Nat) : List Byte :=
  if d.chip.pageValid slice line then (d.memory s).bytes (cellarAddr slice (64 * line)) 64 else List.replicate 64 0

/-- Whether a line reads husked. -/
def Dev.lineBad (d : Dev) (slice line : Nat) : Bool := d.chip.pageValid slice line && d.chip.lineHusked slice line

/-- The first write into an invalid page: the page reads zero and its bit is set (R273). -/
def Dev.openPage (d : Dev) (slice line : Nat) : Dev :=
  if d.chip.pageValid slice line then d
  else
    let p := line / 64
    let lo := lineKey slice (64 * p)
    let out (k : Nat) : Bool := decide (k < lo) || decide (lo + 64 ≤ k)
    (d.onCel fun x => { x with valid := Tab.put false x.valid (pageKey slice line) true, husk := Tab.keep x.husk out, errs := Tab.keep x.errs out }).memOp
      (.clear (cellarAddr slice (4096 * p)) (min 4096 (cellarBytes - 4096 * p)))

/-- A write of enabled bytes of one line (R264, R271, R273): a line written whole loses its husk bit; one written in part
is read first and stays husked if it was. -/
def Dev.lineWrite (d : Dev) (slice line : Nat) (l : List (Option Byte)) : Dev :=
  if !l.any Option.isSome then d
  else
    let d := d.openPage slice line
    let d := if l.length = 64 ∧ l.all Option.isSome then
        (d.lineUse slice).onCel fun x => { x with husk := Tab.del x.husk (lineKey slice line), errs := Tab.del x.errs (lineKey slice line) }
      else d.lineMeet slice line
    { d with wr := d.wr ++ segs (cellarAddr slice (64 * line)) l }

/-- The 64-byte lines that a byte range touches. -/
def spanLines (a n : Nat) : List Nat := if n = 0 then [] else (List.range ((a + n - 1) / 64 - a / 64 + 1)).map (· + a / 64)

/-- The lines of a slice that a byte range of it touches. -/
def linesOf (a n : Nat) : List Nat := (spanLines a n).filter fun l => decide (l < cellarLines)

/-- The enabled bytes of line `line` in a write of `l` from slice address `a`. -/
def linePart (a : Nat) (l : List (Option Byte)) (line : Nat) : List (Option Byte) :=
  (List.range 64).map fun k => if 64 * line + k < a then none else l.getD (64 * line + k - a) none

/-- A line of a frame's gathered writes: where a husked word fell in it, it becomes husked with that word's record (R264, R271,
R413). -/
def Dev.gatherLine (d : Dev) (slice line : Nat) (ws : List HallWrite) : Dev :=
  let mine := ws.filter fun w => w.slice = slice && line ∈ linesOf w.addr w.bytes.length
  let l := mine.foldl (fun (l : List (Option Byte)) w => (linePart w.addr (w.bytes.map some) line).zipWith Option.or l) (List.replicate 64 none)
  let husks := mine.flatMap fun w => (List.range ((w.bytes.length + 15) / 16)).filterMap fun k =>
    if bitOf w.husks k ∧ ((w.addr + 16 * k) / 64 = line ∨ (w.addr + 16 * k + 15) / 64 = line) then some ((w.bytes.drop (16 * k)).take 16) else none
  let d := d.lineWrite slice line l
  match husks with
  | r :: _ => d.lineHusk slice line r
  | [] => d

/-- The writes of one frame at a stack, gathered line by line (R264). A retired slice drops and counts them (R283). -/
def Dev.gatherFrame (d : Dev) (ws : List HallWrite) : Dev :=
  let d := (ws.filter fun w => (d.chip.slice w.slice).retired).foldl (fun d w => d.onSlice w.slice fun x => { x with ovf := satAdd 16 x.ovf 1 }) d
  let ws := ws.filter fun w => !d.chip.absent w.slice
  let lines := (ws.flatMap fun w => (linesOf w.addr w.bytes.length).map fun l => (w.slice, l)).eraseDups
  lines.foldl (fun d x => d.gatherLine x.1 x.2 ws) d

/-! ## CELREQ records -/

/-- The statuses of R268. -/
def celOk : Nat := 0
def celHusk : Nat := 1
def celAbsent : Nat := 2
def celRange : Nat := 3
def celDenied : Nat := 4
def celBadReq : Nat := 5
def celBusy : Nat := 6

/-- The operand size of an atomic code (R404). -/
def atomicSize (op : Nat) : Nat := if op = 1 ∨ op = 3 ∨ op = 5 ∨ op = 7 ∨ op = 8 ∨ op = 13 ∨ op = 14 then 4 else 8

/-- What an atomic operation leaves in its target (R404). -/
def atomicResult (op t x cmp : Nat) : Nat :=
  let smin (w : Nat) : Nat := if toSigned w x < toSigned w t then x % 2 ^ w else t
  let smax (w : Nat) : Nat := if toSigned w t < toSigned w x then x % 2 ^ w else t
  match op with
  | 1 => (t + x) % 2 ^ 32
  | 2 => (t + x) % 2 ^ 64
  | 3 => (addF32 (BitVec.ofNat 32 t) (BitVec.ofNat 32 x)).toNat
  | 4 => if t = cmp then x else t
  | 5 => x % 2 ^ 32
  | 6 => x
  | 7 => smin 32
  | 8 => smax 32
  | 9 => smin 64
  | 10 => smax 64
  | 11 => min t x
  | 12 => max t x
  | 13 => (toF32 ((f32 (BitVec.ofNat 32 t)).min (f32 (BitVec.ofNat 32 x)))).toNat
  | 14 => (toF32 ((f32 (BitVec.ofNat 32 t)).max (f32 (BitVec.ofNat 32 x)))).toNat
  | _ => t

/-- A record's fields keep R267. -/
def celRecOk (x : CelRec) (kind op : Nat) : Bool :=
  x.zeros && decide (x.room < 16) && decide (x.slice < 64) && decide (x.reply < 23) && decide (x.line < 2 ^ 24)
    && (match kind with
        | 1 => decide (1 ≤ x.count) && decide (x.count ≤ 16) && x.off = 0
        | 2 => x.count = 1 && x.off = 0
        | _ => decide (1 ≤ op) && decide (op ≤ 14) && x.off % atomicSize op = 0 && decide (x.off + atomicSize op ≤ 64))

/-- Records of a room that are pending at a stack (R269): accepted, and their last reply not yet sent. -/
def Chip.celPending (c : Chip) (stack owner : Nat) : Nat :=
  (c.cel.reqs.filter fun q => q.slice / 64 = stack && q.owner = owner && q.status = 0).length
    + (c.cel.rsps.filter fun r => r.stack = stack && r.owner = owner && r.place).length

/-- The first status that applies to a record (R268); 0 where it is to be performed. -/
def Chip.celStatus (c : Chip) (x : CelRec) (kind op : Nat) : Nat :=
  let k := x.stack * 64 + x.slice
  if !celRecOk x kind op ∨ (x.pf ∧ x.sender ≠ 22) ∨ (x.owner ≠ 16 ∧ x.room ≠ x.owner) ∨ (x.owner = 16 ∧ !x.pf) then celBadReq
  else if !x.pf ∧ c.sliceRoom k ≠ some x.room then celDenied
  else if cellarLines ≤ x.line then celRange
  else if c.absent k then celAbsent
  else if 256 ≤ c.celPending x.stack x.owner then celBusy
  else celOk

/-- Put a request in the order of its frame's slots and records. -/
def placeReq (x : CelReq) : List CelReq → List CelReq
  | [] => [x]
  | y :: t => if frameLater y.frame x.frame || (x.frame = y.frame && decide (x.order < y.order)) then x :: y :: t else y :: placeReq x t

/-- A record reaches a stack (R267 to R269): it is judged and waits to be taken. -/
def celRequest (x : CelRec) (kind op : Nat) (data : List Byte) (enables operand compare : Nat) (d : Dev) : Dev :=
  if 12 ≤ x.stack then d
  else
    let status := d.chip.celStatus x kind op
    let frame := if x.late then frameSub d.chip.frm.cur 1 else d.chip.frm.cur
    let q : CelReq := { order := x.order, frame, owner := x.owner, room := x.room, pf := x.pf, tag := x.tag, slice := x.stack * 64 + x.slice % 64, sliceByte := x.slice
                        kind, count := x.count, op, reply := x.reply, off := x.off, line := x.line, dest := x.dest
                        data := padTo 64 0 data, enables, operand, compare, status, husk := x.husk }
    let d := d.onCel fun c => { c with reqs := placeReq q c.reqs }
    if status = celBusy then d.count F.CEL_REQ_BUSY 1 x.stack else d

/-- The reply to one record, without its data. -/
def CelReq.rsp (q : CelReq) (status : Nat) : CelRsp :=
  { stack := q.slice / 64, owner := q.owner, reply := q.reply, isData := q.kind = 1, room := q.room, pf := q.pf, tag := q.tag, slice := q.sliceByte
    seq := 0, status, line := q.line, dest := q.dest, place := q.status = 0 }

/-- Add replies in taken order. -/
def Dev.addRsps (d : Dev) (l : List CelRsp) : Dev := d.onCel fun c => { c with rsps := c.rsps ++ l }

/-- The status of a record as it is taken: its slice may have become absent since it was judged (R268, R283). -/
def Chip.takenStatus (c : Chip) (q : CelReq) : Nat := if q.status = celOk ∧ c.absent q.slice then celAbsent else q.status

/-- Perform a write or an atomic; its acknowledgement (R267, R268, R404, R413). -/
def Dev.celStore (s : State) (d : Dev) (q : CelReq) : CelRsp × Dev :=
  let st := d.chip.takenStatus q
  if st ≠ celOk then (q.rsp st, d)
  else if q.kind = 2 ∧ q.husk.isSome then
    (q.rsp celOk, (d.openPage q.slice q.line).lineHusk q.slice q.line ((q.data.drop (16 * q.husk.getD 0)).take 16))
  else if q.kind = 2 then
    (q.rsp celOk, d.lineWrite q.slice q.line (q.data.mapIdx fun k b => if bitOf q.enables k then some b else none))
  else
    let d := d.lineMeet q.slice q.line
    if d.lineBad q.slice q.line then (q.rsp celHusk, d)
    else
      let n := atomicSize q.op
      let t := ofLe (((d.lineBytes s q.slice q.line).drop q.off).take n)
      let v := atomicResult q.op t (q.operand % 2 ^ (8 * n)) q.compare
      ({ q.rsp celOk with result := t },
        d.lineWrite q.slice q.line ((List.range 64).map fun k =>
          if q.off ≤ k ∧ k < q.off + n then (leBytes n v)[k - q.off]? else none))

/-- Serve a read: one data reply per line (R267, R268). A line beyond the slice's end is answered RANGE. -/
def Dev.celLoad (s : State) (d : Dev) (q : CelReq) : List CelRsp × Dev :=
  let n := if q.status = celBadReq then 1 else q.count
  (List.range n).foldl (fun (acc : List CelRsp × Dev) k =>
    let line := q.line + k
    let st := acc.2.chip.takenStatus q
    let base : CelRsp := { q.rsp st with seq := k, line, place := q.status = 0 && k + 1 = n }
    if cellarLines ≤ line ∧ (st = celOk ∨ st = celAbsent ∨ st = celBusy) then (acc.1 ++ [{ base with status := celRange }], acc.2)
    else if st ≠ celOk then (acc.1 ++ [base], acc.2)
    else
      let d := acc.2.lineMeet q.slice line
      (acc.1 ++ [{ base with status := if d.lineBad q.slice line then celHusk else celOk, data := d.lineBytes s q.slice line }], d)) ([], d)

/-- The Hall writes of the frames that are due are applied at a stack, frame by frame (R212, R264). -/
def Dev.applyWrites (d : Dev) (stack : Nat) (due : Nat → Bool) : Dev :=
  let w := d.chip.cel.writes.filter fun x => x.slice / 64 = stack && due x.frame
  let d := d.onCel fun c => { c with writes := c.writes.filter fun x => !(x.slice / 64 = stack && due x.frame) }
  (w.map HallWrite.frame).eraseDups.foldl (fun d n => d.gatherFrame (w.filter fun x => x.frame = n)) d

/-- The channel of a slice retrains in the running frame: eight channels of a stack in each idle frame, in their order (R488). -/
def Chip.retraining (c : Chip) (slice : Nat) : Bool :=
  let left := Tab.get 0 c.cal.phyLeft (slice / 64)
  let ch := slice % 64 / 2
  c.frm.idle && decide (0 < left) && decide (32 - left ≤ ch) && decide (ch < 40 - left)

/-- The records of a frame are taken at a stack, but for those that wait while a channel retrains (R488): all writes and atomics of a slice before its reads; the replies in the
order of taking (R269). -/
def Dev.takeReqs (s : State) (d : Dev) (stack : Nat) (due : Nat → Bool) : Dev :=
  let now (x : CelReq) : Bool := x.slice / 64 = stack && due x.frame && !d.chip.retraining x.slice
  let qs := d.chip.cel.reqs.filter now
  let d := d.onCel fun c => { c with reqs := c.reqs.filter fun x => !now x }
  let stores := qs.foldl (fun (acc : List (Nat × CelRsp) × Dev) q =>
    if q.kind = 1 then acc
    else
      let r := acc.2.celStore s q
      (acc.1 ++ [(q.order, r.1)], r.2)) ([], d)
  let all := qs.foldl (fun (acc : List CelRsp × List (Nat × CelRsp) × Dev) q =>
    if q.kind = 1 then
      let r := acc.2.2.celLoad s q
      (acc.1 ++ r.1, acc.2.1, r.2)
    else (acc.1 ++ (acc.2.1.take 1).map Prod.snd, acc.2.1.drop 1, acc.2.2)) ([], stores.1, stores.2)
  all.2.2.addRsps all.1

/-- Frames before the running one. -/
def Chip.before (c : Chip) (f : Nat) : Bool := frameLater c.frm.cur f

/-- What a stack does after the last retry slot of a frame: the writes of the frame before, then its records (R264, R269). -/
def cellarApply (stack : Nat) (s : State) (d : Dev) : Dev :=
  (d.applyWrites stack d.chip.before).takeReqs s stack d.chip.before

/-- Every stack does it at the end of a frame, where it has not been commanded. -/
def Dev.cellarFrame (s : State) (d : Dev) : Dev := (List.range 12).foldl (fun d k => cellarApply k s d) d

/-! ## Replies -/

/-- The 16-byte head of a reply (R268). -/
def CelRsp.head (r : CelRsp) : List Byte :=
  leBytes 1 (if r.isData then 0x81 else 0x82) ++ leBytes 1 (r.room + 128 * b2n r.pf) ++ leBytes 2 r.tag ++ leBytes 1 r.slice
    ++ leBytes 1 (if r.isData then r.seq else 0) ++ leBytes 1 r.status ++ leBytes 1 0
    ++ (if r.isData then leBytes 4 r.line ++ leBytes 4 r.dest else leBytes 8 r.result)

/-- The payload of a data slot (R268). -/
def CelRsp.payload (r : CelRsp) : List Byte :=
  padTo 112 0 (r.head ++ (if r.status = celOk ∨ r.status = celHusk then padTo 64 0 r.data else List.replicate 64 0))

/-- The first slot's worth of pending replies from a stack to an endpoint, for the lanes of one owner: a data slot, or up
to seven acknowledgements (R268, R269). -/
def rspSlot (l : List CelRsp) : List CelRsp :=
  match l with
  | [] => []
  | r :: _ => if r.isData then [r] else (l.takeWhile fun x => !x.isData).take 7

/-- The bytes of such a slot; those of a husked line travel in the husk pattern: the mask of husked words. -/
def rspPayload (l : List CelRsp) : List Byte × Nat :=
  match l with
  | [] => (List.replicate 112 0, 0)
  | r :: _ => if r.isData then (r.payload, if r.status = celHusk then 0b0011110 else 0) else (padTo 112 0 (l.flatMap CelRsp.head), 0)

/-- The replies of a stack that go to an endpoint on the lanes of an owner. -/
def Chip.rspsFor (c : Chip) (stack owner ep : Nat) : List CelRsp :=
  c.cel.rsps.filter fun r => r.stack = stack && r.owner = owner && r.reply = ep

/-- Take the next slot of replies (R269). -/
def Dev.takeRsp (d : Dev) (stack owner ep : Nat) : List CelRsp × Dev :=
  let l := rspSlot (d.chip.rspsFor stack owner ep)
  (l, d.onCel fun c => { c with rsps := l.foldl (fun a r => a.erase r) c.rsps })

/-- The step of a room provides CELRSP slots from a stack to an endpoint; host slots always do (R269, R538). -/
def Chip.rspSlots (c : Chip) (stack owner ep : Nat) : Bool :=
  if owner = 16 then true
  else match c.roomStep owner with
    | some t => t.runs.any fun r => endpointOf r.bundle = 8 + stack && r.dest = ep && r.cls = clsCelRsp
    | none => false

/-- One CELRSP slot goes out (R269). -/
def celRspSend (stack owner ep : Nat) (d : Dev) : Dev :=
  if !d.chip.rspSlots stack owner ep ∨ (d.chip.rspsFor stack owner ep).isEmpty then d
  else
    let r := d.takeRsp stack owner ep
    r.2.emit (.record ep (rspPayload r.1).1)

/-! ## Buckets -/

/-- A slice's bucket leaks (R276). -/
def Dev.leak (d : Dev) (stack : Nat) : Dev :=
  let d := (List.range 64).foldl (fun d k =>
    if (d.chip.slice (stack * 64 + k)).level = 0 then d else d.onSlice (stack * 64 + k) fun x => { x with level := x.level - 1 }) d
  d.onCel fun c => { c with leaked := Tab.ins c.leaked stack (nextFrame d.chip.frm.cur + 1) }

/-- The threshold to come leaks the buckets of a stack, and has not yet. -/
def Chip.leakDue (c : Chip) (stack : Nat) : Bool :=
  nextFrame c.frm.cur % c.fld F.CEL_CE_CTL_LEAK stack = 0 && Tab.get 0 c.cel.leaked stack ≠ nextFrame c.frm.cur + 1

/-- BUCKET_LEAK at the threshold that ends the running frame. -/
def bucketLeak (stack : Nat) (d : Dev) : Dev := if stack < 12 ∧ d.chip.leakDue stack then d.leak stack else d

/-- A bucket overflows, at level `v` (R276). -/
def Dev.bucketOver (d : Dev) (k v : Nat) : Dev :=
  let f := if k % 64 < 32 then F.CEL_CE_OVF_LO else F.CEL_CE_OVF_HI
  let key := regKey (f.addrOf (k / 64) 0) 0
  let was := bitOf ((Tab.get 0 d.ev key).toNat ||| (Tab.get 0 d.pubEv key).toNat) (k % 32)
  let d := d.onSlice k fun x => { x with ovf := satAdd 16 x.ovf 1, level := d.chip.fld F.CEL_CE_CTL_DEPTH (k / 64) }
  let d := d.flagMask f (2 ^ (k % 32)) (k / 64)
  let d := if was then d else d.flag F.CEL_INT_STATUS_CE_OVF (k / 64)
  (d.log { cls := clsCellarCe, kind := 7, index := k, room := (d.chip.sliceRoom k).getD 0xFF, detail := leBytes 4 v }).chanErr 5 k

/-- The buckets at the end of a frame: the leak, then the frame's corrections (R276). -/
def Dev.bucketFrame (d : Dev) : Dev :=
  let d := (List.range 12).foldl (fun d n => bucketLeak n d) d
  (d.chip.cel.slices.map Prod.fst).foldl (fun d k =>
    let x := d.chip.slice k
    let d := d.onSlice k fun x => { x with corr := 0 }
    let v := x.level + x.corr
    if d.chip.fld F.CEL_CE_CTL_DEPTH (k / 64) < v then d.bucketOver k v else d.onSlice k fun y => { y with level := v }) d

/-! ## Scrub -/

/-- A stack's scrubber. -/
def Chip.scrubber (c : Chip) (n : Nat) : Scrub := Tab.get {} c.cel.scrub n
/-- Change it. -/
def Dev.onScrub (d : Dev) (n : Nat) (f : Scrub → Scrub) : Dev := d.onCel fun c => { c with scrub := Tab.upd {} c.scrub n f }

/-- A START takes effect at the threshold that begins the running frame (R277). -/
def effectScrub (n : Nat) (d : Dev) : Dev :=
  if (d.chip.scrubber n).st = 1 then d.flag F.CEL_SCRUB_STATUS_REFUSED n
  else
    let c := d.chip
    d.onScrub n fun x =>
      { st := 1, slices := c.pair F.CEL_SCRUB_MASK_LO F.CEL_SCRUB_MASK_HI n, first := c.fld F.CEL_SCRUB_FIRST n
        last := min (c.fld F.CEL_SCRUB_LAST n) (cellarLines - 1), began := c.frm.cur, sum := x.sum }

/-- Next line of a slice of a pass. -/
def Scrub.line (x : Scrub) (slice : Nat) : Nat := max x.first (Tab.get 0 x.next slice)

/-- The scrubber reads the next line of a slice (R277, R279), unless its channel retrains (R488). `raced`: a write reaches the line before the write-back, which is then
dropped; the read still finds, once, that a line is uncorrectable. -/
def scrubLine (n slice : Nat) (raced : Bool) (d : Dev) : Dev :=
  let x := d.chip.scrubber n
  let line := x.line slice
  if 12 ≤ n ∨ x.st ≠ 1 ∨ !bitOf x.slices slice ∨ 64 ≤ slice ∨ x.last < line ∨ d.chip.retraining (n * 64 + slice) then d
  else
    let k := n * 64 + slice
    let d := d.onScrub n fun x => { x with next := Tab.ins x.next slice (line + 1) }
    if !d.chip.pageValid k line then d.onScrub n fun x => { x with skipped := x.skipped + 1 }
    else
      let d := d.onScrub n fun x => { x with checked := x.checked + 1 }
      let errs := d.chip.lineErrs k line
      if raced ∧ (lineFix errs).isSome ∧ !d.lineBad k line then d
      else
        let d := d.lineMeet k line
        if d.lineBad k line then
          d.onScrub n fun x => { x with uncorr := x.uncorr + 1, firstBad := x.firstBad.orElse fun _ => some (slice, line) }
        else if errs ≠ [] then d.onScrub n fun x => { x with corrected := x.corrected + 1 }
        else d

/-- The summary of a pass that ends in frame `now` (R280). -/
def Scrub.summary (x : Scrub) (now : Nat) : List Nat :=
  let lohi (v : Nat) : List Nat := [v % 2 ^ 32, v / 2 ^ 32 % 2 ^ 32]
  lohi x.checked ++ [x.corrected, x.uncorr, x.skipped, match x.firstBad with
    | some b => 2 ^ 31 + b.1 * 2 ^ 24 + b.2
    | none => 0] ++ lohi (frameSub now x.began)

/-- A pass ends in state `st`, 2 DONE or 3 ABORTED (R280). -/
def Dev.endScrub (d : Dev) (n st : Nat) : Dev :=
  d.onScrub n fun x => { x with st, ended := d.chip.frm.cur, sum := x.summary d.chip.frm.cur }

/-- A reset of the stack ends a pass under way as ABORTED; else the scrubber is IDLE again (R280). -/
def Dev.resetScrub (d : Dev) (n : Nat) : Dev :=
  if (d.chip.scrubber n).st = 1 then d.endScrub n 3 else d.onCel fun c => { c with scrub := Tab.del c.scrub n }

/-- SCRUB_DONE: every line of every named slice has been read. -/
def scrubDone (n : Nat) (d : Dev) : Dev :=
  let x := d.chip.scrubber n
  if n < 12 ∧ x.st = 1 ∧ (bitList 64 x.slices).all fun k => decide (x.last < x.line k) then (d.endScrub n 2).flag F.CEL_INT_STATUS_SCRUB_DONE n else d

/-! ## Invalidation, starts and retirement -/

/-- An invalidation takes effect (R275): refused as a whole where a named slice belongs to a loaded room that is not
halted. -/
def effectInval (n : Nat) (d : Dev) : Dev :=
  let c := d.chip
  let named := bitList 64 (c.pair F.CEL_INVAL_MASK_LO F.CEL_INVAL_MASK_HI n)
  let lo := c.fld F.CEL_INVAL_FIRST n
  let hi := c.fld F.CEL_INVAL_LAST n
  let refused := named.any fun k => match c.sliceRoom (n * 64 + k) with
    | some r => (c.room r).st ≠ .halted
    | none => false
  let d := if refused then d
    else d.onCel fun x => { x with valid := Tab.keep x.valid fun k =>
      let s := k / cellarPages
      let p := k % cellarPages
      !(s / 64 = n && (s % 64) ∈ named && decide (lo ≤ p) && decide (p ≤ hi)) }
  (d.onCel fun x => { x with inval := Tab.ins x.inval n (if refused then 2 else 1) }).flag F.CEL_INT_STATUS_INVAL_DONE n

/-- Every start of a stack clears its valid-page table; its pending records, replies and writes are gone (R274, R516). -/
def Dev.startStack (d : Dev) (n : Nat) : Dev :=
  d.onCel fun x => { x with valid := Tab.keep x.valid (fun k => k / cellarPages / 64 ≠ n), reqs := x.reqs.filter (fun q => q.slice / 64 ≠ n)
                            rsps := x.rsps.filter (fun r => r.stack ≠ n), writes := x.writes.filter fun w => w.slice / 64 ≠ n }

/-- A slice is retired at this threshold (R283); `cause` is that of R501. -/
def Dev.retireSlice (d : Dev) (k cause : Nat) : Dev :=
  let d := d.onSlice k fun x => { x with retired := true, ovf := 0, due := none }
  let b := d.chip.block (8 + k / 64)
  let d := if b.st = .ready then d.onChip fun c => c.setBlock (8 + k / 64) { b with st := .degraded } else d
  ((d.flag F.CEL_INT_STATUS_SLICE_RETIRED (k / 64)).appendRetire 6 cause k).log
    { cls := clsRetire, kind := 7, index := k, permanent := cause = 1 }

/-- The slices whose retirement falls due at the threshold that begins the running frame. -/
def Dev.retireSlices (d : Dev) : Dev :=
  (d.chip.cel.slices.filter fun p => p.2.due = some d.chip.frm.cur).foldl (fun d p => d.retireSlice p.1 1) d

/-- A room reset discards the room's pending records and replies (R269). -/
def Dev.resetCellar (d : Dev) (r : Nat) : Dev :=
  d.onCel fun x => { x with reqs := x.reqs.filter (fun q => q.owner ≠ r), rsps := x.rsps.filter fun q => q.owner ≠ r }

open Host

/-- READ (R267). -/
def execRead (x : CelRec) (s : State) : Outcome State Fault Refusal := runs s (celRequest x 1 0 [] 0 0 0)
/-- WRITE of the bytes of a line that `enables` names (R267). -/
def execWrite (x : CelRec) (enables : Nat) (data : List Byte) (s : State) : Outcome State Fault Refusal :=
  runs s (celRequest x 2 0 data enables 0 0)

/-- FADD32: an ATOMIC record, 32-bit integer add (R404). -/
def execFadd32 (x : CelRec) (operand compare : Nat) (s : State) : Outcome State Fault Refusal :=
  runs s (celRequest x 3 1 [] 0 operand compare)
/-- FADD64: an ATOMIC record, 64-bit integer add (R404). -/
def execFadd64 (x : CelRec) (operand compare : Nat) (s : State) : Outcome State Fault Refusal :=
  runs s (celRequest x 3 2 [] 0 operand compare)
/-- FADDF: an ATOMIC record, FP32 add (R404). -/
def execFaddf (x : CelRec) (operand compare : Nat) (s : State) : Outcome State Fault Refusal :=
  runs s (celRequest x 3 3 [] 0 operand compare)
/-- CAS64: an ATOMIC record, 64-bit compare and swap (R404). -/
def execCas64 (x : CelRec) (operand compare : Nat) (s : State) : Outcome State Fault Refusal :=
  runs s (celRequest x 3 4 [] 0 operand compare)
/-- SWAP32: an ATOMIC record, 32-bit swap (R404). -/
def execSwap32 (x : CelRec) (operand compare : Nat) (s : State) : Outcome State Fault Refusal :=
  runs s (celRequest x 3 5 [] 0 operand compare)
/-- SWAP64: an ATOMIC record, 64-bit swap (R404). -/
def execSwap64 (x : CelRec) (operand compare : Nat) (s : State) : Outcome State Fault Refusal :=
  runs s (celRequest x 3 6 [] 0 operand compare)
/-- SMIN32: an ATOMIC record, signed 32-bit minimum (R404). -/
def execSmin32 (x : CelRec) (operand compare : Nat) (s : State) : Outcome State Fault Refusal :=
  runs s (celRequest x 3 7 [] 0 operand compare)
/-- SMAX32: an ATOMIC record, signed 32-bit maximum (R404). -/
def execSmax32 (x : CelRec) (operand compare : Nat) (s : State) : Outcome State Fault Refusal :=
  runs s (celRequest x 3 8 [] 0 operand compare)
/-- SMIN64: an ATOMIC record, signed 64-bit minimum (R404). -/
def execSmin64 (x : CelRec) (operand compare : Nat) (s : State) : Outcome State Fault Refusal :=
  runs s (celRequest x 3 9 [] 0 operand compare)
/-- SMAX64: an ATOMIC record, signed 64-bit maximum (R404). -/
def execSmax64 (x : CelRec) (operand compare : Nat) (s : State) : Outcome State Fault Refusal :=
  runs s (celRequest x 3 10 [] 0 operand compare)
/-- UMIN64: an ATOMIC record, unsigned 64-bit minimum (R404). -/
def execUmin64 (x : CelRec) (operand compare : Nat) (s : State) : Outcome State Fault Refusal :=
  runs s (celRequest x 3 11 [] 0 operand compare)
/-- UMAX64: an ATOMIC record, unsigned 64-bit maximum (R404). -/
def execUmax64 (x : CelRec) (operand compare : Nat) (s : State) : Outcome State Fault Refusal :=
  runs s (celRequest x 3 12 [] 0 operand compare)
/-- FMIN: an ATOMIC record, FP32 minimum (R404). -/
def execFmin (x : CelRec) (operand compare : Nat) (s : State) : Outcome State Fault Refusal :=
  runs s (celRequest x 3 13 [] 0 operand compare)
/-- FMAX: an ATOMIC record, FP32 maximum (R404). -/
def execFmax (x : CelRec) (operand compare : Nat) (s : State) : Outcome State Fault Refusal :=
  runs s (celRequest x 3 14 [] 0 operand compare)

/-- CELRSP_SEND: one slot of pending replies goes from a stack to an endpoint on the lanes of a room, or with `owner` 16 on
a host slot (R269). -/
def execCelrspSend (stack owner ep : Nat) (s : State) : Outcome State Fault Refusal := runs s (celRspSend stack owner ep)

/-- CELLAR_WRITE_APPLY: the last retry slot of the running frame has ended at a stack (R264, R269). -/
def execCellarWriteApply (stack : Nat) (s : State) : Outcome State Fault Refusal :=
  runs s fun d => if stack < 12 then cellarApply stack s d else d

/-- BUCKET_LEAK (R276). -/
def execBucketLeak (stack : Nat) (s : State) : Outcome State Fault Refusal := runs s (bucketLeak stack)

/-- SCRUB_START: a write of START is staged (R277). -/
def execScrubStart (r : Requester) (n t : Nat) (s : State) : Outcome State Fault Refusal :=
  runs s fun d => if isPf r ∧ n < 12 then d.stageFld r t F.CEL_SCRUB_CTL_START 1 n else d

/-- SCRUB_LINE (R278, R279). -/
def execScrubLine (n slice : Nat) (raced : Bool) (s : State) : Outcome State Fault Refusal := runs s (scrubLine n slice raced)

/-- SCRUB_DONE (R280). -/
def execScrubDone (n : Nat) (s : State) : Outcome State Fault Refusal := runs s (scrubDone n)

/-- INVAL_START: a write of START is staged (R275). -/
def execInvalStart (r : Requester) (n t : Nat) (s : State) : Outcome State Fault Refusal :=
  runs s fun d => if isPf r ∧ n < 12 then d.stageFld r t F.CEL_INVAL_CTL_START 1 n else d

end Sys2Proof.Machine
end

