-- ==== Sys2Proof/Machine/ImageCheck.lean ====
section
/-! DEFINITION. The checks of R340 from PERIOD to POWER, made against device state at the moment of acceptance. -/

namespace Sys2Proof.Machine

/-- The steps of every program, with the section and the step index. -/
def Image.allSteps (i : Image) : List (Nat × Nat × Step) := i.progs.flatMap fun p => p.steps.zipIdx.map fun t => (p.sect, t.2, t.1)

/-- The entry of a step that stands `k`th among those of a type: its index in the block and its offset in the image. -/
def Step.entryAt (t : Step) (type k : Nat) : Nat × Nat :=
  (((t.ents.zipIdx.filter fun e => e.1.1 = type).map fun e => (e.2, e.1.2)).getD k (0, t.off))

/-- The members of a list that fail a test, as entries of a type whose failing field stands at `field`. -/
def failing {α : Type} (type field : Nat) (l : List α) (ok : α → Bool) : List (Nat × Nat × Nat) :=
  (l.zipIdx.filter fun x => !ok x.1).map fun x => (type, x.2, field)

/-- The members of a list that share what `key` gives with an earlier one. -/
def repeats {α : Type} (type field : Nat) (l : List α) (key : α → Nat) : List (Nat × Nat × Nat) :=
  failing type field (l.zipIdx) fun x => (l.take x.2).all fun y => key y ≠ key x.1

/-- A failure that no one entry of the step causes. -/
def whole (ok : Bool) : List (Nat × Nat × Nat) := if ok then [] else [(0, 0, 0)]

/-- The first of a step's failures in the order of its entries: the entry and the offset of the field (R340). -/
def Step.firstBad (t : Step) (l : List (Nat × Nat × Nat)) : Option (Nat × Nat) :=
  let at' (x : Nat × Nat × Nat) : Nat × Nat := ((t.entryAt x.1 x.2.1).1, (t.entryAt x.1 x.2.1).2 + x.2.2)
  (l.map at').foldl (fun a x => match a with
    | none => some x
    | some y => some (if x.1 < y.1 then x else y)) none

/-- Refuse with the first step that has a failure, and its first entry that has one. -/
def stepsOk (i : Image) (status : Nat) (bad : Step → List (Nat × Nat × Nat)) : Chk Unit :=
  match i.allSteps.find? fun t => bad t.2.2 ≠ [] with
  | some t =>
    let x := (t.2.2.firstBad (bad t.2.2)).getD (0, t.2.2.off)
    .error { status, sect := t.1, step := t.2.1, entry := x.1, offset := x.2 }
  | none => pure ()

/-- Refuse with the first failure of a program: its step, where it has one, and the offset. -/
def progsOk (i : Image) (status : Nat) (bad : Prog → Option (Nat × Nat)) : Chk Unit :=
  match i.progs.find? fun p => bad p ≠ none with
  | some p =>
    let x := (bad p).getD (0xFFFF, p.off)
    .error { status, sect := p.sect, step := x.1, offset := x.2 }
  | none => pure ()

/-- Two lists share no member. -/
def apart (a b : List Nat) : Bool := a.all fun x => x ∉ b

/-- The other loaded rooms' images (R286). -/
def Chip.otherImages (c : Chip) (room : Nat) : List Image := (c.loadedRooms.filter (· ≠ room)).filterMap c.image

/-- CONFLICT: no member or queue is held by another loaded room (R286). -/
def conflictOk (c : Chip) (room : Nat) (i : Image) : Bool :=
  (c.otherImages room).all fun o => apart i.rows o.rows && apart i.slices o.slices && apart i.lanes o.lanes && apart i.latches o.latches
    && apart (i.queues.map QueueE.queue) (o.queues.map QueueE.queue)

/-- RETIRED: no member row or slice is retired. -/
def retiredOk (c : Chip) (i : Image) : Bool :=
  (i.rows.all fun w => (c.row w).st ≠ 2) && i.slices.all fun k => !(c.slice k).retired

/-- OWNERSHIP (R195): a step uses only lanes and latches that the image declares. A lane field of 16 or more names no
lane and is left to LANE. -/
def ownsStep (i : Image) (t : Step) : List (Nat × Nat × Nat) :=
  failing 2 4 t.latches (fun e => e.ep * 512 + e.latch ∈ i.latches && (decide (16 ≤ e.lane) || e.corridor * 16 + e.lane ∈ i.lanes))
    ++ failing 3 2 t.runs (fun r => decide (16 ≤ r.lane) || r.bundle * 16 + r.lane ∈ i.lanes)
    ++ failing 4 0x30 t.trees fun x => x.srcs.all fun s => decide (16 ≤ s.2.1) || s.1 * 16 + s.2.1 ∈ i.lanes

/-- LATCH (R193): no latch is assigned twice and no two latches of a tile take one pair. -/
def latchStep (t : Step) : List (Nat × Nat × Nat) :=
  repeats 2 4 t.latches (fun e => e.ep * 512 + e.latch) ++ repeats 2 6 t.latches fun e => (e.ep * 512 + e.corridor) * 256 + e.lane

/-- The payload bytes of a run. -/
def RunE.bytes (r : RunE) : Nat := 112 * r.count

/-- FIELD (R374, R398): a run fills and reads only its own room's buffers of a porch die. -/
def bufferStep (room : Nat) (t : Step) : List (Nat × Nat × Nat) :=
  failing 3 0x0E t.runs (fun r => r.dkind ≠ 6 || r.dstUnit / 32 = room)
    ++ failing 3 0x0C t.runs fun r => r.cls ≠ clsTensor || (endpointOf r.bundle ≠ 20 && endpointOf r.bundle ≠ 21) || r.srcUnit / 32 = room

/-- CLASS (R196, R336): one run. The payload of a run that no memory feeds is generated, so its source fields are zero; a tower may
read records of any payload class from a slice. -/
def runOk (i : Image) (slots : Nat) (t : Step) (r : RunE) : Bool :=
  let ep := endpointOf r.bundle
  let held := t.latches.any fun e => e.ep = r.dest && e.corridor = r.bundle && e.lane = r.lane
  let rowOf (tower unit : Nat) : Bool := decide (unit < 256) && tower * 16 + unit / 16 ∈ i.rows
  decide (r.cls ≤ 8) && decide (r.dkind ≤ 6) && decide (4 ≤ r.first) && decide (1 ≤ r.count) && decide (r.first + r.count ≤ slots - 2)
    && (r.cls = 0 || decide (16 ≤ r.lane) || held)
    && (if r.cls = clsTensor then r.dkind ≠ 0
        else if r.cls = clsCelRsp then decide (r.dkind ≤ 1)
        else r.dkind = 0)
    && (match r.dkind with
        | 0 => r.dstUnit = 0 && r.dstAddr = 0
        | 1 => decide (r.dest < 8) && rowOf r.dest r.dstUnit && r.dstAddr % 16 = 0 && decide (r.dstAddr + r.bytes ≤ sliceBytes)
        | 2 => decide (8 ≤ r.dest) && decide (r.dest < 20) && decide (r.dstUnit < 64) && (r.dest - 8) * 64 + r.dstUnit ∈ i.slices
            && decide (r.dstAddr + r.bytes ≤ cellarBytes)
        | 3 => r.dest = 22 && decide (r.dstUnit < nQueues) && r.dstAddr = 0
        | 4 => decide (r.dest < 20) && decide (r.dstUnit < 1024) && r.dstAddr = 0
        | 5 => decide (r.dest < 8) && rowOf r.dest r.dstUnit && r.dstAddr % 16 = 0 && decide (r.dstAddr + r.bytes ≤ 65536)
        | _ => (r.dest = 20 || r.dest = 21) && r.dstAddr = 0)
    && (r.cls ≠ clsCelReq || (decide (8 ≤ r.dest) && decide (r.dest < 20)))
    && (if r.cls ≠ clsTensor then
          (r.srcUnit = 0 && r.srcAddr = 0) || (decide (ep < 8) && payloadCls r.cls && rowOf ep r.srcUnit && decide (r.srcAddr + r.bytes ≤ sliceBytes))
        else if ep < 8 then rowOf ep r.srcUnit && decide (r.srcAddr + r.bytes ≤ sliceBytes)
        else if ep < 20 then decide (r.srcUnit < 64) && (ep - 8) * 64 + r.srcUnit ∈ i.slices && decide (r.srcAddr + r.bytes ≤ cellarBytes)
        else r.srcAddr = 0)

/-- CLASS: one step; no slot of a lane is scheduled twice (R336). -/
def classStep (i : Image) (slots : Nat) (t : Step) : List (Nat × Nat × Nat) :=
  failing 3 0 t.runs (runOk i slots t) ++ failing 3 6 t.runs.zipIdx fun a => (t.runs.take a.2).all fun b =>
    a.1.bundle ≠ b.bundle || a.1.lane ≠ b.lane || decide (a.1.first + a.1.count ≤ b.first) || decide (b.first + b.count ≤ a.1.first)

/-- LANE (R191): every lane field names a logical lane. -/
def laneStep (t : Step) : List (Nat × Nat × Nat) :=
  failing 3 4 t.runs (fun r => decide (r.lane < 16)) ++ failing 2 8 t.latches (fun e => decide (e.lane < 16))
    ++ failing 4 0x30 t.trees fun x => x.srcs.all fun s => decide (s.2.1 < 16)

/-- RETRY_POS (R208): retry slots lie in slot 8 or later. -/
def retryPosStep (t : Step) : List (Nat × Nat × Nat) := failing 3 6 t.runs fun r => r.cls ≠ clsRetry || decide (8 ≤ r.first)

/-- The successions of R332. -/
def Image.successionSteps (i : Image) : List (Nat × Nat × Step × Step) :=
  i.progs.flatMap fun p =>
    let n := p.steps.length
    let lastStep := p.step (n - 1)
    let entry (q : Prog) : Step := q.step 0
    let within := (List.range (n - 1)).map fun k => (p.sect, k, p.step k, p.step (k + 1))
    if p.role ≠ 0 then
      within ++ (i.progs.filter fun q => q.role = 0 && q.slot = p.slot && (p.role = 1 || q.phase = p.toPhase)).map fun q =>
        (p.sect, n - 1, lastStep, entry q)
    else
      let loop := if p.nextPhase = 0xFF then [(p.sect, n - 1, lastStep, p.step p.loopTo)]
        else (i.progs.filter fun q => q.role = 2 && q.slot = p.slot && q.phase = p.phase && q.toPhase = p.nextPhase).map fun q =>
          (p.sect, n - 1, lastStep, entry q)
      let switches := (p.steps.zipIdx.filter fun t => t.1.switchPt).flatMap fun t =>
        (i.progs.filter fun q => q.role = 1 || (q.role = 0 && q.slot ≠ p.slot)
          || (q.role = 2 && q.slot = p.slot && q.phase = p.phase)).map fun q => (p.sect, t.2, t.1, entry q)
      let variants := (i.progs.filter fun q => q.role = 0 && q.slot = p.slot && q.phase = p.phase && (q.variant = 0) ≠ (p.variant = 0)).flatMap fun q =>
        (p.steps.zip q.steps).zipIdx.map fun x => (p.sect, x.2, x.1.1, x.1.2)
      within ++ loop ++ switches ++ variants

/-- RETRY_COVER (R209). -/
def retryCoverOk (i : Image) : Chk Unit :=
  match i.successionSteps.find? fun x => !retryCover i.retryPct (fun _ _ => true) x.2.2.1 x.2.2.2 with
  | some x => .error { status := stRetryCover, sect := x.1, step := x.2.1, offset := x.2.2.1.off }
  | none => pure ()

/-- The fold count of a bundle in an image (R325). -/
def Image.foldOf (i : Image) (b : Nat) : Nat := ((i.foldOvr.find? fun o => o.1 = b).map Prod.snd).getD i.foldDefault

/-- Slots of a lane in a step, of the classes that pass a test. -/
def Step.laneCount (t : Step) (b l : Nat) (p : Nat → Bool) : Nat :=
  ((t.runs.filter fun r => r.bundle = b && r.lane = l && p r.cls).map RunE.count).foldl (· + ·) 0

/-- The sets of `k` members of a list. -/
def subsets : Nat → List Nat → List (List Nat)
  | 0, _ => [[]]
  | _ + 1, [] => []
  | k + 1, x :: t => (subsets k t).map (x :: ·) ++ subsets (k + 1) t

/-- FOLD_COVER (R218): every fold group of a step. -/
def foldStep (i : Image) (t : Step) : List (Nat × Nat × Nat) :=
  whole <| ((t.runs.map RunE.bundle).eraseDups).all fun b =>
    let fold := i.foldOf b
    fold = 0 || (List.range 23).all fun ep =>
      let g := (i.lanesOn b).filter fun l => t.destOf b l = some ep
      (subsets (min fold g.length) g).all fun dead =>
        let need' := (dead.map fun l => t.laneCount b l payloadCls).foldl (· + ·) 0
        let have' := ((g.filter fun l => l ∉ dead).map fun l => t.laneCount b l (· = clsFold)).foldl (· + ·) 0
        decide (need' ≤ have')

/-- Bytes that a tree writes: [lo, hi). -/
def TreeE.span (x : TreeE) : Nat × Nat := (x.addr, x.addr + 112 * x.slots)

/-- TREE (R179, R183, R184, R337): the trees of one step. -/
def treeStep (i : Image) (slots : Nat) (t : Step) : List (Nat × Nat × Nat) :=
  failing 4 0 t.trees (fun x =>
    decide (x.ep < 20) && x.zero && decide (x.id < 1024) && decide (x.ty < 3) && decide (2 ≤ x.srcs.length) && decide (x.srcs.length ≤ 64)
      && decide (1 ≤ x.slots) && decide (x.slots ≤ slots - 6)
      && (if x.ep < 8 then x.kind = 0 && decide (x.unit < 256) && x.ep * 16 + x.unit / 16 ∈ i.rows && x.addr % 16 = 0
            && decide (x.addr + 112 * x.slots ≤ sliceBytes)
          else x.kind = 1 && decide (x.unit < 64) && (x.ep - 8) * 64 + x.unit ∈ i.slices && x.addr % 64 = 0
            && decide (x.addr + 112 * x.slots ≤ cellarBytes) && !x.accum)
      && (x.srcs.all fun s => decide (s.1 < nBundles) && decide (4 ≤ s.2.2) && decide (s.2.2 + x.slots ≤ slots - 2)
          -- each of the source's slots belongs to a run that feeds this tree
          && (List.range x.slots).all fun k => t.runs.any fun r =>
            r.dkind = 4 && r.dest = x.ep && r.dstUnit = x.id && r.bundle = s.1 && r.lane = s.2.1 && s.2.2 + k ∈ r.slots)
      && t.occ.any fun o => o.1 = x.ep)
    ++ repeats 4 0x10 t.trees (fun x => x.ep * 1024 + x.id)
    ++ failing 3 0x0E t.runs (fun r => r.dkind ≠ 4 || r.slots.all fun s =>
        t.trees.any fun x => x.ep = r.dest && x.id = r.dstUnit
          && x.srcs.any fun y => y.1 = r.bundle && y.2.1 = r.lane && decide (y.2.2 ≤ s) && decide (s < y.2.2 + x.slots))
    ++ failing 5 4 t.occ (fun o => decide (o.2 ≤ (if o.1 < 8 then 1024 else 256)))
    ++ failing 4 0x18 t.trees.zipIdx fun a => (t.trees.take a.2).all fun b =>
        a.1.ep ≠ b.ep || a.1.unit ≠ b.unit || decide (a.1.span.2 ≤ b.span.1) || decide (b.span.2 ≤ a.1.span.1)

/-- SUCCESSION (R330, R332, R338): the first failure of one program, as its step, 0xFFFF for none, and the offset of LOOP_TO,
NEXT_PHASE, STEP_COUNT or the step's block. -/
def successionProg (i : Image) (p : Prog) : Option (Nat × Nat) :=
  let head (o : Nat) (ok : Bool) : Option (Nat × Nat) := if ok then none else some (0xFFFF, p.off + o)
  let step (ok : Nat → Bool) : Option (Nat × Nat) := ((List.range p.steps.length).find? fun k => !ok k).map fun k => (k, (p.steps.getD k {}).off)
  if p.role ≠ 0 then (head 2 (p.loopTo = 0)).or (head 4 (p.nextPhase = 0xFF))
  else
    ((head 2 (p.nextPhase = 0xFF || p.loopTo = 0)).or
      (head 4 (p.nextPhase = 0xFF || i.progs.any fun q => q.role = 2 && q.slot = p.slot && q.phase = p.phase && q.toPhase = p.nextPhase))).or
    (if p.variant = 0 then none
     else match i.progs.find? fun q => q.role = 0 && q.slot = p.slot && q.phase = p.phase && q.variant = 0 with
      | none => some (0xFFFF, p.off)
      | some q =>
        (((head 0 (q.steps.length = p.steps.length)).or (head 2 (q.loopTo = p.loopTo))).or (head 4 (q.nextPhase = p.nextPhase))).or
          ((step fun k => (q.steps.getD k {}).switchPt = (p.steps.getD k {}).switchPt).or
            (step fun k => (p.steps.getD k {}).runs.all fun r => p.needs.any fun n => n.1 = r.bundle)))

/-- INTAKE (R311): the capacity that a step gives each queue it names. -/
def intakeStep (i : Image) (t : Step) : List (Nat × Nat × Nat) :=
  failing 3 0x0C t.runs fun r => t.intakes.all fun x => x.1 ≠ r.srcUnit || endpointOf r.bundle ≠ 22 || r.cls ≠ clsTensor
    || i.queues.any fun q => q.queue = x.1 && (q.kind = qFeed || q.kind = qFabModel) && decide ((64 + q.maxPkt + 15) / 16 * 16 ≤ 112 * x.2)

/-- QUEUE: a queue stream's run names a queue that the image declares as COMPL (R304). -/
def queueStep (i : Image) (t : Step) : List (Nat × Nat × Nat) :=
  failing 3 0x0E t.runs fun r => r.dkind ≠ 3 || i.queues.any fun q => q.queue = r.dstUnit && q.kind = qCompl

/-- The line accesses of byte spans of one slice: a line covered whole counts one, a partial line two (R266). -/
def lineCost (spans : List (Nat × Nat)) : Nat :=
  let ls := (spans.flatMap fun s => linesOf s.1 s.2).eraseDups
  let full (l : Nat) : Bool := (List.range 64).all fun k => spans.any fun s => decide (s.1 ≤ 64 * l + k) && decide (64 * l + k < s.1 + s.2)
  (ls.map fun l => if full l then 1 else 2).foldl (· + ·) 0

/-- CELLAR_RATE (R266): scheduled sends, scheduled writes and sum-on-arrival writes of one step. -/
def rateStep (period : Nat) (t : Step) : List (Nat × Nat × Nat) :=
  let sends := (t.runs.filter fun r => r.cls = clsTensor && decide (8 ≤ endpointOf r.bundle) && decide (endpointOf r.bundle < 20)).map fun r =>
    ((endpointOf r.bundle - 8) * 64 + r.srcUnit, r.srcAddr, r.bytes)
  let writes := ((t.runs.filter fun r => r.dkind = 2).map fun r => ((r.dest - 8) * 64 + r.dstUnit, r.dstAddr, r.bytes))
    ++ (t.trees.filter fun x => x.kind = 1).map fun x => ((x.ep - 8) * 64 + x.unit, x.addr, 112 * x.slots)
  whole <| (((sends ++ writes).map Prod.fst).eraseDups).all fun k =>
    let of (l : List (Nat × Nat × Nat)) : List (Nat × Nat) := (l.filter fun x => x.1 = k).map Prod.snd
    decide (lineCost (of sends) + lineCost (of writes) ≤ 8704 * period / 100)

/-- POWER (R327, R340): the relations of the section, and the MIN_W of the loaded rooms with this image's. -/
def powerOk (c : Chip) (room : Nat) (i : Image) : Bool :=
  decide (i.minW ≤ i.maxW) && decide (i.maxW ≤ 1500)
    && decide (i.minW + ((c.otherImages room).map Image.minW).foldl (· + ·) 0 ≤ 1500)

/-- Program store size, in 4 KiB units (R341). -/
def storeCapacity : Nat := 0x4000

/-- The checks from PERIOD to POWER, in the order of R340, behind the part of FIELD that rests on the target room. -/
def checkDevice (c : Chip) (room : Nat) (i : Image) (queueBad : Option Bad) : Chk Unit := do
  let slots := i.period * 16
  stepsOk i stField (bufferStep room)
  need (i.period = c.frm.active) { status := stPeriod, offset := 0x28 }
  need (conflictOk c room i) { status := stConflict }
  need (retiredOk c i) { status := stRetired }
  need (decide (c.bit.used + i.store ≤ storeCapacity)) { status := stStoreFull }
  stepsOk i stOwnership (ownsStep i)
  stepsOk i stLatch latchStep
  stepsOk i stClass (classStep i slots)
  stepsOk i stLane laneStep
  stepsOk i stRetryPos retryPosStep
  retryCoverOk i
  stepsOk i stFoldCover (foldStep i)
  stepsOk i stTree (treeStep i slots)
  progsOk i stSuccession (successionProg i)
  stepsOk i stIntake (intakeStep i)
  match queueBad with
  | some b => .error b
  | none => pure ()
  stepsOk i stQueue (queueStep i)
  stepsOk i stCellarRate (rateStep i.period)
  need (powerOk c room i) { status := stPower }

end Sys2Proof.Machine
end

