-- ==== Sys2Proof/Machine/BitLoad.lean ====
section
/-! DEFINITION. Loading images (R339 to R345, R348): starting, validating and aborting a load, and its effect at a
threshold. -/

namespace Sys2Proof.Machine

/-- Change the BIT block. -/
def Dev.onBit (d : Dev) (f : Bit → Bit) : Dev := d.onChip fun c => { c with bit := f c.bit }

/-- A function's record of its last load. -/
def Dev.onLoadRes (d : Dev) (fn : Nat) (f : LoadRes → LoadRes) : Dev := d.onBit fun b => { b with res := Tab.upd {} b.res fn f }

/-- Record a load's status for a function: state 4 FAILED unless it is OK (R340, R348). -/
def Dev.loadFail (d : Dev) (fn : Nat) (b : Bad) : Dev :=
  (d.onLoadRes fn fun r => { r with status := b.status, st := 4, failSection := b.sect, failStep := b.entry % 2 ^ 16 * 2 ^ 16 + b.step % 2 ^ 16
                                    failOffset := b.offset }).flag F.BIT_INT_STATUS_FAILED

/-- A START that is refused before the header is read: the function's last load has no IMAGE_ID (R340, R348). -/
def Dev.refuseStart (d : Dev) (fn status : Nat) : Dev := (d.onLoadRes fn fun _ => {}).loadFail fn { status }

/-- The engine returns to IDLE. -/
def Dev.engineIdle (d : Dev) : Dev := d.onBit fun b => { b with eng := .idle, load := none, progress := 0 }

/-- LOAD_START by a PCIe function: refused, or the engine begins to read (R339, R340). -/
def loadStart (r : Requester) (d : Dev) : Dev :=
  let fn := r.code
  let pcie := match r with
    | .pf => true
    | .vf v => decide (1 ≤ v) && decide (v ≤ 16)
    | _ => false
  if !pcie then d
  else
    let c := d.chip
    let room := (vfRoom r).getD (d.stagedOf F.BIT_CFG_ROOM 0 0 fn)
    let kind := d.stagedOf F.BIT_CFG_KIND 0 0 fn
    let src := d.stagedOf F.BIT_SRC_LO 0 0 fn * 64 + d.stagedOf F.BIT_SRC_HI 0 0 fn * 2 ^ 32
    let len := d.stagedOf F.BIT_LEN 0 0 fn * 64
    if c.bit.eng ≠ .idle then d.refuseStart fn stBusy
    else if (!isPf r ∧ kind = 1) ∨ ((c.room room).st = .running ∧ c.fld F.ROOM_CTL_AUTORUN room = 0) then d.refuseStart fn stDenied
    else if c.seq.lost then d.refuseStart fn stSeqLost
    else if len < 256 ∨ 2 ^ 30 < len then d.refuseStart fn stBadLen
    else
      let src := if kind = 2 then
          match roomMap (c.roomSlices room) src with
          | some m => moduleAddr m.1 m.2
          | none => 2 ^ 40
        else src
      let d := d.onBit fun b => { b with eng := .reading, progress := 0
                                         load := some { owner := fn, room, srcKind := if kind = 0 then 1 else 2, src, len, kind
                                                        slices := if kind = 2 then c.roomSlices room else [] } }
      d.onLoadRes fn fun _ => { st := 1 }

/-- Where byte `k` of a cellar source lies: through the room map as it stood at START, or the module map (R339). -/
def sourceByte (kind src : Nat) (slices : List Nat) (k : Nat) : Option (Nat × Nat) :=
  if kind = 2 then
    match moduleMap src with
    | none => none
    | some m =>
      let n := slices.length
      match slices.findIdx? (· = m.1) with
      | none => none
      | some x => roomMap slices ((m.2 / 256 * n + x) * 256 + m.2 % 256 + k)
  else moduleMap (src + k)

/-- `len` bytes from byte `from'` of a cellar source, both whole lines; none where a line is not backed, absent, husked or uncorrectable
(R340). -/
def Dev.cellarSource (s : State) (d : Dev) (place : Nat → Option (Nat × Nat)) (from' len : Nat) : Option (List Byte) × Dev :=
  let r := (List.range (len / 64)).foldl (fun (acc : Option (List (List Byte)) × Dev) k =>
    match acc.1, place (from' + 64 * k) with
    | some parts, some (slice, a) =>
      if acc.2.chip.absent slice then (none, acc.2)
      else
        let d := acc.2.lineMeet slice (a / 64)
        (if d.lineBad slice (a / 64) then none else some (d.lineBytes s slice (a / 64) :: parts), d)
    | _, _ => (none, acc.2)) (some [], d)
  (r.1.map fun parts => parts.reverse.flatten, r.2)

/-- The engine has read the whole source and made its checks (R340, R341, R342). `host`: what it read from host memory,
none where a read failed; `t`: ns since the last threshold. -/
def loadValidated (t : Nat) (host : Option (List Byte)) (s : State) (d : Dev) : Dev :=
  match d.chip.bit.load with
  | none => d
  | some l =>
    if d.chip.bit.eng ≠ .reading ∧ d.chip.bit.eng ≠ .validating then d
    else
      let src := if l.srcKind = 1 then (host.map (padTo l.len 0), d) else d.cellarSource s (sourceByte l.kind l.src l.slices) 0 l.len
      let d := src.2
      match src.1 with
      | none => (d.loadFail l.owner { status := stReadErr }).engineIdle
      | some bytes =>
        let d := d.onLoadRes l.owner fun r => { r with id := leField bytes 0x20 8 }
        let res : Chk Image := do
          let x ← parseImage bytes l.len d.chip.sec.version d.chip.sec.owner
          checkDevice d.chip l.room x.1 x.2
          pure x.1
        match res with
        | .error b => (d.loadFail l.owner b).engineIdle
        | .ok i =>
          let due := d.chip.dueFrame t
          let d := d.onBit fun b => { b with eng := .accepted, load := some { l with image := some i, due }, used := b.used + i.store
                                             progress := l.len / 2 ^ 20 }
          d.onLoadRes l.owner fun r => { r with status := stOk, st := 2 }

/-- The engine has read its whole source and begins its checks (R340, R348). -/
def Dev.sourceRead (d : Dev) (l : Load) : Dev := d.onBit fun b => { b with eng := .validating, progress := l.len / 2 ^ 20 }

/-- A cellar source has been read by the next threshold. -/
def Dev.cellarRead (d : Dev) : Dev :=
  match d.chip.bit.load with
  | some l => if d.chip.bit.eng = .reading ∧ l.srcKind = 2 then d.sourceRead l else d
  | none => d

/-- One of a loaded image's CORE_CODE or PANTRY_INIT sections as its cellar source holds it now: read without error, and its hash the one
in the program store (R344). -/
def Dev.rereadSect (s : State) (l : Loaded) (acc : Bool × Dev) (x : ShaE) : Bool × Dev :=
  if !acc.1 then acc
  else
    let len := (x.length + 63) / 64 * 64
    let r := acc.2.cellarSource s (sourceByte l.kind l.src l.slices) x.offset len
    (match r.1 with
     | some b => decide (sha256 (b.take x.length) = x.sha)
     | none => false, r.2)

/-- What the start sequences have read again when their step 3 or 4 ends at this threshold (R292, R344): a cellar source is read from the
cellar as it stands; whether a host source could be read and still matches is reported by `f`. -/
def Dev.rereads (s : State) (d : Dev) (f : RoomFacts) : RoomFacts × Dev :=
  let cellar := d.chip.loadedRooms.filter fun r => ((d.chip.room r).cur.map Loaded.srcKind) = some 2
  let r := (cellar.filter fun r =>
      (d.chip.room r).st = .starting && !(d.chip.room r).lost && ((d.chip.room r).start = 3 || (d.chip.room r).start = 4) && r ∈ f.startDone).foldl
    (fun (acc : List Nat × Dev) r =>
      match (d.chip.room r).cur with
      | none => acc
      | some l =>
        let x := (l.image.shas.filter fun x => x.code = ((d.chip.room r).start = 3)).foldl (Dev.rereadSect s l) (true, acc.2)
        (if x.1 then acc.1 else r :: acc.1, x.2)) ([], d)
  ({ f with imageLost := r.1 ++ f.imageLost.filter fun r => r ∉ cellar }, r.2)

/-- A load before acceptance ends with ABORTED (R345). -/
def Dev.abortLoad (d : Dev) (fn : Nat) : Dev :=
  match d.chip.bit.load with
  | some l =>
    if l.owner = fn ∧ d.chip.bit.eng ≠ .accepted then (d.loadFail fn { status := stAborted }).engineIdle else d
  | none => d

/-! ## Effect of a load -/

/-- An accepted load that is due at the threshold that begins frame `m` (R342, R345). -/
def Chip.loadDue (c : Chip) (m : Nat) : Option (Load × Image) :=
  match c.bit.load with
  | some l => if c.bit.eng = .accepted ∧ !frameLater l.due m then l.image.map fun i => (l, i) else none
  | none => none

/-- A replacement that is due orders a reset of the room, cause HOST, before the frame is judged (R291, R342). -/
def Dev.loadReset (d : Dev) (m : Nat) : Dev :=
  match d.chip.loadDue m with
  | some (l, i) => if (d.chip.room l.room).st ≠ .empty ∧ i.period = d.chip.frm.active then d.dueReset l.room 5 else d
  | none => d

/-- The queues of a room whose image is replaced (R343). -/
def Dev.swapQueues (d : Dev) (old new : List QueueE) : Dev :=
  (old.filter fun q => q ∉ new).foldl (fun d q => d.disableQueue q.queue) d

/-- The members of an image leave or join a room: rows, latches, folds (R286, R342). -/
def Dev.dropMembers (d : Dev) (r : Nat) (i : Image) : Dev :=
  let d := i.rows.foldl (fun d w => (rowCores w).foldl (fun d k => d.onCore k Core.cleared) (d.onRow w fun x => { x with room := none })) d
  let d := i.latches.foldl (fun d x => d.onLatch (x / 512) (x % 512) fun l => { l with assigned := none }) d
  let d := d.setFolds r []
  d.onTow fun t => { t with trees := t.trees.filter (fun x => x.room ≠ r), signals := t.signals.filter (fun x => x.room ≠ r), barriers := Tab.keep t.barriers (fun k => k / 256 ≠ r)
                            flags := Tab.keep t.flags fun k => k / 64 ≠ r }

/-- The members of a barrier as the model numbers them: a logical core as row * 16 + core, an endpoint as 4096 + it. -/
def barMembers (b : BarE) : List Nat :=
  b.members.flatMap fun m => if m.1 < 8 then (bitList 16 m.2.2).map fun c => (m.1 * 16 + m.2.1) * 16 + c else [4096 + m.1]

/-- The members join; barriers and flags as the image declares them (R185, R186, R338). -/
def Dev.joinMembers (d : Dev) (r : Nat) (i : Image) : Dev :=
  let d := i.rows.foldl (fun d w => (rowCores w).foldl (fun d k => d.onCore k Core.loaded) (d.onRow w fun x => { x with room := some r })) d
  d.onTow fun t => { t with
    barriers := i.progs.foldl (fun b p => p.bars.foldl (fun b e => Tab.ins b (r * 256 + e.id) { members := barMembers e, home := e.home }) b) t.barriers
    flags := i.progs.foldl (fun b p => p.flags.foldl (fun b e =>
      Tab.ins b (r * 64 + e.id) { home := e.home, subs := e.subs.map fun s => ((s.1 * 16 + s.2.1) * 16 + s.2.2.1, s.2.2.2) }) b) t.flags }

/-- A load takes effect at the threshold that begins the running frame, under step 6 of R225 (R342). -/
def Dev.loadEffect (d : Dev) : Dev :=
  match d.chip.loadDue d.chip.frm.cur with
  | none => d
  | some (l, i) =>
    let r := l.room
    if i.period ≠ d.chip.frm.active then
      ((d.onBit fun b => { b with used := b.used - i.store }).loadFail l.owner { status := stPeriod, offset := 0x28 }).engineIdle
    else
      let m := d.chip.room r
      let old := m.cur.map Loaded.image
      let d := match old with
        | some o => (d.swapQueues o.queues i.queues).dropMembers r o
        | none => d
      let d := if m.st = .empty ∨ (m.st = .resetting) then d else d.resetRoom r 5
      let d := d.onRoom r fun x => { x with cur := some { image := i, srcKind := l.srcKind, src := l.src, len := l.len, fn := l.owner, kind := l.kind, slices := l.slices }
                                            lost := false, resident := 0, imageFrame := d.chip.frm.cur }
      let d := d.joinMembers r i
      let d := if m.st = .empty then (d.roomTo r .starting).onRoom r fun x => { x with start := 1 } else d
      let d := d.onBit fun b => { b with used := b.used - (old.map Image.store).getD 0 }
      let d := d.onLoadRes l.owner fun x => { x with st := 3 }
      (d.flag F.BIT_INT_STATUS_TOOK_EFFECT).engineIdle

/-- A staged RETRY takes effect: ignored unless LOST is 1 (R344, R348). -/
def effectRetry (n : Nat) (d : Dev) : Dev := d.onRoom n fun x => { x with retryDue := x.lost }

open Host

/-- LOAD_START (R339). -/
def execLoadStart (r : Requester) (s : State) : Outcome State Fault Refusal := runsM s (loadStart r)

/-- LOAD_VALIDATED (R340). -/
def execLoadValidated (t : Nat) (host : Option (List Byte)) (s : State) : Outcome State Fault Refusal := runs s (loadValidated t host s)

/-- ABORT (R345). -/
def execAbort (r : Requester) (s : State) : Outcome State Fault Refusal := runsM s fun d => d.abortLoad r.code

/-- IMAGE_RETRY: a write of RETRY is staged (R344). -/
def execImageRetry (r : Requester) (n t : Nat) (s : State) : Outcome State Fault Refusal :=
  runsM s fun d => if roomWriter r n then d.stageFld r t F.BIT_ROOM_STATE_RETRY 1 0 n else d

end Sys2Proof.Machine
end

