-- ==== Sys2Proof/Machine/March.lean ====
section
/-! DEFINITION. The march algorithms, run on defective cells (R174 to R177). A cell that is not defective returns what was written,
so a run is computed for the defective cells only. -/

namespace Sys2Proof.Machine

/-- One operation on a line: a write or a read, of the background or of its complement. -/
structure MarchOp where
  write : Bool
  inv : Bool
deriving DecidableEq, Repr

/-- An element: whether it goes through the lines downwards, and what it does to each line. An element of either order goes
upwards. -/
structure MarchElem where
  down : Bool
  ops : List MarchOp
deriving DecidableEq, Repr

def w0 : MarchOp := ⟨true, false⟩
def w1 : MarchOp := ⟨true, true⟩
def r0 : MarchOp := ⟨false, false⟩
def r1 : MarchOp := ⟨false, true⟩

/-- The elements of an algorithm: ALGO 0 March C-, 1 March SS. -/
def marchElems (algo : Nat) : List MarchElem :=
  if algo = 0 then [⟨false, [w0]⟩, ⟨false, [r0, w1]⟩, ⟨false, [r1, w0]⟩, ⟨true, [r0, w1]⟩, ⟨true, [r1, w0]⟩, ⟨false, [r0]⟩]
  else [⟨false, [w0]⟩, ⟨false, [r0, r0, w0, r0, w1]⟩, ⟨false, [r1, r1, w1, r1, w0]⟩, ⟨true, [r0, r0, w0, r0, w1]⟩,
    ⟨true, [r1, r1, w1, r1, w0]⟩, ⟨false, [r0]⟩]

/-- The bit of a data background (R174): its number, the line, the bit of the word. -/
def background (bg line bit : Nat) : Bool :=
  match bg with
  | 0 => false
  | 1 => bit % 2 = 1
  | 2 => line % 2 = 1
  | _ => bitOf bit 1

/-- The operations of a run on one line in order, each with the numbers of its background, element and place: once per selected
background, in ascending order. -/
def marchOps (algo bgs : Nat) : List ((Nat × Nat × Nat) × MarchOp) :=
  (bitList 4 bgs).flatMap fun g => (marchElems algo).zipIdx.flatMap fun e => e.1.ops.zipIdx.map fun o => ((g, e.2, o.2), o.1)

/-- A cell in a run: its value, how many reads it has met, the reads that returned other than the expected value. -/
structure CellRun where
  val : Bool := false
  reads : Nat := 0
  bad : List (Nat × Nat × Nat) := []
deriving DecidableEq, Repr

/-- One operation on a defective cell. -/
def cellOp (x : BadCell) (r : CellRun) (o : (Nat × Nat × Nat) × MarchOp) : CellRun :=
  let want := xor (background o.1.1 (x.word / 8) x.bit) o.2.inv
  let sees : Bool := match x.fault with
    | .stuck v => v
    | .reads l => if l.contains r.reads then !r.val else r.val
  if o.2.write then { r with val := want }
  else { r with reads := r.reads + 1, bad := if sees = want then r.bad else r.bad ++ [o.1] }

/-- The place in the run of an operation on a line: in destructive mode element after element over all lines, in preserving mode
line after line (R174, R175). -/
def marchTime (algo : Nat) (preserve : Bool) (line : Nat) (k : Nat × Nat × Nat) : Nat :=
  let at' := if (((marchElems algo)[k.2.1]?).map MarchElem.down).getD false then 24575 - line else line
  if preserve then ((line * 4 + k.1) * 8 + k.2.1) * 8 + k.2.2 else ((k.1 * 8 + k.2.1) * 24576 + at') * 8 + k.2.2

/-- The failing reads of a slice: (place in the run, word, bit). -/
def marchBad (algo bgs : Nat) (preserve : Bool) (cells : List BadCell) (core : Nat) : List (Nat × Nat × Nat) :=
  (cells.filter fun x => x.core = core && decide (x.word < 196608) && decide (x.bit < 138)).flatMap fun x =>
    (((marchOps algo bgs).foldl (cellOp x) {}).bad).map fun k => (marchTime algo preserve (x.word / 8) k, x.word, x.bit)

/-- An earlier failing read, of two at once the one in the lower word, then the lower bit. -/
def firstBad (a b : Nat × Nat × Nat) : Nat × Nat × Nat :=
  if b.1 < a.1 ∨ (b.1 = a.1 ∧ (b.2.1 < a.2.1 ∨ (b.2.1 = a.2.1 ∧ b.2.2 < a.2.2))) then b else a

/-- The result of a run for one slice (R176): failing line reads, saturating, and the word and lowest bit of the first. -/
def marchRun (algo bgs : Nat) (preserve : Bool) (cells : List BadCell) (core : Nat) : MarchRes :=
  match marchBad algo bgs preserve cells core with
  | [] => {}
  | x :: l =>
    let f := l.foldl firstBad x
    { fail := true, count := min ((x :: l).map Prod.fst).eraseDups.length (2 ^ 24 - 1), word := f.2.1, bit := f.2.2 }

/-- A run's results (R176): those of every slice of the rows, STATE DONE. -/
def Dev.marchEnd (d : Dev) (t rows algo bgs : Nat) (preserve : Bool) (cells : List BadCell) : Dev :=
  let cores := (bitList 16 rows).flatMap fun w => rowCores (t * 16 + w)
  let res := marchRun algo bgs preserve cells
  d.onTow fun x => { x with
    marchRes := cores.foldl (fun r core => Tab.put {} r core (res core)) x.marchRes
    march := Tab.upd {} x.march t fun m => { m with
      st := 2
      failRows := ofBitList ((bitList 16 rows).filter fun w => (rowCores (t * 16 + w)).any fun core => (res core).fail) } }

end Sys2Proof.Machine
end

