-- ==== Sys2Proof/Machine/Flash.lean ====
section
/-! DEFINITION. The flash (R16, R17, R21, R546): its ranges, records in two copies, writes that the loss of the input leaves
incomplete. -/

namespace Sys2Proof.Machine

/-! ## Ranges -/

/-- What a range of the flash holds (R17). -/
inductive FlashUse where
  | slotA | slotB | calRecords | assyRecords | retireList | bootControl | ownerKey | identity | counter | energy
deriving DecidableEq, Repr

/-- The ranges of the flash: content, offset, size (R17, R493, R546). -/
def flashRanges : List (FlashUse × Nat × Nat) :=
  [(.slotA, 0x0, 16 * 2 ^ 20), (.slotB, 0x1000000, 16 * 2 ^ 20), (.calRecords, 0x2000000, 8 * 2 ^ 20), (.assyRecords, 0x2800000, 2 ^ 20),
   (.retireList, 0x2900000, 2 ^ 20), (.bootControl, 0x2A00000, 8192), (.ownerKey, 0x2A10000, 8192), (.identity, 0x2A20000, 65536),
   (.counter, 0x2A30000, 8192), (.energy, 0x2A40000, 8192)]

/-- The range that an offset lies in; none: the offset is unused (R17). -/
def flashUse (a : Nat) : Option FlashUse := (flashRanges.find? fun r => decide (r.2.1 ≤ a) && decide (a < r.2.1 + r.2.2)).map Prod.fst

/-- A byte of a firmware slot; what was not written since the erase reads FFH. -/
def FwSlot.byte (f : FwSlot) (a : Nat) : Byte := (Tab.find f.bytes a).getD 0xFF

/-- A lifetime energy checkpoint (R468): 32 bytes. -/
def energyRecord (seq joules secs : Nat) : List Byte :=
  let b := [0x5A#8, 0x45#8, 0x4E#8, 0x47#8] ++ leBytes 2 1 ++ leBytes 2 0 ++ leBytes 8 seq ++ leBytes 8 joules ++ leBytes 4 secs
  b ++ leBytes 4 (crc32c b).toNat

/-- An entry of the field retire list (R501): 16 bytes. -/
def RetireE.bytes (e : RetireE) : List Byte :=
  leBytes 1 e.type ++ leBytes 1 e.cause ++ leBytes 2 e.index ++ leBytes 4 e.data ++ leBytes 6 e.frame ++ leBytes 2 0

/-- A record as the flash holds it (R494): header, body, CRC-32C. -/
def recordBytes (kind copy unit count seq : Nat) (temp : Int) (fw frame : Nat) (body : List Byte) : List Byte :=
  let b := [0x5A#8, 0x43#8, 0x41#8, 0x4C#8] ++ leBytes 2 1 ++ leBytes 1 kind ++ leBytes 1 copy ++ leBytes 2 unit ++ leBytes 2 count
    ++ leBytes 4 (36 + body.length) ++ leBytes 8 seq ++ leBytes 2 (temp % 65536).toNat ++ leBytes 2 fw ++ leBytes 4 frame ++ body
  b ++ leBytes 4 (crc32c b).toNat

/-- Widths in bytes of the values of one element of a kind (R495). -/
def calWidths (kind : Nat) : List Nat :=
  match kind with
  | 1 => [2, 2, 2, 2]
  | 2 => [2, 2]
  | 3 => [1, 1, 1, 1]
  | 4 => [1, 1, 1, 1] ++ List.replicate 18 2
  | 5 => List.replicate 68 1
  | 6 => List.replicate 32 1
  | 7 => [2, 2]
  | _ => [1]

/-- The body of a calibration record (R495): each value in the width of its place, two's complement. -/
def calBody (kind : Nat) (values : List Int) : List Byte :=
  let ws := calWidths kind
  values.zipIdx.flatMap fun v =>
    let w := ws.getD (v.2 % ws.length) 1
    leBytes w (v.1 % ((2 ^ (8 * w) : Nat) : Int)).toNat

/-- A calibration record as the flash holds it. -/
def CalRecord.bytes (r : CalRecord) (kind unit copy : Nat) : List Byte :=
  recordBytes kind copy unit (r.body.length / (calWidths kind).length) r.seq r.temp r.fw r.frame (calBody kind r.body)

/-- The retire list as slot `copy` holds it (R501): KIND 0x20, UNIT 0; TEMP, FW and FRAME of this record are not given: 0. -/
def retireRecord (copy : Nat) (x : Copy (List RetireE)) : List Byte :=
  recordBytes 0x20 copy 0 x.val.length x.seq 0 0 0 (x.val.flatMap RetireE.bytes)

/-- A byte of the flash where the spec gives its place: unused offsets are erased, the firmware slots, the energy checkpoints; none
where the spec does not place or encode what the range holds. -/
def Dev.flashByte (d : Dev) (a : Nat) : Option Byte :=
  let energy (x : Option (Nat × Nat × Nat)) (i : Nat) : Byte := match x with
    | some y => (energyRecord y.1 y.2.1 y.2.2).getD i 0xFF
    | none => 0xFF
  match flashUse a with
  | none => some 0xFF
  | some .slotA => if d.flash.slotA.shipped then none else some (d.flash.slotA.byte a)
  | some .slotB => if d.flash.slotB.shipped then none else some (d.flash.slotB.byte (a - 0x1000000))
  | some .energy => some (if a < 0x2A41000 then energy d.calFlash.eng0 (a - 0x2A40000) else energy d.calFlash.eng1 (a - 0x2A41000))
  | _ => none

/-! ## Two copies -/

/-- A copy that passes its check. -/
def validCopy {α : Type} (c : Option (Copy α)) : Option (Copy α) := c.filter fun x => x.ok

/-- Copy 1 is the one in force: the valid copy with the higher sequence number (R546). -/
def TwoCopy.second {α : Type} (t : TwoCopy α) : Bool :=
  match validCopy t.c0, validCopy t.c1 with
  | some a, some b => decide (a.seq < b.seq)
  | none, some _ => true
  | _, none => false

/-- The copy in force; none when neither is valid. -/
def TwoCopy.inForce {α : Type} (t : TwoCopy α) : Option (Copy α) := if t.second then validCopy t.c1 else validCopy t.c0

/-- What the record in force says. -/
def TwoCopy.val {α : Type} (t : TwoCopy α) (d : α) : α := (t.inForce.map Copy.val).getD d

/-- A new record is written to the copy not in force, with the next sequence number (R493, R546). -/
def TwoCopy.write {α : Type} (t : TwoCopy α) (v : α) : TwoCopy α :=
  let x : Copy α := ⟨(t.inForce.map fun c => c.seq + 1).getD 0, true, v⟩
  if t.second || t.inForce.isNone then { t with c0 := some x } else { t with c1 := some x }

/-- A write of the copy not in force stays incomplete: that copy fails its check (R21). -/
def TwoCopy.tear {α : Type} (t : TwoCopy α) : TwoCopy α :=
  let bad (c : Option (Copy α)) : Option (Copy α) := c.map fun x => { x with ok := false }
  if t.second || t.inForce.isNone then { t with c0 := bad t.c0 } else { t with c1 := bad t.c1 }

/-- The slot that the boot control record names: false A, true B; A when no copy is valid (log 118). -/
def SecFlash.prefB (f : SecFlash) : Bool := f.boot.val false
/-- The enrolled owner key (R550). -/
def SecFlash.owner (f : SecFlash) : Option (List Byte) := (f.ownerRec.val (none, 0)).1
/-- The nonce of the next transfer (R550). -/
def SecFlash.nonce (f : SecFlash) : Nat := (f.ownerRec.val (none, 0)).2
/-- The first leaf not yet reserved (R552). -/
def SecFlash.hwm (f : SecFlash) : Nat := f.counter.val 0
/-- A copy of the counter record is valid and none has failed its read-back (R552). -/
def SecFlash.counterOk (f : SecFlash) : Bool := f.counter.inForce.isSome && !f.counterBad
/-- The boot control record is written. -/
def SecFlash.putBoot (f : SecFlash) (b : Bool) : SecFlash := { f with boot := f.boot.write b }
/-- The owner key record is written. -/
def SecFlash.putOwner (f : SecFlash) (key : Option (List Byte)) (nonce : Nat) : SecFlash := { f with ownerRec := f.ownerRec.write (key, nonce) }
/-- The counter record is written. -/
def SecFlash.putCounter (f : SecFlash) (leaf : Nat) : SecFlash := { f with counter := f.counter.write leaf, counterBad := false }
/-- A write of the counter record fails its read-back: the copy written is not valid. -/
def SecFlash.failCounter (f : SecFlash) : SecFlash := { f with counter := f.counter.tear, counterBad := true }

/-- The retire list as the flash holds it; empty when neither copy is valid (R116, R257). -/
def CalFlash.retireList (f : CalFlash) : List RetireE := f.retire.val []

/-- M's firmware is running: every write of the flash passes through it (R16). -/
def Chip.mRuns (c : Chip) : Bool := c.boot.mfw && !c.boot.warm

end Sys2Proof.Machine
end

