-- ==== Sys2Proof/Machine/Light.lean ====
section
/-! DEFINITION. Light control (R232 to R258): sources and their spares, feed groups, rings and wrong-line lock. -/

namespace Sys2Proof.Machine

/-! ## Bundles without light -/

/-- The bundles of a feed group (R233). -/
def groupBundles (g : Nat) : List Nat := (List.range nBundles).filter fun b => b % 26 = g

/-- A QUIESCED bundle that neither agreement nor a lost source holds any longer resumes (R226, R242). -/
def Bundle.resume (b : Bundle) : Bundle :=
  if b.st = 5 ∧ !b.dark ∧ !b.agree then { b with st := 2 }.settled else b

/-- A bundle in service becomes QUIESCED. -/
def Bundle.quiesce (b : Bundle) : Bundle := if b.st = 2 ∨ b.st = 4 then { b with st := 5 } else b

/-! ## Rings -/

/-- The index of a ring (R442); none where the bundle and line, or the endpoint and latch, do not exist. -/
def ringIndex (latch : Bool) (unit index : Nat) : Option Nat :=
  if latch then (if unit < 23 ∧ index < latchCount unit then some (0x8000 + unit * 512 + index) else none)
  else if unit < nBundles ∧ index < 18 then some (unit * 18 + index) else none

/-- A ring by its index. -/
def Chip.ring (c : Chip) (k : Nat) : Ring := Tab.get {} c.light.rings k
/-- Change light control. -/
def Dev.onLight (d : Dev) (f : Light → Light) : Dev := d.onChip fun c => { c with light := f c.light }
/-- Change a ring. -/
def Dev.onRing (d : Dev) (k : Nat) (f : Ring → Ring) : Dev := d.onLight fun l => { l with rings := Tab.upd {} l.rings k f }

/-- The latch that a ring index names. -/
def ringLatch (k : Nat) : Option (Nat × Nat) := if 0x8000 ≤ k then some ((k - 0x8000) / 512, k % 512) else none

/-- The endpoint whose tile a ring lies in. -/
def ringEndpoint (k : Nat) : Nat :=
  match ringLatch k with
  | some x => x.1
  | none => endpointOf (k / 18)

/-- The state of a ring under R252: it is LOCKED once its endpoint has completed the start-up acquisition; a latch left unassigned is
PARKED, a retired latch RETIRED. -/
def Chip.ringState (c : Chip) (k : Nat) : Nat :=
  let st := if (c.ring k).st = 5 ∧ (Tab.get none c.light.acquired (ringEndpoint k)).isSome then 0 else (c.ring k).st
  match ringLatch k with
  | none => st
  | some (ep, l) =>
    if (c.latch ep l).retired then 4
    else if st = 0 ∧ (c.latch ep l).assigned.isNone then 3 else st

/-- The physical line a ring should sit on: a modulator its own, a latch that of its assignment (R193, R214). -/
def Chip.ringLine (c : Chip) (k : Nat) : Option Nat :=
  match ringLatch k with
  | none => some (k % 18)
  | some (ep, l) => (c.latch ep l).assigned.bind fun a => (c.bundle a.1).lineOf a.2

/-- The governing sensors of an endpoint tile: its base sensors (R471, R486). -/
def tileSensors (ep : Nat) : List Nat :=
  if ep < 8 then (List.range 4).map (ep * 32 + 20 + ·) else if ep < 20 then [256 + 8 * (ep - 8) + 4]
  else if ep = 22 then [363] else [361, 362, 363]

/-- The base temperature of an endpoint tile, in 0.25 K. -/
def Chip.tileTemp (c : Chip) (ep : Nat) : Int :=
  (maxInt (((tileSensors ep).map fun k => Tab.get {} c.thm.sensors k).filterMap fun (x : Sensor) => if x.st < 2 then some x.value else none)).getD 0

/-- The temperature band of an endpoint tile's base, which selects its heater profile (R255, R480). -/
def Chip.tileBand (c : Chip) (ep : Nat) : Nat := ((tileSensors ep).map fun k => (Tab.get {} c.thm.sensors k : Sensor).band).foldl max 0

/-- The search window of a relock, in lines: by the change in base temperature since the ring last locked (R251). -/
def Chip.ringWindow (c : Chip) (k : Nat) : Nat :=
  let now := c.tileTemp (ringEndpoint k)
  let was := ((c.ring k).lockTemp.orElse fun _ => Tab.get none c.light.acquired (ringEndpoint k)).getD now
  min 2 (1 + (now - was).natAbs / 60)

/-- The frames of a ring's wrong locks within the last 1,024 (R252). -/
def Ring.recent (x : Ring) (now : Nat) : List Nat := x.wrong.filter fun f => frameSub now f < 1024

/-- The distance between two lines. -/
def lineDist (a b : Nat) : Nat := max a b - min a b

/-- A wrong lock of a LOCKED ring, found `left` ns before the next threshold (R251, R252): counted, and relocked or
reacquired; the third within 1,024 frames retires the ring. `dist` is the detected distance to its line. -/
def Dev.wrongLock (d : Dev) (k : Nat) (dist : Option Nat) (left : Nat) : Dev :=
  if d.chip.ringState k ≠ 0 then d
  else
    let x := d.chip.ring k
    let now := d.chip.frm.cur
    let hist := now :: x.recent now
    let near := match dist with
      | some n => decide (n ≤ d.chip.ringWindow k)
      | none => false
    let d := (d.count F.HALL_RING_WRONG 1 0 0 k).log3 clsRing 5 k
    let d := d.count (if near then F.HALL_RELOCKS else F.HALL_REACQUIRES)
    let d := d.onRing k fun x => { x with
      wrong := hist
      st := if near then 1 else 2
      due := if near then some (d.chip.actsAt left) else none
      since := now }
    if 3 ≤ hist.length then d.onLight fun l => { l with retires := l.retires ++ [(k, d.chip.actsAt left)] } else d

/-- What a slot rejected with cause WRONG_LINE tells of its rings (R250): the assigned line `a`, the tag's LINE. The
answer says whether the latch alone is at fault, against which the reject then counts. -/
def Dev.wrongLine (d : Dev) (ep latch corridor a tag left : Nat) : Bool × Dev :=
  let k := 0x8000 + ep * 512 + latch
  let t := (d.chip.ring k).line
  let m := corridor * 18 + tag
  if t = tag ∧ t ≠ a then (true, (d.wrongLock k (some (lineDist t a)) left).onRing k fun x => { x with rejects := satAdd 32 x.rejects 1 })
  else if t = a ∧ tag ≠ a then (false, if tag < 18 then d.wrongLock m (some (lineDist t tag)) left else d)
  else
    let d := d.wrongLock k (if t < 18 then some (lineDist t a) else none) left
    let own := (d.chip.ring m).line
    (false, if tag < 18 then d.wrongLock m (if own < 18 then some (lineDist own tag) else none) left else d)

/-- Relocks that fall due at threshold `m`: the ring moves to its line in the doorway (R251). -/
def relockRings (m : Nat) (d : Dev) : Dev :=
  (d.chip.light.rings.filter fun p => p.2.st = 1 && p.2.due = some m).foldl (fun d p =>
    let line := (d.chip.ringLine p.1).getD 31
    (d.onRing p.1 fun x => { x with st := 0, due := none, lockTemp := some (d.chip.tileTemp (ringEndpoint p.1)), line }).calStart 2 (ringEndpoint p.1)) d

/-- Rings retired at threshold `m`: a modulator's line retires with it, a latch stays parked (R216, R228, R252). -/
def retireRings (m : Nat) (d : Dev) : Dev :=
  let due := d.chip.light.retires.filter fun p => p.2 = m
  let d := d.onLight fun l => { l with retires := l.retires.filter fun p => p.2 ≠ m }
  due.foldl (fun d p =>
    if d.chip.ringState p.1 = 4 then d
    else
      let d := ((d.onRing p.1 fun x => { x with st := 4, due := none }).log3 clsRetire 5 p.1).appendRetire 2 8 p.1
      match ringLatch p.1 with
      | none => d.retireLine (p.1 / 18) (p.1 % 18) 8
      | some (ep, l) => d.onLatch ep l fun x => { x with retired := true, assigned := none }) d

/-! ## Sources -/

/-- A source by number. -/
def Chip.src (c : Chip) (s : Nat) : Src := Tab.get {} c.light.srcs s
/-- Change a source. -/
def Dev.onSrc (d : Dev) (s : Nat) (f : Src → Src) : Dev := d.onLight fun l => { l with srcs := Tab.upd {} l.srcs s f }

/-- The sources of a group's die (R232, R233): even groups draw from LB0. -/
def dieSources (g : Nat) : List Nat := (List.range 15).map (15 * (g % 2) + ·)

/-- The source that lights a group. -/
def Chip.activeSrc (c : Chip) (g : Nat) : Option Nat :=
  (dieSources g).find? fun s => let x := c.src s; x.st = 3 && x.group = g && x.leaving.isNone

/-- A spare WARMING or READY for a group. -/
def Chip.spareFor (c : Chip) (g : Nat) : Option Nat :=
  (dieSources g).find? fun s => let x := c.src s; (x.st = 1 || x.st = 2) && x.group = g

/-- The lowest-numbered DARK source of a group's die (R238). -/
def Chip.darkSpare (c : Chip) (g : Nat) : Option Nat := (dieSources g).find? fun s => (c.src s).st = 0

/-- Warm a spare (R239). -/
def Dev.warm (d : Dev) (s g : Nat) (asked : Bool) : Dev :=
  (d.onSrc s fun x => { x with st := 1, group := g, warmAt := d.chip.frm.time, asked, okSince := none }).log3 clsLaser 6 s

/-- A group needs a spare: one is warmed, or the die has none (R237, R238); a lost group without one loses its lines at
the next threshold (R242). -/
def Dev.needSpare (d : Dev) (g : Nat) : Dev :=
  if (d.chip.spareFor g).isSome then d
  else match d.chip.darkSpare g with
    | some s => d.warm s g false
    | none =>
      let d := (d.flag F.HALL_LASER_INT_STATUS_NO_SPARE).log3 clsLaser 6 ((d.chip.activeSrc g).getD 0)
      let d := d.onLight fun l => { l with alert := orBit l.alert g }
      if d.chip.light.lost.any fun p => p.1 = g then
        d.onLight fun l => if l.ending.any fun p => p.1 = g then l else { l with ending := l.ending ++ [(g, nextFrame d.chip.frm.cur)] }
      else d

/-- A group's source calls for the swap of a READY spare: fade of -2.0 dB or below, or DRIVE at 100 % (R237). -/
def Chip.wantsSwap (c : Chip) (g : Nat) : Bool :=
  match c.activeSrc g with
  | some s => decide ((c.src s).fade ≤ -20) || decide (200 ≤ (c.src s).drive)
  | none => true

/-- A swap is decided for a threshold (R240). -/
def Dev.decideSwap (d : Dev) (s due : Nat) : Dev :=
  let x := d.chip.src s
  if d.chip.light.swaps.any fun w => w.group = x.group then d
  else d.onLight fun l => { l with swaps := l.swaps ++ [⟨x.group, s, due, x.asked⟩] }

/-- A group is lit again, or has lost its lines: its bundles are no longer held (R242). -/
def Dev.relight (d : Dev) (g : Nat) : Dev :=
  let d := d.onLight fun l => { l with lost := l.lost.filter (fun p => p.1 ≠ g), ending := l.ending.filter (fun p => p.1 ≠ g), alert := clrBit l.alert g, gone := clrBit l.gone g }
  (groupBundles g).foldl (fun d b => d.onBundle b fun x => { x with dark := false }.resume) d

/-- The tiles that receive a group: those with a latch assigned to one of its corridors (R486). -/
def Chip.groupTiles (c : Chip) (g : Nat) : List Nat :=
  (List.range 23).filter fun ep => c.hall.latches.any fun p => p.1 / 512 = ep && (p.2.assigned.any fun a => a.1 % 26 = g)

/-- A swap takes effect (R240, R243): the spare lights the group; the old source goes dark at the next threshold; runs of
the laser die and of the receivers' thresholds start (R486). -/
def Dev.swapNow (d : Dev) (w : SwapDue) : Dev :=
  if (d.chip.src w.src).st ≠ 2 then d
  else
    let d := match d.chip.activeSrc w.group with
      | some old => (d.onSrc old fun x =>
          { x with leaving := some (if w.asked ∧ -10 < x.fade then 0 else 4), group := 31, raising := false }).log3 clsLaser 6 old
      | none => d
    let d := (d.onSrc w.src fun x => { x with st := 3, group := w.group, asked := false, okSince := none }).appendRetire 7 7 w.src
      (3 + w.group * 256)
    let d := ((d.flag F.HALL_LASER_INT_STATUS_SWAPPED).count F.HALL_LASER_SWAPS).relight w.group
    (d.chip.groupTiles w.group).foldl (fun d ep => d.calStart 3 ep) (d.calStart 4 (w.src / 15))

/-- Swaps due at threshold `m`, then the bundles of lost groups quiesced (R241, R242). -/
def lightSwaps (m : Nat) (d : Dev) : Dev :=
  let due := d.chip.light.swaps.filter fun w => w.due = m
  let d := d.onLight fun l => { l with swaps := l.swaps.filter fun w => w.due ≠ m }
  let d := due.foldl Dev.swapNow d
  (d.chip.light.lost.filter fun p => !frameLater p.2 m).foldl (fun d p =>
    (groupBundles p.1).foldl (fun d b => d.onBundle b fun x => { x with dark := true }.quiesce) d) d

/-- Groups that no source can light lose every line at threshold `m`, and their loss ends with that (R242). -/
def endGroups (m : Nat) (d : Dev) : Dev :=
  (d.chip.light.ending.filter fun p => p.2 = m).foldl (fun d p =>
    let d := (groupBundles p.1).foldl (fun d b => (List.range 18).foldl (fun d l => d.retireLine b l 0) d) d
    (d.relight p.1).onLight fun l => { l with gone := orBit l.gone p.1 }) d

/-- The lowest fade, in 0.1 dB, that a mean power of `sum` / `n` nW does not exceed against a reference in 0.01 dBm: the power relative to
the reference rounded up (R235; log 121). -/
def fadeLevel (sum n : Nat) (ref : Int) : Int :=
  let a := sum ^ 1000
  let b := n ^ 1000
  leastInt (fun k =>
    let e := ref + 10 * k + 6000
    if 0 ≤ e then decide (a ≤ b * 10 ^ e.toNat) else decide (a * 10 ^ (-e).toNat ≤ b)) 9 (-129) 127

/-- The reference powers of a source's 18 lines in the LASER set of its die (R235, R495). -/
def Chip.tapRefs (c : Chip) (s : Nat) : List Int := ((Tab.get {} c.cal.units (calKey 4 (s / 15)) : CalUnit).cur.drop (22 * (s % 15) + 4)).take 18

/-- The fade of a source: the lowest over its lines of the power, averaged over the last 8 frames, relative to the reference (R235). -/
def fadeOf (taps : List (List Nat)) (refs : List Int) : Option Int :=
  ((List.range 18).zip refs).foldl (fun m p =>
    let f := fadeLevel ((taps.map fun t => t.getD p.1 0).foldl (· + ·) 0) taps.length p.2
    some (min (m.getD f) f)) none

/-- What the threshold measures: the tap powers of each lit or warming source, and from them its fade, in tenths of a dB (R235); sources
replaced a frame ago go dark (R240). -/
def lightMeasure (taps : List (Nat × List Nat)) (d : Dev) : Dev :=
  let d := taps.foldl (fun d p =>
    if p.1 < 30 ∧ ((d.chip.src p.1).st = 1 ∨ (d.chip.src p.1).st = 3) then
      let refs := d.chip.tapRefs p.1
      d.onSrc p.1 fun x =>
        let l := (p.2 :: x.taps).take 8
        { x with taps := l, fade := (fadeOf l refs).getD x.fade }
    else d) d
  (List.range 30).foldl (fun d s => match (d.chip.src s).leaving with
    | some st =>
      let d := d.onSrc s fun x => { x with st, leaving := none, asked := false, taps := [] }
      let d := d.appendRetire 7 7 s (st + 31 * 256)
      if st = 4 then d.log3 clsRetire 6 s else d
    | none => d) d

/-- One ACTIVE source judged at a threshold (R237, R238, R242, R486); one whose group has lost its lines has nothing left to light. -/
def sourcePolicy (d : Dev) (s : Nat) : Dev :=
  let x := d.chip.src s
  if x.st ≠ 3 ∨ x.leaving.isSome ∨ 26 ≤ x.group ∨ bitOf d.chip.light.gone x.group then d
  else
    let g := x.group
    let next := nextFrame d.chip.frm.cur
    let raising := (x.raising || decide (x.fade ≤ -10)) && decide (x.fade < -5) && decide (x.drive < 200)
    let raisedAt := if raising && !x.raised then d.chip.frm.cur else x.raisedAt
    let d := d.onSrc s fun x => { x with raising, raisedAt, drive := if raising then x.drive + 1 else x.drive, raised := x.raised || raising }
    let d := if x.raised ∧ 2 ^ 20 ≤ frameSub d.chip.frm.cur x.raisedAt then
        (d.calStart 4 (s / 15)).onSrc s fun x => { x with raisedAt := d.chip.frm.cur } else d
    let d := if raising then (d.flag F.HALL_LASER_INT_STATUS_DRIVE_RAISED).log3 clsLaser 6 s else d
    let lost := d.chip.light.lost.any fun p => p.1 = g
    let d := if x.fade ≤ -60 ∧ !lost then
        ((d.onLight fun l => { l with lost := l.lost ++ [(g, next)] }).flag F.HALL_LASER_INT_STATUS_SOURCE_LOST).log3 clsLaser 6 s
      else d
    let full := decide (200 ≤ (d.chip.src s).drive)
    let need := decide (x.fade ≤ -15) || full
    let d := if need then d.needSpare g else d
    let d := if need && ((d.chip.spareFor g).isSome || (d.chip.darkSpare g).isSome) || !need then
        d.onLight fun l => { l with alert := clrBit l.alert g } else d
    match d.chip.spareFor g with
    | some k =>
      if (d.chip.src k).st ≠ 2 then d
      else
        let d := if d.chip.wantsSwap g then d.decideSwap k next else d
        d.onSrc k fun y => { y with okSince := if x.fade ≤ -10 then none else some (y.okSince.getD d.chip.frm.time) }
    | none => d

/-- The fade policy over every source (R237). -/
def lightPolicy (d : Dev) : Dev := (List.range 30).foldl sourcePolicy d

/-! ## The commands -/

/-- Milliseconds on frm.time. -/
def msNs (n : Nat) : Nat := n * 1000000

/-- The time at the end of the running frame. -/
def Chip.endTime (c : Chip) : Nat := c.frm.time + c.frameNs

/-- A warming source has locked (R239): it is READY, and swapped in if the group calls for it. -/
def spareReady (s left : Nat) (d : Dev) : Dev :=
  let x := d.chip.src s
  if 30 ≤ s ∨ x.st ≠ 1 then d
  else
    let d := ((d.onSrc s fun x => { x with st := 2 }).flag F.HALL_LASER_INT_STATUS_SPARE_READY).log3 clsLaser 6 s
    if x.asked || d.chip.wantsSwap x.group then d.decideSwap s (d.chip.actsAt left) else d

/-- A source without lock for 20 ms is RETIRED; the next DARK source is warmed (R239). -/
def warmFail (s : Nat) (d : Dev) : Dev :=
  let x := d.chip.src s
  if 30 ≤ s ∨ x.st ≠ 1 ∨ d.chip.endTime < x.warmAt + msNs 20 then d
  else
    let d := (d.onSrc s fun x => { x with st := 4, group := 31, asked := false }).flag F.HALL_LASER_INT_STATUS_WARM_FAIL
    let d := ((d.log3 clsLaser 6 s).log3 clsRetire 6 s).appendRetire 7 0 s (4 + 31 * 256)
    match d.chip.darkSpare x.group with
    | some k => d.warm k x.group x.asked
    | none => d.needSpare x.group

/-- HALL_LASER_CTL written with SWAP: a group above 25 leaves the field unchanged (R257). -/
def swapWrite (r : Requester) (g t : Nat) (d : Dev) : Dev :=
  if isPf r then
    d.stage r t F.HALL_LASER_CTL_SWAP.key (F.HALL_LASER_CTL_SWAP.mask + if g ≤ 25 then F.HALL_LASER_CTL_GROUP.mask else 0) (g % 32 * 2 ^ 8 + 1)
  else d

/-- SWAP takes effect (R240, R257): a spare is warmed for the group in GROUP, or the one WARMING or READY for it already is swapped in;
on a die without a DARK source the write is ignored with NO_SPARE set. -/
def effectSwap (d : Dev) : Dev :=
  let g := d.chip.fld F.HALL_LASER_CTL_GROUP
  match d.chip.darkSpare g with
  | none => d.flag F.HALL_LASER_INT_STATUS_NO_SPARE
  | some s =>
    match d.chip.spareFor g with
    | none => d.warm s g true
    | some s =>
      let d := d.onSrc s fun x => { x with asked := true }
      if (d.chip.src s).st = 2 then d.decideSwap s (nextFrame d.chip.frm.cur) else d

/-- A READY spare whose group has been above -1.0 dB for 10 s returns to DARK (R237). -/
def spareReturn (s : Nat) (d : Dev) : Dev :=
  let x := d.chip.src s
  match x.okSince with
  | none => d
  | some t0 =>
    if s < 30 ∧ x.st = 2 ∧ !x.asked ∧ t0 + msNs 10000 ≤ d.chip.endTime ∧ (d.chip.light.swaps.all fun w => w.src ≠ s) then
      (d.onSrc s fun x => { x with st := 0, group := 31, okSince := none }).log3 clsLaser 6 s
    else d

/-- A seed-tone window completes (R249): the line it names becomes the ring's reading; a modulator off its own line has a
wrong lock (R250). -/
def seedWindow (latch : Bool) (unit index : Nat) (tone : Option Nat) (left : Nat) (d : Dev) : Dev :=
  match ringIndex latch unit index with
  | none => d
  | some k =>
    match tone with
    | none => d.count F.HALL_SEED_NOTONE
    | some t =>
      if 18 ≤ t then d
      else
        let d := d.onRing k fun x => { x with line := t }
        if !latch && t ≠ index then d.wrongLock k (some (lineDist t index)) left else d

/-- A sweep has ended in lock (R252). -/
def reacquired (latch : Bool) (unit index : Nat) (d : Dev) : Dev :=
  match ringIndex latch unit index with
  | none => d
  | some k =>
    if d.chip.ringState k ≠ 2 then d
    else d.onRing k fun x => { x with st := 0, lockTemp := some (d.chip.tileTemp (ringEndpoint k)), line := (d.chip.ringLine k).getD x.line }

/-- Four frames have passed without lock: the ring is retired (R252). -/
def reacquireTimeout (latch : Bool) (unit index left : Nat) (d : Dev) : Dev :=
  match ringIndex latch unit index with
  | none => d
  | some k =>
    if d.chip.ringState k ≠ 2 ∨ frameSub d.chip.frm.cur (d.chip.ring k).since < 4 then d
    else d.onLight fun l =>
      if l.retires.any fun p => p.1 = k then l else { l with retires := l.retires ++ [(k, d.chip.actsAt left)] }

open Host

/-- SPARE_READY (R239). `left`: ns before the next threshold. -/
def execSpareReady (src left : Nat) (s : State) : Outcome State Fault Refusal := runs s (spareReady src left)

/-- WARM_FAIL (R239). -/
def execWarmFail (src : Nat) (s : State) : Outcome State Fault Refusal := runs s (warmFail src)

/-- SWAP (R240). `t`: ns since the last threshold. -/
def execSwap (r : Requester) (g t : Nat) (s : State) : Outcome State Fault Refusal := runs s (swapWrite r g t)

/-- SPARE_RETURN (R237). -/
def execSpareReturn (src : Nat) (s : State) : Outcome State Fault Refusal := runs s (spareReturn src)

/-- SEED_WINDOW (R249, R250). -/
def execSeedWindow (latch : Bool) (unit index : Nat) (tone : Option Nat) (left : Nat) (s : State) :
    Outcome State Fault Refusal := runs s (seedWindow latch unit index tone left)

/-- REACQUIRE_DONE (R252). -/
def execReacquireDone (latch : Bool) (unit index : Nat) (s : State) : Outcome State Fault Refusal :=
  runs s (reacquired latch unit index)

/-- REACQUIRE_TIMEOUT (R252). -/
def execReacquireTimeout (latch : Bool) (unit index left : Nat) (s : State) : Outcome State Fault Refusal :=
  runs s (reacquireTimeout latch unit index left)

end Sys2Proof.Machine
end

