-- ==== Sys2Proof/Machine/Packet.lean ====
section
/-! DEFINITION. Packets of the torus: layout, checks and virtual channels (R361 to R364). -/

namespace Sys2Proof.Machine

/-- The next multiple of `k`. -/
def roundUp (k n : Nat) : Nat := (n + k - 1) / k * k

/-- Bytes of the husk map of a body of `n` bytes (R363). -/
def mapLen (n : Nat) : Nat := roundUp 8 (((n + 15) / 16 + 7) / 8)

/-- The husk map's bytes. -/
def packetMap (p : Packet) : List Byte := if p.husk then leBytes (mapLen p.body.length) p.map else []

/-- CTL (R361). -/
def packetCtl (p : Packet) (dl : Bool) : Nat :=
  p.tc % 4 + b2n dl * 4 + b2n p.pip * 8 + b2n p.spec * 16 + b2n p.husk * 32 + b2n p.mcast * 64 + b2n p.retx * 128

/-- The header (R361), with the fields that routers change as given. -/
def packetHead (p : Packet) (dl : Bool) (hops route ecrc : Nat) : List Byte :=
  leBytes 1 p.type ++ leBytes 1 (packetCtl p dl) ++ leBytes 2 p.dest ++ leBytes 2 (p.src % 4096 + p.room % 16 * 4096)
    ++ leBytes 1 hops ++ leBytes 1 route ++ leBytes 4 (p.gen % 256 * 2 ^ 24 + p.num % 2 ^ 24) ++ leBytes 2 p.body.length
    ++ leBytes 2 p.sframe ++ padTo 12 0 p.args ++ leBytes 4 ecrc

/-- ECRC: over the header with DL, HOPS, ROUTE and ECRC zero, the body and the map (R363). -/
def packetCrc (p : Packet) : Nat := (crc32c (packetHead p false 0 0 0 ++ p.body ++ packetMap p)).toNat

/-- The packet with its ECRC. -/
def sealed (p : Packet) : Packet := { p with ecrc := packetCrc p }

/-- A packet whose ARGS a router has changed: its ECRC holds where that of the packet it came from does (R363, R381). -/
def resealed (p x : Packet) : Packet := { x with ecrc := packetCrc x ^^^ packetCrc p ^^^ p.ecrc }

/-- ECRC holds at the destination (R363). -/
def packetOk (p : Packet) : Bool := p.ecrc = packetCrc p

/-- The packet's bytes on the link, padded to a multiple of 8 (R363). -/
def packetBytes (p : Packet) : List Byte :=
  let l := packetHead p p.dl p.hops (p.dirset % 8 + p.dir % 8 * 8 + b2n p.esc * 64) p.ecrc ++ p.body ++ packetMap p
  padTo (roundUp 8 l.length) 0 l

/-- Wire length. -/
def wireLen (p : Packet) : Nat := roundUp 8 (32 + p.body.length + (packetMap p).length)

/-- Read a packet from the front of a byte stream; none while it is incomplete (R354, R361, R363). -/
def parsePacket (l : List Byte) : Option (Packet × List Byte) :=
  let ctl := leField l 1 1
  let route := leField l 7 1
  let len := leField l 12 2
  let husk := bitOf ctl 5
  let n := roundUp 8 (32 + len + if husk then mapLen len else 0)
  if l.length < 32 ∨ l.length < n then none
  else some ({ type := leField l 0 1, tc := ctl % 4, dl := bitOf ctl 2, pip := bitOf ctl 3, spec := bitOf ctl 4, husk, mcast := bitOf ctl 6
               retx := bitOf ctl 7, dest := leField l 2 2, src := leField l 4 2 % 4096, room := leField l 4 2 / 4096, hops := leField l 6 1
               dirset := route % 8, dir := route / 8 % 8, esc := bitOf route 6, gen := leField l 8 4 / 2 ^ 24, num := leField l 8 4 % 2 ^ 24
               sframe := leField l 14 2, args := (l.drop 16).take 12, body := (l.drop 32).take len
               map := if husk then leField l (32 + len) (mapLen len) else 0, ecrc := leField l 28 4 }, l.drop n)

/-- The traffic class a type must have; none for a type that R362 does not list. -/
def typeTc (t : Nat) : Option Nat :=
  if t = 1 ∨ t = 2 ∨ t = 0x30 ∨ t = 0x31 ∨ t = 0x32 ∨ t = 0x33 then some 2
  else if t = 3 ∨ (0x40 ≤ t ∧ t ≤ 0x44) then some 3
  else if 0x10 ≤ t ∧ t ≤ 0x1F then some 0
  else if t = 0x20 ∨ t = 0x21 then some 1
  else none

/-- A neighbour packet: never forwarded (R362). -/
def neighbourType (t : Nat) : Bool := t = 3 || t = 0x31 || t = 0x40 || t = 0x41 || t = 0x42

/-- A windowed packet (R362). -/
def windowed (p : Packet) : Bool := !(p.type = 1 || p.type = 2 || neighbourType p.type || (p.type = 0x20 && p.mcast))

/-- A husked body word. -/
def packetHusked (p : Packet) : Bool := p.husk && p.map ≠ 0

/-- The virtual channel a packet travels in (R364, R368). -/
def vcOf (p : Packet) : Nat :=
  match p.tc with
  | 0 => if p.esc then (if p.dl then 2 else 1) else 0
  | 1 => if p.esc || p.mcast then (if p.dl then 5 else 4) else 3
  | 2 => if p.dl then 7 else 6
  | _ => if p.dl then 9 else 8

/-- Buffer of each virtual channel, in units of 128 bytes (R364). -/
def vcUnits : List Nat := [3072, 512, 512, 2048, 512, 512, 256, 256, 256, 256]

/-- Credit units that a packet takes. -/
def creditUnits (p : Packet) : Nat := (wireLen p + 127) / 128

/-- GEN `g` is newer than `h` (R373). -/
def genNewer (g h : Nat) : Bool := let d := (g + 256 - h % 256) % 256; decide (1 ≤ d) && decide (d ≤ 127)

/-! ## The porch dies -/

/-- Change the fabric. -/
def Dev.onJil (d : Dev) (f : Jilia → Jilia) : Dev := d.onChip fun c => { c with jil := f c.jil }
/-- A porch die handles bytes for a room, 16 for transit (R466). -/
def Dev.passBytes (d : Dev) (die room n : Nat) : Dev := d.onJil fun j => { j with bytes := Tab.upd 0 j.bytes (die * 32 + room) (· + n) }
/-- A port by index. -/
def Chip.port (c : Chip) (q : Nat) : Port := Tab.get {} c.jil.ports q
/-- Change a port. -/
def Dev.onPort (d : Dev) (q : Nat) (f : Port → Port) : Dev := d.onJil fun j => { j with ports := Tab.upd {} j.ports q f }
/-- The porch die of a port. -/
def portDie (q : Nat) : Nat := q / 3
/-- A porch die is up. -/
def Chip.dieUp (c : Chip) (die : Nat) : Bool := (c.block (20 + die)).up
/-- A port exists and its die is up. -/
def Chip.portUp (c : Chip) (q : Nat) : Bool := decide (q < 6) && c.dieUp (portDie q)

/-- Count in a register of a porch block. -/
def Dev.countDie (d : Dev) (f : Fld) (die : Nat) (n : Nat := 1) : Dev := d.count f n die
/-- Count in a register of a port. -/
def Dev.countPort (d : Dev) (f : Fld) (q : Nat) (n : Nat := 1) : Dev := d.count f n (portDie q) (q % 3)

/-- The home die of a pair (R369). -/
def homeDie (node : Nat) : Nat := node % 2

/-- A dimension's coordinate in a node ID: 0 X, 1 Y, 2 Z (R359). -/
def coord (node dim : Nat) : Nat := node / 2 ^ (8 - 4 * dim) % 16
/-- A node ID with one coordinate replaced. -/
def withCoord (node dim v : Nat) : Nat := setBits node (8 - 4 * dim) 4 v
/-- The size of the torus in a dimension (R359). -/
def Chip.torusSize (c : Chip) (dim : Nat) : Nat :=
  1 + match dim with
    | 0 => c.fld F.PCH_NODE_SX
    | 1 => c.fld F.PCH_NODE_SY
    | _ => c.fld F.PCH_NODE_SZ
/-- The port of a dimension and direction: X+, Y+, Z+, X-, Y-, Z- (R349). -/
def portOf (dim : Nat) (minus : Bool) : Nat := dim + if minus then 3 else 0
/-- The neighbour at a port (R360). -/
def Chip.neighbourAt (c : Chip) (q : Nat) : Nat :=
  let n := c.torusSize (q % 3)
  let x := coord c.nodeId (q % 3)
  withCoord c.nodeId (q % 3) ((if q < 3 then x + 1 else x + n - 1) % n)
/-- The number of a port's link in its ring: link i joins coordinates i and i + 1 (R366, R390). -/
def Chip.linkOf (c : Chip) (q : Nat) : Nat :=
  let n := c.torusSize (q % 3)
  let x := coord c.nodeId (q % 3)
  if q < 3 then x else (x + n - 1) % n

/-- A packet from another node as its target takes it: its husk records have crossed a link (REMOTE, R437). A reply's data stand behind its
prefix (R395). -/
def Chip.arrived (c : Chip) (p : Packet) : Packet :=
  if !p.husk ∨ p.src = c.nodeId then p
  else
    let at0 := if p.type = 0x18 then 8 else 0
    { p with body := p.body.mapIdx fun i b => if at0 ≤ i ∧ (i - at0) % 16 = 3 ∧ bitOf p.map ((i - at0) / 16) then b ||| 1 else b }

end Sys2Proof.Machine
end

