-- ==== Sys2Proof/Machine/Link.lean ====
section
/-! DEFINITION. Jilia ports: states, training, lanes, codewords and flits (R349 to R359, R386, R388). -/

namespace Sys2Proof.Machine

/-! ## Light, lanes and codewords -/

/-- The porch bundle whose feed group lights a port (R349). -/
def portBundle (q : Nat) : Nat := [276, 277, 278, 284, 285, 286].getD q 276
/-- The feed group of a port's light (R349). -/
def portGroup (q : Nat) : Nat := portBundle q % 26
/-- A port's transmit light is there: its feed group is not dark (R242, R350). -/
def Chip.portLit (c : Chip) (q : Nat) : Bool := !(c.bundle (portBundle q)).dark
/-- The line of a lane, and whether it runs on the higher fibre of its pair (R30, R350). -/
def laneLine (k : Nat) : Nat := 2 * (k % 8) + 1
def laneHigh (k : Nat) : Bool := decide (8 ≤ k)

/-- LINK of a flit (R354). -/
def flitLink (f : Flit) : Nat :=
  f.fseq % 2048 * 2 ^ 21 + f.ack % 2048 * 2 ^ 10 + b2n f.nak * 512 + b2n f.idle * 256 + f.cvc % 16 * 16 + f.crd % 16
/-- The CRC of a flit (R354). -/
def flitCrc (f : Flit) : Nat := (crc32c (leBytes 4 (flitLink f) ++ padTo 312 0 f.body)).toNat
/-- The flit with its CRC. -/
def flitSealed (f : Flit) : Flit := { f with crc := flitCrc f }
/-- The 320 bytes of a flit (R354). -/
def flitBytes (f : Flit) : List Byte := leBytes 4 (flitLink f) ++ padTo 312 0 f.body ++ leBytes 4 f.crc

/-- A lane marker (R353). -/
def laneMarker (lane round mode : Nat) : Nat := lane % 16 * 65536 + round % 256 * 256 + mode % 256
/-- Ten-bit symbols of bytes, five bytes to four symbols, the lowest bits first (log 124). -/
def tenBits : List Byte → List Nat
  | a :: b :: c :: d :: e :: r =>
    let n := ofLe [a, b, c, d, e]
    n % 1024 :: bitsOf n 10 10 :: bitsOf n 20 10 :: bitsOf n 30 10 :: tenBits r
  | _ => []
/-- The 544 symbols of a codeword (R353): two flits, the marker, and 30 check symbols of the code of Clause 91 (log 124). -/
def codeSymbols (lane round mode : Nat) (f0 f1 : Flit) : List Nat :=
  let m := laneMarker lane round mode
  let u := tenBits (flitBytes f0 ++ flitBytes f1) ++ [m % 1024, m / 1024]
  u ++ rsCheck 10 0x409 30 u

/-- The next live lane of a round, from `lane` on, else the first of the next round (R355). -/
def nextLane (live round lane : Nat) : Option (Nat × Nat) :=
  match (bitList 16 live).find? fun k => lane ≤ k with
  | some k => some (round, k)
  | none => (bitList 16 live).head?.map fun k => ((round + 1) % 256, k)

/-- Where the next codeword goes, by the lanes in force for its round (R355, R358): the mask, the round and the lane. -/
def Port.nextWord (p : Port) : Option (Nat × Nat × Nat) :=
  let stay := p.txLane ≠ 0 && (bitList 16 p.txLive).any fun k => decide (p.txLane ≤ k)
  let live := if stay then p.txLive else p.txNext.getD p.txLive
  let round := if stay || p.txLane = 0 then p.txRound else (p.txRound + 1) % 256
  (nextLane live round (if stay then p.txLane else 0)).map fun x => (live, x.1, x.2)

/-- A codeword goes out; a port whose feed group is dark sends no light (R350, R353). -/
def Dev.sendWord (d : Dev) (q mode : Nat) (f0 f1 : Flit) : Dev :=
  match (d.chip.port q).nextWord with
  | none => d
  | some (live, round, lane) =>
    if !d.chip.portLit q then d
    else
      let d := d.onPort q fun p => { p with
        txNext := if live = p.txNext.getD live then none else p.txNext, txLive := live, txRound := round, txLane := lane + 1 }
      d.emit (.codeword q (laneLine lane) (laneHigh lane) (codeSymbols lane round mode f0 f1))

/-- An IDLE flit (R354): not numbered, it acknowledges and may return credits. -/
def Port.idleFlit (p : Port) (nak : Bool := false) (vc crd : Nat := 0) : Flit :=
  flitSealed { fseq := 0, ack := p.rxSeq, nak, idle := true, cvc := vc, crd, crc := 0 }

/-- Flits go out on the lanes of a trained port, two in a codeword (R353, R355). -/
def Dev.sendFlits (d : Dev) (q : Nat) : List Flit → Dev
  | [] => d
  | [f] => if (d.chip.port q).st = 3 ∨ (d.chip.port q).st = 4 then d.sendWord q 0 f (d.chip.port q).idleFlit else d
  | f :: g :: l => (if (d.chip.port q).st = 3 ∨ (d.chip.port q).st = 4 then d.sendWord q 0 f g else d).sendFlits q l

/-- Ask for a replay from after the last good flit (R355). -/
def Dev.nak (d : Dev) (q : Nat) : Dev := d.sendFlits q [(d.chip.port q).idleFlit true]

/-- Credits of a virtual channel return in flit headers, at most 15 in each (R354, R364). -/
def Dev.giveCredit (d : Dev) (q vc n : Nat) : Dev :=
  d.sendFlits q ((List.range ((n + 14) / 15)).map fun k => (d.chip.port q).idleFlit false vc (min 15 (n - 15 * k)))

/-- Send bodies as numbered flits: they are kept for replay, the last 1,024 of them (R355). -/
def Dev.sendBodies (d : Dev) (q : Nat) (l : List (List Byte)) : Dev :=
  let p := d.chip.port q
  let fs := l.zipIdx.map fun b => flitSealed { fseq := (p.txSeq + b.2) % 2048, ack := p.rxSeq, body := b.1, crc := 0 }
  let keep := p.keep ++ fs.map fun f => (f.fseq, f.body)
  (d.onPort q fun p => { p with
    txSeq := (p.txSeq + l.length) % 2048, mFlits := p.mFlits + l.length, keep := keep.drop (keep.length - 1024) }).sendFlits q fs

/-- The bodies that carry a packet: it starts a body, and the rest of its last body is padding (R354). -/
def bodies (l : List Byte) : List (List Byte) :=
  (List.range ((l.length + 311) / 312)).map fun k => padTo 312 0 ((l.drop (312 * k)).take 312)

/-- Put a packet on a carrying port: it takes credit at the next hop (R354, R364). -/
def Dev.sendOn (d : Dev) (q : Nat) (p : Packet) : Dev :=
  let vc := vcOf p
  let d := d.onPort q fun x => { x with credit := x.credit.set vc (x.credit.getD vc 0 - creditUnits p) }
  (d.emit (.packet q (packetBytes p))).sendBodies q (bodies (packetBytes p))

/-- A port carries and has credit for a packet (R357, R364). -/
def Port.takes (x : Port) (p : Packet) : Bool := x.carrying && decide (creditUnits p ≤ x.credit.getD (vcOf p) 0)

/-- A neighbour packet goes out behind those of its virtual channel that wait; without credit, or before the port carries, it
waits too (R357, R364). -/
def Dev.putNear (d : Dev) (q : Nat) (p : Packet) : Dev :=
  let x := d.chip.port q
  if x.takes p ∧ (x.near.all fun y => vcOf y ≠ vcOf p) then d.sendOn q p
  else d.onPort q fun x => { x with near := x.near ++ [p] }

/-- A neighbour packet of this module (R362). -/
def Dev.sendNear (d : Dev) (q : Nat) (p : Packet) : Dev :=
  d.putNear q (sealed { p with dest := (d.chip.port q).neighbour, src := d.chip.nodeId })

/-- The neighbour packets that wait go out as far as credit allows. -/
def Dev.pumpNear (d : Dev) (q : Nat) : Dev :=
  let l := (d.chip.port q).near
  l.foldl (fun d p => d.putNear q p) (d.onPort q fun x => { x with near := [] })

/-- Replay every flit after the acknowledged one, in order (R355). -/
def Dev.replayFlits (d : Dev) (q ack : Nat) : Dev :=
  let p := d.chip.port q
  let again := p.keep.filter fun f => decide ((f.1 + 2048 - (ack + 1) % 2048) % 2048 < 1024)
  let d := d.sendFlits q (again.map fun f => flitSealed { fseq := f.1, ack := p.rxSeq, body := f.2, crc := 0 })
  (d.countPort F.PCH_PORT_REPLAYS q again.length).onPort q fun p => { p with mReplays := p.mReplays + again.length }

/-! ## What a port's carrying means to the rings -/

/-- A LINK_STATE packet (R367): the ring's dimension, the link, and whether it is broken (log 125). -/
def linkPacket (dim i : Nat) (down : Bool) : Packet :=
  { type := 0x31, tc := 2, dest := 0, args := padTo 12 0 (leBytes 1 dim ++ leBytes 1 i ++ leBytes 1 (b2n down)) }

/-- A LINK_STATE packet goes out on a port that carries (R367). -/
def Dev.sendLink (d : Dev) (q dim i : Nat) (down : Bool) : Dev :=
  if (d.chip.port q).carrying then d.sendNear q (linkPacket dim i down) else d

/-- A link of this module stops or starts carrying (R367): it is reported both ways around its ring, and this module's own
map changes at the next threshold (R366). -/
def Dev.linkChange (d : Dev) (q : Nat) (down : Bool) : Dev :=
  let dim := q % 3
  let i := d.chip.linkOf q
  let d := d.onJil fun j => { j with breakDue := j.breakDue ++ [(dim, i, down)] }
  (d.sendLink (portOf dim false) dim i down).sendLink (portOf dim true) dim i down

/-- A port leaves ACTIVE or DEGRADED: it stops carrying at once (R357). -/
def Dev.portDown (d : Dev) (q : Nat) : Dev :=
  if (d.chip.port q).carrying then
    ((d.onPort q fun p => { p with carrying := false }).flag F.PCH_INT_STATUS_PORT_DOWN (portDie q)).linkChange q true
  else d

/-- A port enters a state (R357). -/
def Dev.portTo (d : Dev) (q st cause : Nat) : Dev :=
  let d := if st = 3 ∨ st = 4 then d else d.portDown q
  d.onPort q fun p => { p with st, cause, since := d.chip.frm.time, waiting := false }

/-- A port trains (R356, R357). -/
def Dev.train (d : Dev) (q cause : Nat) : Dev :=
  (d.portTo q 2 cause).onPort q fun p => { p with live := 0 }

/-- A training attempt fails: CAUSE is set and the port waits for its retry (R356, R357). -/
def Dev.trainFails (d : Dev) (q cause : Nat) : Dev :=
  d.onPort q fun p => { p with cause, waiting := true, since := d.chip.frm.time }

/-! ## Events of the light and of training -/

/-- EN takes effect (R357). -/
def portEn (q : Nat) (en : Bool) (d : Dev) : Dev :=
  if !d.chip.portUp q then d
  else
    let d := d.setFld F.PCH_PORT_CTL_EN (b2n en) (portDie q) (q % 3)
    if !en then d.portTo q 0 0
    else if (d.chip.port q).st = 0 then d.portTo q 1 0 else d

/-- Light on both receive fibres for 1 ms (R357). -/
def lightDetect (q : Nat) (d : Dev) : Dev :=
  if d.chip.portUp q ∧ (d.chip.port q).st = 1 then d.train q 0 else d

/-- A receive fibre dark for 100 us (R352, R357). -/
def lossOfLight (q : Nat) (d : Dev) : Dev :=
  let p := d.chip.port q
  if d.chip.portUp q ∧ 1 ≤ p.st ∧ p.st ≤ 4 then
    (d.portTo q 5 1).flag F.PCH_INT_STATUS_SAFE (portDie q)
  else d

/-- A safe pulse goes out, where the port has light (R350, R352). -/
def Dev.pulse (d : Dev) (q : Nat) : Dev :=
  let d := d.onPort q fun p => { p with pulseAt := some d.chip.frm.time }
  if d.chip.portLit q then d.emit (.pulse q) else d

/-- A port in SAFE sends its pulse every 100 ms (R352). -/
def safePulse (q : Nat) (d : Dev) : Dev :=
  let p := d.chip.port q
  if d.chip.portUp q ∧ p.st = 5 ∧ p.pulseAt.all (fun a => decide (a + msNs 100 ≤ d.chip.endTime)) then d.pulse q else d

/-- A safe pulse arrives (R352): within 2 ms of the port's own it restores full light, else it is answered. -/
def pulseIn (q : Nat) (d : Dev) : Dev :=
  let p := d.chip.port q
  if !d.chip.portUp q ∨ p.st ≠ 5 then d
  else match p.pulseAt with
    | some a => if d.chip.frm.time ≤ a + msNs 2 then (d.train q 0).onPort q fun p => { p with pulseAt := none } else d.pulse q
    | none => d.pulse q

/-- The torus sizes as PCHn_NODE packs them. -/
def Chip.sizes (c : Chip) : Nat := (c.torusSize 0 - 1) * 256 + (c.torusSize 1 - 1) * 16 + (c.torusSize 2 - 1)

/-- What a port tells the far end in training (R356): node ID, port index and torus sizes, in a TRAIN codeword (log 124). -/
def Dev.exchange (d : Dev) (q : Nat) : Dev :=
  let f := flitSealed { fseq := 0, ack := 0, idle := true, body := leBytes 2 d.chip.nodeId ++ leBytes 2 q ++ leBytes 2 d.chip.sizes, crc := 0 }
  d.sendWord q 2 f f

/-- The Hall base holds the light of a port whose die is in reset, with HOLD markers (R353, R389). -/
def Dev.sendHold (d : Dev) (q : Nat) : Dev := d.sendWord q 1 (d.chip.port q).idleFlit (d.chip.port q).idleFlit

/-- Training ends with the lanes that locked, the markers that arrived as (lane number, on the higher fibre), and what the far
end said (R356, R357). Equalisers adapt from the calibration record; codeword rounds count from 0 afterwards (log 124). -/
def trainingDone (q lanes farNode farPort farSizes : Nat) (markers : List (Nat × Bool)) (d : Dev) : Dev :=
  let p := d.chip.port q
  let live := lanes % 65536 &&& (65535 - p.retired % 65536)
  let n := popcount 16 live
  let d := if d.chip.portUp q ∧ p.st = 2 ∧ !p.waiting then d.exchange q else d
  if !d.chip.portUp q ∨ p.st ≠ 2 ∨ p.waiting then d
  else if markers.any fun m => laneHigh m.1 ≠ m.2 then d.trainFails q 2
  else if farPort ≠ (q + 3) % 6 ∨ farNode ≠ d.chip.neighbourAt q ∨ farSizes ≠ d.chip.sizes then d.trainFails q 3
  else if n < 4 then d.trainFails q 5
  else
    ((d.portTo q (if n = 16 then 3 else 4) 0).calStart 6 q).onPort q fun p => { p with
      neighbour := farNode, live, txLive := 0xFFFF, txNext := none, txRound := 0, txLane := 0, rxRound := 0, rxLane := 0, skew := []
      rxSeq := 2047, txSeq := 0, keep := [], credit := vcUnits, near := [], rx := [], askedAt := none }

/-- 400 ms without completion (R356). -/
def trainFail (q : Nat) (d : Dev) : Dev :=
  let p := d.chip.port q
  if d.chip.portUp q ∧ p.st = 2 ∧ !p.waiting ∧ p.since + msNs 400 ≤ d.chip.endTime then d.trainFails q 4 else d

/-- The wait of 1 s ends (R357). -/
def trainingRetry (q : Nat) (d : Dev) : Dev :=
  let p := d.chip.port q
  if d.chip.portUp q ∧ p.st = 2 ∧ p.waiting ∧ p.since + msNs 1000 ≤ d.chip.endTime then
    d.onPort q fun p => { p with waiting := false, since := d.chip.frm.time }
  else d

/-- HOLD markers from the far end (R357, R389). -/
def farReset (q : Nat) (d : Dev) : Dev :=
  let p := d.chip.port q
  if d.chip.portUp q ∧ 2 ≤ p.st ∧ p.st ≤ 4 then d.train q 6 else d

/-- KiB that a port's input buffer holds. -/
def Port.occupied (p : Port) : Nat := ((p.inq.map wireLen).foldl (· + ·) 0) / 1024

/-- The packets that complete in a port's stream of bodies; TYPE 0 at a packet boundary pads the body (R354). -/
def takePackets : Nat → List Byte → List Packet × List Byte
  | 0, l => ([], l)
  | n + 1, l =>
    if leField l 0 1 = 0 then ([], [])
    else match parsePacket l with
      | none => ([], l)
      | some (p, r) => let t := takePackets n r; (p :: t.1, t.2)

/-- A lane error: logged, counted for the lane's channel unless an injection says not to (R419, R420, R443). -/
def Dev.laneError (d : Dev) (q lane : Nat) (injected nocount : Bool) : Dev :=
  let d := d.log { cls := clsJiliaLane, kind := 8, index := q * 16 + lane, injected }
  if nocount then d else d.chanErr 6 (q * 16 + lane)

/-- A flit received on a lane (R354, R355, R364). `bad`: its CRC fails. -/
def Dev.flitIn (d : Dev) (q : Nat) (f : Flit) : Dev :=
  let p := d.chip.port q
  -- acknowledgement, credits, and what the far end asks to have again
  let d := d.onPort q fun p => { p with
    keep := p.keep.filter fun k => decide ((k.1 + 2048 - (f.ack + 1) % 2048) % 2048 < 1024)
    credit := p.credit.set f.cvc (min (p.credit.getD f.cvc 0 + f.crd) (vcUnits.getD f.cvc 0)) }
  let d := if f.nak then d.replayFlits q f.ack else d
  let d := d.pumpNear q
  if f.idle then d
  else if f.fseq = (p.rxSeq + 1) % 2048 then
    let t := takePackets 40 (p.rx ++ padTo 312 0 f.body)
    let d := d.onPort q fun p =>
      let inq := p.inq ++ t.1
      { p with rxSeq := f.fseq, rx := t.2, inq, mPeak := max p.mPeak ({ p with inq }.occupied) }
    d.sendFlits q [(d.chip.port q).idleFlit]
  else if (f.fseq + 2048 - (p.rxSeq + 1) % 2048) % 2048 < 1024 then d.nak q
  else d

/-- A flit arrives: a wrong CRC is a lane error and is answered with NAK. An injection of kind 10 inverts a CRC bit on its
lane (R443). -/
def flit (s : State) (q lane : Nat) (f : Flit) (d : Dev) : Dev :=
  let p := d.chip.port q
  if !d.chip.portUp q ∨ !bitOf p.live lane ∨ (p.st ≠ 3 ∧ p.st ≠ 4) then d
  else
    let inj := (s.injOn d 10).filter fun i => i.srcKind = 9 && i.target = q && i.addr % 16 = lane
    let d := match inj with
      | some i => d.useInj i
      | none => d
    if f.crc = flitCrc f ∧ inj.isNone then d.flitIn q f
    else (d.laneError q lane inj.isSome (match inj with
      | some i => i.nocount
      | none => false)).nak q

/-- Rounds from the expected one to another, and whether it lies ahead. -/
def Port.roundsAhead (p : Port) (round : Nat) : Nat := (round + 256 - p.rxRound) % 256

/-- A codeword whose turn has come is taken: its two flits are received. -/
def Dev.takeWord (s : State) (d : Dev) (q : Nat) (e : Nat × Nat × Option (Flit × Flit)) : Dev :=
  let d := d.onPort q fun p => { p with skew := p.skew.filter fun x => x ≠ e, rxRound := e.1, rxLane := e.2.1 + 1 }
  match e.2.2 with
  | some fs => flit s q e.2.1 fs.2 (flit s q e.2.1 fs.1 d)
  | none => d

/-- The codewords that came are taken in the order of rounds and lanes; where the next one is 12 rounds late, more than 500 ns, it
is lost: the receiver asks for a replay and goes on with the earliest that came (R355). `fuel` bounds the codewords held. -/
def Dev.deskew (s : State) (d : Dev) (q : Nat) : Nat → Dev
  | 0 => d
  | fuel + 1 =>
    let p := d.chip.port q
    match nextLane p.live p.rxRound p.rxLane with
    | none => d
    | some (round, lane) =>
      match p.skew.find? fun e => e.1 = round && e.2.1 = lane with
      | some e => Dev.deskew s (Dev.takeWord s d q e) q fuel
      | none =>
        if p.skew.all fun e => decide (p.roundsAhead e.1 < 12) then d
        else match p.skew.mergeSort fun a b => decide (p.roundsAhead a.1 * 16 + a.2.1 ≤ p.roundsAhead b.1 * 16 + b.2.1) with
          | [] => d
          | e :: _ => Dev.deskew s (Dev.takeWord s (d.nak q) q e) q fuel

/-- A codeword joins those of its port that wait for their turn; one whose turn has passed, or of a lane that is not live, is
discarded (R355, R358). -/
def Dev.wordIn (s : State) (d : Dev) (q lane round : Nat) (fs : Option (Flit × Flit)) : Dev :=
  let p := d.chip.port q
  let late := decide (128 ≤ p.roundsAhead round) || (round = p.rxRound && decide (lane < p.rxLane))
  if (p.st ≠ 3 ∧ p.st ≠ 4) ∨ !bitOf p.live lane ∨ late then d
  else
    let d := d.onPort q fun p => { p with skew := p.skew ++ [(round, lane, fs)] }
    Dev.deskew s d q (d.chip.port q).skew.length

/-- A codeword of a lane (R353): up to 15 symbols are corrected; more discard both flits. A marker of mode HOLD tells a far
reset (R357). -/
def codeword (s : State) (q lane marker errors : Nat) (f0 f1 : Flit) (d : Dev) : Dev :=
  let p := d.chip.port q
  let mode := marker % 256
  let round := bitsOf marker 8 8
  if !d.chip.portUp q ∨ 16 ≤ lane ∨ !(decide (2 ≤ p.st) && decide (p.st ≤ 4)) then d
  else if 15 < errors then
    let d := (d.countPort F.PCH_PORT_FEC_UNCORR q).onPort q fun p => { p with mUncorr := p.mUncorr + 1 }
    if p.st = 2 ∨ !bitOf p.live lane then d else Dev.wordIn s ((d.laneError q lane false false).nak q) q lane round none
  else
    let d := if errors = 0 then d else d.countPort F.PCH_PORT_FEC_CORR q errors
    if mode = 1 then farReset q d
    else if mode = 2 then d
    else Dev.wordIn s d q lane round (some (f0, f1))

/-! ## Lanes and the port's registers -/

/-- A LANES packet: the transmitter applies the mask from the next codeword round (R358). -/
def lanesIn (q mask : Nat) (d : Dev) : Dev :=
  if d.chip.portUp q ∧ (d.chip.port q).carrying then d.onPort q fun p => { p with txNext := some (mask % 65536) } else d

/-- Decide the retirement of a receive lane (R358). -/
def Dev.retireLane (d : Dev) (q lane due : Nat) (permanent : Bool) : Dev :=
  let p := d.chip.port q
  if 16 ≤ lane ∨ bitOf p.retired lane ∨ p.retires.any (fun x => x.1 = lane) then d
  else d.onPort q fun p => { p with retires := p.retires ++ [(lane, due, permanent)] }

/-- One lane retires at a threshold: the receiver sends a LANES packet; with fewer than 4 left the port trains (R357,
R358). -/
def Dev.laneGone (d : Dev) (q lane : Nat) (permanent : Bool) : Dev :=
  let live := clrBit (d.chip.port q).live lane
  let d := d.onPort q fun p => { p with retired := orBit p.retired lane, live }
  let d := (d.flag F.PCH_INT_STATUS_LANE_RETIRED (portDie q)).log { cls := clsRetire, kind := 8, index := q * 16 + lane, permanent }
  let st := (d.chip.port q).st
  if st ≠ 3 ∧ st ≠ 4 then d
  else if popcount 16 live < 4 then d.train q 5
  else
    let d := d.onPort q fun p => { p with st := 4 }
    if (d.chip.port q).carrying then d.sendNear q { type := 3, tc := 3, dest := 0, args := padTo 12 0 (leBytes 2 live) } else d

/-- The ports at threshold `m`: lanes that retire; a port in ACTIVE or DEGRADED carries from here on (R357, R358). -/
def portsThreshold (m : Nat) (d : Dev) : Dev :=
  (List.range 6).foldl (fun d q =>
    let due := (d.chip.port q).retires.filter fun x => x.2.1 = m
    let d := d.onPort q fun p => { p with retires := p.retires.filter fun x => x.2.1 ≠ m }
    let d := due.foldl (fun d x => d.laneGone q x.1 x.2.2) d
    let p := d.chip.port q
    if (p.st = 3 ∨ p.st = 4) ∧ !p.carrying then
      (((d.onPort q fun p => { p with carrying := true }).flag F.PCH_INT_STATUS_PORT_UP (portDie q)).linkChange q false).pumpNear q
    else d) d

/-- RETRAIN takes effect (R357): retired lanes become eligible again. -/
def retrainPort (q : Nat) (d : Dev) : Dev :=
  let p := d.chip.port q
  if d.chip.portUp q ∧ (p.st = 3 ∨ p.st = 4) then (d.train q 0).onPort q fun p => { p with retired := 0, retires := [] } else d

/-- A Jilia port reset takes effect (R358, R388): training with light held. -/
def resetPort (q : Nat) (d : Dev) : Dev :=
  let p := d.chip.port q
  let d := d.onPort q fun p => { p with retired := 0, retires := [] }
  if d.chip.portUp q ∧ 2 ≤ p.st ∧ p.st ≤ 4 then d.train q 0 else d

/-- What a staged write of PCHn_PORT_CTL does when it takes effect (R357, R358, R388). -/
def effectPortCtl (q value : Nat) (d : Dev) : Dev :=
  let d := if bitOf value 2 then d.retireLane q (bitsOf value 8 4) (nextFrame d.chip.frm.cur) false else d
  let d := if bitOf value 1 then retrainPort q d else d
  if bitOf value 3 then resetPort q d else d

/-- A write of PCHn_NODE takes effect: every port that is not DISABLED trains again (R359). -/
def effectNode (d : Dev) : Dev :=
  (List.range 6).foldl (fun d q => if 2 ≤ (d.chip.port q).st ∧ (d.chip.port q).st ≤ 4 then d.train q 0 else d) d

/-- A write of a port's control register by the PF (R390). -/
def portWrite (r : Requester) (q t mask value : Nat) (d : Dev) : Dev :=
  if isPf r ∧ q < 6 then d.stage r t (F.PCH_PORT_CTL_EN.key (portDie q) (q % 3)) mask value else d

/-- A write of PCHn_NODE by the PF (R359). -/
def nodeWrite (r : Requester) (node sx sy sz t : Nat) (d : Dev) : Dev :=
  if isPf r then d.stage r t F.PCH_NODE_NODE_ID.key 0x0FFF0FFF (sx % 16 * 2 ^ 24 + sy % 16 * 2 ^ 20 + sz % 16 * 2 ^ 16 + node % 4096)
  else d

/-! ## Link delay -/

/-- A DELAY_REQ arrives: it is answered with t1 and the turnaround in ns (R386). -/
def delayReq (q t1 turn : Nat) (d : Dev) : Dev :=
  if d.chip.portUp q ∧ (d.chip.port q).carrying then
    d.sendNear q { type := 0x42, tc := 3, dest := 0, args := padTo 12 0 (leBytes 8 t1 ++ leBytes 4 turn) }
  else d

/-- The median of the delays kept: of an even number, the mean of the middle two. -/
def median (l : List Nat) : Nat :=
  let x := l.mergeSort (· ≤ ·)
  (x.getD ((x.length - 1) / 2) 0 + x.getD (x.length / 2) 0) / 2

/-- A DELAY_RSP completes a measurement (R386). -/
def delayRsp (q t1 turn t4 : Nat) (d : Dev) : Dev :=
  match (d.chip.port q).askedAt with
  | none => d
  | some a =>
    if !d.chip.portUp q ∨ a ≠ t1 then d
    else d.onPort q fun p =>
      let delays := (p.delays ++ [(t4 - t1 - turn) / 2]).drop (p.delays.length + 1 - 8)
      { p with askedAt := none, delays, delay := median delays % 65536 }

/-- A port measures its link delay: at training, then every 1,024 frames (R386). `t1`: its send time in ns. -/
def delayMeasure (q t1 : Nat) (d : Dev) : Dev :=
  let last := Tab.get 0 d.chip.jil.asked q
  if d.chip.portUp q ∧ ((d.chip.port q).st = 3 ∨ (d.chip.port q).st = 4)
      ∧ (last = 0 ∨ 1024 ≤ frameSub d.chip.frm.cur (last - 1) ∨ (d.chip.port q).delays.isEmpty) then
    let d := d.onJil fun j => { j with asked := Tab.ins j.asked q (d.chip.frm.cur + 1) }
    (d.onPort q fun p => { p with askedAt := some t1 }).sendNear q { type := 0x41, tc := 3, dest := 0, args := padTo 12 0 (leBytes 8 t1) }
  else d

open Host

/-- PORT_EN (R357). -/
def execPortEn (q : Nat) (en : Bool) (s : State) : Outcome State Fault Refusal := runs s (portEn q en)

/-- LIGHT_DETECT (R357). -/
def execLightDetect (q : Nat) (s : State) : Outcome State Fault Refusal := runs s (lightDetect q)

/-- LOSS_OF_LIGHT (R352). -/
def execLossOfLight (q : Nat) (s : State) : Outcome State Fault Refusal := runs s (lossOfLight q)

/-- SAFE_PULSE (R352). -/
def execSafePulse (q : Nat) (s : State) : Outcome State Fault Refusal := runs s (safePulse q)

/-- SAFE_PULSE_RECEIVED (R352). -/
def execSafePulseReceived (q : Nat) (s : State) : Outcome State Fault Refusal := runs s (pulseIn q)

/-- TRAINING_DONE (R356). -/
def execTrainingDone (q lanes farNode farPort farSizes : Nat) (markers : List (Nat × Bool)) (s : State) : Outcome State Fault Refusal :=
  runs s (trainingDone q lanes farNode farPort farSizes markers)

/-- TRAIN_FAIL (R356). -/
def execTrainFail (q : Nat) (s : State) : Outcome State Fault Refusal := runs s (trainFail q)

/-- TRAINING_RETRY (R357). -/
def execTrainingRetry (q : Nat) (s : State) : Outcome State Fault Refusal := runs s (trainingRetry q)

/-- FAR_RESET (R357). -/
def execFarReset (q : Nat) (s : State) : Outcome State Fault Refusal := runs s (farReset q)

/-- CODEWORD (R353). -/
def execCodeword (q lane marker errors : Nat) (f0 f1 : Flit) (s : State) : Outcome State Fault Refusal :=
  runs s (codeword s q lane marker errors f0 f1)

/-- FLIT (R355). -/
def execFlit (q lane : Nat) (f : Flit) (s : State) : Outcome State Fault Refusal := runs s (flit s q lane f)

/-- LANES (R358). -/
def execLanes (q mask : Nat) (s : State) : Outcome State Fault Refusal := runs s (lanesIn q mask)

/-- PORT_RETIRE (R358). -/
def execPortRetire (r : Requester) (q lane t : Nat) (s : State) : Outcome State Fault Refusal :=
  runs s (portWrite r q t 0xF04 (lane % 16 * 256 + 4))

/-- RETRAIN (R357). -/
def execRetrain (r : Requester) (q t : Nat) (s : State) : Outcome State Fault Refusal := runs s (portWrite r q t 2 2)

/-- JILIA_PORT_RESET (R388). -/
def execJiliaPortReset (r : Requester) (q t : Nat) (s : State) : Outcome State Fault Refusal := runs s (portWrite r q t 8 8)

/-- NODE_WRITE (R359). -/
def execNodeWrite (r : Requester) (node sx sy sz t : Nat) (s : State) : Outcome State Fault Refusal :=
  runs s (nodeWrite r node sx sy sz t)

/-- DELAY_REQ (R386). -/
def execDelayReq (q t1 turn : Nat) (s : State) : Outcome State Fault Refusal := runs s (delayReq q t1 turn)

/-- DELAY_RSP (R386). -/
def execDelayRsp (q t1 turn t4 : Nat) (s : State) : Outcome State Fault Refusal := runs s (delayRsp q t1 turn t4)

/-- DELAY_MEASURE (R386). -/
def execDelayMeasure (q t1 : Nat) (s : State) : Outcome State Fault Refusal := runs s (delayMeasure q t1)

end Sys2Proof.Machine
end

