-- ==== Sys2Proof/Machine/Requests.lean ====
section
/-! DEFINITION. This module's own requests: their ARGS, reply buffers, completions and fences (R393 to R399, R415, R416). -/

namespace Sys2Proof.Machine

/-! ## Statuses and ARGS -/

/-- Statuses of R396. -/
def rsOk : Nat := 0
def rsHusk : Nat := 1
def rsAbsent : Nat := 2
def rsRange : Nat := 3
def rsNoWindow : Nat := 4
def rsSource : Nat := 5
def rsPerm : Nat := 6
def rsKey : Nat := 7
def rsAlign : Nat := 8
def rsTimeout : Nat := 9
def rsRetracted : Nat := 10
def rsLost : Nat := 11
def rsRoute : Nat := 12
def rsKeyHeld : Nat := 13
def rsNotOwner : Nat := 14

/-- Fields of a request's ARGS (R394). -/
def argJob (p : Packet) : Nat := leField p.args 0 2
def argWindow (p : Packet) : Nat := leField p.args 2 2 % 4096
def argOp (p : Packet) : Nat := leField p.args 2 2 / 4096
def argOffset (p : Packet) : Nat := leField p.args 4 5
def argRbuf (p : Packet) : Nat := leField p.args 9 1
def argTag (p : Packet) : Nat := leField p.args 10 2

/-- SEQ as one number (R361). -/
def packetSeq (p : Packet) : Nat := p.gen % 256 * 2 ^ 24 + p.num % 2 ^ 24

/-- The KIND of a request: 1 LOAD, 2 STORE, 3 ATOMIC, 4 KEY, 5 FENCE (R395, R397). -/
def reqKind (p : Packet) : Nat := if p.type = 0x1F then 5 else p.type - 0x0F

/-- A request record (R393), FENCE among them. -/
def isRequest (p : Packet) : Bool := p.type = 0x10 || p.type = 0x11 || p.type = 0x12 || p.type = 0x13 || p.type = 0x1F

/-- Bytes that a request touches (R393). -/
def reqSize (p : Packet) : Nat :=
  match reqKind p with
  | 1 => leField p.body 0 2
  | 2 => p.body.length
  | 5 => 0
  | _ => 8

/-- A room's reply buffer as die * 512 + buffer: RBUF names it by the room's number and the die (R394, R397). -/
def rbufOf (room rbuf : Nat) : Nat := bitsOf rbuf 5 1 * 512 + room * 32 + rbuf % 32

/-- A request record is well-formed for its sending room (R393). -/
def Chip.requestOk (c : Chip) (room : Nat) (p : Packet) : Bool :=
  let zero (l : List Byte) : Bool := l.all fun b => b = 0
  let kind := reqKind p
  let job := if kind = 5 then argJob p = 0 else argJob p = c.fld F.PCH_JOB 0 room && c.fld F.PCH_JOB_EN 0 room = 1
  let size := reqSize p
  let shape := match kind with
    | 1 => p.body.length = 8 && decide (1 ≤ size) && decide (size ≤ 4096) && zero (p.body.drop 2) && argOp p = 0
    | 2 => decide (1 ≤ size) && decide (size ≤ 4096) && argOp p = 0
    | 3 => p.body.length = 16 && decide (1 ≤ argOp p) && decide (argOp p ≤ 14)
        && (atomicSize (argOp p) = 8 || zero ((p.body.drop 4).take 4)) && (argOp p = 4 || zero (p.body.drop 8))
    | 4 => p.body.length = 8 && decide (1 ≤ argOp p) && decide (argOp p ≤ 3) && zero (p.body.drop 5)
        && leField p.body 0 2 < 4096 && leField p.body 4 1 < 3 && p.pip
    | _ => p.body.isEmpty && argWindow p = 0 && argOp p = 0 && argOffset p = 0
  job && shape && argRbuf p < 64 && decide (argOffset p % 4096 + size ≤ 4096) && p.dest < 4096

/-! ## Reply buffers -/

/-- Change a reply buffer. -/
def Dev.onRbuf (d : Dev) (b : Nat) (f : RBuf → RBuf) : Dev := d.onJil fun j => { j with rbufs := Tab.upd {} j.rbufs b f }
/-- A reply buffer. -/
def Chip.rbuf (c : Chip) (b : Nat) : RBuf := Tab.get {} c.jil.rbufs b
/-- Bytes of records. -/
def repBytes (l : List RepRec) : Nat := (l.map fun r => r.bytes.length).foldl (· + ·) 0
/-- Bytes of a reply buffer in use or reserved (R397, R398). -/
def RBuf.used (b : RBuf) : Nat := repBytes b.recs + repBytes b.out + b.freeing + b.reserved
/-- What a request's completion record and data take (R397). -/
def reserveOf (p : Packet) : Nat := 32 + if reqKind p = 1 then roundUp 16 (reqSize p) else 0

/-- A completion record with its data (R397). -/
def Chip.completion (c : Chip) (kind status tag node result : Nat) (data : List Byte) : List Byte :=
  leBytes 1 kind ++ leBytes 1 status ++ leBytes 2 tag ++ leBytes 2 data.length ++ leBytes 2 node ++ leBytes 8 result
    ++ leBytes 4 c.jil.epoch ++ leBytes 4 c.frm.cur ++ List.replicate 8 0 ++ padTo (roundUp 16 data.length) 0 data

/-- Write a record into the space reserved for it. -/
def Dev.reply (d : Dev) (b reserve : Nat) (bytes : List Byte) (husks : Nat) : Dev :=
  d.onRbuf b fun x => { x with reserved := x.reserved - reserve, recs := x.recs ++ [⟨bytes, husks * 4⟩] }

/-! ## Completions and fences -/

/-- A frame's records are covered by a fence whose record belongs to frame `f` (R415). -/
def coveredBy (f frame : Nat) : Bool := !frameLater frame f

/-- A fence has nothing left to wait for: no covered request of its room is open, or still in a buffer (R415). -/
def Chip.fenceDone (c : Chip) (f : Fence) : Bool :=
  !(c.jil.reqs.any fun q => q.room = f.room && coveredBy f.frame q.frame)
    && !(c.jil.bufs.any fun b => b.1 % 512 / 32 = f.room
      && (b.2.recs.any (fun r => isRequest r.pkt && r.pkt.type ≠ 0x1F && coveredBy f.frame r.frame)
        || (!b.2.prev.isEmpty && coveredBy f.frame (frameSub c.frm.cur 2))))

/-- Fences that have nothing left to wait for complete (R415, R416). -/
def Dev.endFences (d : Dev) : Dev :=
  let done := d.chip.jil.fences.filter d.chip.fenceDone
  let d := d.onJil fun j => { j with fences := j.fences.filter fun f => f ∉ done }
  done.foldl (fun d f =>
    let st := if f.routed then rsRoute else if f.lost then rsLost else rsOk
    let d := if f.routed then d.countDie F.PCH_FENCE_ROUTE (f.rbuf / 512) else d
    d.reply f.rbuf 32 (d.chip.completion 5 st f.tag 0 (f.count % 65536) []) 0) d

/-- A request completes (R399, R415, R416): a STORE leaves a record only when its status is not OK. -/
def Dev.completeReq (d : Dev) (q : Req) (status result : Nat) (data : List Byte) (husks : Nat) : Dev :=
  let routed := status = rsLost && q.epoch ≠ d.chip.jil.epoch
  let d := d.onJil fun j => { j with
    reqs := j.reqs.filter fun x => !(x.node = q.node && x.seq = q.seq)
    fences := j.fences.map fun f =>
      if q.room = f.room ∧ coveredBy f.frame q.frame then
        { f with count := f.count + 1, lost := f.lost || status = rsLost, routed := f.routed || routed }
      else f }
  let d := if status = rsLost then d.countDie F.PCH_OP_LOST (q.rbuf / 512) else d
  let d := if q.kind = 2 ∧ status = rsOk then d.onRbuf q.rbuf fun x => { x with reserved := x.reserved - q.reserve }
    else d.reply q.rbuf q.reserve (d.chip.completion q.kind status q.tag q.node result (if q.kind = 1 then data else [])) husks
  d.endFences

/-- The open request that a packet of this module carries. -/
def Chip.openReq (c : Chip) (node seq : Nat) : Option Req := c.jil.reqs.find? fun x => x.node = node && x.seq = seq

/-- A packet is lost with its pair: a request completes LOST (R371, R373, R399). -/
def Dev.lostOp (d : Dev) (p : Packet) : Dev :=
  if !isRequest p then d
  else match d.chip.openReq p.dest (packetSeq p) with
    | some q => d.completeReq q rsLost 0 [] 0
    | none => d

/-- An RSP arrives (R395, R399); for a request that is no longer open it is discarded. -/
def Dev.takeRsp' (d : Dev) (p : Packet) : Dev :=
  match d.chip.openReq p.src (leField p.body 0 4) with
  | none => d
  | some q => d.completeReq q (leField p.args 0 1) (leField p.args 4 8) (p.body.drop 8) (if p.husk then p.map else 0)

/-- 50 ms have passed since a request's first sending (R399). -/
def rspTimeout (node seq : Nat) (d : Dev) : Dev :=
  match d.chip.openReq node seq with
  | some q => if q.first + msNs 50 ≤ d.chip.endTime then d.completeReq q rsLost 0 [] 0 else d
  | none => d

/-- What the reply runs of a room's step carry in the frame that begins: the oldest whole records that fit (R398). -/
def Dev.replyRuns (d : Dev) (r : Nat) : Dev :=
  match d.chip.roomStep r with
  | none => d
  | some t =>
    let runs := t.runs.filter fun x => payloadCls x.cls && 276 ≤ x.bundle && x.bundle < 292 && x.srcAddr = 0 && x.cls = clsTensor
    (runs.map fun x => ((endpointOf x.bundle - 20) * 512 + x.srcUnit % 512)).eraseDups.foldl (fun d b =>
      let cap := (((runs.filter fun x => (endpointOf x.bundle - 20) * 512 + x.srcUnit % 512 = b).map RunE.count).foldl (· + ·) 0) * 112
      d.onRbuf b fun x =>
        let n := ((List.range (x.recs.length + 1)).filter fun k => repBytes (x.recs.take k) ≤ cap).foldl max 0
        { x with out := x.recs.take n, recs := x.recs.drop n }) d

/-- The space of the records that the frame before carried becomes free at the end of this frame's last retry slot, and
this frame's carried records wait for theirs (R398, R212). -/
def Dev.freeReplies (d : Dev) : Dev :=
  d.onJil fun j => { j with rbufs := Tab.mapAll {} j.rbufs fun _ x => { x with freeing := repBytes x.out, out := [] } }

/-- A room reset discards the room's reply buffers, open requests and waiting fences (R399). -/
def Dev.resetReqs (d : Dev) (r : Nat) : Dev :=
  d.onJil fun j => { j with
    reqs := j.reqs.filter fun q => q.room ≠ r
    fences := j.fences.filter fun f => f.room ≠ r
    rbufs := j.rbufs.filter fun p => p.1 % 512 / 32 ≠ r }

open Host

/-- RSP (R399): an RSP packet is delivered to the module that asked. -/
def execRsp (p : Packet) (s : State) : Outcome State Fault Refusal :=
  runs s fun d => if p.type = 0x18 ∧ packetOk p then d.takeRsp' (d.chip.arrived p) else d

/-- RSP_TIMEOUT (R399). -/
def execRspTimeout (node seq : Nat) (s : State) : Outcome State Fault Refusal := runs s (rspTimeout node seq)

end Sys2Proof.Machine
end

