-- ==== Sys2Proof/Machine/Fabric.lean ====
section
/-! DEFINITION. The torus: ring-break maps and routes (R364 to R368), and the sender side of windows (R369 to R373). -/

namespace Sys2Proof.Machine

/-! ## Ring-break maps -/

/-- LINK_STATE (R367): a change of a ring's link is applied at the next threshold and forwarded while it is news. -/
def linkState (q dim i : Nat) (down : Bool) (d : Dev) : Dev :=
  let known := (d.chip.jil.breakDue.filter fun x => x.1 = dim && x.2.1 = i).getLast?
  let now := match known with
    | some x => x.2.2
    | none => bitOf (d.chip.jil.breaks.getD dim 0) i
  if !d.chip.portUp q ∨ q % 3 ≠ dim ∨ d.chip.torusSize dim ≤ i ∨ now = down then d
  else (d.onJil fun j => { j with breakDue := j.breakDue ++ [(dim, i, down)] }).sendLink ((q + 3) % 6) dim i down

/-- The maps at a threshold (R366): ROUTE_EPOCH rises when any changes. -/
def breakMaps (d : Dev) : Dev :=
  let j := d.chip.jil
  let maps := j.breakDue.foldl (fun (m : List Nat) x =>
    m.set x.1 (if x.2.2 then orBit (m.getD x.1 0) x.2.1 else clrBit (m.getD x.1 0) x.2.1)) j.breaks
  let d := d.onJil fun j => { j with breaks := maps, breakDue := [] }
  if maps = j.breaks then d
  else
    let d := d.onJil fun j => { j with epoch := (j.epoch + 1) % 2 ^ 32 }
    (d.flag F.PCH_INT_STATUS_BREAK 0).flag F.PCH_INT_STATUS_BREAK 1

/-! ## Routes -/

/-- The links from coordinate `x` over `n` hops in a direction. -/
def arc (x size hops : Nat) (minus : Bool) : List Nat :=
  (List.range hops).map fun k => (if minus then x + size - 1 - k else x + k) % size

/-- The direction a packet takes in a dimension with an offset: the fixed one, or the one that R366 fixes; with whether it
is a reverse direction. None when both arcs are broken. -/
def Chip.direction (c : Chip) (p : Packet) (dim : Nat) : Option (Bool × Bool) :=
  let n := c.torusSize dim
  let x := coord c.nodeId dim
  let off := (coord p.dest dim + n - x % n) % n
  let broken (minus : Bool) : Bool :=
    (arc x n (if minus then n - off else off) minus).any fun i => bitOf (c.jil.breaks.getD dim 0) i
  let least := if 2 * off < n then false else if n < 2 * off then true else broken false && !broken true
  if bitOf p.dirset dim then some (bitOf p.dir dim, bitOf p.dir dim ≠ least)
  else if !broken least then some (least, false)
  else if !broken (!least) then some (!least, true)
  else none

/-- The dimensions in which a packet has still to move. -/
def Chip.dimsLeft (c : Chip) (dest : Nat) : List Nat := [0, 1, 2].filter fun k => coord dest k % c.torusSize k ≠ coord c.nodeId k

/-- Where a packet goes next. -/
inductive Hop where
  | here
  | unreach
  | out (q : Nat) (p : Packet)
deriving DecidableEq, Repr

/-- The packet with its direction fixed in a dimension (R366). -/
def fixDir (p : Packet) (dim : Nat) (minus : Bool) : Packet :=
  { p with dirset := orBit p.dirset dim, dir := if minus then orBit p.dir dim else clrBit p.dir dim }

/-- An output takes no injected packets of the die that sends this one (R378). -/
def Chip.stoppedFor (c : Chip) (p : Packet) (q : Nat) : Bool := bitOf c.jil.stopped (homeDie p.dest * 6 + q)

/-- The next hop of a packet that came in by `input` (6: from this module), under R366 and R368. -/
def Chip.hop (c : Chip) (input : Nat) (p : Packet) : Hop :=
  let dims := c.dimsLeft p.dest
  let free := p.tc ≤ 1 && !p.mcast && !p.esc
  let cands := if !free then [] else dims.filterMap fun k => match c.direction p k with
    | some (minus, false) =>
      let q := portOf k minus
      let credit := (c.port q).credit.getD (vcOf p) 0
      if creditUnits p ≤ credit && (c.port q).carrying && !(input = 6 && c.stoppedFor p q) then some (q, credit, fixDir p k minus) else none
    | _ => none
  let best := cands.foldl (fun b x => match b with
    | none => some x
    | some y => if y.2.1 < x.2.1 ∨ (y.2.1 = x.2.1 ∧ x.1 < y.1) then some x else some y) (none : Option (Nat × Nat × Packet))
  match dims, best with
  | [], _ => .here
  | _, some (q, _, p) => .out q p
  | k :: _, none =>
    match c.direction p k with
    | none => .unreach
    | some (minus, _) =>
      -- dimension order: DL shows whether the dateline of this dimension has been crossed
      let crossed := decide (input < 6) && input % 3 = k && (p.esc || !free) && (p.dl || c.linkOf input = c.torusSize k - 1)
      .out (portOf k minus) { fixDir p k minus with esc := p.esc || free, dl := crossed }

/-! ## Sender pairs -/

/-- A sender pair. -/
def Chip.sendPair (c : Chip) (node : Nat) : Option SPair := Tab.find c.jil.send node
/-- Change a sender pair. -/
def Dev.onSend (d : Dev) (node : Nat) (f : SPair → SPair) : Dev :=
  d.onJil fun j => match Tab.find j.send node with
    | some x => { j with send := Tab.ins j.send node (f x) }
    | none => j

/-- Bytes unacknowledged in a pair. -/
def SPair.bytes (p : SPair) : Nat := (p.un.map fun x => wireLen x.pkt).foldl (· + ·) 0
/-- Sender pairs and store bytes of a die (R369). -/
def Chip.pairsOn (c : Chip) (die : Nat) : List SPair := (c.jil.send.filter fun p => homeDie p.1 = die).map Prod.snd
def Chip.storeUsed (c : Chip) (die : Nat) : Nat := ((c.pairsOn die).map SPair.bytes).foldl (· + ·) 0

/-- The timer after `n` resends, in ns (R371). -/
def Chip.rto (c : Chip) (n : Nat) : Nat := min (c.fld F.PCH_FAB_CTL_RTO_BASE * 1000 * 2 ^ n) (c.fld F.PCH_FAB_CTL_RTO_MAX * 100000)

/-- Put a packet that is not windowed into the local injection input. -/
def Dev.post (d : Dev) (p : Packet) : Dev := d.onJil fun j => { j with inject := j.inject ++ [sealed { p with src := d.chip.nodeId }] }

/-- A packet finds no place in the pair table or in the retransmit store of its home die: its wait is throttled time (R369). -/
def Chip.noPlace (c : Chip) (p : Packet) : Bool :=
  let die := homeDie p.dest
  ((c.sendPair p.dest).isNone && decide (2048 ≤ (c.pairsOn die).length)) || decide (16 * 2 ^ 20 < c.storeUsed die + wireLen p)

/-- Send a windowed packet: none while the pair table, the window or the store has no place (R369, R370). -/
def Dev.sendWin (d : Dev) (p : Packet) : Option (Packet × Dev) :=
  let c := d.chip
  let old := c.sendPair p.dest
  let pair := old.getD { gen := Tab.get 0 c.jil.lastGen p.dest % 256 }
  let w := wireLen p
  if c.noPlace p ∨ 1024 ≤ pair.un.length ∨ 2 ^ c.fld F.PCH_FAB_CTL_WINDOW * 1024 < pair.bytes + w then none
  else
    let p := sealed { p with src := c.nodeId, gen := pair.gen, num := pair.next, retx := false }
    let x : RTx := { pkt := p, due := c.frm.time + c.rto 0, first := c.frm.time }
    let d := d.onJil fun j => { j with
      send := Tab.ins j.send p.dest { pair with next := (pair.next + 1) % 2 ^ 24, un := pair.un ++ [x], mBytes := pair.mBytes + w }
      lastGen := Tab.ins j.lastGen p.dest (pair.gen + 1)
      inject := j.inject ++ [p] }
    some (p, d)

/-- Send a windowed packet of the module's own; it waits where R369 makes it wait. -/
def Dev.postWin (d : Dev) (p : Packet) : Dev :=
  match (if d.chip.jil.waits.any fun x => x.dest = p.dest then none else d.sendWin p) with
  | some (_, d) => d
  | none => d.onJil fun j => { j with waits := j.waits ++ [p] }

/-- Waiting packets go on as far as windows and stores allow, in order for each destination. -/
def Dev.pump (d : Dev) : Dev :=
  let ws := d.chip.jil.waits
  let d := d.onJil fun j => { j with waits := [] }
  ws.foldl Dev.postWin d

/-- What is lost with a pair's unacknowledged packets (R371): operations complete LOST, and each message of which a segment is
among them is counted once. -/
def Dev.losePackets (d : Dev) (node : Nat) (l : List Packet) : Dev :=
  let msgs := ((l.filter fun p => p.type = 0x20).map fun p => (p.room, leField p.args 0 4)).eraseDups
  let d := if msgs.isEmpty then d else d.countDie F.PCH_MSG_LOST (homeDie node) msgs.length
  l.foldl Dev.lostOp d

/-- A pair ends, its unacknowledged packets lost; the next one with the destination starts at `gen` (R371, R373). -/
def Dev.endPair (d : Dev) (node gen : Nat) : Dev :=
  match d.chip.sendPair node with
  | none => d
  | some x =>
    let d := d.onJil fun j => { j with
      send := Tab.del j.send node, lastGen := Tab.ins j.lastGen node gen
      inject := j.inject.filter fun p => !(windowed p && p.dest = node) }
    let d := d.log3 clsJiliaPair 15 node
    (d.losePackets node (x.un.map RTx.pkt)).pump

/-- A packet number is below another in a pair's 24-bit numbering. -/
def numBelow (a b : Nat) : Bool := let n := (b + 2 ^ 24 - a) % 2 ^ 24; decide (1 ≤ n) && decide (n < 2 ^ 23)

/-- WACK (R370): CUM, below which every packet is accepted, and the map of the 64 after it. -/
def wack (p : Packet) (d : Dev) : Dev :=
  if p.type ≠ 1 ∨ !packetOk p ∨ p.dest ≠ d.chip.nodeId then d
  else
    let cum := leField p.args 0 4
    let sack := leField p.args 4 8
    match d.chip.sendPair p.src with
    | none => d
    | some x =>
      if x.gen ≠ cum / 2 ^ 24 then d
      else
        let n := cum % 2 ^ 24
        let done (u : RTx) : Bool := numBelow u.pkt.num n || bitOf (sack * 2) ((u.pkt.num + 2 ^ 24 - n) % 2 ^ 24)
        (d.onSend p.src fun x => { x with un := x.un.filter fun u => !done u, idle := d.chip.frm.time }).pump

/-- RESYNC (R373): the unacknowledged packets are lost and the pair starts again at the GEN given. -/
def resync (p : Packet) (d : Dev) : Dev :=
  if p.type ≠ 2 ∨ !packetOk p ∨ p.dest ≠ d.chip.nodeId then d
  else match d.chip.sendPair p.src with
    | some _ => d.endPair p.src (leField p.args 0 1)
    | none => d

/-- A packet's timer expires (R371): it is resent with RETX, or its pair fails. -/
def retransmit (node num : Nat) (d : Dev) : Dev :=
  match d.chip.sendPair node with
  | none => d
  | some x =>
    match x.un.find? fun u => u.pkt.num = num with
    | none => d
    | some u =>
      if d.chip.endTime < u.due then d
      else if d.chip.fld F.PCH_FAB_CTL_RETX_LIMIT ≤ u.sends then
        let die := homeDie node
        let d := (d.countDie F.PCH_WIN_FAILED die).flag F.PCH_INT_STATUS_WIN_FAILED die
        d.endPair node (x.gen + 1)
      else
        let p := sealed { u.pkt with retx := true }
        let d := d.onSend node fun x => { x with
          mResends := x.mResends + 1
          un := x.un.map fun v => if v.pkt.num = num then { v with sends := v.sends + 1, due := d.chip.frm.time + d.chip.rto (v.sends + 1) } else v }
        (d.countDie F.PCH_RETX (homeDie node)).onJil fun j => { j with inject := j.inject ++ [p] }

/-- A pair idle long enough is freed: a sender 1 ms with every packet acknowledged, a receiver 10 ms (R369). -/
def pairIdle (node : Nat) (receiver : Bool) (d : Dev) : Dev :=
  if receiver then
    match Tab.find d.chip.jil.recv node with
    | some x => if x.last + msNs 10 ≤ d.chip.endTime ∧ x.pips.isEmpty then d.onJil fun j => { j with recv := Tab.del j.recv node } else d
    | none => d
  else
    match d.chip.sendPair node with
    | some x => if x.un.isEmpty ∧ x.idle + msNs 1 ≤ d.chip.endTime then (d.onJil fun j => { j with send := Tab.del j.send node }).pump else d
    | none => d

/-! ## Injection throttle -/

/-- Bytes that a die's buffers hold for packets whose next hop is a port (R378). -/
def Chip.heldFor (c : Chip) (die q : Nat) : Nat :=
  let mine (input : Nat) (l : List Packet) : Nat :=
    ((l.filter fun p => match c.hop input p with
      | .out q' _ => q' = q
      | _ => false).map wireLen).foldl (· + ·) 0
  ((List.range 6).filter fun i => portDie i = die).foldl (fun n i => n + mine i (c.port i).inq)
    (mine 6 (c.jil.inject.filter fun p => homeDie p.dest = die))

/-- Ports stop and resume taking the packets that a die injects by PCHn_THROTTLE, which exists once (R378). -/
def Dev.throttle (d : Dev) : Dev :=
  let c := d.chip
  let stop (x : Nat) : Bool :=
    let k := c.heldFor (x / 6) (x % 6) / 1024
    if c.fld F.PCH_THROTTLE_HI ≤ k then true else if k < c.fld F.PCH_THROTTLE_LO then false else bitOf c.jil.stopped x
  d.onJil fun j => { j with stopped := ofBitList ((List.range 12).filter stop) }

open Host

/-- LINK_STATE (R367). -/
def execLinkState (q dim i : Nat) (down : Bool) (s : State) : Outcome State Fault Refusal := runs s (linkState q dim i down)

/-- WACK (R370). -/
def execWack (p : Packet) (s : State) : Outcome State Fault Refusal := runs s (wack p)

/-- RESYNC (R373). -/
def execResync (p : Packet) (s : State) : Outcome State Fault Refusal := runs s (resync p)

/-- RETRANSMIT_TIMEOUT (R371). -/
def execRetransmitTimeout (node num : Nat) (s : State) : Outcome State Fault Refusal := runs s (retransmit node num)

/-- PAIR_IDLE_FREE (R369). -/
def execPairIdleFree (node : Nat) (receiver : Bool) (s : State) : Outcome State Fault Refusal := runs s (pairIdle node receiver)

end Sys2Proof.Machine
end

