-- ==== Sys2Proof/Machine/Target.lean ====
section
/-! DEFINITION. Requests at their target: windows, keys, the provisional store buffer, cellar records, RSPs (R400 to
R414). -/

namespace Sys2Proof.Machine

/-! ## Windows and keys -/

/-- The entries of a selected table that registers list, by the address of one of its registers. -/
def Chip.listed (c : Chip) (addr : Nat) : List Nat := (c.regs.filter fun p => p.1 % 2 ^ 26 = addr).map fun p => p.1 / 2 ^ 26

/-- The valid window entries (R400). -/
def Chip.windows (c : Chip) : List Nat := (c.listed F.PCH_WIN_CFG_VALID.addr).filter fun k => c.fld F.PCH_WIN_CFG_VALID 0 0 k = 1

/-- The valid entry that holds (JOB, WINDOW) (R400). -/
def Chip.windowOf (c : Chip) (job window : Nat) : Option Nat :=
  c.windows.find? fun k => c.fld F.PCH_WIN_JOB 0 0 k = job && c.fld F.PCH_WIN_CFG_WINDOW 0 0 k = window

/-- BASE and SIZE of an entry: multiples of 4 KiB (R400, R417). -/
def Chip.winBase (c : Chip) (k : Nat) : Nat := c.fld F.PCH_WIN_BASE_LO 0 0 k * 4096 + c.fld F.PCH_WIN_BASE_HI 0 0 k * 2 ^ 32
def Chip.winSize (c : Chip) (k : Nat) : Nat := c.fld F.PCH_WIN_SIZE_LO 0 0 k * 4096 + c.fld F.PCH_WIN_SIZE_HI 0 0 k * 2 ^ 32

/-- The valid keys of a window entry (R407). -/
def Chip.keysOf (c : Chip) (win : Nat) : List Nat :=
  (c.listed F.PCH_KEY_CFG_VALID.addr).filter fun k => c.fld F.PCH_KEY_CFG_VALID 0 0 k = 1 && c.fld F.PCH_KEY_CFG_WIN 0 0 k = win

/-- The key that covers a unit of 64 KiB (R407, R408). -/
def Chip.keyAt (c : Chip) (win unit : Nat) : Option Nat :=
  (c.keysOf win).find? fun k => let a := c.fld F.PCH_KEY_START 0 0 k; decide (a ≤ unit) && decide (unit < a + c.fld F.PCH_KEY_LEN 0 0 k)

/-- The requester owns a key: SRC node and JOB match; JOB 0 is unowned (R407). -/
def Chip.owns (c : Chip) (k node job : Nat) : Bool :=
  c.fld F.PCH_KEY_OWNER_JOB 0 0 k = job && c.fld F.PCH_KEY_OWNER_NODE 0 0 k = node && job ≠ 0

/-- A key permits an access (R407). -/
def Chip.keyPermits (c : Chip) (k node job : Nat) (write : Bool) : Bool :=
  match c.fld F.PCH_KEY_CFG_MODE 0 0 k with
  | 0 => true
  | 1 => !write || c.owns k node job
  | _ => c.owns k node job

/-- Step 6 of R401 for a LOAD, STORE or ATOMIC: every byte covered by valid keys, each of which permits it. -/
def Chip.keysPass (c : Chip) (win node job off size : Nat) (write : Bool) : Bool :=
  (List.range ((off + size - 1) / 65536 + 1 - off / 65536)).all fun i =>
    let unit := off / 65536 + i
    ((c.keysOf win).filter fun k => decide (c.fld F.PCH_KEY_START 0 0 k ≤ unit)
      && decide (unit < c.fld F.PCH_KEY_START 0 0 k + c.fld F.PCH_KEY_LEN 0 0 k)) |> fun ks =>
        !ks.isEmpty && ks.all fun k => c.keyPermits k node job write

/-! ## Taking -/

/-- The entry's room of a request, where a valid entry holds its (JOB, WINDOW). -/
def Chip.targetRoom (c : Chip) (p : Packet) : Option Nat := (c.windowOf (argJob p) (argWindow p)).map fun k => c.fld F.PCH_WIN_CFG_ROOM 0 0 k

/-- Bytes of an entry of the provisional store buffer (R411). -/
def heldBytes (p : Packet) : Nat := roundUp 16 (32 + p.body.length + (packetMap p).length)

/-- Bytes of a die's provisional store buffer in use. -/
def Chip.psbUsed (c : Chip) (die : Nat) : Nat := ((c.jil.psb.filter fun h => h.die = die).map fun h => heldBytes h.pkt).foldl (· + ·) 0

/-- A request is taken (R403): it will be checked when its first record is issued. -/
def Dev.takeNow (d : Dev) (die : Nat) (p : Packet) : Dev :=
  d.onJil fun j => { j with taken := j.taken ++ [{ die, pkt := p, since := d.chip.frm.time, order := j.order }], order := j.order + 1 }

/-- A request reaches its target: taken, or held with SPEC; none while no place is free (R403, R411). -/
def Dev.takeRequest (d : Dev) (p : Packet) : Option Dev :=
  let c := d.chip
  let die := homeDie p.src
  if p.spec then
    if c.psbUsed die + heldBytes p ≤ 16 * 2 ^ 20 then
      let d := d.onJil fun j => { j with psb := j.psb ++ [⟨die, p, d.chip.frm.time⟩] }
      some (d.observe F.PCH_PSB_HWM ((d.chip.psbUsed die + 1023) / 1024) die)
    else none
  else
    let room := c.targetRoom p
    if room.isSome ∧ 1024 ≤ (c.jil.taken.filter fun t => t.die = die && c.targetRoom t.pkt = room).length then none
    else some (d.takeNow die p)

/-! ## Answers -/

/-- The request is answered: its RSP goes to the requester and it leaves the die (R395, R403). -/
def Dev.answerReq (d : Dev) (t : Taken) (status result : Nat) (data : List Byte) (husks : Nat) : Dev :=
  let d := d.onJil fun j => { j with taken := j.taken.filter fun x => x.order ≠ t.order, celq := j.celq.filter fun m => !t.waits.any fun w => w.1.tag = m.tag }
  let d :=
    if status = rsOk ∨ status = rsHusk then d.countDie F.PCH_TGT_DONE t.die
    else if status = rsTimeout then d.countDie F.PCH_TGT_TIMEOUT t.die
    else if status = rsRetracted ∨ status = rsAbsent then d
    else d.countDie F.PCH_TGT_REFUSED t.die
  let p := t.pkt
  d.postWin { type := 0x18, tc := 0, dest := p.src, husk := husks ≠ 0, map := husks
              args := leBytes 1 status ++ leBytes 1 (reqKind p) ++ leBytes 2 (argTag p) ++ leBytes 8 result
              body := leBytes 4 (packetSeq p) ++ leBytes 1 (argRbuf p) ++ List.replicate 3 0 ++ data }

/-- What the RSP of a request that stopped at `status` carries besides it: a LOAD answered ABSENT has every word husked, with the record of the
first line that was absent (R396, R437). -/
def Dev.answerStop (d : Dev) (t : Taken) (status : Nat) : Dev :=
  if reqKind t.pkt = 1 then
    let n := reqSize t.pkt
    let husks := if status = rsAbsent then 2 ^ ((n + 15) / 16) - 1 else 0
    let at' := t.absent.getD (0, 0)
    let hk := huskRecord 4 0 at'.1 d.chip.nodeId at'.2 d.chip.frm.cur
    d.answerReq t status 0 (if status = rsAbsent then ((List.replicate ((n + 15) / 16) hk).flatten).take n else List.replicate n 0) husks
  else d.answerReq t status t.result [] 0

/-! ## Issue -/

/-- A pip request waits for every request of lower number in its pair and GEN (R406, R411). -/
def Chip.pipReady (c : Chip) (p : Packet) : Bool :=
  !p.pip || !((c.jil.taken.map Taken.pkt ++ c.jil.psb.map Held.pkt).any fun x => x.src = p.src && x.gen = p.gen && numBelow x.num p.num)

/-- Step 7 of R401: the bytes lie on the slices that the entry's room has in force. -/
def Chip.backed (c : Chip) (k : Nat) (p : Packet) : Bool :=
  decide (c.winBase k + argOffset p + reqSize p ≤ (c.roomSlices (c.fld F.PCH_WIN_CFG_ROOM 0 0 k)).length * cellarBytes)

/-- The checks of R401, for a KEY up to the key that covers it: the first failure, or the window entry. -/
def Chip.checkReq (c : Chip) (p : Packet) : Nat × Nat :=
  match c.windowOf (argJob p) (argWindow p) with
  | none => (rsNoWindow, 0)
  | some k =>
    let kind := reqKind p
    let off := argOffset p
    let size := reqSize p
    let permits := match kind with
      | 1 => c.fld F.PCH_WIN_CFG_R 0 0 k = 1
      | 2 => c.fld F.PCH_WIN_CFG_W 0 0 k = 1
      | 3 => c.fld F.PCH_WIN_CFG_A 0 0 k = 1
      | _ => c.fld F.PCH_WIN_CFG_KEYED 0 0 k = 1
    if p.src &&& c.fld F.PCH_WIN_NODE_MASK 0 0 k ≠ c.fld F.PCH_WIN_NODE_VALUE 0 0 k &&& c.fld F.PCH_WIN_NODE_MASK 0 0 k then (rsSource, k)
    else if !permits then (rsPerm, k)
    else if c.winSize k < off + size then (rsRange, k)
    else if kind = 3 ∧ off % atomicSize (argOp p) ≠ 0 then (rsAlign, k)
    else if c.fld F.PCH_WIN_CFG_KEYED 0 0 k = 1 ∧ kind ≠ 4 ∧ !c.keysPass k p.src (argJob p) off size (kind ≠ 1) then (rsKey, k)
    else if kind = 4 ∧ (c.keyAt k (off / 65536)).isNone then (rsKey, k)
    else if kind ≠ 4 ∧ !c.backed k p then (rsRange, k)
    else (rsOk, k)

/-- The first word of line `line` that holds part of a husked word of a STORE whose data begins at room address `a`. -/
def storeHusk (p : Packet) (a line : Nat) : Option Nat :=
  if !p.husk then none
  else (List.range 4).find? fun w => (bitList 256 p.map).any fun j =>
    let word := a + 16 * j
    let here := 64 * line + 16 * w
    decide (word < here + 16) && decide (here < word + 16)

/-- The records of a request that passed its checks: one for each line it touches (R402). -/
def Chip.recordsOf (c : Chip) (t : Taken) (room base tag : Nat) : List (CelMsg × Nat) :=
  let p := t.pkt
  let kind := reqKind p
  let size := if kind = 3 then atomicSize (argOp p) else reqSize p
  let a := base + argOffset p
  ((spanLines a size).zipIdx).filterMap fun lk =>
    (roomMap (c.roomSlices room) (64 * lk.1)).map fun sa =>
      let at' (k : Nat) : Bool := decide (a ≤ 64 * lk.1 + k) && decide (64 * lk.1 + k < a + size)
      let byte (k : Nat) : Byte := if at' k then p.body.getD (64 * lk.1 + k - a) 0 else 0
      ({ die := t.die, stack := sa.1 / 64, room, tag := (tag + lk.2) % 65536, slice := sa.1 % 64, line := sa.2 / 64, kind
         op := argOp p, off := if kind = 3 then a % 64 else 0
         data := if kind = 2 then (List.range 64).map byte else []
         enables := if kind = 2 then ofBitList ((List.range 64).filter at') else 0
         operand := if kind = 3 then leField p.body 0 8 else 0, compare := if kind = 3 then leField p.body 8 8 else 0,
         husk := if kind = 2 then storeHusk p a lk.1 else none }, 64 * lk.1)

/-- A taken request is checked and its records are issued, or its failure answered (R401, R402). A KEY request waits for
the threshold (R409). -/
def Dev.issueReq (d : Dev) (t : Taken) : Dev :=
  if t.checked ∨ !d.chip.pipReady t.pkt then d
  else
    let ck := d.chip.checkReq t.pkt
    if ck.1 ≠ rsOk then d.answerStop t ck.1
    else
      let room := d.chip.fld F.PCH_WIN_CFG_ROOM 0 0 ck.2
      if reqKind t.pkt = 4 then
        d.onJil fun j => { j with taken := j.taken.map fun x => if x.order = t.order then
          { x with checked := true, room, keyDue := d.chip.keyAt ck.2 (argOffset t.pkt / 65536) } else x }
      else if reqKind t.pkt = 3 ∧ packetHusked t.pkt then d.answerReq t rsHusk 0 [] 0
      else
        let ms := d.chip.recordsOf t room (d.chip.winBase ck.2) d.chip.jil.tag
        d.onJil fun j => { j with
          tag := (j.tag + ms.length) % 65536
          celq := j.celq ++ ms.map Prod.fst
          taken := j.taken.map fun x => if x.order = t.order then
            { x with checked := true, room, waits := ms, data := List.replicate (reqSize t.pkt) 0
                     status := if reqKind t.pkt = 2 ∧ packetHusked t.pkt then rsHusk else rsOk } else x }

/-- Issue every request that may be issued, in the order taken. -/
def Dev.issueAll (d : Dev) (die : Nat) : Dev := (d.chip.jil.taken.filter fun t => t.die = die).foldl (fun d t => d.issueReq t) d

/-- A request of the given kind is issued by its running number. -/
def issueKind (kind order : Nat) (ok : Packet → Bool) (d : Dev) : Dev :=
  match d.chip.jil.taken.find? fun t => t.order = order with
  | some t => if reqKind t.pkt = kind && ok t.pkt then d.issueReq t else d
  | none => d

/-! ## Replies of the cellar -/

/-- A request whose records have all been answered is answered (R403, R413, R414). -/
def Dev.settleReq (d : Dev) (order : Nat) : Dev :=
  match d.chip.jil.taken.find? fun t => t.order = order with
  | none => d
  | some t =>
    if !t.checked ∨ !t.waits.isEmpty ∨ t.keyDue.isSome then d
    else if t.status = rsAbsent then d.answerStop t rsAbsent
    else if reqKind t.pkt = 1 then d.answerReq t t.status 0 t.data t.husks
    else d.answerReq t t.status t.result [] 0

/-- The status of a request after one more of its records is answered: ABSENT first, then a refusal, then HUSK (R396,
R413, R414). -/
def joinStatus (old kind cel : Nat) : Nat :=
  if old = rsAbsent ∨ cel = celAbsent then rsAbsent
  else if cel = celOk then old
  else if cel = celHusk then (if kind = 2 then old else rsHusk)
  else rsRange

/-- The cellar's answer to a record that a die issued (R268, R403): BUSY issues it again. -/
def Dev.celAnswer (d : Dev) (die tag status : Nat) (data : List Byte) (result : Nat) : Dev :=
  match d.chip.jil.taken.find? fun t => t.die = die && t.waits.any fun w => w.1.tag = tag with
  | none => d
  | some t =>
    match t.waits.find? fun w => w.1.tag = tag with
    | none => d
    | some w =>
      if status = celBusy then d.onJil fun j => { j with celq := j.celq ++ [w.1] }
      else
        let a := w.2
        let start := d.chip.winBase ((d.chip.windowOf (argJob t.pkt) (argWindow t.pkt)).getD 0) + argOffset t.pkt
        let kind := reqKind t.pkt
        let fill := t.data.zipIdx.map fun b =>
          if kind = 1 ∧ a ≤ start + b.2 ∧ start + b.2 < a + 64 then data.getD (start + b.2 - a) 0 else b.1
        let marks := if kind = 1 ∧ status = celHusk then
            ofBitList ((List.range ((t.data.length + 15) / 16)).filter fun k => decide (a < start + 16 * k + 16) && decide (start + 16 * k < a + 64))
          else 0
        let d := d.onJil fun j => { j with taken := j.taken.map fun x => if x.order = t.order then
          { x with waits := x.waits.filter fun w => w.1.tag ≠ tag, data := fill, husks := x.husks ||| marks
                   result := if kind = 3 ∧ status = celOk then result else x.result
                   absent := if status = celAbsent then x.absent.orElse fun _ => some (w.1.stack * 64 + w.1.slice, w.1.line) else x.absent
                   status := joinStatus x.status kind status } else x }
        d.settleReq t.order

/-- 10 ms have passed since a request was taken (R403): its other records are withdrawn. -/
def targetTimeout (order : Nat) (d : Dev) : Dev :=
  match d.chip.jil.taken.find? fun t => t.order = order with
  | some t => if t.since + msNs 10 ≤ d.chip.endTime then d.answerStop t rsTimeout else d
  | none => d

/-! ## Keys at thresholds -/

/-- The owner's and the key's fields as RESULT states them (R408). -/
def Chip.keyResult (c : Chip) (k : Nat) : Nat :=
  Tab.get 0 c.jil.keyVer k + c.fld F.PCH_KEY_OWNER_NODE 0 0 k * 2 ^ 16 + c.fld F.PCH_KEY_OWNER_JOB 0 0 k * 2 ^ 32

/-- A key changes: VERSION rises, and each die queues a NOTICE for the key's room (R407, R410). -/
def Dev.keyChanged (d : Dev) (k : Nat) : Dev :=
  let d := d.onJil fun j => { j with keyVer := Tab.upd 0 j.keyVer k fun v => (v + 1) % 65536 }
  let c := d.chip
  let room := c.fld F.PCH_WIN_CFG_ROOM 0 0 (c.fld F.PCH_KEY_CFG_WIN 0 0 k)
  let note := leBytes 1 2 ++ leBytes 1 room ++ leBytes 2 k ++ leBytes 2 (c.fld F.PCH_KEY_OWNER_NODE 0 0 k) ++ leBytes 2 (c.fld F.PCH_KEY_OWNER_JOB 0 0 k)
    ++ leBytes 1 (c.fld F.PCH_KEY_CFG_MODE 0 0 k) ++ [0] ++ leBytes 2 (Tab.get 0 c.jil.keyVer k) ++ leBytes 4 c.frm.cur
  (List.range 2).foldl (fun d die => d.onJil fun j => { j with notices := Tab.upd {} j.notices (die * 16 + room) fun n =>
    if n.recs.length < 256 then { n with recs := n.recs ++ [note] } else { recs := n.recs.drop 1 ++ [note], dropped := true } }) d

/-- Set a key's owner and mode (R408). -/
def Dev.setKey (d : Dev) (k node job : Nat) (mode : Option Nat) : Dev :=
  let d := (d.setFld F.PCH_KEY_OWNER_NODE node 0 0 k).setFld F.PCH_KEY_OWNER_JOB job 0 0 k
  let d := match mode with
    | some m => d.setFld F.PCH_KEY_CFG_MODE m 0 0 k
    | none => d
  d.keyChanged k

/-- A KEY request's change takes effect, or fails (R401 steps 6 and 7, R408). -/
def Dev.keyNow (d : Dev) (t : Taken) (k : Nat) : Dev :=
  let p := t.pkt
  let c := d.chip
  let mine := c.owns k p.src (argJob p)
  let free := c.fld F.PCH_KEY_OWNER_JOB 0 0 k = 0
  let mode := leField p.body 4 1
  let op := argOp p
  let r := if op = 1 then (if mine || free then some (d.setKey k p.src (argJob p) (some mode)) else none)
    else if op = 2 then (if mine then some (d.setKey k 0 0 none) else none)
    else if mine then some (d.setKey k (leField p.body 0 2 % 4096) (leField p.body 2 2) (some mode)) else none
  let backed := (c.windowOf (argJob p) (argWindow p)).any fun w => c.backed w p
  match r with
  | some d' => if !backed then d.answerReq { t with keyDue := none } rsRange 0 [] 0 else d'.answerReq { t with keyDue := none } rsOk (d'.chip.keyResult k) [] 0
  | none => d.answerReq { t with keyDue := none } (if op = 1 then rsKeyHeld else rsNotOwner) (c.keyResult k) [] 0

/-- SET records that fall due at threshold `m`, then the KEY requests taken, in the order taken (R409). -/
def keyThreshold (m : Nat) (d : Dev) : Dev :=
  let sets := d.chip.jil.keySets.filter fun k => k.due = m
  let d := d.onJil fun j => { j with keySets := j.keySets.filter fun k => k.due ≠ m }
  let d := sets.foldl (fun d k => d.setKey k.key k.node k.job (some k.mode)) d
  let d := (d.chip.jil.taken.filter fun t => reqKind t.pkt = 4).foldl (fun d t => d.issueReq t) d
  (d.chip.jil.taken.filter fun t => t.keyDue.isSome).foldl (fun d t => d.keyNow t (t.keyDue.getD 0)) d

/-- A SET record of a KEY slot (R410): `room` owns the lane; `late`: it travelled in a replay. -/
def setRecord (room die key node job mode : Nat) (late : Bool) (d : Dev) : Dev :=
  let owner := d.chip.fld F.PCH_WIN_CFG_ROOM 0 0 (d.chip.fld F.PCH_KEY_CFG_WIN 0 0 key)
  if 2 ≤ die ∨ 16 ≤ room then d
  else if 4096 ≤ key ∨ owner ≠ room then d.countDie F.PCH_KEY_BAD die
  else
    let n := d.chip.frm.cur
    let due := if late then nextFrame n else nextFrame (nextFrame n)
    d.onJil fun j => { j with keySets := j.keySets ++ [⟨due, key, node % 4096, job % 65536, mode % 4⟩] }

/-! ## The provisional store buffer -/

/-- The clear of a sender frame arrives: its entries become taken requests, in SEQ order (R412, R436). -/
def Dev.clearHeld (d : Dev) (node room sframe : Nat) : Dev :=
  let mine (h : Held) : Bool := h.pkt.src = node && h.pkt.room = room && h.pkt.sframe = sframe
  let hs := (d.chip.jil.psb.filter mine).mergeSort fun a b => numBelow a.pkt.num b.pkt.num || a.pkt.num = b.pkt.num
  let d := d.onJil fun j => { j with psb := j.psb.filter fun h => !mine h }
  hs.foldl (fun d h => d.takeNow h.die { h.pkt with spec := false }) d

/-- A retraction of a sender frame arrives: its entries are answered RETRACTED (R412). -/
def Dev.retractHeld (d : Dev) (node room sframe : Nat) : Dev :=
  let mine (h : Held) : Bool := h.pkt.src = node && h.pkt.room = room && h.pkt.sframe = sframe
  let hs := d.chip.jil.psb.filter mine
  let d := d.onJil fun j => { j with psb := j.psb.filter fun h => !mine h }
  hs.foldl (fun d h =>
    (d.countDie F.PCH_PSB_RETRACTED h.die).answerStop { die := h.die, pkt := h.pkt, since := 0, order := d.chip.jil.order } rsRetracted) d

/-- Entries that go without an answer: their clear did not come, or their pair restarted (R412). -/
def Dev.expireHeld (d : Dev) (mine : Held → Bool) : Dev :=
  let hs := d.chip.jil.psb.filter mine
  let d := d.onJil fun j => { j with psb := j.psb.filter fun h => !mine h }
  hs.foldl (fun d h => d.countDie F.PCH_PSB_EXPIRED h.die) d

/-- 40 ms have passed since an entry was held (R412). -/
def psbExpiry (node gen num : Nat) (d : Dev) : Dev :=
  d.expireHeld fun h => h.pkt.src = node && h.pkt.gen = gen && h.pkt.num = num && decide (h.since + msNs 40 ≤ d.chip.endTime)

/-! ## The window table's registers -/

/-- A write of window entry `k` (R400, R417): a function may write only what R400 lets it, and a write that would make two
valid entries hold one (JOB, WINDOW) is refused. A VF's ROOM is forced to its own. -/
def windowWrite (r : Requester) (k t cfg job node base size : Nat) (d : Dev) : Dev :=
  let room := match vfRoom r with
    | some n => n
    | none => bitsOf cfg 16 4
  let mayVf := match vfRoom r with
    | some n => d.stagedOf F.PCH_WIN_CFG_ROOM 0 0 k = n && bitsOf cfg 16 4 = n
    | none => isPf r
  let window := cfg % 4096
  let others := ((d.chip.listed F.PCH_WIN_CFG_VALID.addr) ++ ((d.staged.map Staged.key).filter fun k => k % 2 ^ 26 = F.PCH_WIN_CFG_VALID.addr).map fun k => k / 2 ^ 26).eraseDups
  let dup := bitOf cfg 31 && others.any fun x => x ≠ k && d.stagedOf F.PCH_WIN_CFG_VALID 0 0 x = 1
    && d.stagedOf F.PCH_WIN_JOB 0 0 x = job % 65536 && d.stagedOf F.PCH_WIN_CFG_WINDOW 0 0 x = window
  if 4096 ≤ k ∨ !mayVf then d
  else if dup then (d.flag F.PCH_INT_STATUS_TGT_CFG 0).flag F.PCH_INT_STATUS_TGT_CFG 1
  else
    let d := d.stage r t (F.PCH_WIN_CFG_VALID.key 0 0 k) 0xF80F0FFF (setBits cfg 16 4 room)
    let d := d.stage r t (F.PCH_WIN_JOB.key 0 0 k) 0xFFFF job
    let d := d.stage r t (F.PCH_WIN_NODE_MASK.key 0 0 k) 0x0FFF0FFF node
    let d := d.stage r t (F.PCH_WIN_BASE_LO.key 0 0 k) 0xFFFFF000 (base % 2 ^ 32)
    let d := d.stage r t (F.PCH_WIN_BASE_HI.key 0 0 k) 0xFF (base / 2 ^ 32)
    let d := d.stage r t (F.PCH_WIN_SIZE_LO.key 0 0 k) 0xFFFFF000 (size % 2 ^ 32)
    d.stage r t (F.PCH_WIN_SIZE_HI.key 0 0 k) 0xFF (size / 2 ^ 32)

open Host

/-- LOAD (R402): a taken LOAD is checked and its READ records are issued. -/
def execLoad (order : Nat) (s : State) : Outcome State Fault Refusal := runs s (issueKind 1 order fun _ => true)

/-- STORE (R402). -/
def execStore (order : Nat) (s : State) : Outcome State Fault Refusal := runs s (issueKind 2 order fun _ => true)

/-- ACQUIRE (R408): checked now, performed at the next threshold (R409). -/
def execAcquire (order : Nat) (s : State) : Outcome State Fault Refusal := runs s (issueKind 4 order fun p => argOp p = 1)

/-- RELEASE (R408). -/
def execRelease (order : Nat) (s : State) : Outcome State Fault Refusal := runs s (issueKind 4 order fun p => argOp p = 2)

/-- TRANSFER (R408). -/
def execTransfer (order : Nat) (s : State) : Outcome State Fault Refusal := runs s (issueKind 4 order fun p => argOp p = 3)

/-- TARGET_TIMEOUT (R403). -/
def execTargetTimeout (order : Nat) (s : State) : Outcome State Fault Refusal := runs s (targetTimeout order)

/-- PSB_EXPIRY (R412). -/
def execPsbExpiry (node gen num : Nat) (s : State) : Outcome State Fault Refusal := runs s (psbExpiry node gen num)

/-- SET (R410). -/
def execSet (room die key node job mode : Nat) (late : Bool) (s : State) : Outcome State Fault Refusal :=
  runs s (setRecord room die key node job mode late)

/-- WINDOW_ENTRY_WRITE (R400). -/
def execWindowEntryWrite (r : Requester) (k t cfg job node base size : Nat) (s : State) : Outcome State Fault Refusal :=
  runs s (windowWrite r k t cfg job node base size)

end Sys2Proof.Machine
end

