-- ==== Sys2Proof/Machine/Messages.lean ====
section
/-! DEFINITION. Queue messages, multicast, clears and retractions on arrival, management and congestion maps (R379 to R384,
R436). -/

namespace Sys2Proof.Machine

/-! ## Queue messages -/

/-- Fields of a unicast MSG's ARGS (R379). -/
def msgQueue (p : Packet) : Nat := leField p.args 0 2
def msgId (p : Packet) : Nat := leField p.args 2 2
def msgOffset (p : Packet) : Nat := leField p.args 4 2
def msgTotal (p : Packet) : Nat := leField p.args 6 2

/-- SRC matches an enabled PCHn_ALLOW entry of a room (R379). -/
def Chip.allowed (c : Chip) (room src : Nat) : Bool :=
  (List.range 8).any fun k =>
    let e := room * 8 + k
    let m := c.fld F.PCH_ALLOW_MASK 0 e
    c.fld F.PCH_ALLOW_EN 0 e = 1 && src &&& m = c.fld F.PCH_ALLOW_VALUE 0 e &&& m

/-- A message for a queue is admitted: an enabled fabric queue, an allowed source, a length within MAX_PKT (R379). R324 gives a
FABRIC_HOST queue no MAX_PKT, and its messages any length a message can have (log 126). -/
def Chip.msgOk (c : Chip) (q src total : Nat) : Bool :=
  match c.queueDecl q with
  | some (room, e) => (e.kind = qFabModel || e.kind = qFabHost) && c.queueOn q && c.allowed room src
      && decide (total ≤ if e.kind = qFabHost then maxPacket else e.maxPkt)
  | none => false

/-- A message is denied (R379). -/
def Dev.denyMsg (d : Dev) (p : Packet) : Dev :=
  let die := homeDie p.src
  ((d.countDie F.PCH_MSG_DENY die).flag F.PCH_INT_STATUS_MSG_DENY die).log3 clsJiliaDrop 15 p.src

/-- A whole message passes to the queue engine; a husk in it rewinds it (R305, R307). -/
def Dev.passMsg (d : Dev) (q src room sframe : Nat) (spec husk : Bool) (data : List Byte) : Dev :=
  if husk then d.rewound q
  else d.queueTake q { data, origin := 2, source := src, last := d.chip.frm.cur, clear := !spec
                       spec := if spec then some (src, room, sframe) else none, since := d.chip.frm.time }

/-- Bytes of a die's reassembly memory in use (R379). -/
def Chip.asmUsed (c : Chip) (die : Nat) : Nat :=
  (((c.jil.asms.filter fun a => homeDie a.src = die).flatMap Asm.segs).map fun s => s.2.body.length).foldl (· + ·) 0

/-- The bytes of a message from its segments; none while a byte is missing. -/
def joinSegs (segs : List (Nat × Packet)) (total : Nat) : Option (List Byte) :=
  let bytes := segs.foldl (fun (acc : List (Option Byte)) s => acc.mapIdx fun i b =>
    if s.1 ≤ i ∧ i < s.1 + s.2.body.length then s.2.body[i - s.1]? else b) (List.replicate total none)
  if bytes.all Option.isSome then some (bytes.filterMap id) else none

/-- A MSG segment arrives (R379); a denied message is counted with its first segment: the packets that it makes accepted, itself or a whole message's, and none while the
message is incomplete. -/
def Dev.msgSegment (d : Dev) (p : Packet) : List Packet × Dev :=
  let q := msgQueue p
  let key (a : Asm) : Bool := a.src = p.src && a.room = p.room && a.id = msgId p && a.queue = q
  if !d.chip.msgOk q p.src (msgTotal p) then ([p], if msgOffset p = 0 then d.denyMsg p else d)
  else
    let old := d.chip.jil.asms.find? key
    let die := homeDie p.src
    let segs := (old.map Asm.segs).getD []
    if segs.any fun s => s.2.num = p.num && s.2.gen = p.gen then ([], d)
    else if 4 * 2 ^ 20 < d.chip.asmUsed die + p.body.length then ([], d)
    else
      let segs := segs ++ [(msgOffset p, p)]
      let a : Asm := { src := p.src, room := p.room, id := msgId p, queue := q, total := msgTotal p, segs, since := (old.map Asm.since).getD d.chip.frm.time }
      match joinSegs segs a.total with
      | none => ([], d.onJil fun j => { j with asms := j.asms.filter (fun x => !key x) ++ [a] })
      | some data =>
        -- the queue engine takes nothing while M is in warm reset: the last segment is resent
        if d.chip.boot.warm then ([], d)
        else
          let d := d.onJil fun j => { j with asms := j.asms.filter fun x => !key x }
          (segs.map Prod.snd, d.passMsg q p.src p.room p.sframe p.spec (segs.any fun s => packetHusked s.2) data)

/-- 1 ms has passed since a message's first segment: it is discarded (R379). -/
def reassemblyTimeout (src room id queue : Nat) (d : Dev) : Dev :=
  d.onJil fun j => { j with asms := j.asms.filter fun a =>
    !(a.src = src && a.room = room && a.id = id && a.queue = queue && decide (a.since + msNs 1 ≤ d.chip.endTime)) }

/-! ## Multicast -/

/-- The key of a group's member in the member table. -/
def memberSel (group member : Nat) : Nat := group * 64 + member
/-- A member's entry: FENCED, queue, node (R380). -/
def Chip.member (c : Chip) (group member : Nat) : Nat × Nat × Nat :=
  let v := c.fld F.PCH_MC_MEMBER 0 0 (memberSel group member)
  (bitsOf v 31 1, bitsOf v 16 13, bitsOf v 0 12)
/-- The members of a group (R380). -/
def Chip.groupSize (c : Chip) (group : Nat) : Nat := c.fld F.PCH_MC_CFG_N 0 0 group

/-- MASK, MSG_ID and REPLY of a multicast MSG (R380). -/
def mcMask (p : Packet) : Nat := leField p.args 0 8
def mcId (p : Packet) : Nat := leField p.args 8 2
def mcReply (p : Packet) : Nat := leField p.args 10 2

/-- A MACK to the source of a multicast packet: 0 DELIVERED, 1 FENCED, 2 DROPPED (R381). -/
def Dev.sendMack (d : Dev) (p : Packet) (member status : Nat) : Dev :=
  d.postWin { type := 0x21, tc := 1, dest := p.src
              args := leBytes 2 p.dest ++ leBytes 2 (mcId p) ++ leBytes 1 member ++ leBytes 1 status ++ List.replicate 6 0 }

/-- The held branch of a member of a multicast packet. -/
def heldBranch (src id member : Nat) (b : Packet × Nat × Nat × Nat) : Bool := b.1.src = src && mcId b.1 = id && b.2.1 = member

/-- Deliver a multicast packet to a member of this module (R381): checked as R379 does; where its die has no reassembly memory free,
the branch is held in its input, and the member joins those held. -/
def Dev.mcDeliver (input : Nat) (p : Packet) (x : Dev × List Nat) (member : Nat) : Dev × List Nat :=
  let d := x.1
  let e := d.chip.member p.dest member
  let ended (d : Dev) : Dev := d.onJil fun j => { j with branches := j.branches.filter fun b => !heldBranch p.src (mcId p) member b }
  if !d.chip.msgOk e.2.1 p.src p.body.length then (ended ((d.denyMsg p).sendMack p member 1), x.2)
  else if 4 * 2 ^ 20 < d.chip.asmUsed (homeDie p.src) + p.body.length ∨ d.chip.boot.warm then
    (if d.chip.jil.branches.any (heldBranch p.src (mcId p) member) then d
     else d.onJil fun j => { j with branches := j.branches ++ [(p, member, d.chip.frm.time, input)] }, x.2 ++ [member])
  else (ended ((d.passMsg e.2.1 p.src p.room p.sframe p.spec (packetHusked p) p.body).sendMack p member 0), x.2)

/-- Where each remaining member of a multicast packet goes: its output port, or here, in the directions that the packet has fixed
(R366, R381). -/
def Chip.mcPort (c : Chip) (input : Nat) (p : Packet) (member : Nat) : Hop :=
  c.hop input { p with dest := (c.member p.dest member).2.2 }

/-- The members of a packet's mask that are not FENCED, with where they go (R381). -/
def Chip.mcHops (c : Chip) (input : Nat) (p : Packet) : List (Nat × Hop) :=
  (((bitList 64 (mcMask p)).filter fun k => decide (k < c.groupSize p.dest)).filter fun k => (c.member p.dest k).1 = 0).map fun k => (k, c.mcPort input p k)

/-- A multicast packet with its mask cut to some members (R381). -/
def mcCut (p : Packet) (members : List Nat) : Packet := { p with args := leBytes 8 (ofBitList members) ++ p.args.drop 8 }

/-- The copies that a multicast packet needs, one on each output port, each with its direction fixed (R366, R381). -/
def Chip.mcCopies (c : Chip) (input : Nat) (p : Packet) : List (Nat × Packet) :=
  let hops := c.mcHops input p
  (List.range 6).filterMap fun q =>
    let mine := hops.filterMap fun h => match h.2 with
      | .out q' x => if q' = q then some (h.1, x) else none
      | _ => none
    mine.head?.map fun m => (q, resealed p { mcCut p (mine.map Prod.fst) with dirset := m.2.dirset, dir := m.2.dir, dl := m.2.dl, hops := p.hops + 1 })

/-- What a router does at once with a multicast packet (R363, R366, R381): FENCED members are removed and reported, members here
get it where its ECRC holds, and members that no arc reaches are dropped and the packet counted. With the members whose branch is held. -/
def Dev.mcLocal (d : Dev) (input : Nat) (p : Packet) : Dev × List Nat :=
  let all := (bitList 64 (mcMask p)).filter fun k => decide (k < d.chip.groupSize p.dest)
  let hops := d.chip.mcHops input p
  let die := if input = 6 then homeDie p.dest else portDie input
  let d := (all.filter fun k => (d.chip.member p.dest k).1 = 1).foldl (fun d k => d.sendMack p k 1) d
  let x := if packetOk p then ((hops.filter fun h => h.2 = .here).map Prod.fst).foldl (Dev.mcDeliver input p) (d, []) else (d, [])
  (if hops.any fun h => h.2 = .unreach then (x.1.countDie F.PCH_UNREACH die).log3 clsJiliaDrop 9 (if input = 6 then 3 * die else input) else x.1, x.2)

/-- A MACK arrives at the source (R381, R382). -/
def Dev.takeMack (d : Dev) (p : Packet) : Dev :=
  let group := leField p.args 0 2
  let id := leField p.args 2 2
  let m := leField p.args 4 1
  let st := leField p.args 5 1
  d.onJil fun j => { j with gathers := j.gathers.map fun g =>
    if g.group = group ∧ g.id = id then
      { g with delivered := if st = 0 then orBit g.delivered m else g.delivered
               fenced := if st = 1 then orBit g.fenced m else g.fenced
               dropped := if st = 2 then orBit g.dropped m else g.dropped }
    else g }

/-- The completion of a multicast message: members that have not answered are DROPPED (R382). -/
def mcastCompletion (group id : Nat) (d : Dev) : Dev :=
  match d.chip.jil.gathers.find? fun g => g.group = group && g.id = id with
  | none => d
  | some g =>
    let answered := g.delivered ||| g.fenced ||| g.dropped
    if d.chip.endTime < g.since + msNs 1 ∧ answered &&& g.mask ≠ g.mask then d
    else
      let late := ofBitList ((bitList 64 g.mask).filter fun k => !bitOf answered k)
      let d := d.onJil fun j => { j with gathers := j.gathers.filter fun x => !(x.group = group && x.id = id) }
      let data := leBytes 2 group ++ leBytes 2 id ++ List.replicate 4 0 ++ leBytes 8 g.delivered ++ leBytes 8 g.fenced ++ leBytes 8 (g.dropped ||| late)
      let ok := match d.chip.queueDecl g.reply with
        | some (room, e) => room = g.room && (e.kind = qFabModel || e.kind = qFabHost) && d.chip.queueOn g.reply
        | none => false
      if ok then d.passMsg g.reply d.chip.nodeId g.room 0 false false data else d

/-! ## Clears and retractions of a sender frame -/

/-- A CLEAR arrives (R412, R436): entries proceed, held messages commit under R306. -/
def Dev.takeClear (d : Dev) (p : Packet) : Dev :=
  let room := leField p.args 0 1 % 16
  let frame := leField p.args 2 6 % 65536
  let d := d.clearHeld p.src room frame
  let hit (x : Pkt) : Bool := x.spec = some (p.src, room, frame)
  (d.chip.que.qs.filter fun q => q.2.wait.any hit).foldl (fun d q =>
    d.onQueue q.1 fun x => { x with wait := x.wait.map fun y => if hit y then { y with clear := true } else y }) d

/-- A RETRACT arrives (R412, R436): entries are answered RETRACTED, held messages are rewound. -/
def Dev.takeRetract (d : Dev) (p : Packet) : Dev :=
  let room := leField p.args 0 1 % 16
  let frame := leField p.args 2 6 % 65536
  let d := d.retractHeld p.src room frame
  let hit (x : Pkt) : Bool := x.spec = some (p.src, room, frame)
  (d.chip.que.qs.filter fun q => q.2.wait.any hit).foldl (fun d q =>
    (d.rewound q.1 (q.2.wait.filter hit).length).onQueue q.1 fun x => { x with wait := x.wait.filter fun y => !hit y }) d

/-- 40 ms have passed for held messages of a sender frame: they are discarded and counted (R436). -/
def heldExpiry (src room sframe : Nat) (d : Dev) : Dev :=
  let hit (x : Pkt) : Bool := x.spec = some (src, room, sframe) && !x.clear && decide (x.since + msNs 40 ≤ d.chip.endTime)
  (d.chip.que.qs.filter fun q => q.2.wait.any hit).foldl (fun d q =>
    (d.countDie F.PCH_MSG_LOST (homeDie src) (q.2.wait.filter hit).length).onQueue q.1 fun x => { x with wait := x.wait.filter fun y => !hit y }) d

/-! ## Management and congestion maps -/

/-- MGMT and CMAP_REQ are accepted only from the manager (R383). -/
def Chip.fromManager (c : Chip) (p : Packet) : Bool := c.fld F.PCH_MGMT_EN = 1 && c.fld F.PCH_MGMT_NODE = p.src

/-- A MGMT packet: its MCTP message passes to M firmware; another's is refused (R383). None while M cannot take it (R388). -/
def Dev.takeMgmt (d : Dev) (p : Packet) : Option Dev :=
  if !d.chip.fromManager p then some (d.countDie F.PCH_MGMT_DENY (homeDie p.src))
  else if d.chip.boot.warm then none
  else some (d.emit (.mctp p.body))

/-- A CMAP_REQ is answered by M with the map last latched (R384). None while M cannot take it (R388). -/
def Dev.takeCmapReq (d : Dev) (p : Packet) : Option Dev :=
  if !d.chip.fromManager p then some (d.countDie F.PCH_MGMT_DENY (homeDie p.src))
  else if d.chip.boot.warm then none
  else some (d.postWin { type := 0x33, tc := 2, dest := p.src, body := d.chip.jil.cmap })

/-- The record of one port in a congestion map (R384). -/
def Chip.cmapPort (c : Chip) (q : Nat) (x : Nat × Nat × Nat) : List Byte :=
  let p := c.port q
  leBytes 1 p.st ++ leBytes 1 (popcount 16 p.live) ++ [0, 0] ++ leBytes 4 p.mFlits ++ leBytes 4 x.1 ++ leBytes 4 x.2.1 ++ leBytes 4 p.mPeak
    ++ leBytes 4 p.mReplays ++ leBytes 4 p.mUncorr ++ leBytes 4 x.2.2

/-- The record of one sender window in a congestion map (R384). -/
def Chip.cmapWindow (c : Chip) (x : Nat × Nat × Nat) : List Byte :=
  let p := (c.sendPair x.1).getD {}
  leBytes 2 x.1 ++ leBytes 1 p.gen ++ [0] ++ leBytes 4 (p.mBytes / 1024) ++ leBytes 2 p.mResends ++ leBytes 2 x.2.1 ++ leBytes 4 x.2.2

/-- M latches the congestion map at a threshold whose number is a multiple of 2^SHIFT, with the windows that were full longest first
(R384). -/
def cmapLatch (f : CmapFacts) (d : Dev) : Dev :=
  let n := d.chip.frm.cur
  if n % 2 ^ d.chip.fld F.PCH_CMAP_CTL_SHIFT ≠ 0 ∨ d.chip.jil.cmapAt = some n ∨ d.chip.boot.warm then d
  else
    let ws := (f.windows.mergeSort fun a b => decide (b.2.2 ≤ a.2.2)).take 64
    let map := leBytes 6 (frameSub n 1) ++ leBytes 2 d.chip.nodeId ++ leBytes 4 (frameSub n d.chip.jil.cmapFrom) ++ leBytes 2 ws.length ++ [0, 0]
      ++ (List.range 6).flatMap (fun q => d.chip.cmapPort q (f.ports.getD q (0, 0, 0))) ++ ws.flatMap d.chip.cmapWindow
    d.onJil fun j => { j with
      cmap := map, cmapAt := some n, cmapFrom := n
      ports := Tab.mapAll {} j.ports fun _ p => { p with mFlits := 0, mReplays := 0, mUncorr := 0, mPeak := p.occupied }
      send := j.send.map fun p => (p.1, { p.2 with mBytes := 0, mResends := 0 }) }

open Host

/-- REASSEMBLY_TIMEOUT (R379). -/
def execReassemblyTimeout (src room id queue : Nat) (s : State) : Outcome State Fault Refusal :=
  runs s (reassemblyTimeout src room id queue)

/-- MCAST_COMPLETION (R382). -/
def execMcastCompletion (group id : Nat) (s : State) : Outcome State Fault Refusal := runs s (mcastCompletion group id)

/-- HELD_MESSAGE_EXPIRY (R436). -/
def execHeldMessageExpiry (src room sframe : Nat) (s : State) : Outcome State Fault Refusal := runs s (heldExpiry src room sframe)

/-- CMAP_LATCH (R384). -/
def execCmapLatch (f : CmapFacts) (s : State) : Outcome State Fault Refusal := runs s (cmapLatch f)

end Sys2Proof.Machine
end

