-- ==== Sys2Proof/Machine/Inject.lean ====
section
/-! DEFINITION. Injection buffers and what they send (R374 to R377, R387, R397, R434, R435). -/

namespace Sys2Proof.Machine

/-- An injection buffer, by die * 512 + number. -/
def Chip.buf (c : Chip) (b : Nat) : InjBuf := Tab.get {} c.jil.bufs b
/-- Change an injection buffer. -/
def Dev.onBuf (d : Dev) (b : Nat) (f : InjBuf → InjBuf) : Dev := d.onJil fun j => { j with bufs := Tab.upd {} j.bufs b f }
/-- The room of a buffer (R374). -/
def bufRoom (b : Nat) : Nat := b % 512 / 32
/-- Bytes of a buffer in use: records received and not yet sent count (R375). -/
def InjBuf.used (b : InjBuf) : Nat := (b.stream.length + b.prev.length) * 112 + (b.recs.map InjRec.size).foldl (· + ·) 0

/-! ## Records -/

/-- The 16-byte words of a stream, each with its husk mark; a slot not delivered good husks its words (R125, R211). -/
def streamWords (l : List StreamSlot) : List (List Byte × Bool) :=
  l.flatMap fun s => (List.range 7).map fun w =>
    ((s.bytes.drop (16 * w)).take 16, bitOf s.husks w || !s.good)

/-- A record's packet may be sent (R376, R379, R380, R393). -/
def Chip.recordOk (c : Chip) (room : Nat) (p : Packet) : Bool :=
  decide (p.body.length ≤ 4096) && typeTc p.type = some p.tc
    && (if isRequest p then !p.mcast && c.requestOk room p
        else p.type = 0x20 && (if p.mcast then decide (p.dest < 1024) && !p.pip
          else decide (p.dest < 4096) && decide (msgOffset p + p.body.length ≤ msgTotal p) && decide (msgTotal p ≤ maxPacket)
            && (p.args.drop 8).all (· = 0)))

/-- The record at the front of a stream's words: none at TYPE 0 or the end; `some none` where it is malformed (R376). -/
def Chip.nextRecord (c : Chip) (room : Nat) (ws : List (List Byte × Bool)) : Option (Option (Packet × Nat × List (List Byte × Bool))) :=
  match ws with
  | (h0, k0) :: (h1, k1) :: _ =>
    let head := h0 ++ h1
    if k0 then some none
    else if leField head 0 1 = 0 then none
    else if k1 then some none
    else
      let len := leField head 12 2
      let husk := bitOf (leField head 1 1) 5
      let n := roundUp 16 (32 + len + if husk then mapLen len else 0)
      if 4096 < len ∨ ws.length * 16 < n then some none
      else
        let l := ws.take (n / 16)
        match parsePacket (padTo (roundUp 8 n) 0 (l.flatMap Prod.fst)) with
        | none => some none
        | some (p, _) =>
          let marks := ofBitList (((l.drop 2).zipIdx.filter fun w => w.1.2 && decide (16 * w.2 < len)).map Prod.snd)
          let p := { p with husk := husk || marks ≠ 0, map := p.map ||| marks, room }
          if c.recordOk room p then some (some (p, n, ws.drop (n / 16))) else some none
  | [(h0, k0)] => if !k0 && leField h0 0 1 = 0 then none else some none
  | [] => none

/-- A die takes the records of a buffer's stream; a record that may not go is dropped with the rest of the stream (R376).
`fuel` bounds the records of one stream. -/
def Dev.takeRecords (d : Dev) (b frame : Nat) : Nat → List (List Byte × Bool) → Dev
  | 0, _ => d
  | fuel + 1, ws =>
    match d.chip.nextRecord (bufRoom b) ws with
    | none => d
    | some none => ((d.countDie F.PCH_INJ_DROP (b / 512)).flag F.PCH_INT_STATUS_INJ_DROP (b / 512)).log3 clsJiliaDrop 11 (bufRoom b) (bufRoom b)
    | some (some (p, n, rest)) =>
      if 65536 < (d.chip.buf b).used + n then
        ((d.countDie F.PCH_INJ_DROP (b / 512)).flag F.PCH_INT_STATUS_INJ_DROP (b / 512)).log3 clsJiliaDrop 11 (bufRoom b) (bufRoom b)
      else (d.onBuf b fun x => { x with recs := x.recs ++ [{ frame, pkt := p, size := n }] }).takeRecords b frame fuel rest

/-- INJECTION_RECORD (R376, R377): the stream that a buffer received in the frame before has become final; it carries the
results of the frame before that. -/
def injectionRecord (b : Nat) (d : Dev) : Dev :=
  let x := d.chip.buf b
  if 1024 ≤ b ∨ x.prev.isEmpty then d
  else
    let ws := streamWords x.prev
    ((d.onBuf b fun x => { x with prev := [] }).takeRecords b (frameSub d.chip.frm.cur 2) 2048 ws).endFences

/-- At a threshold: streams not yet taken are taken, and the running frame's become the last frame's. -/
def injectFrame (d : Dev) : Dev :=
  let d := (d.chip.jil.bufs.map Prod.fst).foldl (fun d b => injectionRecord b d) d
  d.onJil fun j => { j with bufs := Tab.mapAll {} j.bufs fun _ x => { x with prev := x.stream, stream := [] } }

/-! ## Sending -/

/-- The room sends speculatively (R377, R434). -/
def Chip.speculative (c : Chip) (r : Nat) : Bool := ((c.image r).map Image.speculative).getD false

/-- The modules that a packet reaches. -/
def Chip.reaches (c : Chip) (p : Packet) : List Nat :=
  if p.mcast then ((bitList 64 (mcMask p)).map fun k => (c.member p.dest k).2.2).eraseDups else [p.dest]

/-- A request finds no space for its completion record in its reply buffer (R397). -/
def Chip.noReply (c : Chip) (room : Nat) (p : Packet) : Bool :=
  isRequest p && decide (65536 < (c.rbuf (rbufOf room (argRbuf p))).used + reserveOf p)

/-- Send a buffer's first record, where it is final and, in hold mode, clear (R377, R397, R415); a request reserves its
completion record first. `only` says which records the command sends. -/
def sendRecord (only : Packet → Bool) (b : Nat) (d : Dev) : Dev :=
  let room := bufRoom b
  match (d.chip.buf b).recs with
  | [] => d
  | r :: rest =>
    let p0 := r.pkt
    let spec := d.chip.speculative room
    let pop (d : Dev) : Dev := (d.onBuf b fun x => { x with recs := rest }).passBytes (b / 512) room r.size
    if 1024 ≤ b ∨ !only p0 ∨ !(spec || r.clear) then d
    else
      let p := { p0 with spec, sframe := if spec then r.frame % 65536 else 0, dirset := 0, dir := 0, esc := false, dl := false, hops := 0 }
      let note (d : Dev) : Dev := if spec then
          d.onJil fun j => { j with specs := j.specs ++ (((d.chip.reaches p).map fun n => (room, r.frame, n)).filter fun x => x ∉ j.specs) }
        else d
      let rb := rbufOf room (argRbuf p)
      if d.chip.noReply room p then d
      else if p.type = 0x1F then
        let d := (pop d).onRbuf rb fun x => { x with reserved := x.reserved + 32 }
        (d.onJil fun j => { j with fences := j.fences ++ [{ room, rbuf := rb, tag := argTag p, frame := r.frame }] }).endFences
      else if p.mcast then
        let d := note ((pop d).post { p with retx := false, gen := 0, num := 0 })
        d.onJil fun j => { j with gathers := j.gathers ++ [{ room, group := p.dest, id := mcId p, reply := mcReply p, mask := mcMask p, since := d.chip.frm.time }] }
      else match d.sendWin p with
        | none => d
        | some (q, d) =>
          let d := note (pop d)
          if isRequest p then
            let d := d.onRbuf rb fun x => { x with reserved := x.reserved + reserveOf p }
            d.onJil fun j => { j with reqs := j.reqs ++ [{ room, rbuf := rb, tag := argTag p, kind := reqKind p, reserve := reserveOf p, node := p.dest
                                                           seq := packetSeq q, epoch := j.epoch, first := d.chip.frm.time, frame := r.frame }] }
          else d

/-- Bit `u` of a room's flag: its buffer `u` of a die has at least 48 KiB free (R375). -/
def Chip.buffersFree (c : Chip) (die room : Nat) : Nat :=
  ofBitList ((List.range 32).filter fun u => (c.buf (die * 512 + room * 32 + u)).used ≤ 16384)

/-- At a threshold each porch tile raises the flags it is the home of by the buffers that have room (R375). -/
def Dev.raiseBuffers (d : Dev) : Dev :=
  (d.chip.tow.flags.filter fun f => (f.2.home = 20 || f.2.home = 21) && d.chip.dieUp (f.2.home - 20)).foldl (fun d f =>
    let v := d.chip.buffersFree (f.2.home - 20) (f.1 / 64)
    if v = 0 then d else d.onTow fun t => { t with flags := Tab.ins t.flags f.1 { f.2 with raised := some (f.2.raised.getD 0 ||| v) } }) d

/-- What a room's clear or withdrawal of frame `n` does at the porch (R434, R435): in hold mode records may go or are
discarded; in speculative mode a CLEAR or a RETRACT goes to each module that had SPEC packets of the frame. -/
def Dev.outboundFate (d : Dev) (room n : Nat) (clear : Bool) (cause rows endpoint : Nat) : Dev :=
  let spec := d.chip.speculative room
  let fate (l : List InjRec) : List InjRec :=
    if clear then l.map (fun r => if r.frame = n then { r with clear := true } else r)
    else if spec then l else l.filter fun r => r.frame ≠ n
  let d := (d.chip.jil.bufs.filter fun b => bufRoom b.1 = room && b.2.recs.any fun r => r.frame = n).foldl (fun d b =>
    d.onBuf b.1 fun x => { x with recs := fate x.recs }) d
  let nodes := (d.chip.jil.specs.filter fun x => x.1 = room && x.2.1 = n).map fun x => x.2.2
  let d := d.onJil fun j => { j with specs := j.specs.filter fun x => !(x.1 = room && x.2.1 = n) }
  nodes.foldl (fun d node => d.postWin
    { type := if clear then 0x43 else 0x44, tc := 3, pip := true, dest := node, room
      args := leBytes 1 room ++ leBytes 1 (if clear then 0 else cause) ++ leBytes 6 n ++ leBytes 2 (if cause = 1 then rows else 0)
        ++ leBytes 1 (if !clear && cause = 1 then endpoint else 0xFF) ++ [0] }) d

/-- A room reset discards the room's injection buffer contents (R388). -/
def Dev.resetInject (d : Dev) (r : Nat) : Dev := d.onJil fun j => { j with bufs := j.bufs.filter fun b => bufRoom b.1 ≠ r }

open Host

/-- INJECTION_RECORD (R376). -/
def execInjectionRecord (b : Nat) (s : State) : Outcome State Fault Refusal := runs s (injectionRecord b)

/-- INJECTION_SEND (R377): a buffer's first record goes out. -/
def execInjectionSend (b : Nat) (s : State) : Outcome State Fault Refusal := runs s (sendRecord (fun _ => true) b)

/-- REQUEST_SEND (R397): a buffer's first record goes out where it is a request. -/
def execRequestSend (b : Nat) (s : State) : Outcome State Fault Refusal := runs s (sendRecord (fun p => isRequest p && p.type ≠ 0x1F) b)

/-- FENCE (R415): a buffer's first record is taken where it is a FENCE. -/
def execFence (b : Nat) (s : State) : Outcome State Fault Refusal := runs s (sendRecord (fun p => p.type = 0x1F) b)

end Sys2Proof.Machine
end

