-- ==== Sys2Proof/Machine/Receive.lean ====
section
/-! DEFINITION. The receiver side of windows and the router's step (R365 to R373, R381). -/

namespace Sys2Proof.Machine

/-- A receiver pair. -/
def Chip.recvPair (c : Chip) (node : Nat) : Option RPair := Tab.find c.jil.recv node
/-- Change a receiver pair. -/
def Dev.onRecv (d : Dev) (node : Nat) (f : RPair → RPair) : Dev :=
  d.onJil fun j => match Tab.find j.recv node with
    | some x => { j with recv := Tab.ins j.recv node (f x) }
    | none => j

/-- A packet number has been accepted (R370, R372). -/
def RPair.has (x : RPair) (num : Nat) : Bool := numBelow num x.cum || num ∈ x.got

/-- One more accepted number: CUM rises over every number accepted without a gap (R370). -/
def RPair.add (x : RPair) (num : Nat) : RPair :=
  if x.has num then x
  else
    let got := num :: x.got
    let cum := (List.range got.length).foldl (fun c _ => if c ∈ got then (c + 1) % 2 ^ 24 else c) x.cum
    { x with cum, got := got.filter fun n => !numBelow n cum, owe := x.owe + 1 }

/-- Send the WACK of a pair (R370). -/
def Dev.sendWack (d : Dev) (node : Nat) : Dev :=
  match d.chip.recvPair node with
  | none => d
  | some x =>
    let sack := ofBitList ((List.range 64).filter fun k => (x.cum + 1 + k) % 2 ^ 24 ∈ x.got)
    (d.onRecv node fun x => { x with owe := 0 }).post
      { type := 1, tc := 2, dest := node, args := leBytes 4 (x.gen % 256 * 2 ^ 24 + x.cum) ++ leBytes 8 sack }

/-- Packets are accepted; after 32 the WACK goes out (R370). -/
def Dev.acceptAll (d : Dev) (l : List Packet) : Dev :=
  l.foldl (fun d p =>
    match d.chip.recvPair p.src with
    | none => d
    | some x =>
      if x.gen ≠ p.gen then d
      else
        let d := d.onRecv p.src fun x => x.add p.num
        if 32 ≤ (((d.chip.recvPair p.src).map RPair.owe).getD 0) then d.sendWack p.src else d) d

/-- The room that a packet serves or is delivered to (R466); 16 for none. -/
def Chip.servedRoom (c : Chip) (p : Packet) : Nat :=
  if 0x10 ≤ p.type ∧ p.type ≤ 0x13 then (c.targetRoom p).getD 16
  else if p.type = 0x18 then ((c.openReq p.src (leField p.body 0 4)).map Req.room).getD 16
  else if p.type = 0x20 then ((c.queueDecl (msgQueue p)).map Prod.fst).getD 16
  else 16

/-- Give a packet to its target (R362): the packets that are accepted with it; none while the target cannot take it. -/
def Dev.toTarget (d : Dev) (p : Packet) : Option (List Packet × Dev) :=
  let p := d.chip.arrived p
  if p.type = 0x10 ∨ p.type = 0x11 ∨ p.type = 0x12 ∨ p.type = 0x13 then (d.takeRequest p).map fun d => ([p], d)
  else if p.type = 0x18 then some ([p], d.takeRsp' p)
  else if p.type = 0x20 then some (d.msgSegment p)
  else if p.type = 0x21 then some ([p], d.takeMack p)
  else if p.type = 0x30 then (d.takeMgmt p).map fun d => ([p], d)
  else if p.type = 0x32 then (d.takeCmapReq p).map fun d => ([p], d)
  else if p.type = 0x43 then some ([p], d.takeClear p)
  else if p.type = 0x44 then some ([p], d.takeRetract p)
  else some ([p], d)

/-- Give a packet to its target; where it is taken its bytes count for the room (R362, R466). -/
def Dev.giveTarget (d : Dev) (p : Packet) : Option (List Packet × Dev) :=
  (d.toTarget p).map fun r => (r.1, r.2.passBytes (homeDie p.src) (d.chip.servedRoom p) (wireLen p))

/-- Held pip packets whose lower numbers have all been accepted go to their targets, lowest first (R372). -/
def Dev.freePips (d : Dev) (node : Nat) : Nat → Dev
  | 0 => d
  | n + 1 =>
    match d.chip.recvPair node with
    | none => d
    | some x =>
      match (x.pips.filter fun p => numBelow p.num x.cum).mergeSort (fun a b => numBelow a.num b.num || a.num = b.num) with
      | [] => d
      | p :: _ => match d.giveTarget p with
        | none => d
        | some (_, d) => (d.onRecv node fun x => { x with pips := x.pips.filter fun y => y.num ≠ p.num }).freePips node n

/-- Bytes of pip packets that a die holds (R372). -/
def Chip.pipBytes (c : Chip) (die : Nat) : Nat :=
  (((c.jil.recv.filter fun r => homeDie r.1 = die).flatMap fun r => r.2.pips).map wireLen).foldl (· + ·) 0

/-- A packet of a pair's GEN that has not been accepted: held if pip, else given to its target (R370, R372). -/
def Dev.takeWindowed (d : Dev) (p : Packet) : Dev :=
  let n (d : Dev) : Nat := ((d.chip.recvPair p.src).map fun x => x.pips.length + 1).getD 0
  if p.pip then
    if 2 ^ 20 < d.chip.pipBytes (homeDie p.src) + wireLen p then d
    else
      let d := (d.onRecv p.src fun x => { x with pips := x.pips ++ [p] }).acceptAll [p]
      d.freePips p.src (n d)
  else match d.giveTarget p with
    | none => d
    | some (l, d) =>
      let d := d.acceptAll l
      d.freePips p.src (n d)

/-- A receiver has no state for a pair's GEN and the packet does not start one: RESYNC names the GEN it expects next
(R373). -/
def Dev.sendResync (d : Dev) (p : Packet) : Dev :=
  d.post { type := 2, tc := 2, dest := p.src, args := leBytes 1 (p.gen + 1) ++ List.replicate 11 0 }

/-- A windowed packet reaches its destination (R363, R370, R372, R373). -/
def windowedIn (p : Packet) (d : Dev) : Dev :=
  let now := d.chip.frm.time
  let die := homeDie p.src
  if !packetOk p ∨ p.dest ≠ d.chip.nodeId ∨ !windowed p ∨ typeTc p.type ≠ some p.tc ∨ !d.chip.dieUp die then d
  else
    let start (d : Dev) : Dev :=
      let d := d.expireHeld fun h => h.pkt.src = p.src && h.pkt.gen ≠ p.gen
      let d := d.onJil fun j => { j with
        recv := Tab.ins j.recv p.src { gen := p.gen, last := now }
        asms := j.asms.filter fun a => !(a.src = p.src && a.segs.any fun s => s.2.gen ≠ p.gen) }
      d.takeWindowed p
    match d.chip.recvPair p.src with
    | none =>
      if p.num ≠ 0 then d.sendResync p
      else if 2048 ≤ (d.chip.jil.recv.filter fun r => homeDie r.1 = die).length then d
      else start d
    | some x =>
      if genNewer p.gen x.gen then (if p.num = 0 then start d else d.sendResync p)
      else if p.gen ≠ x.gen then d
      else
        let d := d.onRecv p.src fun x => { x with last := now }
        if x.has p.num then d.sendWack p.src else d.takeWindowed p

/-- The command for packets of the given types. -/
def windowedOf (ok : Packet → Bool) (p : Packet) (d : Dev) : Dev := if ok p then windowedIn p d else d

/-! ## The router -/

/-- A packet leaves an input: its buffer space returns as credit (R354, R364). -/
def Dev.leaveInput (d : Dev) (input : Nat) (p : Packet) : Dev :=
  if input = 6 then d.onJil fun j => { j with inject := j.inject.erase p }
  else (d.onPort input fun x => { x with inq := x.inq.erase p }).giveCredit input (vcOf p) (creditUnits p)

/-- The first packet of a virtual channel at an input: a port, or 6 for local injection (R365). -/
def Chip.head (c : Chip) (input vc : Nat) : Option Packet :=
  (if input = 6 then c.jil.inject else (c.port input).inq).find? fun p => vcOf p = vc

/-- The class of service of an output (R365): TC3, then TC2, then TC0 and TC1 together. -/
def serviceClass (p : Packet) : Nat := if p.tc = 3 then 2 else if p.tc = 2 then 1 else 0

/-- The turn of a packet at an output (R365; log 127): its port, 6 for local injection, 7 for local injection over the spine bridge. -/
def turnSlot (input q : Nat) (p : Packet) : Nat := if input < 6 then input else if homeDie p.dest = portDie q then 6 else 7

/-- How many turns away an input is in a packet's class. -/
def Port.turnsAway (x : Port) (cls slot : Nat) : Nat := (slot + 7 - x.turns.getD cls 7) % 8

/-- The outputs that the packet at the head of an input asks for, with what it would send there. -/
def Chip.wants (c : Chip) (input : Nat) (p : Packet) : List (Nat × Packet) :=
  if p.mcast && p.type = 0x20 then c.mcCopies input p
  else match c.hop input p with
    | .out q y => [(q, { y with hops := p.hops + 1 })]
    | _ => []

/-- An output takes a packet of an input now, but for the others' turns (R364, R378). -/
def Chip.mayGo (c : Chip) (input q : Nat) (p y : Packet) : Bool := (c.port q).takes y && !(input = 6 && c.stoppedFor p q)

/-- Another packet that could go to the same output goes first (R365): one of a higher class, or one of the same class whose
input's turn comes sooner. -/
def Chip.outranked (c : Chip) (q input : Nat) (p : Packet) : Bool :=
  let x := c.port q
  let near := x.near.any fun y => decide (serviceClass p ≤ serviceClass y) && x.takes y
  near || (List.range 7).any fun i => (List.range 10).any fun vc => match c.head i vc with
    | some y =>
      let first := decide (serviceClass p < serviceClass y) || (serviceClass p = serviceClass y
        && decide (x.turnsAway (serviceClass p) (turnSlot i q y) < x.turnsAway (serviceClass p) (turnSlot input q p)))
      first && (c.wants i y).any fun w => w.1 = q && c.mayGo i q y w.2
    | none => false

/-- A packet goes out on a port, whose class takes its next turn from there; from another port it is in transit (R365, R466). -/
def Dev.serve (d : Dev) (q input : Nat) (p y : Packet) : Dev :=
  let d := (d.onPort q fun x => { x with turns := x.turns.set (serviceClass p) (turnSlot input q p) }).sendOn q y
  if input < 6 then d.passBytes (portDie q) 16 (wireLen y) else d

/-- A router drops a packet (R362, R366 to R368). -/
def Dev.dropPacket (d : Dev) (f : Fld) (die input : Nat) (p : Packet) : Dev :=
  let d := (d.leaveInput input p).countDie f die
  if f.addr = F.PCH_BAD_PKT.addr then d else d.log3 clsJiliaDrop 9 (if input = 6 then 3 * die else input)

/-- A neighbour packet that reached the head of its input (R358, R362, R367): LANES and LINK_STATE act here; the others act by
their own commands, which carry the times they need. -/
def Dev.nearPacket (d : Dev) (input : Nat) (p : Packet) : Dev :=
  let d := d.leaveInput input p
  if !packetOk p then d
  else if p.type = 3 then lanesIn input (leField p.args 0 2) d
  else if p.type = 0x31 then linkState input (leField p.args 0 1) (leField p.args 1 1) (leField p.args 2 1 = 1) d
  else d

/-- A packet in an input is replaced by what is left of it. -/
def Dev.keepHead (d : Dev) (input : Nat) (p p' : Packet) : Dev :=
  let swap (l : List Packet) : List Packet := l.map fun x => if x = p then p' else x
  if input = 6 then d.onJil fun j => { j with inject := swap j.inject } else d.onPort input fun x => { x with inq := swap x.inq }

/-- A multicast packet in an input keeps some members, or leaves. -/
def Dev.keepMembers (d : Dev) (input : Nat) (p : Packet) (left : List Nat) : Dev :=
  if left.isEmpty then d.leaveInput input p else d.keepHead input p (resealed p (mcCut p left))

/-- A branch held for 4 us is dropped (R381). -/
def branchDrop (src id member : Nat) (d : Dev) : Dev :=
  match d.chip.jil.branches.find? (heldBranch src id member) with
  | none => d
  | some b =>
    if d.chip.endTime < b.2.2.1 + 4000 then d
    else
      let d := d.onJil fun j => { j with branches := j.branches.filter fun x => x ≠ b }
      let q := if b.2.2.2 = 6 then d.chip.jil.inject else (d.chip.port b.2.2.2).inq
      let d := match q.find? fun p => p.mcast && p.type = 0x20 && p.src = src && mcId p = id with
        | some p => d.keepMembers b.2.2.2 p ((bitList 64 (mcMask p)).filter fun k => k ≠ member)
        | none => d
      (d.queueDrop (d.chip.member b.1.dest member).2.1 d.chip.frm.cur).sendMack b.1 member 2

/-- A multicast packet at the head of its virtual channel (R381): what concerns this module is done, each copy that may go goes,
and the packet waits with the members that wait for memory here, or whose copies may not yet go (R364, R365). -/
def Dev.mcForward (d : Dev) (input : Nat) (p : Packet) : Dev :=
  let here := d.mcLocal input p
  let d := here.1
  let step (x : Dev × List (Nat × Packet)) (w : Nat × Packet) : Dev × List (Nat × Packet) :=
    if !(x.1.chip.port w.1).carrying then ((x.1.countDie F.PCH_DEAD_LINK_DROP (portDie w.1)).log3 clsJiliaDrop 9 w.1, x.2)
    else if x.1.chip.mayGo input w.1 p w.2 ∧ !x.1.chip.outranked w.1 input p then (x.1.serve w.1 input p w.2, x.2)
    else (x.1, x.2 ++ [w])
  let r := (d.chip.mcCopies input p).foldl step (d, [])
  r.1.keepMembers input p (here.2 ++ r.2.flatMap fun w => bitList 64 (mcMask w.2))

/-- PACKET_FORWARD (R364 to R368, R381): the first packet of a virtual channel moves one hop, is delivered or is dropped;
without credit, or before its turn, it waits. -/
def packetForward (input vc : Nat) (d : Dev) : Dev :=
  if 7 ≤ input ∨ (input < 6 ∧ !d.chip.portUp input) then d
  else
    let d := d.throttle
    match d.chip.head input vc with
    | none => d
    | some p =>
      let die := if input = 6 then homeDie p.dest else portDie input
      if typeTc p.type ≠ some p.tc ∨ 48 ≤ p.hops then d.dropPacket F.PCH_BAD_PKT die input p
      else if neighbourType p.type then (if input = 6 then d.dropPacket F.PCH_BAD_PKT die input p else d.nearPacket input p)
      else if p.mcast ∧ p.type = 0x20 then d.mcForward input p
      else match d.chip.hop input p with
        | .here =>
          let d := d.leaveInput input p
          if p.type = 1 then wack p d else if p.type = 2 then resync p d else windowedIn p d
        | .unreach => d.dropPacket F.PCH_UNREACH die input p
        | .out q y =>
          let y := { y with hops := p.hops + 1 }
          if !(d.chip.port q).carrying then d.dropPacket F.PCH_DEAD_LINK_DROP (portDie q) input p
          else if !d.chip.mayGo input q p y ∨ d.chip.outranked q input p then d
          else (d.leaveInput input p).serve q input p y

/-- MULTICAST_FORWARD (R381): a multicast packet arrives at the router by an input; it waits behind those of its virtual channel. -/
def multicastForward (input : Nat) (p : Packet) (d : Dev) : Dev :=
  if 7 ≤ input ∨ (input < 6 ∧ !d.chip.portUp input) ∨ p.type ≠ 0x20 ∨ !p.mcast then d
  else
    let d := d.throttle
    let d := if input = 6 then d.onJil fun j => { j with inject := j.inject ++ [p] } else d.onPort input fun x => { x with inq := x.inq ++ [p] }
    if p.tc ≠ 1 ∨ 48 ≤ p.hops then d.dropPacket F.PCH_BAD_PKT (if input = 6 then homeDie p.dest else portDie input) input p
    else if d.chip.head input (vcOf p) = some p then d.mcForward input p else d

/-! ## Throttled time -/

/-- A packet of this module waits on a die for a place in the pair table or the store, for space in its reply buffer, or for a port that
takes injected packets (R369, R378, R397). -/
def Chip.throttledOn (c : Chip) (die : Nat) : Bool :=
  let mine (p : Packet) : Bool := homeDie p.dest = die
  (c.jil.waits.any fun p => mine p && c.noPlace p)
    || (c.jil.bufs.any fun b => match b.2.recs with
      | r :: _ => mine r.pkt && !r.pkt.mcast && r.pkt.type ≠ 0x1F && (c.speculative (bufRoom b.1) || r.clear) && (c.noPlace r.pkt || c.noReply (bufRoom b.1) r.pkt)
      | [] => false)
    || c.jil.inject.any fun p => mine p && match c.hop 6 p with
      | .out q _ => c.stoppedFor p q
      | _ => false

/-- The frame that ends counts as throttled time of a die where a packet waits at its end; what is below a whole us is kept for
the next (R369, R378; log 128). -/
def throttledTime (d : Dev) : Dev :=
  (List.range 2).foldl (fun d die =>
    if d.chip.throttledOn die then
      let ns := d.chip.jil.throttledNs.getD die 0 + d.chip.frameNs
      (d.countDie F.PCH_THROTTLED die (ns / 1000)).onJil fun j => { j with throttledNs := j.throttledNs.set die (ns % 1000) }
    else d) d

/-- WACK_TIMER (R370): accepted packets have waited 2 us. -/
def wackTimer (node : Nat) (d : Dev) : Dev :=
  match d.chip.recvPair node with
  | some x => if 0 < x.owe then d.sendWack node else d
  | none => d

/-- A porch die's part of the fabric is lost with the die (R388, R389): pairs homed on it, stores, buffers and packets in
transit. -/
def Dev.loseDie (d : Dev) (die : Nat) : Dev :=
  let mine (node : Nat) : Bool := homeDie node = die
  let d := (d.chip.jil.send.filter fun p => mine p.1).foldl (fun d p => d.losePackets p.1 (p.2.un.map RTx.pkt)) d
  d.onJil fun j => { j with
    send := j.send.filter (fun p => !mine p.1), recv := j.recv.filter (fun p => !mine p.1)
    waits := j.waits.filter (fun p => !mine p.dest), inject := j.inject.filter (fun p => !mine p.dest)
    asms := j.asms.filter (fun a => !mine a.src), branches := j.branches.filter (fun b => !(decide (b.2.2.2 < 6) && portDie b.2.2.2 = die))
    bufs := j.bufs.filter (fun b => b.1 / 512 ≠ die), rbufs := j.rbufs.filter (fun b => b.1 / 512 ≠ die)
    fences := j.fences.filter (fun f => f.rbuf / 512 ≠ die), taken := j.taken.filter (fun t => t.die ≠ die)
    celq := j.celq.filter (fun m => m.die ≠ die), psb := j.psb.filter (fun h => h.die ≠ die)
    notices := j.notices.filter (fun n => n.1 / 16 ≠ die)
    ports := j.ports.map fun p => if portDie p.1 = die then (p.1, { p.2 with inq := [], rx := [], keep := [], near := [], skew := [] }) else p }

open Host

/-- WINDOWED_PACKET (R372). -/
def execWindowedPacket (p : Packet) (s : State) : Outcome State Fault Refusal := runs s (windowedIn p)

/-- REQUEST_TAKE (R403): a request arrives at its target. -/
def execRequestTake (p : Packet) (s : State) : Outcome State Fault Refusal :=
  runs s (windowedOf (fun p => 0x10 ≤ p.type && p.type ≤ 0x13) p)

/-- MSG (R379). -/
def execMsg (p : Packet) (s : State) : Outcome State Fault Refusal := runs s (windowedOf (fun p => p.type = 0x20) p)

/-- MACK (R381). -/
def execMack (p : Packet) (s : State) : Outcome State Fault Refusal := runs s (windowedOf (fun p => p.type = 0x21) p)

/-- MGMT (R383). -/
def execMgmt (p : Packet) (s : State) : Outcome State Fault Refusal := runs s (windowedOf (fun p => p.type = 0x30) p)

/-- CMAP_REQ (R384). -/
def execCmapReq (p : Packet) (s : State) : Outcome State Fault Refusal := runs s (windowedOf (fun p => p.type = 0x32) p)

/-- CLEAR (R436). -/
def execClear (p : Packet) (s : State) : Outcome State Fault Refusal := runs s (windowedOf (fun p => p.type = 0x43) p)

/-- RETRACT (R436). -/
def execRetract (p : Packet) (s : State) : Outcome State Fault Refusal := runs s (windowedOf (fun p => p.type = 0x44) p)

/-- BRANCH_DROP (R381). -/
def execBranchDrop (src id member : Nat) (s : State) : Outcome State Fault Refusal := runs s (branchDrop src id member)

/-- PACKET_FORWARD (R368). `input`: a port, or 6 for local injection. -/
def execPacketForward (input vc : Nat) (s : State) : Outcome State Fault Refusal := runs s (packetForward input vc)

/-- MULTICAST_FORWARD (R381). -/
def execMulticastForward (input : Nat) (p : Packet) (s : State) : Outcome State Fault Refusal := runs s (multicastForward input p)

/-- WACK_TIMER (R370). -/
def execWackTimer (node : Nat) (s : State) : Outcome State Fault Refusal := runs s (wackTimer node)

end Sys2Proof.Machine
end

