-- ==== Sys2Proof/Machine/Bar2.lean ====
section
/-! DEFINITION. BAR 2 accesses of the host (R537 to R539). -/

namespace Sys2Proof.Machine

/-- A function answers memory requests: the link is up, it exists, it is not in D3hot (R532, R534). -/
def Chip.fnUp (c : Chip) (fn : Nat) : Bool :=
  c.boot.pcie && (fn = 0 || (c.host.vfEnable && decide (fn ≤ c.host.numVFs))) && !bitOf c.host.d3 fn

/-- Change the host interface. -/
def Dev.onHost (d : Dev) (f : HostIf → HostIf) : Dev := d.onChip fun c => { c with host := f c.host }

/-- SEC_APERTURE.BASE in force: a multiple of the size of BAR 2 (R537, R557). -/
def Chip.aperture (c : Chip) : Nat :=
  let b := c.fld F.SEC_APERTURE_LO * 2 ^ 30 + c.fld F.SEC_APERTURE_HI * 2 ^ 32
  b / 2 ^ c.host.bar2 * 2 ^ c.host.bar2

/-- The slice and slice address behind an offset of a function's BAR 2; none where it is not backed (R262, R263, R537). -/
def Chip.hostMap (c : Chip) (fn a : Nat) : Option (Nat × Nat) :=
  if fn = 0 then (if a < 2 ^ c.host.bar2 then moduleMap (c.aperture + a) else none)
  else if a < 2 ^ c.host.vfBar2 then roomMap (c.roomSlices (fn - 1)) a else none

/-- Status codes of a completion: successful, Unsupported Request, Completer Abort. -/
def plOk : Nat := 0
def plUr : Nat := 1
def plCa : Nat := 4

/-- An error is reported through AER (R538): bit 0 Unsupported Request, 1 Completer Abort, 2 Poisoned TLP. -/
def Dev.aer (d : Dev) (fn bit : Nat) : Dev := d.onHost fun h => { h with aer := Tab.upd 0 h.aer fn fun v => orBit v bit }

/-- The 16-byte head of a CELREQ record (R267). -/
def CelMsg.head (m : CelMsg) : List Byte :=
  leBytes 1 m.kind ++ leBytes 1 (m.room + 128 * b2n m.pf) ++ leBytes 2 m.tag ++ leBytes 1 m.slice
    ++ leBytes 1 (if m.kind = 3 then m.op else 1) ++ leBytes 1 (20 + m.die) ++ leBytes 1 m.off ++ leBytes 4 m.line ++ leBytes 4 0

/-- The payload of a write or atomic slot, or of a read record (R267). -/
def CelMsg.payload (m : CelMsg) : List Byte :=
  match m.kind with
  | 2 => m.head ++ padTo 64 0 m.data ++ leBytes 8 m.enables
  | 3 => m.head ++ leBytes 8 m.operand ++ leBytes 8 m.compare
  | _ => m.head

/-- M sends a record: to a slice that a room holds it waits for the room's CELREQ slots from M; to a slice of no room it
goes out in a host slot (R538). -/
def Dev.hostSend (d : Dev) (m : CelMsg) : Dev :=
  if (d.chip.sliceRoom (m.stack * 64 + m.slice)).isSome then d.onJil fun j => { j with celq := j.celq ++ [m] }
  else d.emit (.record (8 + m.stack) m.payload)

/-- The records of an access: one for each line it touches; none where a byte is not backed (R538). -/
def Chip.hostRecs (c : Chip) (fn addr len : Nat) (data : Option (List Byte)) : Option (List CelMsg) :=
  (spanLines addr len).zipIdx.foldr (fun lk acc => acc.bind fun l =>
    (c.hostMap fn (64 * lk.1)).map fun sa =>
      let room := if fn = 0 then (c.sliceRoom sa.1).getD 0 else fn - 1
      let at' (k : Nat) : Bool := decide (addr ≤ 64 * lk.1 + k) && decide (64 * lk.1 + k < addr + len)
      let bs := data.getD []
      { die := 2, stack := sa.1 / 64, room, pf := fn = 0, tag := (c.host.tag + lk.2) % 65536, slice := sa.1 % 64, line := sa.2 / 64
        kind := if data.isSome then 2 else 1
        data := if data.isSome then (List.range 64).map fun k => if at' k then bs.getD (64 * lk.1 + k - addr) 0 else 0 else []
        enables := if data.isSome then ofBitList ((List.range 64).filter at') else 0 } :: l) (some [])

/-- An access is taken by M. -/
def Dev.takeAcc (d : Dev) (fn addr len : Nat) (write : Bool) (ms : List CelMsg) : Dev :=
  let d := d.onHost fun h => { h with
    accs := h.accs ++ [{ id := h.order, fn, write, addr, len, recs := ms.map fun m => (m, none), since := d.chip.frm.time }]
    order := h.order + 1, tag := (h.tag + ms.length) % 65536 }
  ms.foldl Dev.hostSend d

/-- A BAR 2 read (R538). -/
def bar2Read (fn addr len : Nat) (d : Dev) : Dev :=
  if !d.chip.fnUp fn ∨ len = 0 then d
  else match d.chip.hostRecs fn addr len none with
    | some ms => d.takeAcc fn addr len false ms
    | none => d.emit (.completion plUr false [])

/-- A BAR 2 write; `ep`: its TLP is poisoned (R538). -/
def bar2Write (fn addr : Nat) (bytes : List Byte) (ep : Bool) (d : Dev) : Dev :=
  if !d.chip.fnUp fn ∨ bytes.isEmpty then d
  else if ep then d.aer fn 2
  else match d.chip.hostRecs fn addr bytes.length (some bytes) with
    | some ms => d.takeAcc fn addr bytes.length true ms
    | none => d.aer fn 0

/-- The bytes that a completed read returns: those of an absent line are husk records with ORIGIN ABSENT (R437, R538). -/
def Chip.accBytes (c : Chip) (a : HostAcc) : List Byte :=
  let all := a.recs.flatMap fun r => match r.2 with
    | some (st, bs) =>
      if st = celAbsent then (List.range 4).flatMap fun _ => huskRecord 4 0 (r.1.stack * 64 + r.1.slice) c.nodeId r.1.line c.frm.cur
      else padTo 64 0 bs
    | none => List.replicate 64 0
  (all.drop (a.addr % 64)).take a.len

/-- An access whose records have all been answered completes (R538). A status that R538 does not list counts as RANGE. -/
def Dev.settleAcc (d : Dev) (a : HostAcc) : Dev :=
  if a.recs.any fun r => r.2.isNone then d
  else
    let sts := a.recs.map fun r => (r.2.map Prod.fst).getD 0
    let d := d.onHost fun h => { h with accs := h.accs.filter fun x => x.id ≠ a.id }
    let bad := sts.any fun s => s ≠ celOk && s ≠ celHusk && s ≠ celAbsent
    if a.write then (if bad then d.aer a.fn 0 else d)
    else if bad then d.emit (.completion plUr false [])
    else d.emit (.completion plOk (sts.any fun s => s ≠ celOk) (d.chip.accBytes a))

/-- The cellar answers a record of M (R268): BUSY sends it again. -/
def Dev.hostAnswer (d : Dev) (tag status : Nat) (data : List Byte) : Dev :=
  match d.chip.host.accs.find? fun a => a.recs.any fun r => r.1.tag = tag && r.2.isNone with
  | none => d
  | some a =>
    if status = celBusy then
      (a.recs.filter fun r => r.1.tag = tag && r.2.isNone).foldl (fun d r => d.hostSend r.1) d
    else
      let a := { a with recs := a.recs.map fun r => if r.1.tag = tag ∧ r.2.isNone then (r.1, some (status, data)) else r }
      (d.onHost fun h => { h with accs := h.accs.map fun x => if x.id = a.id then a else x }).settleAcc a

/-- 8 ms have passed since an access arrived (R538). -/
def bar2Timeout (id : Nat) (d : Dev) : Dev :=
  match d.chip.host.accs.find? fun a => a.id = id with
  | none => d
  | some a =>
    if d.chip.endTime < a.since + msNs 8 then d
    else
      let d := d.onHost fun h => { h with accs := h.accs.filter fun x => x.id ≠ id }
      let d := d.onJil fun j => { j with celq := j.celq.filter fun m => !(m.die = 2 && a.recs.any fun r => r.1.tag = m.tag) }
      if a.write then d.aer a.fn 1 else d.emit (.completion plCa false [])

open Host

/-- BAR2_READ (R538). -/
def execBar2Read (fn addr len : Nat) (s : State) : Outcome State Fault Refusal := runs s (bar2Read fn addr len)

/-- BAR2_WRITE (R538). -/
def execBar2Write (fn addr : Nat) (bytes : List Byte) (ep : Bool) (s : State) : Outcome State Fault Refusal :=
  runs s (bar2Write fn addr bytes ep)

/-- BAR2_TIMEOUT (R538). -/
def execBar2Timeout (id : Nat) (s : State) : Outcome State Fault Refusal := runs s (bar2Timeout id)

end Sys2Proof.Machine
end

