-- ==== Sys2Proof/Machine/Signals.lean ====
section
/-! DEFINITION. What tiles do with data that passes: sum-on-arrival (R178 to R184), barriers and flags (R185 to R187), in-band
interrupts (R541). -/

namespace Sys2Proof.Machine

/-! ## Sum-on-arrival -/

/-- One level of the tree: neighbours are added in pairs, an unpaired last value is carried (R180). -/
def addPairs {α : Type} (f : α → α → α) : List α → List α
  | a :: b :: t => f a b :: addPairs f t
  | l => l

/-- The levels of the tree until one value is left (R180). `fuel` bounds the levels. -/
def treeSum {α : Type} (f : α → α → α) : Nat → List α → Option α
  | _, [] => none
  | _, [x] => some x
  | 0, x :: _ => some x
  | fuel + 1, l => treeSum f fuel (addPairs f l)

/-- The values of one element, in source order, with the existing one first in ACCUM mode: the result's bits and the
saturations counted (R180, R181). -/
def soaElem (ty : Nat) (old : Option Nat) (vs : List Nat) : Nat × Nat :=
  if ty = 2 then
    let f (a b : Int × Nat) : Int × Nat :=
      let s := a.1 + b.1
      if s < -(2 ^ 31 : Int) then (-(2 ^ 31 : Int), a.2 + b.2 + 1)
      else if (2 ^ 31 - 1 : Int) < s then ((2 ^ 31 - 1 : Int), a.2 + b.2 + 1) else (s, a.2 + b.2)
    let r := (treeSum f 8 (vs.map fun v => (toSigned 32 v, 0))).getD (0, 0)
    let r := match old with
      | some o => f (toSigned 32 o, 0) r
      | none => r
    (ofSigned 32 r.1, r.2)
  else
    let wide (v : Nat) : Word := if ty = 1 then BitVec.ofNat 32 (v * 65536) else BitVec.ofNat 32 v
    let r := (treeSum addF32 8 (vs.map wide)).getD 0
    let r := match old with
      | some o => addF32 (wide o) r
      | none => r
    (if ty = 1 then (convert .bf16 (f32 r) false none).1 else r.toNat, 0)

/-- Bytes of an element. -/
def soaWidth (ty : Nat) : Nat := if ty = 1 then 2 else 4

/-- The combined payload of one slot number and the saturations counted. -/
def soaCombine (ty : Nat) (old : Option (List Byte)) (parts : List (List Byte)) : List Byte × Nat :=
  let w := soaWidth ty
  let es := (List.range (112 / w)).map fun i => soaElem ty (old.map fun o => leField o (w * i) w) (parts.map fun p => leField p (w * i) w)
  (es.flatMap fun e => leBytes w e.1, (es.map Prod.snd).foldl (· + ·) 0)

/-- The trees whose contributions belong to a frame: those of the running one or of the one before. -/
def Chip.treesOf (c : Chip) (frame : Nat) : List SoaTree := if frame = c.frm.cur then c.tow.trees else c.tow.treesPrev

/-- The tree that a room's program declares at a tile; TREE_ID is unique among one program's (R179). -/
def Chip.soaTree (c : Chip) (frame tile id room : Nat) : Option SoaTree :=
  (c.treesOf frame).find? fun t => t.tile = tile && t.id = id && t.room = room

/-- The contributions held for one slot number of a tree. -/
def Chip.soaParts (c : Chip) (frame : Nat) (x : SoaTree) (k : Nat) : List SoaPart :=
  c.tow.parts.filter fun p => p.frame = frame && p.tile = x.tile && p.tree = x.id && p.room = x.room && p.k = k

/-- Count in the sum-on-arrival registers of a tile. -/
def Dev.soaCount (d : Dev) (tile : Nat) (tower cellar : Fld) (n : Nat) : Dev :=
  if n = 0 then d else if tile < 8 then d.count tower n tile else d.count cellar n (tile - 8)

/-- A contribution arrives in a tile's accumulation buffer; its high water is watched in KiB, rounded up (R183, R188). -/
def Dev.soaArrive (d : Dev) (p : SoaPart) : Dev :=
  let d := d.onTow fun t => { t with parts := t.parts.filter (fun x =>
    !(x.frame = p.frame && x.tile = p.tile && x.tree = p.tree && x.room = p.room && x.src = p.src && x.k = p.k)) ++ [p] }
  let kib := ((d.chip.tow.parts.filter fun x => x.tile = p.tile).length * 112 + 1023) / 1024
  if p.tile < 8 then d.observe F.TOW_SOA_HWM kib p.tile else d.observe F.CEL_SOA_HWM kib (p.tile - 8)

/-- The source of a tree that a slot of a lane belongs to, and its slot number there (R179). -/
def SoaTree.source (t : SoaTree) (corridor lane slot : Nat) : Option (Nat × Nat) :=
  (t.srcs.zipIdx.find? fun s => s.1.1 = corridor && s.1.2.1 = lane && decide (s.1.2.2 ≤ slot) && decide (slot < s.1.2.2 + t.slots)).map
    fun s => (s.2, slot - s.1.2.2)

/-- Write one slot number of a tree: the words, husked where R182 says so, each with the record of R437. -/
def Dev.soaStore (s : State) (d : Dev) (t : SoaTree) (frame k : Nat) : Dev :=
  let ps := (List.range t.srcs.length).filterMap fun i => (d.chip.soaParts frame t k).find? fun p => p.src = i
  let a := t.addr + 112 * k
  let core := d.chip.physCore (t.tile * 16 + t.unit / 16 % 16) (t.unit % 16)
  let acc := t.kind = 0 ∧ t.accum
  let d := if acc then d.readWords core a 112 else d
  let old := if acc then some (d.bytesOf s core a 112) else none
  let r := soaCombine t.ty old (ps.map SoaPart.bytes)
  let word (l : List Byte) (w : Nat) : List Byte := (l.drop (16 * w)).take 16
  let ws := (List.range 7).map fun w =>
    match ps.find? fun p => bitOf p.husks w with
    | some p => (word p.bytes w, true)
    | none =>
      if acc ∧ d.husked (wordKey core (a / 16 + w)) then (word (old.getD []) w, true) else (word r.1 w, false)
  let d := d.onTow fun x => { x with parts := x.parts.filter fun p => !(p.frame = frame && p.tile = t.tile && p.tree = t.id && p.room = t.room && p.k = k) }
  let d := d.soaCount t.tile F.TOW_SOA_SAT F.CEL_SOA_SAT r.2
  let d := d.soaCount t.tile F.TOW_SOA_HUSK F.CEL_SOA_HUSK (ws.filter Prod.snd).length
  if t.kind = 0 then ws.zipIdx.foldl (fun d w => d.hrxWord core (a / 16 + w.2) w.1.1 w.1.2) d
  else d.onCel fun c => { c with writes := c.writes ++
    [⟨frame, (t.tile - 8) * 64 + t.unit % 64, a, ws.flatMap Prod.fst, ofBitList ((List.range 7).filter fun w => (ws.getD w ([], false)).2)⟩] }

/-- SOA_WRITE: the words of one slot number are written once every contribution is held (R182). `late`: the
contributions belong to the frame before. -/
def soaWrite (tile id k : Nat) (late : Bool) (s : State) (d : Dev) : Dev :=
  let frame := if late then frameSub d.chip.frm.cur 1 else d.chip.frm.cur
  ((d.chip.treesOf frame).filter fun t => t.tile = tile && t.id = id).foldl (fun d t =>
    if (List.range t.srcs.length).all fun i => (d.chip.soaParts frame t k).any fun p => p.src = i then d.soaStore s t frame k else d) d

/-- A contribution that was not delivered good: its words carry HALL records (R182, R211, R437). -/
def Chip.lostPart (c : Chip) (frame : Nat) (t : SoaTree) (src k corridor slot line : Nat) : SoaPart :=
  ⟨frame, t.tile, t.id, src, k, (List.range 7).flatMap fun _ => huskRecord 3 0 corridor c.nodeId (slot + line * 65536) c.frm.cur, 127, false, t.room⟩

/-- What is left of the frame before once its last retry slot has ended: contributions still missing are lost (R182). -/
def Dev.soaFinish (s : State) (d : Dev) : Dev :=
  let frame := frameSub d.chip.frm.cur 1
  let left := (d.chip.tow.parts.filter fun p => p.frame = frame).map fun p => (p.tile, p.tree, p.room, p.k)
  let d := left.eraseDups.foldl (fun d x =>
    match d.chip.soaTree frame x.1 x.2.1 x.2.2.1 with
    | none => d
    | some t =>
      let d := t.srcs.zipIdx.foldl (fun d e =>
        if (d.chip.soaParts frame t x.2.2.2).any fun p => p.src = e.2 then d
        else d.onTow fun w => { w with parts := w.parts ++
          [d.chip.lostPart frame t e.2 x.2.2.2 e.1.1 (e.1.2.2 + x.2.2.2) (((d.chip.bundle e.1.1).lineOf e.1.2.1).getD 31)] }) d
      d.soaStore s t frame x.2.2.2) d
  d.onTow fun t => { t with parts := t.parts.filter fun p => p.frame ≠ frame }

/-! ## Barriers and flags -/

/-- A logical core, numbered as barrier members are, recorded an arrival at a barrier in a frame (R157, R185). -/
def Chip.arrivedIn (c : Chip) (m id frame : Nat) : Bool := (c.core (c.physCore (m / 16) (m % 16))).arrived.any fun p => p.1 = id && p.2 = frame

/-- It recorded its last arrival there in a frame or earlier, and no completion has been delivered to it since. -/
def Chip.arrivedBy (c : Chip) (m id frame : Nat) : Bool :=
  (c.core (c.physCore (m / 16) (m % 16))).arrived.any fun p => p.1 = id && !frameLater p.2 frame

/-- The members of a barrier in a row that recorded an arrival in a frame, as logical cores of the row. -/
def Chip.arrivals (c : Chip) (b : Barrier) (id w frame : Nat) : Nat :=
  ofBitList ((List.range 16).filter fun k => w * 16 + k ∈ b.members && c.arrivedIn (w * 16 + k) id frame)

/-- The threshold samples the arrivals that a room's cores recorded in frame `n`: each tower tile has a record for the home of each
barrier (R185; log 120). -/
def sampleArrivals (n : Nat) (d : Dev) (r : Nat) : Dev :=
  let recs := (d.chip.tow.barriers.filter fun p => p.1 / 256 = r).flatMap fun p =>
    ((p.2.members.filter (· < 2048)).map (· / 16)).eraseDups.filterMap fun w =>
      let mask := d.chip.arrivals p.2 (p.1 % 256) w n
      if mask = 0 then none else some { room := r, ep := w / 16, dest := p.2.home, kind := 1, id := p.1 % 256, row := w % 16, value := mask }
  if recs.isEmpty then d else d.onTow fun t => { t with signals := t.signals ++ recs }

/-- The records that tell a barrier's member tiles of its completion (R185). -/
def Barrier.doneRecords (b : Barrier) (ep room id frame : Nat) : List SigRec :=
  ((b.members.filter (· < 2048)).map (· / 256)).eraseDups.map fun t => { room, ep, dest := t, kind := 2, id, value := frame }

/-- BARRIER_ARRIVE reaches a tile (R185): the home counts the arrivals, of cores those that they recorded before the frame
the record was sent in; once every member has arrived the barrier has completed for that frame. -/
def barrierArrive (ep room id sender row mask : Nat) (late : Bool) (d : Dev) : Dev :=
  let key := room * 256 + id
  match Tab.find d.chip.tow.barriers key with
  | none => d
  | some b =>
    if 16 ≤ room ∨ 256 ≤ id ∨ b.home ≠ ep ∨ b.members.isEmpty then d
    else
      let from' := if sender < 8 then ((bitList 16 mask).map fun c => (sender * 16 + row) * 16 + c).filter fun m =>
          d.chip.arrivedBy m id (frameSub d.chip.frm.cur (if late then 2 else 1))
        else if bitOf mask 0 then [4096 + sender] else []
      let arrived := b.arrived ++ from'.filter fun m => m ∈ b.members && m ∉ b.arrived
      let full := b.members.all fun m => m ∈ arrived
      if full then
        let frame := frameSub d.chip.frm.cur (if late then 2 else 1)
        d.onTow fun t => { t with
          barriers := Tab.ins t.barriers key { b with arrived := [], doneFrame := some frame }
          signals := t.signals ++ b.doneRecords ep room id frame }
      else d.onTow fun t => { t with barriers := Tab.ins t.barriers key { b with arrived } }

/-- BARRIER_DONE delivers a completion to a tile's member cores (R157, R185): it counts for a core whose last arrival was
no later than the frame of completion. -/
def barrierDone (ep room id frame : Nat) (d : Dev) : Dev :=
  match Tab.find d.chip.tow.barriers (room * 256 + id) with
  | none => d
  | some b =>
    if 16 ≤ room ∨ 256 ≤ id ∨ 8 ≤ ep ∨ b.doneFrame.all (fun f => frameLater frame f) then d
    else (b.members.filter fun m => decide (m < 2048) && m / 256 = ep).foldl (fun d m =>
      d.onCore (d.chip.physCore (m / 16) (m % 16)) fun c =>
        if c.arrived.any fun p => p.1 = id && !frameLater p.2 frame then
          { c with arrived := c.arrived.filter (fun p => p.1 ≠ id), done := c.done ++ [id] }
        else c) d

/-- FLAG raises a flag at its home tile (R186). A record that travelled in a replay belongs to the frame before. -/
def flagRaise (ep room id value : Nat) (late : Bool) (d : Dev) : Dev :=
  let key := room * 64 + id
  match Tab.find d.chip.tow.flags key with
  | none => d
  | some f =>
    if 16 ≤ room ∨ 64 ≤ id ∨ f.home ≠ ep then d
    else
      let v := value % 2 ^ 32
      let f' := if late then { f with deliver := some (f.deliver.getD 0 ||| v) } else { f with raised := some (f.raised.getD 0 ||| v) }
      d.onTow fun t => { t with flags := Tab.ins t.flags key f' }

/-- At the end of a frame: flags raised in the frame before have been written to their subscribers' words, and those of
this frame follow in the next (R186). The word holds the flag in its first four bytes. -/
def Dev.flagsFrame (d : Dev) : Dev :=
  d.chip.tow.flags.foldl (fun (d : Dev) p =>
    let d : Dev := match p.2.deliver with
      | some v => p.2.subs.foldl (fun d x => d.hrxWord (d.chip.physCore (x.1 / 16) (x.1 % 16)) (x.2 / 16) (padTo 16 0 (leBytes 4 v)) false) d
      | none => d
    d.onTow fun t => { t with flags := Tab.ins t.flags p.1 { p.2 with deliver := p.2.raised, raised := none } }) d

/-! ## In-band interrupts -/

/-- INTERRUPT reaches M (R541): `owner` holds the lane the record arrived on, `order` is the place of its original slot (R220), without
which the record follows what has come before it. -/
def interruptRecord (owner room vec : Nat) (order : Option Nat) (late : Bool) (d : Dev) : Dev :=
  if room ≠ owner ∨ 16 ≤ room ∨ vec = 0 ∨ 63 < vec then d.badDoorbell
  else
    let frame := if late then frameSub d.chip.frm.cur 1 else d.chip.frm.cur
    let was := d.chip.host.inband
    let o := order.getD ((was.map fun x => x.2.2.2).foldl max 0)
    let same (x : Nat × Nat × Nat × Nat) : Bool := (x.1, x.2.1, x.2.2.1) = (room, vec, frame)
    let inband := if was.any same then was.map fun x => if same x then (x.1, x.2.1, x.2.2.1, min x.2.2.2 o) else x
      else was ++ [(room, vec, frame, o)]
    d.onHost fun h => { h with inband }

/-- After the publication of frame `n`: the messages of records sent in the frame before, where the room's frame was
committed, in the order of the slots that carried them (R220, R541). -/
def Dev.inbandSend (d : Dev) (n : Nat) : Dev :=
  let f := frameSub n 1
  let l := (d.chip.host.inband.filter fun x => x.2.2.1 = f).mergeSort fun a b => decide (a.2.2.2 ≤ b.2.2.2)
  let d := d.onHost fun h => { h with inband := h.inband.filter fun x => !(x.2.2.1 = f || frameLater f x.2.2.1) }
  l.foldl (fun d x =>
    if !d.chip.committedFrame x.1 f then d
    else if d.chip.fnUp (x.1 + 1) then d.sendMsix (x.1 + 1) x.2.1
    else d.sendMsix 0 (1024 + 64 * x.1 + x.2.1)) d

open Host

/-- SOA_WRITE (R182). -/
def execSoaWrite (tile id k : Nat) (late : Bool) (s : State) : Outcome State Fault Refusal := runs s (soaWrite tile id k late s)

/-- BARRIER_ARRIVE (R185). `mask`: the logical cores of `row` that arrived. -/
def execBarrierArrive (ep room id sender row mask : Nat) (late : Bool) (s : State) : Outcome State Fault Refusal :=
  runs s (barrierArrive ep room id sender row mask late)

/-- BARRIER_DONE (R185). -/
def execBarrierDone (ep room id frame : Nat) (s : State) : Outcome State Fault Refusal := runs s (barrierDone ep room id frame)

/-- FLAG (R186). -/
def execFlag (ep room id value : Nat) (late : Bool) (s : State) : Outcome State Fault Refusal := runs s (flagRaise ep room id value late)

/-- INTERRUPT (R541). -/
def execInterrupt (owner room vec : Nat) (late : Bool) (s : State) : Outcome State Fault Refusal :=
  runs s (interruptRecord owner room vec none late)

end Sys2Proof.Machine
end

