-- ==== Sys2Proof/Machine/SlotsOut.lean ====
section
/-! DEFINITION. Slots on the light (R196 to R202, R210 to R213, R220): formats, what a place of the schedule carries, the
frame header (R204 to R206), and sending. -/

namespace Sys2Proof.Machine

/-! ## Formats -/

/-- A payload byte's parity bit makes nine bits hold an odd number of ones (R198). -/
def parityOf (b : Byte) : Bool := popcount 8 b.toNat % 2 = 0

/-- Parity byte `j` of a payload (R198). -/
def parityByte (payload : List Byte) (j : Nat) : Nat := ofBitList ((List.range 8).filter fun i => parityOf (payload.getD (8 * j + i) 0))

/-- A slot tag (R199). -/
def slotTag (corridor line seq : Nat) : Nat :=
  let t := corridor % 512 * 128 + line % 32 * 4 + seq % 2 * 2
  t + (if popcount 16 t % 2 = 0 then 1 else 0)

/-- The 14 parity bytes: the first of a husked word is sent inverted, every one of a late slot is (R171, R202, R266). -/
def parityBytes (payload : List Byte) (husks : Nat) (late : Bool) : List Byte :=
  (List.range 14).flatMap fun j =>
    let p := parityByte payload j
    leBytes 1 (if late || (j % 2 = 0 && bitOf husks (j / 2)) then 255 - p else p)

/-- A slot as it travels: 128 bytes (R198). -/
def slotBytes (payload : List Byte) (husks corridor line seq : Nat) (late : Bool) : List Byte :=
  let p := padTo 112 0 payload
  p ++ parityBytes p husks late ++ leBytes 2 (slotTag corridor line seq)

/-- The level of a Gray-coded bit pair (R200). -/
def grayLevel : Nat → Nat
  | 0 => 0
  | 1 => 1
  | 3 => 2
  | _ => 3

/-- The 512 PAM4 symbols of a slot's 128 bytes, level 0 the least light (R200). -/
def slotSymbols (bytes : List Byte) : List Nat := bytes.flatMap fun b => (List.range 4).map fun i => grayLevel (bitsOf b.toNat (2 * i) 2)

/-- A PRBS31 generator, x^31 + x^28 + 1, run for `n` bits: the bits, first lowest, and where it then stands (R201; log 119). -/
def prbs31 : Nat → Nat → Nat × Nat
  | 0, g => (0, g)
  | n + 1, g =>
    let b := (g / 2 ^ 30 + g / 2 ^ 27) % 2
    let r := prbs31 n (g * 2 % 2 ^ 31 + b)
    (b + 2 * r.1, r.2)

/-- Word `w` of a payload. -/
def payloadWord (payload : List Byte) (w : Nat) : List Byte := (payload.drop (16 * w)).take 16

/-! ## What a place of the schedule carries -/

/-- A scheduled slot of the running frame: its room and run, the lane and slot under which it was scheduled, and whether
the place carries it as a replay or as a folded slot (R210, R219). -/
structure Place where
  room : Nat
  run : RunE
  lane : Nat
  slot : Nat
  replay : Bool := false
  folded : Bool := false
deriving DecidableEq, Repr

/-- The number of the slot within its run. -/
def Place.index (p : Place) : Nat := p.slot - p.run.first

/-- The room that owns a logical lane (R195). -/
def Chip.laneOwner (c : Chip) (bundle lane : Nat) : Option Nat :=
  c.loadedRooms.find? fun r => ((c.image r).map fun i => decide (bundle * 16 + lane ∈ i.lanes)).getD false

/-- The step that a room's frame runs, or would have run were it no hold frame (R51, R213). -/
def Chip.stepDue (c : Chip) (r : Nat) : Option Step := (c.prog r).map fun p => p.step (c.room r).run.step

/-- The replay that a place carries (R210). -/
def Chip.replayAt (c : Chip) (bundle lane slot : Nat) : Option Place :=
  (c.hall.replays.find? fun p => p.orig.bundle = bundle && p.lane = lane && p.slot = slot && !p.lost).map fun p =>
    { room := p.orig.room, run := p.run, lane := p.orig.lane, slot := p.orig.slot, replay := true }

/-- The folded slot that a place carries in the step of the running frame (R219, R220). -/
def Chip.foldAt (c : Chip) (bundle lane slot : Nat) : Option Place :=
  (c.hall.folds.find? fun f => f.bundle = bundle && f.lane = lane && f.place = slot && f.step = (c.room f.room).run.step).bind fun f =>
    (c.roomStep f.room).bind fun t =>
      (t.runs.find? fun r => r.bundle = bundle && r.lane = f.dead && payloadCls r.cls && f.slot ∈ r.slots).map fun r =>
        { room := f.room, run := r, lane := f.dead, slot := f.slot, folded := true }

/-- The slot that the step itself schedules at a place; a lane that is dead in the step carries none (R214, R228). -/
def Chip.runAt (c : Chip) (bundle lane slot : Nat) : Option Place :=
  (c.laneOwner bundle lane).bind fun room =>
    (c.roomStep room).bind fun t =>
      if c.deadIn t bundle lane then none
      else (t.runs.find? fun r => r.bundle = bundle && r.lane = lane && payloadCls r.cls && slot ∈ r.slots).map fun r =>
        { room, run := r, lane, slot }

/-- What a place carries in the running frame; none is an idle slot (R194, R201). A quiesced bundle carries none (R226), one that is
stopping nothing but replays (R516). -/
def Chip.placeAt (c : Chip) (bundle lane slot : Nat) : Option Place :=
  if (c.bundle bundle).st = 5 then none
  else match c.replayAt bundle lane slot with
    | some p => some p
    | none =>
      if (c.bundle bundle).st = 3 then none
      else match c.foldAt bundle lane slot with
        | some p => some p
        | none => c.runAt bundle lane slot

/-- The order of a slot among those of one stream: slot, corridor, lane (R210, R220, R304). -/
def slotOrder (bundle lane slot : Nat) : Nat := (slot * 512 + bundle) * 16 + lane

/-- The frame in which a place's data was first scheduled. -/
def Chip.placeFrame (c : Chip) (p : Place) : Nat := if p.replay then frameSub c.frm.cur 1 else c.frm.cur

/-- The places of the runs of a step that pass a test, in stream order: how many come before the slot. -/
def Step.streamIndex (t : Step) (ok : RunE → Bool) (bundle lane slot : Nat) : Nat :=
  ((t.runs.filter ok).flatMap fun r => r.slots.filter fun s => decide (slotOrder r.bundle r.lane s < slotOrder bundle lane slot)).length

/-! ## Payloads -/

/-- 112 bytes of a slot and the mask of its husked words. -/
structure Payload where
  bytes : List Byte
  husks : Nat := 0
deriving DecidableEq, Repr

/-- A run whose payload the endpoint generates: SRC_UNIT and SRC_ADDR are zero (R336); a TENSOR run always reads. -/
def RunE.generated (r : RunE) : Bool := r.cls ≠ clsTensor && r.srcUnit = 0 && r.srcAddr = 0

/-- The payload can be read again for a replay: a tower's slice or a stack's line (R212). -/
def RunE.reread (r : RunE) : Bool :=
  let ep := endpointOf r.bundle
  !r.generated && (decide (ep < 8) || (decide (ep < 20) && r.cls = clsTensor))

/-- A tower reads a slot from a slice (R171, R336). -/
def Dev.readTower (s : State) (d : Dev) (p : Place) : Payload × Dev :=
  let core := d.chip.physCore (endpointOf p.run.bundle * 16 + p.run.srcUnit / 16 % 16) (p.run.srcUnit % 16)
  let a := p.run.srcAddr + 112 * p.index
  let d := d.readWords core a 112
  (⟨d.bytesOf s core a 112, ofBitList ((List.range 7).filter fun w => d.husked (wordKey core (a / 16 + w)))⟩, d)

/-- A stack reads a slot from a slice; an absent slice sends ABSENT records (R266, R271, R283, R437). -/
def Dev.readStack (s : State) (d : Dev) (p : Place) : Payload × Dev :=
  let k := (endpointOf p.run.bundle - 8) * 64 + p.run.srcUnit % 64
  let a := p.run.srcAddr + 112 * p.index
  if d.chip.absent k then
    (⟨(List.range 7).flatMap fun w => huskRecord 4 0 k d.chip.nodeId ((a + 16 * w) / 64) d.chip.frm.cur, 127⟩, d)
  else
    let d := (linesOf a 112).foldl (fun d l => d.lineMeet k l) d
    let raw := (linesOf a 112).flatMap fun l => d.lineBytes s k l
    let bad (w : Nat) : Option Nat := (linesOf (a + 16 * w) 16).find? fun l => d.lineBad k l
    let word (w : Nat) : List Byte := match bad w with
      | some l => (d.lineBytes s k l).take 16
      | none => ((raw.drop (a % 64)).drop (16 * w)).take 16
    (⟨padTo 112 0 ((List.range 7).flatMap word), ofBitList ((List.range 7).filter fun w => (bad w).isSome)⟩, d)

/-- A stream's bytes and husk marks cut to the slot numbered `k`. -/
def cutStream (l : List (List Byte × Nat)) (k : Nat) : Payload :=
  let ws := l.flatMap fun r => (List.range ((r.1.length + 15) / 16)).map fun w => (padTo 16 0 (payloadWord r.1 w), bitOf r.2 w)
  let mine := (ws.drop (7 * k)).take 7
  ⟨padTo 112 0 (mine.flatMap Prod.fst), ofBitList ((List.range 7).filter fun w => (mine.getD w ([], false)).2)⟩

/-- The next CELREQ records of a die, or of M as die 2, for a room and a stack: seven reads, or one write or atomic (R267). -/
def celSlot (l : List CelMsg) : List CelMsg :=
  match l with
  | [] => []
  | m :: _ => if m.kind = 1 then (l.takeWhile fun x => x.kind = 1).take 7 else [m]

/-- A CELREQ slot takes its records (R267, R402, R538). -/
def Dev.takeCelReq (d : Dev) (die stack room : Nat) : Payload × Dev :=
  let d := if die < 2 then d.issueAll die else d
  let l := celSlot (d.chip.jil.celq.filter fun m => m.die = die && m.stack = stack && m.room = room)
  let husk := match l with
    | [m] => (m.husk.map fun w => 2 ^ (1 + w)).getD 0
    | _ => 0
  (⟨padTo 112 0 (l.flatMap CelMsg.payload), husk⟩, d.onJil fun j => { j with celq := l.foldl (fun a m => a.erase m) j.celq })

/-- A KEY slot of a die takes up to seven NOTICEs (R410). -/
def Dev.takeNotices (d : Dev) (die room : Nat) : Payload × Dev :=
  let key := die * 16 + room
  let n := Tab.get {} d.chip.jil.notices key
  let recs := n.recs.take 7
  let first := match recs with
    | r :: t => (if n.dropped then patch r 9 [1] else r) :: t
    | [] => []
  (⟨padTo 112 0 (first.flatMap fun r => padTo 16 0 r), 0⟩,
    if recs.isEmpty then d else d.onJil fun j => { j with notices := Tab.put {} j.notices key { recs := n.recs.drop 7, dropped := false } })

/-- A record of the barrier service as it travels (R197). -/
def SigRec.bytes (x : SigRec) : List Byte :=
  leBytes 1 x.kind ++ leBytes 1 (x.room % 16) ++ leBytes 2 x.id ++ leBytes 1 x.ep ++ leBytes 1 x.row ++ leBytes 2 0 ++ leBytes 8 x.value

/-- A generated SIGNAL slot takes the first seven barrier records that wait for its room and destination (R185, R197); behind them an
endpoint other than a tower, whose events the spec lays elsewhere, may place the records of `gen`. -/
def Dev.takeSignals (d : Dev) (ep room dest : Nat) (gen : List Byte) : Payload × Dev :=
  let l := (d.chip.tow.signals.filter fun x => x.ep = ep && x.room = room && x.dest = dest).take 7
  (⟨padTo 112 0 (l.flatMap SigRec.bytes ++ if ep < 8 then [] else gen), 0⟩,
    if l.isEmpty then d else d.onTow fun t => { t with signals := l.foldl (fun a x => a.erase x) t.signals })

/-- The payload of a slot when it is first sent; `gen` is what an endpoint generates where the spec lays down no source
in the model's state (R185, R186, R196). -/
def Dev.payloadOf (s : State) (d : Dev) (p : Place) (gen : List Byte) : Payload × Dev :=
  let ep := endpointOf p.run.bundle
  let t := (d.chip.roomStep p.room).getD {}
  if p.run.reread then (if ep < 8 then d.readTower s p else d.readStack s p)
  else if 8 ≤ ep ∧ ep < 20 ∧ p.run.cls = clsCelRsp then
    let r := d.takeRsp (ep - 8) p.room p.run.dest
    let x := rspPayload r.1
    (⟨x.1, x.2⟩, r.2)
  else if 20 ≤ ep ∧ p.run.cls = clsCelReq then d.takeCelReq (ep - 20) (p.run.dest - 8) p.room
  else if p.run.cls = clsSignal ∧ p.run.generated then d.takeSignals ep p.room p.run.dest gen
  else if (ep = 20 ∨ ep = 21) ∧ p.run.cls = clsKey then d.takeNotices (ep - 20) p.room
  else if (ep = 20 ∨ ep = 21) ∧ p.run.cls = clsTensor then
    let k := t.streamIndex (fun r => endpointOf r.bundle = ep && r.cls = clsTensor && r.srcUnit = p.run.srcUnit) p.run.bundle p.lane p.slot
    (cutStream ((d.chip.rbuf ((ep - 20) * 512 + p.run.srcUnit % 512)).out.map fun r => (r.bytes, r.husks)) k, d)
  else if ep = 22 ∧ p.run.cls = clsTensor then
    let k := t.streamIndex (fun r => r.bundle = mCorridor && r.cls = clsTensor && r.srcUnit = p.run.srcUnit) p.run.bundle p.lane p.slot
    (cutStream [((d.chip.queue p.run.srcUnit).intake, 0)] k, d)
  else (⟨padTo 112 0 gen, 0⟩, d)

/-- What a source kept of a slot of the frame before (R212). -/
def Chip.keptSlot (c : Chip) (p : Place) : Option SentSlot :=
  c.hall.sentPrev.find? fun x => x.bundle = p.run.bundle && x.lane = p.lane && x.slot = p.slot

/-- The payload of a place: a replay reads again, or sends what was kept (R212). -/
def Dev.fetchPlace (s : State) (d : Dev) (p : Place) (gen : List Byte) : Payload × Dev :=
  if p.replay then
    if p.run.reread then (if endpointOf p.run.bundle < 8 then d.readTower s p else d.readStack s p)
    else match d.chip.keptSlot p with
      | some x => (⟨x.bytes, x.husks⟩, d)
      | none => (⟨padTo 112 0 gen, 0⟩, d)
  else
    let r := d.payloadOf s p gen
    if p.run.reread && p.run.dkind ≠ 6 then r
    else (r.1, r.2.onHall fun h => { h with sent := h.sent ++ [⟨p.run.bundle, p.lane, p.slot, r.1.bytes, r.1.husks⟩] })

/-! ## The frame header -/

/-- A PROGRAM entry (R205); in transit it names the target (R296). -/
def Chip.programEntry (c : Chip) (r : Nat) : Nat :=
  if !c.loaded r then 0
  else
    let m := c.room r
    let at' := if m.transit then m.target else (m.run.slot, m.run.phase)
    b2n (!m.hold) * 2 ^ 15 + b2n (m.run.variant ≠ 0) * 2 ^ 14 + at'.2 % 16 * 2 ^ 10 + 2 ^ 9 + at'.1 % 64

/-- The 16 PROGRAM entries as bytes. -/
def Chip.programs (c : Chip) : List Byte := (List.range 16).flatMap fun r => leBytes 2 (c.programEntry r)

/-- The retractions due in the running headers, in ascending order of room, then endpoint (R206). -/
def Chip.retractions (c : Chip) : List (Nat × Nat × Nat) :=
  c.integ.retracts.mergeSort fun a b => decide (a.1 * 32 + a.2.1 ≤ b.1 * 32 + b.2.1)

/-- A RETRACT entry (R206). -/
def retractEntry (x : Nat × Nat × Nat) : Nat := 2 ^ 31 + x.1 % 16 * 2 ^ 27 + x.2.1 % 32 * 2 ^ 22 + x.2.2 % 65536

/-- The header of a line without its CRC (R204). -/
def Chip.headerBody (c : Chip) (bundle line : Nat) : List Byte :=
  let b := c.bundle bundle
  let rs := c.retractions
  let rest := rs.drop 8
  let hk := (List.range 16).map fun r => Tab.get 0 c.hall.husksPrev (bundle * 16 + r)
  [0x48, 0x01] ++ leBytes 2 bundle ++ leBytes 1 line
    ++ leBytes 1 (b2n (b.st = 5) + 2 * b2n b.mapNew + 4 * b2n c.frm.idle + 8 * b2n c.seq.firstFrame + 16 * b2n c.seq.act)
    ++ leBytes 6 c.frm.cur
    ++ leBytes 4 (b.check bundle).toNat ++ leBytes 4 (b.checkUpper bundle).toNat
    ++ leBytes 4 b.goodBase ++ leBytes 4 b.goodUpper
    ++ c.programs
    ++ leBytes 2 c.integ.clear1 ++ leBytes 2 c.integ.clear2 ++ leBytes 2 c.integ.clear3 ++ leBytes 2 c.integ.clear4
    ++ leBytes 2 (ofBitList (rest.map Prod.fst))
    ++ leBytes 2 (ofBitList ((List.range 16).filter fun r => hk.getD r 0 ≠ 0))
    ++ leBytes 2 (min (hk.foldl (· + ·) 0) 65535)
    ++ leBytes 1 (min rs.length 8) ++ leBytes 1 (b2n (!rest.isEmpty))
    ++ padTo 32 0 ((rs.take 8).flatMap fun x => leBytes 4 (retractEntry x))
    ++ List.replicate 16 0

/-- The frame header (R204). -/
def Chip.header (c : Chip) (bundle line : Nat) : List Byte :=
  let h := c.headerBody bundle line
  h ++ leBytes 4 (crc32c h).toNat

/-! ## Sending -/

/-- An error of a bundle (R203, R207, R419). -/
def Dev.bundleError (d : Dev) (b : Nat) : Dev := (d.log3 clsBundle 4 b).chanErr 2 b

/-- A map mismatch on a bundle: its slots of the running frame are rejected, and agreement starts at the next threshold (R207, R226). -/
def Dev.mapMismatch (d : Dev) (b : Nat) : Dev :=
  if (d.chip.bundle b).mismatch then d
  else
    let d := d.onBundle b fun x => { x with mismatch := true, agreeDue := true }
    let d := d.onHall fun x => { x with mismatches := satAdd 32 x.mismatches 1 }
    (d.flag F.HALL_INT_STATUS_MAP_MISMATCH).bundleError b

/-- The source base tile's checks of what its upper die gives it for a header (R207): the map's check word and, outside agreement,
where the sides post what each sees, the mask of good lines. -/
def Dev.checkUpper (d : Dev) (bundle : Nat) : Dev :=
  let b := d.chip.bundle bundle
  if b.checkUpper bundle ≠ b.check bundle ∨ (b.goodUpper ≠ b.goodBase ∧ !b.agree) then d.mapMismatch bundle else d

/-- An idle slot's payload: the next 896 bits of the line's PRBS31 sequence (R201). -/
def Dev.idlePayload (d : Dev) (k : Nat) : List Byte × Dev :=
  let seed := Config.prbsSeed k % 2 ^ 31
  let r := prbs31 896 (Tab.get (if seed = 0 then 1 else seed) d.chip.hall.prbs k)
  (leBytes 112 r.1, d.onHall fun h => { h with prbs := Tab.ins h.prbs k r.2 })

/-- A slot that is not ready in time is counted where it was read (R171, R266). -/
def Dev.countLate (d : Dev) (p : Place) : Dev :=
  let ep := endpointOf p.run.bundle
  if ep < 8 then
    let core := d.chip.physCore (ep * 16 + p.run.srcUnit / 16 % 16) (p.run.srcUnit % 16)
    (d.count F.TOW_PAN_TXLATE 1 ep 0 (coreSel core)).flag F.TOW_PAN_STATUS_TX_LATE ep 0 (coreSel core)
  else if ep < 20 then d.count F.CEL_TXLATE 1 (ep - 8) else d

/-- A lane that is not retired, of a bundle with light (R242), sends a slot (R198 to R204): an idle slot, the header, or scheduled data. `late`: the data
is not in the send buffer when the slot begins; data that a crossing slip spoiled goes out alike (R456). -/
def slotSend (bundle line slot : Nat) (late : Bool) (gen : List Byte) (s : State) (d : Dev) : Dev :=
  let b := d.chip.bundle bundle
  if nBundles ≤ bundle ∨ 18 ≤ line ∨ slot < 3 ∨ d.chip.slots ≤ slot ∨ b.st < 2 ∨ 5 < b.st ∨ b.dark ∨ b.lineRetired line then d
  else if slot = 3 then (d.checkUpper bundle).emit (.slot bundle line (slotSymbols (d.chip.header bundle line)))
  else match d.chip.placeAt bundle (b.roles.getD line roleRetired) slot with
    | none =>
      let f := d.idlePayload (bundle * 18 + line)
      f.2.emit (.slot bundle line (slotSymbols (slotBytes f.1 0 bundle line d.chip.frm.cur false)))
    | some p =>
      let r := d.fetchPlace s p gen
      let late := late && p.run.reread
      let d := if late then r.2.countLate p else r.2
      let late := late || (bundle, p.lane, slot) ∈ d.chip.hall.slipped
      let d := if p.replay then d.count F.HALL_REPLAYS else if p.folded then d.count F.HALL_FOLDED else d
      let d := if r.1.husks ≠ 0 ∧ !late then
          d.onHall fun h => { h with husks := Tab.upd 0 h.husks (bundle * 16 + p.room) (· + 1) } else d
      d.emit (.slot bundle line (slotSymbols (slotBytes r.1.bytes r.1.husks bundle line (d.chip.placeFrame p) late)))

open Host

/-- SLOT_SEND (R198 to R204). -/
def execSlotSend (bundle line slot : Nat) (late : Bool) (gen : List Byte) (s : State) : Outcome State Fault Refusal :=
  runs s (slotSend bundle line slot late gen s)

end Sys2Proof.Machine
end

