-- ==== Sys2Proof/Machine/SlotsIn.lean ====
section
/-! DEFINITION. Receiving slots (R203, R207), replays and their loss (R208 to R213), width agreement (R226, R227), line
retirement by the host (R216). -/

namespace Sys2Proof.Machine

/-! ## Delivery -/

/-- A received payload: its bytes, the mask of its husked words, and whether it was delivered good. -/
structure Arrival where
  ep : Nat
  bytes : List Byte
  husks : Nat := 0
  good : Bool := true
deriving DecidableEq, Repr

/-- The words of a payload land in a pantry slice (R165, R211). -/
def Dev.landPantry (d : Dev) (p : Place) (a : Arrival) : Dev :=
  let core := d.chip.physCore (a.ep * 16 + p.run.dstUnit / 16 % 16) (p.run.dstUnit % 16)
  let w0 := (p.run.dstAddr + 112 * p.index) / 16
  (List.range 7).foldl (fun d w => d.hrxWord core (w0 + w) (payloadWord a.bytes w) (bitOf a.husks w)) d

/-- The words of a payload wait for the end of a load frame (R78). -/
def Dev.landStore (d : Dev) (p : Place) (a : Arrival) : Dev :=
  let core := d.chip.physCore (a.ep * 16 + p.run.dstUnit / 16 % 16) (p.run.dstUnit % 16)
  let w0 := (p.run.dstAddr + 112 * p.index) / 16
  d.onTow fun t => { t with istoreDue := t.istoreDue ++ (List.range 7).map fun w => (core, w0 + w, BitVec.ofNat 128 (ofLe (payloadWord a.bytes w))) }

/-- A payload joins a stream of the running frame or, replayed, of the one before (R210, R304, R376). -/
def Place.streamSlot (p : Place) (a : Arrival) : StreamSlot :=
  ⟨slotOrder p.run.bundle p.lane p.slot, endpointOf p.run.bundle, a.bytes, a.husks, a.good⟩

/-- The records of a CELREQ slot (R267), in record order; a read slot holds READ records only. -/
def celRecords (p : Place) (a : Arrival) (late : Bool) (d : Dev) : Dev :=
  let rec' (w : Nat) (husk : Option Nat) (zeros : Bool) : CelRec :=
    let r := payloadWord a.bytes w
    { stack := a.ep - 8, sender := endpointOf p.run.bundle, owner := p.room, order := slotOrder p.run.bundle p.lane p.slot * 8 + w, late
      room := leField r 1 1 % 128, pf := bitOf (leField r 1 1) 7, tag := leField r 2 2, slice := leField r 4 1, count := leField r 5 1
      reply := leField r 6 1, off := leField r 7 1, line := leField r 8 4, dest := leField r 12 4
      zeros, husk }
  let zero (o n : Nat) : Bool := ((a.bytes.drop o).take n).all (· = 0)
  let kind := leField a.bytes 0 1
  if kind = 2 then
    celRequest (rec' 0 (((List.range 4).find? fun w => bitOf a.husks (1 + w))) (zero 0x58 24)) 2 0 ((a.bytes.drop 16).take 64) (leField a.bytes 0x50 8) 0 0 d
  else if kind = 3 then
    celRequest (rec' 0 none (zero 0x20 80)) 3 (leField a.bytes 5 1) [] 0 (leField a.bytes 16 8) (leField a.bytes 24 8) d
  else (((List.range 7).takeWhile fun w => leField (payloadWord a.bytes w) 0 1 ≠ 0).filter fun w => !bitOf a.husks w).foldl (fun d w =>
    let kind := leField (payloadWord a.bytes w) 0 1
    celRequest (rec' w none (kind = 1)) kind 0 [] 0 0 0 d) d

/-- One record of a SIGNAL slot (R197). A barrier or flag record names the room that owns its lane. -/
def signalRecord (p : Place) (ep : Nat) (r : List Byte) (d : Dev) : Dev :=
  let room := leField r 1 1
  let id := leField r 2 2
  let v := leField r 8 8
  let mine := room = p.room
  match leField r 0 1 with
  | 0 => d
  | 1 => if mine then barrierArrive ep room id (leField r 4 1) (leField r 5 1) (v % 65536) p.replay d else d
  | 2 => if mine then barrierDone ep room id (v % 2 ^ 48) d else d
  | 3 => if mine then flagRaise ep room id (v % 2 ^ 32) p.replay d else d
  | 4 => if ep = 22 then (if mine then doorbell p.room id (v % 2 ^ 32) p.replay d else d.badDoorbell) else d
  | 5 => if ep = 22 then interruptRecord p.room room (v % 2048) (some (slotOrder p.run.bundle p.lane p.slot)) p.replay d else d
  | _ => d.count F.HALL_DESYNC

/-- One key record of a KEY slot (R410): a porch tile acts on SET. -/
def keyRecord (p : Place) (ep : Nat) (r : List Byte) (d : Dev) : Dev :=
  if leField r 0 1 = 1 ∧ (ep = 20 ∨ ep = 21) then
    setRecord p.room (ep - 20) (leField r 2 2) (leField r 4 2) (leField r 6 2) (leField r 8 1) p.replay d
  else d

/-- A reply reaches who asked (R268, R403, R538). -/
def replyRecord (ep tag status : Nat) (data : List Byte) (result : Nat) (d : Dev) : Dev :=
  if ep = 20 ∨ ep = 21 then d.celAnswer (ep - 20) tag status data result
  else if ep = 22 then d.hostAnswer tag status data
  else d

/-- A CELRSP slot at an endpoint that interprets it (R268). -/
def celReplies (a : Arrival) (d : Dev) : Dev :=
  if leField a.bytes 0 1 = 0x81 then replyRecord a.ep (leField a.bytes 2 2) (leField a.bytes 6 1) ((a.bytes.drop 16).take 64) 0 d
  else ((List.range 7).filter fun w => leField (payloadWord a.bytes w) 0 1 = 0x82).foldl (fun d w =>
    let r := payloadWord a.bytes w
    replyRecord a.ep (leField r 2 2) (leField r 6 1) [] (leField r 8 8) d) d

/-- The records of a slot, one by one; a husked record is passed over. -/
def eachRecord (a : Arrival) (f : List Byte → Dev → Dev) (d : Dev) : Dev :=
  ((List.range 7).filter fun w => !bitOf a.husks w).foldl (fun d w => f (payloadWord a.bytes w) d) d

/-- A contribution to a tree (R178, R182). -/
def Dev.landTree (d : Dev) (p : Place) (a : Arrival) : Dev :=
  let f := d.chip.placeFrame p
  match (d.chip.soaTree f a.ep p.run.dstUnit p.room).bind fun t => t.source p.run.bundle p.lane p.slot with
  | some x => d.soaArrive ⟨f, a.ep, p.run.dstUnit, x.1, x.2, a.bytes, a.husks, a.good, p.room⟩
  | none => d

/-- The check words of an outbound slot (R432): over what the source read, as kept, and over what arrived. -/
def Dev.outboundWord (d : Dev) (p : Place) (a : Arrival) : Dev :=
  let kept := (if p.replay then d.chip.hall.sentPrev else d.chip.hall.sent).find? fun x =>
    x.bundle = p.run.bundle && x.lane = p.lane && x.slot = p.slot
  match kept with
  | none => d
  | some k =>
    let crc (l : List Byte) : Nat := (crc32c (l ++ leBytes 2 p.slot ++ leBytes 2 p.lane)).toNat
    let src := endpointOf p.run.bundle
    let f := frameSub (d.chip.placeFrame p) 1
    let mine (w : OutWord) : Bool := w.frame = f && w.room = p.room && w.die = a.ep - 20 && w.endpoint = src
    let old := (d.chip.integ.outWords.find? mine).getD { frame := f, room := p.room, die := a.ep - 20, endpoint := src }
    d.onChip fun c => { c with integ := { c.integ with outWords := c.integ.outWords.filter (fun w => !mine w) ++
      [{ old with src := old.src ^^^ crc k.bytes, dst := old.dst ^^^ crc a.bytes }] } }

/-- A payload goes where the original slot would have gone (R210, R336). -/
def Dev.deliverSlot (d : Dev) (p : Place) (a : Arrival) : Dev :=
  match p.run.dkind with
  | 1 => d.landPantry p a
  | 2 => d.onCel fun c => { c with writes := c.writes ++
      [⟨d.chip.placeFrame p, (a.ep - 8) * 64 + p.run.dstUnit % 64, p.run.dstAddr + 112 * p.index, a.bytes, a.husks⟩] }
  | 3 => d.onQueue p.run.dstUnit fun x =>
      if p.replay then { x with streamPrev := placeSlot (p.streamSlot a) x.streamPrev } else { x with stream := placeSlot (p.streamSlot a) x.stream }
  | 4 => d.landTree p a
  | 5 => d.landStore p a
  | 6 =>
    let d := d.onBuf ((a.ep - 20) * 512 + p.run.dstUnit % 512) fun x =>
      if p.replay then { x with prev := placeSlot (p.streamSlot a) x.prev } else { x with stream := placeSlot (p.streamSlot a) x.stream }
    if a.good then d.outboundWord p a else d
  | _ =>
    if !a.good then d
    else if p.run.cls = clsCelReq ∧ 8 ≤ a.ep ∧ a.ep < 20 then celRecords p a p.replay d
    else if p.run.cls = clsCelRsp then celReplies a d
    else if p.run.cls = clsSignal then eachRecord a (signalRecord p a.ep) d
    else if p.run.cls = clsKey then eachRecord a (keyRecord p a.ep) d
    else d

/-! ## Rejects, and slots not delivered good -/

/-- A slot is not delivered good (R211): counted, and the words it should have filled are husked with HALL records
(R182, R437). -/
def Dev.loseSlot (d : Dev) (p : Place) (ep line : Nat) : Dev :=
  let d := (d.count F.HALL_REPLAY_LOST).flag F.HALL_INT_STATUS_REPLAY_LOST
  let d := d.log { cls := clsReplayLost, kind := 3, index := p.run.bundle * 18 + line, room := p.room, detail := leBytes 4 p.slot }
  let bytes := (List.range 7).flatMap fun _ => huskRecord 3 0 p.run.bundle d.chip.nodeId (p.slot + line % 32 * 65536) d.chip.frm.cur
  d.deliverSlot p { ep, bytes, husks := 127, good := false }

/-- The place that a rejected slot had. -/
def Slot.place (x : Slot) (r : RunE) : Place := { room := x.room, run := r, lane := x.lane, slot := x.slot, replay := true }

/-- A replay has been received or lost: it is not made again (R211). -/
def Dev.endReplay (d : Dev) (p : Place) : Dev :=
  d.onHall fun h => { h with replays := h.replays.filter fun x =>
    !(x.orig.bundle = p.run.bundle && x.orig.lane = p.lane && x.orig.slot = p.slot) }

/-- A slot is rejected (R203): counted; against the line too unless a desync, a map mismatch or the latch is to blame. A
rejected replay is lost (R211). `injected`: an injection caused it, and whether it leaves the history alone (R443). -/
def Dev.rejectSlot (d : Dev) (p : Place) (ep via line : Nat) (lineToo : Bool) (injected : Option Bool) : Dev :=
  let k := p.run.bundle * 18 + line
  let d := (d.count F.HALL_REJECTS).onHall fun h => { h with rejLanes := h.rejLanes ++ [(p.run.bundle, via)] }
  let d := if !lineToo then d else
    let d := (d.count F.HALL_LINE_REJECTS 1 0 0 k).onHall fun h => { h with lineHits := h.lineHits ++ [k] }
    let d := d.log { cls := clsLineReject, kind := 3, index := k, room := p.room, injected := injected = some true, detail := leBytes 4 p.slot }
    if injected = some true then d else d.chanErr 1 k
  if p.replay then (d.endReplay p).loseSlot p ep line
  else d.onHall fun h => { h with rejects := h.rejects ++ [(⟨p.run.bundle, p.lane, p.slot, ep, p.room, via⟩, p.run)] }

/-! ## The checks -/

/-- The assignment of a latch in the running frame; in a hold frame, where latches are parked, that of the step which the
frame would have run, for the replays it carries (R51, R193, R213). -/
def Chip.takes (c : Chip) (ep latch : Nat) : Option (Nat × Nat) :=
  match (c.latch ep latch).assigned with
  | some a => some a
  | none =>
    if (c.latch ep latch).retired then none
    else (c.loadedRooms.filter fun r => (c.room r).hold).findSome? fun r =>
      (c.stepDue r).bind fun t => (t.latches.find? fun l => l.ep = ep && l.latch = latch).map fun l => (l.corridor, l.lane)

/-- The words of a slot whose parity is right, and those in the husk pattern (R202, R203). -/
def wordState (bytes : List Byte) (w : Nat) : Option Bool :=
  let want (j : Nat) : Nat := parityByte bytes j
  let got (j : Nat) : Nat := leField bytes (112 + j) 1
  if got (2 * w + 1) ≠ want (2 * w + 1) then none
  else if got (2 * w) = want (2 * w) then some false
  else if got (2 * w) = 255 - want (2 * w) then some true
  else none

/-- One bit of a byte inverted. -/
def flipBit (l : List Byte) (o i : Nat) : List Byte := patch l o [l.getD o 0 ^^^ BitVec.ofNat 8 (2 ^ i)]

/-- An injection on a line inverts a parity bit of a scheduled slot, or its TP (R443). -/
def injectSlot (s : State) (d : Dev) (line : Nat) (bytes : List Byte) : List Byte × Option Bool × Dev :=
  let hit (kind : Nat) : Option Inj := (s.injOn d kind).filter fun i => i.srcKind = 3 && i.target = line
  match hit 1 with
  | some i => (flipBit bytes 112 0, some i.nocount, d.useInj i)
  | none => match hit 2 with
    | some i => (flipBit bytes 126 0, some i.nocount, d.useInj i)
    | none => (bytes, none, d)

/-- A scheduled slot is checked and accepted or rejected (R203, R207, R226, R250). `a`: the line of the latch's
assignment. -/
def Dev.checkSlot (d : Dev) (p : Place) (ep latch via a : Nat) (bytes : List Byte) (left : Nat) (injected : Option Bool) : Dev :=
  let b := p.run.bundle
  let tag := leField bytes 126 2
  let line := bitsOf tag 2 5
  if (b, ep) ∈ d.chip.hall.desync || (d.chip.bundle b).mismatch then d.rejectSlot p ep via a false injected
  else if popcount 16 tag % 2 = 0 then d.rejectSlot p ep via a true injected
  else if bitsOf tag 7 9 ≠ b ∨ line ≠ a then
    let r := d.wrongLine ep latch b a line left
    r.2.rejectSlot p ep via a (!r.1) injected
  else if bitOf tag 1 ≠ bitOf (d.chip.placeFrame p) 0 then d.rejectSlot p ep via a true injected
  else
    let ws := (List.range 7).map (wordState bytes)
    if ws.any Option.isNone then d.rejectSlot p ep via a true injected
    else
      let d := if p.replay then d.endReplay p else d
      d.deliverSlot p { ep, bytes := bytes.take 112, husks := ofBitList ((List.range 7).filter fun w => ws.getD w none = some true) }

/-! ## The frame header -/

/-- A line's error outside the slot checks: a header that fails its CRC (R207). -/
def Dev.headerError (d : Dev) (k : Nat) : Dev := ((d.count F.HALL_HDR_ERR).log3 clsLineReject 3 k).chanErr 1 k

/-- A tile checks a header on an assigned latch (R207); from a bundle without light there is none (R242). -/
def frameHeader (ep latch : Nat) (bytes : List Byte) (d : Dev) : Dev :=
  match d.chip.takes ep latch with
  | none => d
  | some (b, lane) =>
    match (d.chip.bundle b).lineOf lane with
    | none => d
    | some line =>
      let h := padTo 128 0 bytes
      if (d.chip.bundle b).dark then d
      else if leField h 0x7C 4 ≠ (crc32c (h.take 0x7C)).toNat then d.headerError (b * 18 + line)
      else
        let d :=
          if leField h 6 6 = d.chip.frm.cur ∧ (h.drop 0x1C).take 32 = d.chip.programs then d
          else if (b, ep) ∈ d.chip.hall.desync then d
          else
            let d := d.onHall fun x => { x with desync := x.desync ++ [(b, ep)] }
            ((d.count F.HALL_DESYNC).flag F.HALL_INT_STATUS_DESYNC).bundleError b
        let own := ((d.chip.bundle b).check b).toNat
        if leField h 0xC 4 = own ∧ leField h 0x10 4 = leField h 0xC 4 then d else d.mapMismatch b

/-- A latch receives a slot (R203); idle slots serve only lock monitoring (R201). `left`: ns before the next threshold. -/
def slotReceive (ep latch slot : Nat) (bytes : List Byte) (left : Nat) (s : State) (d : Dev) : Dev :=
  if 23 ≤ ep ∨ latchCount ep ≤ latch then d
  else if slot = 3 then frameHeader ep latch bytes d
  else match d.chip.takes ep latch with
    | none => d
    | some (b, lane) =>
      match (d.chip.bundle b).lineOf lane, d.chip.placeAt b lane slot with
      | some line, some p =>
        if p.run.dest ≠ ep then d
        else
          let r := injectSlot s d (b * 18 + line) (padTo 128 0 bytes)
          r.2.2.checkSlot p ep latch lane line r.1 left r.2.1
      | _, _ => d

/-! ## Replays -/

/-- The retry slots of a pair of a room in the running frame, lanes without a reject first, each part in ascending order
of slot and then lane; dead lanes never (R210, R213). -/
def Chip.retrySlots (c : Chip) (room bundle dest : Nat) (bad : List Nat) : List (Nat × Nat) :=
  match c.stepDue room with
  | none => []
  | some t =>
    let mine := t.runs.filter fun r => r.bundle = bundle && r.dest = dest && r.cls = clsRetry && !c.deadIn t bundle r.lane
    let all := (mine.flatMap fun r => r.slots.map fun s => (s, r.lane)).mergeSort fun a b => decide (a.1 * 16 + a.2 ≤ b.1 * 16 + b.2)
    all.filter (fun x => x.2 ∉ bad) ++ all.filter fun x => x.2 ∈ bad

/-- The replays of one pair: its rejected slots in ascending order of slot and then lane, on its retry slots in order; the
rest are lost, and so are all of a quiesced bundle (R210, R211). -/
def Dev.assignPair (d : Dev) (key : Nat × Nat × Nat) : Dev :=
  let prev := d.chip.hall.rejectsPrev
  let mine := (prev.filter fun x => (x.1.room, x.1.bundle, x.1.ep) = key).mergeSort fun a b => decide (a.1.slot * 16 + a.1.lane ≤ b.1.slot * 16 + b.1.lane)
  let bad := (d.chip.hall.rejLanesPrev.filter fun x => x.1 = key.2.1).map Prod.snd
  let slots := if (d.chip.bundle key.2.1).st = 5 then [] else d.chip.retrySlots key.1 key.2.1 key.2.2 bad
  let d := d.onHall fun h => { h with
    rejectsPrev := h.rejectsPrev.filter fun x => (x.1.room, x.1.bundle, x.1.ep) ≠ key
    replays := h.replays ++ (mine.zip slots).map fun x => { orig := x.1.1, run := x.1.2, lane := x.2.2, slot := x.2.1 } }
  (mine.drop slots.length).foldl (fun d x =>
    d.loseSlot (x.1.place x.2) x.1.ep (((d.chip.bundle x.1.bundle).lineOf x.1.via).getD 31)) d

/-- The sequencer assigns the rejected slots of the last frame (R210). -/
def replayAssign (d : Dev) : Dev :=
  (d.chip.hall.rejectsPrev.map fun x => (x.1.room, x.1.bundle, x.1.ep)).eraseDups.foldl Dev.assignPair d

/-- Slots of the frame before that got no replay are lost when the frame ends (R211). -/
def Dev.endReplays (d : Dev) : Dev :=
  let left := d.chip.hall.rejectsPrev
  let d := d.onHall fun h => { h with rejectsPrev := [], replays := [] }
  left.foldl (fun d x => d.loseSlot (x.1.place x.2) x.1.ep (((d.chip.bundle x.1.bundle).lineOf x.1.via).getD 31)) d

/-! ## Width agreement and retirement by the host -/

/-- HALL_MAINT written with RETIRE or AGREE: a bundle or line out of range leaves its field unchanged (R229). -/
def maintWrite (r : Requester) (t bundle : Nat) (line : Option Nat) (bit : Nat) (d : Dev) : Dev :=
  if !isPf r then d
  else
    let okB := bundle ≤ 292
    let l := line.getD 18
    d.stage r t F.HALL_MAINT_RETIRE.key
      ((if okB then F.HALL_MAINT_BUNDLE.mask else 0) + (if l ≤ 17 then F.HALL_MAINT_LINE.mask else 0) + 2 ^ bit)
      (bundle % 512 * 2 ^ 16 + l % 32 * 2 ^ 8 + 2 ^ bit)

/-- What the bits of HALL_MAINT do when they take effect, at the threshold that begins the running frame (R216, R226):
a retirement is decided there, so it acts at the next threshold. -/
def effectHallMaint (value : Nat) (d : Dev) : Dev :=
  let b := d.chip.fld F.HALL_MAINT_BUNDLE
  let l := d.chip.fld F.HALL_MAINT_LINE
  let d := if bitOf value 0 ∧ !(d.chip.bundle b).lineRetired l then d.decideRetire b l (nextFrame d.chip.frm.cur) 2 else d
  if bitOf value 1 then d.onBundle b fun x => { x with agreeDue := true } else d

/-- Agreement starts at this threshold on the bundles that call for it: they are QUIESCED (R226, R227). -/
def Dev.startAgreements (d : Dev) : Dev :=
  (d.chip.hall.bundles.map Prod.fst).foldl (fun d b =>
    let x := d.chip.bundle b
    if !x.agreeDue then (if x.mismatch then d.onBundle b fun x => { x with mismatch := false } else d)
    else if x.st = 2 ∨ x.st = 4 ∨ x.st = 5 then
      d.onBundle b fun x => { x with agreeDue := false, mismatch := false, agree := true, quiesced := 0 }.quiesce
    else d.onBundle b fun x => { x with agreeDue := false, mismatch := false }) d

/-- The map that agreement builds (R226): lines good in both masks keep their roles, others count as retired under R216;
one change of EPOCH; both sides then hold one mask. -/
def Dev.agreedMap (d : Dev) (b : Nat) : Dev :=
  let e := (d.chip.bundle b).epoch
  let x := d.chip.bundle b
  let lost := (List.range 18).filter fun l => !(bitOf x.goodBase l && bitOf x.goodUpper l) && !x.lineRetired l
  let d := lost.foldl (fun d l => d.retireLine b l 0) d
  let mask := x.goodBase &&& x.goodUpper
  d.onBundle b fun x => { x.setMap x.roles ((e + 1) % 65536) with agree := false, goodBase := mask, goodUpper := mask }.resume

/-- What each side of a bundle sees in the frame that begins: its good lines, which the headers post (R204, R226); and the upper die's
copy of the map where upsets changed it (R207). -/
def Dev.postMasks (d : Dev) (masks : List (Nat × Nat × Nat)) (upper : List (Nat × List Nat)) : Dev :=
  let d := masks.foldl (fun d x => if nBundles ≤ x.1 then d else
    d.onBundle x.1 fun b => { b with goodBase := x.2.1 % 2 ^ 18, goodUpper := x.2.2 % 2 ^ 18 }) d
  upper.foldl (fun d x => if nBundles ≤ x.1 then d else d.onBundle x.1 fun b => { b with upperRoles := x.2 }) d

/-- Agreements in progress at a threshold (R226): `untrained` bundles go on quiesced; after 16 quiesced frames every line
of a bundle is retired. -/
def Dev.runAgreements (d : Dev) (untrained : List Nat) : Dev :=
  ((d.chip.hall.bundles.filter fun p => p.2.agree).map Prod.fst).foldl (fun d b =>
    let n := (d.chip.bundle b).quiesced + 1
    let d := d.onBundle b fun x => { x with quiesced := n }
    if b ∉ untrained then d.agreedMap b
    else if 16 ≤ n then
      let d := (List.range 18).foldl (fun d l => d.retireLine b l 0) d
      d.onBundle b fun x => { x with agree := false }.resume
    else d) d

/-- The running frame is a bundle's 16th quiesced frame without the retraining complete: every line retires at the next
threshold (R226). -/
def agreementTimeout (b : Nat) (d : Dev) : Dev :=
  let x := d.chip.bundle b
  if nBundles ≤ b ∨ !x.agree ∨ x.quiesced + 1 < 16 then d
  else (List.range 18).foldl (fun d l => d.decideRetire b l (nextFrame d.chip.frm.cur) 0) d

open Host

/-- SLOT_RECEIVE (R203). `left`: ns before the next threshold. -/
def execSlotReceive (ep latch slot : Nat) (bytes : List Byte) (left : Nat) (s : State) : Outcome State Fault Refusal :=
  runs s (slotReceive ep latch slot bytes left s)

/-- FRAME_HEADER (R207). -/
def execFrameHeader (ep latch : Nat) (bytes : List Byte) (s : State) : Outcome State Fault Refusal := runs s (frameHeader ep latch bytes)

/-- REPLAY_ASSIGN (R210). -/
def execReplayAssign (s : State) : Outcome State Fault Refusal := runs s replayAssign

/-- DATA (R268). -/
def execData (x : RspRec) (data : List Byte) (s : State) : Outcome State Fault Refusal := runs s (replyRecord x.ep x.tag x.status data 0)

/-- ACK (R268). -/
def execAck (x : RspRec) (result : Nat) (s : State) : Outcome State Fault Refusal := runs s (replyRecord x.ep x.tag x.status [] result)

/-- RETIRE (R216, R229). `t`: ns since the last threshold. -/
def execRetire (r : Requester) (bundle line t : Nat) (s : State) : Outcome State Fault Refusal := runs s (maintWrite r t bundle (some line) 0)

/-- AGREE (R226, R229). -/
def execAgree (r : Requester) (bundle t : Nat) (s : State) : Outcome State Fault Refusal := runs s (maintWrite r t bundle none 1)

/-- AGREEMENT_TIMEOUT (R226). -/
def execAgreementTimeout (b : Nat) (s : State) : Outcome State Fault Refusal := runs s (agreementTimeout b)

end Sys2Proof.Machine
end

