-- ==== Sys2Proof/Machine/Tower.lean ====
section
/-! DEFINITION. The pantry port and its conflicts (R164, R169 to R172), the debug window (R173), the march test (R174 to
R177). -/

namespace Sys2Proof.Machine

/-! ## The port -/

/-- A write of one word at the port: the word, its 16 bytes, and its husk mark. -/
abbrev PortWrite := Nat × List Byte × Bool

/-- The conflict counter of a master: 0 MAT, 1 VEC, 2 HRX, 3 HTX, 4 DBG (R164, R188). -/
def conflictFld (m : Nat) : Fld :=
  match m with
  | 0 => F.TOW_PAN_CONFLICT_MAT
  | 1 => F.TOW_PAN_CONFLICT_VEC
  | 2 => F.TOW_PAN_CONFLICT_HRX
  | 3 => F.TOW_PAN_CONFLICT_HTX
  | _ => F.TOW_PAN_CONFLICT_DBG

/-- A debug window of a requester on a tower. -/
def Chip.dbg (c : Chip) (key : Nat) : Dbg := Tab.get {} c.tow.dbg key
/-- Change a debug window. -/
def Dev.onDbg (d : Dev) (key : Nat) (f : Dbg → Dbg) : Dev := d.onTow fun t => { t with dbg := Tab.upd {} t.dbg key f }

/-- Of a core's matrix side and its MOVE and vector side, the one whose operation in flight was issued later: where both want the port
it waits (R143). -/
def Core.waitingSide (c : Core) : Nat :=
  let seq (p : UnitId → Bool) : Option Nat := (c.flight.filter fun x => p x.1).foldl (fun m x => some (match m with
    | some n => min n x.2.seq
    | none => x.2.seq)) none
  match seq (fun u => u = .mat), seq fun u => u ≠ .mat with
  | some a, some b => if b < a then 0 else 1
  | none, some _ => 0
  | _, _ => 1

/-- One port cycle of a core's slice (R143, R169 to R172). `reqs`: the masters that request; `hrx`: the word that the Hall
receive writer writes; `coreWord`: the word that a core master writes. The Hall's write goes first; a write of the same
word by a core master or by the debug window is dropped. -/
def portGrant (core reqs : Nat) (hrx : Option PortWrite) (coreWord : Option Nat) (d : Dev) : Dev :=
  if 4096 ≤ core ∨ 17 ≤ core % 32 then d
  else
    let t := towerOf core
    let k := coreSel core
    let ms := (bitList 5 reqs).filter fun m => !(bitOf reqs 0 && bitOf reqs 1 && m = (d.chip.core core).waitingSide)
    let d := if 2 ≤ ms.length then ms.foldl (fun d m => d.count (conflictFld m) 1 t 0 k) d else d
    match hrx with
    | none => d
    | some (w, bs, h) =>
      if !bitOf reqs 2 ∨ sliceBytes / 16 ≤ w then d
      else
        let d := d.hrxWord core w (padTo 16 0 bs) h
        let d := if (bitOf reqs 0 || bitOf reqs 1) && coreWord = some w then
            (d.count F.TOW_PAN_COLLIDE 1 t 0 k).flag F.TOW_PAN_STATUS_COLLIDE t 0 k
          else d
        if !bitOf reqs 4 then d
        else (d.chip.tow.dbg.filter fun x => x.1 / 32 = t && x.2.busy && x.2.isWrite && x.2.core = core && x.2.word = w).foldl (fun d x =>
          (d.onDbg x.1 fun y => { y with busy := false, status := 3 }).flag F.TOW_PAN_STATUS_DBG_COLLIDE t 0 k) d

/-! ## The debug window -/

/-- The slice that a requester's window addresses: the selected physical position (R117, R173). -/
def Chip.selCore (c : Chip) (r : Requester) (t : Nat) : Nat :=
  t * 512 + c.fld F.TOW_CORE_SEL_ROW t 0 r.code * 32 + c.fld F.TOW_CORE_SEL_POS t 0 r.code

/-- READ or WRITE of TOWn_DBG_CTL (R173): an access starts, or is refused; while BUSY it is ignored. -/
def dbgStart (r : Requester) (t : Nat) (write : Bool) (d : Dev) : Dev :=
  let key := t * 32 + r.code
  if 8 ≤ t ∨ !isPf r ∨ (d.chip.dbg key).busy then d
  else
    let core := d.chip.selCore r t
    let word := d.chip.fld F.TOW_DBG_ADDR t 0 r.code
    let denied := (match (d.chip.row (core / 32)).room with
      | some n => d.chip.loaded n && (d.chip.room n).st ≠ .halted
      | none => false) || (Tab.get {} d.chip.tow.pos core).st = 3
    if denied then d.onDbg key fun x => { x with status := 2 }
    else if sliceBytes / 16 ≤ word then d.onDbg key fun x => { x with status := 4 }
    else d.onDbg key fun _ => { busy := true, status := 0, isWrite := write, core, word }

/-- The debug data registers of a requester, DATA0 lowest. -/
def Chip.dbgData (c : Chip) (r : Requester) (t : Nat) : List Byte :=
  (List.range 4).flatMap fun k => leBytes 4 (c.fld F.TOW_DBG_DATA t k r.code)

/-- A debug access gets its grant (R167, R168, R173). -/
def dbgDone (r : Requester) (t : Nat) (s : State) (d : Dev) : Dev :=
  let key := t * 32 + r.code
  let x := d.chip.dbg key
  if 8 ≤ t ∨ !x.busy then d
  else if x.isWrite then
    (d.pantryWrite x.core (16 * x.word) ((d.chip.dbgData r t).map some)).onDbg key fun y => { y with busy := false, status := 0 }
  else
    let d := d.eccWord x.core x.word
    let bs := d.wordBytes s x.core x.word
    let d := (List.range 4).foldl (fun d k => d.setFld F.TOW_DBG_DATA (leField bs (4 * k) 4) t k r.code) d
    d.onDbg key fun y => { y with busy := false, status := b2n (d.husked (wordKey x.core x.word)) }

/-! ## March test -/

/-- A tower's march engine. -/
def Chip.march (c : Chip) (t : Nat) : March := Tab.get {} c.tow.march t
/-- Change it. -/
def Dev.onMarch (d : Dev) (t : Nat) (f : March → March) : Dev := d.onTow fun x => { x with march := Tab.upd {} x.march t f }

/-- TOWn_MARCH_CTL written with START (R174, R175): ALGO 2 or 3 makes the write ignored. -/
def marchWrite (r : Requester) (n t rows algo bg : Nat) (preserve : Bool) (d : Dev) : Dev :=
  if !isPf r ∨ 8 ≤ n ∨ 2 ≤ algo then d
  else d.stage r t (F.TOW_MARCH_CTL_START.key n)
    (F.TOW_MARCH_CTL_ROWS.mask + F.TOW_MARCH_CTL_BG.mask + F.TOW_MARCH_CTL_ALGO.mask + F.TOW_MARCH_CTL_PRESERVE.mask + 1)
    (rows % 65536 * 2 ^ 16 + bg % 16 * 2 ^ 8 + algo * 4 + b2n preserve * 2 + 1)

/-- START takes effect (R175): refused as a whole where a named row belongs to a loaded room, unless the run preserves
contents and the room is halted; otherwise the run begins at the threshold after. A run in progress goes on. -/
def effectMarch (n : Nat) (d : Dev) : Dev :=
  let m := d.chip.march n
  if m.st = 1 ∨ m.due then d
  else
    let rows := d.chip.fld F.TOW_MARCH_CTL_ROWS n
    let preserve := d.chip.fld F.TOW_MARCH_CTL_PRESERVE n = 1
    let bad := (bitList 16 rows).any fun w => match (d.chip.row (n * 16 + w)).room with
      | some r => d.chip.loaded r && !(preserve && (d.chip.room r).st = .halted)
      | none => false
    if bad then d.onMarch n fun x => { x with st := 3 }
    else
      let algo := d.chip.fld F.TOW_MARCH_CTL_ALGO n
      let bg := d.chip.fld F.TOW_MARCH_CTL_BG n
      d.onMarch n fun x => { x with rows, algo, bg, preserve, due := true }

/-- Runs that begin at a threshold (R176); they are asked for before this threshold's START writes. -/
def beginMarches (d : Dev) : Dev :=
  (List.range 8).foldl (fun d n => if (d.chip.march n).due then d.onMarch n fun x => { x with st := 1, due := false, failRows := 0 } else d) d

/-- A march run completes (R175, R176); a destructive run leaves zero data. `cells`: the defective cells of the slices it tested. -/
def marchDone (n : Nat) (cells : List BadCell) (d : Dev) : Dev :=
  let m := d.chip.march n
  if 8 ≤ n ∨ m.st ≠ 1 then d
  else
    let d := if m.preserve then d else ((bitList 16 m.rows).flatMap fun w => rowCores (n * 16 + w)).foldl Dev.clearSlice d
    d.marchEnd n m.rows m.algo m.bg m.preserve cells

open Host

/-- PANTRY_PORT_GRANT (R169, R172). -/
def execPantryPortGrant (core reqs : Nat) (hrx : Option (Nat × List Byte × Bool)) (coreWord : Option Nat) (s : State) :
    Outcome State Fault Refusal := runs s (portGrant core reqs hrx coreWord)

/-- DBG_READ (R173). -/
def execDbgRead (r : Requester) (tower : Nat) (s : State) : Outcome State Fault Refusal := runs s (dbgStart r tower false)

/-- DBG_WRITE (R173). -/
def execDbgWrite (r : Requester) (tower : Nat) (s : State) : Outcome State Fault Refusal := runs s (dbgStart r tower true)

/-- DBG_ACCESS_DONE (R173). -/
def execDbgAccessDone (r : Requester) (tower : Nat) (s : State) : Outcome State Fault Refusal := runs s (dbgDone r tower s)

/-- MARCH_START (R175). `t`: ns since the last threshold. -/
def execMarchStart (r : Requester) (tower t rows algo bg : Nat) (preserve : Bool) (s : State) : Outcome State Fault Refusal :=
  runs s (marchWrite r tower t rows algo bg preserve)

/-- MARCH_DONE (R176). -/
def execMarchDone (tower : Nat) (cells : List BadCell) (s : State) : Outcome State Fault Refusal :=
  runs s (marchDone tower cells)

end Sys2Proof.Machine
end

