-- ==== Sys2Proof/Machine/Integrity.lean ====
section
/-! DEFINITION. The integrity unit: XSIG comparisons and cross-check frames (R427, R428), outbound checks and clears (R431 to
R434), retractions (R433), the error log (R440, R441), error injection (R443). -/

namespace Sys2Proof.Machine

/-- Change the integrity unit. -/
def Dev.onInteg (d : Dev) (f : Integ → Integ) : Dev := d.onChip fun c => { c with integ := f c.integ }

/-! ## Comparisons of XSIG posts -/

/-- A core takes an XCHECK error (R427). -/
def Dev.xcheckError (d : Dev) (core room : Nat) : Dev :=
  let d := d.log { cls := clsXcheck, kind := 1, index := core, room, contain := room ≠ 0xFF }
  (d.chanErr 3 core).onInteg fun i => { i with xchecks := satAdd 32 i.xchecks 1 }

/-- The cores that a comparison finds at fault (R427): all that posted, or only those that differ from a value held by
more than half of three or more. -/
def faulty (ps : List XPost) : List Nat :=
  let agree (v : Nat) : Nat := (ps.filter fun p => p.value = v).length
  if ps.all fun p => ps.all fun q => p.value = q.value then []
  else match ps.find? fun p => decide (3 ≤ ps.length) && decide (ps.length < 2 * agree p.value) with
    | some m => (ps.filter fun p => p.value ≠ m.value).map XPost.core
    | none => ps.map XPost.core

/-- A comparison finds a mismatch: it is counted. -/
def Dev.xcheckFail (d : Dev) : Dev := (d.count F.ERR_XCHK_FAIL).flag F.ERR_INT_STATUS_XCHECK

/-- The posts of the frame that ends are compared, by room and comparison ID (R427). -/
def Dev.comparePosts (d : Dev) : Dev :=
  let posts := d.chip.integ.posts
  let d := d.onInteg fun i => { i with posts := [] }
  (posts.map fun p => (p.room, p.id)).eraseDups.foldl (fun d k =>
    let ps := posts.filter fun p => (p.room, p.id) = k
    if ps.length = 1 then d.count F.ERR_XCHK_ORPHAN
    else
      let d := ps.foldl (fun d p => d.chanChecked 3 p.core) d
      let bad := faulty ps
      if bad.isEmpty then d
      else
        let d := bad.foldl (fun d c => d.xcheckError c k.1) d.xcheckFail
        if k.1 < 16 then d.failRoom k.1 4 else d) d

/-- The free rows, in ascending order of tower and then row (R428). -/
def Chip.freeRows (c : Chip) : List Nat :=
  (List.range 128).filter fun w => (c.row w).room.isNone && (c.row w).st = 0 && (c.block (w / 16)).up

/-- One cross-check frame (R428). `posts`: the cores whose posted value differs from the kernel's, with what they posted
as a difference. -/
def crossCheck (posts : List (Nat × Nat)) (s : State) (d : Dev) : Dev :=
  let rows := d.chip.freeRows
  let n := rows.length
  let due := match d.chip.integ.xLast with
    | none => true
    | some f => decide (d.chip.fld F.ERR_XCHK_CTL_PERIOD ≤ frameSub d.chip.frm.cur f)
  if d.chip.fld F.ERR_XCHK_CTL_EN = 0 ∨ n < 2 ∨ !due then d
  else
    let j := d.chip.integ.xRound
    let phys (i c : Nat) : Nat := d.chip.physCore (rows.getD i 0) c
    let cores := (List.range n).flatMap fun i => (List.range 16).map (phys i)
    let hit := (s.injOn d 8).filter fun i => i.srcKind = 1 && decide (i.target ∈ cores)
    let d := match hit with
      | some i => d.useInj i
      | none => d
    let value (core : Nat) : Nat :=
      let v := ((posts.find? fun p => p.1 = core).map Prod.snd).getD 0
      if hit.any fun i => i.target = core then v ^^^ 1 else v
    let d := d.onInteg fun i => { i with xRound := (j + 1) % 65536, xRows := n, xLast := some d.chip.frm.cur }
    let d := cores.foldl (fun d c => d.chanChecked 3 c) d
    if (1 + j) % n = 0 then d
    else (List.range n).foldl (fun d i => (List.range 16).foldl (fun d c =>
      let a := phys i c
      let b := phys ((i + 1 + j) % n) c
      if value a = value b then d else ((d.xcheckFail).xcheckError a 0xFF).xcheckError b 0xFF) d) d

/-! ## Outbound checks and clears -/

/-- A porch check word with bit 0 inverted by an injection on the room (R443). -/
def Dev.outboundInj (s : State) (d : Dev) (room : Nat) : Bool × Dev :=
  match (s.injOn d 9).filter fun i => i.srcKind = 11 && i.target = room with
  | some i => (true, d.useInj i)
  | none => (false, d)

/-- The check words of frame `n` are compared (R432): a difference is an OUTBOUND error of the room, which is reset at this
threshold (R430). -/
def Dev.outboundCheck (s : State) (d : Dev) (n : Nat) : Dev :=
  let ws := d.chip.integ.outWords.filter fun w => w.frame = n
  let d := d.onInteg fun i => { i with outWords := i.outWords.filter fun w => !(w.frame = n || frameLater n w.frame) }
  (ws.map OutWord.room).eraseDups.foldl (fun d room =>
    let inj := d.outboundInj s room
    let d := inj.2
    let mine := ws.filter fun w => w.room = room
    let bad := mine.zipIdx.find? fun w => (if inj.1 && w.2 = 0 then w.1.dst ^^^ 1 else w.1.dst) ≠ w.1.src
    match bad with
    | none => d
    | some w =>
      let d := (d.count F.ERR_OUTBOUND_FAIL).flag F.ERR_INT_STATUS_OUTBOUND
      let d := d.log { cls := clsOutbound, kind := 11, index := room, room, contain := true }
      let d := d.onInteg fun i => { i with
        outbounds := satAdd 32 i.outbounds 1
        fates := i.fates.map fun f => if f.frame = n ∧ f.room = room then { f with outboundOk := false } else f }
      let d := (d.flag F.ERR_INT_STATUS_CONTAINMENT).onInteg fun i => { i with
        contained := satAdd 32 i.contained 1
        outWords := i.outWords ++ [{ w.1 with frame := n }] }
      d.dueReset room 4) d

/-- What became of a room's frame. -/
def Chip.fate (c : Chip) (room frame : Nat) : Option FrameFate := c.integ.fates.find? fun f => f.room = room && f.frame = frame

/-- A room's frame is clear, once its threshold N+3 has come (R431). -/
def FrameFate.clear (f : FrameFate) : Bool := f.committed && f.outboundOk && !f.wasReset

/-- The rows of a room in a tower, as a mask. -/
def Chip.roomRows (c : Chip) (room tower : Nat) : Nat :=
  ofBitList ((((c.image room).map Image.rows).getD []).filterMap fun w => if w / 16 = tower then some (w % 16) else none)

/-- The CLEAR masks of the headers of frame `m`, and the clear or withdrawal of every room's frame m - 3 (R431, R433,
R434). -/
def Dev.clears (d : Dev) (m : Nat) : Dev :=
  let c := d.chip
  let mask (back : Nat) (ok : FrameFate → Bool) : Nat := ofBitList ((List.range 16).filter fun r => (c.fate r (frameSub m back)).any ok)
  let d := d.onInteg fun i => { i with
    clear1 := mask 1 FrameFate.committed
    clear2 := mask 2 fun f => f.committed && !f.wasReset
    clear3 := mask 3 FrameFate.clear
    clear4 := i.clear3 }
  let n := frameSub m 3
  let d := (List.range 16).foldl (fun d r => match c.fate r n with
    | none => d
    | some f =>
      let src := ((c.integ.outWords.find? fun w => w.frame = n && w.room = r).map OutWord.endpoint).getD 0xFF
      d.outboundFate r n f.clear (if f.outboundOk then 2 else 1) (if src < 8 then c.roomRows r src else 0) src) d
  d.onInteg fun i => { i with
    outWords := i.outWords.filter (fun w => w.frame ≠ n)
    fates := i.fates.filter fun f => frameSub m f.frame ≤ 4 }

/-! ## Retractions -/

/-- The retractions that the headers of the next frame carry (R433): rooms, towers and rows whose own checks failed in the
running frame. -/
def Dev.retractList (d : Dev) : List (Nat × Nat × Nat) :=
  let c := d.chip
  let logged := (c.integ.events.filter fun e => (decide (6 ≤ e.cls) && decide (e.cls ≤ 9)) && e.kind = 1 && decide (e.room < 16)).map fun e =>
    (e.room, towerOf e.index, e.index / 32 % 16)
  let late := ((List.range 16).filter fun r => (c.room r).overran).flatMap fun r =>
    ((c.roomCores r).filter fun k => (c.core k).st = .running || (c.core k).st = .ending).map fun k => (r, towerOf k, k / 32 % 16)
  let all := logged ++ late
  (all.map fun x => (x.1, x.2.1)).eraseDups.map fun k =>
    (k.1, k.2, ofBitList ((all.filter fun x => x.1 = k.1 && x.2.1 = k.2).map fun x => x.2.2))

/-! ## The error log -/

/-- A log entry (R440). -/
def LogEv.entry (e : LogEv) (n : Nat) : List Byte :=
  leBytes 1 e.cls ++ leBytes 1 (b2n e.permanent + 2 * b2n e.contain + 4 * b2n e.injected) ++ leBytes 2 e.rep ++ leBytes 1 e.kind
    ++ leBytes 1 e.room ++ leBytes 2 e.index ++ leBytes 6 e.frame ++ leBytes 2 n ++ padTo 16 0 e.detail

/-- Entries that the host has not consumed. -/
def Integ.held (i : Integ) : Nat := (i.prod + 2 ^ 32 - i.cons) % 2 ^ 32

/-- One event of the frame is published or lost; `k` have been published in this frame (R441). -/
def publishEvent (x : Nat × Dev) (e : LogEv) : Nat × Dev :=
  let d := x.2
  let i := d.chip.integ
  if x.1 < 128 ∧ i.held ≠ 1024 then
    (x.1 + 1, (d.onInteg fun i => { i with entries := Tab.ins i.entries (i.prod % 1024) (e.entry i.prod), prod := (i.prod + 1) % 2 ^ 32 }).flag F.ERR_INT_STATUS_LOG_NEW)
  else
    let d := ((d.count F.ERR_LOG_LOST).count F.ERR_OVF_COUNT 1 0 e.cls).flag F.ERR_INT_STATUS_LOG_OVF
    (x.1, d.onInteg fun i => { i with ovfFrame := Tab.ins i.ovfFrame e.cls e.frame, lost := satAdd 32 i.lost 1 })

/-- The events of the running frame are published with it (R441). -/
def Dev.publishLog (d : Dev) : Dev :=
  let es := d.chip.integ.events
  let d := (es.foldl publishEvent (0, d.onInteg fun i => { i with events := [] })).2
  let full := decide (d.chip.fld F.ERR_LOG_CTL_FILL_LVL ≤ d.chip.integ.held)
  let d := if full && !d.chip.integ.filled then d.flag F.ERR_INT_STATUS_LOG_FILL else d
  d.onInteg fun i => { i with filled := full }

/-- LOG_CONSUME: the consumer pointer moves at once, unless ahead of PROD or more than 1,024 behind it (R444). -/
def logConsume (r : Requester) (v : Nat) (d : Dev) : Dev :=
  let v := v % 2 ^ 32
  if (vfRoom r).isNone ∧ (d.chip.integ.prod + 2 ^ 32 - v) % 2 ^ 32 ≤ 1024 then d.onInteg fun i => { i with cons := v } else d

/-! ## Injection -/

/-- The target of an injection exists and suits its kind (R442, R443). -/
def Inj.fits (i : Inj) : Bool :=
  let core := i.srcKind = 1 && decide (i.target < 4096) && decide (i.target % 32 < 17)
  let word := decide (i.addr < sliceBytes / 16)
  let line := decide (i.addr % 2 ^ 24 < cellarLines)
  let slice := i.srcKind = 7 && decide (i.target < 768)
  match i.kind with
  | 1 | 2 => i.srcKind = 3 && decide (i.target < nBundles * 18)
  | 3 | 4 => core && word
  | 5 => slice && line && decide (1 ≤ i.addr / 2 ^ 24 % 8) && decide (i.addr / 2 ^ 24 % 8 ≤ 4)
  | 6 | 7 | 8 => core
  | 9 => i.srcKind = 11 && decide (i.target < 16)
  | 10 => i.srcKind = 9 && decide (i.target < 6)
  | 11 => (core && word) || (slice && line)
  | _ => false

/-- A kind that acts once, when it becomes active (R443). -/
def Inj.once (i : Inj) : Bool := i.kind = 3 || i.kind = 4 || i.kind = 5 || i.kind = 11

/-- What such an injection does (R443): upsets in a pantry word or a cellar line, or an INJECTED husk. -/
def Dev.injectOnce (d : Dev) (i : Inj) : Dev :=
  let d := d.useInj i
  let key := wordKey i.target i.addr
  let line := i.addr % 2 ^ 24
  match i.kind with
  | 3 => d.onTow fun t => { t with errs := Tab.ins t.errs key (if Tab.get 0 t.errs key = 0 then 1 else 1000) }
  | 4 => d.onTow fun t => { t with errs := Tab.ins t.errs key 1000 }
  | 5 => d.onCel fun c => { c with errs := (List.range (i.addr / 2 ^ 24 % 8)).foldl (fun e k => lineErr e (lineKey i.target line) k 1) c.errs }
  | 11 =>
    if i.srcKind = 1 then d.huskWord key (huskRecord 5 0 i.target d.chip.nodeId i.addr d.chip.frm.cur)
    else (d.openPage i.target line).lineHusk i.target line (huskRecord 5 0 i.target d.chip.nodeId line d.chip.frm.cur)
  | _ => d

/-- The injection that the registers describe. -/
def Chip.injection (c : Chip) : Inj :=
  { left := c.fld F.ERR_INJ_CTL_COUNT, kind := c.fld F.ERR_INJ_CTL_KIND, target := c.fld F.ERR_INJ_TARGET_INDEX
    srcKind := c.fld F.ERR_INJ_TARGET_SRC_KIND, addr := c.fld F.ERR_INJ_ADDR, nocount := c.fld F.ERR_INJ_CTL_NOCOUNT = 1
    start := if c.fld F.ERR_INJ_FRAME_HI_MATCH_EN = 1 then
        some (c.fld F.ERR_INJ_FRAME_LO + c.fld F.ERR_INJ_FRAME_HI * 2 ^ 32) else none }

/-- An injection ends. -/
def endInj (i : Inj) : Inj := if i.st = .armed ∨ i.st = .active then { i with st := .done } else i

/-- ARM takes effect (R443): ignored while ALLOW is 0, refused without a fitting target. -/
def State.armNow (s : State) : State :=
  if !s.gate.allow then s
  else
    let i := s.dev.chip.injection
    if i.fits then { s with gate := { s.gate with inj := { i with st := .armed } } }
    else { s with gate := { s.gate with inj := { i with st := .refused } }, dev := s.dev.flag F.ERR_INT_STATUS_INJECT_DONE }

/-- DISARM takes effect. -/
def State.disarmNow (s : State) : State :=
  if s.gate.inj.st = .armed ∨ s.gate.inj.st = .active then
    { s with gate := { s.gate with inj := endInj s.gate.inj }, dev := s.dev.flag F.ERR_INT_STATUS_INJECT_DONE }
  else s

/-- An armed injection becomes active at threshold `m`, or at the threshold of its frame; one that acts once acts then. -/
def State.startInj (s : State) (m : Nat) : State :=
  let i := s.gate.inj
  if i.st ≠ .armed ∨ !s.gate.allow ∨ (i.start.any fun f => f ≠ m) then s
  else if i.once then
    { s with gate := { s.gate with inj := { i with st := .done, left := i.left - 1 } }
             dev := ({ s.dev.injectOnce i with injUsed := 0 }).flag F.ERR_INT_STATUS_INJECT_DONE }
  else { s with gate := { s.gate with inj := { i with st := .active } } }

/-- ARM, DISARM and ALLOW at threshold `m`, in the order in which they were received within each kind (R443). -/
def State.injThreshold (s : State) (m : Nat) : State :=
  let g := s.gate
  let allow := (g.allowStaged.filter fun x => x.2 = m).foldl (fun _ x => x.1) g.allow
  let due := g.injStaged.filter fun x => x.2 = m
  let s := { s with gate := { g with allow := allow && !g.locked, allowStaged := g.allowStaged.filter (fun x => x.2 ≠ m)
                                     injStaged := g.injStaged.filter fun x => x.2 ≠ m } }
  let s := due.foldl (fun s x => if x.1 then s.armNow else s.disarmNow) s
  s.startInj m

/-- A write of ARM or DISARM by the PF is staged (R443). -/
def injWrite (r : Requester) (t : Nat) (arm : Bool) (s : State) : Host.Outcome State Fault Refusal :=
  if s.active ∧ isPf r ∧ !s.dev.chip.boot.warm then
    .next { s with gate := { s.gate with injStaged := s.gate.injStaged ++ [(arm, s.dev.chip.dueFrame t)] }, dev := { s.dev with out := [] } }
  else .next s

open Host

/-- CROSS_CHECK_FRAME (R428). -/
def execCrossCheckFrame (posts : List (Nat × Nat)) (s : State) : Outcome State Fault Refusal := runs s (crossCheck posts s)

/-- LOG_CONSUME (R444). -/
def execLogConsume (r : Requester) (v : Nat) (s : State) : Outcome State Fault Refusal := runsM s (logConsume r v)

/-- INJ_ARM (R443). `t`: ns since the last threshold. -/
def execInjArm (r : Requester) (t : Nat) (s : State) : Outcome State Fault Refusal := injWrite r t true s

/-- INJ_DISARM (R443). -/
def execInjDisarm (r : Requester) (t : Nat) (s : State) : Outcome State Fault Refusal := injWrite r t false s

end Sys2Proof.Machine
end

