-- ==== Sys2Proof/Machine/Thermal.lean ====
section
/-! DEFINITION. Temperature (R471 to R485): sensors, throttle episodes, bands, plausibility, the hardware trip, coolant.
Temperatures are in units of 0.25 K, as °C times 4. -/

namespace Sys2Proof.Machine

/-! ## Sensors -/

/-- The die classes of R474, with the coolant sensors last. -/
inductive DieClass where
  | compute | pantry | base | cellar | laser | porch | coolant
deriving DecidableEq, Repr

/-- The class of a sensor; none where the index has no sensor (R471). -/
def sensorClass (k : Nat) : Option DieClass :=
  if k < 256 then
    (if k % 32 < 16 then some .compute else if k % 32 < 20 then some .pantry else if k % 32 < 24 then some .base else none)
  else if k < 352 then (if k % 8 < 4 then some .cellar else if k % 8 = 4 then some .base else none)
  else if k < 356 then some .laser
  else if k < 361 then some .porch
  else if k < 364 then some .base
  else if k < 366 then some .coolant
  else none

/-- The sensors of the module (R471). -/
def sensorList : List Nat := (List.range 366).filter fun k => (sensorClass k).isSome

/-- The die a sensor lies on, named by its lowest sensor (R471). -/
def sensorDie (k : Nat) : Nat :=
  if k < 256 then (if k % 32 < 16 then k / 32 * 32 else k / 32 * 32 + k % 32 / 4 * 4)
  else if k < 352 then k
  else if k < 360 then k / 2 * 2
  else if k = 360 then 360
  else if k < 364 then 361
  else k

/-- Throttle start and trip temperature of a class (R474). -/
def classTs : DieClass → Int
  | .compute => 380
  | .pantry => 368
  | .base => 352
  | .cellar => 352
  | .laser => 320
  | .porch => 380
  | .coolant => 10000

def classTt : DieClass → Int
  | .compute => 440
  | .pantry => 420
  | .base => 400
  | .cellar => 400
  | .laser => 360
  | .porch => 440
  | .coolant => 10000

/-- The throttle scope of a sensor: its tower, or 8 the module; none for the coolant (R476). -/
def sensorScope (k : Nat) : Option Nat := if k < 256 then some (k / 32) else if k < 364 then some 8 else none

/-- A buried sensor, for which an estimate is formed (R481). -/
def buried (k : Nat) : Bool := sensorClass k = some .pantry || (sensorClass k = some .cellar && (k % 8 = 1 || k % 8 = 2))

/-- A sensor. -/
def Chip.sensor (c : Chip) (k : Nat) : Sensor := Tab.get {} c.thm.sensors k
/-- Change the thermal unit. -/
def Dev.onThm (d : Dev) (f : Thermal → Thermal) : Dev := d.onChip fun c => { c with thm := f c.thm }
/-- Change a sensor. -/
def Dev.onSensor (d : Dev) (k : Nat) (f : Sensor → Sensor) : Dev := d.onThm fun t => { t with sensors := Tab.upd {} t.sensors k f }

/-- The rails of a sensor's die are on (R473): a tower's and a stack's while their block is not OFF, a porch die's alike. -/
def Chip.sensorOn (c : Chip) (k : Nat) : Bool :=
  match sensorClass k with
  | some .base =>
    if k < 256 then (c.block (22 + quadOfTower (k / 32))).st ≠ .off
    else if k < 352 then (c.block (22 + quadOfStack ((k - 256) / 8))).st ≠ .off
    else true
  | some .compute => (c.block (k / 32)).st ≠ .off
  | some .pantry => (c.block (k / 32)).st ≠ .off
  | some .cellar => (c.block (8 + (k - 256) / 8)).st ≠ .off
  | some .porch => k = 360 || (c.block (20 + (k - 356) / 2)).st ≠ .off
  | _ => true

/-- The other sensors of a sensor's die that are not FAILED and not OFF. -/
def Chip.dieMates (c : Chip) (k : Nat) : List Nat :=
  sensorList.filter fun j => j ≠ k && sensorDie j = sensorDie k && (c.sensor j).st < 2

/-- The effective temperature of a sensor that is not FAILED (R475). -/
def Sensor.plain (x : Sensor) : Int := if x.st = 1 then x.est + 24 else x.value

/-- The effective temperature of a sensor (R475); none while it is OFF. -/
def Chip.eff (c : Chip) (k : Nat) : Option Int :=
  let x := c.sensor k
  if x.st = 3 then none
  else if x.st < 2 then some x.plain
  else match maxInt ((c.dieMates k).map fun j => (c.sensor j).plain) with
    | some m => some (m + 20)
    | none => (sensorClass k).map fun cl => classTs cl + 20

/-- Every sensor of some die is FAILED (R475). -/
def Chip.dieBlind (c : Chip) : Bool :=
  (c.thm.sensors.filter fun p => p.2.st = 2 && sensorClass p.1 ≠ some .coolant).any fun p =>
    (sensorList.filter fun j => sensorDie j = sensorDie p.1).all fun j => (c.sensor j).st = 2

/-- The highest band among the sensors of a die (R480). -/
def Chip.dieBand (c : Chip) (die : Nat) : Nat :=
  ((c.thm.sensors.filter fun p => sensorDie p.1 = die).map fun p => p.2.band).foldl max 0

/-- The band that a temperature selects from the band in force (R480). -/
def bandOf (b : Nat) (t : Int) : Nat :=
  let up := if 380 ≤ t then 3 else if 340 ≤ t then 2 else if 280 ≤ t then 1 else 0
  let down := if 372 ≤ t then 3 else if 332 ≤ t then 2 else if 272 ≤ t then 1 else 0
  if b < up then up else if down < b then down else b

/-! ## The trip -/

/-- ALERT_N is asserted (R238, R242, R465, R475, R478, R482, R526). -/
def Chip.alert (c : Chip) : Bool :=
  c.thm.tripped || c.dieBlind || c.thm.cool.hot || c.thm.cool.reversed || c.thm.cool.lowFlow || c.pwr.capUn
    || c.light.alert ≠ 0 || !c.light.lost.isEmpty || c.seq.a = .failed || c.seq.b = .failed || c.seq.lost

/-- A trip comparator fires (R478, R479): clocks stop, sources go dark, ports stop carrying, tower and cellar rails turn
off. In a tripped device it is counted and nothing else. -/
def Dev.thermalTrip (d : Dev) (k : Nat) : Dev :=
  let d := d.onThm fun t => { t with trips := satAdd 32 t.trips 1 }
  if d.chip.thm.tripped then d
  else
    let last := (d.chip.sensor k).last
    let d := d.onThm fun t => { t with tripped := true, tripValid := true, tripSensor := k, tripTemp := last, tripFrame := d.chip.frm.cur, coolAt := none }
    let d := d.log3 clsThermal 14 k
    let d := d.onChip fun c => { c with pins := { c.pins with thermTrip := true, pwrGood := false, railsOk := false } }
    let d := (List.range 20).foldl (fun d b => d.onChip fun c => c.setBlock b { c.block b with st := .off }) d
    let d := d.onChip fun c => { c with light := { c.light with srcs := Tab.mapAll {} c.light.srcs fun _ x => if x.st = 4 then x else { x with st := 0, group := 31 } } }
    (List.range 6).foldl (fun d q => if (d.chip.port q).st = 0 then d else d.portTo q 1 0) d

/-- A comparator may fire: every die sensor's, unless the sensor is FAILED and reads open or shorted; a SUSPECT pantry
sensor is compared by its estimate at thresholds (R478). -/
def comparator (k : Nat) (d : Dev) : Dev :=
  let x := d.chip.sensor k
  match sensorClass k with
  | none => d
  | some .coolant => d
  | some cl =>
    if (x.st = 2 ∧ x.openShort) ∨ (cl = .pantry ∧ x.st = 1) then d else d.thermalTrip k

/-! ## Samples and self-checks -/

/-- A sensor fails its self-check: it is FAILED from the next threshold (R473). -/
def Dev.sensorFails (d : Dev) (k : Nat) (openShort : Bool) : Dev :=
  let x := d.chip.sensor k
  if x.st = 2 ∨ x.st = 3 ∨ x.failing then d
  else ((d.onSensor k fun x => { x with failing := true, openShort }).log3 clsThermal 14 k).flag F.THM_INT_STATUS_SENSOR_FAILED

/-- A sample of a sensor; outside -40 °C to 150 °C it fails the self-check (R472, R473). `t`: ns since the last threshold. -/
def sensorSample (k : Nat) (v : Int) (t : Nat) (d : Dev) : Dev :=
  if (sensorClass k).isNone ∨ (d.chip.sensor k).st = 3 then d
  else
    let now := d.chip.frm.time + t
    let d := d.onSensor k fun x => { x with samples := (x.samples.filter fun s => decide (now < s.1 + 1000000)) ++ [(now, v)], last := v }
    if v < -160 ∨ 600 < v then d.sensorFails k false else d

/-- SENSOR_FAILED (R473): the sensor reads open or shorted, or fails another check. -/
def sensorFailed (k : Nat) (openShort : Bool) (d : Dev) : Dev := if (sensorClass k).isNone then d else d.sensorFails k openShort

/-- A sensor becomes SUSPECT (R481). -/
def Dev.suspectNow (d : Dev) (k : Nat) : Dev :=
  ((d.onSensor k fun x => { x with st := 1, fine := 0 }).log3 clsThermal 14 k).flag F.THM_INT_STATUS_SUSPECT

/-- SUSPECT: the running frame is the eighth with the value implausibly low (R481). -/
def suspect (k : Nat) (d : Dev) : Dev :=
  let x := d.chip.sensor k
  if buried k ∧ x.st = 0 ∧ 8 ≤ x.low + 1 then d.suspectNow k else d

/-- SENSOR_OK: the running frame is the 1,024th plausible one (R481). -/
def sensorOk (k : Nat) (d : Dev) : Dev :=
  let x := d.chip.sensor k
  if buried k ∧ x.st = 1 ∧ 1024 ≤ x.fine + 1 then d.onSensor k fun x => { x with st := 0, fine := 0, low := 0 } else d

/-! ## What a threshold does -/

/-- A sensor's rails go on or off; a band decided at the last threshold takes effect; a failure does (R473, R480). -/
def Dev.sensorBegin (d : Dev) (k : Nat) : Dev :=
  let x := d.chip.sensor k
  if !d.chip.sensorOn k then (if x.st = 3 then d else d.onSensor k fun _ => {})
  else d.onSensor k fun x => { x with
    st := if x.st = 3 then 0 else if x.failing then 2 else x.st
    failing := false
    band := x.bandNext }

/-- The value published with the frame that ends: the mean of the samples of the last 1 ms (R472); 4,096 frames with the
same value fail the self-check (R473). -/
def Dev.sensorValue (d : Dev) (now : Nat) (k : Nat) : Dev :=
  let x := d.chip.sensor k
  if x.st = 3 then d
  else
    let ss := x.samples.filter fun s => decide (now < s.1 + 1000000)
    let v := if ss.isEmpty then x.value else ((ss.map Prod.snd).foldl (· + ·) 0) / (ss.length : Int)
    let same := if v = x.value then x.same + 1 else 1
    let d := d.onSensor k fun x => { x with samples := ss, value := v, same := min same 4096 }
    if 4096 ≤ same then d.sensorFails k false else d

/-- The coefficients of a pantry sensor's estimate; the nominal ones where the tower's assembly record is bad (R481, R496). -/
def Dev.thermalCoef (d : Dev) (k : Nat) : Nat × Nat := if k / 32 ∈ d.calFlash.assyBad then (36045, 250) else Config.thermal k

/-- The estimate of a buried sensor, none while a sensor it rests on is OFF (R481). `rowMw`, `stackMw`: powers of row regions and stacks in
the frame, in mW. -/
def Dev.estimate (d : Dev) (rowMw stackMw : Nat → Nat) (k : Nat) : Option Int :=
  let at' (x : Option Int) (y : Option Int) (f : Int → Int → Int) : Option Int := x.bind fun a => y.map (f a)
  if sensorClass k = some .pantry then
    let t := k / 32
    let q := k % 32 - 16
    let u := d.thermalCoef k
    at' (d.chip.eff (32 * t + 20 + q)) (d.chip.eff (32 * t + 5 * q)) fun b c => b + u.1 * (c - b) / 65536 + (u.2 * rowMw (16 * t + 5 * q) * 4 / 1000000 : Nat)
  else
    let m := (k - 256) / 8
    at' (d.chip.eff (256 + 8 * m)) (d.chip.eff (256 + 8 * m + 3)) fun b c =>
      b + (if k % 8 = 1 then 4 else 8) * (c - b) / 16 + ((Config.thermal k).2 * stackMw m * 4 / 1000000 : Nat)

/-- A buried sensor is held against its estimate (R481). -/
def Dev.sensorPlausible (d : Dev) (rowMw stackMw : Nat → Nat) (k : Nat) : Dev :=
  let x := d.chip.sensor k
  if !buried k ∨ x.st = 3 then d
  else match d.estimate rowMw stackMw k with
  | none => d
  | some e =>
    let low := decide (x.value + 24 < e)
    let fine := decide (e ≤ x.value + 12)
    let d := d.onSensor k fun x => { x with est := e, low := if low then min (x.low + 1) 8 else 0, fine := if fine then min (x.fine + 1) 1024 else 0 }
    let y := d.chip.sensor k
    let d := if y.st = 0 ∧ 8 ≤ y.low then d.suspectNow k
      else if y.st = 1 ∧ 1024 ≤ y.fine then d.onSensor k fun x => { x with st := 0, fine := 0, low := 0 } else d
    if sensorClass k = some .pantry ∧ (d.chip.sensor k).st = 1 ∧ classTt .pantry ≤ e + 24 then d.thermalTrip k else d

/-- The next band of a sensor; THM_PEAK (R480, R484). -/
def Dev.sensorBand (d : Dev) (k : Nat) : Dev :=
  match d.chip.eff k with
  | none => d
  | some t =>
    if sensorClass k = some .coolant then d
    else (d.onSensor k fun x => { x with bandNext := bandOf x.band t }).observe F.THM_PEAK (ofSigned 16 t)

/-- An episode of a scope is judged (R476). `mean`: each scope's mean power over the last 10 ms, 0.1 W for towers, W for the module. -/
def Dev.episode (d : Dev) (mean : Nat → Nat) (scope : Nat) : Dev :=
  let ks := sensorList.filter fun k => sensorScope k = some scope
  let margins := ks.filterMap fun k => (d.chip.eff k).bind fun t => (sensorClass k).map fun cl => t - classTs cl
  let e := Tab.get {} d.chip.thm.episodes scope
  let hot := margins.any fun x => decide (0 ≤ x)
  let cold := margins.all fun x => decide (x < -8)
  let excess := ((maxInt margins).getD 0).toNat
  let ceiling (p : Nat) : Nat := p * (100 - min 100 excess) / 100
  let put (x : Episode) : Dev := d.onThm fun t => { t with episodes := Tab.put {} t.episodes scope x }
  if e.active then
    if cold then (put {}).flag F.THM_INT_STATUS_THROTTLE_OFF else put { e with ceil := ceiling e.pref }
  else if hot then
    let p := mean scope
    ((put { active := true, pref := p, ceil := ceiling p }).flag F.THM_INT_STATUS_THROTTLE_ON).log3 clsThermal 14
      ((ks.find? fun k => ((d.chip.eff k).bind fun t => (sensorClass k).map fun cl => decide (classTs cl ≤ t)) = some true).getD 0)
  else d

/-- While tripped: the temperature that a sensor counts at, none where it is not counted (R479). -/
def Chip.tripTemp (c : Chip) (k : Nat) : Option Int :=
  let val (j : Nat) : Option Int := if (c.sensor j).st = 2 ∨ (c.sensor j).st = 3 then none else some (c.sensor j).value
  match sensorClass k with
  | some .compute => maxInt ((List.range 4).filterMap fun q => val (k / 32 * 32 + 20 + q))
  | some .pantry => maxInt ((List.range 4).filterMap fun q => val (k / 32 * 32 + 20 + q))
  | some .cellar => val (k / 8 * 8 + 4)
  | some .coolant => none
  | _ => val k

/-- Since when every counted sensor has read below 70 °C (R479). -/
def Dev.coolDown (d : Dev) (now : Nat) : Dev :=
  if !d.chip.thm.tripped then d
  else
    let cool := sensorList.all fun k => (d.chip.tripTemp k).all fun t => decide (t < 280)
    d.onThm fun t => { t with coolAt := if cool then some (t.coolAt.getD now) else none }

/-- The thermal unit at a threshold (R472 to R481): sensors, plausibility, bands, episodes. `rowMw`, `stackMw`: powers of row regions and
stacks in the frame; `mean`: the scopes' mean powers over the last 10 ms. -/
def Dev.thermalThreshold (d : Dev) (rowMw stackMw mean : Nat → Nat) : Dev :=
  let now := d.chip.endTime
  let was := d.chip
  let d := sensorList.foldl Dev.sensorBegin d
  let d := if (sensorList.map sensorDie).eraseDups.any fun x => was.dieBand x ≠ d.chip.dieBand x then d.flag F.THM_INT_STATUS_BAND_CHANGE else d
  let d := sensorList.foldl (fun d k => d.sensorValue now k) d
  let d := sensorList.foldl (fun d k => d.sensorPlausible rowMw stackMw k) d
  let d := sensorList.foldl Dev.sensorBand d
  let d := (List.range 9).foldl (fun d k => d.episode mean k) d
  let d := if d.chip.thm.episodes.any fun e => e.2.active then d.count F.THM_THROTTLE_FRAMES else d
  d.coolDown now

/-! ## Coolant -/

/-- The coolant rating in W for an inlet temperature (R39, R482). -/
def coolRating (inlet : Int) : Nat := if inlet ≤ 180 then 1500 else max 650 (1500 - 15 * (inlet - 180).toNat)

/-- The flow estimate in 0.01 L/min (R482); 0 where it is not computed. -/
def coolFlow (glycol : Bool) (p : Nat) (dt : Int) : Nat :=
  if p < 600 ∨ dt ≤ 0 then 0 else 24000 * p / ((if glycol then 3980 else 4170) * dt.toNat)

/-- Since when a condition has held. -/
def sinceWhen (old : Option Nat) (now : Nat) (holds : Bool) : Option Nat := if holds then some (old.getD now) else none

/-- A condition has held for `n` ms. -/
def heldFor (x : Option Nat) (now n : Nat) : Bool := x.any fun t => decide (t + msNs n ≤ now)

/-- COOLANT_CHECK (R482): 1 s means of inlet and outlet and of the input power in W. -/
def coolantCheck (inlet outlet : Int) (p : Nat) (d : Dev) : Dev :=
  let now := d.chip.frm.time
  let x := d.chip.thm.cool
  let dt := outlet - inlet
  let flow := coolFlow (d.chip.fld F.THM_CTL_FLUID = 1) p dt
  let revAt := sinceWhen x.revAt now (decide (dt < -4) && decide (300 ≤ p))
  let fwdAt := sinceWhen x.fwdAt now (decide (4 < dt))
  let lowAt := sinceWhen x.lowAt now (decide (0 < flow) && decide (flow < 220))
  let highAt := sinceWhen x.highAt now (decide (230 ≤ flow))
  let reversed := if x.reversed then !heldFor fwdAt now 10000 else heldFor revAt now 1000
  let lowFlow := if x.lowFlow then !heldFor highAt now 10000 else heldFor lowAt now 10000
  let hot := if x.hot then decide (206 ≤ inlet) else decide (208 < inlet)
  let rating := if reversed then min 1080 (coolRating (max inlet outlet)) else coolRating inlet
  let d := d.onThm fun t => { t with cool := { inlet, outlet, flow, rating, hot, reversed, lowFlow, revAt, fwdAt, lowAt, highAt } }
  let d := if hot && !x.hot then d.flag F.THM_INT_STATUS_COOLANT_HOT else d
  let d := if reversed && !x.reversed then d.flag F.THM_INT_STATUS_REVERSED else d
  if lowFlow && !x.lowFlow then d.flag F.THM_INT_STATUS_LOW_FLOW else d

open Host

/-- SENSOR_SAMPLE (R472). `t`: ns since the last threshold. -/
def execSensorSample (k : Nat) (v : Int) (t : Nat) (s : State) : Outcome State Fault Refusal := runs s (sensorSample k v t)

/-- SENSOR_FAILED (R473). -/
def execSensorFailed (k : Nat) (openShort : Bool) (s : State) : Outcome State Fault Refusal := runs s (sensorFailed k openShort)

/-- SUSPECT (R481). -/
def execSuspect (k : Nat) (s : State) : Outcome State Fault Refusal := runs s (suspect k)

/-- SENSOR_OK (R481). -/
def execSensorOk (k : Nat) (s : State) : Outcome State Fault Refusal := runs s (sensorOk k)

/-- THERMAL_TRIP (R478). -/
def execThermalTrip (k : Nat) (s : State) : Outcome State Fault Refusal := runs s (comparator k)

/-- COOLANT_CHECK (R482). -/
def execCoolantCheck (inlet outlet : Int) (p : Nat) (s : State) : Outcome State Fault Refusal := runs s (coolantCheck inlet outlet p)

end Sys2Proof.Machine
end

