-- ==== Sys2Proof/Machine/Power.lean ====
section
/-! DEFINITION. Clocks and power (R446 to R470): row frequencies, droop and slips, the reference clock, the limit in
force, idle frames, the phase ledger, energy accounts. Frequencies are in units of 10 MHz. -/

namespace Sys2Proof.Machine

/-- Change the power unit. -/
def Dev.onPwr (d : Dev) (f : Power → Power) : Dev := d.onChip fun c => { c with pwr := f c.pwr }

/-! ## Row clocks -/

/-- The guard margin of a tower's rows, in units of 0.1 %, by the band of the compute die (R449). -/
def Chip.guard (c : Chip) (tower : Nat) : Nat :=
  match c.dieBand (tower * 32) with
  | 0 | 1 => 20
  | 2 => 25
  | _ => 30

/-- A required frequency, rounded up (R449). -/
def requiredFreq (floorMhz guard : Nat) : Nat := (floorMhz * (1000 + guard) + 9999) / 10000

/-- The required frequency of a row (R449). -/
def Chip.freqReq (c : Chip) (row : Nat) : Nat :=
  match (c.row row).room.bind c.image with
  | some i => requiredFreq i.floor (c.guard (row / 16))
  | none => 80

/-- The maximum frequency of a row region: the lowest FMAX of the cores that carry logical cores (R450). -/
def Chip.fmaxRow (c : Chip) (row : Nat) : Nat :=
  ((List.range 16).map (c.physCore row)).foldl (fun m k => if (Tab.get {} c.tow.pos k).st = 0 then min m (c.fmaxOf k) else m) 220

/-- The committed frequency of a row. -/
def Chip.freq (c : Chip) (row : Nat) : Nat := (Tab.get {} c.pwr.rows row).freq

/-- Change a row's clock. -/
def Dev.onRowClk (d : Dev) (row : Nat) (f : RowClk → RowClk) : Dev := d.onPwr fun p => { p with rows := Tab.upd {} p.rows row f }

/-- The running frame is a cross-check frame, for which free rows run at 1.2 GHz (R428, R461). -/
def Chip.crossFrame (c : Chip) : Bool :=
  c.fld F.ERR_XCHK_CTL_EN = 1 && decide (2 ≤ c.freeRows.length) && (match c.integ.xLast with
    | none => true
    | some f => decide (c.fld F.ERR_XCHK_CTL_PERIOD ≤ frameSub c.frm.cur f))

/-- The committed frequencies at threshold `m` (R449, R450, R454, R461, R464): changes that fall due, within the required
and the maximum frequency. -/
def Dev.rowFreqs (d : Dev) (m : Nat) : Dev :=
  let cross := d.chip.crossFrame
  (List.range 128).foldl (fun d w =>
    let c := d.chip
    let x := Tab.get {} c.pwr.rows w
    let req := c.freqReq w
    let new := ((x.next.find? fun p => p.2 = m).map Prod.fst).getD x.freq
    let f := if (c.row w).room.isNone then (if cross then 120 else 80)
      else if 0 < c.pwr.idleK then req
      else max req (min (c.fmaxRow w) new)
    d.onRowClk w fun x => { x with freq := f, next := x.next.filter fun p => p.2 ≠ m }) d

/-- DROOP (R451): the row's oscillator stretches, and the row loses so many cycles. -/
def droop (row lost : Nat) (d : Dev) : Dev :=
  if 128 ≤ row then d
  else (d.count F.PWR_STRETCHES).onRowClk row fun x => { x with loss := satAdd 8 x.loss lost }

/-- CROSSING_SLIP (R456): sends whose data was in the FIFO go out with inverted parity, received slots are rejected; no line
is charged. Each place is (corridor, lane, slot). -/
def crossingSlip (row : Nat) (sends receives : List (Nat × Nat × Nat)) (d : Dev) : Dev :=
  if 128 ≤ row then d
  else
    let d := ((d.count F.PWR_SLIPS).log3 clsSlip 2 row).chanErr 4 row
    let d := d.onHall fun h => { h with slipped := h.slipped ++ sends }
    receives.foldl (fun d x =>
      match d.chip.placeAt x.1 x.2.1 x.2.2, (d.chip.bundle x.1).lineOf x.2.1 with
      | some p, some line => d.rejectSlot p p.run.dest x.2.1 line false none
      | _, _ => d) d

/-- FMAX_MEASURE (R452, R453): in a hold frame of the core's room, or on a free row, the replicas of a core are measured. -/
def fmaxMeasure (core measured : Nat) (d : Dev) : Dev :=
  let row := core / 32
  let ok := match (d.chip.row row).room with
    | some r => (d.chip.room r).hold || d.chip.frm.idle
    | none => true
  if 4096 ≤ core ∨ 17 ≤ core % 32 ∨ !ok then d
  else
    let v := min (Tab.get 220 d.calFlash.fmax core) (measured % 256)
    d.onTow fun t => { t with fmaxDue := (t.fmaxDue.filter fun p => p.1 ≠ core) ++ [(core, v)] }

/-! ## The reference clock -/

/-- REFCLK_LOST (R457): holdover begins and alignment is suspended (R61, R63). -/
def refclkLost (d : Dev) : Dev :=
  if d.chip.pwr.holdover && !d.chip.pwr.relocking then d
  else
    let d := d.onPwr fun p => { p with refclkOk := false, holdover := true, relocking := false }
    let d := d.onChip fun c => { c with frm := { c.frm with sync := { c.frm.sync with
      st := if c.frm.sync.st = .off then .off else .holdover
      good := 0
      quarLeft := 0
      came := c.frm.sync.came || c.frm.sync.seen
      cameNext := c.frm.sync.cameNext || c.frm.sync.seenNext
      seen := false
      seenNext := false
      stepNext := 0 } } }
    ((d.count F.PWR_REFCLK_LOSSES).flag F.PWR_INT_STATUS_REFCLK_LOST).log3 clsPower 0 0

/-- REFCLK_BACK (R458): REFCLK has been good for 100 µs; the PLLs pull back to it. -/
def refclkBack (d : Dev) : Dev :=
  d.onPwr fun p => { p with refclkOk := true, relocking := p.holdover }

/-- HOLDOVER_END (R458): the PLLs are locked; alignment leaves HOLDOVER (R63). -/
def holdoverEnd (d : Dev) : Dev :=
  if d.chip.pwr.holdover && d.chip.pwr.relocking then
    let d := d.onPwr fun p => { p with holdover := false, relocking := false }
    let d := d.onChip fun c => { c with frm := { c.frm with sync := { c.frm.sync with
      st := if c.frm.sync.st = .holdover then .acquiring else c.frm.sync.st } } }
    d.flag F.PWR_INT_STATUS_REFCLK_BACK
  else d

/-! ## The limit and idle frames -/

/-- The thermal ceiling on input power: the module's episode (R459, R476). -/
def Chip.thermalCeil (c : Chip) : Nat :=
  let e := Tab.get {} c.thm.episodes 8
  if e.active then e.ceil else 1500

/-- The limit in force, in W (R459). -/
def Chip.limit (c : Chip) : Nat := min (min (c.fld F.PWR_CAP_CAP_W) c.thm.cool.rating) (min c.thermalCeil 1500)

/-- What sets it: 0 the cap, 1 the coolant, 2 the thermal ceiling, 3 the envelope, which reset names at 1,500 W. -/
def Chip.limitSrc (c : Chip) : Nat :=
  let l := c.limit
  if l = 1500 then 3 else if c.fld F.PWR_CAP_CAP_W = l then 0 else if c.thm.cool.rating = l then 1 else 2

/-- Every row of every loaded room is at its required frequency. -/
def Chip.atFloor (c : Chip) : Bool :=
  (List.range 128).all fun w => (c.row w).room.isNone || c.freq w = c.freqReq w

/-- CAP_WRITE (R459, R469): by the PF, or through WRITE_REG. -/
def capWrite (r : Requester) (t w : Nat) (d : Dev) : Dev :=
  if (vfRoom r).isSome then d
  else if 650 ≤ w ∧ w ≤ 1500 then d.stageFld r t F.PWR_CAP_CAP_W w
  else d.flag F.PWR_INT_STATUS_BAD_WRITE

/-- STAGGER_WRITE (R463): judged when it takes effect. -/
def staggerWrite (r : Requester) (t : Nat) (always : Bool) (waves cycles : Nat) (d : Dev) : Dev :=
  if !isPf r then d
  else d.stage r t F.PWR_STAGGER_ALWAYS.key (F.PWR_STAGGER_ALWAYS.mask + F.PWR_STAGGER_WAVES.mask + F.PWR_STAGGER_CYCLES.mask)
    (b2n always * 2 ^ 31 + waves % 32 * 2 ^ 16 + cycles % 256)

/-- A write of PWR_STAGGER takes effect only with no room loaded and with 1 to 16 waves; otherwise it is a bad write (R463,
R469). -/
def effectStagger (mask value : Nat) (d : Dev) : Dev :=
  let k := F.PWR_STAGGER_ALWAYS.key
  let v := ((d.chip.reg k).toNat &&& (2 ^ 32 - 1 - mask)) ||| value
  let waves := bitsOf v 16 5
  if !d.chip.loadedRooms.isEmpty ∨ waves = 0 ∨ 16 < waves then d.flag F.PWR_INT_STATUS_BAD_WRITE
  else d.onChip fun c => c.setReg k (BitVec.ofNat 32 v)

/-! ## The ledger -/

/-- The dynamic activity, in mW per GHz·V², of a tower that draws `w` watts with its sixteen rows at 1.9 GHz and 0.82 V
(R448, R460). -/
def activityOf (w : Nat) : Nat := w * 100000000 / 2044096

/-- The towers of a room. -/
def Image.towers (i : Image) : List Nat := (i.rows.map (· / 16)).eraseDups

/-- A ledger entry of a key. -/
def LedgerE.isFor (e : LedgerE) (r slot phase tower : Nat) : Bool := e.room = r && e.slot = slot && e.phase = phase && e.tower = tower

/-- A learned value moves towards a measured one with weight 2^-SHIFT (R460). -/
def learn (shift old new : Nat) : Nat := if old ≤ new then old + (new - old) / 2 ^ shift else old - (old - new) / 2 ^ shift

/-- FORGET (R469): staged; every entry is cleared when it takes effect. -/
def forgetWrite (r : Requester) (t : Nat) (d : Dev) : Dev := if isPf r then d.stageFld r t F.PWR_LEDGER_CTL_FORGET 1 else d

/-- Every ledger entry is cleared. -/
def effectForget (d : Dev) : Dev := d.onPwr fun p => { p with ledger := [] }

/-! ## Energy -/

/-- The account of a room. -/
def Chip.account (c : Chip) (r : Nat) : Account := Tab.get {} c.pwr.accounts r

/-- JOB_MARK (R467, R469): staged, by the PF or the room's own VF. -/
def jobMark (r : Requester) (room t : Nat) (d : Dev) : Dev :=
  if roomWriter r room then d.stageFld r t F.PWR_ROOM_CTL_JOB_MARK 1 room else d

/-- A job mark takes effect at threshold N: the job's energy up to frame N-1 moves into LAST (R467). -/
def effectJobMark (room : Nat) (d : Dev) : Dev :=
  d.onPwr fun p => { p with accounts := Tab.upd {} p.accounts room fun x => { x with last := x.job, job := 0, jobFrames := 0 } }

/-- Lifetime energy in J and powered time in s (R468). -/
def Chip.lifeEnergy (c : Chip) : Nat := c.pwr.lifeBase + c.pwr.energy / 1000000000
def Chip.lifeTime (c : Chip) : Nat := c.pwr.lifeSecs + c.frm.time / 1000000000

/-- A lifetime checkpoint goes into the record that does not hold the higher sequence number (R468). -/
def Dev.checkpoint (d : Dev) : Dev :=
  let seq (x : Option (Nat × Nat × Nat)) : Nat := (x.map fun y => y.1 + 1).getD 0
  let a := seq d.calFlash.eng0
  let b := seq d.calFlash.eng1
  let e := some (max a b, d.chip.lifeEnergy, d.chip.lifeTime)
  if a ≤ b then { d with calFlash := { d.calFlash with eng0 := e } } else { d with calFlash := { d.calFlash with eng1 := e } }

/-- ENERGY_CHECKPOINT (R16, R468), every 2^28 frames, by M's firmware. -/
def energyCheckpoint (d : Dev) : Dev := if d.chip.mRuns ∧ d.chip.frm.cur % 2 ^ 28 = 0 then d.checkpoint else d

/-- What M knows of lifetime energy when it starts (R468). -/
def Dev.lifeStart (d : Dev) : Dev :=
  let best := match d.calFlash.eng0, d.calFlash.eng1 with
    | some x, some y => if x.1 < y.1 then some y else some x
    | some x, none => some x
    | none, y => y
  match best with
  | some x => d.onPwr fun p => { p with lifeBase := x.2.1, lifeSecs := x.2.2 }
  | none => d.onPwr fun p => { p with lifeInvalid := true }

/-- The rows begin a frame without stretch loss. -/
def Dev.clearLoss (d : Dev) : Dev := d.onPwr fun p => { p with rows := Tab.mapAll {} p.rows fun _ x => { x with loss := 0 } }

open Host

/-- DROOP (R451). -/
def execDroop (row lost : Nat) (s : State) : Outcome State Fault Refusal := runs s (droop row lost)

/-- CROSSING_SLIP (R456). -/
def execCrossingSlip (row : Nat) (sends receives : List (Nat × Nat × Nat)) (s : State) : Outcome State Fault Refusal :=
  runs s (crossingSlip row sends receives)

/-- FMAX_MEASURE (R452). `measured` in units of 10 MHz. -/
def execFmaxMeasure (core measured : Nat) (s : State) : Outcome State Fault Refusal := runs s (fmaxMeasure core measured)

/-- REFCLK_LOST (R457). -/
def execRefclkLost (s : State) : Outcome State Fault Refusal := runs s refclkLost

/-- REFCLK_BACK (R458). -/
def execRefclkBack (s : State) : Outcome State Fault Refusal := runs s refclkBack

/-- HOLDOVER_END (R458). -/
def execHoldoverEnd (s : State) : Outcome State Fault Refusal := runs s holdoverEnd

/-- CAP_WRITE (R459). `t`: ns since the last threshold. -/
def execCapWrite (r : Requester) (t w : Nat) (s : State) : Outcome State Fault Refusal := runsM s (capWrite r t w)

/-- STAGGER_WRITE (R463). `t`: ns since the last threshold. -/
def execStaggerWrite (r : Requester) (t : Nat) (always : Bool) (waves cycles : Nat) (s : State) : Outcome State Fault Refusal :=
  runsM s (staggerWrite r t always waves cycles)

/-- JOB_MARK (R467). `t`: ns since the last threshold. -/
def execJobMark (r : Requester) (room t : Nat) (s : State) : Outcome State Fault Refusal := runsM s (jobMark r room t)

/-- FORGET (R469). `t`: ns since the last threshold. -/
def execForget (r : Requester) (t : Nat) (s : State) : Outcome State Fault Refusal := runsM s (forgetWrite r t)

/-- ENERGY_CHECKPOINT (R468). -/
def execEnergyCheckpoint (s : State) : Outcome State Fault Refusal := runs s energyCheckpoint

end Sys2Proof.Machine
end

