-- ==== Sys2Proof/Machine/Calib.lean ====
section
/-! DEFINITION. Calibration (R486 to R498, R501): triggers, runs, judging and stepping, records in flash, bonds. -/

namespace Sys2Proof.Machine

/-! ## Kinds and units -/

/-- The units of a kind, 1 RING to 8 FMAX (R486, R495). -/
def calUnits (kind : Nat) : Nat :=
  match kind with
  | 1 | 2 | 3 => 23
  | 4 => 2
  | 5 => 12
  | 6 => 6
  | 7 | 8 => 8
  | _ => 0

/-- A calibrated unit. -/
def Chip.calUnit (c : Chip) (kind unit : Nat) : CalUnit := Tab.get {} c.cal.units (calKey kind unit)
/-- Change a calibrated unit. -/
def Dev.onUnit (d : Dev) (kind unit : Nat) (f : CalUnit → CalUnit) : Dev :=
  d.onCal fun c => { c with units := Tab.upd {} c.units (calKey kind unit) f }

/-- The governing sensors of a unit, the hottest of which counts (R486). -/
def calSensors (kind unit : Nat) : List Nat :=
  match kind with
  | 1 | 2 | 3 => tileSensors unit
  | 4 => [352 + 2 * unit, 353 + 2 * unit]
  | 5 => [256 + 8 * unit]
  | 6 => [356 + 2 * portDie unit, 357 + 2 * portDie unit]
  | _ => tileSensors unit

/-- The governing temperature of a unit, in 0.25 K. -/
def Chip.calTemp (c : Chip) (kind unit : Nat) : Int :=
  (maxInt (((calSensors kind unit).filter fun k => (c.sensor k).st < 2).map fun k => (c.sensor k).value)).getD 0

/-- The trigger delta of a kind, in K (R486). -/
def Chip.calDelta (c : Chip) (kind : Nat) : Nat :=
  match kind with
  | 1 => c.fld F.CAL_TRIG0_RING
  | 2 => c.fld F.CAL_TRIG0_MODBIAS
  | 3 => c.fld F.CAL_TRIG0_RXTHR
  | 4 => c.fld F.CAL_TRIG0_LASER
  | 5 => c.fld F.CAL_TRIG1_CELPHY
  | 6 => c.fld F.CAL_TRIG1_JEQ
  | _ => c.fld F.CAL_TRIG1_VREG

/-- The block that a unit belongs to, where GLB_BSTATE numbers it. -/
def calBlock (kind unit : Nat) : Option Nat :=
  match kind with
  | 1 | 2 | 3 => blockOfEndpoint unit
  | 5 => some (8 + unit)
  | 6 => some (20 + portDie unit)
  | 7 | 8 => some unit
  | _ => none

/-- The unit carries traffic: its block has reported READY (R490). -/
def Chip.calLive (c : Chip) (kind unit : Nat) : Bool :=
  match calBlock kind unit with
  | some b => (c.block b).up
  | none => c.frm.begun

/-- The temperature trigger of a unit has come (R486). -/
def Chip.calTriggered (c : Chip) (kind unit : Nat) : Bool :=
  let u := c.calUnit kind unit
  1 ≤ kind && decide (kind ≤ 7) && decide (unit < calUnits kind) && bitOf (c.fld F.CAL_CTL_EN) (kind - 1) && c.calLive kind unit && !u.running
    && u.ran && decide (4 * c.calDelta kind ≤ (c.calTemp kind unit - u.temp).natAbs)

/-! ## Starting a run -/

/-- RUN (R486). -/
def calRun (kind unit : Nat) (cause : RunCause) (d : Dev) : Dev :=
  if kind = 0 ∨ 8 ≤ kind ∨ calUnits kind ≤ unit then d
  else match cause with
    | .temperature => if d.chip.calTriggered kind unit then d.calStart kind unit else d
    | .event => d.calStart kind unit
    | .write r t => if isPf r then d.stageFld r t F.CAL_CTL_RUN (2 ^ (kind - 1)) else d

/-- A write of CAL_CTL.RUN takes effect: the kinds run on every unit (R504). -/
def effectRun (mask : Nat) (d : Dev) : Dev :=
  (((List.range 7).map (· + 1)).filter fun k => bitOf mask (k - 1)).foldl (fun d k =>
    (List.range (calUnits k)).foldl (fun d u => d.calStart k u) d) d

/-- Temperature triggers at a threshold. -/
def Dev.calTriggers (d : Dev) : Dev :=
  ((List.range 7).map (· + 1)).foldl (fun d k => (List.range (calUnits k)).foldl (fun d u =>
    if d.chip.calTriggered k u then d.calStart k u else d) d) d

/-! ## Judging a set -/

/-- A list cut into elements of `n`. -/
def elements (n : Nat) (l : List Int) : List (List Int) := (List.range (l.length / n)).map fun i => (l.drop (n * i)).take n

/-- A value lies within `p` percent of its base. -/
def within (p : Nat) (x base : Int) : Bool := decide ((x - base).natAbs * 100 ≤ p * base.natAbs)

/-- A slope of a ring's heater lies within 8 to 20 GHz/K, or as far again from the middle of that range while nominal values are in use
(R489, R496; log 133). Slopes are in 0.01 code/K; a gigahertz is `Config.calStep 1` codes. -/
def slopeOk (m : Nat) (slope : Int) : Bool :=
  let g : Int := 100 * (max 1 (Config.calStep 1) : Nat)
  decide ((14 - 6 * m) * g ≤ slope) && decide (slope ≤ (14 + 6 * m) * g)

/-- The plausible limits that the values themselves show (R489); `m` is 2 while nominal values are in use (R496). -/
def calPlausible (kind m : Nat) (base new : List Int) : Bool :=
  let pairs (n : Nat) : List (List Int × List Int) := (elements n new).zip (elements n base)
  match kind with
  | 1 => (pairs 4).all fun p => within (15 * m) (p.1.getD 0 0) (p.2.getD 0 0) && slopeOk m (p.1.getD 1 0)
  | 2 => (pairs 2).all fun p => within (20 * m) (p.1.getD 0 0) (p.2.getD 0 0)
  | 3 => (pairs 4).all fun p => decide (p.1.getD 0 0 < p.1.getD 1 0) && decide (p.1.getD 1 0 < p.1.getD 2 0)
      && (List.range 3).all fun i => decide ((p.1.getD i 0 - p.2.getD i 0).natAbs ≤ 12 * m)
  | 4 => (elements 22 new).all fun e => decide (80 ≤ e.getD 0 0) && decide (e.getD 0 0 ≤ 200)
  | 5 => (new.zip base).all fun p => decide ((p.1 - p.2).natAbs ≤ 16 * m)
  | 7 => (elements 2 new).all fun e => decide ((e.getD 0 0).natAbs ≤ 30 * m)
  | _ => true

/-- The set that a run gives: the reference powers of a LASER set are those in force, but for the start-up run of a unit on nominal values,
which measures them (R495, R496). -/
def CalUnit.newSet (u : CalUnit) (kind : Nat) (values : List Int) : List Int :=
  if kind = 4 ∧ (u.source ≠ 3 ∨ u.ran) then values.zipIdx.map fun p => if 4 ≤ p.2 % 22 then u.cur.getD p.2 p.1 else p.1 else values

/-- A set is judged and, if plausible, goes into force from the first threshold at least 256 ns ahead (R489 to R491). -/
def calRunDone (kind unit : Nat) (values : List Int) (temp : Int) (limits : Bool) (left : Nat) (d : Dev) : Dev :=
  let u := d.chip.calUnit kind unit
  let values := u.newSet kind values
  if !u.running ∨ (kind = 5 ∧ Tab.get 0 d.chip.cal.phyLeft unit ≠ 0) ∨ d.chip.thm.tripped then d
  else
    let d := d.count F.CAL_RUNS
    let d := d.onUnit kind unit fun u => { u with running := false, ran := true, temp }
    if limits && calPlausible kind (if u.source = 3 then 2 else 1) u.base values then
      d.onUnit kind unit fun u => { u with goal := some values, due := if u.goal.isSome then nextFrame d.chip.frm.cur else d.chip.actsAt left }
    else
      let d := d.onUnit kind unit fun u => { u with rejects := satAdd 10 u.rejects 1 }
      ((d.count F.CAL_REJECTS).flag F.CAL_INT_STATUS_IMPLAUSIBLE).log { cls := clsCalibration, kind := 0, index := 0, detail := leBytes 1 kind ++ leBytes 2 unit }

/-! ## Stepping -/

/-- One value moves by at most `n` towards its goal. -/
def toward (n : Nat) (x goal : Int) : Int := if x < goal then min goal (x + n) else max goal (x - n)

/-- The largest step of value `i` of a kind's set at one threshold; none for a value without an analogue setting (R489,
R490). -/
def calStepOf (kind i : Nat) : Option Nat :=
  match kind with
  | 1 => if i % 4 = 0 then some (max 1 (Config.calStep 1)) else none
  | 2 => some (max 1 (Config.calStep 2))
  | 3 => some 1
  | 4 => if i % 22 = 0 then some 1 else none
  | 6 => some 1
  | 7 => if i % 2 = 0 then some 2 else none
  | _ => none

/-- One step of a set towards its goal. -/
def calStepSet (kind : Nat) (cur goal : List Int) : List Int :=
  goal.zipIdx.map fun p => match calStepOf kind p.2, cur[p.2]? with
    | some n, some x => toward n x p.1
    | _, _ => p.1

/-- A set has reached its goal at threshold `m`: APPLIED, and its record is to be written (R490, R493). -/
def Dev.calApplied (d : Dev) (kind unit m : Nat) : Dev :=
  let d := d.onUnit kind unit fun u => { u with goal := none, valid := true, frame := m, record := true }
  let done (k : Nat) (x : Ring) : Ring := if ringEndpoint k = unit then { x with retable := false } else x
  let d := if kind = 1 then d.onLight fun l => { l with rings := Tab.mapAll {} l.rings done } else d
  let d := if kind = 4 then (List.range 15).foldl (fun d k => d.onSrc (unit * 15 + k) fun x => { x with raised := false }) d else d
  d.flag F.CAL_INT_STATUS_APPLIED

/-- The DRIVE values of a laser die's set act on its ACTIVE sources (R489, R495). -/
def Dev.laserDrive (d : Dev) (die : Nat) (set : List Int) : Dev :=
  (List.range 15).foldl (fun d k =>
    if (d.chip.src (die * 15 + k)).st = 3 then d.onSrc (die * 15 + k) fun x => { x with drive := (set.getD (22 * k) 0).toNat } else d) d

/-- Ports begin to walk to the preset in force (R492). -/
def Dev.walkPorts (d : Dev) (qs : List Nat) : Dev := d.onCal fun c => { c with walk := c.walk ++ qs.filter fun q => !c.walk.contains q }

/-- The channel of value `i` of a unit's set is retired (R491, R495): a line or its ring, a latch, a source, both slices of a cellar channel, a
receive lane, a row. -/
def Chip.channelGone (c : Chip) (kind unit : Nat) : Nat → Bool :=
  let bs := bundlesOf unit
  let line (e : Nat) : Bool :=
    let b := bs.getD (e / 18) 0
    (c.bundle b).lineRetired (e % 18) || (Tab.get {} c.light.rings (b * 18 + e % 18) : Ring).st = 4
  match kind with
  | 1 => fun i => if i / 4 < 18 * bs.length then line (i / 4) else (c.latch unit ((i / 4 - 18 * bs.length) / 2)).retired
  | 2 => fun i => line (i / 2)
  | 3 => fun i => (c.latch unit (i / 4)).retired
  | 4 => fun i => (c.src (unit * 15 + i / 22)).st = 4
  | 5 => fun i => (c.slice (unit * 64 + 2 * (i / 68))).retired && (c.slice (unit * 64 + 2 * (i / 68) + 1)).retired
  | 6 => fun i => bitOf (c.port unit).retired (i / 32)
  | 7 => fun i => decide (i / 2 < 16) && (c.row (unit * 16 + i / 2)).st = 2
  | _ => fun _ => false

/-- The values of a set that are not dropped with their channels (R491). -/
def Chip.liveGoal (c : Chip) (kind unit : Nat) (cur goal : List Int) : List Int :=
  let gone := c.channelGone kind unit
  goal.zipIdx.map fun p => if gone p.2 then cur.getD p.2 p.1 else p.1

/-- Every set that is being stepped in moves at threshold `m` (R490, R491): at once where the unit carries no traffic. -/
def Dev.calSteps (d : Dev) (m : Nat) : Dev :=
  (d.chip.cal.units.filter fun p => p.2.goal.isSome && !frameLater p.2.due m).foldl (fun d p =>
    let kind := p.1 / 64
    let unit := p.1 % 64
    match p.2.goal with
    | none => d
    | some g =>
      let g := d.chip.liveGoal kind unit p.2.cur g
      let new := if d.chip.calLive kind unit && kind ≠ 5 then calStepSet kind p.2.cur g else g
      let d := d.onUnit kind unit fun u => { u with cur := new }
      let d := if kind = 4 then d.laserDrive unit new else if kind = 6 then d.walkPorts [unit] else d
      if new = g then d.calApplied kind unit m else d) d

/-- A unit reset or a trip abandons the stepping and the run; the record is left as it was (R491). -/
def Dev.calAbandon (d : Dev) (kind unit : Nat) : Dev :=
  d.onUnit kind unit fun u => { u with goal := none, running := false }

/-- Every run and stepping is abandoned (R491). -/
def Dev.calAbandonAll (d : Dev) : Dev :=
  d.onCal fun c => { c with units := Tab.mapAll {} c.units fun _ u => { u with goal := none, running := false } }

/-- The units of a block. -/
def calOfBlock (b : Nat) : List (Nat × Nat) :=
  ((List.range 7).map (· + 1)).flatMap fun k => ((List.range (calUnits k)).filter fun u => calBlock k u = some b).map fun u => (k, u)

/-! ## Equaliser presets -/

/-- The preset of a port for a band: 16 lanes of 8 taps (R492, R495). -/
def Chip.preset (c : Chip) (q band : Nat) : List Int :=
  (elements 32 (c.calUnit 6 q).cur).flatMap fun lane => (lane.drop (8 * band)).take 8

/-- Ports walk to the preset of their die's new band, one tap per threshold (R492). -/
def Dev.equalisers (d : Dev) (changed : List Nat) : Dev :=
  let d := d.walkPorts ((List.range 6).filter fun q => portDie q ∈ changed)
  d.chip.cal.walk.foldl (fun d q =>
    let goal := d.chip.preset q (d.chip.dieBand (356 + 2 * portDie q))
    let new := calStepSet 6 (Tab.get [] d.chip.cal.eq q) goal
    d.onCal fun c => { c with eq := Tab.put [] c.eq q new, walk := if new = goal then c.walk.filter (· ≠ q) else c.walk }) d

/-! ## CELPHY and inserted idle frames -/

/-- The idle frame that ends has retrained eight channels of every stack that waits (R488). -/
def Dev.phyFrame (d : Dev) : Dev :=
  if d.chip.frm.idle then d.onCal fun c => { c with phyLeft := Tab.mapAll 0 c.phyLeft fun _ n => n - 8 } else d

/-- An idle frame is to be inserted (R488): a run has waited WAIT frames, and GAP frames have passed since the last. -/
def Chip.insertDue (c : Chip) : Bool :=
  !c.cal.insert && (c.cal.phyLeft.any fun p => decide (c.fld F.CAL_IDLE_GAP_WAIT ≤ frameSub c.frm.cur (Tab.get 0 c.cal.phyAt p.1)))
    && (match c.cal.insertedAt with
      | none => true
      | some f => decide (c.fld F.CAL_IDLE_GAP_GAP ≤ frameSub (nextFrame c.frm.cur) f))

/-- IDLE_INSERT (R488): the next frame is an idle frame. -/
def idleInsert (d : Dev) : Dev :=
  if d.chip.insertDue then
    (d.onCal fun c => { c with insert := true, insertedAt := some (nextFrame d.chip.frm.cur) }).count F.CAL_IDLE_INSERTED
  else d

/-! ## Records in flash -/

/-- The copies of a unit's record. -/
def CalFlash.copy (f : CalFlash) (kind unit k : Nat) : Option CalRecord := Tab.get none f.records (calKey kind unit * 2 + k)

/-- The copies in order of preference: the higher SEQUENCE first (R496). -/
def CalFlash.copies (f : CalFlash) (kind unit : Nat) : List CalRecord :=
  match f.copy kind unit 0, f.copy kind unit 1 with
  | some a, some b => if a.seq < b.seq then [b, a] else [a, b]
  | some a, none => [a]
  | none, some b => [b]
  | none, none => []

/-- The slot that does not hold the copy in force (R493). -/
def CalFlash.freeSlot (f : CalFlash) (kind unit : Nat) : Nat :=
  match f.copy kind unit 0, f.copy kind unit 1 with
  | some a, some b => if a.ok && (!b.ok || decide (b.seq ≤ a.seq)) then 1 else 0
  | some a, none => if a.ok then 1 else 0
  | _, _ => 0

/-- The record of a unit, or the retire list, goes to flash (R493, R494). -/
def Dev.writeRecord (d : Dev) (kind unit : Nat) : Dev :=
  let d := d.onCal fun c => { c with retry := c.retry.filter (· ≠ calKey kind unit) }
  if kind = 32 then
    let d := { d with calFlash := { d.calFlash with retire := d.calFlash.retire.write d.chip.cal.retire } }
    d.onCal fun c => { c with retireNew := false }
  else
    let u := d.chip.calUnit kind unit
    let f := d.calFlash
    let k := f.freeSlot kind unit
    let seq := (f.copy kind unit (1 - k)).elim 1 fun r => r.seq + 1
    let body := if kind = 8 then (List.range 272).map fun i => (d.chip.fmaxOf (unit * 512 + i / 17 * 32 + i % 17) : Int) else u.cur
    let r : CalRecord := { seq, temp := u.temp, fw := d.chip.sec.version, frame := u.frame % 2 ^ 32, body }
    let d := { d with calFlash := { f with records := Tab.put none f.records (calKey kind unit * 2 + k) (some r) } }
    d.onUnit kind unit fun u => { u with record := false }

/-- A record waits to be written. -/
def Chip.recordDue (c : Chip) (kind unit : Nat) : Bool := if kind = 32 then unit = 0 && c.cal.retireNew else (c.calUnit kind unit).record

/-- CAL_RECORD_WRITE (R16, R493, R501): M's firmware writes the record; the write succeeds, or fails and is to be retried. -/
def calRecordWrite (kind unit : Nat) (ok : Bool) (d : Dev) : Dev :=
  if !d.chip.mRuns ∨ !d.chip.recordDue kind unit then d
  else if ok then d.writeRecord kind unit
  else (d.onCal fun c => { c with retry := if calKey kind unit ∈ c.retry then c.retry else c.retry ++ [calKey kind unit] }).flag F.CAL_INT_STATUS_FLASH_ERR

/-- FLASH_WRITE_RETRY (R501). -/
def flashRetry (ok : Bool) (d : Dev) : Dev :=
  if !d.chip.mRuns then d
  else if ok then d.chip.cal.retry.foldl (fun d k => d.writeRecord (k / 64) (k % 64)) d
  else if d.chip.cal.retry.isEmpty then d
  else d.flag F.CAL_INT_STATUS_FLASH_ERR

/-- The ASSY unit of a calibrated unit (R497). -/
def assyOf (kind unit : Nat) : Nat :=
  match kind with
  | 4 => 24 + unit
  | 5 => 8 + unit
  | 6 => 20 + portDie unit
  | _ => unit

/-- The DRIVE values of a laser die's set are those of its sources (R257, R495). -/
def Dev.laserLoad (d : Dev) (die : Nat) (set : List Int) : Dev :=
  (List.range 15).foldl (fun d k => d.onSrc (die * 15 + k) fun x => { x with drive := (set.getD (22 * k) 0).toNat }) d

/-- A unit loads its values at start, and a full run is under way (R490, R496). -/
def Dev.calLoad (d : Dev) (kind unit : Nat) : Dev :=
  let bad := decide (assyOf kind unit ∈ d.calFlash.assyBad)
  let base := if bad then Config.nominalCal kind unit else Config.assyCal kind unit
  let lim := if bad then 2 else 1
  let cs := d.calFlash.copies kind unit
  let good (r : CalRecord) : Bool := r.ok && calPlausible kind lim base r.body
  let x := match cs.zipIdx.find? fun p => good p.1 with
    | some p => (p.1.body, p.2)
    | none => (base, if bad then 3 else 2)
  let d := d.onUnit kind unit fun u => { u with cur := x.1, source := x.2, base, valid := true, goal := none }
  let d := if 2 ≤ x.2 then
      (((d.onCal fun c => { c with fallback := true }).flag F.CAL_INT_STATUS_RECORD_FALLBACK).log
        { cls := clsCalibration, kind := 0, index := 0, detail := leBytes 1 kind ++ leBytes 2 unit })
    else d
  let d := if kind = 4 then d.laserLoad unit x.1 else if kind = 6 then d.walkPorts [unit] else d
  if kind < 8 then d.calStart kind unit else d

/-- Every unit of a block loads its values (R496); a failed ASSY record is logged once. -/
def Dev.calLoadBlock (d : Dev) (b : Nat) : Dev :=
  let d := if b ∈ d.calFlash.assyBad then
      (d.flag F.CAL_INT_STATUS_RECORD_FALLBACK).log { cls := clsCalibration, kind := 0, index := 0, detail := leBytes 1 0x10 ++ leBytes 2 b } else d
  (calOfBlock b).foldl (fun d k => d.calLoad k.1 k.2) d

/-! ## Bonds at start -/

/-- A position whose bonds have failed is out of service (R499). -/
def Dev.bondOut (d : Dev) (core : Nat) : Dev := d.onTow fun t => { t with pos := Tab.upd {} t.pos core fun x => { x with st := if x.st = 3 then 3 else 2, bond := true } }

/-- The signal that a group carries is retired (R498): a position, a row, or both slices of a cellar channel. -/
def Dev.bondLoss (d : Dev) : BondUse → Dev
  | .port core => d.bondOut core
  | .row w => d.retireRow w 3
  | .channel n => (d.retireSlice (n / 32 * 64 + n % 32 * 2) 3).retireSlice (n / 32 * 64 + n % 32 * 2 + 1) 3

/-- A signal bond of a group is found newly failed (R12, R498): the first of the group is steered onto the group's spare, the second
retires the signal that the group carries. -/
def Dev.bondFail (d : Dev) (die : Nat) (x : Nat × BondUse) : Dev :=
  let k := die * 65536 + x.1
  let n := Tab.get 0 d.chip.cal.bonds k
  let d := d.onCal fun c => { c with bonds := Tab.put 0 c.bonds k (n + 1) }
  match n with
  | 0 => ((d.onCal fun c => { c with steered := satAdd 16 c.steered 1 }).flag F.CAL_INT_STATUS_BOND_STEERED).appendRetire 8 3 x.1 die
  | 1 =>
    let d := ((d.onCal fun c => { c with bondsRetired := satAdd 16 c.bondsRetired 1 }).flag F.CAL_INT_STATUS_BOND_RETIRED).appendRetire 8 3 x.1 (die + 2 ^ 31)
    let d := { d with calFlash := { d.calFlash with bondUse := Tab.ins d.calFlash.bondUse k x.2 } }
    d.bondLoss x.2
  | _ => d

/-- Field self-test of the bonds of a block (R498): the bonds it finds newly failed. -/
def Dev.bondTest (d : Dev) (die : Nat) (fails : List (Nat × BondUse)) : Dev := fails.foldl (fun d x => d.bondFail die x) d

open Host

/-- RUN (R486). -/
def execRun (kind unit : Nat) (cause : RunCause) (s : State) : Outcome State Fault Refusal := runs s (calRun kind unit cause)

/-- CAL_RUN_DONE (R489). `temp`: the governing sensor in 0.25 K; `left`: ns before the next threshold. -/
def execCalRunDone (kind unit : Nat) (values : List Int) (temp : Int) (limits : Bool) (left : Nat) (s : State) : Outcome State Fault Refusal :=
  runs s (calRunDone kind unit values temp limits left)

/-- CAL_RECORD_WRITE (R493). -/
def execCalRecordWrite (kind unit : Nat) (ok : Bool) (s : State) : Outcome State Fault Refusal := runs s (calRecordWrite kind unit ok)

/-- FLASH_WRITE_RETRY (R501). -/
def execFlashWriteRetry (ok : Bool) (s : State) : Outcome State Fault Refusal := runs s (flashRetry ok)

/-- IDLE_INSERT (R488). -/
def execIdleInsert (s : State) : Outcome State Fault Refusal := runs s idleInsert

end Sys2Proof.Machine
end

