-- ==== Sys2Proof/Machine/Channels.lean ====
section
/-! DEFINITION. Channels (R420 to R422, R429, R453, R502, R503): histories judged at a threshold, adapt attempts,
declarations, and the fences and row retirements they lead to. -/

namespace Sys2Proof.Machine

/-! ## Policy in force -/

/-- CONSEC and HITS in force for a class (R422). -/
def Chip.consec (c : Chip) (cls : Nat) : Nat := Tab.get 2 c.integ.consec cls
def Chip.hits (c : Chip) (cls : Nat) : Nat := Tab.get 3 c.integ.hits cls

/-- The policy that takes effect at a threshold: the least of ERR_POLICYc and the loaded rooms' overrides (R422). -/
def Dev.policyInForce (d : Dev) : Dev :=
  ((List.range 6).map (· + 1)).foldl (fun d k =>
    let ovr := d.chip.loadedRooms.flatMap fun r => (((d.chip.image r).map Image.classes).getD []).filter fun x => x.1 = k
    let consec := ovr.foldl (fun m x => min m x.2.1) (d.chip.fld F.ERR_POLICY_CONSEC 0 k)
    let hits := ovr.foldl (fun m x => min m x.2.2) (d.chip.fld F.ERR_POLICY_HITS 0 k)
    d.onInteg fun i => { i with
      consec := Tab.put 2 i.consec k consec
      hits := Tab.put 3 i.hits k hits }) d

/-- The profile in force for a channel: 0 REPAIR, 1 ADAPT, 2 BOTH (R503). -/
def Chip.profileOf (c : Chip) (cls index : Nat) : Nat :=
  let holder : Option Nat := match cls with
    | 1 =>
      let role := (c.bundle (index / 18)).roles.getD (index % 18) roleRetired
      if role < 16 then c.laneOwner (index / 18) role else none
    | 3 => (c.row (index / 32)).room
    | 4 => (c.row index).room
    | 5 => c.sliceRoom index
    | _ => none
  match holder.bind c.image with
  | some i => i.profile
  | none => c.fld F.CAL_CTL_PROFILE

/-! ## Adapt attempts -/

/-- An attempt is made in place of the declaration (R502): not for a CORE, nor within 65,536 units of the last attempt. -/
def Chip.adapts (c : Chip) (cls index : Nat) : Bool :=
  let recent := (Tab.find c.cal.adapted (chanKey cls index)).isSome
  cls ≠ 3 && !recent && (match c.profileOf cls index with
    | 0 => false
    | 1 => true
    | _ => cls ≠ 1 || (c.bundle (index / 18)).spares.isEmpty)

/-- A ring relocks from its table at the threshold after `m` (R251, R502). -/
def Dev.relockFrom (d : Dev) (m k : Nat) : Dev :=
  if d.chip.ringState k = 4 then d else d.onRing k fun x => { x with st := 1, due := some (nextFrame m), since := d.chip.frm.cur }

/-- The latches assigned to a line of a corridor. -/
def Chip.latchesOn (c : Chip) (b line : Nat) : List Nat :=
  (c.hall.latches.filter fun p => p.2.assigned.any fun a => a.1 = b && (c.bundle b).lineOf a.2 = some line).map Prod.fst

/-- The action of an adapt attempt (R502). -/
def Dev.adaptAction (d : Dev) (m cls index : Nat) : Dev :=
  match cls with
  | 1 =>
    let b := index / 18
    let ls := d.chip.latchesOn b (index % 18)
    let d := ls.foldl (fun d l => (d.calStart 3 (l / 512)).relockFrom m (0x8000 + l)) d
    (d.calStart 2 (endpointOf b)).relockFrom m index
  | 2 => d.calStart 1 (endpointOf index)
  | 4 => d.calStart 7 (index / 16)
  | 5 => d.calStart 5 (index / 64)
  | 6 => d.calStart 6 (index / 16)
  | _ => d

/-- The SRC_KIND of a channel class (R442). -/
def chanSrc (cls : Nat) : Nat :=
  match cls with
  | 1 => 3
  | 2 => 4
  | 3 => 1
  | 4 => 2
  | 5 => 7
  | _ => 8

/-- An adapt attempt (R502): the history is cleared. -/
def Dev.adapt (d : Dev) (m cls index : Nat) : Dev :=
  let d := d.adaptAction m cls index
  let d := d.onInteg fun i => { i with chans := Tab.put {} i.chans (chanKey cls index) {} }
  let d := d.onCal fun c => { c with adapted := Tab.ins c.adapted (chanKey cls index) 0 }
  ((d.count F.CAL_ADAPTS).flag F.CAL_INT_STATUS_ADAPT).log3 clsCalibration (chanSrc cls) index

/-! ## Declarations -/

/-- A channel is declared permanent at threshold `m` (R421): its history freezes, its retirement rule applies. -/
def Dev.declare (d : Dev) (m cls index : Nat) : Dev :=
  let d := d.onInteg fun i => { i with
    permanents := satAdd 32 i.permanents 1
    chans := Tab.upd {} i.chans (chanKey cls index) fun h => { h with perm := true } }
  let d := d.flag F.ERR_INT_STATUS_PERMANENT
  let next := nextFrame m
  match cls with
  | 1 => d.decideRetire (index / 18) (index % 18) next 1
  | 2 => (List.range 18).foldl (fun d l => d.decideRetire index l next 1) d
  | 3 => d.onTow fun t => { t with fenceDue := t.fenceDue ++ [(index, false)] }
  | 4 => d.onTow fun t => { t with rowsDue := t.rowsDue ++ [(index, next, 1)] }
  | 5 => d.onSlice index fun x => if x.retired then x else { x with due := some next }
  | 6 => d.retireLane (index / 16) (index % 16) next true
  | _ => d

/-- The running unit of a channel ends with the running frame (R420): a SLICE's at a leak threshold, a CORE's when it
completed a check. -/
def Chip.unitEnds (c : Chip) (cls index : Nat) (h : Chan) : Bool :=
  match cls with
  | 3 => h.checked
  | 5 => nextFrame c.frm.cur % c.fld F.CEL_CE_CTL_LEAK (index / 64) = 0
  | _ => true

/-- A channel's unit ends: its history takes it in, and the permanence test is made (R420, R421). -/
def Dev.judgeChan (d : Dev) (m key : Nat) (h : Chan) : Dev :=
  let cls := key / 65536
  let index := key % 65536
  if h.perm || !d.chip.unitEnds cls index h then d
  else
    let h := { h with hist := (h.hist * 2 + b2n h.err) % 65536, run := if h.err then h.run + 1 else 0, err := false, checked := false }
    let d := d.onInteg fun i => { i with chans := Tab.put {} i.chans key h }
    if d.chip.consec cls + 1 ≤ h.run ∨ d.chip.hits cls ≤ popcount 16 h.hist then
      (if d.chip.adapts cls index then d.adapt m cls index else d.declare m cls index)
    else d

/-- Attempts grow older by the units that end; after 65,536 one more may be made (R502). -/
def Dev.ageAdapts (d : Dev) : Dev :=
  let age (p : Nat × Nat) : Nat × Nat := (p.1, p.2 + b2n (d.chip.unitEnds (p.1 / 65536) (p.1 % 65536) {}))
  d.onCal fun k => { k with adapted := (k.adapted.map age).filter fun p => decide (p.2 ≤ 65536) }

/-- Every channel at the threshold that begins frame `m`. -/
def Dev.judgeChans (d : Dev) (m : Nat) : Dev :=
  let d := d.ageAdapts
  d.chip.integ.chans.foldl (fun d p => d.judgeChan m p.1 p.2) d

/-! ## Fences and rows -/

/-- A row is lost to its room, which halts with NEEDS_RECOMPILE (R429, R430). -/
def Dev.loseRow (d : Dev) (w cause : Nat) : Dev :=
  let room := (d.chip.row w).room
  let d := d.retireRow w cause
  match room with
  | some r =>
    let d := d.onRoom r fun x => { x with resetDue := none }
    if (d.chip.room r).st = .empty then d else d.haltRoom r causeRecompile
  | none => d

/-- A core is fenced at this threshold (R429, R453). -/
def Dev.fence (d : Dev) (core : Nat) (fmax : Bool) : Dev :=
  let w := core / 32
  let x := d.chip.row w
  let p := Tab.get {} d.chip.tow.pos core
  if p.st ≠ 0 ∨ x.st = 2 then d
  else
    let carries := ((List.range 16).map (d.chip.physCore w)).contains core
    let spare := w * 32 + x.sparePos
    let usable := !x.subEn && (Tab.get {} d.chip.tow.pos spare).st = 0
    let cause := if fmax then 5 else 1
    let d := d.onTow fun t => { t with pos := Tab.upd {} t.pos core fun y => { y with st := 2 } }
    let d := d.onCore core fun k => { k with st := .ended, moveQ := [], matQ := [], vecQ := [], flight := [] }
    let d := (d.log { cls := clsRetire, kind := 1, index := core, permanent := !fmax }).appendRetire 3 cause core
    if !carries then d
    else if !usable then d.loseRow w cause
    else
      let d := d.onRow w fun y => { y with st := 1 }
      match x.room with
      | some r =>
        ((d.flag F.ERR_INT_STATUS_CONTAINMENT).onInteg fun i => { i with contained := satAdd 32 i.contained 1 }).dueReset r 4
      | none => d.repairRow cause w

/-- Cores that carry a logical core of their row and whose FMAX is below its required frequency are fenced (R453). -/
def Dev.fmaxFences (d : Dev) : Dev :=
  d.chip.tow.pos.foldl (fun d x =>
    let row := x.1 / 32
    if x.2.st = 0 ∧ x.2.fmax < d.chip.freqReq row ∧ ((List.range 16).map (d.chip.physCore row)).contains x.1 then
      ((d.log3 clsPower 1 x.1).flag F.PWR_INT_STATUS_FMAX_DROP).fence x.1 true
    else d) d

/-- Measured FMAX values, fences and row retirements at threshold `m`, ahead of R225 step 1. -/
def Dev.fences (d : Dev) (m : Nat) : Dev :=
  let t := d.chip.tow
  let d := d.onTow fun t => { t with
    pos := t.fmaxDue.foldl (fun p x => Tab.upd {} p x.1 fun y => { y with fmax := x.2 }) t.pos
    fmaxDue := []
    fenceDue := []
    rowsDue := t.rowsDue.filter fun x => x.2.1 ≠ m }
  let d := (t.fenceDue.foldl (fun d x => d.fence x.1 x.2) d).fmaxFences
  (t.rowsDue.filter fun x => x.2.1 = m).foldl (fun d x => d.loseRow x.1 x.2.2) d

end Sys2Proof.Machine
end

