-- ==== Sys2Proof/Machine/SecBoot.lean ====
section
/-! DEFINITION. Firmware slots and the boot of M's firmware (R546 to R549, R552). -/

namespace Sys2Proof.Machine

/-- Change the security engine. -/
def Dev.onSec (d : Dev) (f : Sec → Sec) : Dev := d.onChip fun c => { c with sec := f c.sec }

/-- `n` bytes of a firmware slot. -/
def FwSlot.read (f : FwSlot) (a n : Nat) : List Byte := (List.range n).map fun i => f.byte (a + i)

/-- What the verification of a slot finds (R548): the STATUS code it fails with, or VERSION, SVN and hash. -/
inductive FwCheck where
  | bad (status : Nat)
  | good (version svn : Nat) (hash : List Byte)
deriving DecidableEq, Repr

def FwCheck.ok : FwCheck → Bool
  | .good _ _ _ => true
  | .bad _ => false

/-- Bytes of the vendor's LMS signature: LMS_SHA256_M32_H15 with LMOTS_SHA256_N32_W8, as RFC 8554 encodes it. -/
def fwSigBytes : Nat := 4 + (4 + 32 + 34 * 32) + 4 + 15 * 32

/-- A slot is verified in the order of R548. A slot that still holds the image written at assembly verifies but for its
SVN (log 1). -/
def FwSlot.verify (f : FwSlot) (minSvn : Nat) : FwCheck :=
  if f.shipped then (if f.svn < minSvn then .bad 7 else .good f.version f.svn f.hash)
  else
    let h := f.read 0 128
    let len := leField h 0xC 4
    if leField h 0x7C 4 ≠ (crc32c (h.take 0x7C)).toNat then .bad 6
    else if h.take 4 ≠ [0x5A, 0x46, 0x57, 0x4D] ∨ leField h 4 2 ≠ 1 ∨ leField h 0xA 2 ≠ 0x0108 then .bad 6
    else if !lmsVerify Config.vendorKey h (f.read 0x80 fwSigBytes) then .bad 6
    else if leField h 8 2 < minSvn then .bad 7
    else if len % 4096 ≠ 0 ∨ 16 * 2 ^ 20 - 4096 < len ∨ sha256 (f.read 0x1000 len) ≠ (h.drop 0x10).take 32 then .bad 6
    else .good (leField h 6 2) (leField h 8 2) ((h.drop 0x10).take 32)

/-- A firmware slot: false A, true B. -/
def SecFlash.slot (f : SecFlash) (b : Bool) : FwSlot := if b then f.slotB else f.slotA
/-- A firmware slot is replaced. -/
def SecFlash.setSlot (f : SecFlash) (b : Bool) (x : FwSlot) : SecFlash := if b then { f with slotB := x } else { f with slotA := x }

/-- Two M watchdog resets came within 10 s of an activation (R549). -/
def Dev.rollsBack (d : Dev) : Bool :=
  match d.chip.sec.activated with
  | some t => decide (2 ≤ d.chip.sec.dogs) && decide (d.chip.frm.time ≤ t + msNs 10000)
  | none => false

/-- M boots (R548, R549, R552): the preferred slot, or the other, or recovery mode; at the second watchdog reset after an
activation, the previous slot, which the boot control record then names. -/
def Dev.secBoot (d : Dev) : Dev :=
  let back := d.rollsBack
  let d := if back then { d with flash := d.flash.putBoot !d.flash.prefB } else d
  let f := d.flash
  let a := f.slotA.verify f.minSvn
  let b := f.slotB.verify f.minSvn
  let pick : Option Bool :=
    if (if f.prefB then b else a).ok then some f.prefB else if (if f.prefB then a else b).ok then some (!f.prefB) else none
  let act := d.chip.sec.activating
  let now := d.chip.frm.time
  let d := d.onSec fun x => { x with
    aValid := a.ok
    bValid := b.ok
    fallback := pick = some (!f.prefB)
    erased := false
    activating := false
    activated := if back then none else if act then some now else x.activated
    dogs := if act || back then 0 else x.dogs
    owner := f.owner
    pref := f.prefB
    minSvn := f.minSvn
    nonce := f.nonce
    ownerNew := false
    leaf := f.hwm
    noCounter := !f.counterOk }
  let d := d.onChip fun c => { c with boot := { c.boot with recovery := pick.isNone } }
  match pick with
  | none => d
  | some s =>
    let x := match (if s then b else a) with
      | .good v n h => (v, n, h)
      | .bad _ => (0, 0, [])
    let d := d.onSec fun y => { y with
      runB := s
      version := x.1
      svn := x.2.1
      hash := x.2.2 }
    let d := if act && s = f.prefB then d.flag F.SEC_INT_STATUS_FW_ACTIVATED else d
    if back || s ≠ f.prefB then d.flag F.SEC_INT_STATUS_FW_FALLBACK else d

end Sys2Proof.Machine
end

