-- ==== Sys2Proof/Machine/Boot.lean ====
section
/-! DEFINITION. Bring-up, block states, resets with a fence, M warm reset, sequencers and takeover (chapter 17; R389,
R479). -/

namespace Sys2Proof.Machine

/-- Change a block. -/
def Dev.onBlock (d : Dev) (k : Nat) (f : Block → Block) : Dev := d.onChip fun c => c.setBlock k (f (c.block k))

/-! ## What a block holds -/

/-- The towers and stacks of a quadrant, block 22 to 25 (R13). -/
def quadMembers (k : Nat) : List Nat :=
  let q := k - 22
  if 22 ≤ k ∧ k < 26 then [2 * q, 2 * q + 1, 8 + 3 * q, 9 + 3 * q, 10 + 3 * q] else []

/-- The quadrant block of a tower or a stack. -/
def quadOf (k : Nat) : Option Nat := if k < 8 then some (22 + quadOfTower k) else if k < 20 then some (22 + quadOfStack (k - 8)) else none

/-- A tower or a stack may start: its quadrant is READY (R512). -/
def Chip.quadUp (c : Chip) (k : Nat) : Bool :=
  match quadOf k with
  | some q => (c.block q).up
  | none => true

/-- The loaded rooms that hold a block, or a die of a quadrant, as a member (R290, R512). -/
def Chip.roomsWith (c : Chip) (k : Nat) : List Nat :=
  let ks := if k < 22 then [k] else quadMembers k
  c.loadedRooms.filter fun r => ((c.image r).map fun i => i.blocks.any fun b => decide (b ∈ ks)).getD false

/-- Registers of an address range return to their reset values, but for those kept per requester (R117, R514); what reads show of
their events and counts leaves with the next publication (R52, R55). -/
def Dev.resetRegs (d : Dev) (lo hi : Nat) (keep : RegRow → Bool := fun _ => false) : Dev :=
  let inside (key : Nat) : Bool :=
    let a := key % 2 ^ 26
    decide (lo ≤ a) && decide (a < hi) && (match regAt a with
      | some x => x.1.sel ≠ .requester && !keep x.1
      | none => false)
  let d := d.onChip fun c => { c with regs := c.regs.filter fun p => !inside p.1 }
  { d with
    ev := Tab.keep d.ev fun k => !inside k
    cnt := Tab.keep d.cnt fun k => !inside (k / 32)
    dropEv := d.dropEv ++ (d.pubEv.map Prod.fst).filter inside
    dropCnt := d.dropCnt ++ (d.pubCnt.map Prod.fst).filter fun k => inside (k / 32)
    wm := Tab.keep d.wm fun k => !inside k }

/-! ## Starting -/

/-- The lines of a bundle that are good at its start (R500): neither found bad nor named in the retire list, itself or by
its ring. -/
def Chip.goodLines (c : Chip) (b : Nat) (bad : List Nat) : List Nat :=
  (List.range 18).filter fun l =>
    let k := b * 18 + l
    !bad.contains k && (c.cal.latest 1 k).isNone && (c.cal.latest 2 k).isNone

/-- A bundle's map is built and agreement follows in the first frame after READY (R215, R227). -/
def Dev.startBundle (d : Dev) (b : Nat) (f : StartFacts) : Dev :=
  let d := d.onHall fun h => { h with margin := (f.margins.filter fun x => x.1 / 18 = b).foldl (fun m x => Tab.put 0 m x.1 x.2) h.margin }
  let good := d.chip.goodLines b f.badLines
  let roles := buildRoles (d.chip.margin b) good
  let mask := ofBitList good
  d.onBundle b fun x => ({ x.setMap roles ((x.epoch + 1) % 65536) with
    goodBase := mask
    goodUpper := mask
    agreeDue := true
    st := 2 } : Bundle).settled

/-- A ring that the retire list names stays RETIRED; a latch stays parked (R228, R252, R500). -/
def Dev.retiredRing (d : Dev) (k : Nat) : Dev :=
  let d := d.onRing k fun x => { x with st := 4 }
  match ringLatch k with
  | some (ep, l) => d.onLatch ep l fun x => { x with retired := true }
  | none => d

/-- The rings of an endpoint have completed their start-up acquisition: those that are not retired are LOCKED, whatever they were before
(R252). -/
def Dev.acquireRings (d : Dev) (ep : Nat) : Dev :=
  d.onLight fun l => { l with
    acquired := Tab.ins l.acquired ep (some (d.chip.tileTemp ep))
    rings := Tab.mapAll {} l.rings fun k x => if ringEndpoint k = ep ∧ x.st ≠ 4 then { x with st := 5, due := none, lockTemp := none } else x }

/-- The bundles and latches of an endpoint start (R506). -/
def Dev.startEndpoint (d : Dev) (ep : Nat) (f : StartFacts) : Dev :=
  (bundlesOf ep).foldl (fun d b => d.startBundle b f) (d.acquireRings ep)

/-- March C- in destructive mode on all 272 slices of a tower with all four backgrounds (R177): its results show as those of any run,
and a slice that fails takes its position out of service. -/
def Dev.startMarch (d : Dev) (t : Nat) (cells : List BadCell) : Dev :=
  let d := d.memOp (.clear (pantryAddr (t * 512) 0) (512 * 2 ^ 22))
  let d := d.onTow fun x => { x with
    husk := Tab.keep x.husk fun k => k / 2 ^ 18 / 512 ≠ t
    errs := Tab.keep x.errs fun k => k / 2 ^ 18 / 512 ≠ t
    march := Tab.upd {} x.march t fun m => { m with rows := 0xFFFF, algo := 0, bg := 15, preserve := false, due := false } }
  let d := d.marchEnd t 0xFFFF 0 15 false cells
  d.onTow fun x => { x with pos := ((towerRows t).flatMap rowCores).foldl (fun p core =>
    Tab.upd {} p core fun y => { y with march := (Tab.get {} x.marchRes core).fail }) x.pos }

/-- The maps of the rows of a tower are those of `old` until the next threshold puts the present ones in force (R81). -/
def Dev.holdRows (d : Dev) (t : Nat) (old : Chip) : Dev :=
  (towerRows t).foldl (fun d w =>
    let o := old.row w
    d.onRow w fun n =>
      if n.st = o.st ∧ n.subEn = o.subEn ∧ n.subLogical = o.subLogical then n
      else { n with st := o.st, subEn := o.subEn, subLogical := o.subLogical, next := some (n.st, n.subEn, n.subLogical) }) d

/-- Row maps that wait take effect at a threshold (R81). -/
def Dev.rowMaps (d : Dev) : Dev :=
  d.onTow fun t => { t with rows := Tab.mapAll {} t.rows fun _ x => match x.next with
    | some n => { x with st := n.1, subEn := n.2.1, subLogical := n.2.2, next := none }
    | none => x }

/-- The start steps of a tower (R177, R498, R499): bonds tested, every slice marched and zeroed, FMAX measured, rows repaired, which
takes effect at the next threshold once frames run (R81). -/
def Dev.startTower (d : Dev) (t : Nat) (f : StartFacts) : Dev :=
  let old := d.chip
  let d := (d.bondTest t f.bonds).startMarch t f.cells
  let d := d.onTow fun x => { x with
    pos := (f.fmax.filter fun p => p.1 / 512 = t).foldl (fun p x => Tab.upd {} p x.1 fun y => { y with fmax := min (Tab.get 220 d.calFlash.fmax x.1) x.2 }) x.pos }
  let d := (towerRows t).foldl (fun d w => d.repairRow (d.outCause w) w) d
  if old.frm.begun then d.holdRows t old else d

/-- The start steps of a stack (R274, R282, R498). -/
def Dev.startCellar (d : Dev) (n : Nat) (f : StartFacts) : Dev := (d.startStack n).bondTest (8 + n) f.bonds

/-- Some part of a block is retired or fenced (R510). -/
def Chip.partsLost (c : Chip) (k : Nat) : Bool :=
  if k < 8 then (towerRows k).any (fun w => (c.row w).st ≠ 0 || (c.row w).next.any fun n => decide (n.1 ≠ 0)) || c.tow.pos.any fun p => p.1 / 512 = k && p.2.st ≠ 0
  else if k < 20 then c.cel.slices.any fun p => p.1 / 64 = k - 8 && p.2.retired
  else false

/-- A block begins its start steps (R510). -/
def Dev.beginStart (d : Dev) (k : Nat) : Dev :=
  let d := d.onBlock k fun b => { b with st := .starting, pendEn := false, fail := false, drain := false }
  let d := if k < 22 then (bundlesOf k).foldl (fun d b => d.onBundle b fun x => { x with st := 1 }) d else d
  if k < 22 then d.calLoadBlock k else d

/-- A block is READY (R506, R510); the towers and stacks that wait for a quadrant start (R512). -/
def Dev.blockReady (d : Dev) (k : Nat) : Dev :=
  let again := (d.chip.block k).viaReset
  let lost := d.chip.partsLost k
  let d := d.onBlock k fun b => { b with st := if lost then .degraded else .ready, viaReset := false }
  let d := d.flag F.GLB_INT_STATUS_READY
  let d := if again then d.flag F.GLB_INT_STATUS_RESET_DONE else d
  (quadMembers k).foldl (fun d j =>
    let b := d.chip.block j
    if b.st = .off && b.pendEn then d.beginStart j else d) d

/-- BLOCK_START_DONE (R506, R510): blocks 0 to 25 as GLB_BSTATE numbers them; 26 M's firmware, 27 the laser bank, 28 the
bundles of the M tile. -/
def blockStartDone (k : Nat) (f : StartFacts) (d : Dev) : Dev :=
  let c := d.chip
  if k < 26 then
    if (c.block k).st ≠ .starting ∨ !c.quadUp k then d
    else
      let d := if k < 8 then d.startTower k f else if k < 20 then d.startCellar (k - 8) f else d
      let d := if k < 22 then d.startEndpoint k f else d
      d.blockReady k
  else if !c.boot.started then d
  else if k = 26 then
    if c.boot.mfw || c.boot.warm || c.boot.recovery then d
    else (d.onChip fun c => { c with boot := { c.boot with mfw := true } }).flag F.GLB_INT_STATUS_READY
  else if k = 27 then
    if c.boot.laser then d
    else (d.onChip fun c => { c with boot := { c.boot with laser := true } }).flag F.GLB_INT_STATUS_READY
  else if k = 28 then
    if (c.bundle mCorridor).st ≠ 0 ∧ (c.bundle mCorridor).st ≠ 1 then d
    else ((((d.calLoad 1 22).calLoad 2 22).calLoad 3 22).startEndpoint 22 f).flag F.GLB_INT_STATUS_READY
  else d

/-- START_FAIL (R509): the function goes to OFF. -/
def startFail (k : Nat) (d : Dev) : Dev :=
  let note (d : Dev) : Dev :=
    let d := d.onChip fun c => { c with boot := { c.boot with startFails := satAdd 32 c.boot.startFails 1 } }
    (d.flag F.GLB_INT_STATUS_START_FAIL).log3 clsSequencer 12 (if k < 8 then 0x900 + k else if k < 20 then 0xA00 + (k - 8) else if k < 22 then 0xB00 + (k - 20) else 0x100)
  if k < 26 then
    if (d.chip.block k).st ≠ .starting then d
    else
      let d := d.onBlock k fun b => { b with st := .off, fail := true, viaReset := false }
      let d := if k < 22 then (bundlesOf k).foldl (fun d b => d.onBundle b fun x => { x with st := 0 }) d else d
      let d := if 8 ≤ k ∧ k < 20 then d.flag F.CEL_INT_STATUS_TRAIN_FAIL (k - 8) else d
      note d
  else if k < 29 ∧ d.chip.boot.started then note d
  else d

/-! ## Stopping and resetting -/

/-- What a reset of the scope leaves of a tower, a stack, a porch die or a quadrant's own tiles (R514, R516): requests into
it that are unanswered complete ABSENT. -/
def Dev.resetScope (d : Dev) (k : Nat) : Dev :=
  let d := (calOfBlock k).foldl (fun d u => d.calAbandon u.1 u.2) d
  if k < 8 then
    let d := d.onTow fun t => { t with
      cores := Tab.keep t.cores fun n => towerOf n ≠ k
      parts := t.parts.filter fun p => p.tile ≠ k
      dbg := Tab.keep t.dbg fun n => n / 32 ≠ k
      march := Tab.keep t.march fun n => n ≠ k
      eccAddr := Tab.keep t.eccAddr fun n => towerOf n ≠ k
      istoreDue := t.istoreDue.filter fun x => towerOf x.1 ≠ k }
    d.resetRegs (0x200000 + k * 0x80000) (0x200000 + (k + 1) * 0x80000)
  else if k < 20 then
    let n := k - 8
    let d := (d.chip.jil.taken.flatMap fun t => (t.waits.filter fun w => w.1.stack = n).map fun w => (t.die, w.1.tag)).foldl (fun d x =>
      d.celAnswer x.1 x.2 celAbsent [] 0) d
    let d := (d.chip.host.accs.flatMap fun a => (a.recs.filter fun r => r.1.stack = n && r.2.isNone).map fun r => r.1.tag).foldl (fun d t =>
      d.hostAnswer t celAbsent []) d
    let d := d.onJil fun j => { j with celq := j.celq.filter fun m => m.stack ≠ n }
    let d := (d.startStack n).resetScrub n
    let d := d.onCel fun c => { c with
      inval := Tab.keep c.inval fun x => x ≠ n
      slices := Tab.mapAll {} c.slices fun s x => if s / 64 = n then { ({} : Slice) with retired := x.retired } else x }
    d.resetRegs (0x600000 + n * 0x20000) (0x600000 + (n + 1) * 0x20000)
  else if k < 22 then
    let die := k - 20
    let d := d.loseDie die
    d.resetRegs (0x800000 + die * 0x100000) (0x800000 + (die + 1) * 0x100000) RegRow.shared
  else d

/-- A block stops (R510, R516): every circuit with an end in it is fenced, member rooms' resets fall due; a forced reset
takes the scope at once (R517). `reset`: it starts again when the stop is complete. -/
def Dev.stopBlock (d : Dev) (k : Nat) (reset : Bool) (last : Nat) (forced : Bool) : Dev :=
  let b := d.chip.block k
  if b.st = .off then d
  else if b.st = .stopping then d.onBlock k fun b => { b with pendEn := reset, viaReset := b.viaReset || reset }
  else
    let d := d.onBlock k fun b => { b with
      st := .stopping
      pendEn := reset
      viaReset := reset
      last := if reset then last else b.last
      resets := if reset then satAdd 16 b.resets 1 else b.resets
      drain := true }
    let d := if reset then d.onChip fun c => { c with boot := { c.boot with blockResets := satAdd 32 c.boot.blockResets 1 } } else d
    let d := (d.chip.roomsWith k).foldl (fun d r => d.dueReset r 1) d
    let d := if 20 ≤ k ∧ k < 22 then (List.range 6).foldl (fun d q =>
        if portDie q = k - 20 ∧ 2 ≤ (d.chip.port q).st ∧ (d.chip.port q).st ≤ 4 then (d.train q 0).sendHold q else d) d else d
    let d := if k < 22 then (bundlesOf k).foldl (fun d x => d.onBundle x fun y => { y with
        st := if y.st = 0 then 0 else 3
        agree := false
        agreeDue := false
        mismatch := false }) d else d
    if forced then
      let eps (x : Nat) : Bool := k < 22 && endpointOf x = k
      let d := if k < 22 then
          let gone := d.chip.hall.rejectsPrev.filter fun x => eps x.1.bundle
          let d := d.onHall fun h => { h with rejectsPrev := h.rejectsPrev.filter (fun x => !eps x.1.bundle), replays := h.replays.filter fun x => !eps x.orig.bundle }
          gone.foldl (fun d x => d.loseSlot (x.1.place x.2) x.1.ep (((d.chip.bundle x.1.bundle).lineOf x.1.via).getD 31)) d
        else d
      (d.onBlock k fun b => { b with drain := false }).resetScope k
    else d

/-- A quadrant stops with its towers and stacks (R512, R516). -/
def Dev.stopQuad (d : Dev) (k : Nat) (reset : Bool) (last : Nat) (forced : Bool) : Dev :=
  let d := (quadMembers k).foldl (fun d j => d.stopBlock j reset 3 forced) d
  d.stopBlock k reset last forced

/-- A tower or stack reset that meets a reset of its quadrant is part of it (R518). -/
def Chip.quadStopping (c : Chip) (k : Nat) : Bool :=
  match quadOf k with
  | some q => (c.block q).st = .stopping
  | none => false

/-- A write of GLB_RESET takes effect (R513, R516 to R518). -/
def effectReset (value : Nat) (d : Dev) : Dev :=
  let forced := bitOf value 31
  let last := if forced then 2 else 1
  let d := (bitList 4 (bitsOf value 24 4)).foldl (fun d q => d.stopQuad (22 + q) true last forced) d
  let d := ((bitList 12 (bitsOf value 12 12)).map (8 + ·) ++ bitList 8 (bitsOf value 0 8)).foldl (fun d k =>
    if d.chip.quadStopping k then d else d.stopBlock k true last forced) d
  (bitList 2 (bitsOf value 28 2)).foldl (fun d n => d.stopBlock (20 + n) true last forced) d

/-- The threshold after a fence (R516): the scopes whose drain frame has ended are reset. -/
def Dev.endDrains (d : Dev) : Dev :=
  (d.chip.blocks.filter fun p => p.2.drain).foldl (fun d p => (d.onBlock p.1 fun b => { b with drain := false }).resetScope p.1) d

/-- BLOCK_STOP_DONE (R510): OFF, or the start steps again. -/
def blockStopDone (k : Nat) (d : Dev) : Dev :=
  let b := d.chip.block k
  if 26 ≤ k ∨ b.st ≠ .stopping ∨ b.drain then d
  else
    let off := (d.onBlock k fun b => { b with st := .off })
    let off := if k < 22 then (bundlesOf k).foldl (fun d x => d.onBundle x fun y => { y with st := 0 }) off else off
    if !b.pendEn then off
    else if d.chip.quadUp k then d.beginStart k
    else off

/-! ## Enables -/

/-- The GLB_EN bit of a block. -/
def enBit (k : Nat) : Nat := k

/-- A block is enabled (R510, R512). -/
def Dev.enableBlock (d : Dev) (k : Nat) : Dev :=
  if 26 ≤ k then d
  else
    let d := d.onChip fun c => c.setReg F.GLB_EN_TOW.key (c.reg F.GLB_EN_TOW.key ||| BitVec.ofNat 32 (2 ^ enBit k))
    match (d.chip.block k).st with
    | .off => if d.chip.quadUp k then d.beginStart k else d.onBlock k fun b => { b with pendEn := true }
    | .stopping => d.onBlock k fun b => { b with pendEn := true }
    | _ => d

/-- Some step of a loaded room's programs uses a lane or latch of the porch die (R512). -/
def Chip.dieUsed (c : Chip) (ep : Nat) : Bool :=
  c.loadedRooms.any fun r => ((c.image r).map fun i => i.progs.any fun p => p.steps.any fun t =>
    t.runs.any (fun x => endpointOf x.bundle = ep || x.dest = ep) || t.latches.any fun x => x.ep = ep).getD false

/-- A block is disabled, or the disable is refused (R512). -/
def Dev.disableBlock (d : Dev) (k : Nat) : Dev :=
  if 26 ≤ k then d
  else if !(d.chip.roomsWith k).isEmpty ∨ (20 ≤ k ∧ k < 22 ∧ d.chip.dieUsed k) then d.flag F.GLB_INT_STATUS_REFUSED
  else
    let d := d.onChip fun c => c.setReg F.GLB_EN_TOW.key (c.reg F.GLB_EN_TOW.key &&& BitVec.ofNat 32 (2 ^ 32 - 1 - 2 ^ enBit k))
    if k < 22 then d.stopBlock k false 0 false else d.stopQuad k false 0 false

/-- A write of GLB_EN takes effect, quadrants first: every block whose bit is 1 is enabled, every other disabled, changed or not; only a
bit that was 1 is refused (R510, R512). -/
def effectEnables (mask value : Nat) (d : Dev) : Dev :=
  let old := (d.chip.reg F.GLB_EN_TOW.key).toNat
  ((List.range 26).reverse.filter fun k => bitOf mask k).foldl (fun d k =>
    if bitOf value k then d.enableBlock k
    else if bitOf old k then d.disableBlock k
    else if k < 22 then d.stopBlock k false 0 false
    else d.stopQuad k false 0 false) d

/-- A reset write of the PF is staged (R529). -/
def resetWrite (r : Requester) (t bits : Nat) (forced : Bool) (d : Dev) : Dev :=
  if isPf r then d.stage r t F.GLB_RESET_TOW.key (2 ^ 31 + bits) (b2n forced * 2 ^ 31 + bits) else d

/-- REGULATOR_FAULT (R513): the tower is reset at the next threshold. -/
def regulatorFault (t : Nat) (d : Dev) : Dev :=
  if t < 8 then d.onChip fun c => { c with boot := { c.boot with regFaults := orBit c.boot.regFaults t } } else d

/-- Regulator faults of the frame that ended (R513). -/
def Dev.regFaults (d : Dev) : Dev :=
  let m := d.chip.boot.regFaults
  let d := d.onChip fun c => { c with boot := { c.boot with regFaults := 0 } }
  (bitList 8 m).foldl (fun d k => d.stopBlock k true 4 false) d

/-! ## Module reset -/

/-- What the retire list gives at start (R81, R234, R252, R283): row maps, retired rows, fenced positions, rings, slices, sources. -/
def Dev.loadRetireList (d : Dev) : Dev :=
  let d := d.onCal fun c => { c with
    retire := d.calFlash.retireList
    bonds := d.calFlash.assyBonds.foldl (fun t k => Tab.put 0 t k 1) [] }
  d.calFlash.retireList.foldl (fun d e =>
    match e.type with
    | 2 => d.retiredRing e.index
    | 3 => d.onTow fun t => { t with pos := Tab.upd {} t.pos e.index fun x => { x with st := 2 } }
    | 4 => d.onRow e.index fun x => { x with subEn := true, subLogical := e.data / 256 % 16 }
    | 5 => d.onTow fun t => { t with
        rows := Tab.upd {} t.rows e.index fun x => { x with st := 2, subEn := false }
        pos := (List.range 17).foldl (fun p j => Tab.upd {} p (e.index * 32 + j) fun x => { x with st := 3 }) t.pos }
    | 6 => d.onSlice e.index fun x => { x with retired := true }
    | 7 => d.onSrc e.index fun x => { x with st := e.data % 8, group := e.data / 256 % 32 }
    | 8 =>
      let k := e.data % 256 * 65536 + e.index
      let d := d.onCal fun c => { c with bonds := Tab.put 0 c.bonds k (if bitOf e.data 31 then 2 else 1) }
      match bitOf e.data 31, Tab.find d.calFlash.bondUse k with
      | true, some (.port core) => d.bondOut core
      | _, _ => d
    | _ => d) d

/-- The device after module reset: everything at its reset value but the flash, the fuses and the pins (R513). -/
def Dev.reborn (d : Dev) (cause : Nat) : Dev :=
  let chip : Chip := { pins := { d.chip.pins with syncOut := false, thermTrip := false }, boot := { modCause := cause } }
  { chip, pub := chip, flash := d.flash, calFlash := d.calFlash, free := d.free }

/-- The functions begin to start (R23, R506): M boots, the sequencers run their BIST, quadrants and porch dies start, towers
and stacks wait for their quadrants; the laser values are loaded from flash (R257, R496). -/
def Dev.startFunctions (d : Dev) : Dev :=
  if d.chip.boot.started then d
  else
    let d := d.onChip fun c => { c with
      boot := { c.boot with started := true }
      seq := { c.seq with a := .bist, b := .bist }
      pwr := { c.pwr with refclkOk := true } }
    let d := d.loadRetireList.lifeStart.secBoot
    if d.chip.boot.recovery then d.onChip fun c => { c with seq := { c.seq with a := .off, b := .off } }
    else
      let d := (d.calLoad 4 0).calLoad 4 1
      let d := (List.range 20).foldl (fun d k => d.onBlock k fun b => { b with pendEn := true }) d
      ([22, 23, 24, 25, 20, 21] : List Nat).foldl (fun d k => d.beginStart k) d

/-- The module after module reset: contents of the memories are lost, the lock is open (R513). -/
def State.reborn (s : State) (cause : Nat) (held : Bool) : State :=
  { s with gate := { powered := s.gate.powered, held }, mem := [], dev := s.dev.reborn cause }

/-- A module reset that needs no pin: the functions start again at once (R513). -/
def State.restart (s : State) (cause : Nat) : State :=
  let s := s.reborn cause false
  { s with dev := s.dev.startFunctions }

/-- MOD_RESET (R529): GLB_CTL.MOD_RESET written by the PF, or by a WRITE_REG. -/
def modReset (r : Requester) (s : State) : State :=
  match r with
  | .vf _ => s
  | _ => s.restart 3

/-- THERMAL_RESTART (R28, R479): a module reset that keeps the trip fields and releases THERM_TRIP_N; the rails come up, and PWR_GOOD
rises at the first threshold at which every rail has been in regulation for 1 ms. -/
def thermalRestart (s : State) : State :=
  let t := s.dev.chip.thm
  match t.coolAt with
  | some since =>
    if !t.tripped ∨ s.dev.chip.frm.time < since + msNs 5000 then s
    else
      let pins := s.dev.chip.pins
      let s := { s with dev := { s.dev with chip := { s.dev.chip with pins := { pins with thermTrip := false } } } }
      let s := s.restart 4
      let keep (c : Chip) : Chip := { c with thm := { c.thm with
        tripValid := t.tripValid
        tripSensor := t.tripSensor
        tripTemp := t.tripTemp
        tripFrame := t.tripFrame
        trips := t.trips } }
      { s with dev := { (s.dev.flag F.THM_INT_STATUS_RESTARTED) with chip := keep s.dev.chip, pub := keep s.dev.pub } }
  | none => s

/-! ## M warm reset -/

/-- M warm reset begins at once (R513, R515): 1 GLB_CTL, 2 watchdog, 3 firmware activation. -/
def Dev.mWarm (d : Dev) (cause : Nat) : Dev :=
  if d.chip.boot.warm then d
  else
    let d := match d.chip.bit.load with
      | some l => d.abortLoad l.owner
      | none => d
    let d := d.checkpoint
    let d := d.setFld F.GLB_STATUS_WARM_CAUSE cause
    d.onChip fun c => { c with
      boot := { c.boot with warm := true, mfw := false }
      sec := { c.sec with dogs := if cause = 2 then c.sec.dogs + 1 else c.sec.dogs }
      seq := { c.seq with mailbox := false } }

/-- M is READY again (R515, R557): the SNAP fields, the BIT settings and the SEC fields not kept return to their reset
values. -/
def mRestarted (d : Dev) : Dev :=
  if !d.chip.boot.warm then d
  else
    let d := d.resetRegs 0x30000 0x40000
    let d := d.onChip fun c => { c with snap := {} }
    let d := { d with latched := none }
    let gone (k : Nat) : Bool := decide (k % 2 ^ 26 ∈ [F.BIT_CFG_ROOM.addr, F.BIT_SRC_LO.addr, F.BIT_SRC_HI.addr, F.BIT_LEN.addr, F.SEC_INT_EN_IDE_FAIL.addr])
    let d := d.onChip fun c => { c with regs := c.regs.filter fun p => !gone p.1 }
    let d := { d with ev := Tab.keep d.ev fun k => k ≠ F.SEC_INT_STATUS_IDE_FAIL.addr, dropEv := d.dropEv ++ [F.SEC_INT_STATUS_IDE_FAIL.addr] }
    let d := d.onSec fun x => { x with secure := 0, insecure := 0 }
    let d := d.setFld F.GLB_STATUS_WARM_COUNT (satAdd 16 (d.chip.fld F.GLB_STATUS_WARM_COUNT) 1)
    let d := d.onChip fun c => { c with boot := { c.boot with warm := false } }
    let d := d.secBoot
    let d := d.onChip fun c => { c with boot := { c.boot with mfw := !c.boot.recovery } }
    d.flag F.GLB_INT_STATUS_M_RESTARTED

/-! ## The sequencers -/

/-- The state of a sequencer: false SEQ-A, true SEQ-B. -/
def Seqs.st (x : Seqs) (b : Bool) : SeqSt := if b then x.b else x.a
/-- A sequencer's state becomes `v`. -/
def Seqs.put (x : Seqs) (b : Bool) (v : SeqSt) : Seqs := if b then { x with b := v } else { x with a := v }
/-- Change the sequencers. -/
def Dev.onSeq (d : Dev) (f : Seqs → Seqs) : Dev := d.onChip fun c => { c with seq := f c.seq }

/-- A standby is in STANDBY (R530). -/
def Seqs.standbyOk (x : Seqs) : Bool := x.st (!x.act) = .standby

/-- A loaded room halts with SEQUENCER_LOST (R527). -/
def Dev.haltLost (d : Dev) (r : Nat) : Dev :=
  if (d.chip.room r).st = .empty then d
  else d.onRoom r fun m => { m with st := .halted, cause := causeSeqLost, hold := true }

/-- The bit of a W1C field is set in the published copy at once. -/
def Dev.flagNow (d : Dev) (f : Fld) : Dev :=
  { d with pubEv := Tab.upd 0 d.pubEv f.key fun v => v ||| BitVec.ofNat 32 f.mask }

/-- SEQUENCER_LOST (R527): every room halts, vector 4 is raised; status shows it live. -/
def Dev.sequencerLost (d : Dev) : Dev :=
  if d.chip.seq.lost then d
  else
    let d : Dev := d.onSeq fun x => { x with lost := true, take := none }
    let d : Dev := (List.range 16).foldl Dev.haltLost d
    let d : Dev := (d.flagNow F.SEQ_INT_STATUS_SEQUENCER_LOST).log3 clsSequencer 13 (b2n d.chip.seq.act)
    if d.chip.fld F.SEQ_INT_EN_SEQUENCER_LOST = 1 then d.sendMsix 0 4 else d

/-- The module has lost its standby (R526). -/
def Dev.standbyLost (d : Dev) : Dev := d.flag F.SEQ_INT_STATUS_STANDBY_LOST

/-- SEQ_BIST_DONE (R508, R519, R528): `b` SEQ-B. -/
def seqBistDone (b ok : Bool) (d : Dev) : Dev :=
  let x := d.chip.seq
  if x.st b ≠ .bist then d
  else if x.drillBist then
    let d := d.onSeq fun x => { (x.put b (if ok then .standby else .failed)) with drillBist := false }
    let d := d.flag F.SEQ_INT_STATUS_DRILL_DONE
    if ok then d else (d.log3 clsSequencer 13 (b2n b)).standbyLost
  else
    let x := if ok then x.put b .standby else x.put b .failed
    let d := d.onSeq fun _ => x
    let d := if ok then d.flag F.GLB_INT_STATUS_READY else d.log3 clsSequencer 13 (b2n b)
    if x.a = .bist ∨ x.b = .bist then d
    else if x.a = .standby then
      let d := d.onSeq fun x => { x with a := .active, act := false }
      if x.b = .failed then d.standbyLost else d
    else if x.b = .standby then (d.onSeq fun x => { x with b := .active, act := true }).standbyLost
    else d.sequencerLost

/-- The frame after the last committed one: the first that a takeover loses (R524). -/
def Chip.firstLost (c : Chip) : Nat := if c.frm.published then nextFrame c.frm.commit else 0

/-- The baton is released (R522, R523): the standby takes over, or the module is lost. -/
def Dev.release (d : Dev) (cause : Nat) (drill : Bool) : Dev :=
  let x := d.chip.seq
  if x.lost ∨ x.take.isSome ∨ x.st x.act ≠ .active then d
  else
    let d := d.onSeq fun x => { (x.put x.act (if drill then .bist else .failed)) with
      take := some ⟨cause, drill, false⟩
      lostFrames := frameSub d.chip.frm.cur d.chip.firstLost
      lostFirst := d.chip.firstLost }
    if x.standbyOk then d else d.sequencerLost

/-- SEQUENCER_FAILURE (R522): causes 1 to 4. -/
def sequencerFailure (cause : Nat) (d : Dev) : Dev := if 1 ≤ cause ∧ cause ≤ 4 then d.release cause false else d

/-- HEARTBEAT (R523): it carries the frame that was published. -/
def heartbeat (frame : Nat) (d : Dev) : Dev :=
  let x := d.chip.seq
  if x.st x.act = .active ∧ x.take.isNone ∧ d.chip.frm.published ∧ frame = d.chip.frm.commit then d.onSeq fun x => { x with heartbeat := some frame } else d

/-- M's arbiter isolates the active sequencer (R523). -/
def Dev.isolate (d : Dev) (cause : Nat) : Dev :=
  if d.chip.boot.warm ∨ d.chip.seq.take.isSome ∨ d.chip.seq.lost ∨ d.chip.seq.st d.chip.seq.act ≠ .active then d
  else
    let d := d.onSeq fun x => if x.act then { x with isoB := true } else { x with isoA := true }
    d.release cause false

/-- HEARTBEAT_TIMEOUT (R523): so many frame periods have passed by M's timer since the last heartbeat. -/
def heartbeatTimeout (periods : Nat) (d : Dev) : Dev :=
  if d.chip.frm.begun ∧ d.chip.fld F.SEQ_CTL_HB_LIMIT ≤ periods then d.isolate 5 else d

/-- MAILBOX_POST (R523): every 1,024 frames. -/
def mailboxPost (d : Dev) : Dev :=
  if d.chip.boot.warm ∨ !d.chip.frm.begun ∨ d.chip.frm.cur % 1024 ≠ 0 then d else d.onSeq fun x => { x with mailbox := true }

/-- MAILBOX_TIMEOUT (R523): `us` have passed since the post without an answer. -/
def mailboxTimeout (us : Nat) (d : Dev) : Dev :=
  if d.chip.seq.mailbox ∧ d.chip.fld F.SEQ_CTL_MBX_US < us then (d.onSeq fun x => { x with mailbox := false }).isolate 6 else d

/-- TAKEOVER (R524, R527): the load check passes and the standby takes the baton, or it fails. -/
def takeover (loadOk : Bool) (d : Dev) : Dev :=
  match d.chip.seq.take with
  | none => d
  | some t => if loadOk then d.onSeq fun x => { x with take := some { t with taken := true } } else d.sequencerLost

/-- A drill takes effect or is refused (R528). -/
def effectDrill (d : Dev) : Dev :=
  let busy := (List.range 16).any fun r => (d.chip.room r).st = .starting || (d.chip.room r).st = .running
  if busy ∨ !d.chip.seq.standbyOk then d.flag F.SEQ_INT_STATUS_DRILL_REFUSED else d.release 7 true

/-- Control is taken at the threshold that begins frame `m` (R524 to R526): rooms that are neither EMPTY nor HALTED are to
be reset, unless it was a drill; the frames not yet clear are withdrawn. -/
def Dev.takeControl (d : Dev) (m : Nat) : Dev :=
  match d.chip.seq.take with
  | none => d
  | some t =>
    let c := d.chip.frm.commit
    let d := d.onSeq fun x => { (x.put (!x.act) .active) with
      act := !x.act
      take := none
      takeovers := satAdd 16 x.takeovers 1
      cause := t.cause
      lostTotal := satAdd 32 x.lostTotal x.lostFrames
      drillBist := t.drill
      firstFrame := true }
    let d := (d.flag F.SEQ_INT_STATUS_TAKEOVER).log3 clsSequencer 13 (b2n d.chip.seq.act)
    if t.drill then d
    else
      let d := d.standbyLost
      let frames := frameSub c 1 :: (List.range (frameSub m c)).map fun i => (c + i) % frameMod
      let d := frames.foldl (fun d n => (List.range 16).foldl (fun d r => d.outboundFate r n false 2 0 0xFF) d) d
      let d := d.onInteg fun i => { i with fates := i.fates.map fun f => if f.frame ∈ frames then { f with committed := false } else f }
      (List.range 16).foldl (fun d r =>
        if (d.chip.room r).st = .empty ∨ (d.chip.room r).st = .halted then d else d.dueReset r 4) d

open Host

/-- BLOCK_START_DONE (R510). -/
def execBlockStartDone (k : Nat) (f : StartFacts) (s : State) : Outcome State Fault Refusal := runs s (blockStartDone k f)

/-- START_FAIL (R509). -/
def execStartFail (k : Nat) (s : State) : Outcome State Fault Refusal := runs s (startFail k)

/-- BLOCK_STOP_DONE (R510). -/
def execBlockStopDone (k : Nat) (s : State) : Outcome State Fault Refusal := runs s (blockStopDone k)

/-- BLOCK_ENABLE (R512). -/
def execBlockEnable (k : Nat) (s : State) : Outcome State Fault Refusal := runs s fun d => d.enableBlock k

/-- BLOCK_DISABLE (R512). -/
def execBlockDisable (k : Nat) (s : State) : Outcome State Fault Refusal := runs s fun d => d.disableBlock k

/-- QUAD_RESET (R516, R529). `t`: ns since the last threshold. -/
def execQuadReset (r : Requester) (k t : Nat) (forced : Bool) (s : State) : Outcome State Fault Refusal :=
  runsM s fun d => if k < 4 then resetWrite r t (2 ^ (24 + k)) forced d else d

/-- TOWER_RESET (R516, R529). `t`: ns since the last threshold. -/
def execTowerReset (r : Requester) (k t : Nat) (forced : Bool) (s : State) : Outcome State Fault Refusal :=
  runsM s fun d => if k < 8 then resetWrite r t (2 ^ k) forced d else d

/-- STACK_RESET (R516, R529). `t`: ns since the last threshold. -/
def execStackReset (r : Requester) (k t : Nat) (forced : Bool) (s : State) : Outcome State Fault Refusal :=
  runsM s fun d => if k < 12 then resetWrite r t (2 ^ (12 + k)) forced d else d

/-- PORCH_DIE_RESET (R389, R529). `t`: ns since the last threshold. -/
def execPorchDieReset (r : Requester) (k t : Nat) (s : State) : Outcome State Fault Refusal :=
  runsM s fun d => if k < 2 then resetWrite r t (2 ^ (28 + k)) false d else d

/-- REGULATOR_FAULT (R513). -/
def execRegulatorFault (t : Nat) (s : State) : Outcome State Fault Refusal := runs s (regulatorFault t)

/-- MOD_RESET (R513, R529). -/
def execModReset (r : Requester) (s : State) : Outcome State Fault Refusal :=
  .next (if s.active ∧ !s.dev.chip.boot.warm then modReset r s else s)

/-- THERMAL_RESTART (R479). -/
def execThermalRestart (s : State) : Outcome State Fault Refusal := .next (if s.active then thermalRestart s else s)

/-- M_WARM (R515, R529). -/
def execMWarm (r : Requester) (s : State) : Outcome State Fault Refusal :=
  runs s fun d => match r with
    | .vf _ => d
    | _ => d.mWarm 1

/-- M_WATCHDOG (R513). -/
def execMWatchdog (s : State) : Outcome State Fault Refusal := runs s fun d => d.mWarm 2

/-- M_RESTARTED (R515). -/
def execMRestarted (s : State) : Outcome State Fault Refusal := runs s mRestarted

/-- SEQ_BIST_DONE (R508). -/
def execSeqBistDone (b ok : Bool) (s : State) : Outcome State Fault Refusal := runs s (seqBistDone b ok)

/-- SEQUENCER_FAILURE (R522). -/
def execSequencerFailure (cause : Nat) (s : State) : Outcome State Fault Refusal := runs s (sequencerFailure cause)

/-- HEARTBEAT (R523). -/
def execHeartbeat (frame : Nat) (s : State) : Outcome State Fault Refusal := runs s (heartbeat frame)

/-- HEARTBEAT_TIMEOUT (R523). -/
def execHeartbeatTimeout (periods : Nat) (s : State) : Outcome State Fault Refusal := runs s (heartbeatTimeout periods)

/-- MAILBOX_POST (R523). -/
def execMailboxPost (s : State) : Outcome State Fault Refusal := runs s mailboxPost

/-- MAILBOX_TIMEOUT (R523). -/
def execMailboxTimeout (us : Nat) (s : State) : Outcome State Fault Refusal := runs s (mailboxTimeout us)

/-- TAKEOVER (R524). -/
def execTakeover (loadOk : Bool) (s : State) : Outcome State Fault Refusal := runs s (takeover loadOk)

/-- DRILL (R528). `t`: ns since the last threshold. -/
def execDrill (r : Requester) (t : Nat) (s : State) : Outcome State Fault Refusal :=
  runs s fun d => if isPf r then d.stageFld r t F.SEQ_CTL_DRILL 1 else d

end Sys2Proof.Machine
end

