-- ==== Sys2Proof/Machine/Approx.lean ====
section
/-! DEFINITION. The function approximations (R112): the exact function to some 200 bits in fixed point, the bound of each function,
and the free choice that the bound leaves. -/

namespace Sys2Proof.Machine

/-- The function approximations of R112. -/
inductive Fn where
  | exp | exp2 | ln | log2 | rcp | rsq | sin | cos
deriving DecidableEq, Repr

/-- The number under which the free values of a function are kept. -/
def Fn.code : Fn → Nat
  | .exp => 0 | .exp2 => 1 | .ln => 2 | .log2 => 3 | .rcp => 4 | .rsq => 5 | .sin => 6 | .cos => 7

/-- A zero of either sign. -/
def FV.isZero : FV → Bool
  | .fin _ 0 _ => true
  | _ => false

/-- The sign of a datum. -/
def FV.isNeg : FV → Bool
  | .fin n _ _ => n
  | .inf n => n
  | .nan => false

/-! ## Fixed point: integers in units of 2^-256 -/

/-- One. -/
def fxOne : Int := 2 ^ 256

/-- A finite datum in fixed point. -/
def FV.fx : FV → Int
  | .fin n m e => signedMag n (if 0 ≤ e + 256 then m <<< (e + 256).toNat else m >>> (-(e + 256)).toNat)
  | _ => 0

/-- A fixed-point number as a datum. -/
def fxFV (y : Int) : FV := .fin (decide (y < 0)) y.natAbs (-256)

/-- Product of fixed-point numbers. -/
def fxMul (a b : Int) : Int := a * b / fxOne

/-- The series sum of t z^2k / (2k + 1), with alternating signs where `alt`: atanh and arctangent. -/
def fxOdd (alt : Bool) (z : Int) : Int :=
  let zz := fxMul z z
  ((List.range 120).foldl (fun (a : Int × Int) k =>
    (a.1 + (if alt && k % 2 = 1 then -a.2 else a.2) / (2 * k + 1 : Nat), fxMul a.2 zz)) (0, z)).1

/-- Natural logarithm of 2. -/
def fxLn2 : Int := 2 * fxOdd false (fxOne / 3)

/-- Pi, by Machin's formula. -/
def fxPi : Int := 16 * fxOdd true (fxOne / 5) - 4 * fxOdd true (fxOne / 239)

/-- e^x: the series at x / 256, squared eight times. -/
def fxExp (x : Int) : Int :=
  let r := x / 256
  let s := (List.range 60).foldr (fun k a => fxOne + fxMul r a / (k + 1 : Nat)) fxOne
  (List.range 8).foldl (fun a _ => fxMul a a) s

/-- Logarithm of a positive number: its binary exponent times ln 2, and 2 atanh((f - 1) / (f + 1)) of the rest f. -/
def fxLn (x : Int) : Int :=
  let k : Int := (Nat.log2 x.natAbs : Int) - 256
  let f : Int := if 0 ≤ k then x / ((2 ^ k.toNat : Nat) : Int) else x * ((2 ^ (-k).toNat : Nat) : Int)
  2 * fxOdd false ((f - fxOne) * fxOne / (f + fxOne)) + k * fxLn2

/-- Integer square root below 2^340, bit by bit. -/
def isqrt (n : Nat) : Nat := (List.range 340).foldl (fun a k =>
  let b := a + 2 ^ (339 - k)
  if b * b ≤ n then b else a) 0

/-- sin x, or cos x: the angle brought into [-pi, pi], then the series. -/
def fxSin (cos : Bool) (x : Int) : Int :=
  let r := x % (2 * fxPi)
  let r := if fxPi < r then r - 2 * fxPi else r
  let rr := fxMul r r
  let o := b2n (!cos)
  ((List.range 50).foldl (fun (a : Int × Int) k =>
    (a.1 + a.2, -(fxMul a.2 rr) / ((2 * k + 1 + o) * (2 * k + 2 + o) : Nat))) (0, if cos then fxOne else r)).1

/-- The exact result for a finite input that no special value answers. -/
def fnExact (f : Fn) (v : FV) : Int :=
  let x := v.fx
  match f with
  | .exp => fxExp x
  | .exp2 => fxExp (fxMul x fxLn2)
  | .ln => fxLn x
  | .log2 => fxLn x * fxOne / fxLn2
  | .rcp => fxOne * fxOne / x
  | .rsq => (isqrt ((fxOne * fxOne * fxOne).toNat / x.natAbs) : Int)
  | .sin => fxSin false x
  | .cos => fxSin true x

/-! ## The bounds -/

/-- One ulp of a format at a value (R112). -/
def fxUlp (p : FP) (y : Int) : Int :=
  let e : Int := max ((Nat.log2 y.natAbs : Int) - 256) (1 - (p.bias : Int))
  ((2 ^ (e - p.mb + 256).toNat : Nat) : Int)

/-- The magnitude beyond which the bound of sin and cos grows with the input. -/
def Fn.far (f : Fn) (v : FV) : Bool := (f = .sin || f = .cos) && FV.lt (.fin false 4096 0) (fxFV v.fx.natAbs)

/-- The bound of a function on its error: FP32 result or a 16-bit one. -/
def fnBound (f : Fn) (fm : Fmt) (v : FV) (y : Int) : Int :=
  let wide := decide (fm = .fp32)
  let u := fxUlp fm.fp y
  let abs : Int := if wide then ((2 ^ 234 : Nat) : Int) else ((2 ^ 247 : Nat) : Int)
  let x := v.fx
  match f with
  | .exp | .exp2 | .rsq => if wide then 2 * u else u
  | .rcp => u
  | .ln | .log2 =>
    let b := if wide then 2 * u else u
    if fxOne ≤ 2 * x ∧ x ≤ 2 * fxOne then max b abs else b
  | .sin | .cos => if f.far v then (x.natAbs : Int) / 2 ^ 34 else abs

/-- A result is one that the bound allows; the exact value is known to some 200 bits. -/
def fnAllows (f : Fn) (fm : Fmt) (v : FV) (y : Int) (c : Nat) : Bool :=
  let b := fnBound f fm v y + y.natAbs / 2 ^ 200 + 2 ^ 40
  match fm.decode c with
  | .nan => false
  | .inf n => (decide (y < 0) == n) && (fm.decode (convert fm (fxFV (if n then y - b else y + b)) false none).1).isInf
  | .fin n m e =>
    let z := (FV.fin n m e).fx
    decide ((z - y).natAbs ≤ b.natAbs) && (!f.far v || decide (z.natAbs ≤ fxOne.natAbs))

/-- The exact result rounded to nearest. -/
def fnNearest (f : Fn) (fm : Fmt) (v : FV) (y : Int) : Nat :=
  (convert fm (fxFV (if f.far v then max (-fxOne) (min fxOne y) else y)) false none).1

/-- The module's result where the bound allows it, else the exact one rounded: every result that the bound allows can be the module's
(log 5). -/
def fnPick (f : Fn) (fm : Fmt) (v : FV) (y : Int) (c : Nat) : Nat := if fnAllows f fm v y c then c else fnNearest f fm v y

/-! ## Results -/

/-- Results that R112 states; none where it gives only a bound. The least x whose e^x is not below 2^-126 is
-11447375 * 2^-17 among FP32 values. -/
def fnSpecial (f : Fn) (x : FV) : Option FV :=
  let zero (n : Bool) : FV := .fin n 0 0
  let inf : FV := .inf false
  if x.isNan then some .nan
  else match f with
    | .exp =>
      if FV.lt (.fin false 8872284 0) (x.mul (.fin false 100000 0)) then some inf
      else if FV.lt x (.fin true 11447375 (-17)) then some (zero false) else none
    | .exp2 =>
      if !FV.lt x (.fin false 128 0) then some inf
      else if FV.lt x (.fin true 126 0) then some (zero false) else none
    | .ln | .log2 =>
      if x.isZero then some (.inf true) else if x.isNeg then some .nan else if x.isInf then some inf else none
    | .rcp =>
      if x.isZero then some (.inf x.isNeg)
      else if x.isInf then some (zero x.isNeg)
      else match x with
        | .fin n m e => if FV.lt (.fin false 1 126) (.fin false m e) then some (zero n) else none
        | _ => none
    | .rsq =>
      if x.isZero then some (.inf x.isNeg) else if x.isNeg then some .nan
      else if x.isInf then some (zero false) else none
    | .sin | .cos => if x.isInf then some .nan else none

/-- The result of a function in a lane format, from the input's bits `x` in lane type `ty`: the stated one, or a free choice within the
bound. With stochastic rounding the choice is made in FP32 and rounded with the lane's random bits (R152). -/
def fnResult (f : Fn) (ty : Nat) (fm : Fmt) (x : Nat) (sr : Option Nat) : Nat :=
  let v := fm.decode x
  match fnSpecial f v with
  | some r => (convert fm r false none).1
  | none =>
    let y := fnExact f v
    if sr.isSome ∧ fm ≠ .fp32 then
      let wide := fnPick f .fp32 v y (Config.approx f.code (8 + ty) x % 2 ^ 32)
      fnPick f fm v y (convert fm (Fmt.fp32.decode wide) false sr).1
    else fnPick f fm v y (Config.approx f.code ty x % 2 ^ fm.bits)

end Sys2Proof.Machine
end

