-- ==== Sys2Proof/Machine/CoreMove.lean ====
section
/-! DEFINITION. The MOVE operations (R147). -/

namespace Sys2Proof.Machine

/-- A unit reads pantry bytes and consumes them: a husked word among them traps the core and stops the operation
(R79). -/
def Dev.consume (d : Dev) (core a n pc : Nat) (s : State) (k : Dev → Dev) : Dev :=
  let d := d.readWords core a n
  match d.firstHusk core a n with
  | some w => d.trap core trapHusk pc 0 (d.wordBytes s core w)
  | none => k d

/-- Consume several ranges in order. -/
def Dev.consumeAll (d : Dev) (core pc : Nat) (s : State) (k : Dev → Dev) : List (Nat × Nat) → Dev
  | [] => k d
  | r :: rs => d.consume core r.1 r.2 pc s fun d => d.consumeAll core pc s k rs

/-- A number's little-endian bytes as a bit vector of `w` bits. -/
def bvOf (w : Nat) (bs : List Byte) : BitVec w := BitVec.ofNat w (ofLe bs)

/-- Bytes per lane of a lane type: 4 for FP32 and INT32, 2 for the 16-bit types (R152). -/
def laneBytes (ty : Nat) : Nat := if ty = 0 ∨ ty = 3 then 4 else 2

/-- LDV: a vector register from 256 bytes (R147). -/
def opLdv (core : Nat) (u : UOp) (s : State) (d : Dev) : Dev :=
  d.consume core u.addr 256 u.pc s fun d =>
    d.onCore core fun c => c.wrW (opIdx u.w.f0) (bvOf 2048 (d.bytesOf s core u.addr 256))

/-- STV: 256 bytes from a vector register, lanes whose mask bit is 0 not written (R147). -/
def opStv (core : Nat) (u : UOp) (_s : State) (d : Dev) : Dev :=
  let c := d.chip.core core
  let m := (c.rdM (opIdx u.w.f2)).toNat
  let bs := leBytes 256 (c.rdW (opIdx u.w.f0)).toNat
  let r := d.coreWrite core u.addr (bs.mapIdx fun k b => if m.testBit (k / laneBytes (bitsOf u.w.h 0 4)) then some b else none)
  r.1.dropped core r.2

/-- LDS: a scalar register from 4 bytes (R147). -/
def opLds (core : Nat) (u : UOp) (s : State) (d : Dev) : Dev :=
  d.consume core u.addr 4 u.pc s fun d =>
    d.onCore core fun c => c.wrS (opIdx u.w.f0) (bvOf 32 (d.bytesOf s core u.addr 4))

/-- STS: 4 bytes from the scalar read at issue (R141, R147). -/
def opSts (core : Nat) (u : UOp) (_s : State) (d : Dev) : Dev :=
  d.coreStore core u.addr (leBytes 4 (u.sc.getD 0 0).toNat)

/-- LDD: a descriptor from 32 bytes (R147). -/
def opLdd (core : Nat) (u : UOp) (s : State) (d : Dev) : Dev :=
  d.consume core u.addr 32 u.pc s fun d =>
    d.onCore core fun c => c.wrD (opIdx u.w.f0) (bvOf 256 (d.bytesOf s core u.addr 32))

/-- SETD: 4 bytes of a descriptor from a scalar (R147). -/
def opSetd (core : Nat) (u : UOp) (_s : State) (d : Dev) : Dev :=
  d.onCore core fun c =>
    let r := opIdx u.w.f0
    c.wrD r (BitVec.ofNat 256 (setBits (c.rdD r).toNat (8 * u.w.h) 32 (u.sc.getD 1 0).toNat))

/-- COPY of one line: the words with their marks; a read error is met as at any read (R147, R168). Whether a byte was
lost to a send region. -/
def copyLine (core dstA srcA : Nat) (s : State) (d : Dev) : Dev × Bool :=
  let d := d.readWords core srcA 128
  (List.range 8).foldl (fun (acc : Dev × Bool) k =>
    let w := srcA / 16 + k
    let bs := acc.1.wordBytes s core w
    let r := if acc.1.husked (wordKey core w) then acc.1.coreHusk core (dstA / 16 + k) bs
      else acc.1.coreWrite core (dstA + 16 * k) (bs.map some)
    (r.1, acc.2 || r.2)) (d, false)

/-- COPY: lines in ascending address order (R147). -/
def opCopy (core : Nat) (u : UOp) (s : State) (d : Dev) : Dev :=
  let from' := ((u.sc.getD 2 0) + BitVec.ofNat 32 u.w.i).toNat
  let r := (List.range u.w.h).foldl (fun (acc : Dev × Bool) k =>
    let x := copyLine core (u.addr + 128 * k) (from' + 128 * k) s acc.1
    (x.1, acc.2 || x.2)) (d, false)
  r.1.dropped core r.2

/-- FILL: lines of a repeated 32-bit pattern (R147). -/
def opFill (core : Nat) (u : UOp) (_s : State) (d : Dev) : Dev :=
  d.coreStore core u.addr (List.replicate (32 * u.w.h) (leBytes 4 u.w.i)).flatten

/-- The byte ranges that a MOVE operation touches and the alignment it asks for (R135, R147). -/
def moveRanges (op : Nat) (w : OpWord) (addr srcA : Nat) : List (Nat × Nat) × Nat :=
  match op with
  | 1 | 2 => ([(addr, 256)], 16)
  | 3 | 4 => ([(addr, 4)], 4)
  | 5 => ([(addr, 32)], 32)
  | 7 => ([(addr, 128 * w.h), (srcA, 128 * w.h)], 128)
  | 8 => ([(addr, 128 * w.h)], 128)
  | _ => ([], 1)

end Sys2Proof.Machine
end

