-- ==== Sys2Proof/Machine/CoreMat.lean ====
section
/-! DEFINITION. The matrix engine: exact block accumulation (R95 to R100), structured sparsity (R107), the shell sums
(R108 to R110) with their comparison (R423 to R426), and the MAT operations (R148 to R151). -/

namespace Sys2Proof.Machine

/-! ## Operands of one K-block -/

/-- One stored column of B in a K-block: (position in the block, element code), in stored order (R107, R138). -/
abbrev Col := List (Nat × Nat)

/-- The stored values of B per group of four positions: all four, two or one (R107). -/
def perGroup (sparse : Nat) : Nat := if sparse = 1 then 2 else if sparse = 2 then 1 else 4

/-- Stored rows per K-block: 32 dense, 16 for 2:4 and 8 for 1:4 (R138). -/
def storedRows (sparse : Nat) : Nat := 8 * perGroup sparse

/-- The byte ranges of A in K-block `kb` (R136, R137). -/
def rangesA (t : Desc) (kb : Nat) : List (Nat × Nat) :=
  (t.base + kb * t.stride, t.rows * (4 * t.format.bits)) :: if t.mx then [(t.scale + kb * t.sstride, t.rows)] else []

/-- The byte ranges of B in K-block `kb` (R136 to R138). -/
def rangesB (t : Desc) (kb : Nat) : List (Nat × Nat) :=
  let g := storedRows t.sparse
  ((List.range g).map fun k => (t.base + (kb * g + k) * t.stride, rowBytes t.format.bits t.cols))
    ++ (if t.sparse = 0 then [] else [(t.meta' + kb * 16 * g, t.cols * g / 4)])
    ++ (if t.mx then [(t.scale + kb * t.sstride, t.cols)] else [])

/-- Element codes of A in K-block `kb`, row by row; rows beyond ROWS read as zero (R139). -/
def loadA (d : Dev) (s : State) (core : Nat) (t : Desc) (kb : Nat) : ABuf :=
  let e := t.format.bits
  let rows := (List.range 32).map fun i =>
    if i < t.rows then unpackElems e 32 (d.bytesOf s core (t.base + kb * t.stride + i * (4 * e)) (4 * e))
    else List.replicate 32 0
  { elems := rows.flatten
    scales := if t.mx then padTo 32 127 ((d.bytesOf s core (t.scale + kb * t.sstride) t.rows).map BitVec.toNat) else [] }

/-- Columns of B in K-block `kb`; columns beyond COLS read as zero (R107, R138, R139). -/
def loadB (d : Dev) (s : State) (core : Nat) (t : Desc) (kb : Nat) : List Col × List Nat :=
  let g := storedRows t.sparse
  let pg := perGroup t.sparse
  let rows := (List.range g).map fun k =>
    unpackElems t.format.bits t.cols (d.bytesOf s core (t.base + (kb * g + k) * t.stride) (rowBytes t.format.bits t.cols))
  let idx (j k : Nat) : Nat :=
    bitsOf (leField (d.bytesOf s core (t.meta' + kb * 16 * g + j * (g / 4)) (g / 4)) 0 4) (2 * k) 2
  let cols := (List.range 64).map fun j =>
    if j < t.cols then
      (List.range g).map fun k =>
        (if t.sparse = 0 then k else k / pg * 4 + idx j k, (rows.getD k []).getD j 0)
    else (List.range 32).map fun k => (k, 0)
  (cols, if t.mx then padTo 64 127 ((d.bytesOf s core (t.scale + kb * t.sstride) t.cols).map BitVec.toNat) else [])

/-- A column's dense expansion in order of ascending position: a position with no stored value holds zero, and two
values at one position both count, in stored order (R107). -/
def Col.sorted (c : Col) : Col := (List.range 32).flatMap fun k =>
  match c.filter fun p => p.1 = k with
  | [] => [(k, 0)]
  | l => l

/-- The factors of a cell, in order of ascending k: (code of A, code of B). -/
def factors (row : List Nat) (c : Col) : List (Nat × Nat) := c.sorted.map fun p => (row.getD p.1 0, p.2)

/-! ## The block sum of a cell -/

/-- What an operand brings to a cell: its format, whether it carries block scales, and the scale of this row or column. -/
structure Side where
  fmt : Fmt
  mx : Bool
  scale : Nat
deriving DecidableEq, Repr

/-- The exponent by which an element's integer stands for its value (R93, R95, R97). -/
def Side.exp (x : Side) : Int := x.fmt.unitExp x.mx + (if x.mx then (x.scale : Int) - 127 else 0)

/-- The value an element stands for, with its block scale (R92, R93). -/
def Side.value (x : Side) (code : Nat) : FV :=
  if x.mx && x.scale = 255 then .nan
  else match x.fmt.decode code with
    | .fin n m e => .fin n m (e + (if x.mx then (x.scale : Int) - 127 + (if x.fmt = .int8 then -6 else 0) else 0))
    | v => v

/-- A code or scale of a K-block that R99 names: a NaN, an infinity or a NaN block scale. -/
def Side.special (x : Side) (code : Nat) : Bool :=
  match x.value code with
  | .fin _ _ _ => false
  | _ => true

/-- Sum of a list of integers. -/
def isum (l : List Int) : Int := l.foldl (· + ·) 0

/-- The window of R96: how many low bits each product loses when an operand is E5M2. -/
def window (e5m2 : Bool) (ps : List Int) : Nat :=
  if e5m2 then Nat.log2 (ps.foldl (fun m p => max m p.natAbs) 0) - 41 else 0

/-- The block sum in units of 2^window, the window, and whether a product lost a set bit (R95, R96). -/
def blockSum (e5m2 : Bool) (ps : List Int) : Int × Nat × Bool :=
  let k := window e5m2 ps
  (isum (ps.map fun p : Int => p / ((2 ^ k : Nat) : Int)), k, ps.any fun p : Int => p % ((2 ^ k : Nat) : Int) ≠ 0)

/-- The products of element integers (R95). -/
def products (a b : Side) (fs : List (Nat × Nat)) : List Int :=
  fs.map fun p => a.fmt.elemInt p.1 * b.fmt.elemInt p.2

/-- A NaN that an operation produces from operands that are none (R104). -/
def madeNan (r : FV) (ops : List FV) : Bool := r.isNan && !ops.any FV.isNan

/-- The sum of scaled products by IEEE 754 rules, in order of ascending k, and whether a product or a sum made a NaN
from operands that are none (R99, R104). -/
def ieeeSum (a b : Side) (fs : List (Nat × Nat)) : FV × Bool :=
  fs.foldl (fun acc p =>
    let x := a.value p.1
    let y := b.value p.2
    let v := x.mul y
    let r := acc.1.add v
    (r, acc.2 || madeNan v [x, y] || madeNan r [acc.1, v])) (.fin false 0 0, false)

/-- The integer as a datum times a power of two. -/
def fvInt (i : Int) (e : Int) : FV := .fin (decide (i < 0)) i.natAbs e

/-- What one cell does with a K-block: the new entry, the flags, and whether an integer entry saturated. -/
structure CellOut where
  ent : BitVec 48
  flags : Nat
  sat : Bool := false
deriving DecidableEq, Repr

/-- An FP32 entry after one addition rounded to nearest even, with OF, and NV when the sum or the addend was made a NaN
(R97, R104). -/
def accF32 (c : Word) (v : FV) (made : Bool) : Word × Nat :=
  let r := (f32 c).add v
  let k := convert .fp32 r false none
  (BitVec.ofNat 32 k.1, k.2 ||| (if made || madeNan r [f32 c, v] then flagNV else 0))

/-- A cell of an exact-block pair that accumulates in FP32 (R96, R97); `ieee` in a K-block that holds a NaN, an infinity or a NaN block
scale, whose cells all follow IEEE 754 (R99). -/
def cellExact (a b : Side) (fs : List (Nat × Nat)) (delta : Int) (ieee : Bool) (c : Word) : CellOut :=
  if ieee then
    let v := ieeeSum a b fs
    let r := accF32 c (if delta = 0 then v.1 else v.1.add (fvInt delta (a.exp + b.exp))) v.2
    ⟨r.1.zeroExtend 48, r.2, false⟩
  else
    let s := blockSum (a.fmt = .e5m2 || b.fmt = .e5m2) (products a b fs)
    let r := accF32 c (fvInt (s.1 + delta / ((2 ^ s.2.1 : Nat) : Int)) (a.exp + b.exp + s.2.1)) false
    ⟨r.1.zeroExtend 48, r.2 ||| (if s.2.2 then flagTRUNC else 0), false⟩

/-- A cell that accumulates integers, saturating at -2^47 and 2^47 - 1 (R98). -/
def cellInt (a b : Side) (fs : List (Nat × Nat)) (delta : Int) (c : BitVec 48) : CellOut :=
  let i := c.toInt + (blockSum false (products a b fs)).1 + delta
  let hi : Int := 2 ^ 47 - 1
  let lo : Int := -(2 ^ 47)
  if hi < i then ⟨BitVec.ofInt 48 hi, flagSAT, true⟩
  else if i < lo then ⟨BitVec.ofInt 48 lo, flagSAT, true⟩
  else ⟨BitVec.ofInt 48 i, 0, false⟩

/-- A cell of BF16 or FP16: each product exact, added with one rounding in order of ascending k (R100). A defect adds
`delta` units of 2^-40 to the first product. -/
def cellHalf (a b : Side) (fs : List (Nat × Nat)) (delta : Int) (c : Word) : CellOut :=
  let r := (fs.zipIdx).foldl (fun (acc : Word × Nat) p =>
    let x := a.value p.1.1
    let y := b.value p.1.2
    let v := if p.2 = 0 ∧ delta ≠ 0 then (x.mul y).add (fvInt delta (-40)) else x.mul y
    let k := accF32 acc.1 v (madeNan v [x, y])
    (k.1, acc.2 ||| k.2)) (c, 0)
  ⟨r.1.zeroExtend 48, r.2, false⟩

/-! ## Shell sums and their comparison -/

/-- What a comparison of a K-block found (R423, R424, R440): mismatching rows and columns as masks, the corner, an
exponent disagreement, a residue mismatch, whether tolerances applied; whether a comparison met a NaN or an infinity;
and whether any comparison was made. -/
structure Shell where
  rows : Nat := 0
  cols : Nat := 0
  corner : Bool := false
  exponent : Bool := false
  residue : Bool := false
  ulp : Bool := false
  spec : Bool := false
  made : Bool := true
deriving DecidableEq, Repr

/-- Any difference is a mismatch. -/
def Shell.bad (x : Shell) : Bool := x.rows ≠ 0 || x.cols ≠ 0 || x.corner || x.exponent || x.residue

/-- The mask of the indices below `n` that pass a test. -/
def maskOf (n : Nat) (p : Nat → Bool) : Nat := ofBitList ((List.range n).filter p)

/-- Row `i` of A in a buffer. -/
def ABuf.row (b : ABuf) (i : Nat) : List Nat := (b.elems.drop (32 * i)).take 32

/-- The shell sums of an exact-block pair, modulo 2^40, against the array's totals; `inj` is added to shell column
row 0, `delta` to the products of a defective cell (R108, R109, R423, R443). -/
def shellExact (fa fb : Fmt) (A : ABuf) (cols : List Col) (bad : Option (Nat × Nat)) (delta inj : Int) : Shell :=
  let md : Int := 2 ^ 40
  let a (i k : Nat) : Int := fa.elemInt ((A.row i).getD k 0)
  let beta (k : Nat) : Int := isum (cols.flatMap fun c => (c.filter fun p => p.1 = k).map fun p => fb.elemInt p.2)
  let alpha (k : Nat) : Int := isum ((List.range 32).map fun i => a i k)
  let dl (i j : Nat) : Int := if bad = some (i, j) then delta else 0
  let cell (i j : Nat) : Int := isum ((cols.getD j []).map fun p => a i p.1 * fb.elemInt p.2) + dl i j
  let shellCol (i : Nat) : Int := isum ((List.range 32).map fun k => a i k * beta k) + (if i = 0 then inj else 0)
  let shellRow (j : Nat) : Int := isum ((cols.getD j []).map fun p => alpha p.1 * fb.elemInt p.2)
  let corner : Int := isum ((List.range 32).map fun k => alpha k * beta k)
  let rowTot (i : Nat) : Int := isum ((List.range 64).map fun j => cell i j)
  let colTot (j : Nat) : Int := isum ((List.range 32).map fun i => cell i j)
  let grand : Int := isum ((List.range 32).map rowTot)
  { rows := maskOf 32 fun i => (shellCol i - rowTot i) % md ≠ 0
    cols := maskOf 64 fun j => (shellRow j - colTot j) % md ≠ 0
    corner := (corner - grand) % md ≠ 0 }

/-- FP32 sum of values, each step rounded to nearest even. -/
def fsum (l : List FV) : FV := f32 (l.foldl (fun (acc : Word) v => toF32 ((f32 acc).add v)) 0)

/-- The unit of R424 as a power of two: the FP32 ulp of a magnitude. -/
def ulpExp (m : Nat) (e : Int) : Int := if m = 0 then -149 else max (-149) (ilog2 m e - 23)

/-- One comparison of R424: 0 equal within tolerance, 1 a mismatch, 2 suppressed. -/
def ulpCompare (tol : Nat) (x y : FV) : Nat :=
  match x, y with
  | .fin n1 m1 e1, .fin n2 m2 e2 =>
    let big := if FV.lt (.fin false m1 e1) (.fin false m2 e2) then (m2, e2) else (m1, e1)
    match (FV.fin n1 m1 e1).add (.fin (!n2) m2 e2) with
    | .fin _ m e => if FV.lt (.fin false tol (ulpExp big.1 big.2)) (.fin false m e) then 1 else 0
    | _ => 2
  | _, _ => 2

/-- The shell values of BF16 and FP16 in FP32, compared within the bank's tolerance (R110, R424; a cell's contribution: log 141); `inj` units of 1 are
added to shell column row 0. -/
def shellHalf (a b : Side) (A : ABuf) (cols : List Col) (bad : Option (Nat × Nat)) (delta : Int) (inj : Int) (tol : Nat) : Shell :=
  let av (i k : Nat) : FV := a.value ((A.row i).getD k 0)
  let bvs (j : Nat) : List (Nat × FV) := ((cols.getD j []).sorted).map fun p => (p.1, b.value p.2)
  let beta := (List.range 32).map fun k => fsum ((List.range 64).flatMap fun j => ((bvs j).filter fun p => p.1 = k).map Prod.snd)
  let alpha := (List.range 32).map fun k => fsum ((List.range 32).map fun i => av i k)
  let z : FV := .fin false 0 0
  let cell (i j : Nat) : FV :=
    f32 ((cellHalf a b (factors (A.row i) (cols.getD j [])) (if bad = some (i, j) then delta else 0) 0).ent.truncate 32)
  let cells := (List.range 32).map fun i => (List.range 64).map (cell i)
  let shellCol (i : Nat) : FV :=
    let v := fsum ((List.range 32).map fun k => (av i k).mul (beta.getD k z))
    if i = 0 ∧ inj ≠ 0 then v.add (fvInt inj 0) else v
  let shellRow (j : Nat) : FV := fsum ((bvs j).map fun p => (alpha.getD p.1 z).mul p.2)
  let corner := fsum ((List.range 32).map fun k => (alpha.getD k z).mul (beta.getD k z))
  let rowTot := cells.map fsum
  let colTot := (List.range 64).map fun j => fsum (cells.map fun r => r.getD j z)
  let rowC := (List.range 32).map fun i => ulpCompare tol (shellCol i) (rowTot.getD i z)
  let colC := (List.range 64).map fun j => ulpCompare tol (shellRow j) (colTot.getD j z)
  let corC := [ulpCompare tol corner (fsum rowTot), ulpCompare tol corner (fsum colTot)]
  { rows := maskOf 32 fun i => rowC.getD i 0 = 1
    cols := maskOf 64 fun j => colC.getD j 0 = 1
    corner := corC.any (· = 1)
    ulp := true
    spec := (rowC ++ colC ++ corC).any (· = 2) }

/-- The DETAIL of a SHELL entry (R440). -/
def Shell.detail (x : Shell) (bank kb : Nat) : List Byte :=
  leBytes 4 x.rows ++ leBytes 8 x.cols
    ++ leBytes 1 (b2n x.corner + 2 * b2n x.exponent + 4 * b2n x.residue + 8 * b2n (x.ulp && (x.rows ≠ 0 || x.cols ≠ 0 || x.corner)))
    ++ leBytes 1 bank ++ leBytes 2 kb

/-- A SHELL error of a core (R426): logged, the room's frame fails with cause CONTAINMENT, and the channel records it
unless an injection with NOCOUNT caused it. -/
def Dev.shellError (d : Dev) (core : Nat) (detail : List Byte) (inj : Option Inj) : Dev :=
  let nocount := inj.any Inj.nocount
  let room := d.chip.coreRoom core
  let d := d.log { cls := clsShell, kind := 1, index := core, room := room.getD 0xFF, detail, injected := nocount, contain := room.isSome }
  let d := d.onChip fun c => { c with integ := { c.integ with shells := satAdd 32 c.integ.shells 1 } }
  let d := if nocount then d else d.chanErr 3 core
  match room with
  | some r => d.failRoom r 4
  | none => d

/-! ## One K-block, and MMA -/

/-- The pairs that R85 lists: the cycles of a dense K-block, or none. -/
def pairCycles (fa fb : Fmt) : Option Nat :=
  let small (f : Fmt) : Bool := f = .e2m3 || f = .e3m2 || f = .e2m1
  let fp8 (f : Fmt) : Bool := f = .e4m3 || f = .e5m2
  if (fp8 fa && (fp8 fb || small fb)) || (small fa && fp8 fb) then some 32
  else if small fa && small fb then some 16
  else if fa = .int4 && fb = .int4 then some 16
  else if (fa = .int8 || fa = .int4) && (fb = .int8 || fb = .int4) then some 32
  else if (fa = .bf16 && fb = .bf16) || (fa = .fp16 && fb = .fp16) then some 64
  else none

/-- BF16 and FP16 accumulate product by product. -/
def Fmt.isHalf (f : Fmt) : Bool := f = .bf16 || f = .fp16

/-- The operands of an MMA after issue: the two tiles with offsets and ping-pong applied. -/
structure MmaArgs where
  a : Desc
  b : Desc
  isInt : Bool
  zero : Bool
  keep : Bool
  bank : Nat
  kb0 : Nat
  kb : Nat
deriving DecidableEq, Repr

/-- One K-block on a bank: every cell, the flags, and the shell comparison (R95 to R100, R423 to R426). -/
def mmaBlock (core : Nat) (x : MmaArgs) (fault : MacFault) (A : ABuf) (B : List Col × List Nat) (kb : Nat) (s : State) (d : Dev) : Dev :=
  let fa := x.a.format
  let fb := x.b.format
  let sideA (i : Nat) : Side := ⟨fa, x.a.mx, A.scales.getD i 127⟩
  let sideB (j : Nat) : Side := ⟨fb, x.b.mx, B.2.getD j 127⟩
  let dl (i j : Nat) : Int := if fault.cell = some (i, j) then fault.delta else 0
  let bank := (d.chip.core core).rdB x.bank
  let special := ((List.range 32).any fun i => (A.row i).any fun c => (sideA i).special c)
    || ((List.range 64).any fun j => (B.1.getD j []).any fun p => (sideB j).special p.2)
  let outs := (List.range 32).flatMap fun i => (List.range 64).map fun j =>
    let fs := factors (A.row i) (B.1.getD j [])
    let old := bank.at' i j
    (i, j, if x.isInt then cellInt (sideA i) (sideB j) fs (dl i j) old
           else if fa.isHalf then cellHalf (sideA i) (sideB j) fs (dl i j) (old.truncate 32)
           else cellExact (sideA i) (sideB j) fs (dl i j) special (old.truncate 32))
  let bank' := outs.foldl (fun (b : Bank) o => b.set o.1 o.2.1 o.2.2.ent) bank
  let flags := orAll (outs.map fun o => o.2.2.flags)
  let sats := (outs.filter fun o => o.2.2.sat).length
  let tol := Tab.get 4 (d.chip.core core).tol x.bank
  let off := special || (fa.isHalf && tol = 0xFFFF)
  let mine (k : Nat) : Option Inj := (s.injOn d k).filter fun i => i.srcKind = 1 && i.target = core
  let i6 := if off then none else mine 6
  let d := match i6 with
    | some i => d.useInj i
    | none => d
  let i7 := if off then none else mine 7
  let d := match i7 with
    | some i => d.useInj i
    | none => d
  let inj : Int := if i6.isSome then 1 else 0
  let sh : Shell :=
    if off then { made := false }
    else if fa.isHalf then shellHalf (sideA 0) (sideB 0) A B.1 fault.cell fault.delta inj tol
    else shellExact fa fb A B.1 fault.cell fault.delta inj
  let sh := { sh with exponent := fault.exponent, residue := fault.residue || i7.isSome }
  let d := d.onCore core fun c => c.wrB x.bank bank'
  let d := d.coreFlags core (flags ||| (if special || sh.spec then flagSPEC else 0))
  let d := if flags &&& flagTRUNC ≠ 0 then d.countTrunc core else d
  let d := if special then d.countSpec core
    else if sh.spec then d.onTow fun t => { t with specs := Tab.upd 0 t.specs (towerOf core) fun n => satAdd 32 n 1 }
    else d
  let d := d.countSat core sats
  let d := if sh.made then d.chanChecked 3 core else d
  if sh.bad then d.shellError core (sh.detail x.bank kb) (i6.or i7) else d

/-- The operands of an MMA from its captured operation and the frame number (R135, R149). -/
def mmaArgs (u : UOp) (frame : Nat) : MmaArgs :=
  let off (k : Nat) (t : Desc) : Desc := { t with base := t.base + (u.sc.getD k 0).toNat }
  { a := off 4 ((Desc.ofBits (u.ds.getD 1 0)).pingPong frame)
    b := off 5 ((Desc.ofBits (u.ds.getD 2 0)).pingPong frame)
    isInt := bitOf u.w.i 18, zero := bitOf u.w.i 16, keep := bitOf u.w.i 17
    bank := opIdx u.w.f0, kb0 := (u.sc.getD 3 0).toNat, kb := u.w.h }

/-- The bank cleared, with a mode and a tag of two factors (R119, R148, R149). -/
def Bank.cleared (isInt : Bool) (ta tb : Word) : Bank := { ent := [], tagA := ta, tagB := tb, isInt }

/-- The K-blocks of an executed MMA whose operands hold no husk (R148, R149, R151). -/
def mmaRun (core : Nat) (u : UOp) (x : MmaArgs) (blocks : List Nat) (s : State) (d : Dev) : Dev :=
  let d := if x.zero then
      d.onCore core fun c => c.wrB x.bank (Bank.cleared x.isInt x.a.tileScale x.b.tileScale)
    else d
  blocks.foldl (fun d kb =>
    let A := if x.keep then (d.chip.core core).abuf else loadA d s core x.a kb
    let d := d.onCore core fun c => { c with abuf := A }
    mmaBlock core x u.fault A (loadB d s core x.b kb) kb s d) d

/-- MMA (R148 to R151). Masked off, it only loads its A buffer; a husked word then waits in the buffer. -/
def opMma (core : Nat) (u : UOp) (s : State) (d : Dev) : Dev :=
  let x := mmaArgs u d.chip.frm.cur
  let blocks := (List.range x.kb).map (· + x.kb0)
  if !u.run then
    if x.keep then d
    else
      let last := x.kb0 + x.kb - 1
      let rs := rangesA x.a last
      let d := rs.foldl (fun d r => d.readWords core r.1 r.2) d
      let husk := rs.findSome? fun r => d.firstHusk core r.1 r.2
      d.onCore core fun c => { c with abuf := { loadA d s core x.a last with husk := husk.map fun w => d.wordBytes s core w } }
  else
    let held := if x.keep then (d.chip.core core).abuf.husk else none
    match held with
    | some rec => d.trap core trapHusk u.pc 0 rec
    | none =>
      let rs := blocks.flatMap fun kb => (if x.keep then [] else rangesA x.a kb) ++ rangesB x.b kb
      d.consumeAll core u.pc s (mmaRun core u x blocks s) rs

/-! ## Output and bank moves -/

/-- An entry times its tag, exact (R103). -/
def Bank.scaled (b : Bank) (i j : Nat) : FV := ((b.value i j).mul (f32 b.tagA)).mul (f32 b.tagB)

/-- One converted element, with a stochastic value when the tile asks for it (R101, R102). -/
def convElem (f : Fmt) (t : Desc) (v : FV) (d : Dev) : (Nat × Nat) × Dev :=
  if t.sr then
    let r := d.freshSr
    (convert f v t.sat (some r.1), r.2)
  else (convert f v t.sat none, d)

/-- Put `e` bits at a bit position of a byte map of enabled bytes: the map holds the bytes written so far. -/
def putBits (old : Nat → Byte) (m : Tab Byte) (a bit e v : Nat) : Tab Byte :=
  let n := (bit + e + 7) / 8
  let cur := leField ((List.range n).map fun k => (Tab.find m (a + k)).getD (old (a + k))) 0 n
  (leBytes n (setBits cur bit e v)).zipIdx.foldl (fun m p => Tab.ins m (a + p.2) p.1) m

/-- The runs of consecutive addresses of a byte map. -/
def runsOf (m : Tab Byte) : List (Nat × List Byte) :=
  m.foldr (fun p acc =>
    match acc with
    | (a, bs) :: r => if a = p.1 + 1 then (p.1, p.2 :: bs) :: r else (p.1, [p.2]) :: acc
    | [] => [(p.1, [p.2])]) []

/-- The scale addresses and element groups of an MX output (R105, R137): the address of the scale, then the elements. -/
def mxGroups (t : Desc) : List (Nat × List (Nat × Nat)) :=
  if t.axisM then (List.range t.cols).map fun j => (t.scale + j, (List.range 32).map fun i => (i, j))
  else (List.range t.rows).flatMap fun i => (List.range (t.cols / 32)).map fun q =>
    (t.scale + q * t.sstride + i, (List.range 32).map fun k => (i, 32 * q + k))

/-- One element written into the map, with its flags. -/
structure OutAcc where
  m : Tab Byte := []
  flags : List Nat := []
  d : Dev

/-- The bytes, flags and random draws of an output tile (R103 to R105). -/
def outTile (b : Bank) (t : Desc) (old : Nat → Byte) (d : Dev) : OutAcc :=
  let f := t.format
  let put (acc : OutAcc) (i j : Nat) (r : (Nat × Nat) × Dev) (nv : Nat) : OutAcc :=
    let p := t.elemAt i j
    { m := putBits old acc.m p.1 p.2 f.bits r.1.1, flags := (r.1.2 ||| nv) :: acc.flags, d := r.2 }
  let nanOf (i j : Nat) : Nat := nvFlag (b.scaled i j) [b.value i j, f32 b.tagA, f32 b.tagB]
  if t.mx then
    (mxGroups t).foldl (fun acc g =>
      let vs := g.2.map fun p => b.scaled p.1 p.2
      let sc := mxScale f vs
      let acc := { acc with m := Tab.ins acc.m g.1 (BitVec.ofNat 8 sc) }
      g.2.foldl (fun acc p =>
        let v := b.scaled p.1 p.2
        let r := if t.sr then
            let x := acc.d.freshSr
            (mxElem f sc v (some x.1), x.2)
          else (mxElem f sc v none, acc.d)
        put acc p.1 p.2 r (nanOf p.1 p.2)) acc) { d }
  else
    (List.range t.rows).foldl (fun acc i => (List.range t.cols).foldl (fun acc j =>
      put acc i j (convElem f t (b.scaled i j) acc.d) (nanOf i j)) acc) { d }

/-- The tile that OUT writes: ping-pong and the byte offset applied (R135, R148). -/
def outDesc (u : UOp) (frame : Nat) : Desc :=
  let t := (Desc.ofBits (u.ds.getD 1 0)).pingPong frame
  { t with base := t.base + (u.sc.getD 4 0).toNat }

/-- OUT (R148). -/
def opOut (core : Nat) (u : UOp) (s : State) (d : Dev) : Dev :=
  let t := outDesc u d.chip.frm.cur
  let mem := d.memory s
  let r := outTile ((d.chip.core core).rdB (opIdx u.w.f0)) t (fun a => mem.get (pantryAddr core a)) d
  let w := (runsOf r.m).foldl (fun (acc : Dev × Bool) p =>
    let x := acc.1.coreWrite core p.1 (p.2.map some)
    (x.1, acc.2 || x.2)) (r.d, false)
  ((w.1.dropped core w.2).coreFlags core (orAll r.flags)).countSat core (satCount r.flags)

/-- The image of a bank that STACC writes (R148). -/
def Bank.image (b : Bank) : List Byte :=
  ((List.range 2048).flatMap fun k => leBytes 8 ((Tab.get 0 b.ent k).signExtend 64).toNat)
    ++ leBytes 4 b.tagA.toNat ++ leBytes 4 (b2n b.isInt) ++ leBytes 4 b.tagB.toNat ++ List.replicate 116 0

/-- The entry of a word of a bank image: an integer of 48 bits, or an FP32 value in bits [31:0] with
bits [47:32] zero (R83, R148). -/
def imageEntry (isInt : Bool) (w : Nat) : BitVec 48 := BitVec.ofNat 48 (if isInt then w else w % 2 ^ 32)

/-- The bank of an image (R148). -/
def Bank.ofImage (bs : List Byte) : Bank :=
  let isInt := bitOf (leField bs 16388 1) 0
  { ent := (List.range 2048).foldl (fun t k => Tab.put 0 t k (imageEntry isInt (leField bs (8 * k) 8))) []
    tagA := BitVec.ofNat 32 (leField bs 16384 4), tagB := BitVec.ofNat 32 (leField bs 16392 4)
    isInt := isInt }

/-- Bytes of a bank image: 129 lines. -/
def bankImageBytes : Nat := 129 * 128

/-- STACC (R148). -/
def opStacc (core : Nat) (u : UOp) (_s : State) (d : Dev) : Dev :=
  d.coreStore core u.addr ((d.chip.core core).rdB (opIdx u.w.f0)).image

/-- LDACC (R148). -/
def opLdacc (core : Nat) (u : UOp) (s : State) (d : Dev) : Dev :=
  d.consume core u.addr bankImageBytes u.pc s fun d =>
    d.onCore core fun c => c.wrB (opIdx u.w.f0) (Bank.ofImage (d.bytesOf s core u.addr bankImageBytes))

/-- CLR (R148). -/
def opClr (core : Nat) (u : UOp) (_s : State) (d : Dev) : Dev :=
  d.onCore core fun c => c.wrB (opIdx u.w.f0) (Bank.cleared (bitOf u.w.i 18) 0x3F800000 0x3F800000)

/-- FP32 lane `l` of a vector register. -/
def lane32 (v : BitVec 2048) (l : Nat) : Word := BitVec.ofNat 32 (bitsOf v.toNat (32 * l) 32)

/-- A vector register from 64 lanes of 32 bits. -/
def ofLanes32 (l : List Word) : BitVec 2048 := bvOf 2048 (l.flatMap fun x => leBytes 4 x.toNat)

/-- One FP32 product rounded to nearest even, with its flags (R104, R111). -/
def mulF32 (a b : Word) : Word × Nat :=
  let r := (f32 a).mul (f32 b)
  let k := convert .fp32 r false none
  (BitVec.ofNat 32 k.1, k.2 ||| nvFlag r [f32 a, f32 b])

/-- ROWSCALE (R148). -/
def opRowscale (core : Nat) (u : UOp) (_s : State) (d : Dev) : Dev :=
  let c := d.chip.core core
  let v := c.rdW (opIdx u.w.f1)
  let b := c.rdB (opIdx u.w.f0)
  let r := (List.range 2048).foldl (fun (acc : Bank × Nat) k =>
    let x := mulF32 ((b.at' (k / 64) (k % 64)).truncate 32) (lane32 v (k / 64))
    (acc.1.set (k / 64) (k % 64) (x.1.zeroExtend 48), acc.2 ||| x.2)) (b, 0)
  (d.onCore core fun c => c.wrB (opIdx u.w.f0) r.1).coreFlags core r.2

/-- TOV (R148). -/
def opTov (core : Nat) (u : UOp) (_s : State) (d : Dev) : Dev :=
  d.onCore core fun c =>
    let b := c.rdB (opIdx u.w.f1)
    c.wrW (opIdx u.w.f0) (ofLanes32 ((List.range 64).map fun j => (b.at' u.w.h j).truncate 32))

/-- FROMV (R148). -/
def opFromv (core : Nat) (u : UOp) (_s : State) (d : Dev) : Dev :=
  d.onCore core fun c =>
    let v := c.rdW (opIdx u.w.f1)
    let b := c.rdB (opIdx u.w.f0)
    c.wrB (opIdx u.w.f0) ((List.range 64).foldl (fun b j => b.set u.w.h j ((lane32 v j).zeroExtend 48)) b)

/-! ## Checks that a MAT word meets at issue -/

/-- What R149 to R151 and R139 make ILLEGAL for an MMA, beyond R130; `last` is what the last MAT word left. -/
def mmaLegal (c : Core) (w : OpWord) : Bool :=
  let da := c.rdD (opIdx w.f1)
  let db := c.rdD (opIdx w.f2)
  let a := Desc.ofBits da
  let b := Desc.ofBits db
  let kb0 := (c.rdS (opIdx w.f3)).toNat
  let bank := c.rdB (opIdx w.f0)
  let isInt := bitOf w.i 18
  let intFmt (f : Fmt) : Bool := f = .int8 || f = .int4
  let ranked := pairCycles a.format b.format
  descOk da && descOk db && (Fmt.ofCode a.fmt).isSome && (Fmt.ofCode b.fmt).isSome && ranked.isSome && a.sparse = 0
    && (b.sparse ≠ 2 || b.format = .e2m1 || b.format = .int4)
    && a.blk && !b.blk && decide (0 < a.rows) && decide (a.rows ≤ 32) && decide (0 < b.cols) && decide (b.cols ≤ 64)
    && decide ((kb0 + w.h) * 32 ≤ a.cols) && decide ((kb0 + w.h) * 32 ≤ b.rows)
    && (!a.format.isHalf || (!a.mx && !b.mx))
    && (!isInt || (intFmt a.format && intFmt b.format && !a.mx && !b.mx))
    && (bitOf w.i 16 || bank.isInt = isInt)
    && (!bitOf w.i 17 || (w.h = 1 && c.lastMat = some ⟨opIdx w.f1, da, (c.rdS (bitsOf w.i 0 8)).toNat, kb0⟩))

/-- What R139 and R104 make ILLEGAL for an OUT. -/
def outLegal (c : Core) (w : OpWord) : Bool :=
  let dv := c.rdD (opIdx w.f1)
  let t := Desc.ofBits dv
  descOk dv && decide (t.fmt ≤ 0xB) && decide (0 < t.rows) && decide (t.rows ≤ 32) && decide (0 < t.cols) && decide (t.cols ≤ 64)
    && (!t.mx || (decide (3 ≤ t.fmt) && decide (t.fmt ≤ 9) && (if t.axisM then t.rows = 32 else t.cols % 32 = 0)))

/-- The byte ranges of an MMA and whether its addresses are aligned (R135). -/
def mmaRanges (u : UOp) (frame : Nat) : List (Nat × Nat) × Bool :=
  let x := mmaArgs u frame
  (((List.range x.kb).map (· + x.kb0)).flatMap fun kb => (if x.keep then [] else rangesA x.a kb) ++ rangesB x.b kb,
    x.a.aligned && x.b.aligned)

/-- The byte ranges of an OUT and whether its addresses are aligned (R135). -/
def outRanges (u : UOp) (frame : Nat) : List (Nat × Nat) × Bool :=
  let t := outDesc u frame
  (t.extent ++ (if t.mx then (mxGroups t).map fun g => (g.1, 1) else []), t.aligned)

end Sys2Proof.Machine
end

