-- ==== Sys2Proof/Machine/CoreVec.lean ====
section
/-! DEFINITION. The VEC operations (R111 to R113, R152, R159). -/

namespace Sys2Proof.Machine

/-! ## Lanes -/

/-- The format of a lane type (R152). -/
def laneFmt : Nat → Fmt
  | 1 => .bf16 | 2 => .fp16 | 3 => .int32 | 4 => .int16 | _ => .fp32

/-- Bits of a lane. -/
def laneBits (ty : Nat) : Nat := 8 * laneBytes ty

/-- Lanes of a vector register: 64 or 128. -/
def laneCount (ty : Nat) : Nat := 256 / laneBytes ty

/-- A lane of a vector register. -/
def lane (ty : Nat) (v : BitVec 2048) (l : Nat) : Nat := bitsOf v.toNat (laneBits ty * l) (laneBits ty)

/-- The lanes of a vector register. -/
def lanes (ty : Nat) (v : BitVec 2048) : List Nat := (List.range (laneCount ty)).map (lane ty v)

/-- A vector register from its lanes. -/
def ofLanes (ty : Nat) (l : List Nat) : BitVec 2048 := bvOf 2048 (l.flatMap (leBytes (laneBytes ty)))

/-- New lanes under a mask: masked-off lanes keep their old value (R152). -/
def mergeLanes (ty : Nat) (mask : BitVec 128) (old : BitVec 2048) (new : List Nat) : BitVec 2048 :=
  ofLanes ty ((lanes ty old).mapIdx fun l x => if mask.getLsbD l then new.getD l x else x)

/-- The second source: a register, or the broadcast of the scalar read at issue (R152). -/
def src2 (c : Core) (u : UOp) (ty : Nat) : List Nat :=
  if bitOf u.w.i 31 then List.replicate (laneCount ty) ((u.sc.getD 2 0).toNat % 2 ^ laneBits ty)
  else lanes ty (c.rdW (opIdx u.w.f2))

/-- One lane result: its bits and its flags. -/
abbrev LaneOut := Nat × Nat

/-- A value rounded to a lane type: FP32 once; the 16-bit types from the value computed in FP32, once more (R111,
log 11). -/
def toLane (ty : Nat) (v : FV) (sr : Option Nat) : LaneOut :=
  if ty = 0 then convert .fp32 v false none
  else
    let x := convert .fp32 v false none
    let y := convert (laneFmt ty) (Fmt.fp32.decode x.1) false sr
    (y.1, x.2 ||| y.2)

/-- A lane result of a floating-point operation on operands, with NV (R104). -/
def floatLane (ty : Nat) (sr : Option Nat) (r : FV) (ops : List FV) : LaneOut :=
  let x := toLane ty r sr
  (x.1, x.2 ||| nvFlag r ops)

/-- Map a lane function over lanes, drawing sixteen random bits for each lane when rounding is stochastic (R102). -/
def drawLanes (sr : Bool) (n : Nat) (d : Dev) : List (Option Nat) × Dev :=
  if sr then
    (List.range n).foldl (fun (acc : List (Option Nat) × Dev) _ =>
      let r := acc.2.freshSr
      (acc.1 ++ [some r.1], r.2)) ([], d)
  else (List.replicate n none, d)

/-- Write the lanes of a vector operation and set its flags; only enabled lanes set flags. -/
def writeLanes (core : Nat) (u : UOp) (ty : Nat) (outs : List LaneOut) (d : Dev) : Dev :=
  let c := d.chip.core core
  let mk := c.rdM (maskIdx u.w)
  let fl := orAll (outs.mapIdx fun l o => if mk.getLsbD l then o.2 else 0)
  (d.onCore core fun c => c.wrW (opIdx u.w.f0) (mergeLanes ty mk (c.rdW (opIdx u.w.f0)) (outs.map Prod.fst))).coreFlags core fl

/-- A lane-by-lane floating-point operation of two sources (R111). -/
def vecFloat2 (core : Nat) (u : UOp) (f : FV → FV → FV) (d : Dev) : Dev :=
  let ty := laneTy u.w
  let c := d.chip.core core
  let fm := laneFmt ty
  let r := drawLanes (bitOf u.w.h 8) (laneCount ty) d
  let xs := lanes ty (c.rdW (opIdx u.w.f1))
  let ys := src2 c u ty
  writeLanes core u ty ((List.range (laneCount ty)).map fun l =>
    let x := fm.decode (xs.getD l 0)
    let y := fm.decode (ys.getD l 0)
    floatLane ty (r.1.getD l none) (f x y) [x, y]) r.2

/-- ADD (R152). -/
def opAdd (core : Nat) (u : UOp) (_s : State) (d : Dev) : Dev := vecFloat2 core u FV.add d
/-- SUB (R152). -/
def opSub (core : Nat) (u : UOp) (_s : State) (d : Dev) : Dev := vecFloat2 core u (fun x y => x.add y.neg) d
/-- MUL (R152). -/
def opMul (core : Nat) (u : UOp) (_s : State) (d : Dev) : Dev := vecFloat2 core u FV.mul d

/-- FMA, rounded once (R111, R152). -/
def opFma (core : Nat) (u : UOp) (_s : State) (d : Dev) : Dev :=
  let ty := laneTy u.w
  let c := d.chip.core core
  let fm := laneFmt ty
  let r := drawLanes (bitOf u.w.h 8) (laneCount ty) d
  let xs := lanes ty (c.rdW (opIdx u.w.f1))
  let ys := src2 c u ty
  let zs := lanes ty (c.rdW (opIdx u.w.f3))
  writeLanes core u ty ((List.range (laneCount ty)).map fun l =>
    let x := fm.decode (xs.getD l 0)
    let y := fm.decode (ys.getD l 0)
    let z := fm.decode (zs.getD l 0)
    floatLane ty (r.1.getD l none) ((x.mul y).add z) [x, y, z]) r.2

/-- A lane of an integer or floating-point minimum or maximum: the bits of the operand chosen; a NaN gives the
canonical NaN (R89, R152). -/
def pickLane (ty : Nat) (choose : FV → FV → FV) (a b : Nat) : LaneOut :=
  let fm := laneFmt ty
  let x := fm.decode a
  let y := fm.decode b
  let r := choose x y
  if r.isNan then ((convert fm .nan false none).1, 0)
  else if fm.isInt then (if r = x then a else b, 0)
  else ((convert fm r false none).1, 0)

/-- VEC MIN and MAX (R152). -/
def vecPick (core : Nat) (u : UOp) (choose : FV → FV → FV) (d : Dev) : Dev :=
  let ty := laneTy u.w
  let c := d.chip.core core
  let xs := lanes ty (c.rdW (opIdx u.w.f1))
  let ys := src2 c u ty
  writeLanes core u ty ((List.range (laneCount ty)).map fun l => pickLane ty choose (xs.getD l 0) (ys.getD l 0)) d

/-- MIN (R152). -/
def opVecMin (core : Nat) (u : UOp) (_s : State) (d : Dev) : Dev := vecPick core u FV.min d
/-- MAX (R152). -/
def opVecMax (core : Nat) (u : UOp) (_s : State) (d : Dev) : Dev := vecPick core u FV.max d

/-- A comparison: EQ, NE, LT, LE, GT, GE; a NaN compares false except under NE (R152). -/
def condFV (cond : Nat) (x y : FV) : Bool :=
  match cond with
  | 0 => FV.eq x y
  | 1 => !FV.eq x y
  | 2 => FV.lt x y
  | 3 => FV.lt x y || FV.eq x y
  | 4 => FV.lt y x
  | _ => FV.lt y x || FV.eq x y

/-- CMP: lanes compared into a mask; masked-off lanes give 0, and so do the mask bits beyond 64 lanes (R152; log 144). -/
def opVecCmp (core : Nat) (u : UOp) (_s : State) (d : Dev) : Dev :=
  let ty := laneTy u.w
  let c := d.chip.core core
  let fm := laneFmt ty
  let xs := lanes ty (c.rdW (opIdx u.w.f1))
  let ys := src2 c u ty
  let mk := c.rdM (maskIdx u.w)
  d.onCore core fun c => c.wrM (opIdx u.w.f0) (BitVec.ofNat 128 (maskOf (laneCount ty) fun l =>
    mk.getLsbD l && condFV (bitsOf u.w.i 0 3) (fm.decode (xs.getD l 0)) (fm.decode (ys.getD l 0))))

/-- SEL (R152). -/
def opSel (core : Nat) (u : UOp) (_s : State) (d : Dev) : Dev :=
  let ty := laneTy u.w
  let c := d.chip.core core
  let xs := lanes ty (c.rdW (opIdx u.w.f1))
  let ys := src2 c u ty
  let sel := c.rdM (opIdx u.w.f3)
  writeLanes core u ty ((List.range (laneCount ty)).map fun l => (if sel.getLsbD l then xs.getD l 0 else ys.getD l 0, 0)) d

/-- Lanes of CVT: (lane of F0, lane of F1). The 128-lane side uses the half that I[4] selects; with 128 lanes on both
sides the selected lanes keep their place (R152, log 12). -/
def cvtLanes (tyD tyS : Nat) (hi : Bool) : List (Nat × Nat) :=
  let o := if hi then 64 else 0
  (List.range 64).map fun l =>
    (if laneBytes tyD = 2 then l + o else l, if laneBytes tyS = 2 then l + o else l)

/-- CVT (R101 to R104, R152). -/
def opCvt (core : Nat) (u : UOp) (_s : State) (d : Dev) : Dev :=
  let tyD := laneTy u.w
  let tyS := bitsOf u.w.i 0 4
  let c := d.chip.core core
  let r := drawLanes (bitOf u.w.h 8) 64 d
  let v := c.rdW (opIdx u.w.f1)
  let mk := c.rdM (maskIdx u.w)
  let outs := (cvtLanes tyD tyS (bitOf u.w.i 4)).mapIdx fun k p =>
    (p.1, convert (laneFmt tyD) ((laneFmt tyS).decode (lane tyS v p.2)) (bitOf u.w.i 5) (r.1.getD k none))
  let on := outs.filter fun o => mk.getLsbD o.1
  let d := r.2.onCore core fun c =>
    c.wrW (opIdx u.w.f0) (ofLanes tyD ((lanes tyD (c.rdW (opIdx u.w.f0))).mapIdx fun l x => ((on.find? fun o => o.1 = l).map fun o => o.2.1).getD x))
  (d.coreFlags core (orAll (on.map fun o => o.2.2))).countSat core (satCount (on.map fun o => o.2.2))

/-- Packed elements as bytes (R91). -/
def packElems (e : Nat) (l : List Nat) : List Byte :=
  leBytes ((l.length * e + 7) / 8) (l.foldr (fun x n => n * 2 ^ e + x % 2 ^ e) 0)

/-- QMX: two 32-lane blocks quantised, their elements packed from byte 0; the rest of F0 is left, bits 31 to 16 of the scale scalar are 0
(R105, R152; log 145). -/
def opQmx (core : Nat) (u : UOp) (_s : State) (d : Dev) : Dev :=
  let c := d.chip.core core
  let f := (Fmt.ofCode (bitsOf u.w.i 0 4)).getD .e4m3
  let vs := (lanes 0 (c.rdW (opIdx u.w.f1))).map Fmt.fp32.decode
  let b0 := vs.take 32
  let b1 := vs.drop 32
  let s0 := mxScale f b0
  let s1 := mxScale f b1
  let es := (b0.map fun v => mxElem f s0 v none) ++ (b1.map fun v => mxElem f s1 v none)
  let bytes := packElems f.bits (es.map Prod.fst)
  let d := d.onCore core fun c =>
    let old := leBytes 256 (c.rdW (opIdx u.w.f0)).toNat
    (c.wrW (opIdx u.w.f0) (bvOf 2048 (patch old 0 bytes))).wrS (opIdx u.w.f2) (BitVec.ofNat 32 (s0 + 256 * s1))
  (d.coreFlags core (orAll (es.map Prod.snd))).countSat core (satCount (es.map Prod.snd))

/-- BCAST of a scalar or of J (R152). -/
def opBcast (core : Nat) (u : UOp) (_s : State) (d : Dev) : Dev :=
  let ty := laneTy u.w
  let x := if bitOf u.w.i 31 then u.w.j else (u.sc.getD 1 0).toNat
  writeLanes core u ty (List.replicate (laneCount ty) (x % 2 ^ laneBits ty, 0)) d

/-- IOTA (R152). -/
def opIota (core : Nat) (u : UOp) (_s : State) (d : Dev) : Dev :=
  let ty := laneTy u.w
  writeLanes core u ty ((List.range (laneCount ty)).map fun l => (l, 0)) d

/-- MLEN (R152). -/
def opMlen (core : Nat) (u : UOp) (_s : State) (d : Dev) : Dev :=
  let n := min (u.sc.getD 1 0).toNat (laneCount (laneTy u.w))
  d.onCore core fun c => c.wrM (opIdx u.w.f0) (BitVec.ofNat 128 (2 ^ n - 1))

/-! ## Function approximations -/

/-- One lane of a function: the stated result, or one within the bound (R112). An infinity made from a nonzero finite input is an
overflow (R104). -/
def fnLane (f : Fn) (ty : Nat) (x : Nat) (sr : Option Nat) : LaneOut :=
  let fm := laneFmt ty
  let v := fm.decode x
  let r := fnResult f ty fm x sr
  let y := fm.decode r
  (r, nvFlag y [v] ||| (if y.isInf && !v.isInf && !v.isNan && !v.isZero then flagOF else 0))

/-- A function approximation, lane by lane (R112, R152). -/
def vecFn (core : Nat) (u : UOp) (f : Fn) (d : Dev) : Dev :=
  let ty := laneTy u.w
  let r := drawLanes (bitOf u.w.h 8) (laneCount ty) d
  writeLanes core u ty ((lanes ty ((d.chip.core core).rdW (opIdx u.w.f1))).mapIdx fun l x => fnLane f ty x (r.1.getD l none)) r.2

/-- EXP (R112). -/
def opExp (core : Nat) (u : UOp) (_s : State) (d : Dev) : Dev := vecFn core u .exp d
/-- EXP2 (R112). -/
def opExp2 (core : Nat) (u : UOp) (_s : State) (d : Dev) : Dev := vecFn core u .exp2 d
/-- LN (R112). -/
def opLn (core : Nat) (u : UOp) (_s : State) (d : Dev) : Dev := vecFn core u .ln d
/-- LOG2 (R112). -/
def opLog2 (core : Nat) (u : UOp) (_s : State) (d : Dev) : Dev := vecFn core u .log2 d
/-- RCP (R112). -/
def opRcp (core : Nat) (u : UOp) (_s : State) (d : Dev) : Dev := vecFn core u .rcp d
/-- RSQ (R112). -/
def opRsq (core : Nat) (u : UOp) (_s : State) (d : Dev) : Dev := vecFn core u .rsq d
/-- SIN (R112). -/
def opSin (core : Nat) (u : UOp) (_s : State) (d : Dev) : Dev := vecFn core u .sin d
/-- COS (R112). -/
def opCos (core : Nat) (u : UOp) (_s : State) (d : Dev) : Dev := vecFn core u .cos d

/-! ## Sort, top-k and gather -/

/-- The total order of R113: -Inf, negative, zeros equal, positive, +Inf, NaN. -/
def keyLt (ty a b : Nat) : Bool :=
  let x := (laneFmt ty).decode a
  let y := (laneFmt ty).decode b
  if y.isNan then !x.isNan else if x.isNan then false else FV.lt x y

/-- Insert after every entry that does not come after it: equal keys keep their order. -/
def insertKey (before : Nat → Nat → Bool) (x : Nat × Nat) : List (Nat × Nat) → List (Nat × Nat)
  | [] => [x]
  | y :: ys => if before x.1 y.1 then x :: y :: ys else y :: insertKey before x ys

/-- A stable sort of (key, payload) pairs (R113). -/
def sortKeys (before : Nat → Nat → Bool) (l : List (Nat × Nat)) : List (Nat × Nat) :=
  l.foldl (fun acc x => insertKey before x acc) []

/-- The 64 keys of F1 with their 16-bit payloads from F2 (R113, R152). -/
def keysOf (c : Core) (u : UOp) (ty : Nat) : List (Nat × Nat) :=
  let v := c.rdW (opIdx u.w.f1)
  let p := if bitOf u.w.i 31 then List.replicate 64 ((u.sc.getD 2 0).toNat % 2 ^ 16) else (lanes 4 (c.rdW (opIdx u.w.f2))).take 64
  (List.range 64).map fun l => (lane ty v l, p.getD l 0)

/-- Replace the lowest lanes of a register. -/
def setLow (ty : Nat) (old : BitVec 2048) (l : List Nat) : BitVec 2048 := ofLanes ty (l ++ (lanes ty old).drop l.length)

/-- SORT: the sorted keys into F0, their payloads into F3 (R113, R152); a NaN keeps its bits (log 140). -/
def opSort (core : Nat) (u : UOp) (_s : State) (d : Dev) : Dev :=
  let ty := laneTy u.w
  let c := d.chip.core core
  let lt := keyLt ty
  let r := sortKeys (if bitOf u.w.i 0 then fun a b => lt b a else lt) (keysOf c u ty)
  d.onCore core fun c =>
    (c.wrW (opIdx u.w.f0) (setLow ty (c.rdW (opIdx u.w.f0)) (r.map Prod.fst))).wrW (opIdx u.w.f3)
      (setLow 4 (c.rdW (opIdx u.w.f3)) (r.map Prod.snd))

/-- TOPK: the first k of the descending order; every other lane is +0 (R113, R152). -/
def opTopk (core : Nat) (u : UOp) (_s : State) (d : Dev) : Dev :=
  let ty := laneTy u.w
  let r := (sortKeys (fun a b => keyLt ty b a) (keysOf (d.chip.core core) u ty)).take (bitsOf u.w.i 0 7)
  d.onCore core fun c =>
    (c.wrW (opIdx u.w.f0) (ofLanes ty (r.map Prod.fst))).wrW (opIdx u.w.f3) (ofLanes 4 (r.map Prod.snd))

/-- The tile GATHER reads: its element at a flat index, in range or not (R159). -/
def gatherAddr (t : Desc) (x : Int) : Option Nat :=
  if x < 0 ∨ (t.rows * t.cols : Nat) ≤ x then none
  else some (t.elemAt (x.toNat / t.cols) (x.toNat % t.cols)).1

/-- The lane type that holds an element of GATHER's tile (R159). -/
def gatherTy (t : Desc) : Nat := if t.format.bits = 32 then 0 else 4

/-- GATHER (R159). -/
def opGather (core : Nat) (u : UOp) (s : State) (d : Dev) : Dev :=
  let c := d.chip.core core
  let t := (Desc.ofBits (u.ds.getD 1 0)).pingPong d.chip.frm.cur
  let ty := gatherTy t
  let n := laneBytes ty
  let idx := if bitOf u.w.i 31 then List.replicate 64 (u.sc.getD 2 0).toNat else lanes 3 (c.rdW (opIdx u.w.f2))
  let mk := c.rdM (maskIdx u.w)
  let at' (l : Nat) : Option Nat := if mk.getLsbD l then gatherAddr t (toSigned 32 (idx.getD l 0)) else none
  let go (d : Dev) : Dev := d.onCore core fun c =>
    (c.wrW (opIdx u.w.f0) (ofLanes ty ((lanes ty (c.rdW (opIdx u.w.f0))).mapIdx fun l x =>
      if l < 64 && mk.getLsbD l then
        match at' l with
        | some a => leField (d.bytesOf s core a n) 0 n
        | none => 0
      else x))).wrM (opIdx u.w.f3) (BitVec.ofNat 128 (maskOf 64 fun l => mk.getLsbD l && (at' l).isNone))
  d.consumeAll core u.pc s go ((List.range 64).filterMap fun l => (at' l).map fun a => (a, n))

/-! ## Integer lanes -/

/-- An integer lane operation keeping the low bits of the exact result (R152). -/
def vecInt2 (core : Nat) (u : UOp) (f : Nat → Int → Int → Int) (d : Dev) : Dev :=
  let ty := laneTy u.w
  let w := laneBits ty
  let c := d.chip.core core
  let xs := lanes ty (c.rdW (opIdx u.w.f1))
  let ys := src2 c u ty
  writeLanes core u ty ((List.range (laneCount ty)).map fun l =>
    (ofSigned w (f w (toSigned w (xs.getD l 0)) (toSigned w (ys.getD l 0))), 0)) d

/-- A bitwise lane operation. -/
def vecBit2 (core : Nat) (u : UOp) (f : Nat → Nat → Nat → Nat) (d : Dev) : Dev :=
  let ty := laneTy u.w
  let w := laneBits ty
  let c := d.chip.core core
  let xs := lanes ty (c.rdW (opIdx u.w.f1))
  let ys := src2 c u ty
  writeLanes core u ty ((List.range (laneCount ty)).map fun l => (f w (xs.getD l 0) (ys.getD l 0) % 2 ^ w, 0)) d

/-- A left shift by an unsigned count; a count of the width or more gives 0 (R152, R154). -/
def shlBits (w x n : Nat) : Nat := if w ≤ n then 0 else (x <<< n) % 2 ^ w

/-- A logical right shift (R154). -/
def shrBits (w x n : Nat) : Nat := if w ≤ n then 0 else x >>> n

/-- An arithmetic right shift; a count of the width or more gives the sign fill (R152, R154). -/
def sraBits (w x n : Nat) : Nat := ofSigned w (toSigned w x / ((2 ^ min n w : Nat) : Int))

/-- IADD (R152). -/
def opIadd (core : Nat) (u : UOp) (_s : State) (d : Dev) : Dev := vecInt2 core u (fun _ x y => x + y) d
/-- ISUB (R152). -/
def opIsub (core : Nat) (u : UOp) (_s : State) (d : Dev) : Dev := vecInt2 core u (fun _ x y => x - y) d
/-- IMUL (R152). -/
def opImul (core : Nat) (u : UOp) (_s : State) (d : Dev) : Dev := vecInt2 core u (fun _ x y => x * y) d
/-- AND (R152). -/
def opAnd (core : Nat) (u : UOp) (_s : State) (d : Dev) : Dev := vecBit2 core u (fun _ x y => x &&& y) d
/-- OR (R152). -/
def opOr (core : Nat) (u : UOp) (_s : State) (d : Dev) : Dev := vecBit2 core u (fun _ x y => x ||| y) d
/-- XOR (R152). -/
def opXor (core : Nat) (u : UOp) (_s : State) (d : Dev) : Dev := vecBit2 core u (fun _ x y => x ^^^ y) d
/-- SHL (R152). -/
def opShl (core : Nat) (u : UOp) (_s : State) (d : Dev) : Dev := vecBit2 core u shlBits d
/-- SRA (R152). -/
def opSra (core : Nat) (u : UOp) (_s : State) (d : Dev) : Dev := vecBit2 core u sraBits d

end Sys2Proof.Machine
end

