-- ==== Sys2Proof/Machine/CoreRed.lean ====
section
/-! DEFINITION. The RED operations: reductions over lanes and bank rows, online softmax and expert combine (R153, R158,
R160). -/

namespace Sys2Proof.Machine

/-- One level of the pairwise tree: adjacent values added, an odd last one carried. -/
def pairLevel (f : Word → Word → Word) : List Word → List Word
  | a :: b :: r => f a b :: pairLevel f r
  | l => l

/-- The fixed pairwise tree over at most 2^`fuel` values (R153). -/
def pairTree (f : Word → Word → Word) : Nat → List Word → Word
  | 0, l => l.headD 0
  | n + 1, l => pairTree f n (pairLevel f l)

/-- Flags of an FP32 sum built of the given terms: NV when a NaN comes of terms that are none, OF when an infinity
does (R104). -/
def sumFlags (r : Word) (terms : List Word) : Nat :=
  nvFlag (f32 r) (terms.map f32) ||| (if (f32 r).isInf && !(terms.any fun t => (f32 t).isInf) then flagOF else 0)

/-- SUM: FP32 by the fixed tree, masked-off lanes +0; INT32 the low 32 bits of the exact sum (R153, log 13). -/
def opSum (core : Nat) (u : UOp) (_s : State) (d : Dev) : Dev :=
  let c := d.chip.core core
  let v := c.rdW (opIdx u.w.f1)
  let mk := c.rdM (maskIdx u.w)
  let ls := (List.range 64).map fun l => if mk.getLsbD l then lane32 v l else 0
  if laneTy u.w = 0 then
    let r := pairTree addF32 6 ls
    (d.onCore core fun c => c.wrS (opIdx u.w.f0) r).coreFlags core (sumFlags r ls)
  else d.onCore core fun c => c.wrS (opIdx u.w.f0) (BitVec.ofInt 32 (isum (ls.map BitVec.toInt)))

/-- The lanes that a reduction takes, with their indices. -/
def takenLanes (c : Core) (u : UOp) : List (Nat × Nat) :=
  let ty := laneTy u.w
  let mk := c.rdM (maskIdx u.w)
  ((lanes ty (c.rdW (opIdx u.w.f1))).zipIdx.map fun p => (p.2, p.1)).filter fun p => mk.getLsbD p.1

/-- The first lane that no other comes before in an order. -/
def firstBest (better : Nat → Nat → Bool) : List (Nat × Nat) → Option (Nat × Nat)
  | [] => none
  | x :: xs => some (xs.foldl (fun b y => if better y.2 b.2 then y else b) x)

/-- A lane's bits as the device writes them: a NaN becomes canonical (R89). -/
def canonLane (ty : Nat) (x : Nat) : Nat :=
  if ((laneFmt ty).decode x).isNan then (convert (laneFmt ty) .nan false none).1 else x

/-- A lane's value in a scalar register: the bits above a 16-bit lane are not stated, a free value (R153, log 4). -/
def laneScalar (ty x high : Nat) : Word :=
  BitVec.ofNat 32 (if laneBytes ty = 2 then canonLane ty x + 2 ^ 16 * high else canonLane ty x)

/-- A reduction by the order of R113; with every lane masked off the result is not stated: a free value (log 4). -/
def redPick (core : Nat) (u : UOp) (better : Nat → Nat → Bool) (index : Bool) (d : Dev) : Dev :=
  match firstBest better (takenLanes (d.chip.core core) u) with
  | some p =>
    let r := d.fresh
    r.2.onCore core fun c =>
      let c := c.wrS (opIdx u.w.f0) (laneScalar (laneTy u.w) p.2 r.1)
      if index then c.wrS (opIdx u.w.f2) (BitVec.ofNat 32 p.1) else c
  | none =>
    let r := d.fresh
    let q := r.2.fresh
    if index then q.2.onCore core fun c => (c.wrS (opIdx u.w.f0) (BitVec.ofNat 32 r.1)).wrS (opIdx u.w.f2) (BitVec.ofNat 32 q.1)
    else r.2.onCore core fun c => c.wrS (opIdx u.w.f0) (BitVec.ofNat 32 r.1)

/-- RED MAX (R153). -/
def opRedMax (core : Nat) (u : UOp) (_s : State) (d : Dev) : Dev :=
  redPick core u (fun a b => keyLt (laneTy u.w) b a) false d
/-- RED MIN (R153). -/
def opRedMin (core : Nat) (u : UOp) (_s : State) (d : Dev) : Dev := redPick core u (keyLt (laneTy u.w)) false d
/-- ARGMAX: the value and the lowest lane on ties (R153). -/
def opArgmax (core : Nat) (u : UOp) (_s : State) (d : Dev) : Dev :=
  redPick core u (fun a b => keyLt (laneTy u.w) b a) true d

/-- Free 32-bit values (log 4). -/
def freshWords : Nat → Dev → List Word × Dev
  | 0, d => ([], d)
  | n + 1, d =>
    let r := d.fresh
    let q := freshWords n r.2
    (BitVec.ofNat 32 r.1 :: q.1, q.2)

/-- Replace lanes 0 to 31 of a vector register (R153, R158). -/
def low32 (v : BitVec 2048) (l : List Word) : BitVec 2048 := setLow 0 v (l.map BitVec.toNat)

/-- A reduction of each bank row over its first columns into lanes 0 to 31; of an integer bank no value is stated
(R153, log 14). -/
def bankRows (core : Nat) (u : UOp) (f : List Word → Word × Nat) (d : Dev) : Dev :=
  let c := d.chip.core core
  let b := c.rdB (opIdx u.w.f1)
  let n := min (u.sc.getD 2 0).toNat 64
  let put (l : List Word) (d : Dev) : Dev := d.onCore core fun c => c.wrW (opIdx u.w.f0) (low32 (c.rdW (opIdx u.w.f0)) l)
  if b.isInt then
    let r := freshWords 32 d
    put r.1 r.2
  else
    let rs := (List.range 32).map fun i => f ((List.range n).map fun j => (b.at' i j).truncate 32)
    (put (rs.map Prod.fst) d).coreFlags core (orAll (rs.map Prod.snd))

/-- Maximum of FP32 values from a start, as VEC MAX chooses. -/
def maxF32 (start : FV) (l : List Word) : FV := l.foldl (fun m x => FV.max m (f32 x)) start

/-- BROWMAX; -Inf when no column is taken (R153). -/
def opBrowmax (core : Nat) (u : UOp) (_s : State) (d : Dev) : Dev :=
  bankRows core u (fun l => (toF32 (maxF32 (.inf true) l), 0)) d

/-- FP32 sum in ascending order, each step rounded (R153). -/
def sumAsc (l : List Word) : Word := l.foldl addF32 0

/-- BROWSUM (R153). -/
def opBrowsum (core : Nat) (u : UOp) (_s : State) (d : Dev) : Dev :=
  bankRows core u (fun l => (sumAsc l, sumFlags (sumAsc l) l)) d

/-- e^(x - m) of FP32 values as the module gives it, with the flags (R112, R158). -/
def expDiff (x m : FV) : LaneOut :=
  let v := x.add m.neg
  let r := fnLane .exp 0 (toF32 v).toNat none
  (r.1, r.2 ||| nvFlag v [x, m])

/-- What SMX does with one row: P, the correction, the new sum and maximum, and the flags (R158). -/
structure SmxRow where
  p : List Word
  c : Word
  l : Word
  mu : Word
  flags : Nat
deriving DecidableEq, Repr

/-- One row of SMX (R158). -/
def smxRow (sigma : Word) (xs : List Word) (n : Nat) (mu l : Word) : SmxRow :=
  let prods := (xs.take n).map fun x => mulF32 sigma x
  let x := prods.map Prod.fst
  let muNew := maxF32 (f32 mu) x
  if muNew = .inf true then ⟨List.replicate 64 0, 0x3F800000, l, mu, orAll (prods.map Prod.snd)⟩
  else
    let es := x.map fun v => expDiff (f32 v) muNew
    let p := es.map fun e => BitVec.ofNat 32 e.1
    let ce := expDiff (f32 mu) muNew
    let c : Word := BitVec.ofNat 32 ce.1
    let s := sumAsc p
    let lr := ((f32 l).mul (f32 c)).add (f32 s)
    let lk := convert .fp32 lr false none
    ⟨padTo 64 0 p, c, BitVec.ofNat 32 lk.1, toF32 muNew,
      orAll (prods.map Prod.snd) ||| orAll (es.map Prod.snd) ||| ce.2 ||| sumFlags s p ||| lk.2 ||| nvFlag lr [f32 l, f32 c, f32 s]⟩

/-- SMX (R158). Of an integer bank no result is stated: free values (log 14). -/
def opSmx (core : Nat) (u : UOp) (_s : State) (d : Dev) : Dev :=
  let c := d.chip.core core
  let b := c.rdB (opIdx u.w.f1)
  let n := min (u.sc.getD 4 0).toNat 64
  let put (ent : List Word) (mu l cs : List Word) (d : Dev) : Dev := d.onCore core fun c =>
    let b' : Bank := { ent := ent.zipIdx.foldl (fun t p => Tab.put 0 t p.2 (p.1.zeroExtend 48)) [], tagA := 0x3F800000, tagB := 0x3F800000
                       isInt := b.isInt }
    let c := c.wrB (opIdx u.w.f1) b'
    let c := c.wrW (opIdx u.w.f0) (low32 (c.rdW (opIdx u.w.f0)) mu)
    let c := c.wrW (opIdx u.w.f2) (low32 (c.rdW (opIdx u.w.f2)) l)
    c.wrW (opIdx u.w.f3) (low32 (c.rdW (opIdx u.w.f3)) cs)
  if b.isInt then
    let p := freshWords 2048 d
    let q := freshWords 96 p.2
    put p.1 (q.1.take 32) ((q.1.drop 32).take 32) (q.1.drop 64) q.2
  else
    let rows := (List.range 32).map fun i =>
      smxRow (u.sc.getD 5 0) ((List.range 64).map fun j => (b.at' i j).truncate 32) n
        (lane32 (c.rdW (opIdx u.w.f0)) i) (lane32 (c.rdW (opIdx u.w.f2)) i)
    (put (rows.flatMap SmxRow.p) (rows.map SmxRow.mu) (rows.map SmxRow.l) (rows.map SmxRow.c) d).coreFlags core
      (orAll (rows.map SmxRow.flags))

/-- The vectors MOEC reads: address of vector `e` (R160). -/
def moecAddr (u : UOp) (t : Desc) (e : Nat) : Nat := t.base + e * t.stride + (u.sc.getD 3 0).toNat

/-- MOEC (R160). -/
def opMoec (core : Nat) (u : UOp) (s : State) (d : Dev) : Dev :=
  let t := (Desc.ofBits (u.ds.getD 1 0)).pingPong d.chip.frm.cur
  let ty := if t.format = .bf16 then 1 else 0
  let es := List.range (bitsOf u.w.h 0 4)
  d.consumeAll core u.pc s (fun d =>
    let g := (d.chip.core core).rdW (opIdx u.w.f2)
    let vs := es.map fun e => unpackElems t.format.bits (laneCount ty) (d.bytesOf s core (moecAddr u t e) 256)
    let outs : List LaneOut := (List.range (laneCount ty)).map fun l =>
      let terms := vs.mapIdx fun e v => (f32 (lane32 g e), t.format.decode (v.getD l 0))
      let acc := terms.foldl (fun (a : Word × Nat) p =>
        let r := (p.1.mul p.2).add (f32 a.1)
        let k := convert .fp32 r false none
        (BitVec.ofNat 32 k.1, a.2 ||| k.2 ||| nvFlag r [p.1, p.2, f32 a.1])) ((0 : Word), 0)
      let k := convert t.format (f32 acc.1) false none
      (k.1, acc.2 ||| k.2)
    (d.onCore core fun c => c.wrW (opIdx u.w.f0) (ofLanes ty (outs.map Prod.fst))).coreFlags core (orAll (outs.map Prod.snd)))
    (es.map fun e => (moecAddr u t e, 256))

/-- GATHER's and MOEC's own ILLEGAL causes (R132, R159, R160). -/
def redDescLegal (cls op : Nat) (c : Core) (w : OpWord) : Bool :=
  let dv := c.rdD (opIdx w.f1)
  let t := Desc.ofBits dv
  if cls = 2 ∧ op = 0x22 then
    descOk dv && decide (0 < t.rows) && decide (0 < t.cols)
      && (t.format = .fp32 || t.format = .int32 || t.format = .bf16 || t.format = .fp16 || t.format = .int16) && decide (t.fmt ≤ 0xB)
  else if cls = 3 ∧ op = 0x09 then descOk dv && (t.fmt = 0 || t.fmt = 1)
  else true

end Sys2Proof.Machine
end

