-- ==== Sys2Proof/Machine/CoreCtrl.lean ====
section
/-! DEFINITION. The controller: CTRL and CHECK operations (R122, R124, R154 to R157, R427). -/

namespace Sys2Proof.Machine

/-- The scalar that replaces F2 when I[31] is 1 (R154). -/
def ctrlB (c : Core) (w : OpWord) : Word := if bitOf w.i 31 then BitVec.ofNat 32 w.j else c.rdS (opIdx w.f2)

/-- SETI (R154). -/
def ctlSeti (w : OpWord) (c : Core) : Core := c.wrS (opIdx w.f0) (BitVec.ofNat 32 w.j)

/-- The scalar operation H selects; counts are unsigned (R154). -/
def aluOp (h : Nat) (a b : Word) : Word :=
  match h with
  | 0 => a + b
  | 1 => a - b
  | 2 => a * b
  | 3 => a &&& b
  | 4 => a ||| b
  | 5 => a ^^^ b
  | 6 => BitVec.ofNat 32 (shlBits 32 a.toNat b.toNat)
  | 7 => BitVec.ofNat 32 (shrBits 32 a.toNat b.toNat)
  | 8 => BitVec.ofNat 32 (sraBits 32 a.toNat b.toNat)
  | 9 => if a.toInt ≤ b.toInt then a else b
  | _ => if b.toInt ≤ a.toInt then a else b

/-- ALU (R154). -/
def ctlAlu (w : OpWord) (c : Core) : Core :=
  c.wrS (opIdx w.f0) (aluOp (bitsOf w.h 0 4) (c.rdS (opIdx w.f1)) (ctrlB c w))

/-- A scalar comparison, signed or unsigned (R154). -/
def condInt (cond : Nat) (x y : Int) : Bool :=
  match cond with
  | 0 => x = y
  | 1 => x ≠ y
  | 2 => x < y
  | 3 => x ≤ y
  | 4 => y < x
  | _ => y ≤ x

/-- CTRL CMP (R154). -/
def ctlCmp (w : OpWord) (c : Core) : Core :=
  let a := c.rdS (opIdx w.f1)
  let b := ctrlB c w
  c.wrP (opIdx w.f0)
    (if bitOf w.h 3 then condInt (bitsOf w.h 0 3) a.toNat b.toNat else condInt (bitsOf w.h 0 3) a.toInt b.toInt)

/-- PLOG (R154). -/
def ctlPlog (w : OpWord) (c : Core) : Core :=
  let a := c.rdP (opIdx w.f1)
  let b := c.rdP (opIdx w.f2)
  c.wrP (opIdx w.f0) (match bitsOf w.h 0 2 with
    | 0 => a && b
    | 1 => a || b
    | 2 => a != b
    | _ => a && !b)

/-- Where issue goes after the word at `pc`: back to the start of a loop whose body ends there while its count lasts,
else to the next word (R154, R155). -/
def advance : Nat → List Loop → Nat × List Loop
  | pc, [] => (pc + 1, [])
  | pc, l :: ls =>
    if pc = l.last then
      if 1 < l.left then (l.first, { l with left := l.left - 1 } :: ls) else advance pc ls
    else (pc + 1, l :: ls)

/-- A LOOP that R155 allows; one of count 0 becomes no active loop. -/
def loopLegal (w : OpWord) (c : Core) : Bool :=
  decide (c.pc < w.j) && decide (w.j ≤ 0xFFF) && (w.h = 0 || decide (c.loops.length < 4))
    && (match c.loops with
        | [] => true
        | l :: _ => decide (w.j ≤ l.last))

/-- A JUMP stays in the body of the innermost active loop (R155). -/
def jumpLegal (w : OpWord) (c : Core) : Bool :=
  match c.loops with
  | [] => true
  | l :: _ => decide (l.first ≤ w.j) && decide (w.j ≤ l.last)

/-- Continue at a word address; fetch past 0xFFF traps with ILLEGAL at 0xFFF (R155). -/
def Dev.goto (d : Dev) (core pc : Nat) (loops : List Loop) : Dev :=
  if 0xFFF < pc then d.trap core trapIllegal 0xFFF
  else d.onCore core fun c => { c with pc, loops }

/-- The word at the present address has issued: continue after it. -/
def Dev.next (d : Dev) (core : Nat) : Dev :=
  let c := d.chip.core core
  let r := advance c.pc c.loops
  d.goto core r.1 r.2

/-- LOOP: push the loop, or skip the body when the count is 0 (R155). -/
def ctlLoop (core : Nat) (w : OpWord) (d : Dev) : Dev :=
  let c := d.chip.core core
  if w.h = 0 then
    let r := advance w.j c.loops
    d.goto core r.1 r.2
  else d.goto core (c.pc + 1) (⟨w.h, c.pc + 1, w.j⟩ :: c.loops)

/-- JUMP (R154). -/
def ctlJump (core : Nat) (w : OpWord) (d : Dev) : Dev := d.goto core w.j (d.chip.core core).loops

/-- Which units a SYNC mask names: bit 0 MOVE, bit 1 MAT, bit 2 VEC and RED; CHECK words execute in the controller and
have completed (R154). -/
def UnitId.bit : UnitId → Nat
  | .move => 0 | .mat => 1 | .vec => 2

/-- The unit of an operation class (R140). -/
def unitOf (cls : Nat) : UnitId := if cls = 0 then .move else if cls = 1 then .mat else .vec

/-- A unit's queue. -/
def Core.queue (c : Core) : UnitId → List UOp
  | .move => c.moveQ | .mat => c.matQ | .vec => c.vecQ

/-- Replace a unit's queue. -/
def Core.setQueue (c : Core) (x : UnitId) (q : List UOp) : Core :=
  match x with
  | .move => { c with moveQ := q } | .mat => { c with matQ := q } | .vec => { c with vecQ := q }

/-- Entries a unit queue holds (R140). -/
def queueSize : UnitId → Nat
  | .move => 4 | .mat => 2 | .vec => 4

/-- The operation a unit is running, up to the end of its latency. -/
def Core.inFlight (c : Core) (x : UnitId) : Bool := c.flight.any fun p => p.1 = x

/-- Nothing queued or in flight on a unit. -/
def Core.unitIdle (c : Core) (x : UnitId) : Bool := (c.queue x).isEmpty && !c.inFlight x

/-- Nothing queued or in flight on any unit. -/
def Core.allIdle (c : Core) : Bool := c.unitIdle .move && c.unitIdle .mat && c.unitIdle .vec

/-- The units a SYNC mask names are idle. -/
def Core.syncDone (c : Core) (mask : Nat) : Bool :=
  [UnitId.move, .mat, .vec].all fun x => !mask.testBit x.bit || c.unitIdle x

/-- The last step's end as the registers will show it once the room commits (R162). -/
def Core.endStep (c : Core) (cycles ns : Nat) : Core :=
  { c with st := .ended, endAddr := c.pc, endCycles := cycles, endAt := ns }

/-- FRAMEEND: the core waits for the next step once every operation has completed (R122). -/
def ctlFrameend (core cycles ns : Nat) (d : Dev) : Dev :=
  d.onCore core fun c => if c.allIdle then c.endStep cycles ns else { c with st := .ending, endCycles := cycles, endAt := ns }

/-- SYNC: issue goes on at once when the units are idle, else it waits (R144, R154). -/
def ctlSync (core : Nat) (w : OpWord) (d : Dev) : Dev :=
  let d := d.next core
  d.onCore core fun c => if c.st = .running ∧ !c.syncDone w.h then { c with wait := some (.sync w.h) } else c

/-- WAITRX (R124). -/
def ctlWaitrx (core : Nat) (d : Dev) : Dev :=
  let d := d.next core
  d.onCore core fun c => if c.st = .running ∧ c.replay then { c with wait := some .rx } else c

/-- BARRIVE: the arrival is recorded; a later completion is the one that BTEST reports (R154, R157, R185). -/
def ctlBarrive (core : Nat) (w : OpWord) (d : Dev) : Dev :=
  d.onCore core fun c =>
    { c with arrived := c.arrived.filter (fun p => p.1 ≠ w.h) ++ [(w.h, d.chip.frm.cur)], done := c.done.filter (· ≠ w.h) }

/-- The result of BTEST: the completion after this core's last arrival has been delivered (R157, R185). -/
def Core.btest (c : Core) (barrier : Nat) : Bool := barrier ∈ c.done

/-- BTEST: it first waits for the end of the core's last replay slot (R157). -/
def ctlBtest (core : Nat) (w : OpWord) (d : Dev) : Dev :=
  let c0 := d.chip.core core
  let d := if c0.replay then d else d.onCore core fun c => c.wrP (opIdx w.f0) (c.btest w.h)
  let d := d.next core
  d.onCore core fun c => if c.st = .running ∧ c.replay then { c with wait := some (.btest (opIdx w.f0) w.h) } else c

/-- RDCYC: core cycles since the threshold, saturating (R154). -/
def ctlRdcyc (w : OpWord) (cycles : Nat) (c : Core) : Core := c.wrS (opIdx w.f0) (BitVec.ofNat 32 (min cycles 0xFFFFFFFF))

/-- RDFRM (R154). -/
def ctlRdfrm (w : OpWord) (frame : Nat) (c : Core) : Core :=
  c.wrS (opIdx w.f0) (BitVec.ofNat 32 (if bitOf w.i 0 then bitsOf frame 32 16 else bitsOf frame 0 32))

/-- TOL (R156). -/
def ctlTol (w : OpWord) (c : Core) : Core := { c with tol := Tab.put 4 c.tol (opIdx w.f0) w.h }

/-- FLAGS (R156). -/
def ctlFlags (w : OpWord) (c : Core) : Core :=
  let r := c.takeFlags (bitsOf w.h 0 5)
  r.2.wrS (opIdx w.f0) (BitVec.ofNat 32 r.1)

/-- XSIG: the CRC-32C over H lines is posted to the room's comparison (R156, R427); injection kind 8 inverts bit 0 of
the post (R443). A husked word among the lines traps the core. -/
def ctlXsig (core addr : Nat) (w : OpWord) (s : State) (d : Dev) : Dev :=
  let pc := (d.chip.core core).pc
  d.consume core addr (128 * w.h) pc s fun d =>
    let v := (crc32c (d.bytesOf s core addr (128 * w.h))).toNat
    let i := (s.injOn d 8).filter fun i => i.srcKind = 1 && i.target = core
    let d := match i with
      | some i => d.useInj i
      | none => d
    let v := if i.isSome then v ^^^ 1 else v
    let d := d.onChip fun c => { c with integ := { c.integ with posts :=
      c.integ.posts ++ [⟨(c.coreRoom core).getD 0xFF, bitsOf w.i 0 8, core, v⟩] } }
    (d.chanChecked 3 core).next core

end Sys2Proof.Machine
end

