-- ==== Sys2Proof/Machine/CoreIssue.lean ====
section
/-! DEFINITION. Fetch, issue, start and completion of operation words (R78, R121, R130, R131, R135, R140 to R144). -/

namespace Sys2Proof.Machine

/-! ## Registers an operation waits for -/

/-- The form of a queued operation. -/
def UOp.form (u : UOp) : Form := (opForm u.cls u.op u.w).getD {}

/-- The operations of a core that have not completed: queued, then in flight. -/
def Core.waiting (c : Core) : List UOp := c.moveQ ++ c.matQ ++ c.vecQ

/-- The word must wait under R141: a source or destination of it has an earlier write to come, or a destination of it
has still to be read by a queued operation. s0, p0 and m0 never change. -/
def Core.hazard (c : Core) (f : Form) (w : OpWord) : Bool :=
  let fixed (r : Nat) : Bool := r = regNo .s 0 || r = regNo .p 0 || r = regNo .m 0
  let reads := (f.reads w).filter fun r => !fixed r
  let writes := (f.writes w).filter fun r => !fixed r
  let pendW := (c.waiting ++ c.flight.map Prod.snd).flatMap fun u => u.form.writes u.w
  let pendR := c.waiting.flatMap fun u => (u.form.reads u.w).filter readLate
  (reads ++ writes).any (fun r => r ∈ pendW) || writes.any (fun r => r ∈ pendR)

/-- The word cannot issue now: the core waits, a register is not ready, its unit's queue is full, or FLAGS and XSIG
have operations before them (R140, R141, R154, R156). -/
def Core.stalled (c : Core) (cls op : Nat) (w : OpWord) : Bool :=
  c.wait.isSome
    || (match opForm cls op w with
        | some f => c.hazard f w
        | none => false)
    || (decide (cls < 4) && decide (queueSize (unitOf cls) ≤ (c.queue (unitOf cls)).length))
    || (cls = 5 && (op = 2 || op = 3) && !c.allIdle)

/-! ## Capture at issue -/

/-- The scalar and descriptor operands of a word (R141): the scalars its four specifiers name, then its further
scalars; the descriptors its specifiers name. -/
def Core.capture (c : Core) (cls op : Nat) (w : OpWord) (run : Bool) (fault : MacFault) : UOp :=
  let f := (opForm cls op w).getD {}
  let at' (o : Option Opd) (x : Nat) : Word := if o.any fun p => p.file = .s then c.rdS (opIdx x) else 0
  let dt (o : Option Opd) (x : Nat) : BitVec 256 := if o.any fun p => p.file = .d then c.rdD (opIdx x) else 0
  { cls, op, w
    addr := (c.rdS (opIdx w.f1) + BitVec.ofNat 32 w.j).toNat
    sc := [at' f.f0 w.f0, at' f.f1 w.f1, at' f.f2 w.f2, at' f.f3 w.f3] ++ f.sx.map c.rdS
    ds := [dt f.f0 w.f0, dt f.f1 w.f1, dt f.f2 w.f2, dt f.f3 w.f3]
    run, pc := c.pc, fault, keep := cls = 1 && op = 1 && bitOf w.i 17
    seq := (c.waiting ++ c.flight.map Prod.snd).foldl (fun n u => max n (u.seq + 1)) 0 }

/-- The ILLEGAL causes that depend on registers (R132, R139, R148 to R151, R155, R159). -/
def Core.stateLegal (c : Core) (cls op : Nat) (w : OpWord) : Bool :=
  if cls = 1 then
    if op = 1 then mmaLegal c w
    else if op = 2 then outLegal c w
    else if op = 6 ∨ op = 8 then !(c.rdB (opIdx w.f0)).isInt
    else if op = 7 then !(c.rdB (opIdx w.f1)).isInt
    else true
  else if cls = 4 then
    if op = 8 then loopLegal w c else if op = 9 then jumpLegal w c else true
  else redDescLegal cls op c w

/-- The byte ranges a word would touch and whether its addresses are aligned (R135). -/
def UOp.touches (u : UOp) (frame : Nat) : List (Nat × Nat) × Bool :=
  if u.cls = 0 then
    let r := moveRanges u.op u.w u.addr (((u.sc.getD 2 0) + BitVec.ofNat 32 u.w.i).toNat)
    (r.1, r.1.all fun x => x.1 % r.2 = 0)
  else if u.cls = 1 then
    if u.op = 1 then mmaRanges u frame
    else if u.op = 2 then outRanges u frame
    else if u.op = 3 ∨ u.op = 4 then ([(u.addr, bankImageBytes)], u.addr % 128 = 0)
    else ([], true)
  else if u.cls = 2 ∧ u.op = 0x22 then
    let t := (Desc.ofBits (u.ds.getD 1 0)).pingPong frame
    (t.extent, t.aligned)
  else if u.cls = 3 ∧ u.op = 0x09 then
    let t := (Desc.ofBits (u.ds.getD 1 0)).pingPong frame
    ((List.range (bitsOf u.w.h 0 4)).map fun e => (moecAddr u t e, 256), t.aligned)
  else if u.cls = 5 ∧ u.op = 3 then ([(u.addr, 128 * u.w.h)], u.addr % 128 = 0)
  else ([], true)

/-! ## Start and completion -/

/-- The effect of a MOVE operation. -/
def effectMove (core : Nat) (u : UOp) (s : State) (d : Dev) : Dev :=
  match u.op with
  | 0x01 => opLdv core u s d | 0x02 => opStv core u s d | 0x03 => opLds core u s d | 0x04 => opSts core u s d
  | 0x05 => opLdd core u s d | 0x06 => opSetd core u s d | 0x07 => opCopy core u s d | _ => opFill core u s d

/-- The effect of a MAT operation. -/
def effectMat (core : Nat) (u : UOp) (s : State) (d : Dev) : Dev :=
  match u.op with
  | 0x01 => opMma core u s d | 0x02 => opOut core u s d | 0x03 => opStacc core u s d | 0x04 => opLdacc core u s d
  | 0x05 => opClr core u s d | 0x06 => opRowscale core u s d | 0x07 => opTov core u s d | _ => opFromv core u s d

/-- The effect of a VEC operation. -/
def effectVec (core : Nat) (u : UOp) (s : State) (d : Dev) : Dev :=
  match u.op with
  | 0x01 => opAdd core u s d | 0x02 => opSub core u s d | 0x03 => opMul core u s d | 0x04 => opFma core u s d
  | 0x05 => opVecMin core u s d | 0x06 => opVecMax core u s d | 0x07 => opVecCmp core u s d | 0x08 => opSel core u s d
  | 0x09 => opCvt core u s d | 0x0A => opQmx core u s d | 0x0B => opBcast core u s d | 0x0C => opIota core u s d
  | 0x0D => opMlen core u s d | 0x10 => opExp core u s d | 0x11 => opExp2 core u s d | 0x12 => opLn core u s d
  | 0x13 => opLog2 core u s d | 0x14 => opRcp core u s d | 0x15 => opRsq core u s d | 0x16 => opSin core u s d
  | 0x17 => opCos core u s d | 0x20 => opSort core u s d | 0x21 => opTopk core u s d | 0x22 => opGather core u s d
  | 0x30 => opIadd core u s d | 0x31 => opIsub core u s d | 0x32 => opImul core u s d | 0x33 => opAnd core u s d
  | 0x34 => opOr core u s d | 0x35 => opXor core u s d | 0x36 => opShl core u s d | _ => opSra core u s d

/-- The effect of a RED operation. -/
def effectRed (core : Nat) (u : UOp) (s : State) (d : Dev) : Dev :=
  match u.op with
  | 0x01 => opSum core u s d | 0x02 => opRedMax core u s d | 0x03 => opRedMin core u s d | 0x04 => opArgmax core u s d
  | 0x05 => opBrowmax core u s d | 0x06 => opBrowsum core u s d | 0x08 => opSmx core u s d | _ => opMoec core u s d

/-- What an operation does when it starts. Masked off it does nothing, but an MMA loads its A buffer (R131, R150). -/
def opEffect (core : Nat) (u : UOp) (s : State) (d : Dev) : Dev :=
  if !u.run && !(u.cls = 1 && u.op = 1) then d
  else if u.cls = 0 then effectMove core u s d
  else if u.cls = 1 then effectMat core u s d
  else if u.cls = 2 then effectVec core u s d
  else effectRed core u s d

/-- Start an operation: its results are written now and no one may read its destinations before it completes (R141,
log 10). -/
def startOp (core : Nat) (u : UOp) (s : State) (d : Dev) : Dev :=
  opEffect core u s (d.onCore core fun c => { c with flight := c.flight ++ [(unitOf u.cls, u)] })

/-- What KEEP_A may match after a MAT word (R150). -/
def afterMat (c : Core) (op : Nat) (w : OpWord) : Option LastMat :=
  if op = 1 then some ⟨opIdx w.f1, c.rdD (opIdx w.f1), (c.rdS (bitsOf w.i 0 8)).toNat, (c.rdS (opIdx w.f3)).toNat⟩ else none

/-- A write to a descriptor register ends the match of KEEP_A with it (R150). -/
def Core.noteWrites (c : Core) (cls op : Nat) (w : OpWord) (run : Bool) : Core :=
  if cls = 1 then { c with lastMat := afterMat c op w }
  else if cls = 0 ∧ (op = 5 ∨ op = 6) ∧ run then
    { c with lastMat := c.lastMat.filter fun l => l.reg ≠ opIdx w.f0 }
  else c

/-- Issue a word to its unit: it starts at once when the unit is free, else it waits in the unit's queue (R140). -/
def issueUnit (core : Nat) (u : UOp) (s : State) (d : Dev) : Dev :=
  let x := unitOf u.cls
  let c := d.chip.core core
  if (c.queue x).isEmpty && !c.inFlight x then startOp core u s d
  else d.onCore core fun c => c.setQueue x (c.queue x ++ [u])

/-! ## Issue -/

/-- What the fetch of a word does: single-bit errors are counted once each and corrected (R78). -/
def Dev.fetchEcc (d : Dev) (k : Fetch) : Dev :=
  let n := b2n (k.eccLo = 1) + b2n (k.eccHi = 1)
  if n = 0 then d else d.count F.TOW_ISTORE_ECC_CORRECTED n (towerOf k.core) 0 (coreSel k.core)

/-- A controller word's own effect, `on` when its predicate holds. -/
abbrev CtlEffect := Dev → Dev

/-- The word of a class and code that a core fetches next. Nothing happens unless the core is issuing, its next word is
this one and it may issue now. A word whose class or code is not listed traps with ILLEGAL; a double-bit error with
ISTORE (R78, R130, R140). `ctl` is the effect of a controller word whose predicate holds. -/
def coreWord (cls op : Nat) (k : Fetch) (w : OpWord) (fault : MacFault) (ctl : CtlEffect) (s : State) (d : Dev) : Dev :=
  let core := k.core
  let c := d.chip.core core
  if !coreExists core || c.st ≠ .running || c.wait.isSome then d
  else if k.eccLo = 2 ∨ k.eccHi = 2 then (d.fetchEcc k).trap core trapIstore c.pc
  else
    let raw := (Tab.get 0 c.istore c.pc).toNat
    let x := unpackWord raw
    if (opForm x.1 x.2.1 x.2.2).isNone then (d.fetchEcc k).trap core trapIllegal c.pc
    else if raw ≠ packWord cls op w then d
    else if !wordLegal cls op w then (d.fetchEcc k).trap core trapIllegal c.pc
    else if c.stalled cls op w then d
    else
      let d := d.fetchEcc k
      if !c.stateLegal cls op w then d.trap core trapIllegal c.pc
      else
        let run := c.rdP w.psel != w.pneg
        let u := c.capture cls op w run fault
        let t := u.touches d.chip.frm.cur
        if run && t.1.any outside then d.trap core trapAddr c.pc
        else if run && !t.2 then d.trap core trapAlign c.pc
        else
          let d := d.onCore core fun c => c.noteWrites cls op w run
          if cls < 4 then (issueUnit core u s d).next core
          else if run then ctl d
          else d.next core

/-- A MOVE, MAT, VEC or RED word. -/
def unitWord (cls op : Nat) (k : Fetch) (w : OpWord) (s : State) (d : Dev) : Dev := coreWord cls op k w {} id s d

/-- A controller word that changes the core and goes on to the next word. -/
def ctlWord (cls op : Nat) (k : Fetch) (w : OpWord) (f : Core → Core) (s : State) (d : Dev) : Dev :=
  coreWord cls op k w {} (fun d => (d.onCore k.core f).next k.core) s d

/-! ## The units' own events -/

/-- UNIT_START: the first queued operation of a free unit starts (R140). -/
def unitStart (core : Nat) (x : UnitId) (s : State) (d : Dev) : Dev :=
  let c := d.chip.core core
  match c.queue x with
  | u :: q => if c.inFlight x then d else startOp core u s (d.onCore core fun c => c.setQueue x q)
  | [] => d

/-- OPERATION_COMPLETE: the unit's operation completes; a core that had issued FRAMEEND and has nothing left reaches its
end-of-frame wait (R122, R144). -/
def operationComplete (core : Nat) (x : UnitId) (cycles ns : Nat) (d : Dev) : Dev :=
  d.onCore core fun c =>
    let c := { c with flight := c.flight.filter fun p => p.1 ≠ x }
    if c.st = .ending ∧ c.allIdle then c.endStep cycles ns else c

/-- WAIT_END: a SYNC wait ends when its units are idle; a WAITRX or BTEST wait, and the hold on regions kept for
replays, end with the core's last replay slot (R124, R144, R157, R212). -/
def waitEnd (core : Nat) (d : Dev) : Dev :=
  d.onCore core fun c =>
    match c.wait with
    | some (.sync m) => if c.syncDone m then { c with wait := none } else c
    | some (.btest p b) => ({ c with wait := none, replay := false, held := [] }).wrP p (c.btest b)
    | _ => { c with wait := none, replay := false, held := [] }

end Sys2Proof.Machine
end

