-- ==== Sys2Proof/Machine/CoreOps.lean ====
section
/-! DEFINITION. The commands of the cores: each is the fetch and issue of one operation word (R128 to R161), or an event
of a core's units. -/

namespace Sys2Proof.Machine

open Host

/-- LDV: Loads a vector register from 256 aligned pantry bytes (R147). -/
def execLdv (k : Fetch) (w : OpWord) (s : State) : Outcome State Fault Refusal := runs s (unitWord 0 0x01 k w s)

/-- STV: Stores the lanes of a vector register that its mask enables to 256 aligned pantry bytes (R147). -/
def execStv (k : Fetch) (w : OpWord) (s : State) : Outcome State Fault Refusal := runs s (unitWord 0 0x02 k w s)

/-- LDS: Loads a scalar register from 4 pantry bytes (R147). -/
def execLds (k : Fetch) (w : OpWord) (s : State) : Outcome State Fault Refusal := runs s (unitWord 0 0x03 k w s)

/-- STS: Stores a scalar register to 4 pantry bytes (R147). -/
def execSts (k : Fetch) (w : OpWord) (s : State) : Outcome State Fault Refusal := runs s (unitWord 0 0x04 k w s)

/-- LDD: Loads a 32-byte tile descriptor (R147). -/
def execLdd (k : Fetch) (w : OpWord) (s : State) : Outcome State Fault Refusal := runs s (unitWord 0 0x05 k w s)

/-- SETD: Sets 4 bytes of a descriptor register from a scalar (R147). -/
def execSetd (k : Fetch) (w : OpWord) (s : State) : Outcome State Fault Refusal := runs s (unitWord 0 0x06 k w s)

/-- COPY: Copies H pantry lines, carrying husk marks without a trap (R147). -/
def execCopy (k : Fetch) (w : OpWord) (s : State) : Outcome State Fault Refusal := runs s (unitWord 0 0x07 k w s)

/-- FILL: Fills H pantry lines with a repeated 32-bit pattern (R147). -/
def execFill (k : Fetch) (w : OpWord) (s : State) : Outcome State Fault Refusal := runs s (unitWord 0 0x08 k w s)

/-- MMA: Accumulates A times B into a bank over K-blocks, with the shell, exponent and residue checks made after each block (R148). `fault` is a defect that the engine shows. -/
def execMma (k : Fetch) (w : OpWord) (fault : MacFault) (s : State) : Outcome State Fault Refusal :=
  runs s (coreWord 1 0x01 k w fault id s)

/-- OUT: Converts a bank, scaled by its tag, into the output tile under R103–R105 (R148). -/
def execOut (k : Fetch) (w : OpWord) (s : State) : Outcome State Fault Refusal := runs s (unitWord 1 0x02 k w s)

/-- STACC: Stores a bank image, its tag factors and its mode to the pantry (R148). -/
def execStacc (k : Fetch) (w : OpWord) (s : State) : Outcome State Fault Refusal := runs s (unitWord 1 0x03 k w s)

/-- LDACC: Loads a bank, its tag and its mode from an image written by STACC (R148). -/
def execLdacc (k : Fetch) (w : OpWord) (s : State) : Outcome State Fault Refusal := runs s (unitWord 1 0x04 k w s)

/-- CLR: Clears a bank, sets its tag to 1.0 and sets its mode (R148). -/
def execClr (k : Fetch) (w : OpWord) (s : State) : Outcome State Fault Refusal := runs s (unitWord 1 0x05 k w s)

/-- ROWSCALE: Scales each row of an FP32 bank by a vector lane (R148). -/
def execRowscale (k : Fetch) (w : OpWord) (s : State) : Outcome State Fault Refusal := runs s (unitWord 1 0x06 k w s)

/-- TOV: Copies one row of an FP32 bank into a vector register (R148). -/
def execTov (k : Fetch) (w : OpWord) (s : State) : Outcome State Fault Refusal := runs s (unitWord 1 0x07 k w s)

/-- FROMV: Writes one row of an FP32 bank from a vector register (R148). -/
def execFromv (k : Fetch) (w : OpWord) (s : State) : Outcome State Fault Refusal := runs s (unitWord 1 0x08 k w s)

/-- ADD: Adds two vectors lane by lane (R152). -/
def execAdd (k : Fetch) (w : OpWord) (s : State) : Outcome State Fault Refusal := runs s (unitWord 2 0x01 k w s)

/-- SUB: Subtracts two vectors lane by lane (R152). -/
def execSub (k : Fetch) (w : OpWord) (s : State) : Outcome State Fault Refusal := runs s (unitWord 2 0x02 k w s)

/-- MUL: Multiplies two vectors lane by lane (R152). -/
def execMul (k : Fetch) (w : OpWord) (s : State) : Outcome State Fault Refusal := runs s (unitWord 2 0x03 k w s)

/-- FMA: Fused multiply-add of vectors, with one rounding (R152). -/
def execFma (k : Fetch) (w : OpWord) (s : State) : Outcome State Fault Refusal := runs s (unitWord 2 0x04 k w s)

/-- VEC_MIN: Takes the lane-by-lane vector minimum (R152). -/
def execVecMin (k : Fetch) (w : OpWord) (s : State) : Outcome State Fault Refusal := runs s (unitWord 2 0x05 k w s)

/-- VEC_MAX: Takes the lane-by-lane vector maximum (R152). -/
def execVecMax (k : Fetch) (w : OpWord) (s : State) : Outcome State Fault Refusal := runs s (unitWord 2 0x06 k w s)

/-- VEC_CMP: Compares two vectors into a lane mask (R152). -/
def execVecCmp (k : Fetch) (w : OpWord) (s : State) : Outcome State Fault Refusal := runs s (unitWord 2 0x07 k w s)

/-- SEL: Selects lanes of two vectors by a mask (R152). -/
def execSel (k : Fetch) (w : OpWord) (s : State) : Outcome State Fault Refusal := runs s (unitWord 2 0x08 k w s)

/-- CVT: Converts lanes between formats under R101–R104 (R152). -/
def execCvt (k : Fetch) (w : OpWord) (s : State) : Outcome State Fault Refusal := runs s (unitWord 2 0x09 k w s)

/-- QMX: Quantises two 32-lane FP32 blocks to an MX format and returns their scales (R152). -/
def execQmx (k : Fetch) (w : OpWord) (s : State) : Outcome State Fault Refusal := runs s (unitWord 2 0x0A k w s)

/-- BCAST: Broadcasts a scalar or an immediate to every lane (R152). -/
def execBcast (k : Fetch) (w : OpWord) (s : State) : Outcome State Fault Refusal := runs s (unitWord 2 0x0B k w s)

/-- IOTA: Writes each lane's index into it (R152). -/
def execIota (k : Fetch) (w : OpWord) (s : State) : Outcome State Fault Refusal := runs s (unitWord 2 0x0C k w s)

/-- MLEN: Builds a mask with its lowest s bits set (R152). -/
def execMlen (k : Fetch) (w : OpWord) (s : State) : Outcome State Fault Refusal := runs s (unitWord 2 0x0D k w s)

/-- EXP: Vector e^x approximation (R112). -/
def execExp (k : Fetch) (w : OpWord) (s : State) : Outcome State Fault Refusal := runs s (unitWord 2 0x10 k w s)

/-- EXP2: Vector 2^x approximation (R112). -/
def execExp2 (k : Fetch) (w : OpWord) (s : State) : Outcome State Fault Refusal := runs s (unitWord 2 0x11 k w s)

/-- LN: Vector natural logarithm approximation (R112). -/
def execLn (k : Fetch) (w : OpWord) (s : State) : Outcome State Fault Refusal := runs s (unitWord 2 0x12 k w s)

/-- LOG2: Vector base-2 logarithm approximation (R112). -/
def execLog2 (k : Fetch) (w : OpWord) (s : State) : Outcome State Fault Refusal := runs s (unitWord 2 0x13 k w s)

/-- RCP: Vector reciprocal approximation (R112). -/
def execRcp (k : Fetch) (w : OpWord) (s : State) : Outcome State Fault Refusal := runs s (unitWord 2 0x14 k w s)

/-- RSQ: Vector reciprocal square root approximation (R112). -/
def execRsq (k : Fetch) (w : OpWord) (s : State) : Outcome State Fault Refusal := runs s (unitWord 2 0x15 k w s)

/-- SIN: Vector sine approximation (R112). -/
def execSin (k : Fetch) (w : OpWord) (s : State) : Outcome State Fault Refusal := runs s (unitWord 2 0x16 k w s)

/-- COS: Vector cosine approximation (R112). -/
def execCos (k : Fetch) (w : OpWord) (s : State) : Outcome State Fault Refusal := runs s (unitWord 2 0x17 k w s)

/-- SORT: Stable sort of 64 keys with their payloads (R113). -/
def execSort (k : Fetch) (w : OpWord) (s : State) : Outcome State Fault Refusal := runs s (unitWord 2 0x20 k w s)

/-- TOPK: Returns the first k keys of the descending order (R113). -/
def execTopk (k : Fetch) (w : OpWord) (s : State) : Outcome State Fault Refusal := runs s (unitWord 2 0x21 k w s)

/-- GATHER: Reads up to 64 indexed tile elements, marking indices out of range (R159). -/
def execGather (k : Fetch) (w : OpWord) (s : State) : Outcome State Fault Refusal := runs s (unitWord 2 0x22 k w s)

/-- IADD: Integer lane addition (R152). -/
def execIadd (k : Fetch) (w : OpWord) (s : State) : Outcome State Fault Refusal := runs s (unitWord 2 0x30 k w s)

/-- ISUB: Integer lane subtraction (R152). -/
def execIsub (k : Fetch) (w : OpWord) (s : State) : Outcome State Fault Refusal := runs s (unitWord 2 0x31 k w s)

/-- IMUL: Integer lane multiplication keeping the low bits (R152). -/
def execImul (k : Fetch) (w : OpWord) (s : State) : Outcome State Fault Refusal := runs s (unitWord 2 0x32 k w s)

/-- AND: Bitwise AND of lanes (R152). -/
def execAnd (k : Fetch) (w : OpWord) (s : State) : Outcome State Fault Refusal := runs s (unitWord 2 0x33 k w s)

/-- OR: Bitwise OR of lanes (R152). -/
def execOr (k : Fetch) (w : OpWord) (s : State) : Outcome State Fault Refusal := runs s (unitWord 2 0x34 k w s)

/-- XOR: Bitwise XOR of lanes (R152). -/
def execXor (k : Fetch) (w : OpWord) (s : State) : Outcome State Fault Refusal := runs s (unitWord 2 0x35 k w s)

/-- SHL: Shifts lanes left (R152). -/
def execShl (k : Fetch) (w : OpWord) (s : State) : Outcome State Fault Refusal := runs s (unitWord 2 0x36 k w s)

/-- SRA: Shifts lanes right arithmetically (R152). -/
def execSra (k : Fetch) (w : OpWord) (s : State) : Outcome State Fault Refusal := runs s (unitWord 2 0x37 k w s)

/-- SUM: Sums lanes with a fixed pairwise tree into a scalar (R153). -/
def execSum (k : Fetch) (w : OpWord) (s : State) : Outcome State Fault Refusal := runs s (unitWord 3 0x01 k w s)

/-- RED_MAX: Reduces lanes to their maximum (R153). -/
def execRedMax (k : Fetch) (w : OpWord) (s : State) : Outcome State Fault Refusal := runs s (unitWord 3 0x02 k w s)

/-- RED_MIN: Reduces lanes to their minimum (R153). -/
def execRedMin (k : Fetch) (w : OpWord) (s : State) : Outcome State Fault Refusal := runs s (unitWord 3 0x03 k w s)

/-- ARGMAX: Returns the maximum lane value and its lowest lane index (R153). -/
def execArgmax (k : Fetch) (w : OpWord) (s : State) : Outcome State Fault Refusal := runs s (unitWord 3 0x04 k w s)

/-- BROWMAX: Writes each bank row's maximum over the first n columns into a vector lane (R153). -/
def execBrowmax (k : Fetch) (w : OpWord) (s : State) : Outcome State Fault Refusal := runs s (unitWord 3 0x05 k w s)

/-- BROWSUM: Writes each bank row's sum over the first n columns into a vector lane (R153). -/
def execBrowsum (k : Fetch) (w : OpWord) (s : State) : Outcome State Fault Refusal := runs s (unitWord 3 0x06 k w s)

/-- SMX: Performs one online-softmax step over a bank of scores (R158). -/
def execSmx (k : Fetch) (w : OpWord) (s : State) : Outcome State Fault Refusal := runs s (unitWord 3 0x08 k w s)

/-- MOEC: Combines up to 8 expert vectors weighted by their gates (R160). -/
def execMoec (k : Fetch) (w : OpWord) (s : State) : Outcome State Fault Refusal := runs s (unitWord 3 0x09 k w s)

/-- NOP: Does nothing (R154). -/
def execNop (k : Fetch) (w : OpWord) (s : State) : Outcome State Fault Refusal := runs s (ctlWord 4 0x00 k w id s)

/-- SETI: Sets a scalar register to an immediate (R154). -/
def execSeti (k : Fetch) (w : OpWord) (s : State) : Outcome State Fault Refusal := runs s (ctlWord 4 0x01 k w (ctlSeti w) s)

/-- ALU: Scalar arithmetic or logic operation selected by H (R154). -/
def execAlu (k : Fetch) (w : OpWord) (s : State) : Outcome State Fault Refusal := runs s (ctlWord 4 0x02 k w (ctlAlu w) s)

/-- CTRL_CMP: Compares scalars into a predicate (R154). -/
def execCtrlCmp (k : Fetch) (w : OpWord) (s : State) : Outcome State Fault Refusal := runs s (ctlWord 4 0x03 k w (ctlCmp w) s)

/-- PLOG: Logical operation on predicates (R154). -/
def execPlog (k : Fetch) (w : OpWord) (s : State) : Outcome State Fault Refusal := runs s (ctlWord 4 0x04 k w (ctlPlog w) s)

/-- RDFRM: Reads a half of the frame number (R154). -/
def execRdfrm (k : Fetch) (w : OpWord) (s : State) : Outcome State Fault Refusal := runs s (ctlWord 4 0x11 k w (ctlRdfrm w s.dev.chip.frm.cur) s)

/-- TOL: Sets a bank's shell tolerance in ULP (R156). -/
def execTol (k : Fetch) (w : OpWord) (s : State) : Outcome State Fault Refusal := runs s (ctlWord 5 0x01 k w (ctlTol w) s)

/-- FLAGS: Reads and clears the program flag copy after earlier operations complete (R156). -/
def execFlags (k : Fetch) (w : OpWord) (s : State) : Outcome State Fault Refusal := runs s (ctlWord 5 0x02 k w (ctlFlags w) s)

/-- LOOP: Runs the following words up to the end address H times (R155). -/
def execLoop (k : Fetch) (w : OpWord) (s : State) : Outcome State Fault Refusal :=
  runs s (coreWord 4 0x08 k w {} (ctlLoop k.core w) s)

/-- JUMP: Continues issue at the address J (R155). -/
def execJump (k : Fetch) (w : OpWord) (s : State) : Outcome State Fault Refusal :=
  runs s (coreWord 4 0x09 k w {} (ctlJump k.core w) s)

/-- SYNC: Stalls issue until earlier operations of the masked units complete (R154). -/
def execSync (k : Fetch) (w : OpWord) (s : State) : Outcome State Fault Refusal :=
  runs s (coreWord 4 0x0A k w {} (ctlSync k.core w) s)

/-- WAITRX: Stalls issue until the core's last replay slot has ended (R124). -/
def execWaitrx (k : Fetch) (w : OpWord) (s : State) : Outcome State Fault Refusal :=
  runs s (coreWord 4 0x0B k w {} (ctlWaitrx k.core) s)

/-- BARRIVE: Records the core's arrival at a room barrier (R157). -/
def execBarrive (k : Fetch) (w : OpWord) (s : State) : Outcome State Fault Refusal :=
  runs s (coreWord 4 0x0C k w {} (fun d => (ctlBarrive k.core w d).next k.core) s)

/-- BTEST: Waits until the replay point, then tests whether the barrier has completed (R157). -/
def execBtest (k : Fetch) (w : OpWord) (s : State) : Outcome State Fault Refusal :=
  runs s (coreWord 4 0x0D k w {} (ctlBtest k.core w) s)

/-- FRAMEEND: Enters the end-of-frame wait once earlier operations complete (R122). `cycles` and `ns`: the core cycles and the time since the threshold. -/
def execFrameend (k : Fetch) (w : OpWord) (cycles ns : Nat) (s : State) : Outcome State Fault Refusal :=
  runs s (coreWord 4 0x0E k w {} (ctlFrameend k.core cycles ns) s)

/-- TRAP: Traps the core with USER and the code (R161). -/
def execTrap (k : Fetch) (w : OpWord) (s : State) : Outcome State Fault Refusal :=
  runs s (coreWord 4 0x0F k w {} (fun d => d.trap k.core trapUser (d.chip.core k.core).pc (bitsOf w.h 0 8)) s)

/-- RDCYC: Reads the core cycles since the threshold (R154). `cycles`: the core cycles since the threshold. -/
def execRdcyc (k : Fetch) (w : OpWord) (cycles : Nat) (s : State) : Outcome State Fault Refusal :=
  runs s (coreWord 4 0x10 k w {} (fun d => (d.onCore k.core (ctlRdcyc w cycles)).next k.core) s)

/-- XSIG: Posts a CRC-32C over pantry lines to a cross-check comparison (R156). -/
def execXsig (k : Fetch) (w : OpWord) (s : State) : Outcome State Fault Refusal :=
  runs s (coreWord 5 0x03 k w {} (fun d => ctlXsig k.core ((d.chip.core k.core).rdS (opIdx w.f1) + BitVec.ofNat 32 w.j).toNat w s d) s)

/-- UNIT_START: a queued operation of a unit (0 MOVE, 1 MAT, 2 VEC and RED) starts (R140). -/
def execUnitStart (core cls : Nat) (s : State) : Outcome State Fault Refusal := runs s (unitStart core (unitOf cls) s)

/-- OPERATION_COMPLETE: the latency of a unit's operation ends (R144). `cycles` and `ns`: the core cycles and the time
since the threshold. -/
def execOperationComplete (core cls cycles ns : Nat) (s : State) : Outcome State Fault Refusal :=
  runs s (operationComplete core (unitOf cls) cycles ns)

/-- WAIT_END: a wait of a core ends, or its last replay slot does (R144). -/
def execWaitEnd (core : Nat) (s : State) : Outcome State Fault Refusal := runs s (waitEnd core)

end Sys2Proof.Machine
end

