-- ==== Sys2Proof/Machine/Pins.lean ====
section
/-! DEFINITION. The input supply and the reset pins (chapter 01; R26, R28, R506). -/

namespace Sys2Proof.Machine

open Host

/-- The JTAG identification code (R29). -/
def jtagIdcode : Nat := 0x1A808C3F

/-- Change the pins the module drives or has sampled; pins change at their own times (R53). -/
def State.onPins (s : State) (f : Pins → Pins) : State :=
  { s with dev := { s.dev with chip := { s.dev.chip with pins := f s.dev.chip.pins } } }

/-- The device when every rail is up: the straps sampled, PWR_GOOD high, every other pin released (R27, R28). -/
def State.powerUp (s : State) (straps : Nat) (perstN modResetN : Bool) : State :=
  let pins : Pins := { perstN, modResetN, smbAddr := 0x58 + straps % 8 }
  let s := { s with gate := { s.gate with powered := true } }
  let s := (s.onPins fun _ => pins).reborn 0 (!perstN || !modResetN)
  if s.gate.held then s else { s with dev := s.dev.startFunctions }

/-- POWER_ON (R27, R28): from a module that is off and was not turned off by over-voltage. -/
def powerOn (straps : Nat) (perstN modResetN : Bool) (s : State) : State :=
  if s.gate.powered ∨ s.dev.chip.pins.ovOff then s else s.powerUp straps perstN modResetN

/-- OVER_VOLTAGE_TURN_ON (R19): the input has fallen through the over-voltage turn-on level. -/
def overVoltageTurnOn (straps : Nat) (perstN modResetN : Bool) (s : State) : State :=
  if s.gate.powered ∨ !s.dev.chip.pins.ovOff then s else s.powerUp straps perstN modResetN

/-- A write of a record that the loss of the input leaves incomplete (R21), if M may be writing that record: a calibration record by
kind * 64 + unit, the retire list as kind 32; 33 * 64 the boot control record, then the owner key record, the signature counter, the
older energy checkpoint. -/
def Dev.tearWrite (d : Dev) (k : Nat) : Dev :=
  let f := d.calFlash
  if !d.chip.mRuns then d
  else match k with
    | 2112 => { d with flash := { d.flash with boot := d.flash.boot.tear } }
    | 2113 => { d with flash := { d.flash with ownerRec := d.flash.ownerRec.tear } }
    | 2114 => { d with flash := { d.flash with counter := d.flash.counter.tear } }
    | 2115 =>
      let seq (x : Option (Nat × Nat × Nat)) : Nat := (x.map fun y => y.1 + 1).getD 0
      { d with calFlash := if seq f.eng0 ≤ seq f.eng1 then { f with eng0 := none } else { f with eng1 := none } }
    | _ =>
      if !d.chip.recordDue (k / 64) (k % 64) then d
      else if k = 2048 then { d with calFlash := { f with retire := f.retire.tear } }
      else
        let j := k * 2 + f.freeSlot (k / 64) (k % 64)
        { d with calFlash := { f with records := Tab.upd none f.records j fun r => r.map fun r => { r with ok := false } } }

/-- INPUT_TURN_OFF (R20, R21): every converter turns off; no state is preserved but flash and fuses. The records being
written at that moment are torn. -/
def inputTurnOff (e : TurnOff) (s : State) : State :=
  if !s.gate.powered then (if e.high then s.onPins fun p => { p with ovOff := true } else s)
  else
    let pins : Pins := { pwrGood := false, railsOk := false, ovOff := e.high, perstN := s.dev.chip.pins.perstN, modResetN := s.dev.chip.pins.modResetN }
    let s := { s with dev := e.torn.foldl Dev.tearWrite s.dev }
    { (s.onPins fun _ => pins).reborn 0 false with gate := { powered := false } }

/-- RAIL_OUT_OF_REGULATION (R28): PWR_GOOD falls; it returns at a threshold at which every rail has been in regulation
for 1 ms. -/
def railOut (s : State) : State :=
  if s.gate.powered then s.onPins fun p => { p with pwrGood := false, railsOk := false } else s

/-- MODULE_RESET (R26, R513): a reset pin has been low for 100 ns. Pin 0 is PERST_N, 1 MOD_RESET_N. -/
def moduleReset (pin : Nat) (s : State) : State :=
  let s := s.onPins fun p => if pin = 0 then { p with perstN := false } else { p with modResetN := false }
  if !s.gate.powered ∨ s.gate.held then s else s.reborn (if pin = 0 then 1 else 2) true

/-- MODULE_RESET_RELEASE (R26, R506): both pins are high, and each function starts toward READY. -/
def moduleResetRelease (s : State) : State :=
  let s := s.onPins fun p => { p with perstN := true, modResetN := true }
  if !s.gate.powered then s
  else
    { s with
      gate := { s.gate with held := false }
      dev := s.dev.startFunctions }

/-- POWER_ON: `straps` the levels of SMB_ADDR2 to SMB_ADDR0, and the levels of the two reset pins. -/
def execPowerOn (straps : Nat) (perstN modResetN : Bool) (s : State) : Outcome State Fault Refusal :=
  .next (powerOn straps perstN modResetN s)

/-- OVER_VOLTAGE_TURN_ON: operands as POWER_ON. -/
def execOverVoltageTurnOn (straps : Nat) (perstN modResetN : Bool) (s : State) : Outcome State Fault Refusal :=
  .next (overVoltageTurnOn straps perstN modResetN s)

/-- INPUT_TURN_OFF: `high` when the input rose above the over-voltage level. -/
def execInputTurnOff (event : TurnOff) (s : State) : Outcome State Fault Refusal := .next (inputTurnOff event s)

/-- RAIL_OUT_OF_REGULATION. -/
def execRailOutOfRegulation (s : State) : Outcome State Fault Refusal := .next (railOut s)

/-- MODULE_RESET: pin 0 PERST_N, 1 MOD_RESET_N. -/
def execModuleReset (pin : Nat) (s : State) : Outcome State Fault Refusal := .next (moduleReset pin s)

/-- MODULE_RESET_RELEASE. -/
def execModuleResetRelease (s : State) : Outcome State Fault Refusal := .next (moduleResetRelease s)

end Sys2Proof.Machine
end

