-- ==== Sys2Proof/Machine/Frames.lean ====
section
/-! DEFINITION. The frame period, views, frame alignment and tick markers (chapter 02; R385, R386). -/

namespace Sys2Proof.Machine

open Host

/-- Change frame alignment. -/
def Dev.onSync (d : Dev) (f : Sync → Sync) : Dev := d.onChip fun c => { c with frm := { c.frm with sync := f c.frm.sync } }

/-! ## The period -/

/-- PERIOD_WRITE (R46): a length out of range leaves the field unchanged and sets BAD_WRITE. -/
def periodWrite (r : Requester) (t len : Nat) (d : Dev) : Dev :=
  if !isPf r then d
  else if len < 8 ∨ 128 < len then d.badWrite
  else d.stageFld r t F.FRM_PERIOD_LEN len

/-- A requested period takes effect at a threshold at which no room is loaded (R47). -/
def Dev.applyPeriod (d : Dev) : Dev :=
  let len := d.chip.fld F.FRM_PERIOD_LEN
  if len = d.chip.frm.active ∨ d.chip.loadedRooms ≠ [] then d
  else (d.onChip fun c => { c with frm := { c.frm with active := len } }).flag F.FRM_INT_STATUS_PERIOD_APPLIED

/-! ## Views -/

/-- What reads return: the last publication; the chip itself while nothing has been published (R54, R55). -/
def Dev.shown (d : Dev) : Chip := if d.pub.frm.published then d.pub else d.chip

/-- VIEW_PIN (R57): the last published frame is pinned for the requester; FRM_VIEW_HI is latched (R4). -/
def viewPin (r : Requester) (d : Dev) : Dev :=
  let v := d.pub.frm.commit
  let k := r.code
  let d : Dev := { d with
    views := (d.views.filter fun p => p.1 ≠ k) ++ [(k, { frame := v, pinned := d.chip.frm.cur, chip := d.shown, ev := d.pubEv })]
    expired := d.expired.filter fun x => x ≠ k
    pairs := (d.pairs.filter fun p => !(p.1 = k && p.2.1 = F.FRM_VIEW_HI.addr)) ++ [(k, F.FRM_VIEW_HI.addr, v / 2 ^ 32)] }
  d.emit (.value (v % 2 ^ 32))

/-- VIEW_RELEASE (R57). -/
def viewRelease (r : Requester) (d : Dev) : Dev := { d with views := d.views.filter fun p => p.1 ≠ r.code }

/-- The frame limit of a view: 4,096 frames have passed at the threshold that begins frame `m` (R57). -/
def View.aged (v : View) (m : Nat) : Bool := decide (4096 ≤ frameSub m v.pinned)

/-- The views that end by the frame limit at the next threshold end (R57). -/
def Dev.expireViews (d : Dev) (m : Nat) (who : Nat → Bool) : Dev :=
  let gone := d.views.filter fun p => who p.1 && p.2.aged m
  { d with
    views := d.views.filter fun p => !(who p.1 && p.2.aged m)
    expired := d.expired ++ gone.map (·.1) }

/-- VIEW_EXPIRED (R57). -/
def viewExpired (r : Requester) (d : Dev) : Dev := d.expireViews (nextFrame d.chip.frm.cur) fun k => k = r.code

/-! ## Alignment -/

/-- |e| is at most 16 ns. -/
def closeEdge (e : Int) : Bool := decide (-16 ≤ e) && decide (e ≤ 16)

/-- The step that an edge makes: `e` limited to 16 ns either way (R58). -/
def edgeStep (e : Int) : Int := max (-16) (min 16 e)

/-- The alignment state accepts edges (R63). -/
def SyncSt.accepts (x : SyncSt) : Bool := x = .acquiring || x = .locked || x = .lost

/-- The state after an accepted edge (R60, R63). -/
def Sync.accept (x : Sync) (e : Int) : Sync :=
  let good := if closeEdge e then x.good + 1 else 0
  let st := match x.st with
    | .acquiring => if 4 ≤ good then .locked else .acquiring
    | .locked => if closeEdge e then .locked else .acquiring
    | .lost => .acquiring
    | s => s
  { x with st, good, phase := e, clearLost := x.clearLost || x.syncLost, setOffset := x.setOffset || x.st = .lost }

/-- An accepted edge; LOCKED is flagged when it is entered (R63). -/
def Dev.acceptEdge (d : Dev) (e : Int) : Dev :=
  let was := d.chip.frm.sync.st
  let d := d.onSync fun x => x.accept e
  if was ≠ .locked ∧ d.chip.frm.sync.st = .locked then d.flag F.FRM_INT_STATUS_LOCKED else d

/-- An extra edge (R59). -/
def Dev.extraEdge (d : Dev) : Dev := (d.count F.FRM_SYNC_COUNT_EXTRA).onSync fun x => { x with extra := x.extra + 1 }

/-- An edge in a window that accepts none in this state: in HOLDOVER it is counted as usual, the second as an extra one (R59,
R61, R63). -/
def Dev.idleEdge (d : Dev) (came : Bool) (mark : Sync → Sync) : Dev :=
  if d.chip.frm.sync.st ≠ .holdover then d else if came then d.extraEdge else d.onSync mark

/-- An edge of the selected source `t` ns after the running frame's threshold, negative when before it (R58 to R62). The
threshold that it aligned, as a distance from the running frame, when it was accepted. -/
def Dev.edge (d : Dev) (t : Int) : Option Nat × Dev :=
  let x := d.chip.frm.sync
  let len : Int := d.chip.frameNs
  if x.st = .off ∨ !d.chip.frm.begun then (none, d)
  else if x.coarse ∧ x.st.accepts then
    (some 0, (d.acceptEdge t).onSync fun x => { x with coarse := false, seen := true, coarseLen := some ((d.chip.frm.active * 128 : Nat) + t).toNat })
  else if -256 ≤ t ∧ t ≤ 256 then
    if x.seen then (none, d.extraEdge)
    else if !x.st.accepts then (none, d.idleEdge x.came fun y => { y with came := true })
    else if x.came then (none, d.extraEdge)
    else (some 0, (d.acceptEdge t).onSync fun x => { x with seen := true, step := edgeStep t })
  else if len - 256 ≤ t ∧ t ≤ len + 256 then
    if x.seenNext then (none, d.extraEdge)
    else if !x.st.accepts then (none, d.idleEdge x.cameNext fun y => { y with cameNext := true })
    else if x.cameNext then (none, d.extraEdge)
    else (some 1, (d.acceptEdge (t - len)).onSync fun x => { x with seenNext := true, stepNext := edgeStep (t - len) })
  else (none, d.count F.FRM_SYNC_COUNT_OUT_WINDOW)

/-- SYNC_IN_EDGE (R58). -/
def syncInEdge (t : Nat) (d : Dev) : Dev := if d.chip.fld F.FRM_SYNC_CTL_SRC = 1 then (d.edge t).2 else d

/-- A TICK (R385), which the timing master does not follow (R65). Its arguments: the master frame, TX_OFFSET, DEPTH, FLAGS and the snapshot master frame of its body. -/
def tick (q arrival master tx depth flags snap : Nat) (d : Dev) : Dev :=
  let p := d.chip.port q
  if !d.chip.portUp q ∨ !p.carrying then d
  else
    let mine := d.chip.fld F.FRM_SYNC_CTL_SRC = 2 && d.chip.fld F.FRM_SYNC_CTL_PORT = q && d.chip.fld F.FRM_SYNC_CTL_MASTER = 0
    let d := if mine then
        let ask := if bitOf flags 2 then some (snap % frameMod) else none
        let d := d.onSync fun x => { x with depth := depth % 256, tickSnap := ask }
        if ask = none ∨ d.chip.boot.warm then d else d.onChip fun c => { c with snap := { c.snap with tick := ask } }
      else d
    if !(bitOf flags 0 || bitOf flags 1) then d.countPort F.PCH_PORT_TICK_IGN q
    else if !mine then d
    else
      let first := d.chip.frm.sync.setOffset
      match d.edge (arrival - tx - p.delay) with
      | (some k, d) =>
        if first then d.onSync fun x => { x with setOffset := false, offset := frameSub master (d.chip.frm.cur + k) }
        else d
      | (none, d) => d

/-- SYNC_LOST is set (R60, R63, R419); vector 3 goes out whatever FRM_INT_EN holds (log 135). -/
def Dev.setSyncLost (d : Dev) (st : SyncSt) : Dev :=
  let d := d.onSync fun x => { x with st, syncLost := true, clearLost := false, good := 0 }
  ((d.flag F.FRM_INT_STATUS_SYNC_LOST).msixReq 0 3).log3 clsSync 0 0

/-- The running frame is the 64th without an accepted edge (R60). -/
def Sync.missing (x : Sync) : Bool := (x.st = .acquiring || x.st = .locked) && !x.seen && 63 ≤ x.missFrames

/-- SYNC_LOST (R60). -/
def syncLostRow (d : Dev) : Dev := if d.chip.frm.sync.missing then d.setSyncLost .lost else d

/-- Quarantine ends (R63). -/
def Dev.endQuarantine (d : Dev) : Dev :=
  d.onSync fun x => { x with st := .acquiring, quarLeft := 0, missFrames := 0, good := 0 }

/-- QUARANTINE_END (R63): the running frame is the last of the 1,024; none is left after it, and the threshold that ends it leads to
ACQUIRING. -/
def quarantineEnd (d : Dev) : Dev :=
  if d.chip.frm.sync.st = .quarantined ∧ d.chip.frm.sync.quarLeft ≤ 1 then d.onSync fun x => { x with quarLeft := 0 } else d

/-- Alignment at the threshold that ends the running frame: the 64-frame count, quarantine, and what the next frame takes
over from edges that came before its threshold (R58 to R63). -/
def Dev.syncFrame (d : Dev) : Dev :=
  let d := if d.chip.frm.sync.clearLost then d.onSync fun x => { x with syncLost := false, clearLost := false } else d
  let x := d.chip.frm.sync
  let d :=
    if x.st.accepts ∧ 16 < x.extra then
      let d := (d.setSyncLost .quarantined).flag F.FRM_INT_STATUS_QUARANTINE
      d.onSync fun x => { x with quarLeft := 1024 }
    else if x.missing then d.setSyncLost .lost
    else if x.st = .quarantined then
      if x.quarLeft ≤ 1 then d.endQuarantine else d.onSync fun x => { x with quarLeft := x.quarLeft - 1 }
    else d
  let ended := x.st = .quarantined && x.quarLeft ≤ 1
  d.onSync fun y => { y with
    missFrames := if x.st = .off ∨ x.st = .holdover ∨ ended then y.missFrames else if x.seen then 0 else satAdd 16 y.missFrames 1
    seen := y.seenNext
    seenNext := false
    came := y.cameNext
    cameNext := false
    step := y.stepNext
    stepNext := 0
    extra := 0
    coarseLen := none }

/-- SRC takes effect (R63; with REFCLK lost HOLDOVER begins at once, log 137). -/
def Dev.effectSrc (d : Dev) : Dev :=
  let src := d.chip.fld F.FRM_SYNC_CTL_SRC
  if src = 0 then
    d.onSync fun x => { x with
      st := .off, seen := false, seenNext := false, came := false, cameNext := false, step := 0, stepNext := 0, good := 0, coarse := false, quarLeft := 0 }
  else if d.chip.frm.sync.st = .off then
    d.onSync fun x => { x with
      st := if d.chip.pwr.holdover then .holdover else .acquiring
      missFrames := 0
      good := 0
      setOffset := true }
  else d

/-- COARSE takes effect (R62); with SRC none it is dropped (log 136). -/
def Dev.effectCoarse (d : Dev) : Dev :=
  if d.chip.loadedRooms ≠ [] then d.badWrite
  else d.onSync fun x => { x with coarse := x.st ≠ .off }

/-- The bits of a write of FRM_SYNC_CTL that act: PORT 6 and 7 and SRC 3 are ignored (R76). -/
def syncCtlMask (mask value : Nat) : Nat :=
  let m := if value / 4 % 8 < 6 then mask else mask - (mask &&& F.FRM_SYNC_CTL_PORT.mask)
  if value % 4 < 3 then m else m - (m &&& F.FRM_SYNC_CTL_SRC.mask)

/-- A write of FRM_SYNC_CTL (R62, R63): a COARSE written while a room is loaded is ignored and sets BAD_WRITE. -/
def syncCtlWrite (r : Requester) (t mask value : Nat) (d : Dev) : Dev :=
  if !isPf r then d
  else
    let coarse := bitOf (mask &&& value) 6
    let no := coarse && d.chip.loadedRooms ≠ []
    let d := if no then d.badWrite else d
    let m := syncCtlMask mask value
    d.stage r t F.FRM_SYNC_CTL_SRC.key (if no ∨ !coarse then m - (m &&& 0x40) else m) value

/-- What a staged write of FRM_SYNC_CTL does when it takes effect, its fields written (R62, R63). -/
def effectSyncCtl (mask value : Nat) (d : Dev) : Dev :=
  let d := if mask &&& F.FRM_SYNC_CTL_SRC.mask = 0 then d else d.effectSrc
  if bitOf (mask &&& value) 6 then d.effectCoarse else d

/-- COARSE (R62). -/
def coarseWrite (r : Requester) (t : Nat) (d : Dev) : Dev := syncCtlWrite r t 0x40 0x40 d

/-- SYNC_SRC_WRITE (R63). -/
def srcWrite (r : Requester) (t src : Nat) (d : Dev) : Dev := syncCtlWrite r t F.FRM_SYNC_CTL_SRC.mask (src % 4) d

/-- SYNC_OUT at threshold `m` (R64). -/
def Dev.syncOut (d : Dev) (m : Nat) : Dev :=
  if d.chip.fld F.FRM_SYNC_CTL_OUT_EN = 1 ∧ m % 2 ^ d.chip.fld F.FRM_SYNC_CTL_OUT_DIV = 0 then
    d.onChip fun c => { c with pins := { c.pins with syncOut := true } }
  else d

/-- SYNC_OUT_FALL (R64). -/
def syncOutFall (d : Dev) : Dev := d.onChip fun c => { c with pins := { c.pins with syncOut := false } }

/-- The TICKs that the module sends at threshold `m` (R385). `tx`: TX_OFFSET of each port. -/
def Dev.sendTicks (d : Dev) (m : Nat) (tx : List Nat) : Dev :=
  let c := d.chip
  let master := c.fld F.FRM_SYNC_CTL_MASTER = 1
  let locked := decide (c.frm.sync.st = .locked)
  if !(master || locked) then d
  else
    let asked := c.pair F.PCH_TICK_SNAP_LO F.PCH_TICK_SNAP_HI
    let snap :=
      if master then (if bitOf asked 63 && frameLater (asked % frameMod) m then some (asked % frameMod) else none)
      else c.frm.sync.tickSnap
    let depth := if master then 0 else (c.frm.sync.depth + 1) % 256
    let flags := b2n master + 2 * b2n locked + 4 * b2n snap.isSome
    ((List.range 6).filter fun q => c.portUp q && (c.port q).carrying).foldl (fun d q =>
      d.sendNear q { type := 0x40, tc := 3, dest := 0,
                     args := leBytes 6 ((m + c.frm.sync.offset) % frameMod) ++ leBytes 2 (tx.getD q 0) ++ leBytes 1 depth ++ leBytes 1 flags ++ [0, 0],
                     body := match snap with
                       | some x => leBytes 6 x ++ leBytes 10 0
                       | none => [] }) d

/-- PERIOD_WRITE. -/
def execPeriodWrite (r : Requester) (t len : Nat) (s : State) : Outcome State Fault Refusal := runs s (periodWrite r t len)

/-- VIEW_PIN. -/
def execViewPin (r : Requester) (s : State) : Outcome State Fault Refusal := runs s (viewPin r)

/-- VIEW_RELEASE. -/
def execViewRelease (r : Requester) (s : State) : Outcome State Fault Refusal := runs s (viewRelease r)

/-- VIEW_EXPIRED. -/
def execViewExpired (r : Requester) (s : State) : Outcome State Fault Refusal := runs s (viewExpired r)

/-- SYNC_SRC_WRITE. -/
def execSyncSrcWrite (r : Requester) (t src : Nat) (s : State) : Outcome State Fault Refusal := runs s (srcWrite r t src)

/-- SYNC_IN_EDGE: `t` ns after the running frame's threshold. -/
def execSyncInEdge (t : Nat) (s : State) : Outcome State Fault Refusal := runs s (syncInEdge t)

/-- QUARANTINE_END. -/
def execQuarantineEnd (s : State) : Outcome State Fault Refusal := runs s quarantineEnd

/-- SYNC_LOST. -/
def execSyncLost (s : State) : Outcome State Fault Refusal := runs s syncLostRow

/-- COARSE. -/
def execCoarse (r : Requester) (t : Nat) (s : State) : Outcome State Fault Refusal := runs s (coarseWrite r t)

/-- SYNC_OUT_FALL. -/
def execSyncOutFall (s : State) : Outcome State Fault Refusal := runs s syncOutFall

/-- TICK: on port `q`, `arrival` ns after the running frame's threshold. -/
def execTick (q arrival master tx depth flags snap : Nat) (s : State) : Outcome State Fault Refusal :=
  runs s (tick q arrival master tx depth flags snap)

end Sys2Proof.Machine
end

