-- ==== Sys2Proof/Machine/Heater.lean ====
section
/-! DEFINITION. Ring heaters (R245, R253, R255): the heater profile of a tile, the setpoint's three terms, the closed loop. -/

namespace Sys2Proof.Machine

/-- What a temperature band selects for a tile's ring heaters (R255): how much a step of the heater is emphasised for 1 µs, in tenths; the
loop gain and the feed-forward scale in hundredths; the track rate that the profile holds, in 0.1 GHz/µs. -/
structure HeaterProfile where
  emphasis : Nat
  gain : Nat
  scale : Nat
  track : Nat
deriving DecidableEq, Repr

/-- The profile of a band, 0 A to 3 D (R255). -/
def heaterProfile : Nat → HeaterProfile
  | 0 | 1 => ⟨10, 100, 100, 60⟩
  | 2 => ⟨15, 125, 105, 75⟩
  | _ => ⟨20, 150, 110, 90⟩

/-- The profile of the tile a ring lies in: that of its base temperature's band in force (R255). -/
def Chip.ringProfile (c : Chip) (k : Nat) : HeaterProfile := heaterProfile (c.tileBand (ringEndpoint k))

/-- The element of a ring in its tile's RING set: 18 modulators per bundle, then two rings per latch, of which the first is shown
(R495; log 122). -/
def ringElement (k : Nat) : Nat :=
  let bs := bundlesOf (ringEndpoint k)
  match ringLatch k with
  | none => (bs.findIdx fun b => b = k / 18) * 18 + k % 18
  | some (_, l) => bs.length * 18 + 2 * l

/-- Value `j` of a ring's element: heater code at 25 °C, slope in 0.01 code/K, drop ratio, feed-forward `c` in 0.001 GHz/W (R495). -/
def Chip.ringTable (c : Chip) (k j : Nat) : Int := (c.calUnit 1 (ringEndpoint k)).cur.getD (4 * ringElement k + j) 0

/-- The ring table value at the base tile's present temperature, in heater code (R245, R495). -/
def Chip.ringTableValue (c : Chip) (k : Nat) : Int :=
  c.ringTable k 0 + c.ringTable k 1 * (c.tileTemp (ringEndpoint k) - 100) / 400

/-- The feed-forward term of a ring in the running frame, in tenths of a GHz: -c times the tower's power change, scaled by the band; none
outside tower tiles (R253, R255). -/
def Chip.ringForward (c : Chip) (k : Nat) : Int :=
  if 8 ≤ ringEndpoint k then 0
  else -(c.ringTable k 3 * Tab.get 0 c.pwr.rise (ringEndpoint k) * (c.ringProfile k).scale) / 100000

/-- The heater setpoint of a ring, in heater code: the sum of its three terms (R245). A gigahertz is `Config.calStep 1` codes (R489). -/
def Chip.ringSetpoint (c : Chip) (k : Nat) : Int :=
  c.ringTableValue k + (c.ringForward k + (c.ring k).corr) * (max 1 (Config.calStep 1) : Nat) / 10

/-- How the closed loop moves a ring's correction: by the step while the ratio of drop-port current to through-port tap is above the table's
target, by its opposite while below, and not at the target (R245, R495; log 122). -/
def Chip.ringMove (c : Chip) (k drop tap : Nat) (step : Int) : Int :=
  let target := c.ringTable k 2 * (tap : Int)
  if target < 65536 * (drop : Int) then step else if 65536 * (drop : Int) < target then -step else 0

/-- The closed loop of a ring updates (R245): the correction moves at the band's gain and is limited to 12 GHz either way, in tenths of a GHz; at the limit a ring table run is asked for. The heater takes the setpoint, its steps of the last microsecond emphasised
as the band asks (R255). -/
def ringLoop (latch : Bool) (unit index drop tap : Nat) (step : Int) (d : Dev) : Dev :=
  match ringIndex latch unit index with
  | none => d
  | some k =>
    if d.chip.ringState k = 4 then d
    else
      let p := d.chip.ringProfile k
      let corr := (d.chip.ring k).corr + d.chip.ringMove k drop tap step * p.gain / 100
      let limit := decide (120 ≤ corr) || decide (corr ≤ -120)
      let d := if limit then d.calStart 1 (ringEndpoint k) else d
      let d := d.onRing k fun x => { x with corr := max (-120) (min 120 corr), retable := x.retable || limit }
      let set := d.chip.ringSetpoint k
      d.onRing k fun x =>
        let extra := (set - x.past.getD 15 (x.past.getLastD set)) * (p.emphasis - 10 : Nat) / 10
        { x with heater := ofSigned 16 (set + extra), past := (set :: x.past).take 16 }

open Host

/-- RING_LOOP_UPDATE (R245). -/
def execRingLoopUpdate (latch : Bool) (unit index drop tap : Nat) (step : Int) (s : State) : Outcome State Fault Refusal :=
  runs s (ringLoop latch unit index drop tap step)

end Sys2Proof.Machine
end

