-- ==== Sys2Proof/Machine/Status.lean ====
section
/-! DEFINITION. What the read-only fields of every register show of a copy of the chip, be it the published one, a view or
the chip itself (R55, R57, R562). -/

namespace Sys2Proof.Machine

/-- A register word from its fields: (lowest bit, width, value). -/
def fieldsOf (l : List (Nat × Nat × Nat)) : Nat := l.foldl (fun a x => setBits a x.1 x.2.1 x.2.2) 0

/-- The low word of a pair. -/
def loWord (n : Nat) : Nat := n % 2 ^ 32
/-- The high word of a pair. -/
def hiWord (n : Nat) : Nat := n / 2 ^ 32 % 2 ^ 32
/-- Set bits below `w` where a test holds. -/
def bitsWhere (w : Nat) (p : Nat → Bool) : Nat := ofBitList ((List.range w).filter p)

/-- A block's state as GLB_BSTATE and CELn_STATUS code it. -/
def BSt.code : BSt → Nat
  | .off => 0
  | .starting => 1
  | .ready => 2
  | .stopping => 3
  | .degraded => 4

/-! ## FRM, SNAP, SEQ, GLB -/

/-- The alignment state's code (R63). -/
def SyncSt.code : SyncSt → Nat
  | .off => 0
  | .acquiring => 1
  | .locked => 2
  | .lost => 3
  | .quarantined => 4
  | .holdover => 5

/-- The snapshot state's code (R72). -/
def SnapSt.code : SnapSt → Nat
  | .idle => 0
  | .armed => 1
  | .latched => 2
  | .collecting => 3
  | .done => 4
  | .stalled => 5

/-- A sequencer's state code (R530). -/
def SeqSt.code : SeqSt → Nat
  | .off => 0
  | .bist => 1
  | .active => 2
  | .standby => 3
  | .failed => 4

/-- The FRM block (R76); `pinned` and `expired` are the requester's own. -/
def roFrm (c : Chip) (pinned expired : Bool) (a : Nat) : Nat :=
  let x := c.frm.sync
  if a = 0x40004 then
    fieldsOf [(16, 12, c.slots), (8, 1, b2n (decide (c.fld F.FRM_PERIOD_LEN ≠ c.frm.active))), (1, 1, b2n expired), (0, 1, b2n pinned)]
  else if a = 0x40008 then fieldsOf [(24, 8, c.frm.active)]
  else if a = 0x40010 then loWord c.frm.cur
  else if a = 0x40014 then hiWord c.frm.cur
  else if a = 0x40018 then loWord c.frm.commit
  else if a = 0x4001C then hiWord c.frm.commit
  else if a = 0x40020 then loWord c.frm.commit
  else if a = 0x40024 then hiWord c.frm.commit
  else if a = 0x40040 then loWord x.offset
  else if a = 0x40044 then hiWord x.offset
  else if a = 0x40034 then fieldsOf [(16, 16, x.missFrames), (5, 11, x.quarLeft), (4, 1, b2n x.syncLost), (0, 3, x.st.code)]
  else if a = 0x40038 then ofSigned 16 x.phase
  else 0

/-- The SNAP block (R77). -/
def roSnap (c : Chip) (a : Nat) : Nat :=
  let x := c.snap
  if a = 0x30004 then fieldsOf [(8, 5, x.sources), (4, 1, b2n x.takeover), (3, 1, b2n x.tooSmall), (0, 3, x.st.code)]
  else if a = 0x30024 then loWord x.len
  else if a = 0x30028 then loWord x.latchFrame
  else if a = 0x3002C then hiWord x.latchFrame
  else 0

/-- The SEQ block (R530); `live` the chip in force. -/
def roSeq (live c : Chip) (a : Nat) : Nat :=
  let x := c.seq
  let ckpt := if x.bank then x.bank1 else x.bank0
  if a = 0x50000 then
    fieldsOf [(29, 3, x.a.code), (26, 3, x.b.code), (25, 1, b2n x.act), (24, 1, b2n x.standbyOk), (23, 1, b2n live.seq.lost), (0, 16, x.takeovers)]
  else if a = 0x50018 then fieldsOf [(24, 8, x.cause), (16, 8, min 255 x.lostFrames)]
  else if a = 0x50008 then loWord (ckpt.getD 0)
  else if a = 0x5000C then hiWord (ckpt.getD 0)
  else if a = 0x50010 then loWord x.lostFirst
  else if a = 0x50014 then hiWord x.lostFirst
  else if a = 0x5001C then loWord x.lostTotal
  else 0

/-- Bundles in a state that HALL_BSTATE codes (R229). -/
def Chip.bundlesIn (c : Chip) (st : Nat) : Nat := (c.hall.bundles.filter fun p => decide (p.1 < nBundles) && p.2.st = st).length

/-- HALL_STATUS.ALL_UP: every bundle is READY or DEGRADED (R229). -/
def Chip.hallUp (c : Chip) : Bool := c.bundlesIn 2 + c.bundlesIn 4 = nBundles

/-- A sequencer has passed its BIST (R506, R529). -/
def SeqSt.passed : SeqSt → Bool
  | .active => true
  | .standby => true
  | _ => false

/-- GLB_READY0 (R506). -/
def Chip.ready0 (c : Chip) : Nat :=
  fieldsOf [(22, 8, bitsWhere 8 fun t => (c.block t).up), (10, 12, bitsWhere 12 fun k => (c.block (8 + k)).up), (6, 4, bitsWhere 4 fun q => (c.block (22 + q)).up),
    (5, 1, b2n c.hallUp), (4, 1, b2n c.boot.laser), (3, 1, b2n c.seq.b.passed), (2, 1, b2n c.seq.a.passed), (1, 1, b2n c.boot.mfw), (0, 1, b2n c.boot.pcie)]

/-- GLB_READY1 (R506). -/
def Chip.ready1 (c : Chip) : Nat :=
  let ports := bitsWhere 6 fun q => (c.port q).carrying
  let dies := bitsWhere 2 fun k => (c.block (20 + k)).up
  let all := decide (c.ready0 = 2 ^ 30 - 1) && ports = 63 && dies = 3
  fieldsOf [(8, 1, b2n all), (2, 6, ports), (0, 2, dies)]

/-- The GLB block (R529). -/
def roGlb (c : Chip) (a e : Nat) : Nat :=
  if a = 0x0 then fieldsOf [(16, 16, 0x0108)]
  else if a = 0x8 then fieldsOf [(29, 3, c.boot.modCause)]
  else if a = 0x10 then c.ready0
  else if a = 0x14 then c.ready1
  else if a = 0x100 then
    let b := c.block e
    fieldsOf [(29, 3, b.st.code), (28, 1, b2n b.pendEn), (27, 1, b2n b.fail), (24, 3, b.last), (0, 16, b.resets)]
  else 0

/-! ## TOW -/

/-- The logical core of a position of a row, and its state: 0 ACTIVE, 1 SPARE, 2 FENCED, 3 RETIRED (R116); FENCED also where
the spare carries the logical core of a sound position (log 142). -/
def Chip.posShown (c : Chip) (w p : Nat) : Nat × Nat :=
  let x := c.row w
  let y : Pos := Tab.get {} c.tow.pos (w * 32 + p)
  let own := if p < x.sparePos then p else p - 1
  let logical := if p = x.sparePos then x.subLogical else own
  if x.st = 2 then (0, 3)
  else if 2 ≤ y.st then (0, y.st)
  else if p = x.sparePos then (if x.subEn then (logical, 0) else (0, 1))
  else if x.subEn && own = x.subLogical then (0, 2)
  else (logical, 0)

/-- The rows of a tower in a state (R82). -/
def Chip.rowsIn (c : Chip) (t st : Nat) : Nat := bitsWhere 16 fun r => (c.row (t * 16 + r)).st = st

/-- The TOW blocks (R116, R162, R189): tower `t`, element `e`, selected position `sel`, requester `r`; `live` the chip in
force. -/
def roTow (live c : Chip) (t e sel r a : Nat) : Nat :=
  let core := t * 512 + sel
  let k : Core := Tab.get {} c.tow.cores core
  let res : MarchRes := Tab.get {} c.tow.marchRes core
  let ecc := Tab.get 0 c.tow.eccAddr core
  if a = 0x200000 then fieldsOf [(24, 8, t), (8, 8, 17), (0, 8, 16)]
  else if a = 0x200004 then fieldsOf [(16, 16, c.rowsIn t 2), (0, 16, c.rowsIn t 1)]
  else if a = 0x200100 then
    let x := c.row (t * 16 + e)
    fieldsOf [(14, 2, x.st), (13, 1, b2n x.subEn), (9, 4, x.subLogical), (0, 5, x.sparePos)]
  else if a = 0x200204 then
    let p := c.posShown (core / 32) (core % 32)
    fieldsOf [(24, 8, c.fmaxOf core), (20, 4, p.1), (18, 2, p.2)]
  else if a = 0x200210 then fieldsOf [(24, 4, k.trapCode), (12, 12, k.trapAddr), (0, 12, k.endAddrC)]
  else if a = 0x200214 then fieldsOf [(16, 8, k.userCode), (0, 16, k.usedC)]
  else if a = 0x200300 then fieldsOf [(3, 1, b2n res.fail)]
  else if a = 0x20030C then fieldsOf [(31, 1, b2n (decide (ecc ≠ 0))), (0, 18, ecc - 1)]
  else if a = 0x2003C0 then min 2047 (c.tow.trees.filter fun x => x.tile = t).length
  else if a = 0x200330 then
    let x := live.dbg (t * 32 + r)
    fieldsOf [(4, 4, x.status), (2, 1, b2n x.busy)]
  else if a = 0x200384 then fieldsOf [(16, 16, (c.march t).failRows), (0, 3, (c.march t).st)]
  else if a = 0x200388 then fieldsOf [(31, 1, b2n res.fail), (0, 24, min (2 ^ 24 - 1) res.count)]
  else if a = 0x20038C then fieldsOf [(24, 8, res.bit), (0, 18, res.word)]
  else 0

/-! ## HALL -/

/-- FOLD in the lane policy in force on a bundle: the lowest that a loaded room with lanes on it declares (R218, R325). -/
def Chip.foldDecl (c : Chip) (b : Nat) : Nat :=
  let l := c.loadedRooms.filterMap fun r => (c.image r).bind fun i =>
    if (i.lanesOn b).isEmpty then none else some (((i.foldOvr.find? fun x => x.1 = b).map Prod.snd).getD i.foldDefault)
  l.foldl min (l.headD 0)

/-- A room runs a narrow variant (R223). -/
def Chip.narrow (c : Chip) (r : Nat) : Bool := c.loaded r && (c.room r).run.role = 0 && (c.room r).run.variant ≠ 0

/-- The roles of lines 6k to 6k+5 of a bundle (R229). -/
def Bundle.roleWord (b : Bundle) (k : Nat) : Nat :=
  fieldsOf ((List.range 6).map fun j => (5 * j, 5, b.roles.getD (6 * k + j) 0))

/-- ROLE of a line: 0 data, 1 spare, 2 retired, 3 untrained (R230). -/
def Bundle.roleCode (b : Bundle) (l : Nat) : Nat :=
  match b.roles[l]? with
  | some v => if v < 16 then 0 else if v = roleSpare then 1 else 2
  | none => if b.st = 0 then 0 else 3

/-- The frame that a copy of the chip shows: the last published, or the running one before any. -/
def Chip.shownFrame (c : Chip) : Nat := if c.frm.published then c.frm.commit else c.frm.cur

/-- The HALL block (R229, R230, R257, R258): element `e`, selected line, latch or ring `sel`. -/
def roHall (c : Chip) (e sel a : Nat) : Nat :=
  if a = 0x100000 then
    fieldsOf [(23, 9, c.bundlesIn 2), (14, 9, c.bundlesIn 4), (5, 9, c.bundlesIn 6), (0, 1, b2n c.hallUp)]
  else if a = 0x100050 then bitsWhere 16 c.narrow
  else if a = 0x100054 then bitsWhere 16 fun r => (c.room r).st = .halted && (c.room r).cause = causeRecompile
  else if a = 0x100084 then
    let b := c.bundle (sel / 18)
    let role := b.roleCode (sel % 18)
    fieldsOf [(29, 3, role), (24, 5, if role = 0 then b.roles.getD (sel % 18) 0 else 0), (16, 8, Tab.get 0 c.hall.margin sel)]
  else if a = 0x10008C then (Tab.get 0 c.hall.lineHist sel * 2 + b2n (decide (sel ∈ c.hall.lineHits))) % 65536
  else if a = 0x1000A4 then
    let x := c.latch (sel / 512) (sel % 512)
    match x.assigned with
    | some (corridor, lane) =>
      fieldsOf [(30, 1, b2n x.retired), (16, 9, corridor), (8, 5, lane), (0, 5, ((c.bundle corridor).lineOf lane).getD 31)]
    | none => fieldsOf [(31, 1, 1), (30, 1, b2n x.retired)]
  else if a = 0x101000 then
    let b := c.bundle e
    let dead := ((c.hall.folds.filter fun f => f.bundle = e).map Fold.dead).eraseDups
    let narrow := c.loadedRooms.any fun r => c.narrow r && !(((c.image r).map fun i => i.lanesOn e).getD []).isEmpty
    fieldsOf [(29, 3, b.st), (27, 2, b.spares.length), (25, 2, c.foldDecl e), (20, 5, b.live.length), (17, 3, dead.length), (16, 1, b2n narrow), (0, 16, b.epoch)]
  else if a = 0x102000 then (c.bundle e).roleWord 0
  else if a = 0x102004 then (c.bundle e).roleWord 1
  else if a = 0x102008 then (c.bundle e).roleWord 2
  else if a = 0x10200C then if (c.bundle e).roles.isEmpty then 0 else ((c.bundle e).check e).toNat
  else if a = 0x108000 then
    let x := c.src e
    fieldsOf [(29, 3, x.st), (24, 5, x.group), (16, 8, x.drive / 2), (8, 8, ofSigned 8 x.fade), (7, 1, b2n (decide (x.drive = 200))), (6, 1, b2n x.raised)]
  else if a = 0x108104 then
    let n (g : Nat) : Nat := ((dieSources g).filter fun s => (c.src s).st = 0 || (c.src s).st = 2).length
    fieldsOf [(2, 2, n 0), (0, 2, n 1)]
  else if a = 0x108108 then c.light.alert
  else if a = 0x109018 then
    min 65535 ((c.light.rings.filter fun p => decide (p.1 < 0x8000) && p.2.st = 4).length + (c.hall.latches.filter fun p => p.2.retired).length)
  else if a = 0x109004 then
    let x := c.ring sel
    fieldsOf [(29, 3, c.ringState sel), (24, 5, x.line), (22, 2, min 2 (x.recent c.shownFrame).length), (21, 1, b2n x.retable), (0, 16, x.heater)]
  else if a = 0x10900C then ofSigned 16 (c.ring sel).corr
  else 0

/-! ## CEL -/

/-- The CEL blocks (R284): stack `n`, element `e`, selected slice `sel`. -/
def roCel (c : Chip) (n e sel a : Nat) : Nat :=
  let retired := bitsWhere 64 fun k => (c.slice (n * 64 + k)).retired
  let band := ((List.range 4).map fun j => (Tab.get {} c.thm.sensors (256 + 8 * n + j)).band).foldl max 0
  if a = 0x600000 then fieldsOf [(0, 4, n)]
  else if a = 0x600004 then
    fieldsOf [(29, 3, (c.block (8 + n)).st.code), (27, 2, band), (25, 2, band - 1), (0, 7, popcount 64 retired)]
  else if a = 0x600008 then loWord retired
  else if a = 0x60000C then hiWord retired
  else if a = 0x600120 then (c.scrubber n).sum.getD e 0
  else if a = 0x600218 then min (2 ^ 24 - 1) (c.cel.valid.filter fun p => p.1 / cellarPages / 64 = n).length
  else if a = 0x600300 then min 2047 (c.tow.trees.filter fun x => x.tile = 8 + n).length
  else if a = 0x60003C then
    let x := c.slice (n * 64 + sel)
    fieldsOf [(31, 1, b2n x.retired), (16, 8, x.level), (0, 16, x.ovf)]
  else if a = 0x600118 then (c.scrubber n).st
  else if a = 0x600200 then fieldsOf [(4, 2, Tab.get 0 c.cel.inval n)]
  else 0

/-! ## ROOM, QUE, BIT -/

/-- A room's state code (R289). -/
def RoomSt.code : RoomSt → Nat
  | .empty => 0
  | .starting => 1
  | .running => 2
  | .halted => 3
  | .resetting => 4

/-- ROOMn_STATUS (R312). -/
def Chip.roomStatus (c : Chip) (r : Nat) : Nat :=
  let x := c.room r
  let degraded := ((c.image r).map fun i => i.rows.any fun w => (c.row w).st = 1).getD false
  let at' := if x.transit then x.target else (x.run.slot, x.run.phase)
  fieldsOf [(29, 3, x.st.code), (26, 3, x.cause), (25, 1, b2n degraded), (24, 1, b2n x.transit), (23, 1, b2n (c.narrow r)), (10, 6, at'.1), (6, 4, at'.2)]

/-- The ROOM blocks (R312): room `r`, element `e`. -/
def roRoom (c : Chip) (r e a : Nat) : Nat :=
  let x := c.room r
  let i := (c.image r).getD {}
  let filled := ofBitList (i.slots.map SlotE.slot)
  if a = 0xC00000 then c.roomStatus r
  else if a = 0xC0000C then
    let left := if x.transit then min 65535 (c.progLen r - x.run.step) else 0
    fieldsOf [(16, 16, left), (4, 4, x.swReason), (0, 3, x.swSt)]
  else if a = 0xC00020 then fieldsOf [(24, 8, x.lastCause), (0, 16, x.resets)]
  else if a = 0xC00010 then loWord x.resident
  else if a = 0xC00014 then hiWord x.resident
  else if a = 0xC00018 then loWord filled
  else if a = 0xC0001C then hiWord filled
  else if a = 0xC00030 then loWord x.stateFrame
  else if a = 0xC00034 then hiWord x.stateFrame
  else if a = 0xC00100 then bitsWhere 16 fun w => decide (e * 16 + w ∈ i.rows)
  else if a = 0xC00200 then bitsWhere 32 fun k => decide (32 * e + k ∈ i.slices)
  else 0

/-- The QUE block (R314): selected queue `q`. -/
def roQue (c : Chip) (q a : Nat) : Nat :=
  let x := c.queue q
  if a = 0xA00000 then c.freeCells
  else if a = 0xA00104 then
    match c.queueDecl q with
    | some (r, e) => fieldsOf [(28, 3, e.kind), (24, 4, r), (18, 6, e.slot), (0, 16, if e.maxPkt = maxPacket then 0xFFFF else e.maxPkt)]
    | none => 0
  else if a = 0xA00124 then x.cells
  else if a = 0xA00128 then x.pkts.length
  else if a = 0xA0012C then loWord x.gapCount
  else if a = 0xA00130 then loWord x.gapFrame
  else if a = 0xA00134 then hiWord x.gapFrame
  else if a = 0xA00140 then loWord x.seq
  else 0

/-- The load engine's state code (R348). -/
def EngSt.code : EngSt → Nat
  | .idle => 0
  | .reading => 1
  | .validating => 2
  | .accepted => 3

/-- The BIT block (R348): element `e`, requester `r`; `live` the chip in force. -/
def roBit (live c : Chip) (e r a : Nat) : Nat :=
  let x : LoadRes := Tab.get {} c.bit.res r
  let m := (c.room e).cur
  if a = 0xD00028 then loWord x.failStep
  else if a = 0xD0002C then loWord x.failOffset
  else if a = 0xD00030 then loWord x.id
  else if a = 0xD00034 then hiWord x.id
  else if a = 0xD00020 then
    fieldsOf [(16, 16, live.bit.progress), (8, 5, (live.bit.load.map Load.owner).getD 0), (0, 3, live.bit.eng.code)]
  else if a = 0xD00024 then fieldsOf [(24, 8, x.status), (16, 3, x.st), (0, 16, x.failSection)]
  else if a = 0xD00040 then fieldsOf [(16, 16, c.bit.used), (0, 16, 0x4000)]
  else match m with
    | none => 0
    | some m =>
      if a = 0xD00100 then loWord (m.src / 64 * 64) + m.srcKind % 4
      else if a = 0xD00104 then hiWord m.src
      else if a = 0xD00108 then m.len / 64 * 64 % 2 ^ 31
      else if a = 0xD0010C then fieldsOf [(31, 1, b2n (c.room e).lost), (4, 5, m.fn)]
      else 0

/-! ## PCH -/

/-- The PCH blocks (R390, R417): die `n`, element `e`, selected key `sel`. -/
def roPch (c : Chip) (n e sel a : Nat) : Nat :=
  let p := c.port (3 * n + e)
  if a = 0x800000 then fieldsOf [(0, 1, n)]
  else if a = 0x800010 then loWord c.jil.epoch
  else if a = 0x800014 then c.jil.breaks.getD 0 0
  else if a = 0x800018 then c.jil.breaks.getD 1 0
  else if a = 0x80001C then c.jil.breaks.getD 2 0
  else if a = 0x800040 then min 4095 (c.pairsOn n).length
  else if a = 0x800104 then fieldsOf [(29, 3, p.st), (25, 4, p.cause), (0, 12, p.neighbour)]
  else if a = 0x800108 then fieldsOf [(16, 16, p.retired), (0, 16, p.live)]
  else if a = 0x80010C then p.delay % 65536
  else if a = 0x801214 then Tab.get 0 c.jil.keyVer sel % 65536
  else if a = 0x801300 then min 32767 ((c.psbUsed n + 1023) / 1024)
  else 0

/-! ## ERR -/

/-- The interrupt registers of the blocks that signal on PF vector 0, by bit of ERR_SUMMARY: (bit, status, enable). -/
def vector0 : List (Nat × Nat × Nat) :=
  [(0, 0x20000, 0x20004), (1, 0x100040, 0x100044), (1, 0x108110, 0x108114), (2, 0xA00010, 0xA00014), (3, 0xD00048, 0xD0004C),
   (4, 0x800030, 0x800034), (5, 0x900030, 0x900034), (6, 0x10060, 0x10064), (7, 0x20, 0x24), (20, 0x80020, 0x80024)]
  ++ (List.range 12).map fun n => (8 + n, 0x600050 + 0x20000 * n, 0x600054 + 0x20000 * n)

/-- A published status register has an enabled bit set. -/
def intOn (c : Chip) (ev : Tab Word) (status enable : Nat) : Bool := (Tab.get 0 ev status &&& c.reg enable) ≠ 0

/-- The ERR block (R444): element `e`, selected channel `sel`; `ev` the published events. -/
def roErr (c : Chip) (ev : Tab Word) (e sel a : Nat) : Nat :=
  if a = 0x20008 then ofBitList ((vector0.filter fun x => intOn c ev x.2.1 x.2.2).map fun x => x.1)
  else if a = 0x20104 then fieldsOf [(24, 5, c.hits (e + 1)), (16, 4, c.consec (e + 1))]
  else if a = 0x20184 then
    let x : Chan := Tab.get {} c.integ.chans sel
    fieldsOf [(31, 1, b2n x.perm), (24, 4, min 15 x.run), (0, 16, x.hist)]
  else if a = 0x20304 then fieldsOf [(16, 8, c.integ.xRows), (0, 16, c.integ.xRound)]
  else if a = 0x20618 then fieldsOf [(16, 16, c.integ.injShown.2), (0, 3, c.integ.injShown.1)]
  else if a = 0x20010 then loWord c.integ.prod
  else if a = 0x20404 then loWord (Tab.get 0 c.integ.ovfFrame e)
  else if a = 0x20408 then hiWord (Tab.get 0 c.integ.ovfFrame e)
  else if a = 0x28000 then leField (Tab.get [] c.integ.entries (e / 8)) (4 * (e % 8)) 4
  else 0

/-! ## PWR, THM, CAL -/

/-- The PWR block (R469): element `e`; `live` the chip in force. -/
def roPwr (live c : Chip) (e a : Nat) : Nat :=
  let p := c.pwr
  let x := c.account e
  if a = 0x60000 then
    fieldsOf [(30, 2, c.limitSrc), (27, 3, p.idleK), (26, 1, b2n p.capUn), (25, 1, b2n (decide (c.loadedRooms ≠ []) && c.atFloor)), (24, 1, b2n p.lifeInvalid), (0, 16, p.input / 1000)]
  else if a = 0x60014 then
    let g := ((List.range 8).map c.guard).foldl max 0
    fieldsOf [(31, 1, b2n (live.pwr.refclkOk)), (30, 1, b2n p.holdover), (29, 1, b2n p.relocking), (0, 8, g)]
  else if a = 0x6001C then fieldsOf [(16, 16, p.ledger.length)]
  else if a = 0x60040 then
    let t : TowPow := Tab.get {} p.towers e
    fieldsOf [(16, 16, t.power), (8, 8, t.ballast)]
  else if a = 0x60100 then
    let w : RowClk := Tab.get {} p.rows e
    fieldsOf [(24, 8, w.freq), (16, 8, c.fmaxRow e), (8, 8, c.freqReq e), (0, 8, min 255 w.loss)]
  else if a = 0x60008 then c.limit
  else if a = 0x6000C then fieldsOf [(16, 16, p.floor7), (0, 16, p.floor0)]
  else if a = 0x60038 then loWord (p.energy / 1000)
  else if a = 0x6003C then hiWord (p.energy / 1000)
  else if a = 0x60060 then loWord c.lifeEnergy
  else if a = 0x60064 then hiWord c.lifeEnergy
  else if a = 0x60400 then loWord (x.total / 1000)
  else if a = 0x60404 then hiWord (x.total / 1000)
  else if a = 0x60408 then loWord (x.job / 1000)
  else if a = 0x6040C then hiWord (x.job / 1000)
  else if a = 0x60410 then loWord (x.last / 1000)
  else if a = 0x60414 then hiWord (x.last / 1000)
  else if a = 0x60418 then loWord x.jobFrames
  else if a = 0x6041C then fieldsOf [(16, 16, x.alloc)]
  else 0

/-- The die sensor with the highest effective temperature (R484). -/
def Chip.hottest (c : Chip) : Option (Nat × Int) :=
  (sensorList.filter fun k => k < 364).foldl (fun b k => match b, c.eff k with
    | some x, some t => if x.2 < t then some (k, t) else some x
    | none, some t => some (k, t)
    | b, none => b) none

/-- The THM block (R484): element `e`, selected sensor `sel`. -/
def roThm (c : Chip) (e sel a : Nat) : Nat :=
  let t := c.thm
  let ep (k : Nat) : Episode := Tab.get {} t.episodes k
  let ceil (x : Episode) : Nat := fieldsOf [(31, 1, b2n x.active), (16, 15, x.pref), (0, 16, x.ceil)]
  let some' (n : Nat) : Bool := sensorList.any fun k => (c.sensor k).st = n
  if a = 0x70000 then
    fieldsOf [(31, 1, b2n t.tripped), (30, 1, b2n (ep 8).active), (29, 1, b2n (some' 1)), (28, 1, b2n (some' 2)), (27, 1, b2n t.cool.hot),
      (26, 1, b2n t.cool.reversed), (25, 1, b2n t.cool.lowFlow), (0, 8, bitsWhere 8 fun k => (ep k).active)]
  else if a = 0x70014 then
    let x := c.sensor sel
    fieldsOf [(30, 2, x.st), (28, 2, if sel < 364 then x.band else 0), (0, 16, ofSigned 16 x.value)]
  else if a = 0x70018 then
    fieldsOf [(16, 16, if buried sel then ofSigned 16 (c.sensor sel).est else 0), (0, 16, ofSigned 16 ((c.eff sel).getD 0))]
  else if a = 0x70024 then ceil (ep 8)
  else if a = 0x70040 then ceil (ep e)
  else if a = 0x70030 then fieldsOf [(31, 1, b2n t.tripValid), (16, 9, t.tripSensor), (0, 16, ofSigned 16 t.tripTemp)]
  else if a = 0x70020 then
    match c.hottest with
    | some (k, v) => fieldsOf [(16, 9, k), (0, 16, ofSigned 16 v)]
    | none => 0
  else if a = 0x70028 then fieldsOf [(16, 16, ofSigned 16 t.cool.inlet), (0, 16, ofSigned 16 t.cool.outlet)]
  else if a = 0x7002C then fieldsOf [(16, 16, t.cool.flow), (0, 16, t.cool.rating)]
  else if a = 0x70034 then loWord t.tripFrame
  else if a = 0x70038 then hiWord t.tripFrame
  else if a = 0x7003C then loWord t.trips
  else 0

/-- CAL_STATUS (R504). -/
def Chip.calStatus (c : Chip) : Nat :=
  let some' (p : CalUnit → Bool) (k : Nat) : Bool := c.cal.units.any fun u => u.1 / 64 = k + 1 && p u.2
  fieldsOf [(16, 8, bitsWhere 8 (some' fun u => u.goal.isSome)), (8, 8, bitsWhere 8 (some' CalUnit.running)), (2, 1, b2n c.cal.retireFull),
    (1, 1, b2n (!c.cal.retry.isEmpty)), (0, 1, b2n c.cal.fallback)]

/-- The CAL block (R504): element `e`, the selected unit or entry `sel`. -/
def roCal (c : Chip) (e sel a : Nat) : Nat :=
  let u : CalUnit := Tab.get {} c.cal.units sel
  if a = 0x80010 then c.calStatus
  else if a = 0x80044 then fieldsOf [(31, 1, b2n u.valid), (26, 2, u.source), (16, 10, min 1023 u.rejects), (0, 16, ofSigned 16 u.temp)]
  else if a = 0x80048 then loWord u.frame
  else if a = 0x8004C then hiWord u.frame
  else if a = 0x80050 then fieldsOf [(16, 16, min 65535 c.cal.steered), (0, 16, min 65535 c.cal.bondsRetired)]
  else if a = 0x80054 then fieldsOf [(16, 16, 0x4000), (0, 16, c.cal.retire.length)]
  else if a = 0x80060 then leField ((c.cal.retire[sel]?.map RetireE.bytes).getD []) (4 * e) 4
  else 0

/-! ## SEC -/

/-- The serial number's 16 characters (R557; log 1). -/
def SecFlash.serial16 (f : SecFlash) : List Byte := padTo 16 0 f.serial

/-- The SEC block (R557): element `e`; `f` the flash. -/
def roSec (f : SecFlash) (c : Chip) (e a : Nat) : Nat :=
  let x := c.sec
  if a = 0x10000 then leField f.serial16 (4 * e) 4
  else if a = 0x10010 then fieldsOf [(16, 16, x.version), (0, 16, x.svn)]
  else if a = 0x10020 then
    match x.owner with
    | some k => leField (keyId k) (4 * e) 4
    | none => 0
  else if a = 0x10030 then loWord x.nonce
  else if a = 0x10034 then hiWord x.nonce
  else if a = 0x10014 then
    fieldsOf [(16, 16, x.minSvn), (5, 1, b2n c.boot.recovery), (4, 1, b2n x.fallback), (3, 1, b2n x.bValid), (2, 1, b2n x.aValid),
      (1, 1, b2n x.pref), (0, 1, b2n x.runB)]
  else if a = 0x1001C then b2n x.owner.isSome
  else if a = 0x10038 then fieldsOf [(31, 1, b2n x.noCounter), (0, 21, 2 ^ 20 - x.leaf)]
  else if a = 0x10050 then fieldsOf [(4, 4, x.insecure), (0, 4, x.secure)]
  else 0

/-! ## A register's read-only fields -/

/-- The read-only fields of the register at address `a` of its block's first instance and element, for instance `i`,
element `e`, selected element `sel` and requester `r`, in copy `c` (R55). -/
def Dev.roWord (d : Dev) (c : Chip) (a i e sel r : Nat) : Nat :=
  let live := d.chip
  if a < 0x10000 then
    (if a = 0x10 ∧ !live.frm.begun then live.ready0 else if a = 0x8 ∧ !live.frm.begun then roGlb live a e else roGlb c a e)
  else if a < 0x20000 then roSec d.flash c e a
  else if a < 0x30000 then roErr c (((d.views.find? fun v => v.1 = r).map fun v => v.2.ev).getD d.pubEv) e sel a
  else if a < 0x40000 then roSnap c a
  else if a < 0x50000 then
    roFrm (if a = 0x40010 ∨ a = 0x40014 then live else c) (d.views.any fun v => v.1 = r) (decide (r ∈ d.expired)) a
  else if a < 0x60000 then roSeq live c a
  else if a < 0x70000 then roPwr live c e a
  else if a < 0x80000 then roThm c e sel a
  else if a < 0x90000 then roCal c e sel a
  else if a < 0x200000 then roHall c e sel a
  else if a < 0x600000 then roTow live c i e sel r a
  else if a < 0x800000 then roCel c i e sel a
  else if a < 0xA00000 then roPch c i e sel a
  else if a < 0xC00000 then roQue c sel a
  else if a < 0xD00000 then roRoom c i e a
  else roBit live c e r a

end Sys2Proof.Machine
end

