-- ==== Sys2Proof/Machine/Snap.lean ====
section
/-! DEFINITION. Snapshots (R69 to R75): the controller, the record and every block's section (R118, R189, R231, R285, R313,
R316, R391, R418, R445, R470, R485, R505, R531). -/

namespace Sys2Proof.Machine

open Host

/-! ## What the sections hold -/

/-- What was counted since module reset in a field of an instance, over every element and selected element. -/
def Dev.totalOf (d : Dev) (f : Fld) (i : Nat := 0) : Nat :=
  ((d.tot.filter fun p =>
    p.1 % 32 = f.lo && (let a := p.1 / 32 % 2 ^ 26
      if f.est = 0 then a = f.addrOf i 0 else decide (f.addrOf i 0 ≤ a) && decide ((a - f.addrOf i 0) % f.est = 0) && decide (a < f.addrOf i 0 + 512 * f.est))).map
    Prod.snd).foldl (· + ·) 0

/-- Four bytes of a saturating count. -/
def cnt4 (n : Nat) : List Byte := leBytes 4 (min n (2 ^ 32 - 1))
/-- Eight bytes of a saturating count. -/
def cnt8 (n : Nat) : List Byte := leBytes 8 (min n (2 ^ 64 - 1))
/-- `n` zero bytes. -/
def pad0 (n : Nat) : List Byte := leBytes n 0

/-- GLB (R531). -/
def Dev.snapGlb (d : Dev) : List Byte :=
  let c := d.pub
  leBytes 4 c.ready0 ++ leBytes 4 c.ready1 ++ leBytes 4 (roGlb c 0x8 0 + (c.reg 0x8).toNat % 2 ^ 29) ++ leBytes 4 (c.reg 0x18).toNat
    ++ cnt4 c.boot.blockResets ++ cnt4 c.boot.startFails ++ pad0 8

/-- ERR (R445). -/
def Dev.snapErr (d : Dev) : List Byte :=
  let i := d.pub.integ
  leBytes 4 i.prod ++ leBytes 4 i.cons ++ cnt4 (d.totalOf F.ERR_LOG_LOST) ++ cnt4 i.permanents ++ cnt4 i.contained ++ cnt4 i.shells
    ++ cnt4 i.xchecks ++ cnt4 i.outbounds ++ cnt4 i.injected ++ pad0 12

/-- FRM (R75). -/
def Dev.snapFrm (d : Dev) : List Byte :=
  let c := d.pub
  let x := c.frm.sync
  leBytes 8 c.frm.commit ++ leBytes 4 (c.frm.active * 128) ++ leBytes 2 (ofSigned 16 x.phase) ++ leBytes 1 x.st.code ++ leBytes 1 (b2n x.syncLost)
    ++ cnt4 (d.totalOf F.FRM_SYNC_COUNT_EXTRA) ++ cnt4 (d.totalOf F.FRM_SYNC_COUNT_OUT_WINDOW) ++ leBytes 4 x.missFrames ++ pad0 4

/-- SEQ (R531). -/
def Dev.snapSeq (d : Dev) : List Byte :=
  let g (a : Nat) : List Byte := leBytes 4 (roSeq d.pub d.pub a)
  g 0x50000 ++ g 0x50018 ++ g 0x50008 ++ g 0x5000C ++ g 0x50010 ++ g 0x50014 ++ g 0x5001C ++ pad0 4

/-- PWR (R470). -/
def Dev.snapPwr (d : Dev) : List Byte :=
  let c := d.pub
  let g (a : Nat) : List Byte := leBytes 4 (roPwr c c 0 a)
  g 0x60000 ++ g 0x60008 ++ cnt8 (c.pwr.energy / 1000) ++ cnt4 (d.totalOf F.PWR_IDLE_FRAMES) ++ cnt4 (d.totalOf F.PWR_SLEW_HOLDS) ++ cnt4 (d.totalOf F.PWR_SLIPS)
    ++ cnt4 (d.totalOf F.PWR_REFCLK_LOSSES) ++ g 0x60014 ++ cnt4 c.pwr.capFrames ++ pad0 24
    ++ (List.range 16).flatMap fun r => leBytes 8 ((c.account r).total / 1000)

/-- The highest effective temperature of a compute die's sensors (R485). -/
def Chip.towerEff (c : Chip) (t : Nat) : Int := (maxInt ((List.range 16).filterMap fun j => c.eff (32 * t + j))).getD 0

/-- THM (R485). -/
def Dev.snapThm (d : Dev) : List Byte :=
  let c := d.pub
  let g (a e : Nat) : List Byte := leBytes 4 (roThm c e 0 a)
  let n (st : Nat) : Nat := (sensorList.filter fun k => (c.sensor k).st = st).length
  g 0x70000 0 ++ g 0x70020 0 ++ g 0x70024 0 ++ g 0x70028 0 ++ g 0x7002C 0 ++ g 0x7003C 0 ++ cnt4 (d.totalOf F.THM_THROTTLE_FRAMES)
    ++ leBytes 2 (n 1) ++ leBytes 2 (n 2) ++ ((List.range 8).flatMap fun t => g 0x70040 t)
    ++ ((List.range 8).flatMap fun t => leBytes 2 (ofSigned 16 (c.towerEff t))) ++ pad0 8

/-- CAL (R505). -/
def Dev.snapCal (d : Dev) : List Byte :=
  let c := d.pub
  leBytes 4 c.calStatus ++ cnt4 (d.totalOf F.CAL_RUNS) ++ cnt4 (d.totalOf F.CAL_REJECTS) ++ cnt4 (d.totalOf F.CAL_IDLE_INSERTED)
    ++ cnt4 (d.totalOf F.CAL_ADAPTS) ++ leBytes 4 (roCal c 0 0 0x80050) ++ leBytes 2 c.cal.retire.length ++ pad0 6

/-- HALL (R231). -/
def Dev.snapHall (d : Dev) : List Byte :=
  let c := d.pub
  let g (a e : Nat) : Nat := roHall c e 0 a
  leBytes 4 (g 0x100000 0) ++ pad0 4 ++ cnt8 (d.totalOf F.HALL_REJECTS) ++ cnt8 (d.totalOf F.HALL_REPLAYS) ++ cnt8 (d.totalOf F.HALL_REPLAY_LOST)
    ++ cnt8 (d.totalOf F.HALL_FOLDED) ++ cnt4 (d.totalOf F.HALL_HDR_ERR) ++ cnt4 c.hall.mismatches ++ cnt4 c.hall.retiredLines
    ++ leBytes 2 (g 0x100050 0) ++ leBytes 2 (g 0x100054 0) ++ ((List.range nBundles).flatMap fun b => leBytes 4 (g 0x101000 b)) ++ pad0 4

/-- TOWn (R118, R189). -/
def Dev.snapTow (d : Dev) (t : Nat) : List Byte :=
  let c := d.pub
  let g (f : Fld) : List Byte := cnt4 (d.totalOf f t)
  let m := c.march t
  leBytes 2 (c.rowsIn t 1) ++ leBytes 2 (c.rowsIn t 2) ++ pad0 4 ++ ((List.range 16).flatMap fun r => leBytes 4 (roTow c c t r 0 0 0x200100))
    ++ g F.TOW_TRUNC_COUNT ++ cnt4 (d.totalOf F.TOW_SPEC_COUNT t + Tab.get 0 c.tow.specs t) ++ g F.TOW_SAT_COUNT ++ pad0 4
    ++ g F.TOW_PAN_CORR ++ g F.TOW_PAN_UNCORR
    ++ g F.TOW_PAN_CONFLICT_MAT ++ g F.TOW_PAN_CONFLICT_VEC ++ g F.TOW_PAN_CONFLICT_HRX ++ g F.TOW_PAN_CONFLICT_HTX ++ g F.TOW_PAN_CONFLICT_DBG
    ++ g F.TOW_PAN_COLLIDE ++ g F.TOW_PAN_TXLATE ++ g F.TOW_SOA_SAT ++ g F.TOW_SOA_HUSK
    ++ leBytes 2 m.failRows ++ leBytes 1 m.st ++ pad0 1 ++ g F.TOW_SOA_HWM ++ pad0 4

/-- CELn (R285). -/
def Dev.snapCel (d : Dev) (n : Nat) : List Byte :=
  let c := d.pub
  let g (a : Nat) : List Byte := leBytes 4 (roCel c n 0 0 a)
  let t (f : Fld) : Nat := d.totalOf f n
  let w1c (a : Nat) : Nat := (Tab.get 0 d.pubEv (a + 0x20000 * n)).toNat
  g 0x600004 ++ g 0x600218 ++ g 0x600008 ++ g 0x60000C ++ leBytes 4 (w1c 0x600010) ++ leBytes 4 (w1c 0x600014) ++ cnt8 (t F.CEL_SLICE_CORR)
    ++ cnt4 (t F.CEL_SLICE_UNCORR) ++ cnt4 (t F.CEL_TXLATE) ++ cnt4 (t F.CEL_SOA_SAT) ++ cnt4 (t F.CEL_SOA_HUSK)
    ++ leBytes 4 (roCel c n 0 0 0x600118 ||| w1c 0x600118) ++ cnt4 (t F.CEL_REQ_BUSY) ++ pad0 8

/-- PCHn (R391, R418). -/
def Dev.snapPch (d : Dev) (n : Nat) : List Byte :=
  let c := d.pub
  let g (a e : Nat) : List Byte := leBytes 4 (roPch c n e 0 a)
  let t (f : Fld) : Nat := d.totalOf f n
  ((List.range 3).flatMap fun e => g 0x800104 e) ++ ((List.range 3).flatMap fun e => g 0x800108 e) ++ g 0x800010 0
    ++ cnt4 (t F.PCH_RETX) ++ cnt4 (t F.PCH_WIN_FAILED) ++ cnt4 (t F.PCH_INJ_DROP) ++ cnt4 (t F.PCH_MSG_DENY)
    ++ cnt4 (t F.PCH_UNREACH + t F.PCH_DEAD_LINK_DROP)
    ++ ((List.range 3).flatMap fun e => cnt4 (d.total F.PCH_PORT_REPLAYS n e)) ++ pad0 4
    ++ g 0x801300 0 ++ cnt4 (t F.PCH_PSB_HWM) ++ cnt8 (t F.PCH_TGT_DONE) ++ cnt4 (t F.PCH_TGT_REFUSED) ++ cnt4 (t F.PCH_TGT_TIMEOUT)
    ++ cnt4 (t F.PCH_PSB_EXPIRED) ++ cnt4 (t F.PCH_PSB_RETRACTED) ++ cnt4 (t F.PCH_OP_LOST) ++ cnt4 (t F.PCH_FENCE_ROUTE) ++ pad0 8

/-- QUE (R316). -/
def Dev.snapQue (d : Dev) : List Byte :=
  let c := d.pub
  leBytes 4 c.freeCells ++ leBytes 4 (min poolCells (2 ^ 18 - 1 - d.total F.QUE_POOL_LOW)) ++ cnt8 c.que.committed ++ cnt8 (d.totalOf F.QUE_Q_DROPS)
    ++ cnt8 (d.totalOf F.QUE_Q_REWOUND) ++ cnt4 c.que.markers ++ cnt4 (d.total F.QUE_BAD_DOORBELL) ++ pad0 8

/-- ROOMn (R313). -/
def Dev.snapRoom (d : Dev) (r : Nat) : List Byte :=
  let c := d.pub
  let g (a : Nat) : List Byte := leBytes 4 (roRoom c r 0 a)
  g 0xC00000 ++ g 0xC0000C ++ g 0xC00010 ++ g 0xC00014 ++ g 0xC00020 ++ cnt4 (d.total F.ROOM_SWITCHES r) ++ leBytes 8 (c.room r).stateFrame ++ pad0 8

/-! ## The record -/

/-- A block supplies its section (R71): it is neither OFF nor in reset, which STARTING is, and STOPPING once its scope is reset. -/
def Chip.present (c : Chip) (k : Nat) : Bool := (c.block k).up || ((c.block k).st = .stopping && (c.block k).drain)

/-- A section (R74): its payload, or ABSENT. -/
def snapSection (id inst : Nat) (body : Option (List Byte)) : List Byte :=
  leBytes 1 id ++ leBytes 1 inst ++ leBytes 2 (if body.isSome then 0 else 1) ++ leBytes 4 (body.getD []).length ++ leBytes 2 1 ++ pad0 6 ++ body.getD []

/-- The sections of the published frame, by block ID and then instance (R73, R74). -/
def Dev.snapSections (d : Dev) : List (List Byte) :=
  let c := d.pub
  let blockOf (id n k : Nat) (f : Nat → List Byte) : List Byte := snapSection id n (if c.present k then some (f n) else none)
  [snapSection 1 0 (some d.snapGlb), snapSection 2 0 (some d.snapErr), snapSection 3 0 (some d.snapFrm), snapSection 4 0 (some d.snapSeq),
   snapSection 5 0 (some d.snapPwr), snapSection 6 0 (some d.snapThm), snapSection 7 0 (some d.snapCal), snapSection 8 0 (some d.snapHall)]
  ++ ((List.range 8).map fun n => blockOf 9 n n d.snapTow)
  ++ ((List.range 12).map fun n => blockOf 10 n (8 + n) d.snapCel)
  ++ ((List.range 2).map fun n => blockOf 11 n (20 + n) d.snapPch)
  ++ [snapSection 12 0 (some d.snapQue)]
  ++ (List.range 16).map fun n => snapSection 13 n (some (d.snapRoom n))

/-- The record (R73), with the trigger sources, the trigger frame, the error class and the TAKEOVER flag. -/
def Dev.snapRecord (d : Dev) (sources trigger errClass : Nat) (takeover : Bool) : List Byte :=
  let ss := d.snapSections
  let body := ss.flatMap id
  let c := d.pub
  let flags := b2n takeover + 2 * b2n c.seq.act + 4 * b2n (decide (c.frm.sync.st = .locked))
  let head (crc : Nat) : List Byte :=
    [0x5A, 0x53, 0x4E, 0x50] ++ leBytes 2 1 ++ leBytes 2 64 ++ leBytes 4 (64 + body.length) ++ leBytes 2 ss.length ++ leBytes 1 sources ++ leBytes 1 flags
      ++ leBytes 8 c.frm.commit ++ leBytes 8 trigger ++ leBytes 8 c.frm.sync.offset ++ leBytes 2 errClass ++ leBytes 2 0 ++ leBytes 4 crc ++ pad0 16
  head (crc32c (head 0 ++ body)).toNat ++ body

/-! ## The controller -/

/-- Change the snapshot controller. -/
def Dev.onSnap (d : Dev) (f : Snap → Snap) : Dev := d.onChip fun c => { c with snap := f c.snap }

/-- The buffer in force holds the record (R72). -/
def Chip.snapFits (c : Chip) : Bool := decide (c.snap.len ≤ (c.reg F.SNAP_DEST_SIZE.addr).toNat)

/-- The DMA of the record begins, or stalls for want of room (R72). -/
def Dev.collect (d : Dev) : Dev :=
  if d.chip.snapFits then
    (d.onSnap fun x => { x with st := .collecting, tooSmall := false }).emit
      (.dmaWrite 0 (d.chip.pair F.SNAP_DEST_LO F.SNAP_DEST_HI) (d.latched.getD []))
  else d.onSnap fun x => { x with st := .stalled, tooSmall := true }

/-- At a threshold that commits a frame, a trigger that fired while armed latches every block (R70, R71). The state just
published is what the blocks latch; TAKEOVER says that it is a later frame than the first trigger's (log 139). -/
def Dev.snapLatch (d : Dev) : Dev :=
  let x := d.chip.snap
  if x.st ≠ .armed ∨ x.fired = 0 ∨ d.chip.boot.warm then d
  else
    let late := decide (x.firstFrame ≠ d.pub.frm.commit)
    let rec' := d.snapRecord x.fired x.firstFrame x.errClass late
    let d := { d with latched := some rec' }
    let d := d.onSnap fun x => { x with
      st := .latched
      sources := x.fired
      takeover := late
      len := rec'.length
      latchFrame := d.pub.frm.commit
      fired := 0
      errClass := 0xFFFF }
    d.collect

/-- The triggers that frame `m` fires as it begins: MATCH and TICK (R69). -/
def Dev.snapBegin (d : Dev) (m : Nat) : Dev :=
  let d := if d.chip.pair F.SNAP_MATCH_LO F.SNAP_MATCH_HI = m then d.fire 1 else d
  match d.chip.snap.tick with
  | some x => if (m + d.chip.frm.sync.offset) % frameMod = x then (d.onSnap fun y => { y with tick := none }).fire 3 else d
  | none => d

/-- The latched copies are released. -/
def Dev.snapRelease (d : Dev) : Dev := { d with latched := none }

/-- ARM takes effect (R72). -/
def snapArm (d : Dev) : Dev :=
  if d.chip.boot.warm then d
  else match d.chip.snap.st with
    | .idle => d.onSnap fun x => { x with st := .armed }
    | .armed => d
    | .latched => d.onSnap fun x => { x with pendArm := true }
    | .collecting => d.onSnap fun x => { x with pendArm := true }
    | .done => d.snapRelease.onSnap fun x => { x with st := .armed, tooSmall := false, pendArm := false }
    | .stalled => d.snapRelease.onSnap fun x => { x with st := .armed, tooSmall := false, pendArm := false }

/-- DISARM takes effect (R72). -/
def snapDisarm (d : Dev) : Dev :=
  if d.chip.boot.warm then d
  else match d.chip.snap.st with
    | .idle => d
    | .armed => d.onSnap fun x => { x with st := .idle, fired := 0, errClass := 0xFFFF }
    | .latched => d.onSnap fun x => { x with pendArm := false }
    | .collecting => d.onSnap fun x => { x with pendArm := false }
    | .done => d.snapRelease.onSnap fun x => { x with st := .idle, pendArm := false }
    | .stalled => d.snapRelease.onSnap fun x => { x with st := .idle, tooSmall := false, pendArm := false }

/-- COLLECT takes effect (R72): from STALLED with a buffer that is large enough. -/
def snapCollect (d : Dev) : Dev :=
  if d.chip.snap.st = .stalled ∧ d.chip.snapFits ∧ !d.chip.boot.warm then d.collect else d

/-- What a staged write of SNAP_CTL does when it takes effect. -/
def effectSnap (value : Nat) (d : Dev) : Dev :=
  let d := if bitOf value 1 then snapDisarm d else d
  let d := if bitOf value 0 then snapArm d else d
  if bitOf value 3 then snapCollect d else d

/-- SNAP_TRIGGER (R69): TRIGGER acts at once. -/
def snapTrigger (r : Requester) (d : Dev) : Dev := if isPf r then d.fire 0 else d

/-- SNAP_COLLECT (R72): COLLECT is staged. -/
def collectWrite (r : Requester) (t : Nat) (d : Dev) : Dev :=
  if isPf r && !d.chip.boot.warm then d.stageFld r t F.SNAP_CTL_COLLECT 1 else d

/-- SNAP_RECORD_WRITTEN (R72, R542): a DMA that fails leaves the controller STALLED with TOO_SMALL clear. -/
def recordWritten (ok : Bool) (d : Dev) : Dev :=
  if d.chip.snap.st ≠ .collecting ∨ d.chip.boot.warm then d
  else if !ok then d.onSnap fun x => { x with st := .stalled, tooSmall := false }
  else
    let d := d.msixReq 0 3
    if d.chip.snap.pendArm then d.snapRelease.onSnap fun x => { x with st := .armed, pendArm := false }
    else d.onSnap fun x => { x with st := .done }

/-- SNAP_TRIGGER. -/
def execSnapTrigger (r : Requester) (s : State) : Outcome State Fault Refusal := runsM s (snapTrigger r)

/-- SNAP_IN_EDGE. -/
def execSnapInEdge (s : State) : Outcome State Fault Refusal := runs s fun d => d.fire 4

/-- SNAP_ARM. -/
def execSnapArm (s : State) : Outcome State Fault Refusal := runs s snapArm

/-- SNAP_DISARM. -/
def execSnapDisarm (s : State) : Outcome State Fault Refusal := runs s snapDisarm

/-- SNAP_COLLECT. -/
def execSnapCollect (r : Requester) (t : Nat) (s : State) : Outcome State Fault Refusal := runs s (collectWrite r t)

/-- SNAP_RECORD_WRITTEN: `ok` false when the DMA failed. -/
def execSnapRecordWritten (ok : Bool) (s : State) : Outcome State Fault Refusal := runs s (recordWritten ok)

end Sys2Proof.Machine
end

