-- ==== Sys2Proof/Machine/Registers.lean ====
section
/-! DEFINITION. Reads and writes of registers by their address: access codes, pairs, clear-on-read fields, watermarks,
selection registers, the configuration lock and the MSI-X table (R3 to R9, R55 to R57, R117, R515, R536, R540, R545, R558 to
R560, R563). -/

namespace Sys2Proof.Machine

open Host

/-! ## Which element, which register -/

/-- The element that a requester has selected for a register of block instance `i` (R117, R230, R252, R258, R284, R314, R390,
R417, R444, R484, R504). -/
def Chip.selOf (c : Chip) (row : RegRow) (i r : Nat) : Nat :=
  let g (a : Nat) : Nat := (c.reg (regKey a r)).toNat
  match row.sel with
  | .none => 0
  | .requester => r
  | .core => c.fld F.TOW_CORE_SEL_ROW i 0 r * 32 + c.fld F.TOW_CORE_SEL_POS i 0 r
  | .line => c.fld F.HALL_LINE_SEL_BUNDLE 0 0 r * 18 + c.fld F.HALL_LINE_SEL_LINE 0 0 r
  | .latch => c.fld F.HALL_LATCH_SEL_ENDPOINT 0 0 r * 512 + c.fld F.HALL_LATCH_SEL_LATCH 0 0 r
  | .ring =>
    (ringIndex (c.fld F.HALL_RING_SEL_KIND 0 0 r = 1) (c.fld F.HALL_RING_SEL_UNIT 0 0 r) (c.fld F.HALL_RING_SEL_INDEX 0 0 r)).getD 0
  | .slice => c.fld F.CEL_SLICE_SEL_SLICE i 0 r
  | .queue => g 0xA00100
  | .group => g 0x800400
  | .member => memberSel (g 0x800400) (g 0x800408)
  | .window => g 0x801100
  | .key => g 0x801200
  | .hist => chanKey (c.fld F.ERR_HIST_SEL_CLASS 0 0 r) (c.fld F.ERR_HIST_SEL_INDEX 0 0 r)
  | .sensor => g 0x70010
  | .kind => calKey (c.fld F.CAL_KIND_SEL_KIND 0 0 r) (c.fld F.CAL_KIND_SEL_UNIT 0 0 r)
  | .retire => g 0x80058

/-- A register as a requester names it: its row, instance, element, selected element, and key. -/
structure RegRef where
  row : RegRow
  i : Nat
  e : Nat
  sel : Nat
  key : Nat
deriving DecidableEq, Repr

/-- The register at an address for a requester; both porch blocks hold the one register of the module (R390). -/
def Chip.regRef (c : Chip) (r : Requester) (a : Nat) : Option RegRef :=
  (regAt a).map fun x =>
    let i := if x.1.shared then 0 else x.2.1
    let sel := c.selOf x.1 i r.code
    ⟨x.1, i, x.2.2, sel, regKey (x.1.addr + x.1.ist * i + x.1.est * x.2.2) sel⟩

/-- A register of a block that M warm reset cuts off (R515). -/
def mBlock (a : Nat) : Bool :=
  decide (a < 0x40000) || (decide (0x60000 ≤ a) && decide (a < 0x70000)) || (decide (0xA00000 ≤ a) && decide (a < 0xC00000))
    || (decide (0xD00000 ≤ a) && decide (a < 0xD10000))

/-- What recovery mode answers (R548). -/
def recoveryReg (a : Nat) : Bool := a = 0x0 || a = 0x10 || (decide (0x10000 ≤ a) && decide (a < 0x20000))

/-- No access reaches the register now: it reads 0xFFFF_FFFF and writes are dropped (R55, R515, R548). -/
def Chip.cutOff (c : Chip) (a : Nat) : Bool :=
  (c.boot.warm && mBlock a) || (c.boot.recovery && decide (a < 0x3F00000) && !recoveryReg a)

/-- The room whose window a key names, as staged writes leave the entry (R407, R417). -/
def Dev.keyRoom (d : Dev) (k : Nat) : Nat := d.stagedOf F.PCH_WIN_CFG_ROOM 0 0 (d.stagedOf F.PCH_KEY_CFG_WIN 0 0 k)

/-- A window or key register of a VF's own room (R400, R407, R417). -/
def Dev.ownEntry (d : Dev) (n : Nat) (x : RegRef) : Bool :=
  match x.row.sel with
  | .window => d.stagedOf F.PCH_WIN_CFG_ROOM 0 0 x.sel = n
  | .key => d.keyRoom x.sel = n
  | _ => true

/-- A VF's window shows the register: the blocks of R536, of them only what is its room's (R287, R314, R348, R417, R469). -/
def Dev.vfReads (d : Dev) (r : Requester) (n : Nat) (x : RegRef) : Bool :=
  let a := x.row.addr
  if a < 0x40000 then false
  else if a < 0x50000 then true
  else if a < 0x60000 then false
  else if a < 0x70000 then decide (a < 0x60400) || x.e = n
  else if a < 0x801000 then false
  else if a < 0x802000 then d.ownEntry n x
  else if a < 0xA00000 then false
  else if a < 0xC00000 then x.row.sel ≠ .queue || d.chip.rings r x.sel
  else if a < 0xD00000 then x.i = n
  else decide (a < 0xD00100) || x.e = n

/-- A VF may write the register (R287, R314, R348, R417, R469). -/
def Dev.vfWrites (d : Dev) (r : Requester) (n : Nat) (x : RegRef) : Bool :=
  let a := x.row.addr
  if a = 0x40000 then true
  else if a < 0x60400 then false
  else if a < 0x70000 then x.e = n
  else if a < 0x801100 then false
  else if a < 0x802000 then d.ownEntry n x
  else if a < 0xA00000 then false
  else if a < 0xC00000 then a = 0xA00100 || (x.row.sel = .queue && d.chip.rings r x.sel)
  else if a < 0xD00000 then x.i = n
  else x.row.sel = .requester || (decide (0xD00100 ≤ a) && x.e = n)

/-- A VF read of an RC field of a QUE register that names no queue does not clear it (R314). -/
def keepsRc (r : Requester) (x : RegRef) : Bool :=
  (vfRoom r).isSome && decide (0xA00000 ≤ x.row.addr) && decide (x.row.addr < 0xC00000) && x.row.sel = .none

/-! ## Reading -/

/-- The registers whose clear-on-read field is a watermark (R563). -/
def isWatermark (row : RegRow) : Bool :=
  [F.TOW_CORE_SLACK_MIN_SLACK.addr, F.QUE_POOL_LOW.addr, F.TOW_SOA_HWM.addr, F.CEL_SOA_HWM.addr, F.PCH_PSB_HWM.addr, F.THM_PEAK.addr].contains
    row.addr

/-- The clear-on-read fields of a register: the published counts, or the published watermark, its reset value standing for no
observation (R9, R563). -/
def Dev.rcPart (d : Dev) (x : RegRef) : Nat :=
  if isWatermark x.row then Tab.get x.row.reset d.pubWm x.key
  else (List.range 32).foldl (fun n lo => n + (Tab.get {} d.pubCnt (x.key * 32 + lo)).n * 2 ^ lo) 0

/-- The write-1-to-set fields that read as anything but 0: FRM_SYNC_CTL.COARSE, SNAP_CTL.ARM while it waits, and
GLB_CTL.CONFIG_LOCK, which acts at once (R8, R62, R72, R529); the others as last published (R52). -/
def setPart (d : Dev) (g : Gate) (a : Nat) : Nat :=
  if a = 0x40030 then b2n d.shown.frm.sync.coarse * 0x40
  else if a = 0x30000 then b2n d.shown.snap.pendArm
  else if a = 0x4 then b2n g.locked * 4
  else 0

/-- The read/write fields of a register: the last value written, staged or in force (R7, R56). ERR_INJ_CTL.ALLOW stands in the
gate, ERR_LOG_CONS in the log. -/
def Dev.rwPart (d : Dev) (g : Gate) (x : RegRef) : Nat :=
  if x.row.addr = 0x20600 then
    setBits (d.stagedReg x.key) 31 1 (b2n ((g.allowStaged.getLast?.map Prod.fst).getD g.allow))
  else if x.row.addr = 0x20014 then d.chip.integ.cons
  else d.stagedReg x.key

/-- What a requester sees of the status fields: its view, else the last publication (R55, R57). -/
def Dev.viewOf (d : Dev) (r : Nat) : Chip := ((d.views.find? fun v => v.1 = r).map fun v => v.2.chip).getD d.shown

/-- The word that a register holds for a requester, without what a read does. -/
def Dev.word (d : Dev) (g : Gate) (r : Requester) (x : RegRef) : Nat :=
  (d.rwPart g x &&& x.row.rw) ||| (d.roWord (d.viewOf r.code) x.row.addr x.i x.e x.sel r.code &&& x.row.ro)
    ||| ((Tab.get 0 d.pubEv x.key).toNat &&& x.row.w1c) ||| (d.rcPart x &&& x.row.rc) ||| (setPart d g x.row.addr &&& x.row.w1s)

/-- A read of a clear-on-read field clears it; a watermark restarts (R9, R563). -/
def Dev.clearRc (d : Dev) (x : RegRef) : Dev :=
  if x.row.rc = 0 then d
  else if isWatermark x.row then { d with wm := Tab.upd {} d.wm x.key fun w => { w with acc := none } }
  else { d with pubCnt := Tab.keep d.pubCnt fun k => decide (k / 32 ≠ x.key) }

/-- The function whose MSI-X table a requester sees (R536, R560). -/
def msixFn : Requester → Option Nat
  | .pf => some 0
  | .vf v => if 1 ≤ v ∧ v ≤ 16 then some v else none
  | _ => none

/-- The size of a function's MSI-X table in bytes (R540, R558, R560). -/
def msixBytes (fn : Nat) : Nat := if fn = 0 then 32768 else 1024

/-- A word of the MSI-X table or the PBA. -/
def Dev.msixWord (d : Dev) (r : Requester) (a : Nat) : Nat :=
  match msixFn r with
  | none => 0
  | some fn =>
    let o := a - 0x3F00000
    if a < 0x3F00000 then 0
    else if o < msixBytes fn then ((Tab.find d.msix (fn * 65536 + o)).getD (if o % 16 = 12 then 1 else 0)).toNat
    else if 0x80000 ≤ o ∧ o < 0x80000 + msixBytes fn / 128 then
      bitsWhere 32 fun b => Tab.get false d.pba (fn * 65536 + 8 * (o - 0x80000) + b)
    else 0

/-- The register that a requester's read reaches: none where it reads 0. -/
def Dev.readable (d : Dev) (r : Requester) (a : Nat) : Option RegRef :=
  (d.chip.regRef r a).bind fun x =>
    match vfRoom r with
    | some n => if d.vfReads r n x then some x else none
    | none => some x

/-- The word that a read at an address returns (R3, R4, R6). -/
def Dev.readWord (d : Dev) (g : Gate) (r : Requester) (a : Nat) : Nat :=
  if d.chip.cutOff a then 0xFFFFFFFF
  else match d.pairs.find? fun p => p.1 = r.code && p.2.1 = a with
    | some p => p.2.2
    | none => match d.readable r a with
      | some x => d.word g r x
      | none => d.msixWord r a

/-- What a 32-bit read of a whole register does: a low word latches the high word, a latched high word is used up, RC fields clear
(R4, R9, R57, R563). -/
def Dev.afterRead (d : Dev) (g : Gate) (r : Requester) (a : Nat) : Dev :=
  if d.chip.cutOff a then d
  else if d.pairs.any fun p => p.1 = r.code && p.2.1 = a then { d with pairs := d.pairs.filter fun p => !(p.1 = r.code && p.2.1 = a) }
  else match d.readable r a with
    | none => d
    | some x =>
      let d : Dev := if keepsRc r x then d else d.clearRc x
      if x.row.pair then
        let rest := d.pairs.filter fun p => !(p.1 = r.code && p.2.1 = a + 4)
        let hi := ({ d with pairs := rest } : Dev).readWord g r (a + 4)
        { d with pairs := rest ++ [(r.code, a + 4, hi)] }
      else d

/-- The bits of the bytes that byte enables name. -/
def enableMask (be : Nat) : Nat := ofBitList ((List.range 32).filter fun b => bitOf be (b / 8))

/-- A 32-bit read with byte enables `be`: of a part of the register, nothing clears or latches (R559). FRM_VIEW_LO pins a view
(R57). -/
def Dev.regRead (d : Dev) (g : Gate) (r : Requester) (a be : Nat) : Dev :=
  if be % 16 = 15 then
    if a = F.FRM_VIEW_LO.addr ∧ !d.chip.boot.recovery then viewPin r d
    else (d.afterRead g r a).emit (.value (d.readWord g r a))
  else d.emit (.value (d.readWord g r a &&& enableMask be))

/-- An aligned 64-bit read of a pair: one value, and nothing is latched (R3, R559). -/
def Dev.pairRead (d : Dev) (g : Gate) (r : Requester) (a : Nat) : Dev :=
  let d : Dev := { d with pairs := d.pairs.filter fun p => !(p.1 = r.code && p.2.1 = a + 4) }
  if a = F.FRM_VIEW_LO.addr ∧ !d.chip.boot.recovery then
    let x := viewPin r d
    { x with
      pairs := d.pairs
      out := d.out ++ [.value (d.shown.frm.commit)] }
  else d.emit (.value (d.readWord g r a + d.readWord g r (a + 4) * 2 ^ 32))

/-- PAIR_LOW_READ (R4): a read of the low word of a pair, or `wide` of both; another register is read as it stands. -/
def pairLowRead (r : Requester) (a : Nat) (wide : Bool) (s : State) (d : Dev) : Dev :=
  let pair := ((regAt a).map fun x => x.1.pair).getD false
  if wide then
    (if pair then d.pairRead s.gate r a else (d.regRead s.gate r a 15).regRead s.gate r (a + 4) 15)
  else d.regRead s.gate r a 15

/-- A read of up to 16 registers as one: every value is taken before any RC field clears, a pair inside is one value, and a low word
at the end latches its high word (R545, R559). -/
def Dev.readMany (d : Dev) (g : Gate) (r : Requester) (a n : Nat) : List Nat × Dev :=
  let d : Dev := { d with pairs := d.pairs.filter fun p => !(p.1 = r.code && (List.range n).any fun k => a + 4 * k + 4 = p.2.1 && k + 1 < n
      && ((regAt (a + 4 * k)).map fun x => x.1.pair).getD false) }
  let vs := (List.range n).map fun k => d.readWord g r (a + 4 * k)
  let one (d : Dev) (k : Nat) : Dev :=
    let b := a + 4 * k
    let low := ((regAt b).map fun x => x.1.pair).getD false
    if b = F.FRM_VIEW_LO.addr ∧ !d.chip.boot.recovery then
      let x := viewPin r d
      { x with
        pairs := if k + 1 < n then d.pairs else x.pairs
        out := d.out }
    else
      let x := d.afterRead g r b
      if low ∧ k + 1 < n then { x with pairs := d.pairs } else x
  (vs, (List.range n).foldl one d)

/-! ## Writing -/

/-- The mask without a field that the write leaves as it is. -/
def keepIf (ok : Bool) (f : Fld) (m : Nat) : Nat := if ok then m else m - (m &&& f.mask)

/-- A value lies in a range. -/
def inRange (lo hi v : Nat) : Bool := decide (lo ≤ v) && decide (v ≤ hi)

/-- A field of a written value. -/
def Fld.of (f : Fld) (v : Nat) : Nat := bitsOf v f.lo f.w

/-- The read/write bits that a write of a selection register changes: a selection that names nothing changes none. -/
def Dev.selMask (d : Dev) (r : Requester) (a v m : Nat) : Nat :=
  let ok :=
    if a = 0x200200 then decide (F.TOW_CORE_SEL_POS.of v ≤ 16)
    else if a = 0x100080 then decide (F.HALL_LINE_SEL_BUNDLE.of v < nBundles) && decide (F.HALL_LINE_SEL_LINE.of v < 18)
    else if a = 0x1000A0 then
      decide (F.HALL_LATCH_SEL_ENDPOINT.of v < 23) && decide (F.HALL_LATCH_SEL_LATCH.of v < latchCount (F.HALL_LATCH_SEL_ENDPOINT.of v))
    else if a = 0x109000 then
      (ringIndex (F.HALL_RING_SEL_KIND.of v = 1) (F.HALL_RING_SEL_UNIT.of v) (F.HALL_RING_SEL_INDEX.of v)).isSome
    else if a = 0xA00100 then (vfRoom r).isNone || d.chip.rings r (v % nQueues)
    else if a = 0x20180 then inRange 1 6 (F.ERR_HIST_SEL_CLASS.of v)
    else if a = 0x70010 then sensorList.contains (v % 512)
    else if a = 0x80040 then
      inRange 1 8 (F.CAL_KIND_SEL_KIND.of v) && decide (F.CAL_KIND_SEL_UNIT.of v < calUnits (F.CAL_KIND_SEL_KIND.of v))
    else true
  if ok then m else 0

/-- The read/write bits that a write changes: a field whose value lies outside the range its table gives is left as it is. -/
def Dev.rwMask (d : Dev) (r : Requester) (a v m : Nat) : Nat :=
  if a = 0x1003C then keepIf (inRange 1 3600 (F.SEC_SIG_CTL_MIN_S.of v)) F.SEC_SIG_CTL_MIN_S m
  else if a = 0x100008 then
    keepIf (decide (F.HALL_MAINT_BUNDLE.of v < nBundles)) F.HALL_MAINT_BUNDLE (keepIf (decide (F.HALL_MAINT_LINE.of v < 18)) F.HALL_MAINT_LINE m)
  else if a = 0x108100 then keepIf (decide (F.HALL_LASER_CTL_GROUP.of v ≤ 25)) F.HALL_LASER_CTL_GROUP m
  else if a = 0x109200 then
    keepIf (inRange 2 24 (F.HALL_SLEW_FALL.of v)) F.HALL_SLEW_FALL (keepIf (inRange 2 16 (F.HALL_SLEW_RISE.of v)) F.HALL_SLEW_RISE m)
  else if a = 0x600020 then
    keepIf (decide (F.CEL_CE_CTL_LEAK.of v ≠ 0)) F.CEL_CE_CTL_LEAK (keepIf (decide (F.CEL_CE_CTL_DEPTH.of v ≠ 0)) F.CEL_CE_CTL_DEPTH m)
  else if a = 0x600100 then keepIf (decide (F.CEL_SCRUB_CTL_SHARE.of v ≠ 0)) F.CEL_SCRUB_CTL_SHARE m
  else if a = 0x600214 then keepIf (decide (F.CEL_INVAL_LAST.of v < cellarPages)) F.CEL_INVAL_LAST m
  else if a = 0xA00120 then
    keepIf (if (vfRoom r).isSome then inRange 1 63 (v % 2048) else decide (32 ≤ v % 2048)) F.QUE_Q_VEC m
  else if a = 0xD00004 then
    keepIf (decide (F.BIT_CFG_KIND.of v ≠ 3)) F.BIT_CFG_KIND (keepIf (vfRoom r).isNone F.BIT_CFG_ROOM m)
  else if a = 0x800008 then keepIf (inRange 4 12 (F.PCH_FAB_CTL_WINDOW.of v)) F.PCH_FAB_CTL_WINDOW m
  else if a = 0x800404 then keepIf (decide (F.PCH_MC_CFG_N.of v ≤ 64)) F.PCH_MC_CFG_N m
  else if a = 0x801204 then
    let n := (vfRoom r).getD 16
    let own := (vfRoom r).isNone || d.stagedOf F.PCH_WIN_CFG_ROOM 0 0 (F.PCH_KEY_CFG_WIN.of v) = n
    if own then keepIf (decide (F.PCH_KEY_CFG_MODE.of v ≠ 3)) F.PCH_KEY_CFG_MODE m else 0
  else if a = 0x20018 then keepIf (inRange 1 1024 (F.ERR_LOG_CTL_FILL_LVL.of v)) F.ERR_LOG_CTL_FILL_LVL m
  else if a = 0x20104 then
    keepIf (inRange 1 16 (F.ERR_POLICY_HITS.of v)) F.ERR_POLICY_HITS (keepIf (decide (F.ERR_POLICY_CONSEC.of v ≠ 0)) F.ERR_POLICY_CONSEC m)
  else if a = 0x20300 then keepIf ([1, 3, 7, 8].contains (F.ERR_XCHK_CTL_FMT.of v)) F.ERR_XCHK_CTL_FMT m
  else if a = 0x6001C then keepIf (inRange 1 8 (F.PWR_LEDGER_CTL_SHIFT.of v)) F.PWR_LEDGER_CTL_SHIFT m
  else if a = 0x80000 then keepIf (decide (F.CAL_CTL_PROFILE.of v ≠ 3)) F.CAL_CTL_PROFILE m
  else if a = 0x80004 then
    [F.CAL_TRIG0_LASER, F.CAL_TRIG0_RXTHR, F.CAL_TRIG0_MODBIAS, F.CAL_TRIG0_RING].foldl (fun m f => keepIf (decide (f.of v ≠ 0)) f m) m
  else if a = 0x80008 then
    [F.CAL_TRIG1_VREG, F.CAL_TRIG1_JEQ, F.CAL_TRIG1_CELPHY].foldl (fun m f => keepIf (decide (f.of v ≠ 0)) f m) m
  else if a = 0x8000C then keepIf (decide (64 ≤ F.CAL_IDLE_GAP_GAP.of v)) F.CAL_IDLE_GAP_GAP m
  else if a = 0x50004 then
    keepIf (decide (4 ≤ F.SEQ_CTL_MBX_US.of v)) F.SEQ_CTL_MBX_US (keepIf (decide (2 ≤ F.SEQ_CTL_HB_LIMIT.of v)) F.SEQ_CTL_HB_LIMIT m)
  else d.selMask r a v m

/-- A write that would make two valid window entries hold one (JOB, WINDOW) (R400). -/
def Dev.windowClash (d : Dev) (k valid window job : Nat) : Bool :=
  let others := ((d.chip.listed F.PCH_WIN_CFG_VALID.addr) ++ ((d.staged.map Staged.key).filter fun k => k % 2 ^ 26 = F.PCH_WIN_CFG_VALID.addr).map
    fun k => k / 2 ^ 26).eraseDups
  valid = 1 && others.any fun x => x ≠ k && d.stagedOf F.PCH_WIN_CFG_VALID 0 0 x = 1
    && d.stagedOf F.PCH_WIN_JOB 0 0 x = job && d.stagedOf F.PCH_WIN_CFG_WINDOW 0 0 x = window

/-- A write of PCHn_WIN_CFG or PCHn_WIN_JOB: a VF writes no other room's number, and a clash is refused (R400, R417). -/
def windowReg (r : Requester) (t : Nat) (x : RegRef) (v : Nat) (d : Dev) : Dev :=
  let cfg := x.row.addr = 0x801104
  let other := cfg && (vfRoom r).any fun n => F.PCH_WIN_CFG_ROOM.of v ≠ n
  let clash := if cfg then d.windowClash x.sel (F.PCH_WIN_CFG_VALID.of v) (F.PCH_WIN_CFG_WINDOW.of v) (d.stagedOf F.PCH_WIN_JOB 0 0 x.sel)
    else d.windowClash x.sel (d.stagedOf F.PCH_WIN_CFG_VALID 0 0 x.sel) (d.stagedOf F.PCH_WIN_CFG_WINDOW 0 0 x.sel) (v % 65536)
  if other then d
  else if clash then (d.flag F.PCH_INT_STATUS_TGT_CFG 0).flag F.PCH_INT_STATUS_TGT_CFG 1
  else d.stage r t x.key x.row.rw v

/-- A write of a register of the selected queue (R298, R302, R314): EN that may not be set, or a ring or shadow written while EN is 1,
sets BAD_CFG. -/
def queueReg (r : Requester) (t : Nat) (x : RegRef) (v : Nat) (d : Dev) : Dev :=
  let q := x.sel
  let a := x.row.addr
  if a = 0xA00108 then writeLim r t q (v / 2 ^ 16 % 2 ^ 16) (v % 2 ^ 16) d
  else if a = 0xA00104 then
    (if bitOf v 31 ∧ d.stagedOf F.QUE_Q_CFG_EN 0 0 q = 0 ∧ !d.enableOk q then d.badCfg else d.stage r t x.key x.row.rw v)
  else if (a = 0xA0010C ∨ (0xA00110 ≤ a ∧ a ≤ 0xA0011C)) ∧ d.stagedOf F.QUE_Q_CFG_EN 0 0 q = 1 then d.badCfg
  else d.stage r t x.key (d.rwMask r a v x.row.rw) v

/-- The aperture bits below the BAR 2 size read 0 (R537, R557). -/
def Chip.apertureMask (c : Chip) (a : Nat) : Nat :=
  ofBitList ((List.range 32).filter fun b => decide (c.host.bar2 ≤ (if a = 0x10044 then 32 + b else b)))

/-- A write of a debug window's registers: ignored while an access is in progress; with both READ and WRITE it does nothing
(R173). -/
def dbgReg (r : Requester) (x : RegRef) (v : Nat) (d : Dev) : Dev :=
  if !isPf r ∨ (d.chip.dbg (x.i * 32 + r.code)).busy then d
  else if x.row.addr ≠ 0x200330 then
    d.onChip fun c => c.setReg x.key (BitVec.ofNat 32 (v &&& x.row.rw))
  else if bitOf v 0 ∧ bitOf v 1 then d
  else if bitOf v 0 then dbgStart r x.i false d
  else if bitOf v 1 then dbgStart r x.i true d
  else d

/-- BIT_CTL: START and ABORT act at once (R339, R345). -/
def bitReg (r : Requester) (v : Nat) (d : Dev) : Dev :=
  let d := if bitOf v 0 then loadStart r d else d
  if bitOf v 1 then d.abortLoad r.code else d

/-- A write that a requester may make to a register, under its access codes (R7, R56): routed where the register has rules of its
own, else its W1C and W1S bits and the RW fields whose values are in range are staged, or written at once. -/
def Dev.writeReg (d : Dev) (r : Requester) (t : Nat) (x : RegRef) (v : Nat) : Dev :=
  let a := x.row.addr
  if a = 0x40000 then (if bitOf v 0 then viewRelease r d else d)
  else if a = 0x40008 then periodWrite r t (v % 256) d
  else if a = 0x40030 then syncCtlWrite r t (x.row.rw + (v &&& 0x40)) v d
  else if a = 0x30000 then
    let d := if bitOf v 2 then snapTrigger r d else d
    d.stage r t x.key (x.row.rw + (v &&& 0xB)) v
  else if a = 0x60004 then capWrite r t (v % 65536) d
  else if a = 0x20014 then logConsume r v d
  else if a = 0xA00004 then writeReserve r t (v % 2 ^ 17) d
  else if a = 0xD00000 then bitReg r v d
  else if a = 0x200330 ∨ a = 0x200334 ∨ a = 0x200340 then dbgReg r x v d
  else if a = 0x801104 ∨ a = 0x801108 then windowReg r t x v d
  else if x.row.sel = .queue then queueReg r t x v d
  else if a = 0x200380 ∧ 2 ≤ F.TOW_MARCH_CTL_ALGO.of v then d
  else
    let m := d.rwMask r a v x.row.rw + (v &&& (x.row.w1c ||| x.row.w1s))
    if m = 0 then d
    else if x.row.now then
      let m := if a = 0x10040 ∨ a = 0x10044 then m &&& d.chip.apertureMask a else m
      let v := if a = 0x10040 ∨ a = 0x10044 then v &&& d.chip.apertureMask a else v
      let keep := if a = 0x10040 ∨ a = 0x10044 then 0 else 2 ^ 32 - 1 - m
      d.onChip fun c => c.setReg x.key (BitVec.ofNat 32 (((c.reg x.key).toNat &&& keep) ||| (v &&& m)))
    else d.stage r t x.key m v

/-- A write of a word of the function's MSI-X table; a vector unmasked with its pending bit set is sent (R540). -/
def Dev.writeMsix (d : Dev) (r : Requester) (a v : Nat) : Dev :=
  match msixFn r with
  | none => d
  | some fn =>
    let o := a - 0x3F00000
    if a < 0x3F00000 ∨ msixBytes fn ≤ o ∨ o % 4 ≠ 0 then d
    else
      let w := if o % 16 = 12 then v % 2 else if o % 16 = 0 then v / 4 * 4 else v
      let d : Dev := { d with msix := Tab.ins d.msix (fn * 65536 + o) (BitVec.ofNat 32 w) }
      let p := fn * 65536 + o / 16
      if o % 16 = 12 ∧ w = 0 ∧ Tab.get false d.pba p then
        ({ d with pba := Tab.put false d.pba p false } : Dev).emit (.msix fn (o / 16))
      else d

/-- What WRITE_REG permits (R545). -/
def writeRegOk (a : Nat) : Bool := [0x4, 0x60004, 0x70004, 0x40000, 0x20014].contains a

/-- The register that a requester's write reaches (R6, R287, R515, R536, R545, R548). -/
def Dev.writable (d : Dev) (r : Requester) (a : Nat) : Option RegRef :=
  if d.chip.cutOff a ∨ d.chip.boot.recovery then none
  else (d.chip.regRef r a).bind fun x =>
    match r with
    | .pf => some x
    | .vf _ => if d.vfWrites r ((vfRoom r).getD 16) x then some x else none
    | _ => if writeRegOk a then some x else none

/-! ## The lock -/

/-- A write to an RWL field after the lock that would change it is dropped and logged (R7, R8). -/
def Dev.lockViolation (d : Dev) : Dev := d.log3 clsConfig 0 0

/-- CONFIG_LOCK is set: RWL fields keep their values; ALLOW is cleared, its staged writes are discarded, and an armed or active
injection ends (R8, R443). -/
def State.lock (s : State) : State :=
  let g := s.gate
  let ends := g.inj.st = .armed ∨ g.inj.st = .active
  { s with
    gate := { g with locked := true, allow := false, allowStaged := [], inj := endInj g.inj }
    dev := if ends then s.dev.flag F.ERR_INT_STATUS_INJECT_DONE else s.dev }

/-- A write of ERR_INJ_CTL by the PF (R8, R443, R444): ALLOW, ARM and DISARM are staged beside the other fields. -/
def State.writeInj (s : State) (r : Requester) (t : Nat) (x : RegRef) (v : Nat) : State :=
  let g := s.gate
  let due := s.dev.chip.dueFrame t
  let d := s.dev.stage r t x.key (x.row.rw &&& 0x7FFFFFFF) v
  let d := if g.locked ∧ bitOf v 31 then d.lockViolation else d
  let acts := (if bitOf v 1 then [(false, due)] else []) ++ (if bitOf v 0 then [(true, due)] else [])
  { s with
    gate := { g with
      allowStaged := if g.locked then g.allowStaged else g.allowStaged ++ [(bitOf v 31, due)]
      injStaged := g.injStaged ++ acts }
    dev := d }

/-- A write of GLB_CTL (R529): CONFIG_LOCK by the PF; M_WARM and MOD_RESET by the PF or through WRITE_REG. -/
def State.writeGlb (s : State) (r : Requester) (v : Nat) : State :=
  let s := if bitOf v 2 ∧ isPf r then s.lock else s
  let s := if bitOf v 1 then commit s (s.dev.mWarm 1) else s
  if bitOf v 0 then s.restart 3 else s

/-- A write of a register at an address (R6, R7, R56). After the lock a write of ENROL_ALLOW is judged against the value staged, where one is
(R8; log 134). -/
def State.regWrite (s : State) (r : Requester) (t a v : Nat) : State :=
  let v := v % 2 ^ 32
  match s.dev.writable r a with
  | none => if s.dev.chip.boot.recovery then s else commit s (s.dev.writeMsix r a v)
  | some x =>
    if x.row.addr = 0x4 then s.writeGlb r v
    else if x.row.addr = 0x20600 then s.writeInj r t x v
    else if x.row.addr = 0x10018 ∧ s.gate.locked then
      (if v % 2 ≠ s.dev.stagedReg x.key % 2 then commit s s.dev.lockViolation else s)
    else commit s (s.dev.writeReg r t x v)

/-- W1C_WRITE (R9): the W1C bits written 1 are cleared at the write's threshold. -/
def w1cWrite (r : Requester) (t a v : Nat) (d : Dev) : Dev :=
  match d.writable r a with
  | some x => if v &&& x.row.w1c = 0 then d else d.stage r t x.key (v &&& x.row.w1c) v
  | none => d

/-! ## The commands -/

/-- PAIR_LOW_READ. `wide`: one aligned 64-bit access. -/
def execPairLowRead (r : Requester) (a : Nat) (wide : Bool) (s : State) : Outcome State Fault Refusal := runs s (pairLowRead r a wide s)

/-- RC_READ: with byte enables `be`. -/
def execRcRead (r : Requester) (a be : Nat) (s : State) : Outcome State Fault Refusal := runs s fun d => d.regRead s.gate r a be

/-- WATERMARK_READ. -/
def execWatermarkRead (r : Requester) (a be : Nat) (s : State) : Outcome State Fault Refusal := runs s fun d => d.regRead s.gate r a be

/-- W1C_WRITE. `t`: ns since the last threshold. -/
def execW1cWrite (r : Requester) (t a v : Nat) (s : State) : Outcome State Fault Refusal := runs s (w1cWrite r t a v)

/-- REGISTER_WRITE. -/
def execRegisterWrite (r : Requester) (t a v : Nat) (s : State) : Outcome State Fault Refusal :=
  .next (if s.active then ({ s with dev := { s.dev with out := [] } } : State).regWrite r t a v else s)

/-- CONFIG_LOCK: GLB_CTL bit 2 written by the PF. -/
def execConfigLock (r : Requester) (s : State) : Outcome State Fault Refusal :=
  .next (if s.active ∧ isPf r ∧ (s.dev.writable r 0x4).isSome then ({ s with dev := { s.dev with out := [] } } : State).lock else s)

end Sys2Proof.Machine
end

