-- ==== Sys2Proof/Machine/HostLink.lean ====
section
/-! DEFINITION. The host link and its functions, DMA, address translation, MCTP and DOE, the commands of R544, firmware, owner,
reports and IDE (R532 to R556). -/

namespace Sys2Proof.Machine

open Host

/-! ## Link and functions -/

/-- What identifies a PCIe function in its configuration space (R532). -/
structure FnId where
  vendor : Nat
  device : Nat
  cls : Nat
  subVendor : Nat
  subsystem : Nat
  revision : Nat
deriving DecidableEq, Repr

/-- The identifiers of function `fn`: 0 the PF, else a VF; the revision is GLB_ID.BASE_REV (R532, R10). -/
def fnId (fn : Nat) : FnId where
  vendor := 0x1DF3
  device := if fn = 0 then 0x0108 else 0x0109
  cls := 0x120000
  subVendor := 0x1DF3
  subsystem := if fn = 0 then 0x0108 else 0x0109
  revision := 0

/-- What a function reset does to the functions of a set (R533): their MSI-X tables, the register copies kept for each of them and
their views return to their reset values, their queues' EN is cleared, and their loads before acceptance end with ABORTED. Reads
under way and the configuration fields go with them. -/
def Dev.resetFns (d : Dev) (p : Nat → Bool) : Dev :=
  let own (k : Nat) : Bool := p (k / 2 ^ 26) && ((regAt (k % 2 ^ 26)).map fun x => decide (x.1.sel = .requester)).getD false
  let d : Dev := { d with
    views := d.views.filter fun v => !p v.1
    expired := d.expired.filter fun k => !p k
    pairs := d.pairs.filter fun x => !p x.1
    msix := Tab.keep d.msix fun k => !p (k / 65536)
    pba := Tab.keep d.pba fun k => !p (k / 65536) }
  let d := match d.chip.bit.load with
    | some l => if p l.owner then d.abortLoad l.owner else d
    | none => d
  let d := d.onChip fun c => { c with
    regs := Tab.keep c.regs fun k => !own k
    bit := { c.bit with res := Tab.keep c.bit.res fun k => !p k }
    tow := { c.tow with dbg := Tab.keep c.tow.dbg fun k => !p (k % 32) }
    host := { c.host with
      accs := c.host.accs.filter fun a => a.write || !p a.fn
      ats := ofBitList ((bitList 17 c.host.ats).filter fun k => !p k)
      d3 := ofBitList ((bitList 17 c.host.d3).filter fun k => !p k)
      aer := Tab.keep c.host.aer fun k => !p k
      inval := c.host.inval.filter fun x => !p x.1 } }
  (d.chip.que.qs.filter fun x => p x.2.fn && d.chip.queueOn x.1).foldl (fun d x => d.disableQueue x.1) d

/-- The configuration space of the whole device returns to its reset values: VF Enable, BAR sizes, IDE streams (R533). -/
def Dev.resetConfig (d : Dev) : Dev :=
  (d.onHost fun h => { h with
    numVFs := 0
    vfEnable := false
    bar2 := 30
    vfBar2 := 30
    ideKeys := [] }).onSec fun x => { x with secure := 0, insecure := 0 }

/-- The codes of PCIe functions. -/
def isFn (k : Nat) : Bool := decide (k ≤ 16)

/-- LINK_DOWN (R533). -/
def linkDown (d : Dev) : Dev := ((d.resetFns isFn).resetConfig).onChip fun c => { c with boot := { c.boot with pcie := false } }

/-- PF_FLR (R533). -/
def pfFlr (d : Dev) : Dev := (d.resetFns isFn).resetConfig

/-- VF_FLR (R533). -/
def vfFlr (n : Nat) (d : Dev) : Dev := if 1 ≤ n ∧ n ≤ 16 then d.resetFns fun k => k = n else d

/-- PCIE_LINK_UP (R506). -/
def pcieUp (d : Dev) : Dev := d.onChip fun c => { c with boot := { c.boot with pcie := true } }

/-- VF_ENABLE: a configuration write leaves VF Enable and NumVFs, the functions in D3hot and with ATS enabled, and the BAR 2 sizes
as powers of two (R532, R534, R535). VFs that go away are reset. -/
def vfEnable (en : Bool) (n d3 ats bar2 vfBar2 : Nat) (d : Dev) : Dev :=
  if !d.chip.boot.pcie ∨ 16 < n then d
  else
    let d := if en then d else d.resetFns fun k => 1 ≤ k && decide (k ≤ 16)
    d.onHost fun h => { h with
      vfEnable := en
      numVFs := n
      d3 := d3 % 2 ^ 17
      ats := ats % 2 ^ 17
      bar2 := if 30 ≤ bar2 ∧ bar2 ≤ 40 then bar2 else h.bar2
      vfBar2 := if 30 ≤ vfBar2 ∧ vfBar2 ≤ 40 then vfBar2 else h.vfBar2 }

/-! ## DMA and translation -/

/-- A DMA ends (R542). `user`: 0 a submission ring and packet read of queue `q`, with what it read; 1 a delivery ring or shadow write
of queue `q`; 2 the snapshot record; 3 the image source, of which `q` MiB have been read. `status`: 0 good, 1 an error completion,
2 a failed translation. -/
def dmaCompletion (user q status : Nat) (entry data : List Byte) (d : Dev) : Dev :=
  match user with
  | 0 => submissionRead q status entry data d
  | 1 => if status = 2 ∧ d.chip.queueOn q then d.stageDisable q else d
  | 2 => recordWritten (status = 0) d
  | 3 =>
    match d.chip.bit.load with
    | some l =>
      if d.chip.bit.eng ≠ .reading then d
      else if status = 0 ∧ l.len ≤ q * 2 ^ 20 then d.sourceRead l
      else if status = 0 then d.onBit fun b => { b with progress := min q (l.len / 2 ^ 20) }
      else (d.loadFail l.owner { status := stReadErr }).engineIdle
    | none => d
  | _ => d

/-- Reads of a function that were issued under the translations in force: the load engine's (R542). -/
def Chip.readsUnderWay (c : Chip) (fn : Nat) : Bool :=
  c.bit.eng = .reading && (c.bit.load.any fun l => l.owner = fn && l.srcKind = 1)

/-- ATS_INVALIDATE (R532, R542): an invalidation waits, at most 32 deep, for reads already issued, and then completes. -/
def atsInvalidate (fn tag : Nat) (d : Dev) : Dev :=
  if !d.chip.fnUp fn ∨ !bitOf d.chip.host.ats fn then d
  else
    let held := (fn, tag) ∈ d.chip.host.inval
    if d.chip.readsUnderWay fn then
      (if held ∨ 32 ≤ (d.chip.host.inval.filter fun x => x.1 = fn).length then d
       else d.onHost fun h => { h with inval := h.inval ++ [(fn, tag)] })
    else (d.onHost fun h => { h with inval := h.inval.filter fun x => x ≠ (fn, tag) }).emit (.invalDone fn tag)

/-- MCTP_CONTROL (R543): command 1 sets the endpoint ID, 2 gets it; the answer carries the endpoint ID. -/
def mctpControl (cmd eid : Nat) (d : Dev) : Dev :=
  let d := if cmd = 1 then d.onHost fun h => { h with eid := eid % 256 } else d
  d.emit (.answer cmd 0 (leBytes 1 d.chip.host.eid))

/-! ## Answers -/

/-- The STATUS codes of R544. -/
def vsOk : Nat := 0
def vsDenied : Nat := 1
def vsBadReq : Nat := 2
def vsBusy : Nat := 3
def vsRate : Nat := 4
def vsExhausted : Nat := 5
def vsVerifyFail : Nat := 6
def vsRollback : Nat := 7
def vsFlashErr : Nat := 8
def vsNotReady : Nat := 9
def vsNoCounter : Nat := 10

/-- A command is answered. -/
def Dev.answer (d : Dev) (tag status : Nat) (bytes : List Byte := []) : Dev := d.emit (.answer (tag % 256) status bytes)

/-- A command of R544 on a transport, `.pf` standing for the PF's DOE mailbox and `.fabric` for Jilia MGMT: NOT_READY without M's
firmware, but for what recovery mode serves over DOE and SMBus (R543, R548); DENIED where the table does not list the transport. -/
def vendor (via : Requester) (tag : Nat) (ok rom : Bool) (k : Dev → Dev) (d : Dev) : Dev :=
  if (vfRoom via).isSome then d
  else if d.chip.boot.recovery then (if rom && via ≠ .fabric then k d else d.answer tag vsNotReady)
  else if !d.chip.boot.mfw ∨ d.chip.boot.warm then d.answer tag vsNotReady
  else if !ok then d.answer tag vsDenied
  else k d

/-- DOE and SMBus alone. -/
def notFabric (via : Requester) : Bool := via ≠ .fabric

/-- GET_INFO (R544). -/
def getInfo (via : Requester) (tag : Nat) (d : Dev) : Dev :=
  vendor via tag true true (fun d =>
    d.answer tag vsOk (d.flash.serial16 ++ leBytes 2 0x0108 ++ leBytes 2 0 ++ leBytes 2 d.chip.sec.version ++ leBytes 2 d.chip.sec.svn
      ++ leBytes 1 (b2n d.chip.sec.runB) ++ leBytes 7 0)) d

/-- READ_REG (R544, R545). -/
def readRegs (g : Gate) (via : Requester) (tag a n : Nat) (d : Dev) : Dev :=
  vendor via tag true false (fun d =>
    if n = 0 ∨ 16 < n ∨ a % 4 ≠ 0 then d.answer tag vsBadReq
    else
      let x := d.readMany g via a n
      x.2.answer tag vsOk (x.1.flatMap fun w => leBytes 4 w)) d

/-- WRITE_REG is performed: the firmware serves it, and its offset is permitted (R544, R545). -/
def Dev.writeRegGoes (d : Dev) (via : Requester) (a : Nat) : Bool :=
  (via = .smbus || via = .fabric) && !d.chip.boot.recovery && d.chip.boot.mfw && !d.chip.boot.warm && writeRegOk a

/-- WRITE_REG (R544, R545): of GLB_CTL only bits 1 and 0 act. -/
def writeOneReg (via : Requester) (tag t a v : Nat) (s : State) : State :=
  if s.dev.writeRegGoes via a then
    ({ s with dev := s.dev.answer tag vsOk } : State).regWrite via t a (if a = 0x4 then v % 4 else v)
  else commit s (vendor via tag false false (fun d => d) s.dev)

/-- GET_IDENTITY (R544, R551). -/
def getIdentity (via : Requester) (tag : Nat) (d : Dev) : Dev :=
  vendor via tag true false (fun d =>
    d.answer tag vsOk (padTo 56 0 d.flash.pubKey ++ leBytes 2 d.flash.cert.length ++ d.flash.cert)) d

/-! ## Reports -/

/-- A room's record of a report (R554). -/
def Chip.reportRoom (c : Chip) (r : Nat) : List Byte :=
  let x := c.room r
  match x.cur with
  | some m =>
    leBytes 1 x.st.code ++ leBytes 1 1 ++ leBytes 2 0 ++ leBytes 8 m.image.id ++ padTo 32 0 m.image.digest ++ leBytes 4 x.imageFrame
  | none => leBytes 1 x.st.code ++ leBytes 47 0

/-- The 912 bytes of a report that the signature covers (R554). -/
def Dev.report (d : Dev) (g : Gate) (nonce : List Byte) : List Byte :=
  let c := d.shown
  let x := c.sec
  let flags := b2n g.locked + 2 * b2n x.owner.isSome + 4 * b2n (decide (x.secure ≠ 0)) + 8 * b2n g.allow + 16 * b2n x.fallback
  [0x5A, 0x41, 0x54, 0x52] ++ leBytes 2 1 ++ leBytes 2 0 ++ leBytes 4 2684 ++ leBytes 4 912 ++ padTo 32 0 nonce ++ d.flash.serial16
    ++ leBytes 2 0x0108 ++ leBytes 2 0 ++ leBytes 2 x.version ++ leBytes 2 x.svn ++ leBytes 1 (b2n x.runB) ++ leBytes 1 flags
    ++ leBytes 6 c.frm.commit ++ padTo 32 0 x.hash ++ padTo 16 0 ((x.owner.map keyId).getD []) ++ leBytes 4 d.chip.sec.leaf ++ leBytes 12 0
    ++ (List.range 16).flatMap c.reportRoom

/-- The signatures that may be made at once by now: one more for every MIN_S seconds, at most 8 (R553). -/
def Dev.credited (d : Dev) : Dev :=
  let unit := d.chip.fld F.SEC_SIG_CTL_MIN_S * 1000000000
  let now := d.chip.frm.time
  d.onSec fun x =>
    let n := if unit = 0 then 8 else (now - x.creditAt) / unit
    { x with
      credit := min 8 (x.credit + n)
      creditAt := if 8 ≤ x.credit + n then now else x.creditAt + n * unit }

/-- A leaf is reserved before it signs: the counter record is written when the next leaf is the first not yet reserved, and read back
(R552). -/
def Dev.reserveLeaf (d : Dev) (flashOk : Bool) : Dev :=
  let q := d.chip.sec.leaf
  if q ≠ d.flash.hwm then d
  else if flashOk then { d with flash := d.flash.putCounter (min (q + 1024) (2 ^ 20)) }
  else ({ d with flash := d.flash.failCounter } : Dev).onSec fun x => { x with noCounter := true }

/-- GET_REPORT (R552 to R554). -/
def getReport (g : Gate) (via : Requester) (tag : Nat) (nonce : List Byte) (flashOk : Bool) (d : Dev) : Dev :=
  vendor via tag true false (fun d =>
    if nonce.length ≠ 32 then d.answer tag vsBadReq
    else if d.chip.sec.noCounter then d.answer tag vsNoCounter
    else if 2 ^ 20 ≤ d.chip.sec.leaf then (d.flag F.SEC_INT_STATUS_SIG_EXHAUSTED).answer tag vsExhausted
    else
      let d := d.credited
      if d.chip.sec.credit = 0 then d.answer tag vsRate
      else
        let d := d.reserveLeaf flashOk
        if d.chip.sec.noCounter then d.answer tag vsNoCounter
        else
          let q := d.chip.sec.leaf
          let body := d.report g nonce
          let d := d.onSec fun x => { x with leaf := q + 1, credit := x.credit - 1 }
          let d := if 2 ^ 20 - (q + 1) < 65536 then d.flag F.SEC_INT_STATUS_SIG_LOW else d
          let d := if q + 1 = 2 ^ 20 then d.flag F.SEC_INT_STATUS_SIG_EXHAUSTED else d
          d.answer tag vsOk (body ++ padTo 1772 0 (Config.lmsSign q body))) d

/-! ## Firmware -/

/-- The slot that is not running; in recovery mode, where none runs, slot B (R549). -/
def Dev.otherSlot (d : Dev) : Bool := !d.chip.sec.runB

/-- SEC_FW_STATE shows whether a slot verifies (R557). -/
def Dev.judgeSlot (d : Dev) (b : Bool) : Dev :=
  let ok := ((d.flash.slot b).verify d.flash.minSvn).ok
  d.onSec fun x => if b then { x with bValid := ok } else { x with aValid := ok }

/-- FW_WRITE (R549): the first after an activation or a boot erases the slot. -/
def fwWrite (via : Requester) (tag off : Nat) (data : List Byte) (flashOk : Bool) (d : Dev) : Dev :=
  vendor via tag (notFabric via) true (fun d =>
    if 1024 < data.length ∨ 16 * 2 ^ 20 < off + data.length then d.answer tag vsBadReq
    else if !flashOk then d.answer tag vsFlashErr
    else
      let b := d.otherSlot
      let f : FwSlot := if d.chip.sec.erased then d.flash.slot b else {}
      let f : FwSlot := { f with bytes := data.zipIdx.foldl (fun t x => Tab.put 0xFF t (off + x.2) x.1) f.bytes }
      let d : Dev := { d with flash := d.flash.setSlot b f }
      ((d.onSec fun x => { x with erased := true }).judgeSlot b).answer tag vsOk) d

/-- FW_ACTIVATE (R548, R549): a slot that verifies is named by the boot control record, and M restarts from it. -/
def fwActivate (via : Requester) (tag : Nat) (flashOk : Bool) (d : Dev) : Dev :=
  vendor via tag (notFabric via) true (fun d =>
    let b := d.otherSlot
    match (d.flash.slot b).verify d.flash.minSvn with
    | .bad st => d.answer tag st
    | .good _ _ _ =>
      if !flashOk then d.answer tag vsFlashErr
      else
        let d : Dev := { d with flash := d.flash.putBoot b }
        let d := (d.onSec fun x => { x with activating := true }).answer tag vsOk
        if d.chip.boot.recovery then (d.onChip fun c => { c with boot := { c.boot with started := false, recovery := false } }).startFunctions
        else d.mWarm 3) d

/-- FW_COMMIT_SVN (R549): BUSY in recovery mode. -/
def fwCommitSvn (via : Requester) (tag : Nat) (d : Dev) : Dev :=
  if d.chip.boot.recovery ∧ notFabric via ∧ (vfRoom via).isNone then d.answer tag vsBusy
  else vendor via tag (notFabric via) false (fun d =>
    if d.chip.sec.svn ≤ d.flash.minSvn then d.answer tag vsOk
    else if 63 ≤ d.flash.svnBurns then d.answer tag vsExhausted
    else ({ d with flash := { d.flash with minSvn := d.chip.sec.svn, svnBurns := d.flash.svnBurns + 1 } } : Dev).answer tag vsOk) d

/-! ## The owner key -/

/-- A new owner record is written; the key takes effect at the next threshold (R550). -/
def Dev.newOwner (d : Dev) (key : Option (List Byte)) (nonce : Nat) : Dev :=
  ({ d with flash := d.flash.putOwner key nonce } : Dev).onSec fun x => { x with ownerNew := true }

/-- The owner key and nonce in force at a threshold (R550). -/
def Dev.ownerThreshold (d : Dev) : Dev :=
  if !d.chip.sec.ownerNew then d
  else
    let f := d.flash
    (d.onSec fun x => { x with owner := f.owner, nonce := f.nonce, ownerNew := false }).flag F.SEC_INT_STATUS_OWNER_CHANGED

/-- OWNER_ENROL (R550). -/
def ownerEnrol (via : Requester) (tag : Nat) (key : List Byte) (flashOk : Bool) (d : Dev) : Dev :=
  vendor via tag (notFabric via) false (fun d =>
    if key.length ≠ 56 then d.answer tag vsBadReq
    else if d.chip.bit.eng ≠ .idle then d.answer tag vsBusy
    else if d.flash.owner.isSome ∨ d.chip.fld F.SEC_CTL_ENROL_ALLOW = 0 then d.answer tag vsDenied
    else if !flashOk then d.answer tag vsFlashErr
    else (d.newOwner (some key) d.flash.nonce).answer tag vsOk (keyId key)) d

/-- What a transfer signs (R550). -/
def transferMsg (key : List Byte) (nonce : Nat) : List Byte := [0x5A, 0x4F, 0x57, 0x4E] ++ sha256 key ++ leBytes 8 nonce

/-- OWNER_TRANSFER (R550). -/
def ownerTransfer (via : Requester) (tag : Nat) (key sig : List Byte) (flashOk : Bool) (d : Dev) : Dev :=
  vendor via tag (notFabric via) false (fun d =>
    if key.length ≠ 56 then d.answer tag vsBadReq
    else if d.chip.bit.eng ≠ .idle then d.answer tag vsBusy
    else match d.flash.owner with
      | none => d.answer tag vsDenied
      | some cur =>
        if !lmsVerify cur (transferMsg key d.flash.nonce) sig then d.answer tag vsVerifyFail
        else if !flashOk then d.answer tag vsFlashErr
        else (d.newOwner (some key) ((d.flash.nonce + 1) % 2 ^ 64)).answer tag vsOk (keyId key)) d

/-! ## IDE -/

/-- IDE_KM over the Zorwezen DOE protocol (R544, R556): keys are programmed, and with `go` the stream becomes secure. -/
def ideKm (via : Requester) (tag stream : Nat) (keys : List Byte) (go : Bool) (d : Dev) : Dev :=
  vendor via tag (isPf via) false (fun d =>
    if 4 ≤ stream then d.answer tag vsBadReq
    else
      let d := d.onHost fun h => { h with ideKeys := Tab.ins h.ideKeys stream keys }
      let d := if go then d.onSec fun x => { x with
          secure := orBit x.secure stream
          insecure := x.insecure - (x.insecure &&& 2 ^ stream) } else d
      d.answer tag vsOk) d

/-- IDE_FAIL (R556): a secure stream becomes insecure. -/
def ideFail (stream : Nat) (d : Dev) : Dev :=
  if 4 ≤ stream ∨ !bitOf d.chip.sec.secure stream then d
  else
    let d := d.onSec fun x => { x with
      secure := x.secure - (x.secure &&& 2 ^ stream)
      insecure := orBit x.insecure stream }
    (d.log3 clsConfig 0 0).flag F.SEC_INT_STATUS_IDE_FAIL

/-! ## Vendor service -/

/-- VENDOR_SERVICE (R501, R550, R552): what a vendor service command verified under the vendor key does. `op`: 0 removes the entries
of the retire list at the places `places`, 1 removes the owner key, 2 restores the signature counter at `leaf`. -/
def vendorService (via : Requester) (tag op : Nat) (places : List Nat) (leaf : Nat) (msg sig : List Byte) (d : Dev) : Dev :=
  vendor via tag true false (fun d =>
    if !lmsVerify Config.vendorKey msg sig then d.answer tag vsVerifyFail
    else match op with
      | 0 =>
        let l := (d.chip.cal.retire.zipIdx.filter fun x => !places.contains x.2).map fun x => x.1
        (d.onCal fun c => { c with
          retire := l
          retireNew := true
          retireFull := false }).answer tag vsOk
      | 1 => (d.newOwner none d.flash.nonce).answer tag vsOk
      | 2 =>
        let d : Dev := { d with flash := d.flash.putCounter (min leaf (2 ^ 20)) }
        (d.onSec fun x => { x with noCounter := false, leaf := min leaf (2 ^ 20) }).answer tag vsOk
      | _ => d.answer tag vsBadReq) d

/-! ## Command bodies -/

/-- A command body of R544 that a DOE object carries: CMD, TAG, STATUS, a zero byte and the payload; a payload of another length, or
one whose zero bytes are not 0, is malformed. -/
def commandBody (via : Requester) (t : Nat) (flashOk : Bool) (body : List Byte) (s : State) : State :=
  let cmd := leField body 0 1
  let tag := leField body 1 1
  let p := body.drop 4
  let g := s.gate
  let d := s.dev
  let malformed : State := commit s (vendor via tag true false (fun d => d.answer tag vsBadReq) d)
  let sized (n : Nat) (k : Dev → Dev) : State := if p.length = n then commit s (k d) else malformed
  if body.length < 4 then malformed
  else match cmd with
    | 0x01 => sized 0 (getInfo via tag)
    | 0x02 => if leField p 5 3 = 0 then sized 8 (readRegs g via tag (leField p 0 4) (leField p 4 1)) else malformed
    | 0x03 => if p.length = 8 then writeOneReg via tag t (leField p 0 4) (leField p 4 4) s else sized 8 fun d => d
    | 0x04 => sized 0 (getIdentity via tag)
    | 0x05 => sized 32 (getReport g via tag p flashOk)
    | 0x06 =>
      if leField p 6 2 = 0 then sized (8 + leField p 4 2) (fwWrite via tag (leField p 0 4) (p.drop 8) flashOk) else malformed
    | 0x07 => sized 0 (fwActivate via tag flashOk)
    | 0x08 => sized 0 (fwCommitSvn via tag)
    | 0x09 => sized 56 (ownerEnrol via tag p flashOk)
    | 0x0A => commit s (ownerTransfer via tag (p.take 56) (p.drop 56) flashOk d)
    | 0x10 => commit s (ideKm via tag (leField p 0 1) (p.drop 1) true d)
    | _ => malformed

/-- DOE_OBJECT (R555): on the PF's mailbox; discovery gives one protocol and the index of the next, the Zorwezen protocol carries a
command body. An object longer than 4 KiB or of another protocol is discarded. -/
def doeObject (vid type t : Nat) (flashOk : Bool) (body : List Byte) (s : State) : State :=
  if !s.dev.chip.boot.pcie ∨ 4096 < body.length then s
  else if vid = 1 ∧ type = 0 then
    commit s (s.dev.emit (.doe (if leField body 0 1 = 0 then leBytes 2 1 ++ [0, 1] else leBytes 2 0x1DF3 ++ [1, 0])))
  else if vid = 0x1DF3 ∧ type = 1 then commandBody .pf t flashOk body s
  else s

/-! ## The commands -/

/-- A command on a powered module out of module reset, at the level of the whole state. -/
def runsAll (s : State) (k : State → State) : Outcome State Fault Refusal :=
  .next (if s.active then k { s with dev := { s.dev with out := [] } } else s)

/-- LINK_DOWN. -/
def execLinkDown (s : State) : Outcome State Fault Refusal := runs s linkDown

/-- PF_FLR. -/
def execPfFlr (s : State) : Outcome State Fault Refusal := runs s pfFlr

/-- VF_FLR. -/
def execVfFlr (n : Nat) (s : State) : Outcome State Fault Refusal := runs s (vfFlr n)

/-- DMA_COMPLETION. -/
def execDmaCompletion (user q status : Nat) (entry data : List Byte) (s : State) : Outcome State Fault Refusal :=
  runs s (dmaCompletion user q status entry data)

/-- ATS_INVALIDATE. -/
def execAtsInvalidate (fn tag : Nat) (s : State) : Outcome State Fault Refusal := runs s (atsInvalidate fn tag)

/-- MCTP_CONTROL. -/
def execMctpControl (cmd eid : Nat) (s : State) : Outcome State Fault Refusal := runs s (mctpControl cmd eid)

/-- DOE_OBJECT. -/
def execDoeObject (vid type t : Nat) (flashOk : Bool) (body : List Byte) (s : State) : Outcome State Fault Refusal :=
  runsAll s (doeObject vid type t flashOk body)

/-- GET_INFO. -/
def execGetInfo (via : Requester) (tag : Nat) (s : State) : Outcome State Fault Refusal := runs s (getInfo via tag)

/-- READ_REG. -/
def execReadReg (via : Requester) (tag a n : Nat) (s : State) : Outcome State Fault Refusal := runs s (readRegs s.gate via tag a n)

/-- WRITE_REG. -/
def execWriteReg (via : Requester) (tag t a v : Nat) (s : State) : Outcome State Fault Refusal := runsAll s (writeOneReg via tag t a v)

/-- GET_IDENTITY. -/
def execGetIdentity (via : Requester) (tag : Nat) (s : State) : Outcome State Fault Refusal := runs s (getIdentity via tag)

/-- GET_REPORT. -/
def execGetReport (via : Requester) (tag : Nat) (nonce : List Byte) (flashOk : Bool) (s : State) : Outcome State Fault Refusal :=
  runs s (getReport s.gate via tag nonce flashOk)

/-- FW_WRITE. -/
def execFwWrite (via : Requester) (tag off : Nat) (data : List Byte) (flashOk : Bool) (s : State) : Outcome State Fault Refusal :=
  runs s (fwWrite via tag off data flashOk)

/-- FW_ACTIVATE. -/
def execFwActivate (via : Requester) (tag : Nat) (flashOk : Bool) (s : State) : Outcome State Fault Refusal :=
  runs s (fwActivate via tag flashOk)

/-- FW_COMMIT_SVN. -/
def execFwCommitSvn (via : Requester) (tag : Nat) (s : State) : Outcome State Fault Refusal := runs s (fwCommitSvn via tag)

/-- OWNER_ENROL. -/
def execOwnerEnrol (via : Requester) (tag : Nat) (key : List Byte) (flashOk : Bool) (s : State) : Outcome State Fault Refusal :=
  runs s (ownerEnrol via tag key flashOk)

/-- OWNER_TRANSFER. -/
def execOwnerTransfer (via : Requester) (tag : Nat) (key sig : List Byte) (flashOk : Bool) (s : State) : Outcome State Fault Refusal :=
  runs s (ownerTransfer via tag key sig flashOk)

/-- IDE_KM. -/
def execIdeKm (via : Requester) (tag stream : Nat) (keys : List Byte) (go : Bool) (s : State) : Outcome State Fault Refusal :=
  runs s (ideKm via tag stream keys go)

/-- IDE_FAIL. -/
def execIdeFail (stream : Nat) (s : State) : Outcome State Fault Refusal := runs s (ideFail stream)

/-- PCIE_LINK_UP. -/
def execPcieLinkUp (s : State) : Outcome State Fault Refusal := runs s pcieUp

/-- VF_ENABLE. -/
def execVfEnable (en : Bool) (n d3 ats bar2 vfBar2 : Nat) (s : State) : Outcome State Fault Refusal :=
  runs s (vfEnable en n d3 ats bar2 vfBar2)

/-- VENDOR_SERVICE. -/
def execVendorService (via : Requester) (tag op : Nat) (places : List Nat) (leaf : Nat) (msg sig : List Byte) (s : State) :
    Outcome State Fault Refusal := runs s (vendorService via tag op places leaf msg sig)

end Sys2Proof.Machine
end

