-- ==== Sys2Proof/Machine/PowerCap.lean ====
section
/-! DEFINITION. The power-cap controller (R448, R454, R459 to R465, R477) and the slew governor (R253, R254, R462): what they predict, the
frequencies that they fix, idle frames, ballast. Powers are in mW, plans in 0.1 W, frequencies in units of 10 MHz (log 131). -/

namespace Sys2Proof.Machine

/-- The sum of a list. -/
def sumOf (l : List Nat) : Nat := l.foldl (· + ·) 0

/-- The highest number from `lo` to `hi` at which `p` holds, where it holds up to some number and no further; `lo` at least. -/
def climb (p : Nat → Bool) (lo hi : Nat) : Nat :=
  [128, 64, 32, 16, 8, 4, 2, 1].foldl (fun x b => if x + b ≤ hi ∧ p (x + b) then x + b else x) lo

/-! ## What is predicted -/

/-- The nominal voltage-frequency curve, as (10 MHz, mV) (R448). -/
def nominalCurve : List (Nat × Nat) :=
  [(80, 550), (100, 600), (120, 650), (140, 700), (160, 750), (180, 800), (190, 820), (200, 850), (220, 900)]

/-- The voltage of a curve at a frequency, in a straight line between its points. -/
def onCurve : List (Nat × Nat) → Nat → Nat
  | (f0, v0) :: (f1, v1) :: rest, f => if f ≤ f0 then v0 else if f ≤ f1 then v0 + (v1 - v0) * (f - f0) / (f1 - f0) else onCurve ((f1, v1) :: rest) f
  | [(_, v)], _ => v
  | [], _ => 0

/-- The rail setpoint of a row region at a frequency, in mV (R448). -/
def Dev.railMv (d : Dev) (row f : Nat) : Nat := onCurve (Tab.get nominalCurve d.calFlash.curves row) f

/-- The activity that a ledger entry starts from (R460): the image's hint for the room's rows on the tower, or 96 W at 1.9 GHz. -/
def Image.firstAct (i : Image) (slot phase tower : Nat) : Nat :=
  match i.hints.find? fun h => h.1 = slot && h.2.1 = phase && h.2.2.1 = tower with
  | some h => activityOf h.2.2.2 * 16 / max 1 (i.rows.filter fun w => w / 16 = tower).length
  | none => activityOf 96

/-- The activity of a room's phase on a tower (R460). -/
def Chip.actOf (c : Chip) (i : Image) (r slot phase tower : Nat) : Nat :=
  match c.pwr.ledger.find? fun e => e.isFor r slot phase tower with
  | some e => e.act
  | none => i.firstAct slot phase tower

/-- A tower's static power at the band of its compute die, as the ledger has it (R460); at another band where none is learned for it. -/
def Chip.statOf (c : Chip) (tower : Nat) : Nat :=
  match c.pwr.ledger.find? fun e => e.tower = tower with
  | some e => (Tab.find e.stat (c.dieBand (tower * 32))).getD ((e.stat.head?.map Prod.snd).getD 0)
  | none => 0

/-- The phases that rooms run in a frame, as (room, slot, phase). -/
def Chip.phases (c : Chip) (held : Nat → Bool) : List (Nat × Nat × Nat) :=
  c.loadedRooms.filterMap fun r =>
    let m := c.room r
    if m.steps (held r) ∧ m.run.role = 0 then some (r, m.run.slot, m.run.phase) else none

/-- A row of a loaded room as the controller weighs it: its activity in a frame, its part of the tower's static power, the required and the
maximum frequency, and the frequency it has. -/
structure RowPlan where
  row : Nat
  room : Nat
  tower : Nat
  act : Nat
  base : Nat
  req : Nat
  fmax : Nat
  freq : Nat
deriving DecidableEq, Repr

/-- A frequency kept between a row's required and its maximum one (R449, R450). -/
def RowPlan.at (p : RowPlan) (f : Nat) : Nat := max p.req (min p.fmax f)

/-- The rows of the loaded rooms in a frame that runs the phases `ps`, at frequencies `freq`. -/
def Chip.rowPlans (c : Chip) (freq : Nat → Nat) (ps : List (Nat × Nat × Nat)) : List RowPlan :=
  c.loadedRooms.flatMap fun r =>
    match c.image r with
    | some i => i.towers.flatMap fun t =>
        let act := match ps.find? fun x => x.1 = r with
          | some x => c.actOf i r x.2.1 x.2.2 t
          | none => 0
        let base := c.statOf t / 16
        (i.rows.filter fun w => w / 16 = t).map fun w => { row := w, room := r, tower := t, act, base, req := c.freqReq w, fmax := c.fmaxRow w, freq := freq w }
    | none => []

/-- The dynamic power of a row at a frequency: a·f·V² (R460). -/
def Dev.rowMw (d : Dev) (p : RowPlan) (f : Nat) : Nat := p.act * f * (d.railMv p.row f * d.railMv p.row f) / 100000000

/-- The frequency that a row is to have in frame `m`, or `j` frames after it (R454). -/
def Chip.freqAt (c : Chip) (m w : Nat) : Nat → Nat
  | 0 =>
    let x := Tab.get {} c.pwr.rows w
    if 0 < c.pwr.idleK then c.freqReq w else max (c.freqReq w) (min (c.fmaxRow w) (((x.next.find? fun p => p.2 = m).map Prod.fst).getD x.freq))
  | j + 1 => (((Tab.get {} c.pwr.rows w : RowClk).next.find? fun p => p.2 = (List.range (j + 1)).foldl (fun n _ => nextFrame n) m).map Prod.fst).getD
      (c.freqAt m w j)

/-- Each tower's predicted power in a frame `j` frames after `m` that runs the phases `ps`, as (room, tower, 0.1 W); 16 for the static
power (R460). -/
def Dev.planFor (d : Dev) (m j : Nat) (ps : List (Nat × Nat × Nat)) : List (Nat × Nat × Nat) :=
  let rs := d.chip.rowPlans (fun w => d.chip.freqAt m w (min j 2)) ps
  (ps.flatMap fun x => (List.range 8).map fun t =>
      (x.1, t, sumOf ((rs.filter fun p => p.room = x.1 && p.tower = t).map fun p => d.rowMw p p.freq) / 100))
    ++ (List.range 8).map fun t => (16, t, d.chip.statOf t / 100)

/-! ## What is foreseen -/

/-- What the rooms that run do at the next threshold, as pending switches, switch points, NEXT_PHASE and start sequences have it (R461). -/
def Dev.walk (d : Dev) : Dev :=
  (d.chip.loadedRooms.filter fun r => (d.chip.room r).steps false).foldl (fun d r =>
    roomStep6 {} (d.onRoom r fun m => { m with run := { m.run with ran := true } }) r) d

/-- Frame `m` is one of the last 8k of its cycle (R464). -/
def Chip.idleSlot (c : Chip) (m : Nat) : Bool := decide (64 ≤ m % 64 + 8 * c.pwr.idleK)

/-- The frames after `m`, each with whether it is an idle frame and the phases of the rooms; `ran`: the rooms run in frame `m`. -/
def Dev.lookAhead (d : Dev) (m : Nat) (ran : Bool) : Nat → List (Bool × List (Nat × Nat × Nat))
  | 0 => []
  | n + 1 =>
    let d := if ran then d.walk else d
    let idle := d.chip.idleSlot (nextFrame m)
    (idle, d.chip.phases fun _ => false) :: d.lookAhead (nextFrame m) (!idle) n

/-! ## The limit -/

/-- A tower's ceiling in its throttle episode, in mW (R476, R477). -/
def Chip.towerCeil (c : Chip) (t : Nat) : Option Nat :=
  let e := Tab.get {} c.thm.episodes t
  if e.active then some (e.ceil * 100) else none

/-! ## Idle cycles -/

/-- The mean over a cycle of a tower that draws `run` in running and `rest` in idle frames, `idle` of them, with the ballast ramps at both
ends of the idle run (R462, R464). -/
def cycleMean (run rest rise fall idle : Nat) : Nat :=
  ((64 - idle) * run + sumOf ((List.range idle).map fun i => max rest (max (run - fall * (i + 1)) (run - rise * (idle - i))))) / 64

/-- A tower's predicted mean over a cycle at level `k` with its rows at their required frequency (R464). -/
def Dev.cycleTower (d : Dev) (rs : List RowPlan) (k t : Nat) : Nat :=
  let rest := d.chip.statOf t
  cycleMean (rest + sumOf ((rs.filter fun p => p.tower = t).map fun p => d.rowMw p p.req)) rest
    (1000 * d.chip.fld F.HALL_SLEW_RISE) (1000 * d.chip.fld F.HALL_SLEW_FALL) (8 * k)

/-- The module's predicted mean over a cycle at level `k` (R460, R464). -/
def Dev.cycleAll (d : Dev) (rs : List RowPlan) (k : Nat) : Nat :=
  sumOf ((List.range 8).map (d.cycleTower rs k)) + ((64 - 8 * k) * d.chip.pwr.outRun.getD 0 + 8 * k * d.chip.pwr.outIdle.getD 0) / 64

/-- At level `k` the limit and every tower's ceiling are predicted to be kept (R464, R477). -/
def Dev.levelFits (d : Dev) (rs : List RowPlan) (k : Nat) : Bool :=
  decide (d.cycleAll rs k ≤ 1000 * d.chip.limit)
    && (List.range 8).all fun t => (d.chip.towerCeil t).all fun w => decide (d.cycleTower rs k t ≤ w)

/-- A mean power in mW of so much energy over so many ns. -/
def meanMw (nj ns : Nat) : Nat := nj * 1000 / ns

/-- The mean of a meter over the last `ns` ns, or since the first mark where that is later (R469, R476). -/
def Chip.meanOver (c : Chip) (f : PowMark → Nat) (ns : Nat) : Nat :=
  match c.pwr.marks with
  | [] => 0
  | x :: _ =>
    let old := (c.pwr.marks.find? fun y => decide (y.time + ns ≤ x.time)).getD (c.pwr.marks.getLastD x)
    meanMw (f x - f old) (x.time - old.time)

/-- A 1 ms mean of input power of `mean` mW is above the limit, or a tower's measured one above its ceiling (R465, R477). -/
def Chip.overBy (c : Chip) (mean : Nat) : Bool :=
  decide (1000 * c.limit < mean)
    || (List.range 8).any fun t => (c.towerCeil t).any fun w => decide (w < c.meanOver (fun x => Tab.get 0 x.towers t) 1000000)

/-- IDLE_CYCLE_START (R464, R465), in the last frame of a cycle: the lowest level whose prediction is within the limit; 7 where none is, or
where the measured 1 ms mean was above it for a whole cycle at 7, and until a cycle's measured mean is within it. `nj` and `ns`: input energy
and time of the running frame up to the choice; `mean`: the 1 ms mean then. -/
def idleCycle (nj ns mean : Nat) (d : Dev) : Dev :=
  let c := d.chip
  if nextFrame c.frm.cur % 64 ≠ 0 ∨ c.pwr.kNext.isSome then d
  else
    let ps := ((d.lookAhead c.frm.cur (!c.frm.idle) 1).head?.map Prod.snd).getD []
    let rs := c.rowPlans c.freqReq ps
    let un := !d.levelFits rs 7 || (c.pwr.idleK = 7 && c.pwr.aboveAll && c.overBy mean)
    let stays := un || (c.pwr.capUn && decide (c.limit * (c.pwr.cycleNs + ns) < c.pwr.cycleNj + nj))
    let k := if stays then 7 else ((List.range 8).find? fun k => d.levelFits rs k).getD 7
    d.onPwr fun p => { p with kNext := some (k, stays), floor0 := d.cycleAll rs 0 / 1000, floor7 := d.cycleAll rs 7 / 1000 }

/-- A cycle begins: the level chosen takes effect, and its measurements begin (R464, R465). -/
def Dev.idleBegin (d : Dev) (m : Nat) : Dev :=
  if m % 64 ≠ 0 then d
  else
    let d := d.onPwr fun p => { p with cycleNj := 0, cycleNs := 0, aboveAll := true }
    match d.chip.pwr.kNext with
    | none => d
    | some (k, un) =>
      let was := d.chip.pwr
      let d := d.onPwr fun p => { p with idleK := k, capUn := un, kNext := none }
      let d := if was.idleK ≠ k then d.flag F.PWR_INT_STATUS_IDLE_CHANGE else d
      if un && !was.capUn then (d.flag F.PWR_INT_STATUS_CAP_UNATTAINABLE).log3 clsPower 0 0
      else if was.capUn && !un then d.flag F.PWR_INT_STATUS_CAP_MET
      else d

/-! ## Sharing the budget -/

/-- The level up to which a tower's rows may go under its ceiling (R477). -/
def Dev.ceilLevel (d : Dev) (rs : List RowPlan) (t : Nat) : Nat :=
  match d.chip.towerCeil t with
  | some w => climb (fun x => decide (d.chip.statOf t + sumOf ((rs.filter fun p => p.tower = t).map fun p => d.rowMw p (p.at x)) ≤ w)) 80 220
  | none => 220

/-- A room's predicted share with its rows at level `x`, within the towers' levels `cap` (R461). -/
def Dev.roomMw (d : Dev) (rs : List RowPlan) (cap : List Nat) (r x : Nat) : Nat :=
  sumOf ((rs.filter fun p => p.room = r).map fun p => p.base + d.rowMw p (p.at (min x (cap.getD p.tower 220))))

/-- Step 2 of R461 for one room: the lowest level at which its share reaches its MIN_W, within what is left of the budget. -/
def Dev.raiseMin (d : Dev) (rs : List RowPlan) (cap : List Nat) (acc : Tab Nat × Nat) (r : Nat) : Tab Nat × Nat :=
  let share := d.roomMw rs cap r
  let least := 1000 * ((d.chip.image r).map Image.minW).getD 0
  let goal := if least ≤ share 80 then 80 else min 220 (climb (fun x => decide (share x < least)) 80 220 + 1)
  let x := climb (fun x => decide (share x - share 80 ≤ acc.2)) 80 goal
  (Tab.ins acc.1 r x, acc.2 - (share x - share 80))

/-- Step 3 of R461 for the rooms of one priority: what is left is given in proportion to what each could still use up to its MAX_W. -/
def Dev.raiseMore (d : Dev) (rs : List RowPlan) (cap : List Nat) (rooms : List Nat) (acc : Tab Nat × Nat) (priority : Nat) : Tab Nat × Nat :=
  let mine := rooms.filter fun r => ((d.chip.image r).map Image.priority).getD 0 = priority
  let want := mine.map fun r =>
    let x := Tab.get 80 acc.1 r
    let most := 1000 * ((d.chip.image r).map Image.maxW).getD 1500
    let top := climb (fun y => decide (d.roomMw rs cap r y ≤ most)) x 220
    (r, x, top, d.roomMw rs cap r top - d.roomMw rs cap r x)
  let sum := sumOf (want.map fun w => w.2.2.2)
  want.foldl (fun a w =>
    let give := if sum ≤ acc.2 then w.2.2.2 else w.2.2.2 * acc.2 / sum
    let now := d.roomMw rs cap w.1 w.2.1
    let x := climb (fun y => decide (d.roomMw rs cap w.1 y ≤ now + give)) w.2.1 w.2.2.1
    (Tab.ins a.1 w.1 x, a.2 - (d.roomMw rs cap w.1 x - now))) acc

/-- The tower budget (R459, R461): the limit less 2 %, less the power outside the towers, less what the last frame drew beyond it. -/
def Chip.budget (c : Chip) : Nat := c.limit * 980 - c.pwr.outRun.getD 0 - (c.pwr.frameMw - c.limit * 980)

/-- The levels of the rooms that run (R461); none is above its required frequencies where the prediction at those exceeds the budget. -/
def Dev.levels (d : Dev) (rs : List RowPlan) (cap : List Nat) (rooms : List Nat) : Tab Nat :=
  let floor := sumOf ((List.range 8).map d.chip.statOf) + sumOf (rs.map fun p => d.rowMw p p.req)
  if d.chip.budget < floor ∨ 0 < d.chip.pwr.idleK then []
  else
    let low := rooms.foldl (d.raiseMin rs cap) ([], d.chip.budget - floor)
    ([7, 6, 5, 4, 3, 2, 1, 0].foldl (d.raiseMore rs cap rooms) low).1

/-! ## Fixing frequencies -/

/-- How far a row's frequency may go towards `goal` in one frame: its rail moves by at most 50 mV (R454). -/
def Dev.railStep (d : Dev) (p : RowPlan) (goal : Nat) : Nat :=
  let v := d.railMv p.row
  if p.freq ≤ goal then climb (fun x => decide (v x ≤ v p.freq + 50)) p.freq goal
  else p.freq - climb (fun k => decide (v p.freq ≤ v (p.freq - k) + 50)) 0 (p.freq - goal)

/-- A step of at most `n` from one frequency towards another. -/
def towards (old goal n : Nat) : Nat := if old ≤ goal then min goal (old + n) else max goal (old - n)

/-- A tower's rows go as far towards their goals as its predicted power may change in one frame (R454, R462). -/
def Dev.towerStep (d : Dev) (goals : List (RowPlan × Nat)) : List (RowPlan × Nat) :=
  let power (n : Nat) : Nat := sumOf (goals.map fun g => d.rowMw g.1 (towards g.1.freq g.2 n))
  let n := climb (fun n => decide (power n ≤ power 0 + 1000 * d.chip.fld F.HALL_SLEW_RISE) && decide (power 0 ≤ power n + 1000 * d.chip.fld F.HALL_SLEW_FALL)) 0 140
  goals.map fun g => (g.1, max g.1.req (towards g.1.freq g.2 n))

/-- The controller at threshold `m`: the changes of frequency that take effect two thresholds on, for the phases of that frame (R454, R461). -/
def Dev.fixFreqs (d : Dev) (m : Nat) : Dev :=
  let c := d.chip
  if c.loadedRooms.isEmpty then d
  else
    let ps := ((d.lookAhead m (!c.frm.idle) 2).getLast?.map Prod.snd).getD []
    let rs := c.rowPlans (fun w => c.freqAt m w 1) ps
    let cap := (List.range 8).map (d.ceilLevel rs)
    let levels := d.levels rs cap (ps.map Prod.fst)
    let goal (p : RowPlan) : Nat := d.railStep p (p.at (min (Tab.get 80 levels p.room) (cap.getD p.tower 220)))
    let fixed := (List.range 8).flatMap fun t => d.towerStep ((rs.filter fun p => p.tower = t).map fun p => (p, goal p))
    fixed.foldl (fun d x => if x.2 = x.1.freq then d else
      d.onRowClk x.1.row fun y => { y with next := y.next ++ [(x.2, nextFrame (nextFrame m))] }) d

/-! ## The slew governor -/

/-- What of a plan falls on a tower, in 0.1 W. -/
def planOn (plan : List (Nat × Nat × Nat)) (t : Nat) : Nat := sumOf ((plan.filter fun x => x.2.1 = t).map fun x => x.2.2)

/-- What of a plan falls on a tower for a room. -/
def shareOn (plan : List (Nat × Nat × Nat)) (t r : Nat) : Nat := planOn (plan.filter fun x => x.1 = r) t

/-- What the governor decides for a tower: its level in 0.1 W, the rooms that it holds, the rooms whose change causes its ballast. -/
structure Governed where
  level : Nat := 0
  held : List Nat := []
  causes : List Nat := []
deriving DecidableEq, Repr

/-- The slew governor for a tower in the frame that begins (R254, R462); `ahead` are the plans of the frames after it. Ballast makes up a fall
beyond FALL, climbs RISE per frame towards a rise that is foreseen, and climbs RISE while the rooms whose share of the plan grows are held. -/
def Chip.governTower (c : Chip) (plan : List (Nat × Nat × Nat)) (ahead : List (List (Nat × Nat × Nat))) (t : Nat) : Governed :=
  let now := planOn plan t
  match Tab.find c.pwr.towers t with
  | none => { level := now }
  | some x =>
    let rise := 10 * c.fld F.HALL_SLEW_RISE
    let fall := 10 * c.fld F.HALL_SLEW_FALL
    let rooms (p : Nat → Bool) : List Nat := (List.range 16).filter p
    if x.power + rise < now then
      let grow := rooms fun r => decide (shareOn c.pwr.plan t r < shareOn plan t r)
      { level := x.power + rise, held := grow, causes := grow }
    else
      let seen := (ahead.zipIdx.map fun a => planOn a.1 t - (a.2 + 1) * rise).foldl max 0
      let low := max now (x.power - fall)
      let level := max low (min seen (x.power + rise))
      let fell := rooms fun r => decide (shareOn plan t r < shareOn c.pwr.plan t r)
      { level, causes :=
          if level = now then []
          else if low < level then rooms fun r => ahead.any fun a => decide (shareOn plan t r < shareOn a t r)
          else if fell.isEmpty then Tab.get [] c.pwr.causes t else fell }

/-- The slew governor acts on the plan of the frame `m` that begins and of those that it foresees (R253, R254, R462); a frame that it holds for
some room is counted. `held` says which rooms the frame is a hold frame for, but for the governor. -/
def Dev.slewGovern (d : Dev) (m : Nat) (held : Chip → Nat → Bool) : Dev :=
  let d := d.onPwr fun p => { p with slewHeld := [] }
  let plan := d.planFor m 0 (d.chip.phases (held d.chip))
  let ahead := if d.chip.pwr.towers.isEmpty then []
    else (d.lookAhead m (!d.chip.frm.idle) 16).zipIdx.map fun x => d.planFor m (x.2 + 1) (if x.1.1 then [] else x.1.2)
  let g := (List.range 8).map fun t => (t, d.chip.governTower plan ahead t)
  let stop := (List.range 16).filter fun r => g.any fun x => r ∈ x.2.held
  let old (t : Nat) : Nat := (Tab.get {} d.chip.pwr.towers t : TowPow).power
  let d := d.onPwr fun p => { p with
    plan
    level := g.foldl (fun l x => Tab.put 0 l x.1 x.2.level) []
    rise := g.foldl (fun l x => Tab.put 0 l x.1 ((x.2.level : Int) - old x.1)) []
    causes := g.foldl (fun l x => Tab.put [] l x.1 x.2.causes) []
    slewHeld := stop }
  if stop.isEmpty then d else (d.count F.PWR_SLEW_HOLDS).flag F.PWR_INT_STATUS_SLEW_HOLD

/-- In a safe frame each tower tile runs ballast so that its tower falls by no more than FALL (R521). -/
def Dev.tileBallast (d : Dev) : Dev :=
  let fall := 10 * d.chip.fld F.HALL_SLEW_FALL
  let down (t x : Nat) : Nat := max (min x (d.chip.statOf t / 100)) (x - fall)
  d.onPwr fun p => { p with
    plan := []
    slewHeld := []
    level := Tab.mapAll 0 p.level down
    towers := Tab.mapAll {} p.towers fun t x => { x with power := down t x.power } }

open Host

/-- IDLE_CYCLE_START (R464). -/
def execIdleCycleStart (nj ns mean : Nat) (s : State) : Outcome State Fault Refusal := runs s (idleCycle nj ns mean)

end Sys2Proof.Machine
end

