-- ==== Sys2Proof/Machine/Energy.lean ====
section
/-! DEFINITION. What the meters say of a frame (R256, R460, R465, R466, R469): powers and their means, energy accounts, what the ledger
learns. Energies are in nJ, powers in mW unless a name says otherwise. -/

namespace Sys2Proof.Machine

/-- What a list of meters says of one of its consumers. -/
def meterOf (l : List (Nat × Nat)) (k : Nat) : Nat := sumOf ((l.filter fun x => x.1 = k).map Prod.snd)

/-- The rails of a tower: its rows' and its SRAM's. -/
def towerNj (x : Meters) (t : Nat) : Nat := sumOf ((x.rows.filter fun r => r.1 / 16 = t).map Prod.snd) + meterOf x.sram t

/-- The towers that have meters. -/
def meteredTowers (x : Meters) : List Nat := (List.range 8).filter fun t => x.rows.any (fun r => r.1 / 16 = t) || x.sram.any fun r => r.1 = t

/-! ## Powers -/

/-- The meters at the end of the frame join the marks of the last 10 ms, which begin with the first frame's start. -/
def Dev.markMeters (d : Dev) (x : Meters) : Dev :=
  d.onPwr fun p =>
    let marks := if p.marks.isEmpty then [{ time := d.chip.frm.time }] else p.marks
    let last := marks.headD {}
    let new : PowMark := { time := d.chip.endTime, input := last.input + x.total,
                           towers := (List.range 8).foldl (fun l t => Tab.put 0 l t (Tab.get 0 last.towers t + towerNj x t)) [] }
    let inside (y : PowMark) : Bool := decide (new.time < y.time + 10000000)
    { p with marks := new :: if d.chip.frm.cur % 64 = 63 then marks.takeWhile inside ++ (marks.dropWhile inside).take 1 else marks }

/-- A tower's power has changed from one frame to the next by more than 125 % of RISE or FALL; powers in 0.1 W (R256). -/
def Chip.slewExceeds (c : Chip) (old new : Nat) : Bool :=
  decide (50 * c.fld F.HALL_SLEW_RISE + 4 * old < 4 * new) || decide (50 * c.fld F.HALL_SLEW_FALL + 4 * new < 4 * old)

/-- A tower's measured power change is held against the slew limits; an excess is counted and logged (R256; log 123). -/
def Dev.slewCheck (d : Dev) (x : Nat × Nat) : Dev :=
  match Tab.find d.chip.pwr.towers x.1 with
  | some old => if d.chip.slewExceeds old.power x.2 then (d.count F.HALL_SLEW_EXCEED).log3 clsPower 12 (0x900 + x.1) else d
  | none => d

/-- Power outside the towers is learned, apart for running and idle frames (R460). -/
def Dev.learnOutside (d : Dev) (w : Nat) : Dev :=
  let shift := d.chip.fld F.PWR_LEDGER_CTL_SHIFT
  let new (old : Option Nat) : Option Nat := some (learn shift (old.getD w) w)
  d.onPwr fun p => if d.chip.frm.idle then { p with outIdle := new p.outIdle } else { p with outRun := new p.outRun }

/-- The meters of the frame that ends (R256, R459, R465, R469): input power and its means, tower powers, ballast, idle frames. -/
def Dev.powerFrame (d : Dev) (x : Meters) : Dev :=
  let ns := d.chip.frameNs
  let towers := (meteredTowers x).map fun t => (t, towerNj x t * 10 / ns)
  let d := (towers.foldl Dev.slewCheck d).markMeters x
  let d := d.onPwr fun p => { p with
    frameMw := meanMw x.total ns
    input := d.chip.meanOver PowMark.input 1000000
    towers := towers.foldl (fun l y => Tab.ins l y.1 { power := y.2, ballast := min 255 (meterOf x.ballast y.1 / ns) }) p.towers
    cycleNj := p.cycleNj + x.total
    cycleNs := p.cycleNs + ns
    capFrames := if p.capUn then satAdd 32 p.capFrames 1 else p.capFrames }
  let d := d.onPwr fun p => { p with aboveAll := p.aboveAll && d.chip.overBy d.chip.pwr.input }
  let d := d.learnOutside (meanMw (x.total - sumOf ((List.range 8).map (towerNj x))) ns)
  if d.chip.frm.idle then d.count F.PWR_IDLE_FRAMES else d

/-! ## Accounts -/

/-- Divide an amount among parties in proportion to their parts; what no part takes, or all where there is none, goes to the module account,
16 (log 132). -/
def divide (amount : Nat) (parts : List (Nat × Nat)) : List (Nat × Nat) :=
  let sum := sumOf (parts.map Prod.snd)
  if sum = 0 then [(16, amount)] else parts.map fun p => (p.1, amount * p.2 / sum)

/-- The room of a row; 16 for a free row. -/
def Chip.rowAccount (c : Chip) (w : Nat) : Nat := (c.row w).room.getD 16

/-- What a row's rail takes without the ballast of its tower. -/
def rowNet (x : Meters) (row nj : Nat) : Nat :=
  let all := sumOf ((x.rows.filter fun r => r.1 / 16 = row / 16).map Prod.snd)
  nj - nj * meterOf x.ballast (row / 16) / max 1 all

/-- A stack's rails: by line accesses to the slices of rooms, each at the energy of an access, and the remainder by slices held (R466). -/
def Chip.stackShares (c : Chip) (k nj : Nat) : List (Nat × Nat) :=
  let slices := (List.range 64).map (k * 64 + ·)
  let owner (s : Nat) : Nat := (c.sliceRoom s).getD 16
  let uses := slices.map fun s => (owner s, Tab.get 0 c.cel.uses s)
  let dynamic := min nj (sumOf (uses.map Prod.snd) * Config.lineNj)
  (if dynamic = 0 then [] else divide dynamic uses) ++ divide (nj - dynamic) (slices.map fun s => (owner s, 1))

/-- The slots that the rooms' steps scheduled in the frame, and the idle ones (R466). -/
def Chip.slotShares (c : Chip) : List (Nat × Nat) :=
  let used := c.loadedRooms.map fun r => (r, ((c.roomStep r).map fun t => sumOf (t.runs.map RunE.count)).getD 0)
  (16, nBundles * 16 * c.slots - sumOf (used.map Prod.snd)) :: used

/-- The bytes that a porch die handled, by room, transit for the module (R466). -/
def Chip.byteShares (c : Chip) (die : Nat) : List (Nat × Nat) := (List.range 17).map fun r => (r, Tab.get 0 c.jil.bytes (die * 32 + r))

/-- What the consumers of R466's table took in the frame, by the account that each is charged to. -/
def Chip.charges (c : Chip) (x : Meters) : List (Nat × Nat) :=
  (x.rows.map fun r => (c.rowAccount r.1, rowNet x r.1 r.2))
    ++ (x.sram.flatMap fun s => divide s.2 ((x.ports.filter fun p => p.1 / 16 = s.1).map fun p => (c.rowAccount p.1, p.2)))
    ++ (x.cubes.flatMap fun s => c.stackShares s.1 s.2)
    ++ divide x.hall c.slotShares
    ++ (x.porch.flatMap fun s => divide s.2 (c.byteShares s.1))
    ++ x.ballast.flatMap fun s => divide s.2 ((Tab.get [] c.pwr.causes s.1).map fun r => (r, 1))

/-- The energy of the frame that ends is charged (R466, R469): what the meters of the consumers do not show falls on the accounts in
proportion to what they do. `alloc`: the tower power allocated to each room, in W. -/
def Dev.charge (d : Dev) (x : Meters) : Dev :=
  let c := d.chip
  let direct := c.charges x
  let sum := sumOf (direct.map Prod.snd)
  let energy (r : Nat) : Nat := if sum = 0 then 0 else meterOf direct r * x.total / sum
  let rs := c.rowPlans c.freq (c.phases fun _ => false)
  let alloc (r : Nat) : Nat := sumOf ((rs.filter fun p => p.room = r).map fun p => p.base + d.rowMw p p.freq) / 1000
  let d := d.onPwr fun p => { p with
    energy := p.energy + x.total
    own := p.own + (x.total - sumOf ((List.range 16).map energy))
    accounts := (List.range 16).foldl (fun a r => Tab.upd {} a r fun y => { y with
      total := y.total + energy r
      job := y.job + energy r
      jobFrames := satAdd 32 y.jobFrames 1
      alloc := alloc r }) p.accounts }
  d.onChip fun c => { c with cel := { c.cel with uses := [] }, jil := { c.jil with bytes := [] } }

/-! ## The ledger -/

/-- An entry is created when a phase first runs on a tower; a full ledger replaces the entry unused for longest (R460). -/
def ledgerTouch (c : Chip) (i : Image) (r slot phase tower : Nat) (l : List LedgerE) : List LedgerE :=
  if l.any fun e => e.isFor r slot phase tower then
    l.map fun e => if e.isFor r slot phase tower then { e with used := c.frm.cur } else e
  else
    let stat := ((l.find? fun e => e.tower = tower).map LedgerE.stat).getD []
    let e : LedgerE := { room := r, slot, phase, tower, act := i.firstAct slot phase tower, stat, used := c.frm.cur }
    let oldest := l.foldl (fun (m : Option LedgerE) x => match m with
      | some y => if frameLater y.used x.used then some x else some y
      | none => some x) none
    let l := if l.length < 4096 then l else l.filter fun x => some x ≠ oldest
    l ++ [e]

/-- The activity that the meters show for a room on a tower, in mW per GHz·V²: its rows' part of what the tower drew beyond its static power and
its ballast (R460); none where its rows take nothing. -/
def Dev.measuredAct (d : Dev) (x : Meters) (rs : List RowPlan) (r t : Nat) : Option Nat :=
  let ns := d.chip.frameNs
  let mine := rs.filter fun p => p.room = r && p.tower = t
  let fv := sumOf (mine.map fun p => p.freq * (d.railMv p.row p.freq * d.railMv p.row p.freq))
  let rows (ok : Nat → Bool) : Nat := sumOf ((x.rows.filter fun y => y.1 / 16 = t && ok y.1).map Prod.snd)
  let dynamic := meanMw (towerNj x t - meterOf x.ballast t) ns - d.chip.statOf t
  if fv = 0 ∨ rows (fun _ => true) = 0 then none
  else some (dynamic * rows (fun w => mine.any fun p => p.row = w) * 100000000 / (rows (fun _ => true) * fv))

/-- The ledger at the end of a frame (R460): entries of the phases that ran, with what the meters teach of their activity; the static power of
the towers on which nothing ran. -/
def Dev.ledgerFrame (d : Dev) (x : Meters) : Dev :=
  let c := d.chip
  let shift := c.fld F.PWR_LEDGER_CTL_SHIFT
  let ps := (c.phases fun r => (c.room r).hold)
  let rs := c.rowPlans c.freq ps
  let ran (t : Nat) : Bool := rs.any fun p => p.tower = t && ps.any fun y => y.1 = p.room
  let l := ps.foldl (fun l y => match c.image y.1 with
    | some i => i.towers.foldl (fun l t => ledgerTouch c i y.1 y.2.1 y.2.2 t l) l
    | none => l) c.pwr.ledger
  let l := l.map fun e =>
    if !(meteredTowers x).contains e.tower then e
    else if (ps.contains (e.room, e.slot, e.phase)) then
      match d.measuredAct x rs e.room e.tower with
      | some a => { e with act := learn shift e.act a }
      | none => e
    else if ran e.tower then e
    else
      let w := meanMw (towerNj x e.tower - meterOf x.ballast e.tower) c.frameNs
      let b := c.dieBand (e.tower * 32)
      { e with stat := Tab.put 0 e.stat b (learn shift ((Tab.find e.stat b).getD w) w) }
  d.onPwr fun p => { p with ledger := l }

end Sys2Proof.Machine
end

