-- ==== Sys2Proof/Machine/Publish.lean ====
section
/-! DEFINITION. Publication (R54, R55): the committed chip, the events and counts of the frame, watermarks, the messages
that follow (R540). -/

namespace Sys2Proof.Machine

/-! ## W1C bits, counts, watermarks -/

/-- The register row of a key. -/
def keyRow (key : Nat) : Option RegRow := (regAt (key % 2 ^ 26)).map Prod.fst

/-- The bits of a register that are write-1-to-clear, and those that are write-1-to-set. -/
def w1cOf (key : Nat) : Nat := ((keyRow key).map RegRow.w1c).getD 0
/-- The write-1-to-set bits of a register. -/
def w1sOf (key : Nat) : Nat := ((keyRow key).map RegRow.w1s).getD 0
/-- The read/write bits of a register. -/
def rwOf (key : Nat) : Nat := ((keyRow key).map RegRow.rw).getD 0

/-- Events and counts of registers that were reset leave what is published (R52, R514). -/
def Dev.dropGone (d : Dev) (mine : Nat → Bool) : Dev :=
  { d with
    pubEv := Tab.keep d.pubEv fun k => !(mine k && d.dropEv.contains k)
    pubCnt := Tab.keep d.pubCnt fun k => !(mine (k / 32) && d.dropCnt.contains k)
    dropEv := d.dropEv.filter fun k => !mine k
    dropCnt := d.dropCnt.filter fun k => !mine (k / 32) }

/-- A staged write falls due at threshold `m`, or was left over by frames that a takeover lost (R56). -/
def Staged.isDue (x : Staged) (m : Nat) : Bool := !frameLater x.due m

/-- The W1C bits that staged writes clear at threshold `m` (R9). -/
def Dev.clearW1c (d : Dev) (m : Nat) : Dev :=
  { d with pubEv := (d.staged.filter fun x => x.isDue m).foldl (fun t x =>
      let bits := x.value &&& x.mask &&& w1cOf x.key
      if bits = 0 then t else Tab.upd 0 t x.key fun w => w &&& BitVec.ofNat 32 (2 ^ 32 - 1 - bits)) d.pubEv }

/-- At a threshold without publication staged W1C writes wait for the next one (R9, R56, R525). -/
def Dev.keepW1c (d : Dev) (m : Nat) : Dev :=
  { d with staged := d.staged ++ d.staged.filterMap fun x =>
      let bits := x.mask &&& w1cOf x.key
      if x.isDue m ∧ x.value &&& bits ≠ 0 then some { x with mask := bits, value := x.value &&& bits, due := nextFrame m } else none }

/-- Whether a watermark's key holds a least value, and the order of its values (R563). -/
def keyIsMin (key : Nat) : Bool := ((keyRow key).map fun r => decide (r.addr = F.TOW_CORE_SLACK_MIN_SLACK.addr ∨ r.addr = F.QUE_POOL_LOW.addr)).getD false

/-- The order of a watermark's values, by its key. -/
def keyOrd (key v : Nat) : Int := if ((keyRow key).map RegRow.addr) = some F.THM_PEAK.addr then toSigned 16 v else v

/-- The events and counts of the frame join what is published and not yet cleared (R9, R55), for the registers named; the
running frame begins without any. -/
def Dev.mergeEvents (d : Dev) (mine : Nat → Bool) : Dev :=
  let wm := d.wm.map fun p => (p.1, if mine p.1 then ⟨wmJoin (keyIsMin p.1) (keyOrd p.1) p.2.acc p.2.cur, none⟩ else p.2)
  { d with
    pubEv := (d.ev.filter fun p => mine p.1).foldl (fun t p => Tab.upd 0 t p.1 fun w => w ||| p.2) d.pubEv
    ev := []
    pubCnt := (d.cnt.filter fun p => mine (p.1 / 32)).foldl (fun t p => Tab.upd {} t p.1 fun c => ⟨p.2.w, satAdd p.2.w c.n p.2.n⟩) d.pubCnt
    cnt := []
    wm := wm.filter fun p => p.2 ≠ {}
    pubWm := wm.filterMap fun p => p.2.acc.map fun v => (p.1, v) }

/-! ## MSI-X -/

/-- The interrupt status registers: the address of the status and of the enables, the instances and their distance, and the
PF vector of the first (R540). ROOM's vectors rise with the instance. -/
def intRegs : List (Nat × Nat × Nat × Nat × Nat) :=
  [(F.GLB_INT_STATUS_READY.addr, F.GLB_INT_EN_READY.addr, 1, 0, 0),
   (F.SEC_INT_STATUS_IDE_FAIL.addr, F.SEC_INT_EN_IDE_FAIL.addr, 1, 0, 0),
   (F.ERR_INT_STATUS_XCHECK.addr, F.ERR_INT_EN_XCHECK.addr, 1, 0, 0),
   (F.FRM_INT_STATUS_LOCKED.addr, F.FRM_INT_EN_LOCKED.addr, 1, 0, 3),
   (F.SEQ_INT_STATUS_TAKEOVER.addr, F.SEQ_INT_EN_TAKEOVER.addr, 1, 0, 4),
   (F.PWR_INT_STATUS_SLEW_HOLD.addr, F.PWR_INT_EN_SLEW_HOLD.addr, 1, 0, 2),
   (F.THM_INT_STATUS_BAND_CHANGE.addr, F.THM_INT_EN_BAND_CHANGE.addr, 1, 0, 1),
   (F.CAL_INT_STATUS_RETIRE_FULL.addr, F.CAL_INT_EN_RETIRE_FULL.addr, 1, 0, 0),
   (F.HALL_INT_STATUS_FOLD.addr, F.HALL_INT_EN_FOLD.addr, 1, 0, 0),
   (F.HALL_LASER_INT_STATUS_NO_SPARE.addr, F.HALL_LASER_INT_EN_NO_SPARE.addr, 1, 0, 0),
   (F.CEL_INT_STATUS_CE_OVF.addr, F.CEL_INT_EN_CE_OVF.addr, 12, F.CEL_INT_STATUS_CE_OVF.ist, 0),
   (F.PCH_INT_STATUS_TGT_CFG.addr, F.PCH_INT_EN_TGT_CFG.addr, 2, F.PCH_INT_STATUS_TGT_CFG.ist, 0),
   (F.QUE_INT_STATUS_BAD_CFG.addr, F.QUE_INT_EN_BAD_CFG.addr, 1, 0, 0),
   (F.ROOM_INT_STATUS_RESET.addr, F.ROOM_INT_EN_RESET.addr, 16, F.ROOM_INT_STATUS_RESET.ist, 5),
   (F.BIT_INT_STATUS_IMAGE_LOST.addr, F.BIT_INT_EN_IMAGE_LOST.addr, 1, 0, 0)]

/-- The messages that the events of the frame call for: an event recorded in it whose enable is 1 (R540). -/
def Dev.intVectors (d : Dev) : List (Nat × Nat) :=
  (intRegs.flatMap fun x => (List.range x.2.2.1).flatMap fun i =>
    let step := i * x.2.2.2.1
    let on := (Tab.get 0 d.ev (x.1 + step)) &&& d.chip.reg (x.2.1 + step)
    if on = 0 then []
    else if x.2.2.2.2 = 5 then (0, 5 + i) :: (if d.chip.host.vfEnable && decide (i < d.chip.host.numVFs) then [(i + 1, 0)] else [])
    else [(0, x.2.2.2.2)]).eraseDups

/-- The messages of the frame go out (R54, R540). -/
def Dev.sendAll (d : Dev) (l : List (Nat × Nat)) : Dev := l.foldl (fun d x => d.sendMsix x.1 x.2) d

/-! ## Publication -/

/-- The codes of ERR_INJ_STATUS.STATE (R444). -/
def InjSt.code : InjSt → Nat
  | .idle => 0
  | .armed => 1
  | .active => 2
  | .done => 3
  | .refused => 4

/-- The checkpoint of a frame goes into the bank that was not written last (R520). -/
def Seqs.checkpoint (x : Seqs) (n : Nat) : Seqs :=
  if x.bank then { x with bank := false, bank0 := some n } else { x with bank := true, bank1 := some n }

/-- The registers that a tripped device still publishes: ERR, PWR and THM (R479). -/
def tripRegs (key : Nat) : Bool :=
  let a := key % 2 ^ 26
  (decide (0x20000 ≤ a) && decide (a < 0x30000)) || (decide (0x60000 ≤ a) && decide (a < 0x80000))

/-- Frame `n` is published in one atomic step (R54): the chip as it stands is what reads show. -/
def Dev.publishAll (d : Dev) (n : Nat) : Dev :=
  let msgs := (d.irq ++ d.intVectors).eraseDups
  let d := (d.dropGone fun _ => true).mergeEvents fun _ => true
  let d := d.onChip fun c => { c with frm := { c.frm with commit := n, published := true }, seq := c.seq.checkpoint n }
  ({ d with pub := d.chip, irq := [] } : Dev).sendAll msgs

/-- While the device is tripped only THM, PWR and ERR status is published (R479). -/
def Dev.publishTrip (d : Dev) : Dev :=
  let msgs := d.intVectors.filter fun x => x ∈ [(0, 0), (0, 1), (0, 2)]
  let d := (d.dropGone tripRegs).mergeEvents tripRegs
  let regs := (d.pub.regs.filter fun p => !tripRegs p.1) ++ d.chip.regs.filter fun p => tripRegs p.1
  let pub : Chip := { d.pub with thm := d.chip.thm, pwr := d.chip.pwr, integ := d.chip.integ, regs := regs.foldl (fun t p => Tab.ins t p.1 p.2) [] }
  ({ d with pub, irq := [] } : Dev).sendAll msgs

end Sys2Proof.Machine
end

