-- ==== Sys2Proof/Machine/Threshold.lean ====
section
/-! DEFINITION. The threshold (R52 to R56): the frame that ends is judged, committed and published; then staged writes and
everything else that falls due takes effect, in the order of R225, and the next frame begins. -/

namespace Sys2Proof.Machine

open Host

/-! ## Staged writes take effect -/

/-- The read/write bits of a register in force change. -/
def Dev.putBits (d : Dev) (key mask value : Nat) : Dev :=
  if mask = 0 then d
  else d.onChip fun c => c.setReg key (((c.reg key) &&& BitVec.ofNat 32 (2 ^ 32 - 1 - mask)) ||| BitVec.ofNat 32 (value &&& mask))

/-- What a staged write does beside changing read/write bits, by its register: `r` the row, `i` the instance, `e` the element,
`sel` the selected element; `old` the register before. -/
def Dev.stagedEffect (d : Dev) (r : RegRow) (i e sel : Nat) (old : Nat) (x : Staged) : Dev :=
  let a := r.addr
  let set := x.value &&& x.mask &&& r.w1s
  if a = F.FRM_SYNC_CTL_SRC.addr then effectSyncCtl x.mask x.value d
  else if a = F.SNAP_CTL_ARM.addr then effectSnap set d
  else if a = F.TOW_MARCH_CTL_START.addr then (if set = 0 then d else effectMarch i d)
  else if a = F.HALL_MAINT_RETIRE.addr then effectHallMaint set d
  else if a = F.HALL_LASER_CTL_SWAP.addr then (if set = 0 then d else effectSwap d)
  else if a = F.CEL_SCRUB_CTL_START.addr then (if set = 0 then d else effectScrub i d)
  else if a = F.CEL_INVAL_CTL_START.addr then (if set = 0 then d else effectInval i d)
  else if a = F.ROOM_CTL_HALT.addr then effectRoomCtl i set d
  else if a = F.ROOM_SWITCH_GO.addr then effectSwitch i ((d.chip.reg x.key).toNat + set) d
  else if a = F.BIT_ROOM_STATE_RETRY.addr then (if set = 0 then d else effectRetry e d)
  else if a = F.PCH_PORT_CTL_EN.addr then
    let q := i * 3 + e
    let d := effectPortCtl q (x.value &&& x.mask) d
    let en := bitOf (d.chip.reg x.key).toNat 0
    if en = bitOf old 0 then d else portEn q en d
  else if a = F.PCH_NODE_NODE_ID.addr then effectNode d
  else if a = F.PWR_LEDGER_CTL_FORGET.addr then (if set = 0 then d else effectForget d)
  else if a = F.PWR_ROOM_CTL_JOB_MARK.addr then (if set = 0 then d else effectJobMark e d)
  else if a = F.CAL_CTL_RUN.addr then effectRun (bitsOf set F.CAL_CTL_RUN.lo F.CAL_CTL_RUN.w) d
  else if a = F.GLB_RESET_TOW.addr then (if set = 0 then d else effectReset x.value d)
  else if a = F.SEQ_CTL_DRILL.addr then (if set = 0 then d else effectDrill d)
  else if a = F.QUE_Q_CFG_EN.addr then
    if x.mask &&& F.QUE_Q_CFG_EN.mask = 0 then d
    else if x.value &&& F.QUE_Q_CFG_EN.mask = 0 then d.disableQueue sel
    else d.enableQueue sel x.req.code
  else d

/-- The bits that a staged write changes as it stands: GLB_EN, PWR_STAGGER and a queue's EN are judged instead. -/
def plainBits (r : RegRow) (mask : Nat) : Nat :=
  let m := mask &&& r.rw
  if r.addr = F.GLB_EN_TOW.addr ∨ r.addr = F.PWR_STAGGER_ALWAYS.addr then 0
  else if r.addr = F.QUE_Q_CFG_EN.addr then m - (m &&& F.QUE_Q_CFG_EN.mask)
  else m

/-- One staged write takes effect (R56). -/
def Dev.applyStaged (d : Dev) (x : Staged) : Dev :=
  match regAt (x.key % 2 ^ 26) with
  | none => d
  | some (r, i, e) =>
    let old := (d.chip.reg x.key).toNat
    let d := d.putBits x.key (plainBits r x.mask) x.value
    if r.addr = F.GLB_EN_TOW.addr then effectEnables x.mask x.value d
    else if r.addr = F.PWR_STAGGER_ALWAYS.addr then effectStagger x.mask x.value d
    else d.stagedEffect r i e (x.key / 2 ^ 26) old x

/-- The registers of a key table entry (R407). -/
def keyRegs : List Nat := [F.PCH_KEY_CFG_VALID.addr, F.PCH_KEY_OWNER_NODE.addr, F.PCH_KEY_START.addr, F.PCH_KEY_LEN.addr]

/-- Every staged write that is due takes effect in the order received; a key that its registers change has changed once
(R56, R407, R409). -/
def Dev.applyDue (d : Dev) (m : Nat) : Dev :=
  let due := d.staged.filter fun x => x.isDue m
  let was := d.chip
  let d := due.foldl Dev.applyStaged { d with staged := d.staged.filter fun x => !x.isDue m }
  let keys := ((due.filter fun x => x.key % 2 ^ 26 ∈ keyRegs).map fun x => x.key / 2 ^ 26).eraseDups
  (keys.filter fun k => keyRegs.any fun a => was.reg (regKey a k) ≠ d.chip.reg (regKey a k)).foldl Dev.keyChanged d

/-! ## The frame that ends -/

/-- Upsets of the frame join the errors that stand in words, lines and cells: a second one in a pantry word makes it uncorrectable
(R167, R270, R300). -/
def Dev.upsets (d : Dev) (f : Facts) : Dev :=
  let d := d.onTow fun t => { t with errs := f.upsets.foldl (fun e x => Tab.upd 0 e x.1 fun old => if old = 0 then x.2 else 1000) t.errs }
  let d := d.cellUpsets f.cells
  d.onCel fun c => { c with errs := f.lines.foldl (fun e x => lineErr e x.1 x.2.1 x.2.2) c.errs }

/-- A tripped device commits no room's frame (R479). -/
def Dev.tripRooms (d : Dev) : Dev :=
  (List.range 16).foldl (fun d r =>
    if (d.chip.room r).st = .empty then d
    else
      let d := d.onRoom r fun x => { x with committed := false }
      d.onInteg fun i => { i with fates := i.fates ++ [{ frame := d.chip.frm.cur, room := r, committed := false }] }) d

/-- What arrived in the frame becomes final (R182, R211, R264, R269, R276, R376). -/
def Dev.arrivalsEnd (s : State) (d : Dev) : Dev :=
  let d := d.endReplays.soaFinish s
  let d := Dev.cellarFrame s d
  injectFrame d.bucketFrame.flagsFrame

/-- The posted stores that each porch die holds at a threshold join its high-water mark (R412, R563). -/
def Dev.observeHeld (d : Dev) : Dev :=
  (List.range 2).foldl (fun d k => if d.chip.psbUsed k = 0 then d else d.observe F.PCH_PSB_HWM ((d.chip.psbUsed k + 1023) / 1024) k) d

/-- The frame that ended is published, and what follows its publication goes out (R54, R70, R303, R541). -/
def Dev.publish (d : Dev) (m : Nat) : Dev :=
  let n := d.chip.frm.cur
  let d := d.publishLog
  if d.chip.thm.tripped then (d.clearW1c m).publishTrip
  else
    let d := (d.observe F.QUE_POOL_LOW d.chip.freeCells).observeHeld
    let d := ((d.clearW1c m).publishAll n).snapLatch
    (d.publishQueues n).inbandSend n

/-! ## The frame that begins -/

/-- Frame `m` begins; the clock of the model moves on to `t` (R44). -/
def Dev.setFrame (d : Dev) (m t : Nat) : Dev :=
  d.onChip fun c => { c with frm := { c.frm with begun := true, cur := m, time := t, safe := false } }

/-- PWR_GOOD rises again once every rail has been in regulation for 1 ms (R28). -/
def Dev.railsGood (d : Dev) (ok : Bool) : Dev :=
  if ok ∧ !d.chip.thm.tripped then d.onChip fun c => { c with pins := { c.pins with pwrGood := true, railsOk := true } } else d

/-- What the Hall held of the running frame is now of the frame before (R193, R202, R210, R216). -/
def Dev.shiftHall (d : Dev) : Dev :=
  let d := d.onTow fun t => { t with trees := [], treesPrev := t.trees }
  d.onHall fun h => { h with
    sent := []
    sentPrev := h.sent
    husks := []
    husksPrev := h.husks
    rejects := []
    rejectsPrev := h.rejects
    rejLanes := []
    rejLanesPrev := h.rejLanes
    lineHits := []
    lineHist := h.lineHits.eraseDups.foldl (fun t k => Tab.upd 0 t k (· + 1)) (Tab.mapAll 0 h.lineHist fun _ x => x * 2 % 65536)
    desync := []
    slipped := []
    bundles := Tab.mapAll {} h.bundles fun _ b => { b with mapNew := false } }

/-- Instruction words of the load frame that ended take effect (R78). -/
def Dev.storeWords (d : Dev) : Dev :=
  let d' := d.chip.tow.istoreDue.foldl (fun d x => d.onCore x.1 fun c => { c with istore := Tab.put 0 c.istore x.2.1 x.2.2 }) d
  d'.onTow fun t => { t with istoreDue := [] }

/-- Settings that take effect at threshold `m`, and the registers that follow them (R47, R56, R422, R513, R546, R550). -/
def Dev.settings (d : Dev) (m : Nat) : Dev :=
  let d := d.endDrains.regFaults
  let d := beginMarches d
  let d := (d.applyDue m).ownerThreshold
  let d := d.onSec fun x => { x with pref := d.flash.prefB, minSvn := d.flash.minSvn }
  d.applyPeriod

/-! ## The outcome of the frame that ends -/

/-- The resets that the threshold to come brings to rooms by its settings and fences: with them the frame that ends is not committed
(R290, R291, R429). -/
def Dev.foresee (d : Dev) (m : Nat) : Dev :=
  let g := ((d.judgeChans m).settings m).fences m
  (List.range 16).foldl (fun d r =>
    match (g.chip.room r).resetDue with
    | some cause => if (d.chip.room r).st = .empty then d else d.dueReset r cause
    | none => d) d

/-- The checks of the frame and of frame m - 3, then the outcome for every room (R290, R427, R430, R432). -/
def Dev.judgeFrame (s : State) (d : Dev) (m : Nat) : Dev :=
  let d := Dev.outboundCheck s d.comparePosts (frameSub m 3)
  let d := (d.loadReset m).foresee m
  let d := (List.range 16).foldl (judgeRoom m) d
  d.onInteg fun i => { i with retracts := d.retractList }

/-- The mean power of a throttle scope over the last 10 ms: 0.1 W for towers, W for the module (R476). -/
def Chip.scopeMean (c : Chip) (scope : Nat) : Nat :=
  if scope < 8 then c.meanOver (fun x => Tab.get 0 x.towers scope) 10000000 / 100 else c.meanOver PowMark.input 10000000 / 1000

/-- Power, sensors, sources, energy (R235, R460, R466, R469, R472 to R481). -/
def Dev.measure (d : Dev) (f : Facts) : Dev :=
  let x := f.meters
  let d := d.powerFrame x
  let ns := d.chip.frameNs
  let d := d.thermalThreshold (fun w => meanMw (meterOf x.rows w) ns) (fun k => meanMw (meterOf x.cubes k) ns) d.chip.scopeMean
  ((lightMeasure f.taps d).charge x).ledgerFrame x

/-- Inserted idle frames and the idle level of the next cycle, where their own commands have not decided them; the power-cap
controller does not act in M warm reset (R464, R488, R515). -/
def Dev.planIdle (d : Dev) : Dev :=
  let d := idleInsert d.phyFrame
  if d.chip.boot.warm then d else idleCycle 0 0 d.chip.pwr.input d

/-- The frame that ends, at the threshold that begins frame `m`. -/
def Dev.endFrame (s : State) (m : Nat) (f : Facts) (d : Dev) : Dev :=
  let d := d.upsets f
  if d.chip.thm.tripped then (d.tripRooms.measure f).syncFrame
  else
    let d := Dev.judgeFrame s (Dev.arrivalsEnd s d) m
    let d := ((d.judgeChans m).calTriggers.measure f).planIdle
    let d := throttledTime (d.commitQueues m)
    d.syncFrame

/-! ## Rooms and the Hall -/

/-- A room reset, with every chapter's part (R269, R291, R308, R388, R399). -/
def Dev.resetAll (r cause : Nat) (d : Dev) : Dev := (((((d.resetRoom r cause).resetQueues r).resetCellar r).resetReqs r).resetInject r)

/-- Lines, rings, groups, slices and maps that change at threshold `m` (R216, R225 step 2, R226, R252, R283). -/
def Dev.hallStep2 (d : Dev) (m : Nat) (f : Facts) : Dev :=
  let due := d.chip.hall.retires.filter fun x => x.due = m
  let d := d.onHall fun h => { h with retires := h.retires.filter fun x => x.due ≠ m }
  let d := due.foldl (fun d x => d.retireLine (x.line / 18) (x.line % 18) x.cause) d.retireSlices
  let d := endGroups m (retireRings m d)
  (d.runAgreements f.untrained).startAgreements.postMasks f.masks f.upper

/-- Folds, narrow variants and NEEDS_RECOMPILE for one room (R219 to R225 steps 3 to 5). -/
def hallStep3 (d : Dev) (r : Nat) : Dev :=
  let m := d.chip.room r
  if !(m.st = .running ∨ (m.st = .starting ∧ m.start = 5)) then d
  else match d.chip.image r, d.chip.prog r with
    | some i, some p =>
      match d.chip.foldMore r i p with
      | some fs => d.setFolds r fs
      | none =>
        match d.chip.pickVariant i m.run with
        | some v => (((d.setFolds r []).onRoom r fun x => { x with run := { x.run with variant := v } }).renumberRoom i).flag F.HALL_INT_STATUS_NARROW
        | none => d.haltRoom r causeRecompile
    | _, _ => d

/-- A room that no reset took at this threshold although a new image replaces its own is reset now (R291, R342). -/
def Dev.loadNow (d : Dev) : Dev :=
  match d.chip.loadDue d.chip.frm.cur with
  | some (l, i) =>
    let st := (d.chip.room l.room).st
    let d := if i.period = d.chip.frm.active ∧ st ≠ .empty ∧ st ≠ .resetting then Dev.resetAll l.room 5 d else d
    d.loadEffect
  | none => d

/-- A bundle that the step due in a room's frame uses is QUIESCED (R226). -/
def Chip.quiescedFor (c : Chip) (r : Nat) : Bool :=
  match c.stepDue r with
  | some t => t.runs.any (fun x => (c.bundle x.bundle).st = 5) || t.latches.any fun x => (c.bundle x.corridor).st = 5
  | none => false

/-- The step due in a room's frame schedules a slot to or from the M tile (R515). -/
def Chip.usesM (c : Chip) (r : Nat) : Bool :=
  match c.stepDue r with
  | some t => t.runs.any (fun x => endpointOf x.bundle = 22 || x.dest = 22) || t.latches.any fun x => x.ep = 22
  | none => false

/-- The frame that begins is a hold frame for a room (R51, R226, R462, R479, R515). -/
def Chip.heldRoom (c : Chip) (r : Nat) : Bool :=
  c.frm.idle || c.thm.tripped || c.pwr.slewHeld.contains r || c.quiescedFor r || (c.boot.warm && c.usesM r)

/-- The trees that a room's step declares in the frame that begins (R179). -/
def stepTrees (d : Dev) (r : Nat) : Dev :=
  match d.chip.roomStep r with
  | some t => d.onTow fun x => { x with trees := x.trees ++ t.trees.map fun e =>
      { tile := e.ep, id := e.id, ty := e.ty, accum := e.accum, kind := e.kind, unit := e.unit, addr := e.addr, slots := e.slots, srcs := e.srcs, room := r } }
  | none => d

/-- What a room sends of its own accord in the frame that begins: reply runs and intakes (R311, R398). -/
def stepRuns (d : Dev) (r : Nat) : Dev := (d.replyRuns r).intakeRoom r

/-- Everything that the sequencer decides for the rooms at threshold `m`, in the order of R225. -/
def Dev.roomsBegin (d : Dev) (m : Nat) (f : Facts) : Dev :=
  let all := List.range 16
  let d := relockRings m (lightSwaps m (d.rowMaps.fences m))
  let d := d.calSteps m
  let d := all.foldl (roomStep1 Dev.resetAll) d
  let d := all.foldl (sampleArrivals (frameSub m 1)) d
  let d := (d.clears m).releaseQueues m
  let d := d.hallStep2 m f
  let d := all.foldl hallStep3 d
  let d := all.foldl (roomStep6 f.rooms) d.loadNow
  let d := d.slewGovern m Chip.heldRoom
  let d := all.foldl (roomStep7 d.chip.heldRoom) d
  let d := (all.foldl stepTrees d).freeReplies.shiftQueues
  all.foldl stepRuns d

/-- The idle level, the frequencies and whether frame `m` is an idle frame (R454, R464, R488). -/
def Dev.idleFrame (d : Dev) (m : Nat) : Dev :=
  let d := d.idleBegin m
  let idle := d.chip.idleSlot m || d.chip.cal.insert
  (d.onChip fun c => { c with frm := { c.frm with idle } }).onCal fun c => { c with insert := false }

/-- The ports, the maps, the keys, the light policy, the clocks and the rest of what happens at threshold `m` outside the rooms
(R237, R357, R366, R385, R409, R454). -/
def Dev.restBegin (d : Dev) (m : Nat) (f : Facts) : Dev :=
  let d := breakMaps (portsThreshold m d)
  let d := lightPolicy (keyThreshold m d)
  let d := (d.policyInForce.rowFreqs m).clearLoss
  let d := if d.chip.boot.warm then d else d.fixFreqs m
  ((d.expireViews m fun _ => true).snapBegin m).sendTicks m f.tx

/-! ## Frames that a takeover loses -/

/-- A threshold that has passed falls due again at threshold `m`. -/
def latest (m due : Nat) : Nat := if frameLater m due then m else due

/-- What the checkpoint holds as due in lost frames is due at threshold `m` (R525). -/
def Dev.postpone (d : Dev) (m : Nat) : Dev :=
  let shift := latest m
  let d := d.onHall fun h => { h with retires := h.retires.map fun x => { x with due := shift x.due } }
  let d := d.onLight fun l => { l with
    swaps := l.swaps.map fun x => { x with due := shift x.due }
    lost := l.lost.map fun x => (x.1, shift x.2)
    ending := l.ending.map fun x => (x.1, shift x.2)
    retires := l.retires.map fun x => (x.1, shift x.2)
    rings := Tab.mapAll {} l.rings fun _ x => { x with due := x.due.map shift } }
  let d := d.onJil fun j => { j with
    ports := Tab.mapAll {} j.ports fun _ p => { p with retires := p.retires.map fun x => (x.1, shift x.2.1, x.2.2) }
    keySets := j.keySets.map fun k => { k with due := shift k.due } }
  let d := d.onTow fun t => { t with rowsDue := t.rowsDue.map fun x => (x.1, shift x.2.1, x.2.2) }
  let d := d.onCel fun c => { c with slices := Tab.mapAll {} c.slices fun _ x => { x with due := x.due.map shift } }
  let d := d.onPwr fun p => { p with rows := Tab.mapAll {} p.rows fun _ x => { x with next := x.next.map fun y => (y.1, shift y.2) } }
  d.onBit fun b => { b with load := b.load.map fun l => { l with due := shift l.due } }

/-- A lost frame leaves no replays and no alignment (R521, R524). -/
def Dev.loseFrame (d : Dev) : Dev :=
  let d := d.onHall fun h => { h with replays := [], rejects := [], rejectsPrev := [] }
  let d := d.onSync fun x => { x with seen := false, seenNext := false, step := 0, stepNext := 0, extra := 0, coarseLen := none }
  { d with failed := [] }

/-- A safe frame begins at every tile (R521), which have no settings for it: cores wait, latches are parked, no retry slot is driven.
The frame that ends is not committed. SYNC_OUT marks the threshold and MATCH and TICK triggers fire as ever (R64, R69), and towers
run ballast. -/
def Dev.safeFrame (d : Dev) (m t : Nat) (rails : Bool) : Dev :=
  let d := ((d.loseFrame.setFrame m t).railsGood rails).onChip fun c => { c with frm := { c.frm with safe := true } }
  ((List.range 16).foldl (roomStep7 fun _ => true) ((d.syncOut m).shiftHall.tileBallast)).snapBegin m

/-- The frame that ends is lost (R524): neither committed nor published. -/
def Dev.countLost (d : Dev) : Dev :=
  d.onSeq fun x => if x.take.isSome then { x with lostFrames := satAdd 32 x.lostFrames 1 } else x

/-! ## The command -/

/-- Frame `m` begins under control of a sequencer, at time `t`; `was`: the chip before the threshold, by whose bands a porch
die's new band shows (R492). ARM, DISARM and ALLOW act after the other settings (R443). -/
def State.begin (s : State) (was : Chip) (m t : Nat) (f : Facts) : State :=
  let d := (s.dev.setFrame m t).railsGood f.rails
  let s := commit s ((d.shiftHall.storeWords).settings m)
  let s := s.injThreshold m
  let moved := (List.range 2).filter fun k => was.dieBand (356 + 2 * k) ≠ s.dev.chip.dieBand (356 + 2 * k)
  let r := s.dev.rereads s f.rooms
  let f := { f with rooms := r.1 }
  let d := (((((r.2.cellarRead.syncOut m).idleFrame m).equalisers moved).roomsBegin m f).restBegin m f).raiseBuffers
  commit s { d with failed := [] }

/-- Staged writes of ALLOW, ARM and DISARM that lost frames left over (R525). -/
def State.postponeInj (s : State) (m : Nat) : State :=
  let g := s.gate
  { s with gate := { g with
    allowStaged := g.allowStaged.map fun x => (x.1, latest m x.2)
    injStaged := g.injStaged.map fun x => (x.1, latest m x.2) } }

/-- The sequencer that drives the frames is ACTIVE (R508). -/
def Chip.driven (c : Chip) : Bool := c.seq.st c.seq.act = .active

/-- THRESHOLD (R44, R52 to R56, R521 to R527). -/
def threshold (f : Facts) (s : State) : State :=
  let c := s.dev.chip
  let m := if c.frm.begun then nextFrame c.frm.cur else 0
  let t := if c.frm.begun then c.endTime else c.frm.time
  if !c.frm.begun then (if c.driven then s.begin c 0 t f else commit s (s.dev.railsGood f.rails))
  else if c.seq.lost then commit s (s.dev.safeFrame m t f.rails)
  else match c.seq.take with
    | some k =>
      let d := s.dev.countLost
      if k.taken then
        let s := commit s (((d.keepW1c m).loseFrame.postpone m).takeControl m)
        State.begin (s.postponeInj m) c m t f
      else commit s (d.safeFrame m t f.rails)
    | none =>
      if !f.settings then commit s (s.dev.safeFrame m t f.rails)
      else if c.frm.safe then
        let s := commit s ((s.dev.keepW1c m).loseFrame.postpone m)
        State.begin (s.postponeInj m) c m t f
      else
        let first := c.seq.firstFrame
        let s := commit s (Dev.endFrame s m f s.dev)
        let d := s.dev.onInteg fun i => { i with injShown := (s.gate.inj.st.code, s.gate.inj.left) }
        let s := commit s (d.publish m)
        let s := s.begin c m t f
        if first then { s with dev := s.dev.onSeq fun x => { x with firstFrame := false } } else s

/-- THRESHOLD. A powered module that module reset holds has no frames, but PWR_GOOD follows its rails (R28). -/
def execThreshold (f : Facts) (s : State) : Outcome State Fault Refusal :=
  if s.gate.powered ∧ s.gate.held then .next { s with dev := s.dev.railsGood f.rails } else runsAll s (threshold f)

end Sys2Proof.Machine
end

