-- ==== Sys2Proof/Machine/Dispatch.lean ====
section
/-! DEFINITION. The dispatch of commands: one arm per constructor, each one call of its meaning. -/

namespace Sys2Proof.Machine

open Host

/-- The effect of a command on everything but the queue. -/
def exec (i : Instr) (s : State) : Host.Outcome State Fault Refusal :=
  match i with
  | .powerOn straps perstN modResetN => Sys2Proof.Machine.execPowerOn straps perstN modResetN s
  | .inputTurnOff event => Sys2Proof.Machine.execInputTurnOff event s
  | .moduleReset pin => Sys2Proof.Machine.execModuleReset pin s
  | .threshold f => Sys2Proof.Machine.execThreshold f s
  | .pairLowRead r a wide => Sys2Proof.Machine.execPairLowRead r a wide s
  | .rcRead r a be => Sys2Proof.Machine.execRcRead r a be s
  | .watermarkRead r a be => Sys2Proof.Machine.execWatermarkRead r a be s
  | .w1cWrite r t a v => Sys2Proof.Machine.execW1cWrite r t a v s
  | .registerWrite r t a v => Sys2Proof.Machine.execRegisterWrite r t a v s
  | .configLock r => Sys2Proof.Machine.execConfigLock r s
  | .periodWrite r t len => Sys2Proof.Machine.execPeriodWrite r t len s
  | .viewPin r => Sys2Proof.Machine.execViewPin r s
  | .viewRelease r => Sys2Proof.Machine.execViewRelease r s
  | .viewExpired r => Sys2Proof.Machine.execViewExpired r s
  | .syncSrcWrite r t src => Sys2Proof.Machine.execSyncSrcWrite r t src s
  | .syncInEdge t => Sys2Proof.Machine.execSyncInEdge t s
  | .coarse r t => Sys2Proof.Machine.execCoarse r t s
  | .snapTrigger r => Sys2Proof.Machine.execSnapTrigger r s
  | .snapCollect r t => Sys2Proof.Machine.execSnapCollect r t s
  | .snapRecordWritten ok => Sys2Proof.Machine.execSnapRecordWritten ok s
  | .ldv k w => Sys2Proof.Machine.execLdv k w s
  | .stv k w => Sys2Proof.Machine.execStv k w s
  | .lds k w => Sys2Proof.Machine.execLds k w s
  | .sts k w => Sys2Proof.Machine.execSts k w s
  | .ldd k w => Sys2Proof.Machine.execLdd k w s
  | .setd k w => Sys2Proof.Machine.execSetd k w s
  | .copy k w => Sys2Proof.Machine.execCopy k w s
  | .fill k w => Sys2Proof.Machine.execFill k w s
  | .mma k w fault => Sys2Proof.Machine.execMma k w fault s
  | .out k w => Sys2Proof.Machine.execOut k w s
  | .stacc k w => Sys2Proof.Machine.execStacc k w s
  | .ldacc k w => Sys2Proof.Machine.execLdacc k w s
  | .clr k w => Sys2Proof.Machine.execClr k w s
  | .rowscale k w => Sys2Proof.Machine.execRowscale k w s
  | .tov k w => Sys2Proof.Machine.execTov k w s
  | .fromv k w => Sys2Proof.Machine.execFromv k w s
  | .add k w => Sys2Proof.Machine.execAdd k w s
  | .sub k w => Sys2Proof.Machine.execSub k w s
  | .mul k w => Sys2Proof.Machine.execMul k w s
  | .fma k w => Sys2Proof.Machine.execFma k w s
  | .vecMin k w => Sys2Proof.Machine.execVecMin k w s
  | .vecMax k w => Sys2Proof.Machine.execVecMax k w s
  | .vecCmp k w => Sys2Proof.Machine.execVecCmp k w s
  | .sel k w => Sys2Proof.Machine.execSel k w s
  | .cvt k w => Sys2Proof.Machine.execCvt k w s
  | .qmx k w => Sys2Proof.Machine.execQmx k w s
  | .bcast k w => Sys2Proof.Machine.execBcast k w s
  | .iota k w => Sys2Proof.Machine.execIota k w s
  | .mlen k w => Sys2Proof.Machine.execMlen k w s
  | .exp k w => Sys2Proof.Machine.execExp k w s
  | .exp2 k w => Sys2Proof.Machine.execExp2 k w s
  | .ln k w => Sys2Proof.Machine.execLn k w s
  | .log2 k w => Sys2Proof.Machine.execLog2 k w s
  | .rcp k w => Sys2Proof.Machine.execRcp k w s
  | .rsq k w => Sys2Proof.Machine.execRsq k w s
  | .sin k w => Sys2Proof.Machine.execSin k w s
  | .cos k w => Sys2Proof.Machine.execCos k w s
  | .sort k w => Sys2Proof.Machine.execSort k w s
  | .topk k w => Sys2Proof.Machine.execTopk k w s
  | .gather k w => Sys2Proof.Machine.execGather k w s
  | .iadd k w => Sys2Proof.Machine.execIadd k w s
  | .isub k w => Sys2Proof.Machine.execIsub k w s
  | .imul k w => Sys2Proof.Machine.execImul k w s
  | .and k w => Sys2Proof.Machine.execAnd k w s
  | .or k w => Sys2Proof.Machine.execOr k w s
  | .xor k w => Sys2Proof.Machine.execXor k w s
  | .shl k w => Sys2Proof.Machine.execShl k w s
  | .sra k w => Sys2Proof.Machine.execSra k w s
  | .sum k w => Sys2Proof.Machine.execSum k w s
  | .redMax k w => Sys2Proof.Machine.execRedMax k w s
  | .redMin k w => Sys2Proof.Machine.execRedMin k w s
  | .argmax k w => Sys2Proof.Machine.execArgmax k w s
  | .browmax k w => Sys2Proof.Machine.execBrowmax k w s
  | .browsum k w => Sys2Proof.Machine.execBrowsum k w s
  | .smx k w => Sys2Proof.Machine.execSmx k w s
  | .moec k w => Sys2Proof.Machine.execMoec k w s
  | .nop k w => Sys2Proof.Machine.execNop k w s
  | .seti k w => Sys2Proof.Machine.execSeti k w s
  | .alu k w => Sys2Proof.Machine.execAlu k w s
  | .ctrlCmp k w => Sys2Proof.Machine.execCtrlCmp k w s
  | .plog k w => Sys2Proof.Machine.execPlog k w s
  | .loop k w => Sys2Proof.Machine.execLoop k w s
  | .jump k w => Sys2Proof.Machine.execJump k w s
  | .sync k w => Sys2Proof.Machine.execSync k w s
  | .waitrx k w => Sys2Proof.Machine.execWaitrx k w s
  | .barrive k w => Sys2Proof.Machine.execBarrive k w s
  | .btest k w => Sys2Proof.Machine.execBtest k w s
  | .frameend k w cycles ns => Sys2Proof.Machine.execFrameend k w cycles ns s
  | .trap k w => Sys2Proof.Machine.execTrap k w s
  | .rdcyc k w cycles => Sys2Proof.Machine.execRdcyc k w cycles s
  | .rdfrm k w => Sys2Proof.Machine.execRdfrm k w s
  | .tol k w => Sys2Proof.Machine.execTol k w s
  | .flags k w => Sys2Proof.Machine.execFlags k w s
  | .xsig k w => Sys2Proof.Machine.execXsig k w s
  | .unitStart core cls => Sys2Proof.Machine.execUnitStart core cls s
  | .operationComplete core cls cycles ns => Sys2Proof.Machine.execOperationComplete core cls cycles ns s
  | .waitEnd core => Sys2Proof.Machine.execWaitEnd core s
  | .pantryPortGrant core reqs hrx coreWord => Sys2Proof.Machine.execPantryPortGrant core reqs hrx coreWord s
  | .dbgRead r tower => Sys2Proof.Machine.execDbgRead r tower s
  | .dbgWrite r tower => Sys2Proof.Machine.execDbgWrite r tower s
  | .dbgAccessDone r tower => Sys2Proof.Machine.execDbgAccessDone r tower s
  | .marchStart r tower t rows algo bg preserve => Sys2Proof.Machine.execMarchStart r tower t rows algo bg preserve s
  | .marchDone tower cells => Sys2Proof.Machine.execMarchDone tower cells s
  | .soaWrite tile id k late => Sys2Proof.Machine.execSoaWrite tile id k late s
  | .slotSend bundle line slot late gen => Sys2Proof.Machine.execSlotSend bundle line slot late gen s
  | .slotReceive ep latch slot bytes left => Sys2Proof.Machine.execSlotReceive ep latch slot bytes left s
  | .frameHeader ep latch bytes => Sys2Proof.Machine.execFrameHeader ep latch bytes s
  | .barrierArrive ep room id sender row mask late => Sys2Proof.Machine.execBarrierArrive ep room id sender row mask late s
  | .barrierDone ep room id frame => Sys2Proof.Machine.execBarrierDone ep room id frame s
  | .flag ep room id value late => Sys2Proof.Machine.execFlag ep room id value late s
  | .doorbell room q value late => Sys2Proof.Machine.execDoorbell room q value late s
  | .interrupt owner room vec late => Sys2Proof.Machine.execInterrupt owner room vec late s
  | .retire r bundle line t => Sys2Proof.Machine.execRetire r bundle line t s
  | .agree r bundle t => Sys2Proof.Machine.execAgree r bundle t s
  | .agreementTimeout b => Sys2Proof.Machine.execAgreementTimeout b s
  | .swap r g t => Sys2Proof.Machine.execSwap r g t s
  | .read x => Sys2Proof.Machine.execRead x s
  | .write x enables data => Sys2Proof.Machine.execWrite x enables data s
  | .fadd32 x operand compare => Sys2Proof.Machine.execFadd32 x operand compare s
  | .fadd64 x operand compare => Sys2Proof.Machine.execFadd64 x operand compare s
  | .faddf x operand compare => Sys2Proof.Machine.execFaddf x operand compare s
  | .cas64 x operand compare => Sys2Proof.Machine.execCas64 x operand compare s
  | .swap32 x operand compare => Sys2Proof.Machine.execSwap32 x operand compare s
  | .swap64 x operand compare => Sys2Proof.Machine.execSwap64 x operand compare s
  | .smin32 x operand compare => Sys2Proof.Machine.execSmin32 x operand compare s
  | .smax32 x operand compare => Sys2Proof.Machine.execSmax32 x operand compare s
  | .smin64 x operand compare => Sys2Proof.Machine.execSmin64 x operand compare s
  | .smax64 x operand compare => Sys2Proof.Machine.execSmax64 x operand compare s
  | .umin64 x operand compare => Sys2Proof.Machine.execUmin64 x operand compare s
  | .umax64 x operand compare => Sys2Proof.Machine.execUmax64 x operand compare s
  | .fmin x operand compare => Sys2Proof.Machine.execFmin x operand compare s
  | .fmax x operand compare => Sys2Proof.Machine.execFmax x operand compare s
  | .data x data => Sys2Proof.Machine.execData x data s
  | .ack x result => Sys2Proof.Machine.execAck x result s
  | .celrspSend stack owner ep => Sys2Proof.Machine.execCelrspSend stack owner ep s
  | .cellarWriteApply stack => Sys2Proof.Machine.execCellarWriteApply stack s
  | .bucketLeak stack => Sys2Proof.Machine.execBucketLeak stack s
  | .scrubStart r n t => Sys2Proof.Machine.execScrubStart r n t s
  | .scrubLine n slice raced => Sys2Proof.Machine.execScrubLine n slice raced s
  | .scrubDone n => Sys2Proof.Machine.execScrubDone n s
  | .invalStart r n t => Sys2Proof.Machine.execInvalStart r n t s
  | .halt r n t => Sys2Proof.Machine.execHalt r n t s
  | .resume r n t => Sys2Proof.Machine.execResume r n t s
  | .roomResetCmd r n t => Sys2Proof.Machine.execRoomResetCmd r n t s
  | .go r n t slot phase => Sys2Proof.Machine.execGo r n t slot phase s
  | .producer r q v be => Sys2Proof.Machine.execProducer r q v be s
  | .consumer r q v be => Sys2Proof.Machine.execConsumer r q v be s
  | .submissionRead q dma entry data => Sys2Proof.Machine.execSubmissionRead q dma entry data s
  | .queueStream q => Sys2Proof.Machine.execQueueStream q s
  | .deliveryWrite q upsets dma => Sys2Proof.Machine.execDeliveryWrite q upsets dma s
  | .queueEnable r q => Sys2Proof.Machine.execQueueEnable r q s
  | .queueDisable r q => Sys2Proof.Machine.execQueueDisable r q s
  | .queueConfigWrite r t q a b => Sys2Proof.Machine.execQueueConfigWrite r t q a b s
  | .loadStart r => Sys2Proof.Machine.execLoadStart r s
  | .loadValidated t host => Sys2Proof.Machine.execLoadValidated t host s
  | .abort r => Sys2Proof.Machine.execAbort r s
  | .imageRetry r n t => Sys2Proof.Machine.execImageRetry r n t s
  | .portEn q en => Sys2Proof.Machine.execPortEn q en s
  | .jiliaPortReset r q t => Sys2Proof.Machine.execJiliaPortReset r q t s
  | .nodeWrite r node sx sy sz t => Sys2Proof.Machine.execNodeWrite r node sx sy sz t s
  | .packetForward input vc => Sys2Proof.Machine.execPacketForward input vc s
  | .linkState q dim idx down => Sys2Proof.Machine.execLinkState q dim idx down s
  | .windowedPacket p => Sys2Proof.Machine.execWindowedPacket p s
  | .wack p => Sys2Proof.Machine.execWack p s
  | .wackTimer node => Sys2Proof.Machine.execWackTimer node s
  | .resync p => Sys2Proof.Machine.execResync p s
  | .retransmitTimeout node num => Sys2Proof.Machine.execRetransmitTimeout node num s
  | .pairIdleFree node receiver => Sys2Proof.Machine.execPairIdleFree node receiver s
  | .injectionRecord b => Sys2Proof.Machine.execInjectionRecord b s
  | .injectionSend b => Sys2Proof.Machine.execInjectionSend b s
  | .msg p => Sys2Proof.Machine.execMsg p s
  | .reassemblyTimeout src room id queue => Sys2Proof.Machine.execReassemblyTimeout src room id queue s
  | .multicastForward input p => Sys2Proof.Machine.execMulticastForward input p s
  | .branchDrop src id member => Sys2Proof.Machine.execBranchDrop src id member s
  | .mack p => Sys2Proof.Machine.execMack p s
  | .mcastCompletion group id => Sys2Proof.Machine.execMcastCompletion group id s
  | .mgmt p => Sys2Proof.Machine.execMgmt p s
  | .cmapReq p => Sys2Proof.Machine.execCmapReq p s
  | .cmapLatch f => Sys2Proof.Machine.execCmapLatch f s
  | .clear p => Sys2Proof.Machine.execClear p s
  | .retract p => Sys2Proof.Machine.execRetract p s
  | .porchDieReset r k t => Sys2Proof.Machine.execPorchDieReset r k t s
  | .load order => Sys2Proof.Machine.execLoad order s
  | .store order => Sys2Proof.Machine.execStore order s
  | .acquire order => Sys2Proof.Machine.execAcquire order s
  | .release order => Sys2Proof.Machine.execRelease order s
  | .transfer order => Sys2Proof.Machine.execTransfer order s
  | .fence b => Sys2Proof.Machine.execFence b s
  | .requestSend b => Sys2Proof.Machine.execRequestSend b s
  | .requestTake p => Sys2Proof.Machine.execRequestTake p s
  | .rsp p => Sys2Proof.Machine.execRsp p s
  | .rspTimeout node seq => Sys2Proof.Machine.execRspTimeout node seq s
  | .targetTimeout order => Sys2Proof.Machine.execTargetTimeout order s
  | .psbExpiry node gen num => Sys2Proof.Machine.execPsbExpiry node gen num s
  | .heldMessageExpiry src room sframe => Sys2Proof.Machine.execHeldMessageExpiry src room sframe s
  | .set room die key node job mode late => Sys2Proof.Machine.execSet room die key node job mode late s
  | .windowEntryWrite r k t cfg job node base size => Sys2Proof.Machine.execWindowEntryWrite r k t cfg job node base size s
  | .crossCheckFrame posts => Sys2Proof.Machine.execCrossCheckFrame posts s
  | .logConsume r v => Sys2Proof.Machine.execLogConsume r v s
  | .injArm r t => Sys2Proof.Machine.execInjArm r t s
  | .injDisarm r t => Sys2Proof.Machine.execInjDisarm r t s
  | .capWrite r t w => Sys2Proof.Machine.execCapWrite r t w s
  | .staggerWrite r t always waves cycles => Sys2Proof.Machine.execStaggerWrite r t always waves cycles s
  | .jobMark r room t => Sys2Proof.Machine.execJobMark r room t s
  | .forget r t => Sys2Proof.Machine.execForget r t s
  | .run kind unit cause => Sys2Proof.Machine.execRun kind unit cause s
  | .blockStartDone k f => Sys2Proof.Machine.execBlockStartDone k f s
  | .startFail k => Sys2Proof.Machine.execStartFail k s
  | .blockStopDone k => Sys2Proof.Machine.execBlockStopDone k s
  | .blockEnable k => Sys2Proof.Machine.execBlockEnable k s
  | .blockDisable k => Sys2Proof.Machine.execBlockDisable k s
  | .quadReset r k t forced => Sys2Proof.Machine.execQuadReset r k t forced s
  | .towerReset r k t forced => Sys2Proof.Machine.execTowerReset r k t forced s
  | .stackReset r k t forced => Sys2Proof.Machine.execStackReset r k t forced s
  | .regulatorFault t => Sys2Proof.Machine.execRegulatorFault t s
  | .modReset r => Sys2Proof.Machine.execModReset r s
  | .mWarm r => Sys2Proof.Machine.execMWarm r s
  | .seqBistDone b ok => Sys2Proof.Machine.execSeqBistDone b ok s
  | .sequencerFailure cause => Sys2Proof.Machine.execSequencerFailure cause s
  | .takeover loadOk => Sys2Proof.Machine.execTakeover loadOk s
  | .drill r t => Sys2Proof.Machine.execDrill r t s
  | .vfFlr n => Sys2Proof.Machine.execVfFlr n s
  | .bar2Read fn addr len => Sys2Proof.Machine.execBar2Read fn addr len s
  | .bar2Write fn addr bytes ep => Sys2Proof.Machine.execBar2Write fn addr bytes ep s
  | .bar2Timeout id => Sys2Proof.Machine.execBar2Timeout id s
  | .dmaCompletion user q status entry data => Sys2Proof.Machine.execDmaCompletion user q status entry data s
  | .atsInvalidate fn tag => Sys2Proof.Machine.execAtsInvalidate fn tag s
  | .mctpControl cmd eid => Sys2Proof.Machine.execMctpControl cmd eid s
  | .doeObject vid type t flashOk body => Sys2Proof.Machine.execDoeObject vid type t flashOk body s
  | .getInfo via tag => Sys2Proof.Machine.execGetInfo via tag s
  | .readReg via tag a n => Sys2Proof.Machine.execReadReg via tag a n s
  | .writeReg via tag t a v => Sys2Proof.Machine.execWriteReg via tag t a v s
  | .getIdentity via tag => Sys2Proof.Machine.execGetIdentity via tag s
  | .getReport via tag nonce flashOk => Sys2Proof.Machine.execGetReport via tag nonce flashOk s
  | .fwWrite via tag off data flashOk => Sys2Proof.Machine.execFwWrite via tag off data flashOk s
  | .fwActivate via tag flashOk => Sys2Proof.Machine.execFwActivate via tag flashOk s
  | .fwCommitSvn via tag => Sys2Proof.Machine.execFwCommitSvn via tag s
  | .ownerEnrol via tag key flashOk => Sys2Proof.Machine.execOwnerEnrol via tag key flashOk s
  | .ownerTransfer via tag key sig flashOk => Sys2Proof.Machine.execOwnerTransfer via tag key sig flashOk s
  | .ideKm via tag stream keys go => Sys2Proof.Machine.execIdeKm via tag stream keys go s
  | .ideFail stream => Sys2Proof.Machine.execIdeFail stream s
  | .overVoltageTurnOn straps perstN modResetN => Sys2Proof.Machine.execOverVoltageTurnOn straps perstN modResetN s
  | .vfEnable en n d3 ats bar2 vfBar2 => Sys2Proof.Machine.execVfEnable en n d3 ats bar2 vfBar2 s
  | .vendorService via tag op places leaf msg sig => Sys2Proof.Machine.execVendorService via tag op places leaf msg sig s
  | .spareReady src left => Sys2Proof.Machine.execSpareReady src left s
  | .warmFail src => Sys2Proof.Machine.execWarmFail src s
  | .spareReturn src => Sys2Proof.Machine.execSpareReturn src s
  | .ringLoopUpdate latch unit index drop tap step => Sys2Proof.Machine.execRingLoopUpdate latch unit index drop tap step s
  | .seedWindow latch unit index tone left => Sys2Proof.Machine.execSeedWindow latch unit index tone left s
  | .reacquireDone latch unit index => Sys2Proof.Machine.execReacquireDone latch unit index s
  | .reacquireTimeout latch unit index left => Sys2Proof.Machine.execReacquireTimeout latch unit index left s
  | .lightDetect q => Sys2Proof.Machine.execLightDetect q s
  | .lossOfLight q => Sys2Proof.Machine.execLossOfLight q s
  | .safePulse q => Sys2Proof.Machine.execSafePulse q s
  | .safePulseReceived q => Sys2Proof.Machine.execSafePulseReceived q s
  | .trainingDone q lanes farNode farPort farSizes markers => Sys2Proof.Machine.execTrainingDone q lanes farNode farPort farSizes markers s
  | .trainFail q => Sys2Proof.Machine.execTrainFail q s
  | .trainingRetry q => Sys2Proof.Machine.execTrainingRetry q s
  | .farReset q => Sys2Proof.Machine.execFarReset q s
  | .codeword q lane marker errors f0 f1 => Sys2Proof.Machine.execCodeword q lane marker errors f0 f1 s
  | .flit q lane f => Sys2Proof.Machine.execFlit q lane f s
  | .lanes q mask => Sys2Proof.Machine.execLanes q mask s
  | .portRetire r q lane t => Sys2Proof.Machine.execPortRetire r q lane t s
  | .retrain r q t => Sys2Proof.Machine.execRetrain r q t s
  | .tick q arrival master tx depth flags snap => Sys2Proof.Machine.execTick q arrival master tx depth flags snap s
  | .delayReq q t1 turn => Sys2Proof.Machine.execDelayReq q t1 turn s
  | .delayRsp q t1 turn t4 => Sys2Proof.Machine.execDelayRsp q t1 turn t4 s
  | .delayMeasure q t1 => Sys2Proof.Machine.execDelayMeasure q t1 s
  | .droop row lost => Sys2Proof.Machine.execDroop row lost s
  | .crossingSlip row sends receives => Sys2Proof.Machine.execCrossingSlip row sends receives s
  | .fmaxMeasure core measured => Sys2Proof.Machine.execFmaxMeasure core measured s
  | .idleCycleStart nj ns mean => Sys2Proof.Machine.execIdleCycleStart nj ns mean s
  | .sensorSample k v t => Sys2Proof.Machine.execSensorSample k v t s
  | .sensorFailed k openShort => Sys2Proof.Machine.execSensorFailed k openShort s
  | .suspect k => Sys2Proof.Machine.execSuspect k s
  | .sensorOk k => Sys2Proof.Machine.execSensorOk k s
  | .thermalTrip k => Sys2Proof.Machine.execThermalTrip k s
  | .coolantCheck inlet outlet p => Sys2Proof.Machine.execCoolantCheck inlet outlet p s
  | .calRunDone kind unit values temp limits left => Sys2Proof.Machine.execCalRunDone kind unit values temp limits left s
  | .calRecordWrite kind unit ok => Sys2Proof.Machine.execCalRecordWrite kind unit ok s
  | .flashWriteRetry ok => Sys2Proof.Machine.execFlashWriteRetry ok s
  | .heartbeat frame => Sys2Proof.Machine.execHeartbeat frame s
  | .heartbeatTimeout periods => Sys2Proof.Machine.execHeartbeatTimeout periods s
  | .mailboxTimeout us => Sys2Proof.Machine.execMailboxTimeout us s
  | .railOutOfRegulation => Sys2Proof.Machine.execRailOutOfRegulation s
  | .moduleResetRelease => Sys2Proof.Machine.execModuleResetRelease s
  | .syncOutFall => Sys2Proof.Machine.execSyncOutFall s
  | .quarantineEnd => Sys2Proof.Machine.execQuarantineEnd s
  | .syncLost => Sys2Proof.Machine.execSyncLost s
  | .snapInEdge => Sys2Proof.Machine.execSnapInEdge s
  | .snapArm => Sys2Proof.Machine.execSnapArm s
  | .snapDisarm => Sys2Proof.Machine.execSnapDisarm s
  | .replayAssign => Sys2Proof.Machine.execReplayAssign s
  | .refclkLost => Sys2Proof.Machine.execRefclkLost s
  | .refclkBack => Sys2Proof.Machine.execRefclkBack s
  | .holdoverEnd => Sys2Proof.Machine.execHoldoverEnd s
  | .energyCheckpoint => Sys2Proof.Machine.execEnergyCheckpoint s
  | .thermalRestart => Sys2Proof.Machine.execThermalRestart s
  | .idleInsert => Sys2Proof.Machine.execIdleInsert s
  | .mWatchdog => Sys2Proof.Machine.execMWatchdog s
  | .mRestarted => Sys2Proof.Machine.execMRestarted s
  | .mailboxPost => Sys2Proof.Machine.execMailboxPost s
  | .linkDown => Sys2Proof.Machine.execLinkDown s
  | .pfFlr => Sys2Proof.Machine.execPfFlr s
  | .pcieLinkUp => Sys2Proof.Machine.execPcieLinkUp s

end Sys2Proof.Machine
end

