-- ==== Sys2Proof/WellFormed.lean ====
section
/-! DEFINITION. Which commands are well formed: every operand lies in the range the spec gives it. The module's answer to
one that is not is its meaning's, which takes every operand. -/

namespace Sys2Proof

/-- A number below a bound. -/
def below (n x : Nat) : Bool := decide (x < n)
/-- A list of bytes of a length. -/
def lengthIs (n : Nat) (l : List Byte) : Bool := l.length = n
/-- A frame number (R44). -/
def frameOk (n : Nat) : Bool := decide (n < frameMod)
/-- A core position as R442 numbers them: eight towers, 16 rows, 17 positions. -/
def coreOk (n : Nat) : Bool := decide (n < 4096) && decide (n % 32 < 17)
/-- A fetch of a core that exists; the SEC-DED findings are 0 to 2 (R78). -/
def fetchOk (k : Fetch) : Bool := coreOk k.core && below 3 k.eccLo && below 3 k.eccHi
/-- The fields of an operation word fit their widths (R128). -/
def wordOk (w : OpWord) : Bool :=
  below 8 w.psel && below 256 w.f0 && below 256 w.f1 && below 256 w.f2 && below 256 w.f3 && below (2 ^ 16) w.h
    && below (2 ^ 32) w.i && below (2 ^ 32) w.j
/-- A defect names a cell of the 32 by 64 array (R83). -/
def macOk (f : MacFault) : Bool := f.cell.all fun x => below 32 x.1 && below 64 x.2
/-- A VF is one of 16 (R534). -/
def requesterOk : Requester → Bool
  | .vf n => decide (1 ≤ n) && below 17 n
  | _ => true
/-- A register's address: 32-bit words of a 64 MiB window (R3, R561). -/
def addressOk (a : Nat) : Bool := a % 4 = 0 && below (2 ^ 26) a
/-- A CELREQ record's fields fit their widths (R267). -/
def celReqOk (x : CelRec) : Bool :=
  below 12 x.stack && below 23 x.sender && below 17 x.owner && below 16 x.room && below 65536 x.tag && below 64 x.slice
    && below 256 x.count && below 256 x.reply && below 256 x.off && below (2 ^ 24) x.line && below (2 ^ 32) x.dest
/-- A CELRSP record's fields fit their widths (R268). -/
def celRspOk (x : RspRec) : Bool :=
  below 23 x.ep && below 12 x.stack && below 16 x.room && below 65536 x.tag && below 64 x.slice && below 256 x.status
/-- A packet's header fields fit their widths, its ARGS are 12 bytes (R361). -/
def packetWf (p : Packet) : Bool :=
  below 256 p.type && below 4 p.tc && below 4096 p.dest && below 4096 p.src && below 16 p.room && below 256 p.gen
    && below (2 ^ 24) p.num && below 65536 p.sframe && below 4097 p.body.length && lengthIs 12 p.args && below (2 ^ 32) p.ecrc
/-- A flit's link fields fit their widths (R354). -/
def flitOk (f : Flit) : Bool := below 2048 f.fseq && below 2048 f.ack && below 16 f.cvc
/-- The requester of a run by register write. -/
def causeOk : RunCause → Bool
  | .write r _ => requesterOk r
  | _ => true

/-- A command is well formed. -/
def wellFormed : Instr → Bool
  | .powerOn _ _ _ => true
  | .inputTurnOff _ => true
  | .moduleReset pin => below 2 pin
  | .threshold _ => true
  | .pairLowRead r a _ => requesterOk r && addressOk a
  | .rcRead r a be => requesterOk r && addressOk a && below 16 be
  | .watermarkRead r a be => requesterOk r && addressOk a && below 16 be
  | .w1cWrite r _ a v => requesterOk r && addressOk a && below (2 ^ 32) v
  | .registerWrite r _ a v => requesterOk r && addressOk a && below (2 ^ 32) v
  | .configLock r => requesterOk r
  | .periodWrite r _ len => requesterOk r && below (2 ^ 32) len
  | .viewPin r => requesterOk r
  | .viewRelease r => requesterOk r
  | .viewExpired r => requesterOk r
  | .syncSrcWrite r _ src => requesterOk r && below 8 src
  | .syncInEdge _ => true
  | .coarse r _ => requesterOk r
  | .snapTrigger r => requesterOk r
  | .snapCollect r _ => requesterOk r
  | .snapRecordWritten _ => true
  | .ldv k w => fetchOk k && wordOk w
  | .stv k w => fetchOk k && wordOk w
  | .lds k w => fetchOk k && wordOk w
  | .sts k w => fetchOk k && wordOk w
  | .ldd k w => fetchOk k && wordOk w
  | .setd k w => fetchOk k && wordOk w
  | .copy k w => fetchOk k && wordOk w
  | .fill k w => fetchOk k && wordOk w
  | .mma k w fault => fetchOk k && wordOk w && macOk fault
  | .out k w => fetchOk k && wordOk w
  | .stacc k w => fetchOk k && wordOk w
  | .ldacc k w => fetchOk k && wordOk w
  | .clr k w => fetchOk k && wordOk w
  | .rowscale k w => fetchOk k && wordOk w
  | .tov k w => fetchOk k && wordOk w
  | .fromv k w => fetchOk k && wordOk w
  | .add k w => fetchOk k && wordOk w
  | .sub k w => fetchOk k && wordOk w
  | .mul k w => fetchOk k && wordOk w
  | .fma k w => fetchOk k && wordOk w
  | .vecMin k w => fetchOk k && wordOk w
  | .vecMax k w => fetchOk k && wordOk w
  | .vecCmp k w => fetchOk k && wordOk w
  | .sel k w => fetchOk k && wordOk w
  | .cvt k w => fetchOk k && wordOk w
  | .qmx k w => fetchOk k && wordOk w
  | .bcast k w => fetchOk k && wordOk w
  | .iota k w => fetchOk k && wordOk w
  | .mlen k w => fetchOk k && wordOk w
  | .exp k w => fetchOk k && wordOk w
  | .exp2 k w => fetchOk k && wordOk w
  | .ln k w => fetchOk k && wordOk w
  | .log2 k w => fetchOk k && wordOk w
  | .rcp k w => fetchOk k && wordOk w
  | .rsq k w => fetchOk k && wordOk w
  | .sin k w => fetchOk k && wordOk w
  | .cos k w => fetchOk k && wordOk w
  | .sort k w => fetchOk k && wordOk w
  | .topk k w => fetchOk k && wordOk w
  | .gather k w => fetchOk k && wordOk w
  | .iadd k w => fetchOk k && wordOk w
  | .isub k w => fetchOk k && wordOk w
  | .imul k w => fetchOk k && wordOk w
  | .and k w => fetchOk k && wordOk w
  | .or k w => fetchOk k && wordOk w
  | .xor k w => fetchOk k && wordOk w
  | .shl k w => fetchOk k && wordOk w
  | .sra k w => fetchOk k && wordOk w
  | .sum k w => fetchOk k && wordOk w
  | .redMax k w => fetchOk k && wordOk w
  | .redMin k w => fetchOk k && wordOk w
  | .argmax k w => fetchOk k && wordOk w
  | .browmax k w => fetchOk k && wordOk w
  | .browsum k w => fetchOk k && wordOk w
  | .smx k w => fetchOk k && wordOk w
  | .moec k w => fetchOk k && wordOk w
  | .nop k w => fetchOk k && wordOk w
  | .seti k w => fetchOk k && wordOk w
  | .alu k w => fetchOk k && wordOk w
  | .ctrlCmp k w => fetchOk k && wordOk w
  | .plog k w => fetchOk k && wordOk w
  | .loop k w => fetchOk k && wordOk w
  | .jump k w => fetchOk k && wordOk w
  | .sync k w => fetchOk k && wordOk w
  | .waitrx k w => fetchOk k && wordOk w
  | .barrive k w => fetchOk k && wordOk w
  | .btest k w => fetchOk k && wordOk w
  | .frameend k w _ _ => fetchOk k && wordOk w
  | .trap k w => fetchOk k && wordOk w
  | .rdcyc k w _ => fetchOk k && wordOk w
  | .rdfrm k w => fetchOk k && wordOk w
  | .tol k w => fetchOk k && wordOk w
  | .flags k w => fetchOk k && wordOk w
  | .xsig k w => fetchOk k && wordOk w
  | .unitStart core cls => coreOk core && below 4 cls
  | .operationComplete core cls _ _ => coreOk core && below 4 cls
  | .waitEnd core => coreOk core
  | .pantryPortGrant core _ _ _ => coreOk core
  | .dbgRead r tower => requesterOk r && below 8 tower
  | .dbgWrite r tower => requesterOk r && below 8 tower
  | .dbgAccessDone r tower => requesterOk r && below 8 tower
  | .marchStart r tower _ rows algo bg _ => requesterOk r && below 8 tower && below 65536 rows && below 4 algo && below 4 bg
  | .marchDone tower _ => below 8 tower
  | .soaWrite tile _ _ _ => below 22 tile
  | .slotSend bundle line slot _ gen => below 293 bundle && below 18 line && below 2048 slot && (gen.isEmpty || lengthIs 112 gen)
  | .slotReceive ep latch slot bytes _ => below 23 ep && below 512 latch && below 2048 slot && lengthIs 128 bytes
  | .frameHeader ep latch bytes => below 23 ep && below 512 latch && lengthIs 128 bytes
  | .barrierArrive ep room id sender row mask _ => below 23 ep && below 16 room && below 256 id && below 22 sender && below 16 row && below 65536 mask
  | .barrierDone ep room id frame => below 23 ep && below 16 room && below 256 id && frameOk frame
  | .flag ep room id value _ => below 23 ep && below 16 room && below 64 id && below (2 ^ 32) value
  | .doorbell room q value _ => below 16 room && below 8192 q && below (2 ^ 32) value
  | .interrupt owner room vec _ => below 17 owner && below 16 room && below 64 vec
  | .retire r bundle line _ => requesterOk r && below 293 bundle && below 18 line
  | .agree r bundle _ => requesterOk r && below 293 bundle
  | .agreementTimeout b => below 293 b
  | .swap r g _ => requesterOk r && below 32 g
  | .read x => celReqOk x
  | .write x enables data => celReqOk x && below (2 ^ 64) enables && lengthIs 64 data
  | .fadd32 x operand compare => celReqOk x && below (2 ^ 64) operand && below (2 ^ 64) compare
  | .fadd64 x operand compare => celReqOk x && below (2 ^ 64) operand && below (2 ^ 64) compare
  | .faddf x operand compare => celReqOk x && below (2 ^ 64) operand && below (2 ^ 64) compare
  | .cas64 x operand compare => celReqOk x && below (2 ^ 64) operand && below (2 ^ 64) compare
  | .swap32 x operand compare => celReqOk x && below (2 ^ 64) operand && below (2 ^ 64) compare
  | .swap64 x operand compare => celReqOk x && below (2 ^ 64) operand && below (2 ^ 64) compare
  | .smin32 x operand compare => celReqOk x && below (2 ^ 64) operand && below (2 ^ 64) compare
  | .smax32 x operand compare => celReqOk x && below (2 ^ 64) operand && below (2 ^ 64) compare
  | .smin64 x operand compare => celReqOk x && below (2 ^ 64) operand && below (2 ^ 64) compare
  | .smax64 x operand compare => celReqOk x && below (2 ^ 64) operand && below (2 ^ 64) compare
  | .umin64 x operand compare => celReqOk x && below (2 ^ 64) operand && below (2 ^ 64) compare
  | .umax64 x operand compare => celReqOk x && below (2 ^ 64) operand && below (2 ^ 64) compare
  | .fmin x operand compare => celReqOk x && below (2 ^ 64) operand && below (2 ^ 64) compare
  | .fmax x operand compare => celReqOk x && below (2 ^ 64) operand && below (2 ^ 64) compare
  | .data x data => celRspOk x && lengthIs 64 data
  | .ack x _ => celRspOk x
  | .celrspSend stack owner ep => below 12 stack && below 17 owner && below 23 ep
  | .cellarWriteApply stack => below 12 stack
  | .bucketLeak stack => below 12 stack
  | .scrubStart r n _ => requesterOk r && below 12 n
  | .scrubLine n slice _ => below 12 n && below 64 slice
  | .scrubDone n => below 12 n
  | .invalStart r n _ => requesterOk r && below 12 n
  | .halt r n _ => requesterOk r && below 16 n
  | .resume r n _ => requesterOk r && below 16 n
  | .roomResetCmd r n _ => requesterOk r && below 16 n
  | .go r n _ slot phase => requesterOk r && below 16 n && below 4096 slot && below 256 phase
  | .producer r q v be => requesterOk r && below 8192 q && below (2 ^ 32) v && below 16 be
  | .consumer r q v be => requesterOk r && below 8192 q && below (2 ^ 32) v && below 16 be
  | .submissionRead q dma _ _ => below 8192 q && below 3 dma
  | .queueStream q => below 8192 q
  | .deliveryWrite q upsets dma => below 8192 q && below 3 dma && upsets.all fun x => below 131072 x.1 && below 240 x.2.1 && below 256 x.2.2
  | .queueEnable r q => requesterOk r && below 8192 q
  | .queueDisable r q => requesterOk r && below 8192 q
  | .queueConfigWrite r _ q _ _ => requesterOk r && below 8193 q
  | .loadStart r => requesterOk r
  | .loadValidated _ _ => true
  | .abort r => requesterOk r
  | .imageRetry r n _ => requesterOk r && below 16 n
  | .portEn q _ => below 6 q
  | .jiliaPortReset r q _ => requesterOk r && below 6 q
  | .nodeWrite r node _ _ _ _ => requesterOk r && below 4096 node
  | .packetForward input vc => below 7 input && below 10 vc
  | .linkState q dim i _ => below 6 q && below 3 dim && below 16 i
  | .windowedPacket p => packetWf p
  | .wack p => packetWf p
  | .wackTimer node => below 4096 node
  | .resync p => packetWf p
  | .retransmitTimeout node num => below 4096 node && below (2 ^ 24) num
  | .pairIdleFree node _ => below 4096 node
  | .injectionRecord b => below 1024 b
  | .injectionSend b => below 1024 b
  | .msg p => packetWf p
  | .reassemblyTimeout src room _ queue => below 4096 src && below 16 room && below 8192 queue
  | .multicastForward input p => below 7 input && packetWf p
  | .branchDrop src _ _ => below 4096 src
  | .mack p => packetWf p
  | .mcastCompletion group _ => below 256 group
  | .mgmt p => packetWf p
  | .cmapReq p => packetWf p
  | .cmapLatch _ => true
  | .clear p => packetWf p
  | .retract p => packetWf p
  | .porchDieReset r k _ => requesterOk r && below 2 k
  | .load _ => true
  | .store _ => true
  | .acquire _ => true
  | .release _ => true
  | .transfer _ => true
  | .fence b => below 1024 b
  | .requestSend _ => true
  | .requestTake p => packetWf p
  | .rsp p => packetWf p
  | .rspTimeout node _ => below 4096 node
  | .targetTimeout _ => true
  | .psbExpiry node _ num => below 4096 node && below (2 ^ 24) num
  | .heldMessageExpiry src room sframe => below 4096 src && below 16 room && below 65536 sframe
  | .set room die _ node _ _ _ => below 16 room && below 2 die && below 4096 node
  | .windowEntryWrite r k _ cfg _ node _ _ => requesterOk r && below 4096 k && below (2 ^ 32) cfg && below 4096 node
  | .crossCheckFrame _ => true
  | .logConsume r v => requesterOk r && below (2 ^ 32) v
  | .injArm r _ => requesterOk r
  | .injDisarm r _ => requesterOk r
  | .capWrite r _ w => requesterOk r && below (2 ^ 32) w
  | .staggerWrite r _ _ _ _ => requesterOk r
  | .jobMark r room _ => requesterOk r && below 16 room
  | .forget r _ => requesterOk r
  | .run kind unit cause => below 32 kind && below 64 unit && causeOk cause
  | .blockStartDone k _ => below 29 k
  | .startFail k => below 29 k
  | .blockStopDone k => below 26 k
  | .blockEnable k => below 26 k
  | .blockDisable k => below 26 k
  | .quadReset r k _ _ => requesterOk r && below 4 k
  | .towerReset r k _ _ => requesterOk r && below 8 k
  | .stackReset r k _ _ => requesterOk r && below 12 k
  | .regulatorFault t => below 8 t
  | .modReset r => requesterOk r
  | .mWarm r => requesterOk r
  | .seqBistDone _ _ => true
  | .sequencerFailure _ => true
  | .takeover _ => true
  | .drill r _ => requesterOk r
  | .vfFlr n => (decide (1 ≤ n) && below 17 n)
  | .bar2Read fn addr len => below 17 fn && below (2 ^ 44) addr && (decide (1 ≤ len) && below 4097 len)
  | .bar2Write fn addr _ _ => below 17 fn && below (2 ^ 44) addr
  | .bar2Timeout _ => true
  | .dmaCompletion user q status _ _ => below 4 user && below 8192 q && below 3 status
  | .atsInvalidate fn tag => below 17 fn && below 32 tag
  | .mctpControl cmd eid => below 256 cmd && below 256 eid
  | .doeObject vid type _ _ _ => below 65536 vid && below 256 type
  | .getInfo via tag => requesterOk via && below 256 tag
  | .readReg via tag a n => requesterOk via && below 256 tag && addressOk a && (decide (1 ≤ n) && below 17 n)
  | .writeReg via tag _ a v => requesterOk via && below 256 tag && addressOk a && below (2 ^ 32) v
  | .getIdentity via tag => requesterOk via && below 256 tag
  | .getReport via tag nonce _ => requesterOk via && below 256 tag && lengthIs 32 nonce
  | .fwWrite via tag _ _ _ => requesterOk via && below 256 tag
  | .fwActivate via tag _ => requesterOk via && below 256 tag
  | .fwCommitSvn via tag => requesterOk via && below 256 tag
  | .ownerEnrol via tag _ _ => requesterOk via && below 256 tag
  | .ownerTransfer via tag _ _ _ => requesterOk via && below 256 tag
  | .ideKm via tag stream _ _ => requesterOk via && below 256 tag && below 256 stream
  | .ideFail stream => below 256 stream
  | .overVoltageTurnOn _ _ _ => true
  | .vfEnable _ n _ _ _ _ => below 17 n
  | .vendorService via tag _ _ _ _ _ => requesterOk via && below 256 tag
  | .spareReady src _ => below 30 src
  | .warmFail src => below 30 src
  | .spareReturn src => below 30 src
  | .ringLoopUpdate _ unit index _ _ _ => below 293 unit && below 512 index
  | .seedWindow _ unit index _ _ => below 293 unit && below 512 index
  | .reacquireDone _ unit index => below 293 unit && below 512 index
  | .reacquireTimeout _ unit index _ => below 293 unit && below 512 index
  | .lightDetect q => below 6 q
  | .lossOfLight q => below 6 q
  | .safePulse q => below 6 q
  | .safePulseReceived q => below 6 q
  | .trainingDone q _ _ _ _ markers => below 6 q && markers.all fun m => below 16 m.1
  | .trainFail q => below 6 q
  | .trainingRetry q => below 6 q
  | .farReset q => below 6 q
  | .codeword q lane marker _ f0 f1 => below 6 q && below 16 lane && below (2 ^ 20) marker && flitOk f0 && flitOk f1
  | .flit q lane f => below 6 q && below 16 lane && flitOk f
  | .lanes q mask => below 6 q && below 65536 mask
  | .portRetire r q lane _ => requesterOk r && below 6 q && below 16 lane
  | .retrain r q _ => requesterOk r && below 6 q
  | .tick q _ _ _ _ _ _ => below 6 q
  | .delayReq q _ _ => below 6 q
  | .delayRsp q _ _ _ => below 6 q
  | .delayMeasure q _ => below 6 q
  | .droop row _ => below 128 row
  | .crossingSlip row _ _ => below 128 row
  | .fmaxMeasure core _ => coreOk core
  | .idleCycleStart .. => true
  | .sensorSample k _ _ => below 366 k
  | .sensorFailed k _ => below 366 k
  | .suspect k => below 366 k
  | .sensorOk k => below 366 k
  | .thermalTrip k => below 366 k
  | .coolantCheck _ _ _ => true
  | .calRunDone kind unit _ _ _ _ => below 33 kind && below 64 unit
  | .calRecordWrite kind unit _ => below 33 kind && below 64 unit
  | .flashWriteRetry _ => true
  | .heartbeat frame => frameOk frame
  | .heartbeatTimeout _ => true
  | .mailboxTimeout _ => true
  | .railOutOfRegulation => true
  | .moduleResetRelease => true
  | .syncOutFall => true
  | .quarantineEnd => true
  | .syncLost => true
  | .snapInEdge => true
  | .snapArm => true
  | .snapDisarm => true
  | .replayAssign => true
  | .refclkLost => true
  | .refclkBack => true
  | .holdoverEnd => true
  | .energyCheckpoint => true
  | .thermalRestart => true
  | .idleInsert => true
  | .mWatchdog => true
  | .mRestarted => true
  | .mailboxPost => true
  | .linkDown => true
  | .pfFlr => true
  | .pcieLinkUp => true

end Sys2Proof
end

