-- ==== Sys2Proof/Safety.lean ====
section
/-! DEFINITION. The terms that claims are stated in: the invariant of every step, when a core issues a word, and what a
command leaves unchanged. -/

namespace Sys2Proof

open Sys2Proof.Machine

/-! ## The invariant -/

/-- What every step keeps: memory is in its canonical form; once the configuration is locked no injection is allowed,
waiting to be allowed, armed or active (R8, R443); between commands no memory operation and no use of an injection waits. -/
structure Inv (s : State) : Prop where
  mem : s.mem.wf = true
  lock : s.gate.locked = true →
    s.gate.allow = false ∧ s.gate.allowStaged = [] ∧ s.gate.inj.st ≠ .armed ∧ s.gate.inj.st ≠ .active
  wr : s.dev.wr = []
  used : s.dev.injUsed = 0

/-! ## What a command leaves -/

/-- The parts of the state that only few commands change: the queue, the gate, what is published, the staged writes, the
views, the flash. -/
def KeepsOuter (s t : State) : Prop :=
  t.pending = s.pending ∧ t.gate = s.gate ∧ t.dev.pub = s.dev.pub ∧ t.dev.staged = s.dev.staged ∧ t.dev.views = s.dev.views
    ∧ t.dev.flash = s.dev.flash ∧ t.dev.calFlash = s.dev.calFlash ∧ t.dev.latched = s.dev.latched

/-- Every byte of memory reads as before. -/
def SameMemory (s t : State) : Prop := ∀ a, t.mem.get a = s.mem.get a

/-- Of the chip nothing changes but the core `n`. -/
def OnlyCore (s t : State) (n : Nat) : Prop :=
  (∀ j, j ≠ n → t.dev.chip.core j = s.dev.chip.core j)
    ∧ t.dev.chip = { s.dev.chip with tow := { s.dev.chip.tow with cores := t.dev.chip.tow.cores } }

/-! ## Operation words -/

/-- The core of a fetch. -/
def coreAt (s : State) (k : Fetch) : Core := s.dev.chip.core k.core

/-- The core of a fetch is issuing and its next word is this one; the fetch finds no double-bit error; the word is legal
and its predicate holds; no register, queue or barrier stalls it; what it touches lies in the slice and is aligned (R78,
R121, R130, R135, R140, R141). -/
def issues (s : State) (k : Fetch) (cls op : Nat) (w : OpWord) (fault : MacFault := {}) : Bool :=
  let c := coreAt s k
  let t := (c.capture cls op w true fault).touches s.dev.chip.frm.cur
  s.active && coreOk k.core && below 2 k.eccLo && below 2 k.eccHi && decide (c.st = .running) && c.wait.isNone
    && decide (Tab.get 0 c.istore c.pc = BitVec.ofNat 128 (packWord cls op w)) && wordOk w && wordLegal cls op w
    && !c.stalled cls op w && c.stateLegal cls op w && (c.rdP w.psel != w.pneg) && !t.1.any outside && t.2

/-- The word after it lies in the instruction store (R155). -/
def goesOn (s : State) (k : Fetch) : Bool :=
  let c := coreAt s k
  decide ((advance c.pc c.loops).1 ≤ 0xFFF)

/-- The unit of a class has nothing queued and nothing running (R140). -/
def unitFree (s : State) (k : Fetch) (cls : Nat) : Bool :=
  let c := coreAt s k
  (c.queue (unitOf cls)).isEmpty && !c.inFlight (unitOf cls)

/-- The core continues after its word: the next word, or the start of a loop's body (R155). -/
def AtNext (s t : State) (k : Fetch) : Prop :=
  (coreAt t k).pc = (advance (coreAt s k).pc (coreAt s k).loops).1
    ∧ (coreAt t k).loops = (advance (coreAt s k).pc (coreAt s k).loops).2
    ∧ (coreAt t k).st = .running

end Sys2Proof
end

