-- ==== Sys2Proof/Certificates/Slice0/Obligations.lean ====
section
/-! DEFINITION. The statements for the provers, from the numbered rules of the spec. `Claims` holds the terms they share. -/

namespace Sys2Proof.Claims

open Sys2Proof.Machine

/-! ## Terms about operation words -/

/-- The word issues and its unit is free, so its operation starts at once and has its effect (log 10); the state is one that steps reach in its
memory. -/
def Starts (s : State) (k : Fetch) (cls op : Nat) (w : OpWord) (fault : MacFault := {}) : Prop :=
  Inv s ∧ issues s k cls op w fault = true ∧ unitFree s k cls = true ∧ goesOn s k = true

/-- The controller word issues. -/
def Acts (s : State) (k : Fetch) (cls op : Nat) (w : OpWord) : Prop := Inv s ∧ issues s k cls op w = true ∧ goesOn s k = true

/-- The core goes on and nothing but it changed: no other core, no byte of memory, nothing outside the cores. -/
def OnlyGoesOn (s t : State) (k : Fetch) : Prop := AtNext s t k ∧ OnlyCore s t k.core ∧ SameMemory s t ∧ KeepsOuter s t

/-- The core goes on; no other core and nothing outside the device changed. -/
def GoesOn (s t : State) (k : Fetch) : Prop :=
  AtNext s t k ∧ (∀ j, j ≠ k.core → t.dev.chip.core j = s.dev.chip.core j) ∧ KeepsOuter s t

/-- No register file of the core changed. -/
def SameFiles (s t : State) (k : Fetch) : Prop :=
  (coreAt t k).s = (coreAt s k).s ∧ (coreAt t k).p = (coreAt s k).p ∧ (coreAt t k).m = (coreAt s k).m
    ∧ (coreAt t k).w = (coreAt s k).w ∧ (coreAt t k).d = (coreAt s k).d ∧ (coreAt t k).b = (coreAt s k).b

/-- Of the scalar registers only `i` may have changed; no other file has. -/
def OnlyS (s t : State) (k : Fetch) (i : Nat) : Prop :=
  (∀ j, j ≠ i → (coreAt t k).rdS j = (coreAt s k).rdS j) ∧ (coreAt t k).p = (coreAt s k).p ∧ (coreAt t k).m = (coreAt s k).m
    ∧ (coreAt t k).w = (coreAt s k).w ∧ (coreAt t k).d = (coreAt s k).d ∧ (coreAt t k).b = (coreAt s k).b

/-- Of the predicates only `i` may have changed; no other file has. -/
def OnlyP (s t : State) (k : Fetch) (i : Nat) : Prop :=
  (∀ j, j ≠ i → (coreAt t k).rdP j = (coreAt s k).rdP j) ∧ (coreAt t k).s = (coreAt s k).s ∧ (coreAt t k).m = (coreAt s k).m
    ∧ (coreAt t k).w = (coreAt s k).w ∧ (coreAt t k).d = (coreAt s k).d ∧ (coreAt t k).b = (coreAt s k).b

/-- Of the lane masks only `i` may have changed; no other file has. -/
def OnlyM (s t : State) (k : Fetch) (i : Nat) : Prop :=
  (∀ j, j ≠ i → (coreAt t k).rdM j = (coreAt s k).rdM j) ∧ (coreAt t k).s = (coreAt s k).s ∧ (coreAt t k).p = (coreAt s k).p
    ∧ (coreAt t k).w = (coreAt s k).w ∧ (coreAt t k).d = (coreAt s k).d ∧ (coreAt t k).b = (coreAt s k).b

/-- Of the vector registers only `i` may have changed; no other file has. -/
def OnlyW (s t : State) (k : Fetch) (i : Nat) : Prop :=
  (∀ j, j ≠ i → (coreAt t k).rdW j = (coreAt s k).rdW j) ∧ (coreAt t k).s = (coreAt s k).s ∧ (coreAt t k).p = (coreAt s k).p
    ∧ (coreAt t k).m = (coreAt s k).m ∧ (coreAt t k).d = (coreAt s k).d ∧ (coreAt t k).b = (coreAt s k).b

/-- Of the descriptor registers only `i` may have changed; no other file has. -/
def OnlyD (s t : State) (k : Fetch) (i : Nat) : Prop :=
  (∀ j, j ≠ i → (coreAt t k).rdD j = (coreAt s k).rdD j) ∧ (coreAt t k).s = (coreAt s k).s ∧ (coreAt t k).p = (coreAt s k).p
    ∧ (coreAt t k).m = (coreAt s k).m ∧ (coreAt t k).w = (coreAt s k).w ∧ (coreAt t k).b = (coreAt s k).b

/-- Of the accumulator banks only `i` may have changed; no other file has. -/
def OnlyB (s t : State) (k : Fetch) (i : Nat) : Prop :=
  (∀ j, j ≠ i → (coreAt t k).rdB j = (coreAt s k).rdB j) ∧ (coreAt t k).s = (coreAt s k).s ∧ (coreAt t k).p = (coreAt s k).p
    ∧ (coreAt t k).m = (coreAt s k).m ∧ (coreAt t k).w = (coreAt s k).w ∧ (coreAt t k).d = (coreAt s k).d

/-- The byte address of a word: the scalar F1 plus J, modulo 2^32 (R147). -/
def addrOf (s : State) (k : Fetch) (w : OpWord) : Nat := ((coreAt s k).rdS (opIdx w.f1) + BitVec.ofNat 32 w.j).toNat

/-- The source address of COPY: the scalar F2 plus I (R147). -/
def srcOf (s : State) (k : Fetch) (w : OpWord) : Nat := ((coreAt s k).rdS (opIdx w.f2) + BitVec.ofNat 32 w.i).toNat

/-- Bytes of a slice. -/
def sliceAt (s : State) (k : Fetch) (a n : Nat) : List Byte := s.mem.bytes (pantryAddr k.core a) n

/-- No word of a byte range holds an uncorrectable error (R167). -/
def noUncorr (s : State) (k : Fetch) (a n : Nat) : Bool :=
  (wordsOf a n).all fun x => decide (Tab.get 0 s.dev.chip.tow.errs (wordKey k.core x) ≠ 1000)

/-- No word of a byte range is husked or holds an uncorrectable error (R79, R166, R167). -/
def sound (s : State) (k : Fetch) (a n : Nat) : Bool :=
  noUncorr s k a n && (wordsOf a n).all fun x => !s.dev.husked (wordKey k.core x)

/-- Lane `l` is enabled by the word's mask (R152). -/
def enabled (s : State) (k : Fetch) (w : OpWord) (l : Nat) : Bool := ((coreAt s k).rdM (maskIdx w)).getLsbD l

/-- Lane `l` of the first source. -/
def laneA (s : State) (k : Fetch) (w : OpWord) (ty l : Nat) : Nat := lane ty ((coreAt s k).rdW (opIdx w.f1)) l

/-- Lane `l` of the second source: a register's, or the scalar that I[31] broadcasts (R152). -/
def laneB (s : State) (k : Fetch) (w : OpWord) (ty l : Nat) : Nat :=
  if bitOf w.i 31 then ((coreAt s k).rdS (opIdx w.f2)).toNat % 2 ^ laneBits ty else lane ty ((coreAt s k).rdW (opIdx w.f2)) l

/-- The bits that stochastic rounding adds in lane `l`, when H[8] asks for it (R102, R152). -/
def randOf (s : State) (w : OpWord) (l : Nat) : Option Nat :=
  if bitOf w.h 8 then some (Config.srBits (s.dev.free + l)).toNat else none

/-- A vector operation's result: lane `l` of F0 is `f l` where the mask enables it and keeps its value elsewhere. -/
def LanesAre (s t : State) (k : Fetch) (w : OpWord) (f : Nat → Nat) : Prop :=
  ∀ l, l < laneCount (laneTy w) → lane (laneTy w) ((coreAt t k).rdW (opIdx w.f0)) l =
    if enabled s k w l then f l % 2 ^ laneBits (laneTy w) else lane (laneTy w) ((coreAt s k).rdW (opIdx w.f0)) l

/-- The result and the frame of a vector operation. -/
def VecDone (s t : State) (k : Fetch) (w : OpWord) (f : Nat → Nat) : Prop :=
  LanesAre s t k w f ∧ OnlyW s t k (opIdx w.f0) ∧ OnlyGoesOn s t k

/-- Memory after a core's write of enabled bytes at a slice address: the bytes that lie in no closed range (R127) take
their values, every other byte keeps its own. -/
def Stored (s t : State) (k : Fetch) (a : Nat) (l : List (Option Byte)) : Prop :=
  ∀ x, t.mem.get x =
    (if pantryAddr k.core a ≤ x ∧ inRanges (coreAt s k).closed (x - pantryAddr k.core 0) = false
      then (l.getD (x - pantryAddr k.core a) none).getD (s.mem.get x) else s.mem.get x)

/-! ## Terms about the other commands -/

/-- The module is powered and out of module reset, in a state that steps reach. -/
def Ready (s : State) : Prop := Inv s ∧ s.active = true

/-- No byte of memory changed, nor anything of the queue, the gate, what is published, the staged writes, the views and
the flash. -/
def Quiet (s t : State) : Prop := KeepsOuter s t ∧ SameMemory s t

/-- The state `s` with another chip; what the command counted, flagged or sent out besides is as in `t`. -/
def Leaves (s t : State) (c : Chip) : Prop := Quiet s t ∧ t.dev.chip = c

/-- The W1C field is set among the events of the running frame (R9). -/
def flagged (t : State) (f : Fld) (i : Nat := 0) (e : Nat := 0) (sel : Nat := 0) : Prop :=
  bitsOf (Tab.get 0 t.dev.ev (regKey (f.addrOf i e) sel)).toNat f.lo f.w = 2 ^ f.w - 1

/-- The clear-on-read field counted `n` more, saturating (R7, R9). -/
def counted (s t : State) (n : Nat) (f : Fld) (i : Nat := 0) (e : Nat := 0) (sel : Nat := 0) : Prop :=
  (Tab.get {} t.dev.cnt (cntKey f i e sel)).n = satAdd f.w (Tab.get {} s.dev.cnt (cntKey f i e sel)).n n

/-- The error event joins those of the running frame; while M restarts it is lost (R441, R515). -/
def logged (s t : State) (e : LogEv) : Prop :=
  s.dev.chip.boot.warm = false →
    t.dev.chip.integ.events = addEvent { e with frame := s.dev.chip.frm.cur } s.dev.chip.integ.events

/-- The chip of `t` is `c`, but for the error events and what they fire of snapshots. -/
def ChipIs (t : State) (c : Chip) : Prop := t.dev.chip = { c with integ := t.dev.chip.integ, snap := t.dev.chip.snap }

/-- Nothing at all changed but what went out: `o`. -/
def Answers (s t : State) (o : List Out) : Prop := t = { s with dev := { s.dev with out := o } }

end Sys2Proof.Claims

section

open Sys2Proof Sys2Proof.Machine Sys2Proof.Claims

/-! ## Cores -/

/-- The loads of MOVE and MAT (R147, R148): LDV, LDS and LDD put 256, 4 and 32 bytes of the slice into a vector, a scalar and
a descriptor register; LDACC puts a bank image into a bank. The core goes on; no byte of memory and no other register changes. -/
def Obligations.LoadsReadThePantry : Prop :=
  ∀ (s : State) (k : Fetch) (w : OpWord),
    (Starts s k 0 0x01 w → sound s k (addrOf s k w) 256 = true → ∃ t, exec (.ldv k w) s = .next t
      ∧ (coreAt t k).rdW (opIdx w.f0) = bvOf 2048 (sliceAt s k (addrOf s k w) 256)
      ∧ OnlyW s t k (opIdx w.f0) ∧ GoesOn s t k ∧ SameMemory s t)
    ∧ (Starts s k 0 0x03 w → sound s k (addrOf s k w) 4 = true → ∃ t, exec (.lds k w) s = .next t
      ∧ (coreAt t k).rdS (opIdx w.f0) = (if opIdx w.f0 = 0 then 0 else bvOf 32 (sliceAt s k (addrOf s k w) 4))
      ∧ OnlyS s t k (opIdx w.f0) ∧ GoesOn s t k ∧ SameMemory s t)
    ∧ (Starts s k 0 0x05 w → sound s k (addrOf s k w) 32 = true → ∃ t, exec (.ldd k w) s = .next t
      ∧ (coreAt t k).rdD (opIdx w.f0) = bvOf 256 (sliceAt s k (addrOf s k w) 32)
      ∧ OnlyD s t k (opIdx w.f0) ∧ GoesOn s t k ∧ SameMemory s t)
    ∧ (Starts s k 1 0x04 w → sound s k (addrOf s k w) bankImageBytes = true → ∃ t, exec (.ldacc k w) s = .next t
      ∧ (coreAt t k).rdB (opIdx w.f0) = Bank.ofImage (sliceAt s k (addrOf s k w) bankImageBytes)
      ∧ OnlyB s t k (opIdx w.f0) ∧ GoesOn s t k ∧ SameMemory s t)

/-- The stores of MOVE and MAT (R147, R148): STV, STS, FILL and STACC write the enabled lanes of a vector register, a scalar,
H lines of the pattern I and a bank's image; a byte that lies in a closed range is not written (R127). No register changes. -/
def Obligations.StoresWriteThePantry : Prop :=
  ∀ (s : State) (k : Fetch) (w : OpWord),
    (Starts s k 0 0x02 w → noUncorr s k (addrOf s k w) 256 = true → ∃ t, exec (.stv k w) s = .next t
      ∧ Stored s t k (addrOf s k w) ((leBytes 256 ((coreAt s k).rdW (opIdx w.f0)).toNat).mapIdx fun i b =>
          if ((coreAt s k).rdM (opIdx w.f2)).toNat.testBit (i / laneBytes (bitsOf w.h 0 4)) then some b else none)
      ∧ SameFiles s t k ∧ GoesOn s t k)
    ∧ (Starts s k 0 0x04 w → noUncorr s k (addrOf s k w) 4 = true → ∃ t, exec (.sts k w) s = .next t
      ∧ Stored s t k (addrOf s k w) ((leBytes 4 ((coreAt s k).rdS (opIdx w.f0)).toNat).map some)
      ∧ SameFiles s t k ∧ GoesOn s t k)
    ∧ (Starts s k 0 0x08 w → noUncorr s k (addrOf s k w) (128 * w.h) = true → ∃ t, exec (.fill k w) s = .next t
      ∧ Stored s t k (addrOf s k w) (((List.replicate (32 * w.h) (leBytes 4 w.i)).flatten).map some)
      ∧ SameFiles s t k ∧ GoesOn s t k)
    ∧ (Starts s k 1 0x03 w → noUncorr s k (addrOf s k w) bankImageBytes = true → ∃ t, exec (.stacc k w) s = .next t
      ∧ Stored s t k (addrOf s k w) (((coreAt s k).rdB (opIdx w.f0)).image.map some)
      ∧ SameFiles s t k ∧ GoesOn s t k)

/-- A slice after `n` words were copied in ascending order, its bytes and its husk marks by slice address and by word (R127, R147, R165): a
sound word fills the bytes of its destination that are open, and a destination that it fills whole is sound; a husked word makes its
destination husked with its record, unless every byte of that is closed. -/
def Sys2Proof.Claims.copied (closed : Nat → Bool) (dst src : Nat) : Nat → (Nat → Byte) × (Nat → Bool) → (Nat → Byte) × (Nat → Bool)
  | 0, m => m
  | n + 1, m =>
    let m' := Sys2Proof.Claims.copied closed dst src n m
    let hit (i : Nat) : Bool := closed (dst + 16 * n + i)
    let here (x : Nat) : Prop := dst + 16 * n ≤ x ∧ x < dst + 16 * n + 16
    let husk := m'.2 (src / 16 + n)
    if (List.range 16).all hit then m'
    else
      (fun x => if here x ∧ (husk = true ∨ closed x = false) then m'.1 (x - dst + src) else m'.1 x,
       fun w => if w = dst / 16 + n then husk || (m'.2 w && (List.range 16).any hit) else m'.2 w)

/-- SETD sets 4 bytes of a descriptor register from a scalar and changes nothing else; COPY copies H lines in ascending
address order, marks included, and changes no register; of a range that the core may not write now, only a husked word that reaches past
it changes anything (R127, R147, R165). -/
def Obligations.SetdAndCopy : Prop :=
  ∀ (s : State) (k : Fetch) (w : OpWord),
    (Starts s k 0 0x06 w → ∃ t, exec (.setd k w) s = .next t
      ∧ (∀ b, b < 256 → ((coreAt t k).rdD (opIdx w.f0)).getLsbD b =
          if 8 * w.h ≤ b ∧ b < 8 * w.h + 32 then ((coreAt s k).rdS (opIdx w.f1)).getLsbD (b - 8 * w.h)
          else ((coreAt s k).rdD (opIdx w.f0)).getLsbD b)
      ∧ OnlyD s t k (opIdx w.f0) ∧ OnlyGoesOn s t k)
    ∧ (Starts s k 0 0x07 w → noUncorr s k (srcOf s k w) (128 * w.h) = true → noUncorr s k (addrOf s k w) (128 * w.h) = true →
        ∃ t, exec (.copy k w) s = .next t
      ∧ (let m := copied (inRanges (coreAt s k).closed) (addrOf s k w) (srcOf s k w) (8 * w.h)
            (fun a => s.mem.get (pantryAddr k.core a), fun x => s.dev.husked (wordKey k.core x))
         (∀ a, a < sliceBytes → t.mem.get (pantryAddr k.core a) = m.1 a)
          ∧ ∀ x, x < sliceBytes / 16 → t.dev.husked (wordKey k.core x) = m.2 x)
      ∧ (∀ a, a < pantryAddr k.core 0 ∨ pantryAddr k.core 0 + sliceBytes ≤ a → t.mem.get a = s.mem.get a)
      ∧ SameFiles s t k ∧ GoesOn s t k)

/-- The bank moves of MAT (R148): CLR clears a bank with tag 1.0 and the mode I[18]; TOV copies row H into a vector register;
FROMV writes row H from one; ROWSCALE multiplies each row by a vector lane, each product rounded once. Nothing else changes. -/
def Obligations.BankMoves : Prop :=
  ∀ (s : State) (k : Fetch) (w : OpWord),
    (Starts s k 1 0x05 w → ∃ t, exec (.clr k w) s = .next t
      ∧ (∀ i j, ((coreAt t k).rdB (opIdx w.f0)).at' i j = 0)
      ∧ ((coreAt t k).rdB (opIdx w.f0)).tagA = 0x3F800000 ∧ ((coreAt t k).rdB (opIdx w.f0)).tagB = 0x3F800000
      ∧ ((coreAt t k).rdB (opIdx w.f0)).isInt = bitOf w.i 18
      ∧ OnlyB s t k (opIdx w.f0) ∧ OnlyGoesOn s t k)
    ∧ (Starts s k 1 0x07 w → ∃ t, exec (.tov k w) s = .next t
      ∧ (∀ j, j < 64 → lane 0 ((coreAt t k).rdW (opIdx w.f0)) j = (((coreAt s k).rdB (opIdx w.f1)).at' w.h j).toNat % 2 ^ 32)
      ∧ OnlyW s t k (opIdx w.f0) ∧ OnlyGoesOn s t k)
    ∧ (Starts s k 1 0x08 w → ∃ t, exec (.fromv k w) s = .next t
      ∧ (∀ i j, j < 64 → (((coreAt t k).rdB (opIdx w.f0)).at' i j).toNat =
          if i = w.h then lane 0 ((coreAt s k).rdW (opIdx w.f1)) j else (((coreAt s k).rdB (opIdx w.f0)).at' i j).toNat)
      ∧ OnlyB s t k (opIdx w.f0) ∧ OnlyGoesOn s t k)
    ∧ (Starts s k 1 0x06 w → ∃ t, exec (.rowscale k w) s = .next t
      ∧ (∀ i j, i < 32 → j < 64 → (((coreAt t k).rdB (opIdx w.f0)).at' i j) =
          ((mulF32 ((((coreAt s k).rdB (opIdx w.f0)).at' i j).truncate 32)
            (lane32 ((coreAt s k).rdW (opIdx w.f1)) i)).1.zeroExtend 48 : BitVec 48))
      ∧ OnlyB s t k (opIdx w.f0) ∧ OnlyGoesOn s t k)

/-- The factors of cell (i, j) in K-block `kb` of an MMA, in ascending order of position (R95, R100, R107). -/
def Sys2Proof.Claims.cellFactors (s : State) (k : Fetch) (x : MmaArgs) (kb i j : Nat) : List (Nat × Nat) :=
  factors ((loadA s.dev s k.core x.a kb).row i) ((loadB s.dev s k.core x.b kb).1.getD j [])

/-- One side of a cell: the format, whether block scales apply, and the scale (R92). -/
def Sys2Proof.Claims.sideOf (t : Desc) (scales : List Nat) (i : Nat) : Side := ⟨t.format, t.mx, scales.getD i 127⟩

/-- The operands of an MMA word. -/
def Sys2Proof.Claims.argsOf (s : State) (k : Fetch) (w : OpWord) : MmaArgs := mmaArgs ((coreAt s k).capture 1 1 w true {}) s.dev.chip.frm.cur

/-- The K-block holds a NaN, an infinity or a NaN block scale, in whatever row or column: every cell of it is then summed under IEEE 754 (R99). -/
def Sys2Proof.Claims.anySpecial (s : State) (k : Fetch) (x : MmaArgs) : Bool :=
  let A := loadA s.dev s k.core x.a x.kb0
  let B := loadB s.dev s k.core x.b x.kb0
  ((List.range 32).any fun i => (A.row i).any (sideOf x.a A.scales i).special)
    || (List.range 64).any fun j => (B.1.getD j []).any fun p => (sideOf x.b B.2 j).special p.2

/-- MMA over one K-block, operands sound and the engine without defect or injection (R95 to R100, R148): every cell of the bank
takes the block sum of its factors, in integer form, in FP32 product by product, or in FP32 with one rounding; with ZERO the
bank starts from 0 (overflow to infinity sets OF and a zero block sum adds +0, logs 23 and 24). OUT writes the tile of converted entries, and no byte outside it (R103 to R105, R148). -/
def Obligations.MatrixMultiplyAndOut : Prop :=
  ∀ (s : State) (k : Fetch) (w : OpWord),
    (Starts s k 1 0x01 w → w.h = 1 → bitOf w.i 17 = false → s.gate.inj.st ≠ .active →
      (∀ r ∈ rangesA (argsOf s k w).a (argsOf s k w).kb0 ++ rangesB (argsOf s k w).b (argsOf s k w).kb0, sound s k r.1 r.2 = true) →
      ∃ t, exec (.mma k w {}) s = .next t
      ∧ (∀ i j, i < 32 → j < 64 →
          let x := argsOf s k w
          let a := sideOf x.a (loadA s.dev s k.core x.a x.kb0).scales i
          let b := sideOf x.b (loadB s.dev s k.core x.b x.kb0).2 j
          let old := if x.zero then 0 else ((coreAt s k).rdB x.bank).at' i j
          ((coreAt t k).rdB x.bank).at' i j =
            (if x.isInt then cellInt a b (cellFactors s k x x.kb0 i j) 0 old
             else if x.a.format.isHalf then cellHalf a b (cellFactors s k x x.kb0 i j) 0 (old.truncate 32)
             else cellExact a b (cellFactors s k x x.kb0 i j) 0 (anySpecial s k x) (old.truncate 32)).ent)
      ∧ OnlyB s t k (opIdx w.f0) ∧ SameMemory s t ∧ KeepsOuter s t)
    ∧ (Starts s k 1 0x02 w → (coreAt s k).closed = [] →
      (∀ r ∈ (outRanges ((coreAt s k).capture 1 2 w true {}) s.dev.chip.frm.cur).1, noUncorr s k r.1 r.2 = true) →
      ∃ t, exec (.out k w) s = .next t
      ∧ (∀ x, t.mem.get x =
          match (if pantryAddr k.core 0 ≤ x then
              Tab.find (outTile ((coreAt s k).rdB (opIdx w.f0)) (outDesc ((coreAt s k).capture 1 2 w true {}) s.dev.chip.frm.cur)
                (fun a => s.mem.get (pantryAddr k.core a)) s.dev).m (x - pantryAddr k.core 0) else none) with
          | some b => b
          | none => s.mem.get x)
      ∧ SameFiles s t k ∧ GoesOn s t k)

/-- The integer accumulator (R98): an integer MMA without block scales, over one K-block on sound operands, adds to each 48-bit entry the exact block sum
with no rounding, saturating at -2^47 and 2^47 - 1; the core's SAT flag is set exactly when it was or an entry saturates. -/
def Obligations.IntegerAccumulatorSaturates : Prop :=
  ∀ (s : State) (k : Fetch) (w : OpWord),
    let x := argsOf s k w
    let a (i : Nat) := sideOf x.a (loadA s.dev s k.core x.a x.kb0).scales i
    let b (j : Nat) := sideOf x.b (loadB s.dev s k.core x.b x.kb0).2 j
    let sum (i j : Nat) : Int := (((coreAt s k).rdB x.bank).at' i j).toInt + (products (a i) (b j) (cellFactors s k x x.kb0 i j)).sum
    let out (v : Int) : Prop := v < -(2 ^ 47) ∨ 2 ^ 47 - 1 < v
    Starts s k 1 0x01 w → w.h = 1 → bitOf w.i 17 = false → s.gate.inj.st ≠ .active → x.isInt = true → x.zero = false →
      (∀ r ∈ rangesA x.a x.kb0 ++ rangesB x.b x.kb0, sound s k r.1 r.2 = true) →
      ∃ t, exec (.mma k w {}) s = .next t
      ∧ (∀ i j, i < 32 → j < 64 → (((coreAt t k).rdB x.bank).at' i j).toInt = max (-(2 ^ 47)) (min (2 ^ 47 - 1) (sum i j)))
      ∧ ((coreAt t k).flags.testBit 2 = true ↔ (coreAt s k).flags.testBit 2 = true ∨ ∃ i j, i < 32 ∧ j < 64 ∧ out (sum i j))
      ∧ OnlyB s t k (opIdx w.f0) ∧ SameMemory s t ∧ KeepsOuter s t

/-- The floating-point lane operations (R111, R152): ADD, SUB, MUL and FMA write each enabled lane with the exact result rounded
to the lane type, stochastically where H[8] asks (a 16-bit lane is rounded
from the FP32 value, log 11); masked-off lanes keep their values. -/
def Obligations.FloatLanes : Prop :=
  ∀ (s : State) (k : Fetch) (w : OpWord),
    let ty := laneTy w
    let x (l : Nat) : FV := (laneFmt ty).decode (laneA s k w ty l)
    let y (l : Nat) : FV := (laneFmt ty).decode (laneB s k w ty l)
    let z (l : Nat) : FV := (laneFmt ty).decode (lane ty ((coreAt s k).rdW (opIdx w.f3)) l)
    (Starts s k 2 0x01 w → ∃ t, exec (.add k w) s = .next t
      ∧ VecDone s t k w fun l => (floatLane ty (randOf s w l) ((x l).add (y l)) [x l, y l]).1)
    ∧ (Starts s k 2 0x02 w → ∃ t, exec (.sub k w) s = .next t
      ∧ VecDone s t k w fun l => (floatLane ty (randOf s w l) ((x l).add (y l).neg) [x l, y l]).1)
    ∧ (Starts s k 2 0x03 w → ∃ t, exec (.mul k w) s = .next t
      ∧ VecDone s t k w fun l => (floatLane ty (randOf s w l) ((x l).mul (y l)) [x l, y l]).1)
    ∧ (Starts s k 2 0x04 w → ∃ t, exec (.fma k w) s = .next t
      ∧ VecDone s t k w fun l => (floatLane ty (randOf s w l) (((x l).mul (y l)).add (z l)) [x l, y l, z l]).1)

/-- The integer lane operations (R152): IADD, ISUB and IMUL keep the low bits of the exact result; AND, OR and XOR act bit by
bit; SHL and SRA shift by an unsigned count, a count of the lane's width or more giving 0 or the sign fill. -/
def Obligations.IntegerLanes : Prop :=
  ∀ (s : State) (k : Fetch) (w : OpWord),
    let ty := laneTy w
    let n := laneBits ty
    let a := laneA s k w ty
    let b := laneB s k w ty
    (Starts s k 2 0x30 w → ∃ t, exec (.iadd k w) s = .next t ∧ VecDone s t k w fun l => a l + b l)
    ∧ (Starts s k 2 0x31 w → ∃ t, exec (.isub k w) s = .next t ∧ VecDone s t k w fun l => a l + (2 ^ n - b l))
    ∧ (Starts s k 2 0x32 w → ∃ t, exec (.imul k w) s = .next t ∧ VecDone s t k w fun l => a l * b l)
    ∧ (Starts s k 2 0x33 w → ∃ t, exec (.and k w) s = .next t ∧ VecDone s t k w fun l => a l &&& b l)
    ∧ (Starts s k 2 0x34 w → ∃ t, exec (.or k w) s = .next t ∧ VecDone s t k w fun l => a l ||| b l)
    ∧ (Starts s k 2 0x35 w → ∃ t, exec (.xor k w) s = .next t ∧ VecDone s t k w fun l => a l ^^^ b l)
    ∧ (Starts s k 2 0x36 w → ∃ t, exec (.shl k w) s = .next t ∧ VecDone s t k w fun l => if n ≤ b l then 0 else a l * 2 ^ b l)
    ∧ (Starts s k 2 0x37 w → ∃ t, exec (.sra k w) s = .next t
      ∧ VecDone s t k w fun l => ((toSigned n (a l) / 2 ^ min (b l) n) % 2 ^ n).toNat)

/-- Choices between lanes (R152): VEC_MIN and VEC_MAX, SEL by a mask register, VEC_CMP into a mask register with masked-off
lanes 0. -/
def Obligations.LaneChoices : Prop :=
  ∀ (s : State) (k : Fetch) (w : OpWord),
    let ty := laneTy w
    let a := laneA s k w ty
    let b := laneB s k w ty
    (Starts s k 2 0x05 w → ∃ t, exec (.vecMin k w) s = .next t ∧ VecDone s t k w fun l => (pickLane ty FV.min (a l) (b l)).1)
    ∧ (Starts s k 2 0x06 w → ∃ t, exec (.vecMax k w) s = .next t ∧ VecDone s t k w fun l => (pickLane ty FV.max (a l) (b l)).1)
    ∧ (Starts s k 2 0x08 w → ∃ t, exec (.sel k w) s = .next t
      ∧ VecDone s t k w fun l => if ((coreAt s k).rdM (opIdx w.f3)).getLsbD l then a l else b l)
    ∧ (Starts s k 2 0x07 w → ∃ t, exec (.vecCmp k w) s = .next t
      ∧ (∀ l, l < 128 → ((coreAt t k).rdM (opIdx w.f0)).getLsbD l =
          if opIdx w.f0 = 0 then true
          else decide (l < laneCount ty) && enabled s k w l
            && condFV (bitsOf w.i 0 3) ((laneFmt ty).decode (a l)) ((laneFmt ty).decode (b l)))
      ∧ OnlyM s t k (opIdx w.f0) ∧ OnlyGoesOn s t k)

/-- Conversions and makers of lanes (R101 to R105, R152): CVT converts 64 lanes, of a 16-bit side the half that I[4] selects
(on both sides, log 12);
QMX returns the scales of its two blocks in a scalar; BCAST, IOTA and MLEN make lanes and masks. -/
def Obligations.LaneMakers : Prop :=
  ∀ (s : State) (k : Fetch) (w : OpWord),
    let ty := laneTy w
    let tyS := bitsOf w.i 0 4
    let hi := if bitOf w.i 4 then 64 else 0
    let dl (i : Nat) : Nat := if laneBytes ty = 2 then i + hi else i
    let sl (i : Nat) : Nat := if laneBytes tyS = 2 then i + hi else i
    let vs := (lanes 0 ((coreAt s k).rdW (opIdx w.f1))).map Fmt.fp32.decode
    let f := (Fmt.ofCode (bitsOf w.i 0 4)).getD .e4m3
    (Starts s k 2 0x09 w → ∃ t, exec (.cvt k w) s = .next t
      ∧ (∀ i, i < 64 → lane ty ((coreAt t k).rdW (opIdx w.f0)) (dl i) =
          if enabled s k w (dl i) then
            (convert (laneFmt ty) ((laneFmt tyS).decode (laneA s k w tyS (sl i))) (bitOf w.i 5) (randOf s w i)).1 % 2 ^ laneBits ty
          else lane ty ((coreAt s k).rdW (opIdx w.f0)) (dl i))
      ∧ OnlyW s t k (opIdx w.f0) ∧ OnlyGoesOn s t k)
    ∧ (Starts s k 2 0x0A w → ∃ t, exec (.qmx k w) s = .next t
      ∧ (coreAt t k).rdS (opIdx w.f2) =
          (if opIdx w.f2 = 0 then 0 else BitVec.ofNat 32 (mxScale f (vs.take 32) + 256 * mxScale f (vs.drop 32)))
      ∧ (∀ j, j ≠ opIdx w.f2 → (coreAt t k).rdS j = (coreAt s k).rdS j)
      ∧ (∀ j, j ≠ opIdx w.f0 → (coreAt t k).rdW j = (coreAt s k).rdW j)
      ∧ (coreAt t k).b = (coreAt s k).b ∧ (coreAt t k).m = (coreAt s k).m ∧ (coreAt t k).p = (coreAt s k).p
      ∧ (coreAt t k).d = (coreAt s k).d ∧ OnlyGoesOn s t k)
    ∧ (Starts s k 2 0x0B w → ∃ t, exec (.bcast k w) s = .next t
      ∧ VecDone s t k w fun _ => if bitOf w.i 31 then w.j else ((coreAt s k).rdS (opIdx w.f1)).toNat)
    ∧ (Starts s k 2 0x0C w → ∃ t, exec (.iota k w) s = .next t ∧ VecDone s t k w fun l => l)
    ∧ (Starts s k 2 0x0D w → ∃ t, exec (.mlen k w) s = .next t
      ∧ (∀ l, l < 128 → ((coreAt t k).rdM (opIdx w.f0)).getLsbD l =
          (if opIdx w.f0 = 0 then true else decide (l < min ((coreAt s k).rdS (opIdx w.f1)).toNat (laneCount ty))))
      ∧ OnlyM s t k (opIdx w.f0) ∧ OnlyGoesOn s t k)

/-- The function approximations (R112): every enabled lane takes what the module gives for its input, lane by lane, rounded stochastically where
H[8] asks (R152); the results that R112 states are given exactly, such as: a NaN gives the canonical NaN; EXP above 88.72284 gives +Inf; LN of
a negative number gives NaN with NV; RCP of +0 gives +Inf. Where R112 gives only a bound, the result lies within it and the choice within
it is the free value of log 5 (beyond 4,096 a 16-bit sine or cosine cannot lie within the bound; there it is the value nearest). -/
def Obligations.FunctionLanes : Prop :=
  (∀ (s : State) (k : Fetch) (w : OpWord),
    let ty := laneTy w
    let a := laneA s k w ty
    (Starts s k 2 0x10 w → ∃ t, exec (.exp k w) s = .next t ∧ VecDone s t k w fun l => (fnLane .exp ty (a l) (randOf s w l)).1)
    ∧ (Starts s k 2 0x11 w → ∃ t, exec (.exp2 k w) s = .next t ∧ VecDone s t k w fun l => (fnLane .exp2 ty (a l) (randOf s w l)).1)
    ∧ (Starts s k 2 0x12 w → ∃ t, exec (.ln k w) s = .next t ∧ VecDone s t k w fun l => (fnLane .ln ty (a l) (randOf s w l)).1)
    ∧ (Starts s k 2 0x13 w → ∃ t, exec (.log2 k w) s = .next t ∧ VecDone s t k w fun l => (fnLane .log2 ty (a l) (randOf s w l)).1)
    ∧ (Starts s k 2 0x14 w → ∃ t, exec (.rcp k w) s = .next t ∧ VecDone s t k w fun l => (fnLane .rcp ty (a l) (randOf s w l)).1)
    ∧ (Starts s k 2 0x15 w → ∃ t, exec (.rsq k w) s = .next t ∧ VecDone s t k w fun l => (fnLane .rsq ty (a l) (randOf s w l)).1)
    ∧ (Starts s k 2 0x16 w → ∃ t, exec (.sin k w) s = .next t ∧ VecDone s t k w fun l => (fnLane .sin ty (a l) (randOf s w l)).1)
    ∧ (Starts s k 2 0x17 w → ∃ t, exec (.cos k w) s = .next t ∧ VecDone s t k w fun l => (fnLane .cos ty (a l) (randOf s w l)).1))
  ∧ (∀ f x sr, (Fmt.fp32.decode x).isNan = true → (fnLane f 0 x sr).1 = 0x7FC00000)
  ∧ (∀ sr, (fnLane .exp 0 0x42B18000 sr).1 = 0x7F800000)
  ∧ (∀ x sr, (Fmt.fp32.decode x).isNan = false → (Fmt.fp32.decode x).isZero = false → (Fmt.fp32.decode x).isNeg = true →
      fnLane .ln 0 x sr = (0x7FC00000, flagNV) ∧ fnLane .log2 0 x sr = (0x7FC00000, flagNV))
  ∧ (∀ sr, (fnLane .rcp 0 0 sr).1 = 0x7F800000)
  ∧ ∀ f ty x sr, ty < 3 → fnSpecial f ((laneFmt ty).decode x) = none → ty = 0 ∨ f.far ((laneFmt ty).decode x) = false →
      fnAllows f (laneFmt ty) ((laneFmt ty).decode x) (fnExact f ((laneFmt ty).decode x)) (fnLane f ty x sr).1 = true

/-- Sorting and gathering (R113, R159): SORT writes the sorted keys and their payloads, a permutation of what it read; TOPK the
first k of the descending order and +0 elsewhere; GATHER the indexed element of each enabled lane, +0 and a mark where the index
is out of range. -/
def Obligations.SortAndGather : Prop :=
  ∀ (s : State) (k : Fetch) (w : OpWord),
    let ty := laneTy w
    let ins := keysOf (coreAt s k) ((coreAt s k).capture 2 0x20 w true {}) ty
    let outS (t : State) : List (Nat × Nat) :=
      (List.range 64).map fun l => (lane ty ((coreAt t k).rdW (opIdx w.f0)) l, lane 4 ((coreAt t k).rdW (opIdx w.f3)) l)
    (Starts s k 2 0x20 w → opIdx w.f0 ≠ opIdx w.f3 → ∃ t, exec (.sort k w) s = .next t
      ∧ outS t = sortKeys (if bitOf w.i 0 then fun a b => keyLt ty b a else keyLt ty) ins
      ∧ (outS t).Perm ins
      ∧ (∀ j, j ≠ opIdx w.f0 → j ≠ opIdx w.f3 → (coreAt t k).rdW j = (coreAt s k).rdW j) ∧ OnlyGoesOn s t k)
    ∧ (Starts s k 2 0x21 w → opIdx w.f0 ≠ opIdx w.f3 → ∃ t, exec (.topk k w) s = .next t
      ∧ (∀ l, l < 64 → (lane ty ((coreAt t k).rdW (opIdx w.f0)) l, lane 4 ((coreAt t k).rdW (opIdx w.f3)) l) =
          if l < bitsOf w.i 0 7 then
            (sortKeys (fun a b => keyLt ty b a) (keysOf (coreAt s k) ((coreAt s k).capture 2 0x21 w true {}) ty)).getD l (0, 0)
          else (0, 0))
      ∧ (∀ j, j ≠ opIdx w.f0 → j ≠ opIdx w.f3 → (coreAt t k).rdW j = (coreAt s k).rdW j) ∧ OnlyGoesOn s t k)
    ∧ (Starts s k 2 0x22 w →
        let d := (Desc.ofBits ((coreAt s k).rdD (opIdx w.f1))).pingPong s.dev.chip.frm.cur
        let e := laneBytes (gatherTy d)
        let idx (l : Nat) : Int := toSigned 32 (laneB s k w 3 l)
        (∀ l, l < 64 → enabled s k w l = true → ∀ a, gatherAddr d (idx l) = some a → sound s k a e = true) →
        ∃ t, exec (.gather k w) s = .next t
      ∧ (∀ l, l < 64 → lane (gatherTy d) ((coreAt t k).rdW (opIdx w.f0)) l =
          if enabled s k w l then
            (match gatherAddr d (idx l) with
              | some a => leField (sliceAt s k a e) 0 e
              | none => 0)
          else lane (gatherTy d) ((coreAt s k).rdW (opIdx w.f0)) l)
      ∧ (∀ l, l < 128 → ((coreAt t k).rdM (opIdx w.f3)).getLsbD l =
          if opIdx w.f3 = 0 then true else decide (l < 64) && enabled s k w l && (gatherAddr d (idx l)).isNone)
      ∧ GoesOn s t k ∧ SameMemory s t)

/-- The lanes that a reduction takes, with their indices, in ascending order. -/
def Sys2Proof.Claims.taken (s : State) (k : Fetch) (w : OpWord) : List (Nat × Nat) :=
  ((List.range (laneCount (laneTy w))).filter (enabled s k w)).map fun l => (l, laneA s k w (laneTy w) l)

/-- Reductions of lanes into scalars (R153): SUM by the fixed pairwise tree, or the low 32 bits of the exact integer sum;
RED_MAX, RED_MIN and ARGMAX the first best lane of the order of R113, a NaN made canonical; the bits above a 16-bit lane are free
(log 4). -/
def Obligations.LaneReductions : Prop :=
  ∀ (s : State) (k : Fetch) (w : OpWord),
    let ty := laneTy w
    let terms : List Word := (List.range 64).map fun l => if enabled s k w l then lane32 ((coreAt s k).rdW (opIdx w.f1)) l else 0
    (Starts s k 3 0x01 w → opIdx w.f0 ≠ 0 → ∃ t, exec (.sum k w) s = .next t
      ∧ (coreAt t k).rdS (opIdx w.f0) =
          (if ty = 0 then pairTree addF32 6 terms else BitVec.ofInt 32 ((terms.map BitVec.toInt).sum))
      ∧ OnlyS s t k (opIdx w.f0) ∧ OnlyGoesOn s t k)
    ∧ (Starts s k 3 0x02 w → opIdx w.f0 ≠ 0 → ∀ p, firstBest (fun a b => keyLt ty b a) (taken s k w) = some p →
        ∃ t, exec (.redMax k w) s = .next t
      ∧ ((coreAt t k).rdS (opIdx w.f0)).toNat % 2 ^ laneBits ty = canonLane ty p.2 ∧ OnlyS s t k (opIdx w.f0) ∧ OnlyGoesOn s t k)
    ∧ (Starts s k 3 0x03 w → opIdx w.f0 ≠ 0 → ∀ p, firstBest (keyLt ty) (taken s k w) = some p →
        ∃ t, exec (.redMin k w) s = .next t
      ∧ ((coreAt t k).rdS (opIdx w.f0)).toNat % 2 ^ laneBits ty = canonLane ty p.2 ∧ OnlyS s t k (opIdx w.f0) ∧ OnlyGoesOn s t k)
    ∧ (Starts s k 3 0x04 w → opIdx w.f0 ≠ 0 → opIdx w.f2 ≠ 0 → opIdx w.f0 ≠ opIdx w.f2 →
        ∀ p, firstBest (fun a b => keyLt ty b a) (taken s k w) = some p →
        ∃ t, exec (.argmax k w) s = .next t
      ∧ ((coreAt t k).rdS (opIdx w.f0)).toNat % 2 ^ laneBits ty = canonLane ty p.2
      ∧ (coreAt t k).rdS (opIdx w.f2) = BitVec.ofNat 32 p.1
      ∧ (∀ j, j ≠ opIdx w.f0 → j ≠ opIdx w.f2 → (coreAt t k).rdS j = (coreAt s k).rdS j) ∧ OnlyGoesOn s t k)

/-- Reductions of bank rows and of expert vectors (R153, R158, R160), of an FP32 bank: BROWMAX and BROWSUM put each row's maximum
and its sum in ascending order into lanes 0 to 31; SMX puts the new row maxima into F0's lanes 0 to 31; MOEC adds the gated vectors
with one rounding each. -/
def Obligations.BankReductions : Prop :=
  ∀ (s : State) (k : Fetch) (w : OpWord),
    let b := (coreAt s k).rdB (opIdx w.f1)
    let n := min ((coreAt s k).rdS (opIdx w.f2)).toNat 64
    let row (i : Nat) : List Word := (List.range n).map fun j => (b.at' i j).truncate 32
    (Starts s k 3 0x05 w → b.isInt = false → ∃ t, exec (.browmax k w) s = .next t
      ∧ (∀ l, l < 64 → lane 0 ((coreAt t k).rdW (opIdx w.f0)) l =
          if l < 32 then (toF32 (maxF32 (.inf true) (row l))).toNat else lane 0 ((coreAt s k).rdW (opIdx w.f0)) l)
      ∧ OnlyW s t k (opIdx w.f0) ∧ OnlyGoesOn s t k)
    ∧ (Starts s k 3 0x06 w → b.isInt = false → ∃ t, exec (.browsum k w) s = .next t
      ∧ (∀ l, l < 64 → lane 0 ((coreAt t k).rdW (opIdx w.f0)) l =
          if l < 32 then (sumAsc (row l)).toNat else lane 0 ((coreAt s k).rdW (opIdx w.f0)) l)
      ∧ OnlyW s t k (opIdx w.f0) ∧ OnlyGoesOn s t k)
    ∧ (Starts s k 3 0x08 w → b.isInt = false → opIdx w.f0 ≠ opIdx w.f2 → opIdx w.f0 ≠ opIdx w.f3 → opIdx w.f2 ≠ opIdx w.f3 →
        let sm (i : Nat) : SmxRow := smxRow ((coreAt s k).rdS (bitsOf w.h 8 8)) ((List.range 64).map fun j => (b.at' i j).truncate 32)
          (min ((coreAt s k).rdS (bitsOf w.h 0 8)).toNat 64) (lane32 ((coreAt s k).rdW (opIdx w.f0)) i)
          (lane32 ((coreAt s k).rdW (opIdx w.f2)) i)
        ∃ t, exec (.smx k w) s = .next t
      ∧ (∀ i, i < 32 → lane32 ((coreAt t k).rdW (opIdx w.f0)) i = (sm i).mu
          ∧ lane32 ((coreAt t k).rdW (opIdx w.f2)) i = (sm i).l ∧ lane32 ((coreAt t k).rdW (opIdx w.f3)) i = (sm i).c)
      ∧ ((coreAt t k).rdB (opIdx w.f1)).tagA = 0x3F800000 ∧ ((coreAt t k).rdB (opIdx w.f1)).tagB = 0x3F800000
      ∧ (∀ j, j ≠ opIdx w.f1 → (coreAt t k).rdB j = (coreAt s k).rdB j) ∧ OnlyGoesOn s t k)
    ∧ (Starts s k 3 0x09 w →
        let d := (Desc.ofBits ((coreAt s k).rdD (opIdx w.f1))).pingPong s.dev.chip.frm.cur
        let ty := if d.format = .bf16 then 1 else 0
        let at' (e : Nat) : Nat := d.base + e * d.stride + ((coreAt s k).rdS (opIdx w.f3)).toNat
        (∀ e, e < bitsOf w.h 0 4 → sound s k (at' e) 256 = true) →
        ∃ t, exec (.moec k w) s = .next t
      ∧ (∀ l, l < laneCount ty → lane ty ((coreAt t k).rdW (opIdx w.f0)) l =
          (convert d.format (f32 ((List.range (bitsOf w.h 0 4)).foldl (fun (a : Word) e =>
            BitVec.ofNat 32 (convert .fp32 (((f32 (lane32 ((coreAt s k).rdW (opIdx w.f2)) e)).mul
              (d.format.decode ((unpackElems d.format.bits (laneCount ty) (sliceAt s k (at' e) 256)).getD l 0))).add (f32 a)) false none).1)
            0)) false none).1 % 2 ^ laneBits ty)
      ∧ OnlyW s t k (opIdx w.f0) ∧ GoesOn s t k ∧ SameMemory s t)

/-- The controller's words on registers (R154, R156): NOP, SETI, ALU, CTRL_CMP, PLOG, RDCYC, RDFRM, TOL and FLAGS; a write to s0
or p0 is discarded (R119). Each goes on and changes only the register named, TOL the tolerance of a bank, FLAGS the program's
copy of the flags. -/
def Obligations.ControllerRegisters : Prop :=
  ∀ (s : State) (k : Fetch) (w : OpWord) (cycles : Nat),
    let c := coreAt s k
    let a := c.rdS (opIdx w.f1)
    let b := if bitOf w.i 31 then BitVec.ofNat 32 w.j else c.rdS (opIdx w.f2)
    let r := opIdx w.f0
    (Acts s k 4 0x00 w → ∃ t, exec (.nop k w) s = .next t ∧ SameFiles s t k ∧ OnlyGoesOn s t k)
    ∧ (Acts s k 4 0x01 w → ∃ t, exec (.seti k w) s = .next t
      ∧ (coreAt t k).rdS r = (if r = 0 then 0 else BitVec.ofNat 32 w.j) ∧ OnlyS s t k r ∧ OnlyGoesOn s t k)
    ∧ (Acts s k 4 0x02 w → ∃ t, exec (.alu k w) s = .next t
      ∧ (coreAt t k).rdS r = (if r = 0 then 0 else
          match w.h with
          | 0 => a + b
          | 1 => a - b
          | 2 => a * b
          | 3 => a &&& b
          | 4 => a ||| b
          | 5 => a ^^^ b
          | 6 => if 32 ≤ b.toNat then 0 else a <<< b.toNat
          | 7 => if 32 ≤ b.toNat then 0 else a >>> b.toNat
          | 8 => a.sshiftRight (min b.toNat 32)
          | 9 => if a.toInt ≤ b.toInt then a else b
          | _ => if b.toInt ≤ a.toInt then a else b)
      ∧ OnlyS s t k r ∧ OnlyGoesOn s t k)
    ∧ (Acts s k 4 0x03 w → ∃ t, exec (.ctrlCmp k w) s = .next t
      ∧ (coreAt t k).rdP r = (if r = 0 then true else
          if bitOf w.h 3 then condInt (bitsOf w.h 0 3) a.toNat b.toNat else condInt (bitsOf w.h 0 3) a.toInt b.toInt)
      ∧ OnlyP s t k r ∧ OnlyGoesOn s t k)
    ∧ (Acts s k 4 0x04 w → ∃ t, exec (.plog k w) s = .next t
      ∧ (coreAt t k).rdP r = (if r = 0 then true else
          match w.h with
          | 0 => c.rdP (opIdx w.f1) && c.rdP (opIdx w.f2)
          | 1 => c.rdP (opIdx w.f1) || c.rdP (opIdx w.f2)
          | 2 => c.rdP (opIdx w.f1) != c.rdP (opIdx w.f2)
          | _ => c.rdP (opIdx w.f1) && !c.rdP (opIdx w.f2))
      ∧ OnlyP s t k r ∧ OnlyGoesOn s t k)
    ∧ (Acts s k 4 0x10 w → ∃ t, exec (.rdcyc k w cycles) s = .next t
      ∧ (coreAt t k).rdS r = (if r = 0 then 0 else BitVec.ofNat 32 (min cycles 0xFFFFFFFF)) ∧ OnlyS s t k r ∧ OnlyGoesOn s t k)
    ∧ (Acts s k 4 0x11 w → ∃ t, exec (.rdfrm k w) s = .next t
      ∧ (coreAt t k).rdS r = (if r = 0 then 0 else
          BitVec.ofNat 32 (if bitOf w.i 0 then s.dev.chip.frm.cur / 2 ^ 32 % 2 ^ 16 else s.dev.chip.frm.cur % 2 ^ 32))
      ∧ OnlyS s t k r ∧ OnlyGoesOn s t k)
    ∧ (Acts s k 5 0x01 w → ∃ t, exec (.tol k w) s = .next t
      ∧ (∀ i, Tab.get 4 (coreAt t k).tol i = if i = r then w.h else Tab.get 4 c.tol i) ∧ SameFiles s t k ∧ OnlyGoesOn s t k)
    ∧ (Acts s k 5 0x02 w → ∃ t, exec (.flags k w) s = .next t
      ∧ (coreAt t k).rdS r = (if r = 0 then 0 else BitVec.ofNat 32 c.flags)
      ∧ (∀ i, i < 5 → (coreAt t k).flags.testBit i = (c.flags.testBit i && !w.h.testBit i)) ∧ OnlyS s t k r ∧ OnlyGoesOn s t k)

/-- Where issue goes (R154, R155): LOOP with a count runs its body from the next word, with count 0 goes past the body's last
word; JUMP goes to J. -/
def Obligations.ControlFlow : Prop :=
  ∀ (s : State) (k : Fetch) (w : OpWord),
    let c := coreAt s k
    (Inv s → issues s k 4 0x08 w = true → 0 < w.h → ∃ t, exec (.loop k w) s = .next t
      ∧ (coreAt t k).pc = c.pc + 1 ∧ (coreAt t k).loops = ⟨w.h, c.pc + 1, w.j⟩ :: c.loops
      ∧ SameFiles s t k ∧ OnlyCore s t k.core ∧ SameMemory s t ∧ KeepsOuter s t)
    ∧ (Inv s → issues s k 4 0x08 w = true → w.h = 0 → (advance w.j c.loops).1 ≤ 0xFFF → ∃ t, exec (.loop k w) s = .next t
      ∧ ((coreAt t k).pc, (coreAt t k).loops) = advance w.j c.loops
      ∧ SameFiles s t k ∧ OnlyCore s t k.core ∧ SameMemory s t ∧ KeepsOuter s t)
    ∧ (Inv s → issues s k 4 0x09 w = true → ∃ t, exec (.jump k w) s = .next t
      ∧ (coreAt t k).pc = w.j ∧ (coreAt t k).loops = c.loops
      ∧ SameFiles s t k ∧ OnlyCore s t k.core ∧ SameMemory s t ∧ KeepsOuter s t)

/-- Waits and barriers (R122, R124, R144, R154, R157): SYNC waits unless its units are idle; WAITRX waits for the last replay
slot; BARRIVE records the arrival in the running frame; BTEST answers at once when no replay slot is still to come; FRAMEEND
ends the step once every unit is idle. -/
def Obligations.WaitsAndBarriers : Prop :=
  ∀ (s : State) (k : Fetch) (w : OpWord) (cycles ns : Nat),
    let c := coreAt s k
    (Acts s k 4 0x0A w → ∃ t, exec (.sync k w) s = .next t
      ∧ (coreAt t k).wait = (if c.syncDone w.h then none else some (.sync w.h)) ∧ SameFiles s t k ∧ OnlyGoesOn s t k)
    ∧ (Acts s k 4 0x0B w → ∃ t, exec (.waitrx k w) s = .next t
      ∧ (coreAt t k).wait = (if c.replay then some .rx else none) ∧ SameFiles s t k ∧ OnlyGoesOn s t k)
    ∧ (Acts s k 4 0x0C w → ∃ t, exec (.barrive k w) s = .next t
      ∧ (w.h, s.dev.chip.frm.cur) ∈ (coreAt t k).arrived ∧ w.h ∉ (coreAt t k).done
      ∧ (∀ b, b ≠ w.h → (b ∈ (coreAt t k).done ↔ b ∈ c.done)) ∧ SameFiles s t k ∧ OnlyGoesOn s t k)
    ∧ (Acts s k 4 0x0D w → c.replay = false → ∃ t, exec (.btest k w) s = .next t
      ∧ (coreAt t k).rdP (opIdx w.f0) = (if opIdx w.f0 = 0 then true else decide (w.h ∈ c.done))
      ∧ (coreAt t k).wait = none ∧ OnlyP s t k (opIdx w.f0) ∧ OnlyGoesOn s t k)
    ∧ (Acts s k 4 0x0D w → c.replay = true → ∃ t, exec (.btest k w) s = .next t
      ∧ (coreAt t k).wait = some (.btest (opIdx w.f0) w.h) ∧ SameFiles s t k ∧ OnlyGoesOn s t k)
    ∧ (Inv s → issues s k 4 0x0E w = true → ∃ t, exec (.frameend k w cycles ns) s = .next t
      ∧ (coreAt t k).st = (if c.allIdle then .ended else .ending) ∧ (coreAt t k).endCycles = cycles ∧ (coreAt t k).endAt = ns
      ∧ SameFiles s t k ∧ OnlyCore s t k.core ∧ SameMemory s t ∧ KeepsOuter s t)

/-- TRAP traps its core with USER and its code, at its word: the first trap of a frame is recorded and the frame of the core's
room fails with cause 2 (R123, R161, R290). Words that may not issue trap too: a double-bit error of the fetch with ISTORE, a
word whose class or code is not listed with ILLEGAL, a range outside the slice with ADDR (R78, R130, R135). -/
def Obligations.Traps : Prop :=
  ∀ (s : State) (k : Fetch) (w : OpWord),
    let c := coreAt s k
    let trapped (t : State) (code : Nat) : Prop :=
      (coreAt t k).st = .trapped ∧ (c.trappedNow = false → (coreAt t k).trapCode = code ∧ (coreAt t k).trapAddr = c.pc)
        ∧ (c.trappedNow = false → ∀ r, s.dev.chip.coreRoom k.core = some r → (r, 2) ∈ t.dev.failed)
        ∧ (coreAt t k).trappedNow = true ∧ (coreAt t k).wait = none ∧ (coreAt t k).pc = c.pc
        ∧ (∀ j, j ≠ k.core → t.dev.chip.core j = s.dev.chip.core j) ∧ SameFiles s t k ∧ SameMemory s t ∧ KeepsOuter s t
    (Inv s → issues s k 4 0x0F w = true → ∃ t, exec (.trap k w) s = .next t
      ∧ trapped t 6 ∧ (coreAt t k).userCode = w.h)
    ∧ (Inv s → s.active = true → coreOk k.core = true → c.st = .running → c.wait = none → k.eccLo = 2 ∨ k.eccHi = 2 →
        ∃ t, exec (.nop k w) s = .next t ∧ trapped t 4)
    ∧ (Inv s → s.active = true → coreOk k.core = true → c.st = .running → c.wait = none → k.eccLo < 2 → k.eccHi < 2 →
        (let x := unpackWord (Tab.get 0 c.istore c.pc).toNat
         opForm x.1 x.2.1 x.2.2 = none) →
        ∃ t, exec (.nop k w) s = .next t ∧ trapped t 1)

/-- XSIG posts the CRC-32C of H lines of the slice to comparison I[7:0] of the core's room; without an injection the post is the
plain CRC (R156, R427). -/
def Obligations.XsigPosts : Prop :=
  ∀ (s : State) (k : Fetch) (w : OpWord),
    Acts s k 5 0x03 w → s.gate.inj.st ≠ .active → sound s k (addrOf s k w) (128 * w.h) = true →
      ∃ t, exec (.xsig k w) s = .next t
        ∧ t.dev.chip.integ.posts = s.dev.chip.integ.posts
            ++ [⟨(s.dev.chip.coreRoom k.core).getD 0xFF, bitsOf w.i 0 8, k.core, (crc32c (sliceAt s k (addrOf s k w) (128 * w.h))).toNat⟩]
        ∧ SameFiles s t k ∧ AtNext s t k ∧ SameMemory s t ∧ KeepsOuter s t

/-- The units' own events and the queues (R140, R144): a word whose unit is busy waits in its queue; UNIT_START starts the first of
a free unit, whatever it is, and one masked off has no effect; OPERATION_COMPLETE ends what a unit runs, and a core that had issued FRAMEEND and has nothing left ends its step;
WAIT_END ends a SYNC wait once the units are idle. -/
def Obligations.UnitsAndQueues : Prop :=
  ∀ (s : State) (k : Fetch) (w : OpWord) (cycles ns : Nat) (cls : Nat),
    let c := coreAt s k
    let x := unitOf cls
    (Inv s → issues s k 0 0x08 w = true → goesOn s k = true → unitFree s k 0 = false → ∃ t, exec (.fill k w) s = .next t
      ∧ (coreAt t k).moveQ = c.moveQ ++ [c.capture 0 0x08 w true {}] ∧ SameFiles s t k ∧ OnlyGoesOn s t k)
    ∧ (Inv s → issues s k 2 0x01 w = true → goesOn s k = true → unitFree s k 2 = false → ∃ t, exec (.add k w) s = .next t
      ∧ (coreAt t k).vecQ = c.vecQ ++ [c.capture 2 0x01 w true {}] ∧ SameFiles s t k ∧ OnlyGoesOn s t k)
    ∧ (Inv s → s.active = true → ∀ u q, c.queue x = u :: q → c.inFlight x = false → ∃ t, exec (.unitStart k.core cls) s = .next t
      ∧ (coreAt t k).queue x = q ∧ (coreAt t k).flight = c.flight ++ [(unitOf u.cls, u)]
      ∧ (∀ j, j ≠ k.core → t.dev.chip.core j = s.dev.chip.core j) ∧ KeepsOuter s t
      ∧ (u.run = false → u.cls ≠ 1 → SameFiles s t k ∧ OnlyCore s t k.core ∧ SameMemory s t))
    ∧ (Inv s → s.active = true → ∃ t, exec (.operationComplete k.core cls cycles ns) s = .next t
      ∧ (coreAt t k).flight = c.flight.filter (fun p => p.1 ≠ x)
      ∧ (coreAt t k).st = (if c.st = .ending ∧ ({ c with flight := c.flight.filter fun p => p.1 ≠ x } : Core).allIdle then .ended
          else c.st)
      ∧ SameFiles s t k ∧ OnlyCore s t k.core ∧ SameMemory s t ∧ KeepsOuter s t)
    ∧ (Inv s → s.active = true → ∀ m, c.wait = some (.sync m) → c.syncDone m = true → ∃ t, exec (.waitEnd k.core) s = .next t
      ∧ (coreAt t k).wait = none ∧ SameFiles s t k ∧ OnlyCore s t k.core ∧ SameMemory s t ∧ KeepsOuter s t)

/-- The registers that never change and the registers written (R119): s0 reads 0, p0 reads 1, m0 reads all ones whatever is
written; every other register reads what was written last. -/
def Obligations.FixedRegisters : Prop :=
  ∀ (c : Core) (i j : Nat) (v : Word) (b : Bool) (m : BitVec 128),
    (c.wrS i v).rdS 0 = 0 ∧ (c.wrP i b).rdP 0 = true ∧ (c.wrM i m).rdM 0 = BitVec.allOnes 128
      ∧ (i ≠ 0 → (c.wrS i v).rdS i = v ∧ (c.wrP i b).rdP i = b ∧ (c.wrM i m).rdM i = m)
      ∧ (j ≠ i → (c.wrS i v).rdS j = c.rdS j ∧ (c.wrP i b).rdP j = c.rdP j ∧ (c.wrM i m).rdM j = c.rdM j)

/-- The operation word (R128): class, code and fields at the bits that the rule lists; they read back from the 128 bits, each at every value its
width admits; a word whose class is 6 to 15 is illegal. -/
def Obligations.OperationWordLayout : Prop :=
  ∀ (cls op : Nat) (w : OpWord), cls < 16 → op < 256 → wordOk w = true →
    let n := packWord cls op w
    n < 2 ^ 128 ∧ unpackWord n = (cls, op, w)
      ∧ n / 2 ^ 124 = cls ∧ n / 2 ^ 116 % 256 = op ∧ n / 2 ^ 115 % 2 = (if w.pneg then 1 else 0) ∧ n / 2 ^ 112 % 8 = w.psel
      ∧ n / 2 ^ 104 % 256 = w.f0 ∧ n / 2 ^ 96 % 256 = w.f1 ∧ n / 2 ^ 88 % 256 = w.f2 ∧ n / 2 ^ 80 % 256 = w.f3
      ∧ n / 2 ^ 64 % 2 ^ 16 = w.h ∧ n / 2 ^ 32 % 2 ^ 32 = w.i ∧ n % 2 ^ 32 = w.j
      ∧ (6 ≤ cls → wordLegal cls op w = false)

/-! ## Registers, views, alignment and snapshots -/

/-- Reads of a register (R4, R9, R55, R559, R563): a full read answers the word and clears the clear-on-read fields of that register
alone; a watermark restarts and keeps its published value; the low word of a pair latches the high word for its requester, which a
later read returns whatever happened between; one 64-bit access answers both and latches nothing; a read of part of a register
changes nothing. -/
def Obligations.RegisterReads : Prop :=
  ∀ (s : State) (r : Requester) (a be : Nat) (x : RegRef),
    Ready s → s.dev.chip.cutOff a = false → s.dev.readable r a = some x → (∀ p ∈ s.dev.pairs, ¬ (p.1 = r.code ∧ p.2.1 = a)) →
    a ≠ F.FRM_VIEW_LO.addr →
    let w := s.dev.word s.gate r x
    (be % 16 = 15 → keepsRc r x = false → x.row.pair = false → isWatermark x.row = false → ∃ t, exec (.rcRead r a be) s = .next t
      ∧ t.dev.out = [.value w] ∧ t.dev.rcPart x &&& x.row.rc = 0
      ∧ (∀ k, k / 32 ≠ x.key → Tab.get {} t.dev.pubCnt k = Tab.get {} s.dev.pubCnt k)
      ∧ t = { s with dev := { s.dev with out := t.dev.out, pubCnt := t.dev.pubCnt } })
    ∧ (be % 16 = 15 → keepsRc r x = false → x.row.pair = false → x.row.rc ≠ 0 → isWatermark x.row = true →
        ∃ t, exec (.watermarkRead r a be) s = .next t
      ∧ t.dev.out = [.value w] ∧ (Tab.get {} t.dev.wm x.key).acc = none ∧ (Tab.get {} t.dev.wm x.key).cur = (Tab.get {} s.dev.wm x.key).cur
      ∧ (∀ k, k ≠ x.key → Tab.get {} t.dev.wm k = Tab.get {} s.dev.wm k)
      ∧ t = { s with dev := { s.dev with out := t.dev.out, wm := t.dev.wm } })
    ∧ (x.row.rc = 0 → x.row.pair = true → (∀ p ∈ s.dev.pairs, ¬ (p.1 = r.code ∧ p.2.1 = a + 4)) →
        ∃ t, exec (.pairLowRead r a false) s = .next t
      ∧ t.dev.out = [.value w] ∧ t = { s with dev := { s.dev with out := t.dev.out, pairs := t.dev.pairs } }
      ∧ (∀ p, p.1 ≠ r.code → (p ∈ t.dev.pairs ↔ p ∈ s.dev.pairs))
      ∧ (∀ u : State, u.dev.pairs = t.dev.pairs → u.dev.chip.cutOff (a + 4) = false →
          u.dev.readWord u.gate r (a + 4) = s.dev.readWord s.gate r (a + 4)))
    ∧ (((regAt a).map fun y => y.1.pair).getD false = true → (∀ p ∈ s.dev.pairs, ¬ (p.1 = r.code ∧ p.2.1 = a + 4)) →
        ∃ t, exec (.pairLowRead r a true) s = .next t ∧ Answers s t [.value (w + s.dev.readWord s.gate r (a + 4) * 2 ^ 32)])
    ∧ (be % 16 ≠ 15 → ∃ t, exec (.rcRead r a be) s = .next t ∧ Answers s t [.value (w &&& enableMask be)])

/-- A register without rules of its own: its writes are staged as they are. -/
def Sys2Proof.Claims.plainReg (x : RegRef) : Bool :=
  !([0x4, 0x20600, 0x10018, 0x40000, 0x40008, 0x40030, 0x30000, 0x60004, 0x20014, 0xA00004, 0xD00000, 0x200330, 0x200334, 0x200340, 0x801104,
    0x801108, 0x200380].contains x.row.addr) && x.row.sel ≠ .queue && !x.row.now

/-- Writes of registers (R7, R8, R46, R56): a write is staged for the next threshold when at least 128 ns remain of the frame, else for the one
after, before frame 0 for threshold 0 (the last is the model's choice, log 44), and an RW bit reads back as written; a W1C
write stages the bits written 1; a period out of range is refused with BAD_WRITE; CONFIG_LOCK acts at once, clears ALLOW with its
staged writes and ends an armed or active injection. Nothing else changes. -/
def Obligations.RegisterWrites : Prop :=
  ∀ (s : State) (r : Requester) (t0 a v : Nat) (x : RegRef), Ready s →
    (s.dev.writable r a = some x → plainReg x = true → v < 2 ^ 32 →
      let m := s.dev.rwMask r x.row.addr v x.row.rw + (v &&& (x.row.w1c ||| x.row.w1s))
      m ≠ 0 → ∃ t, exec (.registerWrite r t0 a v) s = .next t
        ∧ t = { s with dev := { s.dev with staged := s.dev.staged ++ [⟨x.key, m, v &&& m, s.dev.chip.dueFrame t0, r⟩], out := [] } }
        ∧ (∀ b, m.testBit b = true → (t.dev.stagedReg x.key).testBit b = v.testBit b))
    ∧ (s.dev.writable r a = some x → v &&& x.row.w1c ≠ 0 → ∃ t, exec (.w1cWrite r t0 a v) s = .next t
        ∧ t = { s with dev := { s.dev with
            staged := s.dev.staged ++ [⟨x.key, v &&& x.row.w1c, v &&& x.row.w1c, s.dev.chip.dueFrame t0, r⟩], out := [] } })
    ∧ (8 ≤ v → v ≤ 128 → ∃ t, exec (.periodWrite .pf t0 v) s = .next t
        ∧ t.dev.staged = s.dev.staged ++ [⟨F.FRM_PERIOD_LEN.key, F.FRM_PERIOD_LEN.mask, v, s.dev.chip.dueFrame t0, .pf⟩]
        ∧ t = { s with dev := { s.dev with staged := t.dev.staged, out := [] } })
    ∧ (v < 8 ∨ 128 < v → ∃ t, exec (.periodWrite .pf t0 v) s = .next t
        ∧ t = { s with dev := { s.dev with ev := (s.dev.flag F.FRM_INT_STATUS_BAD_WRITE).ev, out := [] } })
    ∧ (s.dev.chip.boot.warm = false → s.dev.chip.boot.recovery = false → ∃ t, exec (.configLock .pf) s = .next t
        ∧ t.gate.locked = true ∧ t.gate.allow = false ∧ t.gate.allowStaged = []
        ∧ (t.gate.inj.st = if s.gate.inj.st = .armed ∨ s.gate.inj.st = .active then .done else s.gate.inj.st)
        ∧ t.dev.chip = s.dev.chip ∧ t.dev.staged = s.dev.staged ∧ t.mem = s.mem ∧ t.pending = s.pending)
    ∧ (s.dev.writable .pf 0x10018 = some x → s.gate.locked = true → v % 2 ≠ s.dev.stagedReg x.key % 2 → v < 2 ^ 32 →
        ∃ t, exec (.registerWrite .pf t0 0x10018 v) s = .next t
        ∧ t.dev.staged = s.dev.staged ∧ t.dev.chip.regs = s.dev.chip.regs ∧ t.gate = s.gate
        ∧ logged s t { cls := clsConfig, kind := 0, index := 0 })
    ∧ (s.dev.chip.frm.cur < 2 ^ 48 → s.dev.chip.dueFrame t0 =
        if s.dev.chip.frm.begun = false then 0
        else if t0 + 128 ≤ s.dev.chip.frameNs then (s.dev.chip.frm.cur + 1) % 2 ^ 48 else (s.dev.chip.frm.cur + 2) % 2 ^ 48)

/-- Views (R57): a read of FRM_VIEW_LO pins the last published frame for its requester, replaces an earlier view of it, answers the
low word and latches the high one; a release ends it; after 4,096 frames it ends and VIEW_EXPIRED stands for its requester. Views of
other requesters stay. -/
def Obligations.Views : Prop :=
  ∀ (s : State) (r : Requester), Ready s →
    (∃ t, exec (.viewPin r) s = .next t
      ∧ t.dev.out = [.value (s.dev.pub.frm.commit % 2 ^ 32)]
      ∧ t.dev.views.find? (fun p => p.1 = r.code) = some (r.code, ⟨s.dev.pub.frm.commit, s.dev.chip.frm.cur, s.dev.shown, s.dev.pubEv⟩)
      ∧ (∀ p, p.1 ≠ r.code → (p ∈ t.dev.views ↔ p ∈ s.dev.views)) ∧ r.code ∉ t.dev.expired
      ∧ t.dev.pairs.find? (fun p => p.1 = r.code && p.2.1 = F.FRM_VIEW_HI.addr)
          = some (r.code, F.FRM_VIEW_HI.addr, s.dev.pub.frm.commit / 2 ^ 32)
      ∧ t = { s with dev := { s.dev with out := t.dev.out, views := t.dev.views, expired := t.dev.expired, pairs := t.dev.pairs } })
    ∧ (∃ t, exec (.viewRelease r) s = .next t
      ∧ (∀ p, p ∈ t.dev.views ↔ p ∈ s.dev.views ∧ p.1 ≠ r.code) ∧ t = { s with dev := { s.dev with views := t.dev.views, out := [] } })
    ∧ (∀ v, s.dev.views.find? (fun p => p.1 = r.code) = some (r.code, v) →
        4096 ≤ frameSub (nextFrame s.dev.chip.frm.cur) v.pinned → ∃ t, exec (.viewExpired r) s = .next t
      ∧ (r.code, v) ∉ t.dev.views ∧ r.code ∈ t.dev.expired
      ∧ (∀ p, p.1 ≠ r.code → (p ∈ t.dev.views ↔ p ∈ s.dev.views))
      ∧ t = { s with dev := { s.dev with views := t.dev.views, expired := t.dev.expired, out := [] } })

/-- Frame alignment (R58 to R63): an edge in the first window of a threshold is accepted with its phase error and steps the frame by
it, at most 16 ns either way; a later edge of the window is an extra edge, also after one that HOLDOVER only counted; an edge outside every window is counted; with COARSE the
edge places the next threshold one period after it; the fourth close edge in a row locks. -/
def Obligations.EdgesAlignFrames : Prop :=
  ∀ (s : State) (e : Nat), Ready s →
    let x := s.dev.chip.frm.sync
    let y (t : State) := t.dev.chip.frm.sync
    s.dev.chip.fld F.FRM_SYNC_CTL_SRC = 1 → s.dev.chip.frm.begun = true → (x.st = .acquiring ∨ x.st = .locked ∨ x.st = .lost) →
    let took (t : State) (p : Int) : Prop :=
      (y t).phase = p ∧ (y t).good = (if -16 ≤ p ∧ p ≤ 16 then x.good + 1 else 0)
      ∧ (y t).st = (if x.st = .lost then .acquiring else if ¬ (-16 ≤ p ∧ p ≤ 16) then .acquiring
          else if x.st = .locked ∨ 3 ≤ x.good then .locked else .acquiring)
      ∧ ((y t).clearLost = true ↔ x.clearLost = true ∨ x.syncLost = true)
      ∧ t.dev.chip = { s.dev.chip with frm := { s.dev.chip.frm with sync := y t } } ∧ Quiet s t
    (x.coarse = false → e ≤ 256 → x.seen = false → x.came = false → ∃ t, exec (.syncInEdge e) s = .next t
      ∧ took t e ∧ (y t).step = min 16 (e : Int) ∧ (y t).seen = true)
    ∧ (x.coarse = false → 256 < e → (s.dev.chip.frameNs : Int) - 256 ≤ e → e ≤ s.dev.chip.frameNs + 256 → x.seenNext = false → x.cameNext = false →
        ∃ t, exec (.syncInEdge e) s = .next t
      ∧ took t (e - s.dev.chip.frameNs) ∧ (y t).stepNext = max (-16) (min 16 ((e : Int) - s.dev.chip.frameNs)) ∧ (y t).seenNext = true)
    ∧ (x.coarse = false → e ≤ 256 → x.seen = true ∨ x.came = true → ∃ t, exec (.syncInEdge e) s = .next t
      ∧ counted s t 1 F.FRM_SYNC_COUNT_EXTRA
      ∧ Leaves s t { s.dev.chip with frm := { s.dev.chip.frm with sync := { x with extra := x.extra + 1 } } })
    ∧ (x.coarse = false → 256 < e → ((e : Int) < s.dev.chip.frameNs - 256 ∨ s.dev.chip.frameNs + 256 < e) →
        ∃ t, exec (.syncInEdge e) s = .next t
      ∧ counted s t 1 F.FRM_SYNC_COUNT_OUT_WINDOW ∧ Leaves s t s.dev.chip)
    ∧ (x.coarse = true → ∃ t, exec (.syncInEdge e) s = .next t
      ∧ took t e ∧ (y t).coarse = false ∧ t.dev.chip.frameNs = s.dev.chip.frm.active * 128 + e)

/-- The other events of alignment (R58, R60 to R64, R386, R458): a tick of the selected port with MASTER or LOCKED is taken as an edge at its arrival
less TX_OFFSET and the link's delay, any other port's is not, nor one that reaches the timing master (R65), and one with neither is counted; the source and COARSE are staged, COARSE only while no room is loaded; the
64th frame without an edge loses alignment with MSI-X vector 3; the last of the 1,024 frames of quarantine leaves none, and the threshold that ends
it leads to ACQUIRING; losing REFCLK holds over, and
alignment starts again once the PLLs are locked to it; SYNC_OUT falls. -/
def Obligations.AlignmentEvents : Prop :=
  ∀ (s : State) (t0 src : Nat), Ready s →
    let x := s.dev.chip.frm.sync
    let y (t : State) := t.dev.chip.frm.sync
    let only (t : State) : Prop := t.dev.chip = { s.dev.chip with frm := { s.dev.chip.frm with sync := y t } }
    (src < 3 → ∃ t, exec (.syncSrcWrite .pf t0 src) s = .next t
      ∧ t = { s with dev := { s.dev with
          staged := s.dev.staged ++ [⟨F.FRM_SYNC_CTL_SRC.key, F.FRM_SYNC_CTL_SRC.mask, src &&& F.FRM_SYNC_CTL_SRC.mask, s.dev.chip.dueFrame t0, .pf⟩]
          out := [] } })
    ∧ (s.dev.chip.loadedRooms = [] → ∃ t, exec (.coarse .pf t0) s = .next t
      ∧ t = { s with dev := { s.dev with
          staged := s.dev.staged ++ [⟨F.FRM_SYNC_CTL_SRC.key, 0x40, 0x40, s.dev.chip.dueFrame t0, .pf⟩], out := [] } })
    ∧ (s.dev.chip.loadedRooms ≠ [] → ∃ t, exec (.coarse .pf t0) s = .next t
      ∧ flagged t F.FRM_INT_STATUS_BAD_WRITE ∧ t.dev.chip = s.dev.chip ∧ (∀ k ∈ t.dev.staged, k ∈ s.dev.staged ∨ k.mask = 0))
    ∧ ((x.st = .acquiring ∨ x.st = .locked) → x.seen = false → 63 ≤ x.missFrames → ∃ t, exec .syncLost s = .next t
      ∧ (y t).st = .lost ∧ (y t).syncLost = true ∧ (0, 3) ∈ t.dev.irq ∧ flagged t F.FRM_INT_STATUS_SYNC_LOST
      ∧ logged s t { cls := clsSync, kind := 0, index := 0 }
      ∧ ChipIs t { s.dev.chip with frm := { s.dev.chip.frm with sync := y t } } ∧ Quiet s t)
    ∧ (x.st = .quarantined → x.quarLeft ≤ 1 → ∃ t, exec .quarantineEnd s = .next t
      ∧ (y t).st = .quarantined ∧ (y t).quarLeft = 0 ∧ only t ∧ Quiet s t)
    ∧ (∀ d : Dev, d.chip.frm.sync.st = .quarantined → d.chip.frm.sync.quarLeft ≤ 1 →
        d.syncFrame.chip.frm.sync.st = .acquiring ∧ d.syncFrame.chip.frm.sync.missFrames = 0)
    ∧ (∀ (q arrival master tx depth flags snap : Nat), s.dev.chip.portUp q = true → (s.dev.chip.port q).carrying = true → bitOf flags 2 = false →
        let mine : Prop := s.dev.chip.fld F.FRM_SYNC_CTL_SRC = 2 ∧ s.dev.chip.fld F.FRM_SYNC_CTL_PORT = q ∧ s.dev.chip.fld F.FRM_SYNC_CTL_MASTER = 0
        let e : Int := (arrival : Int) - tx - (s.dev.chip.port q).delay
        (¬ mine → bitOf flags 0 = true → ∃ t, exec (.tick q arrival master tx depth flags snap) s = .next t ∧ Answers s t [])
        ∧ (mine → bitOf flags 0 = true → x.setOffset = false → x.coarse = false → x.st.accepts = true → s.dev.chip.frm.begun = true → x.seen = false → x.came = false →
          x.st ≠ .off → -256 ≤ e → e ≤ 256 → ∃ t, exec (.tick q arrival master tx depth flags snap) s = .next t
          ∧ (y t).phase = e ∧ (y t).step = max (-16) (min 16 e) ∧ (y t).seen = true ∧ (y t).depth = depth % 256 ∧ only t ∧ Quiet s t)
        ∧ (¬ mine → bitOf flags 0 = false → bitOf flags 1 = false → ∃ t, exec (.tick q arrival master tx depth flags snap) s = .next t
          ∧ counted s t 1 F.PCH_PORT_TICK_IGN (portDie q) (q % 3) ∧ Leaves s t s.dev.chip))
    ∧ (s.dev.chip.pwr.holdover = false → x.st ≠ .off → ∃ t, exec .refclkLost s = .next t
      ∧ (y t).st = .holdover ∧ t.dev.chip.pwr.holdover = true ∧ t.dev.chip.pwr.refclkOk = false
      ∧ counted s t 1 F.PWR_REFCLK_LOSSES ∧ flagged t F.PWR_INT_STATUS_REFCLK_LOST
      ∧ logged s t { cls := clsPower, kind := 0, index := 0 }
      ∧ ChipIs t { s.dev.chip with frm := { s.dev.chip.frm with sync := y t }, pwr := t.dev.chip.pwr } ∧ Quiet s t)
    ∧ (∃ t, exec .refclkBack s = .next t
      ∧ Leaves s t { s.dev.chip with pwr := { s.dev.chip.pwr with refclkOk := true, relocking := s.dev.chip.pwr.holdover } })
    ∧ (s.dev.chip.pwr.holdover = true → s.dev.chip.pwr.relocking = true → ∃ t, exec .holdoverEnd s = .next t
      ∧ flagged t F.PWR_INT_STATUS_REFCLK_BACK
      ∧ Leaves s t { s.dev.chip with
          pwr := { s.dev.chip.pwr with holdover := false, relocking := false }
          frm := { s.dev.chip.frm with sync := { x with st := if x.st = .holdover then .acquiring else x.st } } })
    ∧ (∃ t, exec .syncOutFall s = .next t
      ∧ Leaves s t { s.dev.chip with pins := { s.dev.chip.pins with syncOut := false } })

/-- Snapshots (R69, R72): an enabled source fires the armed controller and is counted as missed otherwise; ARM and DISARM move it as
R72 gives, one that comes while a record is latched or collected waits; from DONE and STALLED neither leaves an ARM waiting; COLLECT is staged; the record's DMA done leaves DONE or, with
ARM waiting, ARMED, a failed one STALLED. Nothing outside the controller changes. -/
def Obligations.Snapshots : Prop :=
  ∀ (s : State) (t0 : Nat), Ready s → s.dev.chip.boot.warm = false →
    let x := s.dev.chip.snap
    let goes (t : State) (y : Snap) : Prop := Leaves s t { s.dev.chip with snap := y }
    let fires (t : State) (src : Nat) : Prop :=
      goes t { x with
        fired := orBit x.fired src
        firstFrame := if x.fired = 0 then s.dev.chip.frm.cur else x.firstFrame }
    let freed (t : State) (y : Snap) : Prop :=
      t.dev.chip = { s.dev.chip with snap := y } ∧ t.dev.latched = none ∧ SameMemory s t ∧ t.gate = s.gate ∧ t.dev.staged = s.dev.staged
    (x.st = .armed → bitOf (s.dev.chip.fld F.SNAP_CTL_SRC_EN) 0 = true → ∃ t, exec (.snapTrigger .pf) s = .next t ∧ fires t 0)
    ∧ (x.st = .armed → bitOf (s.dev.chip.fld F.SNAP_CTL_SRC_EN) 4 = true → ∃ t, exec .snapInEdge s = .next t ∧ fires t 4)
    ∧ (x.st ≠ .armed → bitOf (s.dev.chip.fld F.SNAP_CTL_SRC_EN) 4 = true → ∃ t, exec .snapInEdge s = .next t
        ∧ counted s t 1 F.SNAP_MISSED ∧ goes t x)
    ∧ (bitOf (s.dev.chip.fld F.SNAP_CTL_SRC_EN) 4 = false → ∃ t, exec .snapInEdge s = .next t ∧ goes t x)
    ∧ (x.st = .idle → ∃ t, exec .snapArm s = .next t ∧ goes t { x with st := .armed })
    ∧ (x.st = .latched ∨ x.st = .collecting → ∃ t, exec .snapArm s = .next t ∧ goes t { x with pendArm := true })
    ∧ (x.st = .done ∨ x.st = .stalled → ∃ t, exec .snapArm s = .next t ∧ freed t { x with st := .armed, tooSmall := false, pendArm := false })
    ∧ (x.st = .armed → ∃ t, exec .snapDisarm s = .next t ∧ goes t { x with st := .idle, fired := 0, errClass := 0xFFFF })
    ∧ (x.st = .latched ∨ x.st = .collecting → ∃ t, exec .snapDisarm s = .next t ∧ goes t { x with pendArm := false })
    ∧ (x.st = .done → ∃ t, exec .snapDisarm s = .next t ∧ freed t { x with st := .idle, pendArm := false })
    ∧ (x.st = .stalled → ∃ t, exec .snapDisarm s = .next t ∧ freed t { x with st := .idle, tooSmall := false, pendArm := false })
    ∧ (∃ t, exec (.snapCollect .pf t0) s = .next t
        ∧ t = { s with dev := { s.dev with
            staged := s.dev.staged ++ [⟨F.SNAP_CTL_COLLECT.key, 8, 8, s.dev.chip.dueFrame t0, .pf⟩], out := [] } })
    ∧ (x.st = .collecting → x.pendArm = false → ∃ t, exec (.snapRecordWritten true) s = .next t
        ∧ goes t { x with st := .done } ∧ (0, 3) ∈ t.dev.irq)
    ∧ (x.st = .collecting → x.pendArm = true → ∃ t, exec (.snapRecordWritten true) s = .next t
        ∧ freed t { x with st := .armed, pendArm := false } ∧ (0, 3) ∈ t.dev.irq)
    ∧ (x.st = .collecting → ∃ t, exec (.snapRecordWritten false) s = .next t ∧ goes t { x with st := .stalled, tooSmall := false })

/-! ## Power, resets, blocks and sequencers -/

/-- What module reset leaves while it holds the module (R513): the flash, the fuses and the pins; everything else at its reset value. -/
def Sys2Proof.Claims.heldReset (s t : State) (cause : Nat) (pins : Pins) : Prop :=
  t.gate = { powered := true, held := true } ∧ t.mem = [] ∧ t.dev.chip = { pins, boot := { modCause := cause } }
    ∧ t.dev.staged = [] ∧ t.dev.flash = s.dev.flash ∧ t.dev.calFlash = s.dev.calFlash ∧ t.pending = s.pending

/-- What it leaves when the functions start at once (R506, R513). -/
def Sys2Proof.Claims.startedReset (s t : State) (cause : Nat) : Prop :=
  t.gate = { powered := true } ∧ t.mem = [] ∧ t.dev.chip.boot.started = true ∧ t.dev.chip.boot.modCause = cause
    ∧ t.dev.staged = [] ∧ t.dev.flash = s.dev.flash ∧ t.dev.calFlash = s.dev.calFlash ∧ t.pending = s.pending

/-- The supply and module reset (R19 to R21, R26, R28, R479, R513, R546): a record of two copies is written to the copy not in force, so that a write
which the loss of the input leaves incomplete loses the new record and never the one in force; power on, from the level that a turn-off asks for; a
module that is off holds nothing but the flash, of it the firmware slots and every two-copy record in force unchanged; a reset pin low resets and holds the module, both high release it and the functions start; a rail out
of regulation lowers PWR_GOOD; MOD_RESET and the thermal restart reset without a pin, the restart keeping the trip fields and leaving PWR_GOOD to the rails. -/
def Obligations.PowerAndModuleReset : Prop :=
  (∀ (α : Type) (x : TwoCopy α) (v : α),
    (x.write v).inForce = some ⟨(x.inForce.map fun c => c.seq + 1).getD 0, true, v⟩ ∧ x.tear.inForce = x.inForce)
  ∧ ∀ (s : State) (straps pin : Nat) (p m ov : Bool) (torn : List Nat),
    let c := s.dev.chip
    let up : Pins := { perstN := p, modResetN := m, smbAddr := 0x58 + straps % 8 }
    (s.gate.powered = false → c.pins.ovOff = false → ∃ t, exec (.powerOn straps p m) s = .next t
      ∧ (if p = true ∧ m = true then startedReset s t 0 else heldReset s t 0 up))
    ∧ (s.gate.powered = false → c.pins.ovOff = true → ∃ t, exec (.overVoltageTurnOn straps p m) s = .next t
      ∧ (if p = true ∧ m = true then startedReset s t 0 else heldReset s t 0 up))
    ∧ (s.gate.powered = true → ∃ t, exec (.inputTurnOff ⟨ov, torn⟩) s = .next t
      ∧ t.gate = { powered := false } ∧ t.active = false ∧ t.mem = []
      ∧ t.dev.flash.slotA = s.dev.flash.slotA ∧ t.dev.flash.slotB = s.dev.flash.slotB ∧ t.dev.flash.prefB = s.dev.flash.prefB
      ∧ t.dev.flash.owner = s.dev.flash.owner ∧ t.dev.flash.nonce = s.dev.flash.nonce ∧ t.dev.flash.hwm = s.dev.flash.hwm
      ∧ t.dev.calFlash.retireList = s.dev.calFlash.retireList
      ∧ (torn = [] ∨ c.mRuns = false → t.dev.flash = s.dev.flash ∧ t.dev.calFlash = s.dev.calFlash)
      ∧ t.dev.chip = { pins := { pwrGood := false, railsOk := false, ovOff := ov, perstN := c.pins.perstN, modResetN := c.pins.modResetN } })
    ∧ (s.gate.powered = true → s.gate.held = false → ∃ t, exec (.moduleReset pin) s = .next t
      ∧ heldReset s t (if pin = 0 then 1 else 2) { c.pins with
          perstN := if pin = 0 then false else c.pins.perstN
          modResetN := if pin = 0 then c.pins.modResetN else false
          syncOut := false
          thermTrip := false })
    ∧ (s.gate.powered = true → c.boot.started = false → ∃ t, exec .moduleResetRelease s = .next t
      ∧ t.gate = { s.gate with held := false } ∧ t.dev.chip.pins = { c.pins with perstN := true, modResetN := true }
      ∧ t.dev.chip.boot.started = true ∧ t.mem = s.mem ∧ t.pending = s.pending)
    ∧ (s.gate.powered = true → ∃ t, exec .railOutOfRegulation s = .next t
      ∧ t = { s with dev := { s.dev with chip := { c with pins := { c.pins with pwrGood := false, railsOk := false } } } })
    ∧ (s.active = true → c.boot.warm = false → ∃ t, exec (.modReset .pf) s = .next t ∧ startedReset s t 3)
    ∧ (∀ since, s.active = true → c.thm.tripped = true → c.thm.coolAt = some since → since + 5000000000 ≤ c.frm.time →
        ∃ t, exec .thermalRestart s = .next t ∧ startedReset s t 4 ∧ t.dev.chip.thm.tripped = false
          ∧ t.dev.chip.thm.tripValid = c.thm.tripValid ∧ t.dev.chip.thm.tripSensor = c.thm.tripSensor
          ∧ t.dev.chip.thm.tripTemp = c.thm.tripTemp ∧ t.dev.chip.thm.trips = c.thm.trips ∧ t.dev.chip.pins.thermTrip = false
          ∧ t.dev.chip.pins.pwrGood = c.pins.pwrGood)

/-- M warm reset (R513, R515): GLB_CTL.M_WARM and the watchdog begin it at once; nothing of the Hall, the towers, the stacks, the
porches, the rooms or memory changes; when M has restarted, the snapshot controller is at its reset values, GLB_STATUS.WARM_COUNT is one
more and M_RESTARTED is set. A write of GLB_RESET (R516, R529) is staged with its bits and FORCE and is dropped
from any other function than the PF; a regulator fault is kept for the next threshold. -/
def Obligations.WarmAndScopedResets : Prop :=
  (∀ (s : State), Ready s →
      let c := s.dev.chip
      let runsOn (t : State) : Prop := t.dev.chip.tow = c.tow ∧ t.dev.chip.hall = c.hall ∧ t.dev.chip.light = c.light ∧ t.dev.chip.cel = c.cel
        ∧ t.dev.chip.jil = c.jil ∧ t.dev.chip.rooms = c.rooms ∧ t.dev.chip.que = c.que ∧ t.dev.chip.thm = c.thm ∧ t.dev.chip.frm = c.frm
        ∧ t.dev.chip.blocks = c.blocks ∧ SameMemory s t ∧ t.gate = s.gate ∧ t.pending = s.pending
      (c.boot.warm = false → ∃ t, exec (.mWarm .pf) s = .next t
        ∧ t.dev.chip.boot.warm = true ∧ t.dev.chip.boot.mfw = false ∧ t.dev.chip.fld F.GLB_STATUS_WARM_CAUSE = 1 ∧ t.dev.chip.snap = c.snap ∧ runsOn t)
      ∧ (c.boot.warm = false → ∃ t, exec .mWatchdog s = .next t
        ∧ t.dev.chip.boot.warm = true ∧ t.dev.chip.boot.mfw = false ∧ t.dev.chip.fld F.GLB_STATUS_WARM_CAUSE = 2
        ∧ t.dev.chip.sec.dogs = c.sec.dogs + 1 ∧ t.dev.chip.snap = c.snap ∧ runsOn t)
      ∧ (c.boot.warm = true → ∃ t, exec .mRestarted s = .next t
        ∧ t.dev.chip.boot.warm = false ∧ t.dev.chip.snap = {} ∧ t.dev.latched = none ∧ flagged t F.GLB_INT_STATUS_M_RESTARTED
        ∧ t.dev.chip.fld F.GLB_STATUS_WARM_COUNT = satAdd 16 (c.fld F.GLB_STATUS_WARM_COUNT) 1 ∧ runsOn t))
  ∧ (∀ (s : State) (k t0 : Nat) (forced : Bool), Ready s → s.dev.chip.boot.warm = false →
      let stagedIs (t : State) (bits : Nat) (force : Bool) : Prop :=
        t = { s with dev := { s.dev with
          staged := s.dev.staged ++ [⟨F.GLB_RESET_TOW.key, 2 ^ 31 + bits, b2n force * 2 ^ 31 + bits, s.dev.chip.dueFrame t0, .pf⟩], out := [] } }
      (k < 8 → ∃ t, exec (.towerReset .pf k t0 forced) s = .next t ∧ stagedIs t (2 ^ k) forced)
      ∧ (k < 12 → ∃ t, exec (.stackReset .pf k t0 forced) s = .next t ∧ stagedIs t (2 ^ (12 + k)) forced)
      ∧ (k < 4 → ∃ t, exec (.quadReset .pf k t0 forced) s = .next t ∧ stagedIs t (2 ^ (24 + k)) forced)
      ∧ (k < 2 → ∃ t, exec (.porchDieReset .pf k t0) s = .next t ∧ stagedIs t (2 ^ (28 + k)) false)
      ∧ (∀ n, ∃ t, exec (.towerReset (.vf n) k t0 forced) s = .next t ∧ Answers s t [])
      ∧ (k < 8 → ∃ t, exec (.regulatorFault k) s = .next t
        ∧ Leaves s t { s.dev.chip with boot := { s.dev.chip.boot with regFaults := orBit s.dev.chip.boot.regFaults k } }))

/-- Block states (R506, R509, R510, R512): a start completes, or fails with FAIL and START_FAIL; a stop completes into OFF, or into the
start steps where PEND_EN stands and the quadrant serves; an enable starts a block whose quadrant is READY and waits otherwise; a disable
of a room's member is refused and leaves everything. Other blocks and memory stay. -/
def Obligations.BlockStates : Prop :=
  ∀ (s : State) (k : Nat), Ready s →
    let c := s.dev.chip
    let b := c.block k
    let others (t : State) : Prop := ∀ j, j ≠ k → t.dev.chip.block j = c.block j
    (b.st = .starting → c.quadUp k = true → k < 22 → ∀ f, ∃ t, exec (.blockStartDone k f) s = .next t
      ∧ (t.dev.chip.block k).up = true ∧ flagged t F.GLB_INT_STATUS_READY ∧ others t)
    ∧ (22 ≤ k → k < 26 → b.st = .starting → ∀ f, ∃ t, exec (.blockStartDone k f) s = .next t
      ∧ (t.dev.chip.block k).st = .ready ∧ flagged t F.GLB_INT_STATUS_READY
      ∧ (∀ j ∈ quadMembers k, (c.block j).st = .off → (c.block j).pendEn = true → (t.dev.chip.block j).st = .starting)
      ∧ (∀ j, j ∉ quadMembers k → j ≠ k → t.dev.chip.block j = c.block j) ∧ SameMemory s t)
    ∧ (k < 26 → b.st = .starting → ∃ t, exec (.startFail k) s = .next t
      ∧ (t.dev.chip.block k).st = .off ∧ (t.dev.chip.block k).fail = true ∧ flagged t F.GLB_INT_STATUS_START_FAIL
      ∧ t.dev.chip.boot.startFails = satAdd 32 c.boot.startFails 1 ∧ others t ∧ SameMemory s t)
    ∧ (k < 26 → b.st = .stopping → b.drain = false → b.pendEn = false → ∃ t, exec (.blockStopDone k) s = .next t
      ∧ (t.dev.chip.block k).st = .off ∧ others t ∧ SameMemory s t)
    ∧ (k < 26 → b.st = .stopping → b.drain = false → b.pendEn = true → c.quadUp k = true → ∃ t, exec (.blockStopDone k) s = .next t
      ∧ (t.dev.chip.block k).st = .starting ∧ (t.dev.chip.block k).pendEn = false ∧ others t ∧ SameMemory s t)
    ∧ (k < 26 → b.st = .off → c.quadUp k = true → ∃ t, exec (.blockEnable k) s = .next t
      ∧ (t.dev.chip.block k).st = .starting ∧ bitOf (t.dev.chip.reg F.GLB_EN_TOW.key).toNat k = true ∧ others t ∧ SameMemory s t)
    ∧ (k < 26 → b.st = .off → c.quadUp k = false → ∃ t, exec (.blockEnable k) s = .next t
      ∧ (t.dev.chip.block k).st = .off ∧ (t.dev.chip.block k).pendEn = true ∧ others t ∧ SameMemory s t)
    ∧ (k < 26 → c.roomsWith k ≠ [] → ∃ t, exec (.blockDisable k) s = .next t
      ∧ flagged t F.GLB_INT_STATUS_REFUSED ∧ Leaves s t c)
    ∧ (k < 8 → c.roomsWith k = [] → b.up = true → ∃ t, exec (.blockDisable k) s = .next t
      ∧ (t.dev.chip.block k).st = .stopping ∧ (t.dev.chip.block k).pendEn = false ∧ (t.dev.chip.block k).drain = true
      ∧ bitOf (t.dev.chip.reg F.GLB_EN_TOW.key).toNat k = false ∧ others t ∧ SameMemory s t)

/-- The duplicated sequencer (R508, R522 to R524, R527, R528): the BIST results choose the active one; a failure releases the baton to
a standby, and the load check gives it or loses the module; heartbeats and mailbox answers that fail to come isolate it; a drill is
staged. Memory stays throughout. -/
def Obligations.Sequencers : Prop :=
  ∀ (s : State) (t0 n : Nat), Ready s → s.dev.chip.boot.warm = false →
    let c := s.dev.chip
    let x := c.seq
    let seq (t : State) (y : Seqs) : Prop := Leaves s t { c with seq := y }
    let sound : Prop := x.st x.act = .active ∧ x.st (!x.act) = .standby ∧ x.take = none ∧ x.lost = false
    let released (y : Seqs) (cause : Nat) : Seqs :=
      { (y.put y.act .failed) with take := some ⟨cause, false, false⟩, lostFrames := frameSub c.frm.cur c.firstLost, lostFirst := c.firstLost }
    (x.a = .bist → x.b = .bist → x.drillBist = false → ∃ t, exec (.seqBistDone false true) s = .next t
      ∧ flagged t F.GLB_INT_STATUS_READY ∧ seq t { x with a := .standby })
    ∧ (x.a = .standby → x.b = .bist → x.drillBist = false → ∃ t, exec (.seqBistDone true true) s = .next t
      ∧ flagged t F.GLB_INT_STATUS_READY ∧ seq t { x with a := .active, b := .standby, act := false })
    ∧ (x.a = .failed → x.b = .bist → x.drillBist = false → ∃ t, exec (.seqBistDone true true) s = .next t
      ∧ flagged t F.GLB_INT_STATUS_READY ∧ flagged t F.SEQ_INT_STATUS_STANDBY_LOST ∧ seq t { x with b := .active, act := true })
    ∧ (x.a = .failed → x.b = .bist → x.drillBist = false → x.lost = false → ∃ t, exec (.seqBistDone true false) s = .next t
      ∧ t.dev.chip.seq.lost = true ∧ t.dev.chip.seq.b = .failed
      ∧ (∀ r, r < 16 → (c.room r).st ≠ .empty → (t.dev.chip.room r).st = .halted ∧ (t.dev.chip.room r).cause = causeSeqLost))
    ∧ (sound → 1 ≤ n → n ≤ 4 → ∃ t, exec (.sequencerFailure n) s = .next t ∧ seq t (released x n))
    ∧ (∀ k, x.take = some k → ∃ t, exec (.takeover true) s = .next t ∧ seq t { x with take := some { k with taken := true } })
    ∧ (∀ k, x.take = some k → x.lost = false → ∃ t, exec (.takeover false) s = .next t
      ∧ t.dev.chip.seq.lost = true ∧ t.dev.chip.seq.take = none
      ∧ (∀ r, r < 16 → (c.room r).st ≠ .empty → (t.dev.chip.room r).st = .halted ∧ (t.dev.chip.room r).cause = causeSeqLost))
    ∧ (sound → c.frm.published = true → ∃ t, exec (.heartbeat c.frm.commit) s = .next t ∧ seq t { x with heartbeat := some c.frm.commit })
    ∧ (sound → x.act = false → c.frm.begun = true → c.fld F.SEQ_CTL_HB_LIMIT ≤ n → ∃ t, exec (.heartbeatTimeout n) s = .next t
      ∧ seq t (released { x with isoA := true } 5))
    ∧ (c.frm.begun = true → n < c.fld F.SEQ_CTL_HB_LIMIT → ∃ t, exec (.heartbeatTimeout n) s = .next t ∧ seq t x)
    ∧ (c.frm.begun = true → c.frm.cur % 1024 = 0 → ∃ t, exec .mailboxPost s = .next t ∧ seq t { x with mailbox := true })
    ∧ (sound → x.act = true → x.mailbox = true → c.fld F.SEQ_CTL_MBX_US < n → ∃ t, exec (.mailboxTimeout n) s = .next t
      ∧ seq t (released { x with isoB := true, mailbox := false } 6))
    ∧ (∃ t, exec (.drill .pf t0) s = .next t
      ∧ t = { s with dev := { s.dev with
          staged := s.dev.staged ++ [⟨F.SEQ_CTL_DRILL.key, F.SEQ_CTL_DRILL.mask, F.SEQ_CTL_DRILL.mask, c.dueFrame t0, .pf⟩], out := [] } })

/-- The threshold (R44, R54, R479, R508, R521, R524, R527): before frame 0, a module without an active sequencer waits, and with one frame 0 begins;
after the baton is released and before the standby has it, once the sequencers are lost, and where no settings came, a frame begins that is neither
committed nor published; any other threshold begins the next frame at the end of the last, with no failure of it left over: the frame that ended is
published as the last committed one, unless the module has tripped, or lost it to a takeover or for want of settings. The queue, the lock and the pins of the gate stay and
memory keeps its form. -/
def Obligations.Thresholds : Prop :=
  ∀ (s : State) (f : Facts), Ready s →
    let c := s.dev.chip
    let same (t : State) : Prop := t.pending = s.pending ∧ t.gate.powered = s.gate.powered ∧ t.gate.held = s.gate.held
      ∧ t.gate.locked = s.gate.locked ∧ t.mem.wf = true
    let safe (t : State) : Prop := t.dev.chip.frm.cur = nextFrame c.frm.cur ∧ t.dev.chip.frm.commit = c.frm.commit ∧ t.dev.pub = s.dev.pub
      ∧ t.dev.chip.frm.time = c.endTime ∧ SameMemory s t
    let ran (t : State) : Prop := t.dev.chip.frm.cur = nextFrame c.frm.cur ∧ t.dev.chip.frm.begun = true ∧ t.dev.chip.frm.safe = false
      ∧ t.dev.chip.frm.time = c.endTime ∧ t.dev.failed = []
    (c.frm.begun = false → c.driven = false → ∃ t, exec (.threshold f) s = .next t ∧ t = { s with dev := { s.dev.railsGood f.rails with out := [] } })
    ∧ (c.frm.begun = false → c.driven = true → ∃ t, exec (.threshold f) s = .next t
      ∧ t.dev.chip.frm.cur = 0 ∧ t.dev.chip.frm.begun = true ∧ t.dev.chip.frm.safe = false ∧ t.dev.chip.frm.time = c.frm.time ∧ t.dev.failed = []
      ∧ t.dev.pub = s.dev.pub ∧ same t)
    ∧ (c.frm.begun = true → c.seq.lost = true → ∃ t, exec (.threshold f) s = .next t ∧ safe t ∧ same t)
    ∧ (∀ k, c.frm.begun = true → c.seq.lost = false → c.seq.take = some k → k.taken = false → ∃ t, exec (.threshold f) s = .next t
      ∧ safe t ∧ t.dev.chip.seq.lostFrames = satAdd 32 c.seq.lostFrames 1 ∧ same t)
    ∧ (c.frm.begun = true → c.seq.lost = false → c.seq.take = none → f.settings = false → ∃ t, exec (.threshold f) s = .next t
      ∧ safe t ∧ t.dev.chip.frm.safe = true ∧ same t)
    ∧ (c.frm.begun = true → c.seq.lost = false → c.seq.take = none → ∃ t, exec (.threshold f) s = .next t ∧ t.dev.failed = [] ∧ same t)
    ∧ (∀ k, c.frm.begun = true → c.seq.lost = false → c.seq.take = some k → k.taken = true → ∃ t, exec (.threshold f) s = .next t
      ∧ ran t ∧ t.dev.chip.frm.commit = c.frm.commit ∧ t.dev.pub = s.dev.pub ∧ same t)
    ∧ (c.frm.begun = true → c.seq.lost = false → c.seq.take = none → f.settings = true → c.frm.safe = true → ∃ t, exec (.threshold f) s = .next t
      ∧ ran t ∧ t.dev.chip.frm.commit = c.frm.commit ∧ t.dev.pub = s.dev.pub ∧ same t)
    ∧ (c.frm.begun = true → c.seq.lost = false → c.seq.take = none → f.settings = true → c.frm.safe = false → ∃ t, exec (.threshold f) s = .next t
      ∧ ran t ∧ same t
      ∧ (t.dev.chip.thm.tripped = false → t.dev.chip.frm.commit = c.frm.cur ∧ t.dev.pub.frm.commit = c.frm.cur ∧ t.dev.pub.frm.published = true
        ∧ t.dev.pub.frm.cur = c.frm.cur)
      ∧ (c.thm.tripped = true → t.dev.chip.frm.commit = c.frm.commit ∧ t.dev.pub.frm = s.dev.pub.frm))

/-! ## The Hall -/

/-- No error stands in the words of a byte range of a slice (R167). -/
def Sys2Proof.Claims.errorFree (s : State) (core a n : Nat) : Bool :=
  (wordsOf a n).all fun x => decide (Tab.get 0 s.dev.chip.tow.errs (wordKey core x) = 0)

/-- Sending (R171, R185, R198 to R207): slot 3 of a line that is not retired, of a bundle with light, is its frame header; a source whose upper
die holds another check word, or sees another mask of good lines outside agreement, finds a map mismatch as it inserts them; a place that the
schedule leaves free sends an idle slot with a correct tag and the next 896 bits of its line's PRBS31 sequence (its polynomial and seed are the
model's choice, log 119); a slot scheduled from a pantry slice carries the 112 bytes that stand there with the marks of their words, and goes out
with every parity byte inverted and counted when its data is late; a generated signal slot of a tower carries the first seven records of the
barrier service that wait for its room and destination. Every slot leaves as PAM4 symbols, and memory does not change. -/
def Obligations.SlotsAreSent : Prop :=
  ∀ (s : State) (bundle line slot : Nat) (late : Bool) (gen : List Byte), Ready s →
    let c := s.dev.chip
    let b := c.bundle bundle
    let place := c.placeAt bundle (b.roles.getD line roleRetired) slot
    let agree := b.checkUpper bundle = b.check bundle ∧ (b.goodUpper = b.goodBase ∨ b.agree = true)
    let seed := Config.prbsSeed (bundle * 18 + line) % 2 ^ 31
    let g := prbs31 896 (Tab.get (if seed = 0 then 1 else seed) c.hall.prbs (bundle * 18 + line))
    bundle < nBundles → line < 18 → 3 ≤ slot → slot < c.slots → 2 ≤ b.st → b.st ≤ 5 → b.dark = false → b.lineRetired line = false →
    (slot = 3 → agree → ∃ t, exec (.slotSend bundle line slot late gen) s = .next t
        ∧ Answers s t [.slot bundle line (slotSymbols (c.header bundle line))])
    ∧ (slot = 3 → ¬ agree → b.mismatch = false → ∃ t, exec (.slotSend bundle line slot late gen) s = .next t
        ∧ (t.dev.chip.bundle bundle).mismatch = true ∧ (t.dev.chip.bundle bundle).agreeDue = true ∧ flagged t F.HALL_INT_STATUS_MAP_MISMATCH
        ∧ (∀ j, j ≠ bundle → t.dev.chip.bundle j = c.bundle j) ∧ Quiet s t)
    ∧ (slot ≠ 3 → place = none → ∃ t, exec (.slotSend bundle line slot late gen) s = .next t
        ∧ t = { s with dev := { s.dev with
            chip := { c with hall := { c.hall with prbs := Tab.ins c.hall.prbs (bundle * 18 + line) g.2 } }
            out := [.slot bundle line (slotSymbols (slotBytes (leBytes 112 g.1) 0 bundle line c.frm.cur false))] } })
    ∧ (∀ p, slot ≠ 3 → place = some p → p.replay = false → p.folded = false → p.run.reread = true → p.run.dkind ≠ 6 →
        endpointOf p.run.bundle < 8 → (bundle, p.lane, slot) ∉ c.hall.slipped →
        let core := c.physCore (endpointOf p.run.bundle * 16 + p.run.srcUnit / 16 % 16) (p.run.srcUnit % 16)
        let a := p.run.srcAddr + 112 * p.index
        a + 112 ≤ sliceBytes → errorFree s core a 112 = true → ∃ t, exec (.slotSend bundle line slot late gen) s = .next t
        ∧ t.dev.out = [.slot bundle line (slotSymbols (slotBytes (s.mem.bytes (pantryAddr core a) 112)
            (ofBitList ((List.range 7).filter fun w => s.dev.husked (wordKey core (a / 16 + w)))) bundle line c.frm.cur late))]
        ∧ (late = true → counted s t 1 F.TOW_PAN_TXLATE (endpointOf p.run.bundle) 0 (coreSel core)
            ∧ flagged t F.TOW_PAN_STATUS_TX_LATE (endpointOf p.run.bundle) 0 (coreSel core))
        ∧ t.dev.chip.tow = c.tow ∧ SameMemory s t ∧ KeepsOuter s t)
    ∧ (∀ p, slot ≠ 3 → place = some p → p.replay = false → p.folded = false → p.run.cls = clsSignal → p.run.generated = true →
        endpointOf p.run.bundle < 8 → (bundle, p.lane, slot) ∉ c.hall.slipped →
        let l := (c.tow.signals.filter fun x => x.ep = endpointOf p.run.bundle && x.room = p.room && x.dest = p.run.dest).take 7
        ∃ t, exec (.slotSend bundle line slot late gen) s = .next t
        ∧ t.dev.out = [.slot bundle line (slotSymbols (slotBytes (padTo 112 0 (l.flatMap SigRec.bytes)) 0 bundle line c.frm.cur false))]
        ∧ t.dev.chip.tow = { c.tow with signals := l.foldl (fun a x => a.erase x) c.tow.signals } ∧ SameMemory s t ∧ KeepsOuter s t)

/-- A slot on a lane (R198, R200): 128 bytes, the payload, then fourteen bytes whose bit `i` of byte 112 + `j` is the parity bit of payload byte 8`j` + `i`,
then the tag in little-endian order; with its parity bit every payload byte holds an odd number of ones, and of an all-zero lane no payload byte does, so
that no word of it passes the check of a receiver. It leaves as 512 symbols, four a byte from the low bit pair up, each pair at its Gray-coded level. -/
def Obligations.SlotLayout : Prop :=
  ∀ (payload : List Byte) (corridor line seq : Nat), payload.length = 112 →
    let b := slotBytes payload 0 corridor line seq false
    b.length = 128 ∧ b.take 112 = payload ∧ leField b 126 2 = slotTag corridor line seq
      ∧ (∀ j i, j < 14 → i < 8 →
          (popcount 8 (b.getD (8 * j + i) 0).toNat + (if (b.getD (112 + j) 0).getLsbD i then 1 else 0)) % 2 = 1)
      ∧ (∀ w, w < 7 → wordState b w = some false)
      ∧ (∀ w, w < 7 → wordState (List.replicate 128 0) w = none)
      ∧ (slotSymbols b).length = 512
      ∧ (∀ j i, j < 128 → i < 4 → ∀ hi lo, (b.getD j 0).getLsbD (2 * i + 1) = hi → (b.getD j 0).getLsbD (2 * i) = lo →
          (slotSymbols b).getD (4 * j + i) 4 = if hi then (if lo then 2 else 3) else (if lo then 1 else 0))

/-- What a source sends in the running frame is what the destination stores (R165, R198, R199, R202, R203, R210): a slot as R198 lays it out, of
any payload and any husk marks, is accepted by the latch assigned to its lane and stands word by word in the pantry slice that its run
names; a slot whose tag has even parity is rejected, counted against the slot and its line and kept for a replay, and nothing is stored. -/
def Obligations.SlotsArrive : Prop :=
  ∀ (s : State) (ep latch slot b lane line left : Nat) (p : Place) (payload : List Byte) (husks : Nat), Ready s →
    let c := s.dev.chip
    let core := c.physCore (ep * 16 + p.run.dstUnit / 16 % 16) (p.run.dstUnit % 16)
    let w0 := (p.run.dstAddr + 112 * p.index) / 16
    ep < 23 → latch < latchCount ep → slot ≠ 3 → b < nBundles → line < 18 → s.gate.inj.st ≠ .active →
    c.takes ep latch = some (b, lane) → (c.bundle b).lineOf lane = some line → c.placeAt b lane slot = some p →
    p.run.dest = ep → p.run.bundle = b → p.replay = false →
    (p.run.dkind = 1 → (b, ep) ∉ c.hall.desync → (c.bundle b).mismatch = false → payload.length = 112 → husks < 128 →
      ∃ t, exec (.slotReceive ep latch slot (slotBytes payload husks b line c.frm.cur false) left) s = .next t
      ∧ (∀ i, i < 112 → t.mem.get (pantryAddr core (16 * w0 + i)) = payload.getD i 0)
      ∧ (∀ x, x < pantryAddr core (16 * w0) ∨ pantryAddr core (16 * w0) + 112 ≤ x → t.mem.get x = s.mem.get x)
      ∧ (∀ w, w < 7 → t.dev.husked (wordKey core (w0 + w)) = husks.testBit w)
      ∧ t.dev.chip.tow.cores = c.tow.cores ∧ t.dev.chip.hall = c.hall ∧ KeepsOuter s t)
    ∧ (∀ bytes : List Byte, bytes.length = 128 → popcount 16 (leField bytes 126 2) % 2 = 0 →
      ∃ t, exec (.slotReceive ep latch slot bytes left) s = .next t
      ∧ counted s t 1 F.HALL_REJECTS
      ∧ ((b, ep) ∉ c.hall.desync → (c.bundle b).mismatch = false → counted s t 1 F.HALL_LINE_REJECTS 0 0 (b * 18 + line))
      ∧ t.dev.chip.hall = { c.hall with
          rejects := c.hall.rejects ++ [(⟨b, p.lane, p.slot, ep, p.room, lane⟩, p.run)]
          rejLanes := c.hall.rejLanes ++ [(b, lane)]
          lineHits := c.hall.lineHits ++ if (b, ep) ∈ c.hall.desync ∨ (c.bundle b).mismatch = true then [] else [b * 18 + line] }
      ∧ t.dev.chip.tow = c.tow ∧ Quiet s t)

/-- Frame headers (R204 to R207): on a bundle with light, the header that a tile itself would send, its upper die holding the same map, is accepted
and changes nothing; one whose CRC fails is counted and logged; one of another frame, or with another program, desynchronises the corridor at this
tile; one of another map, or whose two check words differ, starts agreement. Memory stays. -/
def Obligations.FrameHeadersChecked : Prop :=
  ∀ (s : State) (ep latch b lane line : Nat) (bytes : List Byte), Ready s →
    let c := s.dev.chip
    c.takes ep latch = some (b, lane) → (c.bundle b).lineOf lane = some line → (c.bundle b).dark = false → c.frm.cur < 2 ^ 48 → bytes.length = 128 →
    let crcOk : Prop := leField bytes 0x7C 4 = (crc32c (bytes.take 0x7C)).toNat
    ((c.bundle b).checkUpper b = (c.bundle b).check b → ∃ t, exec (.frameHeader ep latch (c.header b line)) s = .next t ∧ Answers s t [])
    ∧ (¬ crcOk → ∃ t, exec (.frameHeader ep latch bytes) s = .next t
        ∧ counted s t 1 F.HALL_HDR_ERR ∧ logged s t { cls := clsLineReject, kind := 3, index := b * 18 + line }
        ∧ t.dev.chip.hall = c.hall ∧ Quiet s t)
    ∧ (crcOk → leField bytes 6 6 ≠ c.frm.cur ∨ (bytes.drop 0x1C).take 32 ≠ c.programs → (b, ep) ∉ c.hall.desync →
        ∃ t, exec (.frameHeader ep latch bytes) s = .next t
        ∧ (b, ep) ∈ t.dev.chip.hall.desync ∧ counted s t 1 F.HALL_DESYNC ∧ flagged t F.HALL_INT_STATUS_DESYNC ∧ Quiet s t)
    ∧ (crcOk → leField bytes 0xC 4 ≠ ((c.bundle b).check b).toNat ∨ leField bytes 0x10 4 ≠ leField bytes 0xC 4 → (c.bundle b).mismatch = false →
        ∃ t, exec (.frameHeader ep latch bytes) s = .next t
        ∧ (t.dev.chip.bundle b).mismatch = true ∧ (t.dev.chip.bundle b).agreeDue = true ∧ flagged t F.HALL_INT_STATUS_MAP_MISMATCH
        ∧ (∀ j, j ≠ b → t.dev.chip.bundle j = c.bundle j) ∧ Quiet s t)

/-- Replays (R210, R211): a rejected slot of the frame before takes the pair's first retry slot, those on lanes of the bundle that rejected no slot
before the others; one that no retry slot is left for is not delivered good, counted and flagged. -/
def Obligations.ReplaysAssigned : Prop :=
  ∀ (s : State) (o : Slot) (run : RunE), Ready s →
    let c := s.dev.chip
    let bad := (c.hall.rejLanesPrev.filter fun x => x.1 = o.bundle).map Prod.snd
    let retry := c.retrySlots o.room o.bundle o.ep bad
    c.hall.rejectsPrev = [(o, run)] → (c.bundle o.bundle).st ≠ 5 →
    (∀ sl ln rest, retry = (sl, ln) :: rest → (ln ∈ bad → ∀ x ∈ rest, x.2 ∈ bad) ∧ ∃ t, exec .replayAssign s = .next t
      ∧ Leaves s t { c with hall := { c.hall with
          rejectsPrev := []
          replays := c.hall.replays ++ [{ orig := o, run, lane := ln, slot := sl }] } })
    ∧ (retry = [] → run.dkind = 0 → ∃ t, exec .replayAssign s = .next t
      ∧ counted s t 1 F.HALL_REPLAY_LOST ∧ flagged t F.HALL_INT_STATUS_REPLAY_LOST ∧ t.dev.chip.hall.rejectsPrev = []
      ∧ t.dev.chip.hall.replays = c.hall.replays ∧ Quiet s t)

/-- Barriers, flags, doorbells and in-band interrupts (R185, R186, R311, R541): the home counts the arrivals of members, of cores those that they
recorded by the frame before the record's, and the last one completes the barrier for the frame before and sends every member tile its record; a completion reaches the member cores that arrived; a flag is the OR of what is raised; a
record that may not stand is counted as a bad doorbell. -/
def Obligations.SignalsAct : Prop :=
  ∀ (s : State) (ep room id sender row mask value frame : Nat) (late : Bool), Ready s →
    let c := s.dev.chip
    let key := room * 256 + id
    (∀ b, Tab.find c.tow.barriers key = some b → room < 16 → id < 256 → b.home = ep → b.members ≠ [] →
        let came := (if sender < 8 then ((bitList 16 mask).map fun x => (sender * 16 + row) * 16 + x).filter fun m =>
            c.arrivedBy m id (frameSub c.frm.cur (if late then 2 else 1))
          else if bitOf mask 0 then [4096 + sender] else []).filter fun m => m ∈ b.members && m ∉ b.arrived
        let done := frameSub c.frm.cur (if late then 2 else 1)
        ∃ t b', exec (.barrierArrive ep room id sender row mask late) s = .next t
        ∧ Tab.find t.dev.chip.tow.barriers key = some b'
        ∧ ((∀ m ∈ b.members, m ∈ b.arrived ++ came) → b'.arrived = [] ∧ b'.doneFrame = some done
            ∧ t.dev.chip.tow.signals = c.tow.signals ++ b.doneRecords ep room id done)
        ∧ (¬ (∀ m ∈ b.members, m ∈ b.arrived ++ came) → b'.arrived = b.arrived ++ came ∧ b'.doneFrame = b.doneFrame
            ∧ t.dev.chip.tow.signals = c.tow.signals)
        ∧ (∀ j, j ≠ key → Tab.find t.dev.chip.tow.barriers j = Tab.find c.tow.barriers j)
        ∧ Leaves s t { c with tow := { c.tow with barriers := t.dev.chip.tow.barriers, signals := t.dev.chip.tow.signals } })
    ∧ (∀ b f, Tab.find c.tow.barriers key = some b → room < 16 → id < 256 → ep < 8 → b.doneFrame = some f → frameLater frame f = false →
        ∃ t, exec (.barrierDone ep room id frame) s = .next t
        ∧ (∀ m ∈ b.members, m < 2048 → m / 256 = ep →
            (∃ p ∈ (c.core (c.physCore (m / 16) (m % 16))).arrived, p.1 = id ∧ frameLater p.2 frame = false) →
            id ∈ (t.dev.chip.core (c.physCore (m / 16) (m % 16))).done)
        ∧ (∀ k, (∀ m ∈ b.members, m / 256 = ep → k ≠ c.physCore (m / 16) (m % 16)) → t.dev.chip.core k = c.core k)
        ∧ Leaves s t { c with tow := { c.tow with cores := t.dev.chip.tow.cores } })
    ∧ (∀ f, Tab.find c.tow.flags (room * 64 + id) = some f → room < 16 → id < 64 → f.home = ep →
        ∃ t, exec (.flag ep room id value late) s = .next t
        ∧ Tab.find t.dev.chip.tow.flags (room * 64 + id) = some (if late then { f with deliver := some (f.deliver.getD 0 ||| value % 2 ^ 32) }
            else { f with raised := some (f.raised.getD 0 ||| value % 2 ^ 32) })
        ∧ (∀ j, j ≠ room * 64 + id → Tab.find t.dev.chip.tow.flags j = Tab.find c.tow.flags j)
        ∧ Leaves s t { c with tow := { c.tow with flags := t.dev.chip.tow.flags } })
    ∧ (∀ e, c.queueDecl id = some (room, e) → (e.kind = qFeed ∨ e.kind = qFabModel) → ∃ t, exec (.doorbell room id value late) s = .next t
        ∧ (t.dev.chip.queue id).releases =
            (c.queue id).releases ++ [(value % 2 ^ 32, if late then frameSub c.frm.cur 1 else c.frm.cur)]
        ∧ (∀ j, j ≠ id → t.dev.chip.queue j = c.queue j) ∧ Leaves s t { c with que := t.dev.chip.que })
    ∧ (c.queueDecl id = none → ∃ t, exec (.doorbell room id value late) s = .next t ∧ counted s t 1 F.QUE_BAD_DOORBELL ∧ Leaves s t c)
    ∧ (room < 16 → 1 ≤ value → value ≤ 63 → ∃ t, exec (.interrupt room room value late) s = .next t
        ∧ (∃ o, (room, value, if late then frameSub c.frm.cur 1 else c.frm.cur, o) ∈ t.dev.chip.host.inband)
        ∧ (∀ x ∈ c.host.inband, x ∈ t.dev.chip.host.inband) ∧ Leaves s t { c with host := { c.host with inband := t.dev.chip.host.inband } })
    ∧ (room ≠ ep ∨ value = 0 ∨ 63 < value → ∃ t, exec (.interrupt ep room value late) s = .next t
        ∧ counted s t 1 F.QUE_BAD_DOORBELL ∧ Leaves s t c)

/-- Sum-on-arrival (R180 to R182, R264): once every source of a declared tree has delivered a slot number, its combined words join the stack's writes
of the frame or stand in the tower's pantry, and the contributions are used up; while one is missing nothing happens. -/
def Obligations.SumOnArrival : Prop :=
  ∀ (s : State) (tile id k : Nat) (late : Bool) (x : SoaTree), Ready s →
    let c := s.dev.chip
    let frame := if late then frameSub c.frm.cur 1 else c.frm.cur
    let held := c.soaParts frame x k
    let have' (i : Nat) : Bool := held.any fun p => p.src = i
    let sum := soaCombine x.ty none (((List.range x.srcs.length).filterMap fun i => held.find? fun p => p.src = i).map SoaPart.bytes)
    ((c.treesOf frame).filter fun t => t.tile = tile && t.id = id) = [x] →
    (¬ (∀ i, i < x.srcs.length → have' i = true) → ∃ t, exec (.soaWrite tile id k late) s = .next t ∧ Answers s t [])
    ∧ ((∀ i, i < x.srcs.length → have' i = true) → x.kind = 1 → (∀ p ∈ held, p.husks = 0) →
        ∃ t, exec (.soaWrite tile id k late) s = .next t
        ∧ t.dev.chip.cel.writes = c.cel.writes ++ [⟨frame, (tile - 8) * 64 + x.unit % 64, x.addr + 112 * k, sum.1, 0⟩]
        ∧ t.dev.chip.soaParts frame x k = []
        ∧ (∀ p, p ∉ held → (p ∈ t.dev.chip.tow.parts ↔ p ∈ c.tow.parts))
        ∧ Leaves s t { c with tow := { c.tow with parts := t.dev.chip.tow.parts }, cel := { c.cel with writes := t.dev.chip.cel.writes } })
    ∧ ((∀ i, i < x.srcs.length → have' i = true) → x.kind = 0 → x.accum = false → tile < 8 → (∀ p ∈ held, p.husks = 0) →
        let core := c.physCore (tile * 16 + x.unit / 16 % 16) (x.unit % 16)
        let w0 := (x.addr + 112 * k) / 16
        ∃ t, exec (.soaWrite tile id k late) s = .next t
        ∧ (∀ i, i < 112 → t.mem.get (pantryAddr core (16 * w0 + i)) = sum.1.getD i 0)
        ∧ (∀ y, y < pantryAddr core (16 * w0) ∨ pantryAddr core (16 * w0) + 112 ≤ y → t.mem.get y = s.mem.get y)
        ∧ (∀ w, w < 7 → t.dev.husked (wordKey core (w0 + w)) = false)
        ∧ (sum.2 ≠ 0 → counted s t sum.2 F.TOW_SOA_SAT tile)
        ∧ t.dev.chip.soaParts frame x k = [] ∧ t.dev.chip.tow.cores = c.tow.cores ∧ t.dev.chip.cel = c.cel ∧ KeepsOuter s t)

/-- Maintenance and light (R216, R226, R229, R237, R239, R240, R245, R249, R251 to R253, R255, R257): RETIRE, AGREE and SWAP are staged; a bundle that has
not trained within 16 quiesced frames loses every line; a spare becomes READY, fails after 20 ms and the next DARK one is warmed, or
returns to DARK after 10 s; a ring's correction moves at its band's gain and stays within 12 GHz, and its
heater takes the sum of table value, feed-forward term and correction, its steps emphasised as the band asks; its reading is the line seen, it locks again or is retired. -/
def Obligations.LightControl : Prop :=
  ∀ (s : State) (n line t0 left src unit index : Nat) (latch : Bool) (step : Int), Ready s →
    let c := s.dev.chip
    (n < nBundles → line < 18 → ∃ t, exec (.retire .pf n line t0) s = .next t
      ∧ t = { s with dev := { s.dev with
          staged := s.dev.staged ++ [⟨F.HALL_MAINT_RETIRE.key, F.HALL_MAINT_BUNDLE.mask + F.HALL_MAINT_LINE.mask + 1, n * 2 ^ 16 + line * 2 ^ 8 + 1,
            c.dueFrame t0, .pf⟩], out := [] } })
    ∧ (n < nBundles → ∃ t, exec (.agree .pf n t0) s = .next t
      ∧ t = { s with dev := { s.dev with
          staged := s.dev.staged ++ [⟨F.HALL_MAINT_RETIRE.key, F.HALL_MAINT_BUNDLE.mask + 2, n * 2 ^ 16 + 2, c.dueFrame t0, .pf⟩], out := [] } })
    ∧ (n < 26 → ∃ t, exec (.swap .pf n t0) s = .next t
      ∧ t = { s with dev := { s.dev with
          staged := s.dev.staged ++ [⟨F.HALL_LASER_CTL_SWAP.key, F.HALL_LASER_CTL_SWAP.mask + F.HALL_LASER_CTL_GROUP.mask, n * 2 ^ 8 + 1,
            c.dueFrame t0, .pf⟩], out := [] } })
    ∧ (n < nBundles → (c.bundle n).agree = true → 15 ≤ (c.bundle n).quiesced → ∃ t, exec (.agreementTimeout n) s = .next t
      ∧ (∀ l, l < 18 → ∃ x ∈ t.dev.chip.hall.retires, x.line = n * 18 + l)
      ∧ (∀ x ∈ c.hall.retires, x ∈ t.dev.chip.hall.retires) ∧ Leaves s t { c with hall := { c.hall with retires := t.dev.chip.hall.retires } })
    ∧ (src < 30 → (c.src src).st = 1 → (c.src src).asked = true → ∃ t, exec (.spareReady src left) s = .next t
      ∧ (t.dev.chip.src src).st = 2 ∧ flagged t F.HALL_LASER_INT_STATUS_SPARE_READY
      ∧ (∃ w ∈ t.dev.chip.light.swaps, w.group = (c.src src).group) ∧ (∀ j, j ≠ src → t.dev.chip.src j = c.src j)
      ∧ ChipIs t { c with light := t.dev.chip.light } ∧ Quiet s t)
    ∧ (src < 30 → (c.src src).st = 1 → (c.src src).warmAt + 20000000 ≤ c.endTime → ∃ t, exec (.warmFail src) s = .next t
      ∧ flagged t F.HALL_LASER_INT_STATUS_WARM_FAIL ∧ (t.dev.chip.src src).st = 4
      ∧ (∀ k, c.darkSpare (c.src src).group = some k → (t.dev.chip.src k).st = 1 ∧ (t.dev.chip.src k).group = (c.src src).group) ∧ Quiet s t)
    ∧ (∀ since, src < 30 → (c.src src).st = 2 → (c.src src).asked = false → (c.src src).okSince = some since → since + 10000000000 ≤ c.endTime →
        (∀ w ∈ c.light.swaps, w.src ≠ src) → ∃ t, exec (.spareReturn src) s = .next t
      ∧ (t.dev.chip.src src).st = 0 ∧ (∀ j, j ≠ src → t.dev.chip.src j = c.src j)
      ∧ ChipIs t { c with light := t.dev.chip.light } ∧ Quiet s t)
    ∧ (∀ k (drop tap : Nat), ringIndex latch unit index = some k → c.ringState k ≠ 4 → c.thm.tripped = false →
        let prof := c.ringProfile k
        let target := c.ringTable k 2 * (tap : Int)
        let move := if target < 65536 * (drop : Int) then step else if 65536 * (drop : Int) < target then -step else 0
        let corr := (c.ring k).corr + move * prof.gain / 100
        let set := c.ringTableValue k + (c.ringForward k + max (-120) (min 120 corr)) * (max 1 (Config.calStep 1) : Nat) / 10
        ∃ t, exec (.ringLoopUpdate latch unit index drop tap step) s = .next t
      ∧ (t.dev.chip.ring k).corr = max (-120) (min 120 corr)
      ∧ (t.dev.chip.ring k).heater =
          ofSigned 16 (set + (set - (c.ring k).past.getD 15 ((c.ring k).past.getLastD set)) * (prof.emphasis - 10 : Nat) / 10)
      ∧ ((t.dev.chip.ring k).retable = true ↔ (c.ring k).retable = true ∨ 120 ≤ corr ∨ corr ≤ -120)
      ∧ (120 ≤ corr ∨ corr ≤ -120 → (t.dev.chip.calUnit 1 (ringEndpoint k)).running = true)
      ∧ (∀ j, j ≠ k → t.dev.chip.ring j = c.ring j) ∧ Quiet s t)
    ∧ (∀ k, ringIndex latch unit index = some k → n < 18 → (latch = true ∨ n = index) → ∃ t, exec (.seedWindow latch unit index (some n) left) s = .next t
      ∧ (t.dev.chip.ring k).line = n ∧ (∀ j, j ≠ k → t.dev.chip.ring j = c.ring j) ∧ Leaves s t { c with light := t.dev.chip.light })
    ∧ (∀ k, ringIndex latch unit index = some k → ∃ t, exec (.seedWindow latch unit index none left) s = .next t
      ∧ counted s t 1 F.HALL_SEED_NOTONE ∧ Leaves s t c)
    ∧ (∀ k, ringIndex false unit index = some k → n < 18 → n ≠ index → c.ringState k = 0 → ∃ t, exec (.seedWindow false unit index (some n) left) s = .next t
      ∧ counted s t 1 F.HALL_RING_WRONG 0 0 k ∧ ((t.dev.chip.ring k).st = 1 ∨ (t.dev.chip.ring k).st = 2)
      ∧ ((t.dev.chip.ring k).st = 1 ↔ lineDist n index ≤ c.ringWindow k) ∧ Quiet s t)
    ∧ (∀ k, ringIndex latch unit index = some k → c.ringState k = 2 → ∃ t, exec (.reacquireDone latch unit index) s = .next t
      ∧ (t.dev.chip.ring k).st = 0 ∧ (t.dev.chip.ring k).lockTemp = some (c.tileTemp (ringEndpoint k))
      ∧ (t.dev.chip.ring k).line = (c.ringLine k).getD (c.ring k).line ∧ (∀ j, j ≠ k → t.dev.chip.ring j = c.ring j)
      ∧ Leaves s t { c with light := t.dev.chip.light })
    ∧ (∀ k, ringIndex latch unit index = some k → c.ringState k = 2 → 4 ≤ frameSub c.frm.cur (c.ring k).since →
        ∃ t, exec (.reacquireTimeout latch unit index left) s = .next t
      ∧ (∃ p ∈ t.dev.chip.light.retires, p.1 = k) ∧ (∀ p ∈ c.light.retires, p ∈ t.dev.chip.light.retires)
      ∧ Leaves s t { c with light := { c.light with retires := t.dev.chip.light.retires } })

/-! ## Towers -/

/-- The pantry port (R143, R164, R169 to R172): masters that ask in one cycle are counted as in conflict, each by its own count, but a core's matrix
side and its MOVE and vector side are one master, that of the operation issued earlier; the Hall's word
is written with its mark, a core's write of the same word is dropped, counted and flagged; no other byte changes. -/
def Obligations.PortGrants : Prop :=
  ∀ (s : State) (core reqs w : Nat) (bytes : List Byte) (husk : Bool) (other : Option Nat), Ready s →
    core < 4096 → core % 32 < 17 →
    let t0 := towerOf core
    let k := coreSel core
    let both : Prop := bitOf reqs 0 = true ∧ bitOf reqs 1 = true
    let conflicts (t : State) : Prop :=
      (¬ both → 2 ≤ (bitList 5 reqs).length → ∀ m, m < 5 → bitOf reqs m = true → counted s t 1 (conflictFld m) t0 0 k)
        ∧ (both → reqs % 32 = 3 → t.dev.cnt = s.dev.cnt)
        ∧ (both → 3 ≤ (bitList 5 reqs).length → ∀ m, m < 5 → bitOf reqs m = true → m ≠ (s.dev.chip.core core).waitingSide →
            counted s t 1 (conflictFld m) t0 0 k)
    (∃ t, exec (.pantryPortGrant core reqs none other) s = .next t ∧ conflicts t ∧ Leaves s t s.dev.chip)
    ∧ (bitOf reqs 2 = true → bitOf reqs 4 = false → w < sliceBytes / 16 → bytes.length = 16 →
        ∃ t, exec (.pantryPortGrant core reqs (some (w, bytes, husk)) other) s = .next t
      ∧ conflicts t ∧ (∀ i, i < 16 → t.mem.get (pantryAddr core (16 * w) + i) = bytes.getD i 0)
      ∧ (∀ x, x < pantryAddr core (16 * w) ∨ pantryAddr core (16 * w) + 16 ≤ x → t.mem.get x = s.mem.get x)
      ∧ t.dev.husked (wordKey core w) = husk ∧ (∀ j, j ≠ wordKey core w → t.dev.husked j = s.dev.husked j)
      ∧ ((bitOf reqs 0 = true ∨ bitOf reqs 1 = true) → other = some w →
          counted s t 1 F.TOW_PAN_COLLIDE t0 0 k ∧ flagged t F.TOW_PAN_STATUS_COLLIDE t0 0 k)
      ∧ t.dev.chip.tow.cores = s.dev.chip.tow.cores ∧ KeepsOuter s t)

/-- The debug window (R167, R173): READ and WRITE start an access of the selected slice, are refused with DENIED on a retired position
or a row of a loaded room that runs and with RANGE beyond the slice, and are ignored while BUSY; a write stores the data registers, a read
fills them, and STATUS tells of a husk. March tests (R174 to R176): START is staged with its fields, ignored with ALGO 2 or 3; a run that completes records
for every slice of its rows whether a read returned other than the expected value, as a cell stuck at either value makes it and a slice without
defective cells never does, and names the rows that failed; a destructive run leaves zero data without marks in them and nothing else changed. -/
def Obligations.DebugWindowAndMarchTests : Prop :=
  (∀ (s : State) (n : Nat), Ready s → n < 8 →
      let c := s.dev.chip
      let key := n * 32 + Requester.pf.code
      let x := c.dbg key
      let core := c.selCore .pf n
      let word := c.fld F.TOW_DBG_ADDR n 0 Requester.pf.code
      let denied : Prop := (Tab.get {} c.tow.pos core).st = 3
        ∨ ∃ r, (c.row (core / 32)).room = some r ∧ c.loaded r = true ∧ (c.room r).st ≠ .halted
      let goes (t : State) (y : Dbg) : Prop := t.dev.chip.dbg key = y ∧ (∀ j, j ≠ key → t.dev.chip.dbg j = c.dbg j)
        ∧ Leaves s t { c with tow := { c.tow with dbg := t.dev.chip.tow.dbg } }
      (x.busy = false → ¬ denied → word < sliceBytes / 16 →
          (∃ t, exec (.dbgRead .pf n) s = .next t ∧ goes t { busy := true, status := 0, isWrite := false, core, word })
          ∧ (∃ t, exec (.dbgWrite .pf n) s = .next t ∧ goes t { busy := true, status := 0, isWrite := true, core, word }))
      ∧ (x.busy = false → denied → ∃ t, exec (.dbgRead .pf n) s = .next t ∧ goes t { x with status := 2 })
      ∧ (x.busy = false → ¬ denied → sliceBytes / 16 ≤ word → ∃ t, exec (.dbgWrite .pf n) s = .next t ∧ goes t { x with status := 4 })
      ∧ (x.busy = true → ∃ t, exec (.dbgRead .pf n) s = .next t ∧ Answers s t [])
      ∧ (x.busy = true → x.isWrite = true → x.word < sliceBytes / 16 → ∃ t, exec (.dbgAccessDone .pf n) s = .next t
        ∧ (∀ i, i < 16 → t.mem.get (pantryAddr x.core (16 * x.word) + i) = (c.dbgData .pf n).getD i 0)
        ∧ (∀ a, a < pantryAddr x.core (16 * x.word) ∨ pantryAddr x.core (16 * x.word) + 16 ≤ a → t.mem.get a = s.mem.get a)
        ∧ t.dev.husked (wordKey x.core x.word) = false ∧ t.dev.chip.dbg key = { x with busy := false, status := 0 } ∧ KeepsOuter s t)
      ∧ (x.busy = true → x.isWrite = false → x.word < sliceBytes / 16 → errorFree s x.core (16 * x.word) 16 = true →
          ∃ t, exec (.dbgAccessDone .pf n) s = .next t
        ∧ (∀ i, i < 4 → t.dev.chip.fld F.TOW_DBG_DATA n i Requester.pf.code =
            leField (s.mem.bytes (pantryAddr x.core (16 * x.word)) 16) (4 * i) 4)
        ∧ t.dev.chip.dbg key = { x with busy := false, status := if s.dev.husked (wordKey x.core x.word) then 1 else 0 } ∧ Quiet s t))
  ∧ (∀ (s : State) (n t0 rows algo bg : Nat) (preserve : Bool) (cells : List BadCell), Ready s → n < 8 →
      let m := s.dev.chip.march n
      let cores := (bitList 16 m.rows).flatMap fun w => rowCores (n * 16 + w)
      let failed (t : State) (core : Nat) : Bool := (Tab.get {} t.dev.chip.tow.marchRes core).fail
      let results (t : State) : Prop := exec (.marchDone n cells) s = .next t ∧ (t.dev.chip.march n).st = 2
        ∧ (∀ core ∈ cores, failed t core = true ↔ ∃ x ∈ cells, x.core = core ∧ x.word < 196608 ∧ x.bit < 138
            ∧ ((marchOps m.algo m.bg).foldl (cellOp x) {}).bad ≠ [])
        ∧ (∀ core ∈ cores, m.bg % 16 ≠ 0 → (∃ x ∈ cells, x.core = core ∧ x.word < 196608 ∧ x.bit < 138 ∧ ∃ v, x.fault = .stuck v) → failed t core = true)
        ∧ (∀ core ∈ cores, (∀ x ∈ cells, x.core ≠ core) → Tab.get {} t.dev.chip.tow.marchRes core = {})
        ∧ (∀ w, w < 16 → (bitOf (t.dev.chip.march n).failRows w = true ↔ bitOf m.rows w = true ∧ ∃ core ∈ rowCores (n * 16 + w), failed t core = true))
      (algo < 2 → ∃ t, exec (.marchStart .pf n t0 rows algo bg preserve) s = .next t
        ∧ ∃ x, t = { s with dev := { s.dev with staged := s.dev.staged ++ [x], out := [] } }
          ∧ x.key = F.TOW_MARCH_CTL_START.key n ∧ x.due = s.dev.chip.dueFrame t0
          ∧ x.value = rows % 65536 * 2 ^ 16 + bg % 16 * 2 ^ 8 + algo * 4 + b2n preserve * 2 + 1)
      ∧ (2 ≤ algo → ∃ t, exec (.marchStart .pf n t0 rows algo bg preserve) s = .next t ∧ Answers s t [])
      ∧ (m.st = 1 → m.preserve = false → ∃ t, results t
        ∧ (∀ core ∈ cores, ∀ a, a < sliceBytes → t.mem.get (pantryAddr core a) = 0)
        ∧ (∀ x, (∀ core ∈ cores, x < pantryAddr core 0 ∨ pantryAddr core 0 + sliceBytes ≤ x) → t.mem.get x = s.mem.get x)
        ∧ (∀ core ∈ cores, ∀ w, w < sliceBytes / 16 → t.dev.husked (wordKey core w) = false)
        ∧ t.dev.chip.tow.cores = s.dev.chip.tow.cores ∧ KeepsOuter s t)
      ∧ (m.st = 1 → m.preserve = true → ∃ t, results t ∧ Quiet s t)
      ∧ (m.st ≠ 1 → ∃ t, exec (.marchDone n cells) s = .next t ∧ Answers s t []))

/-! ## The cellar -/

/-- A line that a read finds sound: no symbol of it is in error and it is not husked; a line of an invalid page is so (R271, R273). -/
def Sys2Proof.Claims.lineSound (c : Chip) (slice line : Nat) : Prop :=
  c.pageValid slice line = true → Tab.get [] c.cel.errs (lineKey slice line) = [] ∧ c.lineHusked slice line = false

/-- Memory after `l` was written to a line: the enabled bytes take their values; the other bytes of a page that was invalid read zero,
every other byte keeps its own (R271, R273). -/
def Sys2Proof.Claims.LineStored (s t : State) (slice line : Nat) (l : Nat → Option Byte) : Prop :=
  let page := cellarAddr slice (4096 * (line / 64))
  let base := cellarAddr slice (64 * line)
  t.dev.chip.pageValid slice line = true ∧ ∀ x, t.mem.get x =
    (if base ≤ x ∧ x < base + 64 then l (x - base) else none).getD
      (if s.dev.chip.pageValid slice line = false ∧ page ≤ x ∧ x < page + min 4096 (cellarBytes - 4096 * (line / 64)) then 0 else s.mem.get x)

/-- The atomic rows of R404: the command, its code, its operand size, and what it leaves in a target that held `t`, given the operand
`x` and the compare value `cmp`. -/
def Sys2Proof.Claims.atomicRow (i : CelRec → Nat → Nat → Instr) (op n : Nat) (f : Nat → Nat → Nat → Nat) : Prop :=
  let slt (w x t : Nat) : Bool := BitVec.slt (BitVec.ofNat w x) (BitVec.ofNat w t)
  (i = .fadd32 ∧ op = 1 ∧ n = 4 ∧ f = fun t x _ => (t + x) % 2 ^ 32) ∨ (i = .fadd64 ∧ op = 2 ∧ n = 8 ∧ f = fun t x _ => (t + x) % 2 ^ 64)
    ∨ (i = .faddf ∧ op = 3 ∧ n = 4 ∧ f = fun t x _ => (addF32 (BitVec.ofNat 32 t) (BitVec.ofNat 32 x)).toNat)
    ∨ (i = .cas64 ∧ op = 4 ∧ n = 8 ∧ f = fun t x cmp => if t = cmp then x else t)
    ∨ (i = .swap32 ∧ op = 5 ∧ n = 4 ∧ f = fun _ x _ => x) ∨ (i = .swap64 ∧ op = 6 ∧ n = 8 ∧ f = fun _ x _ => x)
    ∨ (i = .smin32 ∧ op = 7 ∧ n = 4 ∧ f = fun t x _ => if slt 32 x t then x else t)
    ∨ (i = .smax32 ∧ op = 8 ∧ n = 4 ∧ f = fun t x _ => if slt 32 t x then x else t)
    ∨ (i = .smin64 ∧ op = 9 ∧ n = 8 ∧ f = fun t x _ => if slt 64 x t then x else t)
    ∨ (i = .smax64 ∧ op = 10 ∧ n = 8 ∧ f = fun t x _ => if slt 64 t x then x else t)
    ∨ (i = .umin64 ∧ op = 11 ∧ n = 8 ∧ f = fun t x _ => min t x) ∨ (i = .umax64 ∧ op = 12 ∧ n = 8 ∧ f = fun t x _ => max t x)
    ∨ (i = .fmin ∧ op = 13 ∧ n = 4 ∧ f = fun t x _ => (toF32 ((f32 (BitVec.ofNat 32 t)).min (f32 (BitVec.ofNat 32 x)))).toNat)
    ∨ (i = .fmax ∧ op = 14 ∧ n = 4 ∧ f = fun t x _ => (toF32 ((f32 (BitVec.ofNat 32 t)).max (f32 (BitVec.ofNat 32 x)))).toNat)

/-- Memory requests (R264, R267 to R273, R404): a record reaches its stack, is judged in the order of R268 and waits in order; after the last retry slot of
the next frame the Hall's writes are applied, a frame's writes of one line together, and the records performed, on a slice that has become absent since with
ABSENT: a write stores its enabled bytes, an atomic operation leaves its result and
answers the old value, a read answers the line; the replies wait for a slot to their endpoint and then leave. -/
def Obligations.CellarRequests : Prop :=
  ∀ (s : State), Ready s →
    let c := s.dev.chip
    let waits (t : State) (x : CelRec) (kind op : Nat) (data : List Byte) (enables operand compare : Nat) : Prop :=
      ∃ q, t.dev.chip.cel.reqs = placeReq q c.cel.reqs ∧ q.kind = kind ∧ q.op = op ∧ q.slice = x.stack * 64 + x.slice ∧ q.sliceByte = x.slice
        ∧ q.line = x.line
        ∧ q.count = x.count ∧ q.off = x.off ∧ q.tag = x.tag ∧ q.dest = x.dest ∧ q.reply = x.reply ∧ q.owner = x.owner ∧ q.room = x.room
        ∧ q.data = padTo 64 0 data ∧ q.enables = enables ∧ q.operand = operand ∧ q.compare = compare
        ∧ q.frame = (if x.late then frameSub c.frm.cur 1 else c.frm.cur)
        ∧ (x.owner < 16 → x.room = x.owner → x.pf = false → c.sliceRoom q.slice = some x.room → x.line < cellarLines → c.absent q.slice = false →
            c.celPending x.stack x.owner < 256 → q.status = celOk)
        ∧ (x.room ≠ x.owner → x.owner ≠ 16 → q.status = celBadReq)
        ∧ (x.owner < 16 → x.room = x.owner → x.pf = false → c.sliceRoom q.slice ≠ some x.room → q.status = celDenied)
        ∧ (x.owner < 16 → x.room = x.owner → x.pf = false → c.sliceRoom q.slice = some x.room → cellarLines ≤ x.line → q.status = celRange)
        ∧ (x.owner < 16 → x.room = x.owner → x.pf = false → c.sliceRoom q.slice = some x.room → x.line < cellarLines → c.absent q.slice = true →
            q.status = celAbsent)
        ∧ (q.status = celBusy → counted s t 1 F.CEL_REQ_BUSY x.stack)
        ∧ Leaves s t { c with cel := { c.cel with reqs := t.dev.chip.cel.reqs } }
    (∀ x, x.stack < 12 → x.slice < 64 → celRecOk x 1 0 = true → ∃ t, exec (.read x) s = .next t ∧ waits t x 1 0 [] 0 0 0)
    ∧ (∀ x enables data, x.stack < 12 → x.slice < 64 → celRecOk x 2 0 = true → ∃ t, exec (.write x enables data) s = .next t
        ∧ waits t x 2 0 data enables 0 0)
    ∧ (∀ x operand compare, x.stack < 12 → x.slice < 64 →
        let atom (op : Nat) (t : State) : Prop := waits t x 3 op [] 0 operand compare
        (celRecOk x 3 1 = true → ∃ t, exec (.fadd32 x operand compare) s = .next t ∧ atom 1 t)
        ∧ (celRecOk x 3 2 = true → ∃ t, exec (.fadd64 x operand compare) s = .next t ∧ atom 2 t)
        ∧ (celRecOk x 3 3 = true → ∃ t, exec (.faddf x operand compare) s = .next t ∧ atom 3 t)
        ∧ (celRecOk x 3 4 = true → ∃ t, exec (.cas64 x operand compare) s = .next t ∧ atom 4 t)
        ∧ (celRecOk x 3 5 = true → ∃ t, exec (.swap32 x operand compare) s = .next t ∧ atom 5 t)
        ∧ (celRecOk x 3 6 = true → ∃ t, exec (.swap64 x operand compare) s = .next t ∧ atom 6 t)
        ∧ (celRecOk x 3 7 = true → ∃ t, exec (.smin32 x operand compare) s = .next t ∧ atom 7 t)
        ∧ (celRecOk x 3 8 = true → ∃ t, exec (.smax32 x operand compare) s = .next t ∧ atom 8 t)
        ∧ (celRecOk x 3 9 = true → ∃ t, exec (.smin64 x operand compare) s = .next t ∧ atom 9 t)
        ∧ (celRecOk x 3 10 = true → ∃ t, exec (.smax64 x operand compare) s = .next t ∧ atom 10 t)
        ∧ (celRecOk x 3 11 = true → ∃ t, exec (.umin64 x operand compare) s = .next t ∧ atom 11 t)
        ∧ (celRecOk x 3 12 = true → ∃ t, exec (.umax64 x operand compare) s = .next t ∧ atom 12 t)
        ∧ (celRecOk x 3 13 = true → ∃ t, exec (.fmin x operand compare) s = .next t ∧ atom 13 t)
        ∧ (celRecOk x 3 14 = true → ∃ t, exec (.fmax x operand compare) s = .next t ∧ atom 14 t))
    ∧ (∀ stack q, stack < 12 → c.cel.writes = [] → c.cel.reqs = [q] → q.slice / 64 = stack → q.status = celOk → c.before q.frame = true →
        q.line < cellarLines → c.absent q.slice = false → c.retraining q.slice = false → lineSound c q.slice q.line →
        let done (t : State) (r : CelRsp) : Prop := exec (.cellarWriteApply stack) s = .next t ∧ t.dev.chip.cel.reqs = []
          ∧ t.dev.chip.cel.rsps = c.cel.rsps ++ [r] ∧ KeepsOuter s t
        (q.kind = 1 → q.count = 1 → ∃ t, done t { q.rsp celOk with
            data := if c.pageValid q.slice q.line then s.mem.bytes (cellarAddr q.slice (64 * q.line)) 64 else List.replicate 64 0 } ∧ SameMemory s t)
        ∧ (q.kind = 2 → q.husk = none → q.data.length = 64 → q.enables % 2 ^ 64 ≠ 0 → ∃ t, done t (q.rsp celOk)
            ∧ LineStored s t q.slice q.line fun k => if bitOf q.enables k then q.data[k]? else none)
        ∧ (∀ i n f, atomicRow i q.op n f → q.kind = 3 → c.pageValid q.slice q.line = true → q.off % n = 0 → q.off + n ≤ 64 → ∃ t,
            let old := leField (s.mem.bytes (cellarAddr q.slice (64 * q.line)) 64) q.off n
            done t { q.rsp celOk with result := old } ∧ LineStored s t q.slice q.line fun k =>
              if q.off ≤ k then (leBytes n (f old (q.operand % 2 ^ (8 * n)) q.compare))[k - q.off]? else none))
    ∧ (∀ stack w line, stack < 12 → c.cel.reqs = [] → c.cel.writes = [w] → w.slice / 64 = stack → c.before w.frame = true → w.addr = 64 * line →
        line < cellarLines → w.bytes.length = 64 → w.husks = 0 → c.absent w.slice = false →
        ∃ t, exec (.cellarWriteApply stack) s = .next t ∧ LineStored s t w.slice line (fun k => w.bytes[k]?)
        ∧ t.dev.chip.lineHusked w.slice line = false ∧ t.dev.chip.cel.writes = [] ∧ t.dev.chip.cel.rsps = c.cel.rsps ∧ KeepsOuter s t)
    ∧ (∀ stack v w line, stack < 12 → c.cel.reqs = [] → c.cel.writes = [v, w] → v.slice / 64 = stack → w.slice = v.slice → c.before v.frame = true →
        w.frame = v.frame → v.addr = 64 * line → w.addr = v.addr + v.bytes.length → line < cellarLines → v.bytes.length + w.bytes.length = 64 →
        v.husks = 0 → w.husks = 0 → c.absent v.slice = false →
        ∃ t, exec (.cellarWriteApply stack) s = .next t ∧ LineStored s t v.slice line (fun k => (v.bytes ++ w.bytes)[k]?)
        ∧ t.dev.chip.lineHusked v.slice line = false ∧ t.dev.chip.cel.writes = [] ∧ t.dev.chip.cel.rsps = c.cel.rsps ∧ KeepsOuter s t)
    ∧ (∀ stack q, stack < 12 → c.cel.writes = [] → c.cel.reqs = [q] → q.slice / 64 = stack → q.status = celOk → c.before q.frame = true →
        c.absent q.slice = true → c.retraining q.slice = false → q.kind = 2 → ∃ t, exec (.cellarWriteApply stack) s = .next t
        ∧ Leaves s t { c with cel := { c.cel with reqs := [], rsps := c.cel.rsps ++ [q.rsp celAbsent] } })
    ∧ (∀ r ep, c.cel.rsps = [r] → r.isData = true → r.reply = ep → c.rspSlots r.stack r.owner ep = true →
        ∃ t, exec (.celrspSend r.stack r.owner ep) s = .next t ∧ t.dev.out = [.record ep r.payload]
        ∧ Leaves s t { c with cel := { c.cel with rsps := [] } })
    ∧ (∀ stack owner ep, c.rspSlots stack owner ep = false → ∃ t, exec (.celrspSend stack owner ep) s = .next t ∧ Leaves s t c)

/-- Care of the cellar (R270, R271, R275 to R280, R488): a bucket leaks one from every slice's level at its threshold and no second time; a scrub or an
invalidation is staged by the PF and by no other; the scrubber's next line waits while its channel retrains, is skipped in an invalid page, checked where it is
sound, corrected with one or two symbols in error and left as it is where a write reached it before, husked with three to six; a pass that has read every line publishes its summary. -/
def Obligations.CellarCare : Prop :=
  ∀ (s : State) (n : Nat), Ready s → n < 12 →
    let c := s.dev.chip
    let x := c.scrubber n
    let stagedIs (t : State) (f : Fld) (t0 : Nat) : Prop :=
      t = { s with dev := { s.dev with staged := s.dev.staged ++ [⟨f.key n, f.mask, f.mask, c.dueFrame t0, .pf⟩], out := [] } }
    (c.leakDue n = true → ∃ t, exec (.bucketLeak n) s = .next t
      ∧ (∀ k, t.dev.chip.slice k = if k / 64 = n then { c.slice k with level := (c.slice k).level - 1 } else c.slice k)
      ∧ t.dev.chip.leakDue n = false ∧ Leaves s t { c with cel := { c.cel with slices := t.dev.chip.cel.slices, leaked := t.dev.chip.cel.leaked } })
    ∧ (c.leakDue n = false → ∃ t, exec (.bucketLeak n) s = .next t ∧ Answers s t [])
    ∧ (∀ t0, ∃ t, exec (.scrubStart .pf n t0) s = .next t ∧ stagedIs t F.CEL_SCRUB_CTL_START t0)
    ∧ (∀ t0, ∃ t, exec (.invalStart .pf n t0) s = .next t ∧ stagedIs t F.CEL_INVAL_CTL_START t0)
    ∧ (∀ r t0, r ≠ .pf → ∃ t, exec (.invalStart r n t0) s = .next t ∧ Answers s t [])
    ∧ (∀ slice raced, slice < 64 → x.st = 1 → bitOf x.slices slice = true → x.line slice ≤ x.last → c.retraining (n * 64 + slice) = false →
        let line := x.line slice
        let k := n * 64 + slice
        let errs := Tab.get [] c.cel.errs (lineKey k line)
        let goes (t : State) (y : Scrub) : Prop := exec (.scrubLine n slice raced) s = .next t
          ∧ t.dev.chip.scrubber n = { y with next := Tab.ins x.next slice (line + 1) } ∧ KeepsOuter s t
        (c.pageValid k line = false → ∃ t, goes t { x with skipped := x.skipped + 1 } ∧ SameMemory s t)
        ∧ (c.pageValid k line = true → raced = true → c.lineHusked k line = false → errs.length ≤ 2 →
            ∃ t, goes t { x with checked := x.checked + 1 } ∧ SameMemory s t)
        ∧ (c.pageValid k line = true → raced = false → c.lineHusked k line = false → errs = [] →
            ∃ t, goes t { x with checked := x.checked + 1 } ∧ SameMemory s t)
        ∧ (c.pageValid k line = true → raced = false → c.lineHusked k line = false → 1 ≤ errs.length → errs.length ≤ 2 →
            ∃ t, goes t { x with checked := x.checked + 1, corrected := x.corrected + 1 } ∧ SameMemory s t
              ∧ Tab.get [] t.dev.chip.cel.errs (lineKey k line) = [] ∧ counted s t 1 F.CEL_SLICE_CORR n 0 slice
              ∧ (t.dev.chip.slice k).corr = (c.slice k).corr + 1)
        ∧ (c.pageValid k line = true → 3 ≤ errs.length → errs.length ≤ 6 →
            ∃ t, goes t { x with checked := x.checked + 1, uncorr := x.uncorr + 1, firstBad := x.firstBad.orElse fun _ => some (slice, line) }
              ∧ t.dev.chip.lineHusked k line = true ∧ counted s t 1 F.CEL_SLICE_UNCORR n 0 slice ∧ flagged t F.CEL_INT_STATUS_UNCORR n
              ∧ (∀ a, a < cellarAddr k (64 * line) ∨ cellarAddr k (64 * line) + 64 ≤ a → t.mem.get a = s.mem.get a)))
    ∧ (∀ slice raced, c.retraining (n * 64 + slice) = true → ∃ t, exec (.scrubLine n slice raced) s = .next t ∧ Answers s t [])
    ∧ (x.st = 1 → (∀ k, k < 64 → bitOf x.slices k = true → x.last < x.line k) → ∃ t, exec (.scrubDone n) s = .next t
        ∧ (t.dev.chip.scrubber n).st = 2 ∧ flagged t F.CEL_INT_STATUS_SCRUB_DONE n
        ∧ (t.dev.chip.scrubber n).sum.getD 2 0 = x.corrected ∧ (t.dev.chip.scrubber n).sum.getD 3 0 = x.uncorr
        ∧ (t.dev.chip.scrubber n).sum.getD 4 0 = x.skipped
        ∧ (∀ j, j ≠ n → t.dev.chip.scrubber j = c.scrubber j)
        ∧ Leaves s t { c with cel := { c.cel with scrub := t.dev.chip.cel.scrub } })
    ∧ (x.st = 1 → (∃ k, k < 64 ∧ bitOf x.slices k = true ∧ x.line k ≤ x.last) → ∃ t, exec (.scrubDone n) s = .next t ∧ Answers s t [])

/-! ## Rooms, images and queues -/

/-- Rooms and loads (R287, R289, R292, R295, R339, R340, R344, R345): HALT, RESUME, reset, GO and RETRY are staged for the PF and the room's own VF and
dropped for another's; a halt, a resume and a reset that are due change the room's state; a switch that falls due in an empty room is refused with
EMPTY_SLOT; a load begins when the engine is idle, is refused with BUSY,
DENIED or BAD_LEN otherwise, fails with READ_ERR or MAGIC, and with the first check that its image breaks, and waits for its threshold when it breaks
none; ABORT ends it before acceptance and not after. -/
def Obligations.RoomsAndLoads : Prop :=
  ∀ (s : State) (n t0 : Nat) (r : Requester), Ready s → s.dev.chip.boot.warm = false → n < 16 → roomWriter r n = true →
    let c := s.dev.chip
    let stagedIs (t : State) (key mask value : Nat) : Prop :=
      t = { s with dev := { s.dev with staged := s.dev.staged ++ [⟨key, mask, value, c.dueFrame t0, r⟩], out := [] } }
    let bit (t : State) (f : Fld) : Prop := stagedIs t (f.key n) f.mask f.mask
    (∃ t, exec (.halt r n t0) s = .next t ∧ bit t F.ROOM_CTL_HALT)
    ∧ (∃ t, exec (.resume r n t0) s = .next t ∧ bit t F.ROOM_CTL_RESUME)
    ∧ (∃ t, exec (.roomResetCmd r n t0) s = .next t ∧ bit t F.ROOM_CTL_RESET)
    ∧ (∀ slot phase, slot < 64 → phase < 16 → ∃ t, exec (.go r n t0 slot phase) s = .next t
        ∧ stagedIs t (F.ROOM_SWITCH_GO.key n) 0x3F0F01 (slot * 2 ^ 16 + phase * 2 ^ 8 + 1))
    ∧ (∃ t, exec (.imageRetry r n t0) s = .next t ∧ stagedIs t (F.BIT_ROOM_STATE_RETRY.key 0 n) F.BIT_ROOM_STATE_RETRY.mask F.BIT_ROOM_STATE_RETRY.mask)
    ∧ (∀ v, v ≠ n + 1 → ∃ t, exec (.halt (.vf v) n t0) s = .next t ∧ Answers s t [])
    ∧ (∀ (d : Dev) reset, (d.chip.room n).st = .running → (d.chip.room n).resetDue = none → (d.chip.room n).overran = false → (d.chip.room n).haltDue = true →
        (d.chip.room n).resumeDue = false →
        let d' := roomStep1 reset d n
        (d'.chip.room n).st = .halted ∧ (d'.chip.room n).cause = causeHost ∧ (d'.chip.room n).was = .running
          ∧ (d'.chip.room n).stateFrame = d.chip.frm.cur ∧ (∀ j, j ≠ n → d'.chip.room j = d.chip.room j))
    ∧ (∀ (d : Dev) reset, (d.chip.room n).st = .halted → (d.chip.room n).cause = causeHost → (d.chip.room n).resetDue = none →
        (d.chip.room n).resumeDue = true →
        ((roomStep1 reset d n).chip.room n).st = (d.chip.room n).was)
    ∧ (∀ (d : Dev) f x, (d.chip.room n).cur = none → (d.chip.room n).switchDue = some x →
        let d' := roomStep6 f d n
        (d'.chip.room n).swSt = 4 ∧ (d'.chip.room n).swReason = 1 ∧ (d'.chip.room n).switchDue = none
          ∧ flagged { s with dev := d' } F.ROOM_INT_STATUS_SWITCH_REFUSED n ∧ (∀ j, j ≠ n → d'.chip.room j = d.chip.room j))
    ∧ (∀ (d : Dev) f l, (d.chip.room n).cur = some l → (d.chip.room n).st = .halted → (d.chip.room n).switchDue = none →
        (d.chip.room n).run.ran = false → roomStep6 f d n = d)
    ∧ (∀ (d : Dev) cause, ((d.resetRoom n cause).chip.room n).st = .resetting ∧ ((d.resetRoom n cause).chip.room n).resident = 0
        ∧ ((d.resetRoom n cause).chip.room n).lastCause = cause
        ∧ ∀ k ∈ d.chip.roomCores n, ((d.resetRoom n cause).chip.core k).s = [] ∧ ((d.resetRoom n cause).chip.core k).st = .ended)
    ∧ (let b := c.bit
       let asked := s.dev.stagedOf F.BIT_CFG_ROOM 0 0 Requester.pf.code
       let len := s.dev.stagedOf F.BIT_LEN 0 0 Requester.pf.code * 64
       let src := s.dev.stagedOf F.BIT_SRC_LO 0 0 Requester.pf.code * 64 + s.dev.stagedOf F.BIT_SRC_HI 0 0 Requester.pf.code * 2 ^ 32
       let failed (t : State) (fn status : Nat) : Prop := (Tab.get {} t.dev.chip.bit.res fn).status = status
          ∧ (Tab.get {} t.dev.chip.bit.res fn).st = 4 ∧ flagged t F.BIT_INT_STATUS_FAILED ∧ Leaves s t { c with bit := t.dev.chip.bit }
       let free : Prop := ¬ ((c.room asked).st = .running ∧ c.fld F.ROOM_CTL_AUTORUN asked = 0) ∧ c.seq.lost = false
       (b.eng = .idle → free → s.dev.stagedOf F.BIT_CFG_KIND 0 0 Requester.pf.code = 0 → 256 ≤ len → len ≤ 2 ^ 30 → ∃ t,
          exec (.loadStart .pf) s = .next t ∧ t.dev.chip.bit.eng = .reading
          ∧ t.dev.chip.bit.load = some { owner := Requester.pf.code, room := asked, srcKind := 1, src, len }
          ∧ (Tab.get {} t.dev.chip.bit.res Requester.pf.code).id = 0
          ∧ (Tab.get {} t.dev.chip.bit.res Requester.pf.code).st = 1 ∧ Leaves s t { c with bit := t.dev.chip.bit })
       ∧ (b.eng ≠ .idle → ∃ t, exec (.loadStart .pf) s = .next t ∧ failed t Requester.pf.code stBusy ∧ t.dev.chip.bit.load = b.load)
       ∧ (b.eng = .idle → free → len < 256 → ∃ t, exec (.loadStart .pf) s = .next t ∧ failed t Requester.pf.code stBadLen ∧ t.dev.chip.bit.load = b.load)
       ∧ (b.eng = .idle → s.dev.stagedOf F.BIT_CFG_KIND 0 0 (Requester.vf (n + 1)).code = 1 → ∃ t, exec (.loadStart (.vf (n + 1))) s = .next t
          ∧ failed t (Requester.vf (n + 1)).code stDenied ∧ t.dev.chip.bit.load = b.load)
       ∧ (∀ l, (b.eng = .reading ∨ b.eng = .validating) → b.load = some l → l.srcKind = 1 →
          (∃ t, exec (.loadValidated t0 none) s = .next t ∧ failed t l.owner stReadErr ∧ t.dev.chip.bit.load = none ∧ t.dev.chip.bit.eng = .idle)
          ∧ (∀ bytes, bytes.length = l.len → bytes.take 4 ≠ [0x5A#8, 0x4B#8, 0x49#8, 0x4D#8] → ∃ t, exec (.loadValidated t0 (some bytes)) s = .next t
            ∧ failed t l.owner stMagic ∧ t.dev.chip.bit.load = none ∧ t.dev.chip.bit.eng = .idle ∧ t.dev.chip.bit.used = b.used)
          ∧ (∀ bytes i x, bytes.length = l.len → parseImage bytes l.len c.sec.version c.sec.owner = .ok (i, x) → (∀ res, checkDevice { c with bit := { b with res } } l.room i x = .ok ()) →
            ∃ t, exec (.loadValidated t0 (some bytes)) s = .next t ∧ t.dev.chip.bit.eng = .accepted
            ∧ t.dev.chip.bit.load = some { l with image := some i, due := c.dueFrame t0 } ∧ t.dev.chip.bit.used = b.used + i.store
            ∧ (Tab.get {} t.dev.chip.bit.res l.owner).status = stOk ∧ t.dev.chip.rooms = c.rooms ∧ Quiet s t))
       ∧ (∀ l, (b.eng = .reading ∨ b.eng = .validating) → b.load = some l → l.owner = r.code → ∃ t, exec (.abort r) s = .next t
          ∧ failed t l.owner stAborted ∧ t.dev.chip.bit.load = none ∧ t.dev.chip.bit.eng = .idle)
       ∧ (b.eng = .accepted → ∃ t, exec (.abort r) s = .next t ∧ Answers s t []))

/-- Queues (R298 to R300, R302 to R304, R307 to R311, R314, R315, R564): doorbells within their range set the counts and others are counted as bad; a packet read or
streamed in takes its cells and waits for its commit, is rewound when its read fails, is dropped into the tail marker when no cell is granted; the reads
of a submission go to the ring's entry and to the address that it names; a record that fits is written to the ring at the producer count, at its end
behind a PAD record, which is written alone where only it fits, and a packet with a cell that fails its CHECK is rewound; EN starts every count from 0, its clearing rewinds what the queue holds; limits are staged. -/
def Obligations.QueuesAct : Prop :=
  ∀ (s : State) (q : Nat), Ready s → q < nQueues →
    let c := s.dev.chip
    let x := c.queue q
    let others (t : State) : Prop := (∀ j, j ≠ q → t.dev.chip.queue j = c.queue j) ∧ Leaves s t { c with que := t.dev.chip.que }
    let on : Prop := c.queueOn q = true
    (∀ v, on → c.queueKind q = some qFeed → v < 2 ^ 32 → (v + 2 ^ 32 - x.taken) % 2 ^ 32 ≤ c.ringSize q / 16 →
        ∃ t, exec (.producer .pf q v 15) s = .next t ∧ t.dev.chip.queue q = { x with written := v } ∧ others t)
    ∧ (∀ r v be, (be % 16 ≠ 15 ∨ ¬ on ∨ c.queueKind q ≠ some qFeed ∨ c.rings r q = false) → ∃ t, exec (.producer r q v be) s = .next t
        ∧ counted s t 1 F.QUE_BAD_DOORBELL ∧ Leaves s t c)
    ∧ (∀ v, on → (c.queueKind q = some qCompl ∨ c.queueKind q = some qFabHost) → v < 2 ^ 32 → v % 16 = 0 →
        (v + 2 ^ 32 - x.cons) % 2 ^ 32 ≤ (x.prod + 2 ^ 32 - x.cons) % 2 ^ 32 →
        ∃ t, exec (.consumer .pf q v 15) s = .next t ∧ t.dev.chip.queue q = { x with cons := v } ∧ others t)
    ∧ (∀ entry data, on → c.queueKind q = some qFeed → x.readE ≠ x.written →
        let len := leField entry 8 4
        let fits : Prop := len ≤ ((c.queueDecl q).map fun e => e.2.maxPkt).getD 0
        let next := (x.readE + 1) % 2 ^ 32
        let n := cellsOf len
        let reads (t : State) : Prop := entry.length = 16 → 0 < len → t.dev.out =
          [.dmaRead x.fn (c.ringAddr q + 16 * x.readE % c.ringSize q) 16, .dmaRead x.fn (leField entry 0 8) len]
        (fits → c.room4 q 0 n = true → ∃ t, exec (.submissionRead q 0 entry data) s = .next t ∧ reads t
          ∧ t.dev.chip.queue q = { x with
              readE := next, wait := x.wait ++ [{ data := padTo len 0 data, origin := 0, source := x.fn, cells := c.que.cellsFor n }] } ∧ others t)
        ∧ (fits → c.room4 q 0 n = false → ∃ t, exec (.submissionRead q 0 entry data) s = .next t ∧ reads t
          ∧ t.dev.chip.queue q = { x with readE := next, gapCount := satAdd 32 x.gapCount 1
                                          gapFrame := if x.gapCount = 0 then c.frm.cur else x.gapFrame
                                          taken := (x.taken + 1) % 2 ^ 32, shadowDue := true }
          ∧ counted s t 1 F.QUE_Q_DROPS 0 0 q ∧ flagged t F.QUE_INT_STATUS_DROP ∧ others t)
        ∧ (∃ t, exec (.submissionRead q 1 entry data) s = .next t
          ∧ t.dev.chip.queue q = { x with readE := next, taken := (x.taken + 1) % 2 ^ 32, shadowDue := true }
          ∧ counted s t 1 F.QUE_Q_REWOUND 0 0 q ∧ flagged t F.QUE_INT_STATUS_REWIND ∧ others t))
    ∧ (∀ (data : List Byte) slot, 1 ≤ data.length → data.length ≤ 96 → x.streamPrev = [slot] → slot.good = true → slot.husks = 0 →
        slot.bytes = padTo 112 0 (leBytes 1 1 ++ leBytes 1 3 ++ leBytes 2 data.length ++ List.replicate 12 0 ++ data) → x.building = none →
        c.room4 q 0 (cellsOf data.length) = true → ∃ t, exec (.queueStream q) s = .next t
        ∧ t.dev.chip.queue q = { x with streamPrev := []
                                        wait := x.wait ++ [{ data, origin := 1, source := slot.source, last := frameSub c.frm.cur 1
                                                             cells := c.que.cellsFor (cellsOf data.length) }] } ∧ others t)
    ∧ (x.streamPrev = [] → ∃ t, exec (.queueStream q) s = .next t ∧ t.dev.chip.queue q = x ∧ others t)
    ∧ (∀ p rest, on → (c.queueKind q = some qCompl ∨ c.queueKind q = some qFabHost) → x.pkts = p :: rest →
        let rec' := p.record q
        let pos := x.prod % c.ringSize q
        let used := (x.prod + 2 ^ 32 - x.cons) % 2 ^ 32
        (c.que.fails q p = false → pos + rec'.length ≤ c.ringSize q → used + rec'.length ≤ c.ringSize q → pos < c.ringSize q →
          ∃ t, exec (.deliveryWrite q [] 0) s = .next t ∧ t.dev.out = [.dmaWrite x.fn (c.ringAddr q + pos) rec']
          ∧ t.dev.chip.queue q = { x with pkts := rest, prod := (x.prod + rec'.length) % 2 ^ 32, shadowDue := true, vecDue := true } ∧ others t)
        ∧ (c.que.fails q p = false → pos + rec'.length ≤ c.ringSize q → c.ringSize q < used + rec'.length →
          ∃ t, exec (.deliveryWrite q [] 0) s = .next t ∧ Answers s t [])
        ∧ (c.que.fails q p = false → c.ringSize q < pos + rec'.length → used + (c.ringSize q - pos) ≤ c.ringSize q →
            c.ringSize q < used + (c.ringSize q - pos) + rec'.length → pos < c.ringSize q →
          ∃ t, exec (.deliveryWrite q [] 0) s = .next t
          ∧ t.dev.out = [.dmaWrite x.fn (c.ringAddr q + pos) (padRecord q (c.ringSize q - pos))]
          ∧ t.dev.chip.queue q = { x with prod := (x.prod + (c.ringSize q - pos)) % 2 ^ 32, shadowDue := true, vecDue := true } ∧ others t)
        ∧ (c.que.fails q p = true → ∃ t, exec (.deliveryWrite q [] 0) s = .next t ∧ t.dev.chip.queue q = { x with pkts := rest }
          ∧ counted s t 1 F.QUE_Q_REWOUND 0 0 q ∧ others t))
    ∧ (c.queueOn q = false → s.dev.enableOk q = true → ∃ t, exec (.queueEnable .pf q) s = .next t ∧ t.dev.chip.queueOn q = true
        ∧ t.dev.chip.queue q = { x with fn := Requester.pf.code, prod := 0, cons := 0, written := 0, readE := 0, taken := 0, shadowDue := true }
        ∧ (∀ j, j ≠ q → t.dev.chip.queue j = c.queue j) ∧ Quiet s t)
    ∧ (c.queueOn q = false → s.dev.enableOk q = false → ∃ t, exec (.queueEnable .pf q) s = .next t ∧ flagged t F.QUE_INT_STATUS_BAD_CFG ∧ Leaves s t c)
    ∧ (on → x.building = none → x.stream = [] → x.streamPrev = [] → ∃ t, exec (.queueDisable .pf q) s = .next t ∧ t.dev.chip.queueOn q = false
        ∧ (t.dev.chip.queue q).pkts = [] ∧ (t.dev.chip.queue q).wait = [] ∧ (t.dev.chip.queue q).gapCount = 0
        ∧ (0 < x.pkts.length + x.wait.length → counted s t (x.pkts.length + x.wait.length) F.QUE_Q_REWOUND 0 0 q)
        ∧ (∀ j, j ≠ q → t.dev.chip.queue j = c.queue j) ∧ Quiet s t)
    ∧ (∀ t0 a b, c.boot.warm = false → 1 ≤ a → a < 2 ^ 16 → b < 2 ^ 16 → s.dev.stagedOf F.QUE_Q_CFG_EN 0 0 q = 0 →
        ∃ t, exec (.queueConfigWrite .pf t0 q a b) s = .next t ∧ t = { s with dev := { s.dev with
          staged := s.dev.staged ++ [⟨F.QUE_Q_LIM_MIN_CELLS.key 0 0 q, 0xFFFFFFFF, a * 2 ^ 16 + b, c.dueFrame t0, .pf⟩], out := [] } })
    ∧ (∀ t0 a b, c.boot.warm = false → a < s.dev.minSum nQueues → ∃ t, exec (.queueConfigWrite .pf t0 nQueues a b) s = .next t
        ∧ flagged t F.QUE_INT_STATUS_BAD_CFG ∧ Leaves s t c)

/-! ## The Jilia ports -/

/-- The port of `t` is `y`; no other port changed, nor anything outside the chip that a quiet command leaves. -/
def Sys2Proof.Claims.PortIs (s t : State) (q : Nat) (y : Port) : Prop :=
  t.dev.chip.port q = y ∧ (∀ j, j ≠ q → t.dev.chip.port j = s.dev.chip.port j) ∧ Quiet s t

/-- The port became `y` and stopped carrying: where it carried, its link is reported both ways around the ring and to this module's own map at the
next threshold (R366, R367); the other port of its ring sends the LINK_STATE packet where it carries and has credit. -/
def Sys2Proof.Claims.PortMoves (s t : State) (q : Nat) (y : Port) : Prop :=
  let c := s.dev.chip
  let o := (q + 3) % 6
  let pk := sealed { linkPacket (q % 3) (c.linkOf q) true with dest := (c.port o).neighbour, src := c.nodeId }
  t.dev.chip.port q = { y with carrying := false } ∧ (∀ j, j ≠ q → (c.port q).carrying = false ∨ j ≠ o → t.dev.chip.port j = c.port j) ∧ Quiet s t
    ∧ ((c.port q).carrying = true → flagged t F.PCH_INT_STATUS_PORT_DOWN (portDie q)
        ∧ t.dev.chip.jil.breakDue = c.jil.breakDue ++ [(q % 3, c.linkOf q, true)]
        ∧ ((c.port o).takes pk = true → (c.port o).near = [] → .packet o (packetBytes pk) ∈ t.dev.out))

/-- `p` but for what sending changes of a port: the lanes in use, the round and the lane of the next codeword. -/
def Sys2Proof.Claims.sentOn (p y : Port) : Port := { p with txLive := y.txLive, txNext := y.txNext, txRound := y.txRound, txLane := y.txLane }

/-- A port that has light sends one codeword of these flits, in its turn (R350, R353, R355). -/
def Sys2Proof.Claims.WordOut (s t : State) (q mode : Nat) (f g : Flit) : Prop :=
  ∀ m r k, s.dev.chip.portLit q = true → (s.dev.chip.port q).nextWord = some (m, r, k) →
    t.dev.out = [.codeword q (laneLine k) (laneHigh k) (codeSymbols k r mode f g)]

/-- Port states (R350, R352, R356, R357): EN, light, its loss, safe pulses, the ends and failures of training, retries and far resets move a port as
the table of R357 says; training tells the far end who this is; a port that stops carrying reports its link both ways around the ring. -/
def Obligations.PortStates : Prop :=
  ∀ (s : State) (q : Nat), Ready s → s.dev.chip.portUp q = true →
    let c := s.dev.chip
    let p := c.port q
    let now := c.frm.time
    let goes (st cause : Nat) : Port := { p with st, cause, since := now, waiting := false }
    let pulses (t : State) : Prop := PortIs s t q { p with pulseAt := some now } ∧ (c.portLit q = true → t.dev.out = [.pulse q])
    (∃ t, exec (.portEn q false) s = .next t ∧ PortMoves s t q (goes 0 0) ∧ t.dev.chip.fld F.PCH_PORT_CTL_EN (portDie q) (q % 3) = 0)
    ∧ (p.st = 0 → ∃ t, exec (.portEn q true) s = .next t ∧ PortMoves s t q (goes 1 0) ∧ t.dev.chip.fld F.PCH_PORT_CTL_EN (portDie q) (q % 3) = 1)
    ∧ (p.st = 1 → ∃ t, exec (.lightDetect q) s = .next t ∧ PortMoves s t q { goes 2 0 with live := 0 })
    ∧ (1 ≤ p.st → p.st ≤ 4 → ∃ t, exec (.lossOfLight q) s = .next t ∧ PortMoves s t q (goes 5 1) ∧ flagged t F.PCH_INT_STATUS_SAFE (portDie q))
    ∧ (p.st = 5 → p.pulseAt = none → ∃ t, exec (.safePulse q) s = .next t ∧ pulses t)
    ∧ (∀ a, p.st = 5 → p.pulseAt = some a → c.endTime < a + 100000000 → ∃ t, exec (.safePulse q) s = .next t ∧ Answers s t [])
    ∧ (∀ a, p.st = 5 → p.pulseAt = some a → now ≤ a + 2000000 → ∃ t, exec (.safePulseReceived q) s = .next t
        ∧ PortMoves s t q { goes 2 0 with live := 0, pulseAt := none })
    ∧ (∀ a, p.st = 5 → p.pulseAt = some a → a + 2000000 < now → ∃ t, exec (.safePulseReceived q) s = .next t ∧ pulses t)
    ∧ (∀ lanes far farPort sizes (markers : List (Nat × Bool)), p.st = 2 → p.waiting = false →
        let live := lanes % 65536 &&& (65535 - p.retired % 65536)
        let crossed : Prop := ∃ m ∈ markers, m.2 ≠ laneHigh m.1
        let fits : Prop := farPort = (q + 3) % 6 ∧ far = c.neighbourAt q ∧ sizes = c.sizes
        let f : Flit := flitSealed { fseq := 0, ack := 0, idle := true, body := leBytes 2 c.nodeId ++ leBytes 2 q ++ leBytes 2 c.sizes, crc := 0 }
        let ends (t : State) (y : Port) : Prop := exec (.trainingDone q lanes far farPort sizes markers) s = .next t ∧ WordOut s t q 2 f f ∧ PortIs s t q y
        let fails (t : State) (cause : Nat) : Prop := ends t (sentOn { p with cause, waiting := true, since := now } (t.dev.chip.port q))
        (¬ crossed → fits → 4 ≤ popcount 16 live → ∃ t, ends t
          { p with st := if popcount 16 live = 16 then 3 else 4, cause := 0, since := now, waiting := false, neighbour := far, live
                   txLive := 0xFFFF, txNext := none, txRound := 0, txLane := 0, rxRound := 0, rxLane := 0, skew := []
                   rxSeq := 2047, txSeq := 0, keep := [], credit := vcUnits, near := [], rx := [], askedAt := none })
        ∧ (crossed → ∃ t, fails t 2) ∧ (¬ crossed → ¬ fits → ∃ t, fails t 3) ∧ (¬ crossed → fits → popcount 16 live < 4 → ∃ t, fails t 5))
    ∧ (p.st = 2 → p.waiting = false → p.since + 400000000 ≤ c.endTime → ∃ t, exec (.trainFail q) s = .next t
        ∧ PortIs s t q { p with cause := 4, waiting := true, since := now })
    ∧ (p.st = 2 → c.endTime < p.since + 400000000 → ∃ t, exec (.trainFail q) s = .next t ∧ Answers s t [])
    ∧ (p.st = 2 → p.waiting = true → p.since + 1000000000 ≤ c.endTime → ∃ t, exec (.trainingRetry q) s = .next t
        ∧ PortIs s t q { p with waiting := false, since := now })
    ∧ (2 ≤ p.st → p.st ≤ 4 → ∃ t, exec (.farReset q) s = .next t ∧ PortMoves s t q { goes 2 6 with live := 0 })

/-- What ports carry (R353 to R358, R364 to R368, R386, R388): a codeword with too many errors is counted and asked for again, one with a HOLD marker
tells a far reset, a good one in its turn hands on its two flits and one ahead of its turn waits; a good flit in order advances the receive sequence,
is acknowledged and delivers what its body completes, one whose CRC fails is a lane error and is asked for again; LANES, delay exchanges and register
writes act; a change of a ring's link goes on around the ring; a packet with credit moves one hop in its turn, one without a route or of a wrong class
is dropped and counted. A codeword holds 544 symbols and a flit 320 bytes. -/
def Obligations.PortTraffic : Prop :=
  ∀ (s : State) (q lane : Nat), Ready s → s.dev.chip.portUp q = true → lane < 16 → s.gate.inj.st ≠ .active →
    let c := s.dev.chip
    let p := c.port q
    let stagedIs (t : State) (mask value t0 : Nat) : Prop := t = { s with dev := { s.dev with
      staged := s.dev.staged ++ [⟨F.PCH_PORT_CTL_EN.key (portDie q) (q % 3), mask, value, c.dueFrame t0, .pf⟩], out := [] } }
    let up : Prop := (p.st = 3 ∨ p.st = 4) ∧ bitOf p.live lane = true
    let turn (round : Nat) : Prop := round < 256 ∧ p.rxRound < 256 ∧ p.skew = [] ∧ nextLane p.live p.rxRound p.rxLane = some (round, lane)
    let err : LogEv := { cls := clsJiliaLane, kind := 8, index := q * 16 + lane }
    let near (t : State) (type : Nat) (args : List Byte) : Prop :=
      let pk := sealed { type, tc := 3, dest := p.neighbour, src := c.nodeId, args := padTo 12 0 args }
      (p.takes pk = true → p.near = [] → .packet q (packetBytes pk) ∈ t.dev.out) ∧ (p.takes pk = false → pk ∈ (t.dev.chip.port q).near)
        ∧ (∀ j, j ≠ q → t.dev.chip.port j = c.port j) ∧ Quiet s t
    let takes (t : State) (f : Flit) : Prop :=
      let got := takePackets 40 (p.rx ++ padTo 312 0 f.body)
      let ack := ({ p with rxSeq := f.fseq } : Port).idleFlit
      (t.dev.chip.port q).rxSeq = f.fseq ∧ (t.dev.chip.port q).inq = p.inq ++ got.1 ∧ (t.dev.chip.port q).rx = got.2 ∧ WordOut s t q 0 ack ack
        ∧ (∀ j, j ≠ q → t.dev.chip.port j = c.port j) ∧ Quiet s t
    (∀ round f0 f1 errors, up → turn round → 15 < errors → ∃ t, exec (.codeword q lane (laneMarker lane round 0) errors f0 f1) s = .next t
        ∧ counted s t 1 F.PCH_PORT_FEC_UNCORR (portDie q) (q % 3) ∧ logged s t err ∧ WordOut s t q 0 (p.idleFlit true) p.idleFlit
        ∧ PortIs s t q (sentOn { p with mUncorr := p.mUncorr + 1, rxRound := round, rxLane := lane + 1 } (t.dev.chip.port q)))
    ∧ (∀ f0 f1, up → ∃ t, exec (.codeword q lane (laneMarker lane 0 1) 0 f0 f1) s = .next t
        ∧ PortMoves s t q { p with st := 2, cause := 6, since := c.frm.time, waiting := false, live := 0 })
    ∧ (∀ round (f0 f1 : Flit), up → turn round → p.near = [] → f0.crc = flitCrc f0 → f1.crc = flitCrc f1 → f0.nak = false → f1.nak = false →
        f0.idle = false → f1.idle = true → f0.fseq = (p.rxSeq + 1) % 2048 →
        ∃ t, exec (.codeword q lane (laneMarker lane round 0) 0 f0 f1) s = .next t ∧ takes t f0
        ∧ (t.dev.chip.port q).rxRound = round ∧ (t.dev.chip.port q).rxLane = lane + 1)
    ∧ (∀ round (f0 f1 : Flit), up → round < 256 → p.skew = [] → nextLane p.live p.rxRound p.rxLane ≠ some (round, lane) → p.roundsAhead round < 12 →
        (round = p.rxRound → p.rxLane ≤ lane) → ∃ t, exec (.codeword q lane (laneMarker lane round 0) 0 f0 f1) s = .next t
        ∧ PortIs s t q { p with skew := [(round, lane, some (f0, f1))] })
    ∧ (∀ f : Flit, up → p.near = [] → f.crc = flitCrc f → f.nak = false → f.idle = false → f.fseq = (p.rxSeq + 1) % 2048 →
        ∃ t, exec (.flit q lane f) s = .next t ∧ takes t f)
    ∧ (∀ f : Flit, up → f.crc ≠ flitCrc f → ∃ t, exec (.flit q lane f) s = .next t ∧ logged s t err
        ∧ WordOut s t q 0 (p.idleFlit true) p.idleFlit ∧ PortIs s t q (sentOn p (t.dev.chip.port q)))
    ∧ (∀ l r m f g, (codeSymbols l r m f g).length = 544 ∧ (flitBytes f).length = 320)
    ∧ (∀ mask, p.carrying = true → mask < 65536 → ∃ t, exec (.lanes q mask) s = .next t ∧ PortIs s t q { p with txNext := some mask })
    ∧ (∀ t0, ∃ t, exec (.portRetire .pf q lane t0) s = .next t ∧ stagedIs t 0xF04 (lane * 256 + 4) t0)
    ∧ (∀ t0, ∃ t, exec (.retrain .pf q t0) s = .next t ∧ stagedIs t 2 2 t0)
    ∧ (∀ t0, ∃ t, exec (.jiliaPortReset .pf q t0) s = .next t ∧ stagedIs t 8 8 t0)
    ∧ (∀ n t0, ∃ t, exec (.retrain (.vf n) q t0) s = .next t ∧ Answers s t [])
    ∧ (∀ node sx sy sz t0, node < 4096 → sx < 16 → sy < 16 → sz < 16 → ∃ t, exec (.nodeWrite .pf node sx sy sz t0) s = .next t
        ∧ t = { s with dev := { s.dev with out := [], staged := s.dev.staged ++
          [⟨F.PCH_NODE_NODE_ID.key, 0x0FFF0FFF, sx * 2 ^ 24 + sy * 2 ^ 20 + sz * 2 ^ 16 + node, c.dueFrame t0, .pf⟩] } })
    ∧ (∀ t1 turn, p.carrying = true → ∃ t, exec (.delayReq q t1 turn) s = .next t ∧ near t 0x42 (leBytes 8 t1 ++ leBytes 4 turn))
    ∧ (∀ t1 turn t4, p.askedAt = some t1 → p.delays = [] → ∃ t, exec (.delayRsp q t1 turn t4) s = .next t
        ∧ PortIs s t q { p with askedAt := none, delays := [(t4 - t1 - turn) / 2], delay := (t4 - t1 - turn) / 2 % 65536 })
    ∧ (∀ t1 turn t4, p.askedAt ≠ some t1 → ∃ t, exec (.delayRsp q t1 turn t4) s = .next t ∧ Answers s t [])
    ∧ (∀ t1, (p.st = 3 ∨ p.st = 4) → p.delays = [] → ∃ t, exec (.delayMeasure q t1) s = .next t ∧ near t 0x41 (leBytes 8 t1)
        ∧ (t.dev.chip.port q).askedAt = some t1)
    ∧ (∀ i down, i < c.torusSize (q % 3) → c.jil.breakDue = [] → bitOf (c.jil.breaks.getD (q % 3) 0) i ≠ down →
        let o := (q + 3) % 6
        let pk := sealed { linkPacket (q % 3) i down with dest := (c.port o).neighbour, src := c.nodeId }
        ∃ t, exec (.linkState q (q % 3) i down) s = .next t ∧ t.dev.chip.jil.breakDue = [(q % 3, i, down)]
        ∧ ((c.port o).takes pk = true → (c.port o).near = [] → .packet o (packetBytes pk) ∈ t.dev.out)
        ∧ ((c.port o).carrying = false → t.dev.out = [] ∧ Leaves s t { c with jil := { c.jil with breakDue := [(q % 3, i, down)] } }))
    ∧ (∀ i down, c.jil.breakDue = [] → bitOf (c.jil.breaks.getD (q % 3) 0) i = down →
        ∃ t, exec (.linkState q (q % 3) i down) s = .next t ∧ Answers s t [])
    ∧ (∀ vc pk, let c' := s.dev.throttle.chip
        let away (t : State) : Prop := (∀ j, (t.dev.chip.port j).inq = if j = q then p.inq.erase pk else (c.port j).inq) ∧ Quiet s t
        c'.head q vc = some pk → typeTc pk.type = some pk.tc → pk.hops < 48 →
        (neighbourType pk.type = false → pk.mcast = false →
          (∀ o y, c'.hop q pk = .out o y → (c.port o).carrying = true → c'.mayGo q o pk { y with hops := pk.hops + 1 } = true →
            c'.outranked o q pk = false → ∃ t, exec (.packetForward q vc) s = .next t ∧ .packet o (packetBytes { y with hops := pk.hops + 1 }) ∈ t.dev.out
            ∧ away t)
          ∧ (∀ o y, c'.hop q pk = .out o y → (c.port o).carrying = true →
              (c'.mayGo q o pk { y with hops := pk.hops + 1 } = false ∨ c'.outranked o q pk = true) → ∃ t, exec (.packetForward q vc) s = .next t
            ∧ t.dev.out = [] ∧ ∀ j, t.dev.chip.port j = c.port j)
          ∧ (∀ o y, c'.hop q pk = .out o y → (c.port o).carrying = false → ∃ t, exec (.packetForward q vc) s = .next t
            ∧ counted s t 1 F.PCH_DEAD_LINK_DROP (portDie o) ∧ away t)
          ∧ (c'.hop q pk = .unreach → ∃ t, exec (.packetForward q vc) s = .next t ∧ counted s t 1 F.PCH_UNREACH (portDie q) ∧ away t))
        ∧ (pk.type = 3 → packetOk pk = true → p.carrying = true → ∃ t, exec (.packetForward q vc) s = .next t
          ∧ (t.dev.chip.port q).txNext = some (leField pk.args 0 2) ∧ away t))
    ∧ (∀ vc pk, s.dev.throttle.chip.head q vc = some pk → (typeTc pk.type ≠ some pk.tc ∨ 48 ≤ pk.hops) →
        ∃ t, exec (.packetForward q vc) s = .next t ∧ counted s t 1 F.PCH_BAD_PKT (portDie q) ∧ Quiet s t)

/-! ## Pairs, messages and requests across the rack -/

/-- A packet that a module takes as windowed traffic: whole, addressed to it, of a windowed type in its class, at a porch die that is up
(R362, R363, R370). -/
def Sys2Proof.Claims.arrives (c : Chip) (p : Packet) (type : Nat) : Prop :=
  p.type = type ∧ packetOk p = true ∧ p.dest = c.nodeId ∧ windowed p = true ∧ typeTc p.type = some p.tc ∧ c.dieUp (homeDie p.src) = true

/-- The packet is the next of its pair, nothing of the pair is held, and no WACK falls due with it (R370, R372). -/
def Sys2Proof.Claims.inOrder (c : Chip) (p : Packet) (x : RPair) : Prop :=
  c.recvPair p.src = some x ∧ p.gen = x.gen ∧ p.num = x.cum ∧ x.cum < 2 ^ 24 ∧ x.got = [] ∧ x.pips = [] ∧ x.owe < 31 ∧ p.pip = false

/-- The packet was accepted (R370). -/
def Sys2Proof.Claims.accepted (s t : State) (p : Packet) (x : RPair) : Prop :=
  t.dev.chip.recvPair p.src = some { x with cum := (x.cum + 1) % 2 ^ 24, owe := x.owe + 1, last := s.dev.chip.frm.time }
    ∧ (∀ j, j ≠ p.src → t.dev.chip.recvPair j = s.dev.chip.recvPair j) ∧ Quiet s t

/-- A packet of this module is on its way, or waits for its pair (R369, R370). -/
def Sys2Proof.Claims.sent (t : State) (ok : Packet → Prop) : Prop := ∃ m, (m ∈ t.dev.chip.jil.inject ∨ m ∈ t.dev.chip.jil.waits) ∧ ok m

/-- The MACK of a multicast packet (R381). -/
def Sys2Proof.Claims.mackSent (t : State) (p : Packet) (k st : Nat) : Prop :=
  sent t fun m => m.type = 0x21 ∧ m.dest = p.src
    ∧ m.args = leBytes 2 p.dest ++ leBytes 2 (mcId p) ++ leBytes 1 k ++ leBytes 1 st ++ List.replicate 6 0

/-- The RSP of a request (R395). -/
def Sys2Proof.Claims.rspSent (t : State) (p : Packet) (status result : Nat) (data : List Byte) : Prop :=
  sent t fun m => m.type = 0x18 ∧ m.dest = p.src
    ∧ m.args = leBytes 1 status ++ leBytes 1 (reqKind p) ++ leBytes 2 (argTag p) ++ leBytes 8 result
    ∧ m.body = leBytes 4 (packetSeq p) ++ leBytes 1 (argRbuf p) ++ List.replicate 3 0 ++ data

/-- Pairs and windows (R369 to R373, R376, R377): a packet in order is accepted, a repeated one is answered with a WACK, one of no pair with a
RESYNC, a damaged one is dropped; a WACK frees what it acknowledges, a timer resends a packet or ends its pair, idle pairs are freed; a stream's
records enter their buffer, a malformed one is dropped and counted; a buffer's first record goes out in the next number of its pair, and in hold
mode waits for its clear. -/
def Obligations.PairsAct : Prop :=
  ∀ (s : State) (p : Packet) (node : Nat), Ready s →
    let c := s.dev.chip
    let posted (t : State) (x : Packet) : Prop := t.dev.chip.jil.inject = c.jil.inject ++ [sealed { x with src := c.nodeId }]
    let die := homeDie node
    (∀ x, arrives c p 0x33 → inOrder c p x → ∃ t, exec (.windowedPacket p) s = .next t ∧ accepted s t p x)
    ∧ (∀ x, arrives c p 0x33 → c.recvPair p.src = some x → p.gen = x.gen → x.has p.num = true → ∃ t, exec (.windowedPacket p) s = .next t
        ∧ (∃ m, posted t m ∧ m.type = 1 ∧ m.dest = p.src ∧ m.args.take 4 = leBytes 4 (x.gen % 256 * 2 ^ 24 + x.cum)) ∧ Quiet s t)
    ∧ (arrives c p 0x33 → c.recvPair p.src = none → p.num ≠ 0 → ∃ t, exec (.windowedPacket p) s = .next t
        ∧ posted t { type := 2, tc := 2, dest := p.src, args := leBytes 1 (p.gen + 1) ++ List.replicate 11 0 } ∧ t.dev.chip.recvPair p.src = none ∧ Quiet s t)
    ∧ (packetOk p = false → ∃ t, exec (.windowedPacket p) s = .next t ∧ Answers s t [])
    ∧ (∀ x, p.type = 1 → packetOk p = true → p.dest = c.nodeId → c.sendPair p.src = some x → x.gen = leField p.args 0 4 / 2 ^ 24 → c.jil.waits = [] →
        let n := leField p.args 0 4 % 2 ^ 24
        ∃ t, exec (.wack p) s = .next t
        ∧ (∃ y, t.dev.chip.sendPair p.src = some y ∧ y.idle = c.frm.time ∧ y.next = x.next ∧ ∀ u ∈ x.un, u.pkt.num < 2 ^ 24 →
            (u ∈ y.un ↔ ¬ (numBelow u.pkt.num n = true ∨ ∃ k, k < 64 ∧ bitOf (leField p.args 4 8) k = true ∧ u.pkt.num = (n + 1 + k) % 2 ^ 24)))
        ∧ Quiet s t)
    ∧ (∀ x, c.recvPair node = some x → 0 < x.owe → ∃ t, exec (.wackTimer node) s = .next t ∧ t.dev.chip.recvPair node = some { x with owe := 0 }
        ∧ (∃ m, posted t m ∧ m.type = 1 ∧ m.dest = node) ∧ Quiet s t)
    ∧ (∀ x, c.recvPair node = some x → x.owe = 0 → ∃ t, exec (.wackTimer node) s = .next t ∧ Answers s t [])
    ∧ (∀ x, p.type = 2 → packetOk p = true → p.dest = c.nodeId → c.sendPair p.src = some x → x.un = [] → c.jil.waits = [] →
        ∃ t, exec (.resync p) s = .next t ∧ t.dev.chip.sendPair p.src = none ∧ Tab.get 0 t.dev.chip.jil.lastGen p.src = leField p.args 0 1
        ∧ logged s t { cls := clsJiliaPair, kind := 15, index := p.src } ∧ Quiet s t)
    ∧ (∀ x u, c.sendPair node = some x → x.un = [u] → u.due ≤ c.endTime → u.sends < c.fld F.PCH_FAB_CTL_RETX_LIMIT →
        ∃ t, exec (.retransmitTimeout node u.pkt.num) s = .next t ∧ t.dev.chip.jil.inject = c.jil.inject ++ [sealed { u.pkt with retx := true }]
        ∧ counted s t 1 F.PCH_RETX die
        ∧ t.dev.chip.sendPair node = some { x with
            mResends := x.mResends + 1, un := [{ u with sends := u.sends + 1, due := c.frm.time + c.rto (u.sends + 1) }] } ∧ Quiet s t)
    ∧ (∀ x u, c.sendPair node = some x → x.un = [u] → u.due ≤ c.endTime → c.fld F.PCH_FAB_CTL_RETX_LIMIT ≤ u.sends → isRequest u.pkt = false →
        c.jil.waits = [] → ∃ t, exec (.retransmitTimeout node u.pkt.num) s = .next t ∧ t.dev.chip.sendPair node = none
        ∧ counted s t 1 F.PCH_WIN_FAILED die ∧ flagged t F.PCH_INT_STATUS_WIN_FAILED die ∧ Quiet s t)
    ∧ (∀ x, c.sendPair node = some x → x.un = [] → c.jil.waits = [] → x.idle + 1000000 ≤ c.endTime → ∃ t, exec (.pairIdleFree node false) s = .next t
        ∧ t.dev.chip.sendPair node = none ∧ (∀ j, j ≠ node → t.dev.chip.sendPair j = c.sendPair j) ∧ Quiet s t)
    ∧ (∀ x, c.recvPair node = some x → x.pips = [] → x.last + 10000000 ≤ c.endTime → ∃ t, exec (.pairIdleFree node true) s = .next t
        ∧ t.dev.chip.recvPair node = none ∧ (∀ j, j ≠ node → t.dev.chip.recvPair j = c.recvPair j) ∧ Quiet s t)
    ∧ (∀ b, b < 1024 → (c.buf b).prev ≠ [] → c.jil.fences = [] →
        let taken := c.nextRecord (bufRoom b) (streamWords (c.buf b).prev)
        (∀ q n rest, taken = some (some (q, n, rest)) → c.nextRecord (bufRoom b) rest = none →
          { c.buf b with prev := [] }.used + n ≤ 65536 → ∃ t, exec (.injectionRecord b) s = .next t
          ∧ t.dev.chip.buf b = { c.buf b with prev := [], recs := (c.buf b).recs ++ [{ frame := frameSub c.frm.cur 2, pkt := q, size := n }] } ∧ Quiet s t)
        ∧ (taken = some none → ∃ t, exec (.injectionRecord b) s = .next t ∧ t.dev.chip.buf b = { c.buf b with prev := [] }
          ∧ counted s t 1 F.PCH_INJ_DROP (b / 512) ∧ flagged t F.PCH_INT_STATUS_INJ_DROP (b / 512) ∧ Quiet s t))
    ∧ (∀ b r rest, b < 1024 → (c.buf b).recs = r :: rest → r.pkt.type = 0x20 → r.pkt.mcast = false → c.speculative (bufRoom b) = false →
        let w := wireLen r.pkt
        (r.clear = true → c.sendPair r.pkt.dest = none → (c.pairsOn (homeDie r.pkt.dest)).length < 2048 →
          c.storeUsed (homeDie r.pkt.dest) + w ≤ 16 * 2 ^ 20 → w ≤ 2 ^ c.fld F.PCH_FAB_CTL_WINDOW * 1024 →
          ∃ t q y, exec (.injectionSend b) s = .next t ∧ t.dev.chip.jil.inject = c.jil.inject ++ [q] ∧ packetOk q = true
          ∧ q.type = 0x20 ∧ q.dest = r.pkt.dest ∧ q.src = c.nodeId ∧ q.args = r.pkt.args ∧ q.body = r.pkt.body ∧ q.num = 0
          ∧ t.dev.chip.sendPair r.pkt.dest = some y ∧ y.next = 1 ∧ y.un.map RTx.pkt = [q] ∧ (t.dev.chip.buf b).recs = rest ∧ Quiet s t)
        ∧ (r.clear = false → ∃ t, exec (.injectionSend b) s = .next t ∧ Answers s t []))

/-- Messages (R379 to R384, R388, R412, R436): a whole message of one segment that its queue admits passes to the queue, any other is denied, and counted with its first segment;
reassembly and held branches expire; a multicast packet is delivered and answered member by member, a member whose die has no memory held in its input; its completion, a management message, a congestion
map, a clear and a retraction act as their rules say, and messages held too long are discarded and counted. -/
def Obligations.MessagesAct : Prop :=
  ∀ (s : State) (p : Packet) (x : RPair), Ready s → s.dev.chip.boot.warm = false →
    let c := s.dev.chip
    let gets (t : State) (q : Nat) (m : Pkt) : Prop := (t.dev.chip.queue q).wait = (c.queue q).wait ++ [m]
      ∧ ∀ j, j ≠ q → t.dev.chip.queue j = c.queue j
    let whole (q : Nat) : Prop := c.queueOn q = true ∧ c.room4 q 0 (cellsOf p.body.length) = true
    let item (data : List Byte) (source : Nat) : Pkt := { data, origin := 2, source, last := c.frm.cur, clear := true, since := c.frm.time, cells := c.que.cellsFor (cellsOf data.length) }
    (arrives c p 0x20 → inOrder c p x → c.msgOk (msgQueue p) p.src (msgTotal p) = true → msgOffset p = 0 → msgTotal p = p.body.length → c.jil.asms = [] →
        p.body.length ≤ 4096 → p.spec = false → packetHusked p = false → whole (msgQueue p) → ∃ t, exec (.msg p) s = .next t
        ∧ gets t (msgQueue p) (item p.body p.src) ∧ accepted s t p x)
    ∧ (arrives c p 0x20 → inOrder c p x → c.msgOk (msgQueue p) p.src (msgTotal p) = false → ∃ t, exec (.msg p) s = .next t ∧ accepted s t p x
        ∧ (msgOffset p = 0 → counted s t 1 F.PCH_MSG_DENY (homeDie p.src) ∧ flagged t F.PCH_INT_STATUS_MSG_DENY (homeDie p.src)))
    ∧ (∀ a, c.jil.asms = [a] → a.since + 1000000 ≤ c.endTime → ∃ t, exec (.reassemblyTimeout a.src a.room a.id a.queue) s = .next t
        ∧ Leaves s t { c with jil := { c.jil with asms := [] } })
    ∧ (∀ a, c.jil.asms = [a] → c.endTime < a.since + 1000000 → ∃ t, exec (.reassemblyTimeout a.src a.room a.id a.queue) s = .next t ∧ Leaves s t c)
    ∧ (∀ k, p.type = 0x20 → p.mcast = true → p.tc = 1 → p.hops < 48 → bitList 64 (mcMask p) = [k] → k < c.groupSize p.dest →
        c.jil.inject = [] →
        ((c.member p.dest k).1 = 1 → ∃ t, exec (.multicastForward 6 p) s = .next t ∧ mackSent t p k 1 ∧ t.dev.chip.que = c.que ∧ Quiet s t)
        ∧ ((c.member p.dest k).1 = 0 → c.mcPort 6 p k = .here → packetOk p = true → c.msgOk (c.member p.dest k).2.1 p.src p.body.length = true →
          4 * 2 ^ 20 < c.asmUsed (homeDie p.src) + p.body.length → c.jil.branches = [] → ∃ t, exec (.multicastForward 6 p) s = .next t
          ∧ t.dev.chip.jil.branches = [(p, k, c.frm.time, 6)] ∧ t.dev.chip.jil.inject = [resealed p (mcCut p [k])] ∧ t.dev.chip.que = c.que ∧ Quiet s t)
        ∧ ((c.member p.dest k).1 = 0 → c.mcPort 6 p k = .here → packetOk p = true → c.msgOk (c.member p.dest k).2.1 p.src p.body.length = true →
          c.jil.asms = [] → p.body.length ≤ 4096 → p.spec = false → packetHusked p = false → whole (c.member p.dest k).2.1 →
          ∃ t, exec (.multicastForward 6 p) s = .next t ∧ gets t (c.member p.dest k).2.1 (item p.body p.src) ∧ mackSent t p k 0 ∧ Quiet s t))
    ∧ (p.type = 0x20 → p.mcast = true → p.tc = 1 → 48 ≤ p.hops → c.jil.inject = [] → ∃ t, exec (.multicastForward 6 p) s = .next t
        ∧ counted s t 1 F.PCH_BAD_PKT (homeDie p.dest) ∧ t.dev.chip.jil.inject = [] ∧ Quiet s t)
    ∧ (∀ k since input, c.jil.branches = [(p, k, since, input)] → since + 4000 ≤ c.endTime → ∃ t, exec (.branchDrop p.src (mcId p) k) s = .next t
        ∧ t.dev.chip.jil.branches = [] ∧ mackSent t p k 2 ∧ counted s t 1 F.QUE_Q_DROPS 0 0 (c.member p.dest k).2.1
        ∧ (input = 6 → p.type = 0x20 → p.mcast = true → c.jil.inject = [p] → bitList 64 (mcMask p) = [k] → p ∉ t.dev.chip.jil.inject) ∧ Quiet s t)
    ∧ (∀ k since input, c.jil.branches = [(p, k, since, input)] → c.endTime < since + 4000 → ∃ t, exec (.branchDrop p.src (mcId p) k) s = .next t ∧ Answers s t [])
    ∧ (∀ g, arrives c p 0x21 → inOrder c p x → c.jil.gathers = [g] → leField p.args 0 2 = g.group → leField p.args 2 2 = g.id → leField p.args 5 1 = 0 →
        ∃ t, exec (.mack p) s = .next t ∧ t.dev.chip.jil.gathers = [{ g with delivered := orBit g.delivered (leField p.args 4 1) }] ∧ accepted s t p x)
    ∧ (∀ g room e, c.jil.gathers = [g] → c.endTime < g.since + 1000000 → (g.delivered ||| g.fenced ||| g.dropped) &&& g.mask = g.mask →
        c.queueDecl g.reply = some (room, e) → room = g.room → e.kind = qFabHost → c.queueOn g.reply = true → c.room4 g.reply 0 1 = true →
        ∃ t, exec (.mcastCompletion g.group g.id) s = .next t ∧ t.dev.chip.jil.gathers = [] ∧ Quiet s t
        ∧ gets t g.reply (item (leBytes 2 g.group ++ leBytes 2 g.id ++ List.replicate 4 0 ++ leBytes 8 g.delivered ++ leBytes 8 g.fenced
            ++ leBytes 8 g.dropped) c.nodeId))
    ∧ (∀ g, c.jil.gathers = [g] → c.endTime < g.since + 1000000 → (g.delivered ||| g.fenced ||| g.dropped) &&& g.mask ≠ g.mask →
        ∃ t, exec (.mcastCompletion g.group g.id) s = .next t ∧ Answers s t [])
    ∧ (arrives c p 0x30 → inOrder c p x → c.fromManager p = true → p.husk = false → ∃ t, exec (.mgmt p) s = .next t ∧ t.dev.out = [.mctp p.body] ∧ accepted s t p x)
    ∧ (arrives c p 0x30 → inOrder c p x → c.fromManager p = false → ∃ t, exec (.mgmt p) s = .next t ∧ t.dev.out = []
        ∧ counted s t 1 F.PCH_MGMT_DENY (homeDie p.src) ∧ accepted s t p x)
    ∧ (arrives c p 0x32 → inOrder c p x → c.fromManager p = true → ∃ t, exec (.cmapReq p) s = .next t
        ∧ sent t (fun m => m.type = 0x33 ∧ m.dest = p.src ∧ m.body = c.jil.cmap) ∧ accepted s t p x)
    ∧ (∀ f, c.frm.cur % 2 ^ c.fld F.PCH_CMAP_CTL_SHIFT = 0 → c.jil.cmapAt ≠ some c.frm.cur → ∃ t, exec (.cmapLatch f) s = .next t
        ∧ t.dev.chip.jil.cmapAt = some c.frm.cur ∧ t.dev.chip.jil.cmap.take 8 = leBytes 6 (frameSub c.frm.cur 1) ++ leBytes 2 c.nodeId
        ∧ Leaves s t { c with jil := t.dev.chip.jil })
    ∧ (∀ f, c.frm.cur % 2 ^ c.fld F.PCH_CMAP_CTL_SHIFT ≠ 0 → ∃ t, exec (.cmapLatch f) s = .next t ∧ Answers s t [])
    ∧ (∀ h, inOrder c p x → c.que.qs = [] → c.jil.psb = [h] → h.pkt.src = p.src → h.pkt.room = leField p.args 0 1 % 16 →
        h.pkt.sframe = leField p.args 2 6 % 65536 →
        (arrives c p 0x43 → ∃ t, exec (.clear p) s = .next t ∧ t.dev.chip.jil.psb = []
          ∧ t.dev.chip.jil.taken = c.jil.taken ++ [{ die := h.die, pkt := { h.pkt with spec := false }, since := c.frm.time, order := c.jil.order }]
          ∧ accepted s t p x)
        ∧ (arrives c p 0x44 → reqKind h.pkt = 2 → ∃ t, exec (.retract p) s = .next t ∧ t.dev.chip.jil.psb = []
          ∧ counted s t 1 F.PCH_PSB_RETRACTED h.die ∧ rspSent t h.pkt rsRetracted 0 [] ∧ t.dev.chip.jil.taken.length ≤ c.jil.taken.length ∧ accepted s t p x))
    ∧ (∀ q m, c.que.qs = [(q, { wait := [m] })] → m.spec = some (p.src, p.room, p.sframe) → m.clear = false → m.since + 40000000 ≤ c.endTime →
        ∃ t, exec (.heldMessageExpiry p.src p.room p.sframe) s = .next t ∧ (t.dev.chip.queue q).wait = []
        ∧ counted s t 1 F.PCH_MSG_LOST (homeDie p.src) ∧ Quiet s t)

/-- Requests (R375, R393 to R403, R408 to R415): a record that may go sends its request and reserves its completion; a fence waits for what it covers; an RSP,
or its failure to come, completes the request; at the target a request is taken or held, checked, refused or turned into cellar records or a key
change for the next threshold; the cellar's answers complete it; time ends it; a porch's flag has the bits of the buffers with 48 KiB free; SET records and window entries are staged or refused. -/
def Obligations.RequestsAct : Prop :=
  ∀ (s : State) (p : Packet) (x : RPair), Ready s →
    let c := s.dev.chip
    (∀ die room u, u < 32 → (bitOf (c.buffersFree die room) u = true ↔ 48 * 1024 + (c.buf (die * 512 + room * 32 + u)).used ≤ 64 * 1024))
    ∧ (∀ b r rest, b < 1024 → (c.buf b).recs = r :: rest → c.speculative (bufRoom b) = false → r.clear = true →
        let rb := rbufOf (bufRoom b) (argRbuf r.pkt)
        let w := wireLen r.pkt
        (r.pkt.type = 0x10 → r.pkt.mcast = false → (c.rbuf rb).used + reserveOf r.pkt ≤ 65536 → c.sendPair r.pkt.dest = none →
          (c.pairsOn (homeDie r.pkt.dest)).length < 2048 → c.storeUsed (homeDie r.pkt.dest) + w ≤ 16 * 2 ^ 20 →
          w ≤ 2 ^ c.fld F.PCH_FAB_CTL_WINDOW * 1024 → ∃ t q, exec (.requestSend b) s = .next t ∧ t.dev.chip.jil.inject = c.jil.inject ++ [q]
          ∧ q.type = 0x10 ∧ q.dest = r.pkt.dest ∧ q.args = r.pkt.args ∧ q.body = r.pkt.body ∧ (t.dev.chip.buf b).recs = rest
          ∧ (t.dev.chip.rbuf rb).reserved = (c.rbuf rb).reserved + reserveOf r.pkt
          ∧ t.dev.chip.jil.reqs = c.jil.reqs ++ [{ room := bufRoom b, rbuf := rb, tag := argTag r.pkt, kind := 1, reserve := reserveOf r.pkt
                                                   node := r.pkt.dest, seq := packetSeq q, epoch := c.jil.epoch, first := c.frm.time, frame := r.frame }]
          ∧ Quiet s t)
        ∧ (∀ q, r.pkt.type = 0x1F → (c.rbuf rb).used + 32 ≤ 65536 → c.jil.fences = [] → q ∈ c.jil.reqs → q.room = bufRoom b →
          coveredBy r.frame q.frame = true → ∃ t, exec (.fence b) s = .next t
          ∧ t.dev.chip.jil.fences = [{ room := bufRoom b, rbuf := rb, tag := argTag r.pkt, frame := r.frame }]
          ∧ (t.dev.chip.buf b).recs = rest ∧ (t.dev.chip.rbuf rb).reserved = (c.rbuf rb).reserved + 32 ∧ Quiet s t))
    ∧ (∀ q, c.jil.reqs = [q] → c.jil.fences = [] →
        let done (t : State) (status result : Nat) (data : List Byte) (husks : Nat) : Prop := t.dev.chip.jil.reqs = []
          ∧ (t.dev.chip.rbuf q.rbuf).recs = (c.rbuf q.rbuf).recs ++ [⟨c.completion q.kind status q.tag q.node result data, husks * 4⟩]
          ∧ (t.dev.chip.rbuf q.rbuf).reserved = (c.rbuf q.rbuf).reserved - q.reserve ∧ Quiet s t
        (p.type = 0x18 → packetOk p = true → q.node = p.src → q.seq = leField p.body 0 4 → q.kind = 1 → leField p.args 0 1 ≠ rsLost → p.husk = false →
          ∃ t, exec (.rsp p) s = .next t ∧ done t (leField p.args 0 1) (leField p.args 4 8) (p.body.drop 8) 0)
        ∧ (q.first + 50000000 ≤ c.endTime → ∃ t, exec (.rspTimeout q.node q.seq) s = .next t ∧ done t rsLost 0 [] 0
          ∧ counted s t 1 F.PCH_OP_LOST (q.rbuf / 512))
        ∧ (c.endTime < q.first + 50000000 → ∃ t, exec (.rspTimeout q.node q.seq) s = .next t ∧ Answers s t []))
    ∧ (p.type = 0x18 → packetOk p = true → c.openReq p.src (leField p.body 0 4) = none → ∃ t, exec (.rsp p) s = .next t ∧ Answers s t [])
    ∧ (arrives c p 0x10 → inOrder c p x → p.spec = false → c.jil.taken = [] → ∃ t, exec (.requestTake p) s = .next t
        ∧ t.dev.chip.jil.taken = [{ die := homeDie p.src, pkt := c.arrived p, since := c.frm.time, order := c.jil.order }] ∧ accepted s t p x)
    ∧ (arrives c p 0x11 → inOrder c p x → p.spec = true → c.psbUsed (homeDie p.src) + heldBytes p ≤ 16 * 2 ^ 20 → ∃ t, exec (.requestTake p) s = .next t
        ∧ t.dev.chip.jil.psb = c.jil.psb ++ [⟨homeDie p.src, c.arrived p, c.frm.time⟩] ∧ t.dev.chip.jil.taken = c.jil.taken ∧ accepted s t p x)
    ∧ (∀ r k, c.jil.taken = [r] → r.checked = false → c.pipReady r.pkt = true → c.checkReq r.pkt = (rsOk, k) →
        let room := c.fld F.PCH_WIN_CFG_ROOM 0 0 k
        let issued (t : State) : Prop := ∃ u ms, t.dev.chip.jil.taken = [u] ∧ u.checked = true ∧ u.pkt = r.pkt ∧ u.room = room ∧ u.waits = ms
          ∧ ms = c.recordsOf r room (c.winBase k) c.jil.tag ∧ t.dev.chip.jil.celq = c.jil.celq ++ ms.map Prod.fst ∧ Leaves s t { c with jil := t.dev.chip.jil }
        let keyed (t : State) : Prop := t.dev.chip.jil.taken = [{ r with checked := true, room, keyDue := c.keyAt k (argOffset r.pkt / 65536) }]
          ∧ Leaves s t { c with jil := t.dev.chip.jil }
        (reqKind r.pkt = 1 → ∃ t, exec (.load r.order) s = .next t ∧ issued t)
        ∧ (reqKind r.pkt = 2 → ∃ t, exec (.store r.order) s = .next t ∧ issued t)
        ∧ (reqKind r.pkt = 4 → argOp r.pkt = 1 → ∃ t, exec (.acquire r.order) s = .next t ∧ keyed t)
        ∧ (reqKind r.pkt = 4 → argOp r.pkt = 2 → ∃ t, exec (.release r.order) s = .next t ∧ keyed t)
        ∧ (reqKind r.pkt = 4 → argOp r.pkt = 3 → ∃ t, exec (.transfer r.order) s = .next t ∧ keyed t))
    ∧ (∀ r, c.jil.taken = [r] → reqKind r.pkt = 2 →
        (r.checked = false → c.pipReady r.pkt = true → c.windowOf (argJob r.pkt) (argWindow r.pkt) = none → r.result = 0 →
          ∃ t, exec (.store r.order) s = .next t ∧ t.dev.chip.jil.taken = [] ∧ rspSent t r.pkt rsNoWindow 0 [] ∧ counted s t 1 F.PCH_TGT_REFUSED r.die ∧ Quiet s t)
        ∧ (r.result = 0 → r.since + 10000000 ≤ c.endTime → ∃ t, exec (.targetTimeout r.order) s = .next t ∧ t.dev.chip.jil.taken = []
          ∧ rspSent t r.pkt rsTimeout 0 [] ∧ counted s t 1 F.PCH_TGT_TIMEOUT r.die ∧ Quiet s t)
        ∧ (c.endTime < r.since + 10000000 → ∃ t, exec (.targetTimeout r.order) s = .next t ∧ Answers s t []))
    ∧ (∀ r m a y, c.jil.taken = [r] → r.checked = true → r.keyDue = none → r.waits = [(m, a)] → y.ep = 20 + r.die → r.die < 2 → m.tag = y.tag →
        r.status = rsOk →
        (reqKind r.pkt = 2 → y.status = celOk → ∃ t, exec (.ack y r.result) s = .next t ∧ t.dev.chip.jil.taken = [] ∧ rspSent t r.pkt rsOk r.result []
          ∧ counted s t 1 F.PCH_TGT_DONE r.die ∧ Quiet s t)
        ∧ (∀ data, reqKind r.pkt = 1 → y.status = celOk → r.data.length = 64 → data.length = 64 → r.husks = 0 →
          a = c.winBase ((c.windowOf (argJob r.pkt) (argWindow r.pkt)).getD 0) + argOffset r.pkt → ∃ t, exec (.data y data) s = .next t
          ∧ t.dev.chip.jil.taken = [] ∧ rspSent t r.pkt rsOk 0 data ∧ counted s t 1 F.PCH_TGT_DONE r.die ∧ Quiet s t)
        ∧ (y.status = celBusy → ∃ t, exec (.ack y 0) s = .next t ∧ Leaves s t { c with jil := { c.jil with celq := c.jil.celq ++ [m] } }))
    ∧ (∀ h, c.jil.psb = [h] → h.since + 40000000 ≤ c.endTime → ∃ t, exec (.psbExpiry h.pkt.src h.pkt.gen h.pkt.num) s = .next t
        ∧ counted s t 1 F.PCH_PSB_EXPIRED h.die ∧ Leaves s t { c with jil := { c.jil with psb := [] } })
    ∧ (∀ room die key node job mode, die < 2 → room < 16 → node < 4096 → job < 65536 → mode < 4 →
        let owner := c.fld F.PCH_WIN_CFG_ROOM 0 0 (c.fld F.PCH_KEY_CFG_WIN 0 0 key)
        (key < 4096 → owner = room → ∃ t, exec (.set room die key node job mode false) s = .next t
          ∧ Leaves s t { c with jil := { c.jil with keySets := c.jil.keySets ++ [⟨nextFrame (nextFrame c.frm.cur), key, node, job, mode⟩] } })
        ∧ (owner ≠ room → ∃ t, exec (.set room die key node job mode false) s = .next t ∧ counted s t 1 F.PCH_KEY_BAD die ∧ Leaves s t c))
    ∧ (∀ k t0 cfg job node base size, k < 4096 →
        let clash (j : Nat) : Prop := j ≠ k ∧ bitOf cfg 31 = true ∧ s.dev.stagedOf F.PCH_WIN_CFG_VALID 0 0 j = 1
          ∧ s.dev.stagedOf F.PCH_WIN_JOB 0 0 j = job % 65536 ∧ s.dev.stagedOf F.PCH_WIN_CFG_WINDOW 0 0 j = cfg % 4096
        ((∀ j, ¬ clash j) → ∃ t, exec (.windowEntryWrite .pf k t0 cfg job node base size) s = .next t
          ∧ t.dev.staged.map Staged.key = s.dev.staged.map Staged.key ++ [F.PCH_WIN_CFG_VALID, F.PCH_WIN_JOB, F.PCH_WIN_NODE_MASK, F.PCH_WIN_BASE_LO,
              F.PCH_WIN_BASE_HI, F.PCH_WIN_SIZE_LO, F.PCH_WIN_SIZE_HI].map (fun f => f.key 0 0 k)
          ∧ t.dev.staged.map Staged.value = s.dev.staged.map Staged.value ++ [cfg &&& 0xF80F0FFF, job &&& 0xFFFF, node &&& 0x0FFF0FFF,
              base % 2 ^ 32 &&& 0xFFFFF000, base / 2 ^ 32 &&& 0xFF, size % 2 ^ 32 &&& 0xFFFFF000, size / 2 ^ 32 &&& 0xFF]
          ∧ t.dev.chip = c ∧ SameMemory s t)
        ∧ ((∃ j, clash j) → ∃ t, exec (.windowEntryWrite .pf k t0 cfg job node base size) s = .next t
          ∧ flagged t F.PCH_INT_STATUS_TGT_CFG ∧ Leaves s t c))
    ∧ (∀ n k t0 cfg job node base size, bitsOf cfg 16 4 ≠ n → n < 16 → ∃ t, exec (.windowEntryWrite (.vf (n + 1)) k t0 cfg job node base size) s = .next t
        ∧ Answers s t [])

/-! ## Integrity, power, temperature and calibration -/

/-- Nothing but what the command staged, sent out or flagged changed. -/
def Sys2Proof.Claims.StagedOne (s t : State) (r : Requester) (t0 key mask value : Nat) : Prop :=
  t = { s with dev := { s.dev with staged := s.dev.staged ++ [⟨key, mask, value, s.dev.chip.dueFrame t0, r⟩], out := [] } }

/-- Integrity and power (R254, R256, R428, R443, R444, R451 to R453, R456, R459, R462 to R469, R488): a cross-check frame runs when it is due and blames both cores of a
pair that differs; the log's consumer pointer moves when it may; ARM and DISARM are staged outside the registers' own staging; the cap, the stagger,
job marks and FORGET are staged or refused; droop, slips and measured frequencies are recorded, and a core below its required frequency is flagged; an
idle cycle takes the lowest level whose prediction fits, 7 where none does; the slew governor keeps a tower's level within RISE and FALL of its power and
holds the rooms whose share grows when their plan would break it, and a measured change above 125 % of either is counted; a checkpoint goes to the older record while M's firmware runs; an idle frame
is inserted when one is due. -/
def Obligations.IntegrityAndPower : Prop :=
  ∀ (s : State) (t0 : Nat), Ready s → s.dev.chip.boot.warm = false →
    let c := s.dev.chip
    let rows := c.freeRows
    let due : Prop := c.fld F.ERR_XCHK_CTL_EN = 1 ∧ 2 ≤ rows.length
      ∧ ∀ f, c.integ.xLast = some f → c.fld F.ERR_XCHK_CTL_PERIOD ≤ frameSub c.frm.cur f
    (due → s.gate.inj.st ≠ .active → ∃ t, exec (.crossCheckFrame []) s = .next t
        ∧ t.dev.chip.integ.xRound = (c.integ.xRound + 1) % 65536 ∧ t.dev.chip.integ.xRows = rows.length ∧ t.dev.chip.integ.xLast = some c.frm.cur
        ∧ t.dev.ev = s.dev.ev ∧ Leaves s t { c with integ := t.dev.chip.integ })
    ∧ (∀ v, let k0 := c.physCore (rows.getD 0 0) 0
        due → s.gate.inj.st ≠ .active → v ≠ 0 → (1 + c.integ.xRound) % rows.length ≠ 0 →
        (∀ i, 0 < i → i < rows.length → c.physCore (rows.getD i 0) 0 ≠ k0) →
        ∃ t, exec (.crossCheckFrame [(k0, v)]) s = .next t ∧ flagged t F.ERR_INT_STATUS_XCHECK
        ∧ ((Tab.get {} t.dev.chip.integ.chans (chanKey 3 k0)).err = true ∨ (Tab.get {} c.integ.chans (chanKey 3 k0)).perm = true) ∧ Quiet s t)
    ∧ (c.fld F.ERR_XCHK_CTL_EN = 0 → ∃ t, exec (.crossCheckFrame []) s = .next t ∧ Answers s t [])
    ∧ (∀ v, v < 2 ^ 32 → (c.integ.prod + 2 ^ 32 - v) % 2 ^ 32 ≤ 1024 → ∃ t, exec (.logConsume .pf v) s = .next t
        ∧ Leaves s t { c with integ := { c.integ with cons := v } })
    ∧ (∀ v, v < 2 ^ 32 → 1024 < (c.integ.prod + 2 ^ 32 - v) % 2 ^ 32 → ∃ t, exec (.logConsume .pf v) s = .next t ∧ Answers s t [])
    ∧ (∃ t, exec (.injArm .pf t0) s = .next t ∧ t = { s with
        gate := { s.gate with injStaged := s.gate.injStaged ++ [(true, c.dueFrame t0)] }, dev := { s.dev with out := [] } })
    ∧ (∃ t, exec (.injDisarm .pf t0) s = .next t ∧ t = { s with
        gate := { s.gate with injStaged := s.gate.injStaged ++ [(false, c.dueFrame t0)] }, dev := { s.dev with out := [] } })
    ∧ (∀ n, exec (.injArm (.vf n) t0) s = .next s)
    ∧ (∃ t, exec (.forget .pf t0) s = .next t ∧ StagedOne s t .pf t0 F.PWR_LEDGER_CTL_FORGET.key F.PWR_LEDGER_CTL_FORGET.mask F.PWR_LEDGER_CTL_FORGET.mask)
    ∧ (∀ w, 650 ≤ w → w ≤ 1500 → ∃ t, exec (.capWrite .pf t0 w) s = .next t
        ∧ StagedOne s t .pf t0 F.PWR_CAP_CAP_W.key F.PWR_CAP_CAP_W.mask (w % 2 ^ F.PWR_CAP_CAP_W.w * 2 ^ F.PWR_CAP_CAP_W.lo))
    ∧ (∀ w, w < 650 ∨ 1500 < w → ∃ t, exec (.capWrite .pf t0 w) s = .next t ∧ flagged t F.PWR_INT_STATUS_BAD_WRITE ∧ Leaves s t c)
    ∧ (∀ always waves cycles, waves < 32 → cycles < 256 → ∃ t, exec (.staggerWrite .pf t0 always waves cycles) s = .next t
        ∧ StagedOne s t .pf t0 F.PWR_STAGGER_ALWAYS.key 0x801F00FF (b2n always * 2 ^ 31 + waves * 2 ^ 16 + cycles))
    ∧ (∀ r room, roomWriter r room = true → ∃ t, exec (.jobMark r room t0) s = .next t
        ∧ StagedOne s t r t0 (F.PWR_ROOM_CTL_JOB_MARK.key room) F.PWR_ROOM_CTL_JOB_MARK.mask F.PWR_ROOM_CTL_JOB_MARK.mask)
    ∧ (∀ row lost, row < 128 → ∃ t, exec (.droop row lost) s = .next t ∧ counted s t 1 F.PWR_STRETCHES
        ∧ (Tab.get {} t.dev.chip.pwr.rows row).loss = satAdd 8 (Tab.get {} c.pwr.rows row).loss lost
        ∧ (∀ j, t.dev.chip.freq j = c.freq j) ∧ Leaves s t { c with pwr := t.dev.chip.pwr })
    ∧ (∀ row sends, row < 128 → ∃ t, exec (.crossingSlip row sends []) s = .next t ∧ counted s t 1 F.PWR_SLIPS
        ∧ t.dev.chip.hall.slipped = c.hall.slipped ++ sends ∧ logged s t { cls := clsSlip, kind := 2, index := row }
        ∧ t.dev.chip.tow = c.tow ∧ Quiet s t)
    ∧ (∀ core measured, core < 4096 → core % 32 < 17 → measured < 256 →
        (∀ r, (c.row (core / 32)).room = some r → (c.room r).hold = true ∨ c.frm.idle = true) →
        ∃ t, exec (.fmaxMeasure core measured) s = .next t ∧ Leaves s t { c with tow := { c.tow with
          fmaxDue := (c.tow.fmaxDue.filter fun p => p.1 ≠ core) ++ [(core, min (Tab.get 220 s.dev.calFlash.fmax core) measured)] } })
    ∧ (∀ core measured r, (c.row (core / 32)).room = some r → (c.room r).hold = false → c.frm.idle = false →
        ∃ t, exec (.fmaxMeasure core measured) s = .next t ∧ Answers s t [])
    ∧ (∀ core x, c.tow.pos = [(core, x)] → x.st = 0 → x.fmax < c.freqReq (core / 32) →
        core ∈ (List.range 16).map (c.physCore (core / 32)) → flagged { s with dev := s.dev.fmaxFences } F.PWR_INT_STATUS_FMAX_DROP)
    ∧ (∀ nj ns mean, nextFrame c.frm.cur % 64 = 0 → c.pwr.kNext = none →
        let rs := c.rowPlans c.freqReq (((s.dev.lookAhead c.frm.cur (!c.frm.idle) 1).head?.map Prod.snd).getD [])
        (∀ k, k < 8 → s.dev.levelFits rs 7 = true → c.pwr.idleK = 0 → c.pwr.capUn = false → s.dev.levelFits rs k = true →
          (∀ j, j < k → s.dev.levelFits rs j = false) → ∃ t, exec (.idleCycleStart nj ns mean) s = .next t ∧ t.dev.chip.pwr.kNext = some (k, false)
          ∧ Leaves s t { c with pwr := t.dev.chip.pwr })
        ∧ (s.dev.levelFits rs 7 = false ∨ c.pwr.idleK = 7 ∧ c.pwr.aboveAll = true ∧ c.overBy mean = true
            ∨ c.pwr.capUn = true ∧ c.limit * (c.pwr.cycleNs + ns) < c.pwr.cycleNj + nj →
          ∃ t, exec (.idleCycleStart nj ns mean) s = .next t ∧ t.dev.chip.pwr.kNext = some (7, true) ∧ Leaves s t { c with pwr := t.dev.chip.pwr }))
    ∧ (∀ (plan : List (Nat × Nat × Nat)) ahead k x, Tab.find c.pwr.towers k = some x →
        let g := c.governTower plan ahead k
        let rise := 10 * c.fld F.HALL_SLEW_RISE
        g.level ≤ x.power + rise ∧ x.power ≤ g.level + 10 * c.fld F.HALL_SLEW_FALL ∧ (planOn plan k ≤ x.power + rise → planOn plan k ≤ g.level)
          ∧ ∀ r, r ∈ g.held ↔ r < 16 ∧ x.power + rise < planOn plan k ∧ shareOn c.pwr.plan k r < shareOn plan k r)
    ∧ (∀ k x new, Tab.find c.pwr.towers k = some x →
        let exceeds : Prop := 125 * c.fld F.HALL_SLEW_RISE < 10 * (new - x.power) ∨ 125 * c.fld F.HALL_SLEW_FALL < 10 * (x.power - new)
        (exceeds → counted s { s with dev := s.dev.slewCheck (k, new) } 1 F.HALL_SLEW_EXCEED) ∧ (¬ exceeds → s.dev.slewCheck (k, new) = s.dev))
    ∧ (∀ nj ns mean, nextFrame c.frm.cur % 64 ≠ 0 → ∃ t, exec (.idleCycleStart nj ns mean) s = .next t ∧ Answers s t [])
    ∧ (c.mRuns = true → c.frm.cur % 2 ^ 28 = 0 → s.dev.calFlash.eng0 = none → s.dev.calFlash.eng1 = none → ∃ t, exec .energyCheckpoint s = .next t
        ∧ t = { s with dev := { s.dev with out := [], calFlash := { s.dev.calFlash with eng0 := some (0, c.lifeEnergy, c.lifeTime) } } })
    ∧ (c.mRuns = false ∨ c.frm.cur % 2 ^ 28 ≠ 0 → ∃ t, exec .energyCheckpoint s = .next t ∧ Answers s t [])
    ∧ (c.insertDue = true → ∃ t, exec .idleInsert s = .next t ∧ counted s t 1 F.CAL_IDLE_INSERTED
        ∧ Leaves s t { c with cal := { c.cal with insert := true, insertedAt := some (nextFrame c.frm.cur) } })
    ∧ (c.insertDue = false → ∃ t, exec .idleInsert s = .next t ∧ Answers s t [])

/-- Temperature and calibration (R472, R473, R478 to R482, R486, R489 to R491, R493, R501): samples are kept, one out of range or a failed check makes the
sensor fail; implausible and plausible frames make it SUSPECT and OK; a trip stops the device and later ones are counted only; the coolant sets the
rating; runs start and are judged, and their records go to flash or are retried. Memory stays. -/
def Obligations.ThermalAndCalibration : Prop :=
  ∀ (s : State) (k kind unit : Nat), Ready s →
    let c := s.dev.chip
    let x := c.sensor k
    let sensorIs (t : State) (y : Sensor) : Prop := t.dev.chip.sensor k = y ∧ (∀ j, j ≠ k → t.dev.chip.sensor j = c.sensor j) ∧ Quiet s t
    let known : Prop := (sensorClass k).isSome = true ∧ x.st < 2 ∧ x.failing = false
    let fails (t : State) : Prop := flagged t F.THM_INT_STATUS_SENSOR_FAILED ∧ logged s t { cls := clsThermal, kind := 14, index := k }
    (∀ v t0, known → -160 ≤ v → v ≤ 600 → ∃ t, exec (.sensorSample k v t0) s = .next t ∧ sensorIs t { x with
        last := v, samples := (x.samples.filter fun y => decide (c.frm.time + t0 < y.1 + 1000000)) ++ [(c.frm.time + t0, v)] })
    ∧ (∀ v t0, known → 600 < v → ∃ t, exec (.sensorSample k v t0) s = .next t ∧ (t.dev.chip.sensor k).failing = true
        ∧ (t.dev.chip.sensor k).last = v ∧ fails t ∧ Quiet s t)
    ∧ (∀ openShort, known → ∃ t, exec (.sensorFailed k openShort) s = .next t ∧ sensorIs t { x with failing := true, openShort } ∧ fails t)
    ∧ (buried k = true → x.st = 0 → 7 ≤ x.low → ∃ t, exec (.suspect k) s = .next t ∧ sensorIs t { x with st := 1, fine := 0 }
        ∧ flagged t F.THM_INT_STATUS_SUSPECT)
    ∧ (buried k = true → x.st = 0 → x.low < 7 → ∃ t, exec (.suspect k) s = .next t ∧ Answers s t [])
    ∧ (buried k = true → x.st = 1 → 1023 ≤ x.fine → ∃ t, exec (.sensorOk k) s = .next t ∧ sensorIs t { x with st := 0, fine := 0, low := 0 })
    ∧ (sensorClass k = some .compute → (x.st = 2 → x.openShort = false) → c.thm.tripped = false → ∃ t, exec (.thermalTrip k) s = .next t
        ∧ t.dev.chip.thm.tripped = true ∧ t.dev.chip.thm.tripSensor = k ∧ t.dev.chip.thm.tripTemp = x.last ∧ t.dev.chip.thm.tripFrame = c.frm.cur
        ∧ t.dev.chip.thm.trips = satAdd 32 c.thm.trips 1 ∧ t.dev.chip.pins.thermTrip = true ∧ t.dev.chip.pins.pwrGood = false
        ∧ (∀ b, b < 20 → (t.dev.chip.block b).st = .off) ∧ (∀ q, q < 6 → (c.port q).st ≠ 0 → (t.dev.chip.port q).st = 1)
        ∧ (∀ q, q < 6 → (t.dev.chip.port q).carrying = true → (c.port q).st = 0) ∧ Quiet s t)
    ∧ (sensorClass k = some .compute → (x.st = 2 → x.openShort = false) → c.thm.tripped = true → ∃ t, exec (.thermalTrip k) s = .next t
        ∧ Leaves s t { c with thm := { c.thm with trips := satAdd 32 c.thm.trips 1 } })
    ∧ (∀ (inlet outlet : Int) (p : Nat), c.thm.cool.reversed = false → c.thm.cool.hot = false → -4 ≤ outlet - inlet →
        ∃ t, exec (.coolantCheck inlet outlet p) s = .next t ∧ t.dev.chip.thm.cool.reversed = false
        ∧ t.dev.chip.thm.cool.rating = (if inlet ≤ 180 then 1500 else max 650 (1500 - 15 * (inlet - 180).toNat))
        ∧ (208 < inlet → t.dev.chip.thm.cool.hot = true ∧ flagged t F.THM_INT_STATUS_COOLANT_HOT) ∧ (inlet ≤ 208 → t.dev.chip.thm.cool.hot = false)
        ∧ (600 ≤ p → inlet < outlet → c.fld F.THM_CTL_FLUID = 0 → t.dev.chip.thm.cool.flow = 24000 * p / (4170 * (outlet - inlet).toNat))
        ∧ Leaves s t { c with thm := { c.thm with cool := t.dev.chip.thm.cool } })
    ∧ (1 ≤ kind → kind < 8 → unit < calUnits kind → kind ≠ 5 →
        let u := c.calUnit kind unit
        let unitIs (t : State) (y : CalUnit) : Prop := t.dev.chip.calUnit kind unit = y
          ∧ (∀ j, j ≠ calKey kind unit → Tab.get {} t.dev.chip.cal.units j = Tab.get {} c.cal.units j)
        (c.thm.tripped = false → ∃ t, exec (.run kind unit .event) s = .next t ∧ unitIs t { u with running := true } ∧ Quiet s t)
        ∧ (c.calTriggered kind unit = false → ∃ t, exec (.run kind unit .temperature) s = .next t ∧ Answers s t [])
        ∧ (∀ t0, ∃ t, exec (.run kind unit (.write .pf t0)) s = .next t
          ∧ StagedOne s t .pf t0 F.CAL_CTL_RUN.key F.CAL_CTL_RUN.mask (2 ^ (kind - 1) * 2 ^ 16))
        ∧ (∀ values temp left, u.running = true → c.thm.tripped = false → u.goal = none →
            (calPlausible kind (if u.source = 3 then 2 else 1) u.base (u.newSet kind values) = true → ∃ t, exec (.calRunDone kind unit values temp true left) s = .next t
              ∧ unitIs t { u with running := false, ran := true, temp, goal := some (u.newSet kind values), due := c.actsAt left } ∧ counted s t 1 F.CAL_RUNS ∧ Quiet s t)
            ∧ (∃ t, exec (.calRunDone kind unit values temp false left) s = .next t
              ∧ unitIs t { u with running := false, ran := true, temp, rejects := satAdd 10 u.rejects 1 } ∧ counted s t 1 F.CAL_REJECTS
              ∧ flagged t F.CAL_INT_STATUS_IMPLAUSIBLE ∧ Quiet s t))
        ∧ (u.record = true → s.dev.calFlash.copy kind unit 0 = none → s.dev.calFlash.copy kind unit 1 = none →
            let written (t : State) : Prop := t.dev.calFlash.copy kind unit 0
                = some { seq := 1, temp := u.temp, fw := c.sec.version, frame := u.frame % 2 ^ 32, body := u.cur }
              ∧ unitIs t { u with record := false } ∧ SameMemory s t ∧ t.gate = s.gate ∧ t.pending = s.pending ∧ t.dev.flash = s.dev.flash
            (c.mRuns = true → ∃ t, exec (.calRecordWrite kind unit true) s = .next t ∧ written t)
            ∧ (c.mRuns = true → ∃ t, exec (.calRecordWrite kind unit false) s = .next t ∧ calKey kind unit ∈ t.dev.chip.cal.retry
              ∧ flagged t F.CAL_INT_STATUS_FLASH_ERR ∧ unitIs t u ∧ Quiet s t)
            ∧ (c.mRuns = true → c.cal.retry = [calKey kind unit] → ∃ t, exec (.flashWriteRetry true) s = .next t ∧ t.dev.chip.cal.retry = [] ∧ written t)
            ∧ (c.mRuns = true → c.cal.retry = [calKey kind unit] → ∃ t, exec (.flashWriteRetry false) s = .next t ∧ flagged t F.CAL_INT_STATUS_FLASH_ERR ∧ Leaves s t c))
        ∧ (u.record = false ∨ c.mRuns = false → ∃ t, exec (.calRecordWrite kind unit true) s = .next t ∧ Answers s t []))

/-! ## The host -/

/-- Who is reset with a PCIe event: every function, or the VF `n` alone; what that leaves of the views, the MSI-X tables, the queues, the load
and the configuration, and that the rooms, the blocks, the cellar and every packet of another function's queues stay (R533). -/
def Sys2Proof.Claims.FunctionsReset (s t : State) (p : Nat → Bool) : Prop :=
  let c := s.dev.chip
  (∀ v, v ∈ t.dev.views ↔ v ∈ s.dev.views ∧ p v.1 = false)
    ∧ (∀ k, p (k / 65536) = true → Tab.find t.dev.msix k = none)
    ∧ (∀ k, p (k / 65536) = false → Tab.find t.dev.msix k = Tab.find s.dev.msix k)
    ∧ (∀ q x, c.que.qs = [(q, x)] → t.dev.chip.queueOn q = (c.queueOn q && !p x.fn))
    ∧ (∀ q x, c.que.qs = [(q, x)] → c.queueOn q = true → p x.fn = true → x.building = none →
        (t.dev.chip.queue q).pkts = [] ∧ (t.dev.chip.queue q).wait = [])
    ∧ (∀ l, c.bit.load = some l → p l.owner = true → c.bit.eng ≠ .accepted →
        t.dev.chip.bit.load = none ∧ t.dev.chip.bit.eng = .idle ∧ flagged t F.BIT_INT_STATUS_FAILED)
    ∧ (∀ l, c.bit.load = some l → p l.owner = false ∨ c.bit.eng = .accepted → t.dev.chip.bit.load = some l)
    ∧ (∀ k, k < 17 → p k = true → bitOf t.dev.chip.host.ats k = false ∧ bitOf t.dev.chip.host.d3 k = false)
    ∧ t.dev.chip.rooms = c.rooms ∧ t.dev.chip.blocks = c.blocks ∧ t.dev.chip.tow.cores = c.tow.cores ∧ t.dev.chip.cel = c.cel
    ∧ t.dev.chip.hall = c.hall ∧ t.dev.chip.jil = c.jil
    ∧ SameMemory s t ∧ t.gate = s.gate ∧ t.pending = s.pending ∧ t.dev.flash = s.dev.flash ∧ t.dev.staged = s.dev.staged

/-- The host's side (R532 to R534, R537, R538, R542, R543, R506): link loss, the resets of the PF and of a VF; the link comes up; a configuration write
is kept; a BAR 2 access of one line goes out as a record, is refused where nothing backs it, completes with the cellar's answer and ends after 8 ms; a
failed DMA disables its queue at the next threshold, ends a load or stalls a snapshot; an invalidation completes once no read is under way. The codes of a
DMA completion's user and the EID in MCTP control answers are the model's (logs 104 and 102). -/
def Obligations.HostPorts : Prop :=
  ∀ (s : State) (fn addr len : Nat), Ready s →
    let c := s.dev.chip
    let h := c.host
    let fresh (t : State) : Prop := t.dev.chip.host.vfEnable = false ∧ t.dev.chip.host.numVFs = 0 ∧ t.dev.chip.host.bar2 = 30
      ∧ t.dev.chip.host.vfBar2 = 30 ∧ t.dev.chip.sec.secure = 0 ∧ t.dev.chip.sec.insecure = 0
    (∃ t, exec .linkDown s = .next t ∧ FunctionsReset s t (fun k => decide (k ≤ 16)) ∧ fresh t ∧ t.dev.chip.boot.pcie = false)
    ∧ (∃ t, exec .pfFlr s = .next t ∧ FunctionsReset s t (fun k => decide (k ≤ 16)) ∧ fresh t ∧ t.dev.chip.boot.pcie = c.boot.pcie)
    ∧ (1 ≤ fn → fn ≤ 16 → ∃ t, exec (.vfFlr fn) s = .next t ∧ FunctionsReset s t (fun k => decide (k = fn)) ∧ t.dev.chip.host.vfEnable = h.vfEnable
        ∧ t.dev.chip.host.numVFs = h.numVFs ∧ t.dev.chip.boot = c.boot)
    ∧ (fn = 0 ∨ 16 < fn → ∃ t, exec (.vfFlr fn) s = .next t ∧ Answers s t [])
    ∧ (∃ t, exec .pcieLinkUp s = .next t ∧ Leaves s t { c with boot := { c.boot with pcie := true } })
    ∧ (∀ n d3 ats b v, c.boot.pcie = true → n ≤ 16 → d3 < 2 ^ 17 → ats < 2 ^ 17 → 30 ≤ b → b ≤ 40 → 30 ≤ v → v ≤ 40 →
        ∃ t, exec (.vfEnable true n d3 ats b v) s = .next t
        ∧ Leaves s t { c with host := { h with vfEnable := true, numVFs := n, d3, ats, bar2 := b, vfBar2 := v } })
    ∧ (∀ sl a, c.fnUp fn = true → c.hostMap fn (64 * (addr / 64)) = some (sl, a) → addr % 64 + len ≤ 64 → 0 < len →
        let room := if fn = 0 then (c.sliceRoom sl).getD 0 else fn - 1
        let took (t : State) (m : CelMsg) (write : Bool) : Prop :=
          t.dev.chip.host.accs = h.accs ++ [{ id := h.order, fn, write, addr, len, recs := [(m, none)], since := c.frm.time }]
          ∧ m.die = 2 ∧ m.stack = sl / 64 ∧ m.slice = sl % 64 ∧ m.line = a / 64 ∧ m.room = room ∧ m.pf = decide (fn = 0) ∧ m.tag = h.tag % 65536
          ∧ ((c.sliceRoom sl).isSome = true → t.dev.chip.jil.celq = c.jil.celq ++ [m] ∧ t.dev.out = [])
          ∧ ((c.sliceRoom sl).isSome = false → t.dev.chip.jil.celq = c.jil.celq ∧ t.dev.out = [.record (8 + sl / 64) m.payload]) ∧ Quiet s t
        (∃ t m, exec (.bar2Read fn addr len) s = .next t ∧ took t m false ∧ m.kind = 1)
        ∧ (∀ bytes, bytes.length = len → ∃ t m, exec (.bar2Write fn addr bytes false) s = .next t ∧ took t m true ∧ m.kind = 2
            ∧ ∀ k, k < 64 → (bitOf m.enables k = true ↔ addr % 64 ≤ k ∧ k < addr % 64 + len)
                ∧ (bitOf m.enables k = true → m.data[k]? = bytes[k - addr % 64]?)))
    ∧ (∀ bytes, c.fnUp fn = true → c.hostMap fn (64 * (addr / 64)) = none → addr % 64 + len ≤ 64 → 0 < len → bytes.length = len →
        (∃ t, exec (.bar2Read fn addr len) s = .next t ∧ Answers s t [.completion 1 false []])
        ∧ ∃ t, exec (.bar2Write fn addr bytes false) s = .next t ∧ bitOf (Tab.get 0 t.dev.chip.host.aer fn) 0 = true
          ∧ Leaves s t { c with host := { h with aer := t.dev.chip.host.aer } })
    ∧ (∀ bytes, c.fnUp fn = true → bytes ≠ [] → ∃ t, exec (.bar2Write fn addr bytes true) s = .next t
        ∧ bitOf (Tab.get 0 t.dev.chip.host.aer fn) 2 = true ∧ Leaves s t { c with host := { h with aer := t.dev.chip.host.aer } })
    ∧ (c.fnUp fn = false → ∃ t, exec (.bar2Read fn addr len) s = .next t ∧ Answers s t [])
    ∧ (∀ a m x, h.accs = [a] → a.recs = [(m, none)] → x.ep = 22 → x.tag = m.tag →
        let ended (t : State) : Prop := t.dev.chip.host.accs = [] ∧ t.dev.chip.jil = c.jil ∧ Quiet s t
        (∀ data, x.status = celOk → a.write = false → a.addr % 64 + a.len ≤ 64 → data.length = 64 → ∃ t, exec (.data x data) s = .next t ∧ ended t
          ∧ t.dev.out = [.completion 0 false ((data.drop (a.addr % 64)).take a.len)])
        ∧ (∀ data, x.status = celHusk → a.write = false → ∃ t, exec (.data x data) s = .next t ∧ ended t
            ∧ ∃ l, t.dev.out = [.completion 0 true l])
        ∧ (x.status = celOk → a.write = true → ∃ t, exec (.ack x 0) s = .next t ∧ Leaves s t { c with host := { h with accs := [] } })
        ∧ (x.status = celRange → a.write = true → ∃ t, exec (.ack x 0) s = .next t ∧ ended t ∧ bitOf (Tab.get 0 t.dev.chip.host.aer a.fn) 0 = true)
        ∧ (x.status = celBusy → (c.sliceRoom (m.stack * 64 + m.slice)).isSome = true → ∃ t, exec (.ack x 0) s = .next t
            ∧ Leaves s t { c with jil := { c.jil with celq := c.jil.celq ++ [m] } }))
    ∧ (∀ a, h.accs = [a] → a.since + 8000000 ≤ c.endTime →
        (a.write = false → ∃ t, exec (.bar2Timeout a.id) s = .next t ∧ t.dev.out = [.completion 4 false []] ∧ t.dev.chip.host.accs = [] ∧ Quiet s t)
        ∧ (a.write = true → ∃ t, exec (.bar2Timeout a.id) s = .next t ∧ t.dev.out = [] ∧ bitOf (Tab.get 0 t.dev.chip.host.aer a.fn) 1 = true
          ∧ t.dev.chip.host.accs = [] ∧ Quiet s t))
    ∧ (∀ a, h.accs = [a] → c.endTime < a.since + 8000000 → ∃ t, exec (.bar2Timeout a.id) s = .next t ∧ Answers s t [])
    ∧ (∀ q entry data, c.queueOn q = true → ∃ t, exec (.dmaCompletion 1 q 2 entry data) s = .next t
        ∧ t = { s with dev := { s.dev with out := []
                                           staged := s.dev.staged ++ [⟨F.QUE_Q_CFG_EN.key 0 0 q, 2 ^ 31, 0, nextFrame c.frm.cur, .pf⟩] } })
    ∧ (∀ q entry data, exec (.dmaCompletion 0 q 0 entry data) s = exec (.submissionRead q 0 entry data) s)
    ∧ (∀ q entry data, c.snap.st = .collecting → c.boot.warm = false → ∃ t, exec (.dmaCompletion 2 q 1 entry data) s = .next t
        ∧ Leaves s t { c with snap := { c.snap with st := .stalled, tooSmall := false } })
    ∧ (∀ l q entry data, c.bit.load = some l → c.bit.eng = .reading → ∃ t, exec (.dmaCompletion 3 q 1 entry data) s = .next t
        ∧ t.dev.chip.bit.load = none ∧ t.dev.chip.bit.eng = .idle ∧ (Tab.get {} t.dev.chip.bit.res l.owner).status = stReadErr
        ∧ flagged t F.BIT_INT_STATUS_FAILED ∧ Quiet s t)
    ∧ (∀ l n entry data, c.bit.load = some l → c.bit.eng = .reading → l.len ≤ n * 2 ^ 20 → ∃ t, exec (.dmaCompletion 3 n 0 entry data) s = .next t
        ∧ Leaves s t { c with bit := { c.bit with eng := .validating, progress := l.len / 2 ^ 20 } })
    ∧ (∀ tag, c.fnUp fn = true → bitOf h.ats fn = true → h.inval = [] →
        (c.readsUnderWay fn = false → ∃ t, exec (.atsInvalidate fn tag) s = .next t ∧ t.dev.out = [.invalDone fn tag] ∧ Leaves s t c)
        ∧ (c.readsUnderWay fn = true → ∃ t, exec (.atsInvalidate fn tag) s = .next t ∧ t.dev.out = []
          ∧ Leaves s t { c with host := { h with inval := [(fn, tag)] } }))
    ∧ (∀ eid, ∃ t, exec (.mctpControl 1 eid) s = .next t ∧ t.dev.out = [.answer 1 0 (leBytes 1 (eid % 256))]
        ∧ Leaves s t { c with host := { h with eid := eid % 256 } })
    ∧ (∀ eid, ∃ t, exec (.mctpControl 2 eid) s = .next t ∧ Answers s t [.answer 2 0 (leBytes 1 h.eid)])

/-! ## Firmware, owner, reports -/

/-- The command changed nothing but the security engine, the security part of the flash, the load engine's view of them, what was flagged or logged,
and sent the one answer. -/
def Sys2Proof.Claims.Answered (s t : State) (tag status : Nat) (bytes : List Byte) (f : SecFlash) : Prop :=
  t.dev.out = [.answer (tag % 256) status bytes] ∧ t.dev.flash = f ∧ SameMemory s t ∧ t.gate = s.gate ∧ t.pending = s.pending
    ∧ t.dev.pub = s.dev.pub ∧ t.dev.staged = s.dev.staged ∧ t.dev.views = s.dev.views

/-- A command is answered with a status other than OK and changes nothing. -/
def Sys2Proof.Claims.Refused (s : State) (i : Instr) (tag status : Nat) : Prop :=
  ∃ t, exec i s = .next t ∧ Answers s t [.answer (tag % 256) status []]

/-- The security engine (R543 to R545, R548 to R556): while M's firmware does not run every command but those of recovery mode is NOT_READY; a transport
that a command does not list, or a register that it may not write, is DENIED; identity and state are answered; a report is signed with a leaf that is
used once and was reserved before, or refused with NO_COUNTER, EXHAUSTED or RATE; firmware is written to the other slot and activated once it verifies,
the fused minimum is raised; the owner key is enrolled, transferred and removed; a stream's keys are programmed, and its failure makes it insecure; the
vendor's commands act under the vendor's key. The order of GET_REPORT's refusals is the model's (log 99). -/
def Obligations.SecurityActs : Prop :=
  ∀ (s : State) (via : Requester) (tag : Nat), Ready s → s.dev.chip.boot.warm = false → via = .pf ∨ via = .smbus ∨ via = .fabric →
    let c := s.dev.chip
    let x := c.sec
    let f := s.dev.flash
    let b := !x.runB
    let local' : Prop := via = .pf ∨ via = .smbus
    let runs' : Prop := c.boot.recovery = false ∧ c.boot.mfw = true
    let sec (t : State) : Sec := t.dev.chip.sec
    (∀ a v n t0 off key sig nonce data ok, c.boot.recovery = false → c.boot.mfw = false →
        ∀ i ∈ [Instr.getInfo via tag, .readReg via tag a n, .writeReg via tag t0 a v, .getIdentity via tag, .getReport via tag nonce ok,
          .fwWrite via tag off data ok, .fwActivate via tag ok, .fwCommitSvn via tag, .ownerEnrol via tag key ok, .ownerTransfer via tag key sig ok],
        Refused s i tag vsNotReady)
    ∧ (∀ a n nonce key sig ok, c.boot.recovery = true → local' →
        Refused s (.readReg via tag a n) tag vsNotReady ∧ Refused s (.getIdentity via tag) tag vsNotReady ∧ Refused s (.getReport via tag nonce ok) tag vsNotReady
        ∧ Refused s (.ownerEnrol via tag key ok) tag vsNotReady ∧ Refused s (.ownerTransfer via tag key sig ok) tag vsNotReady
        ∧ Refused s (.fwCommitSvn via tag) tag vsBusy)
    ∧ (∀ off data key sig ok, runs' → via = .fabric → ∀ i ∈ [Instr.fwWrite via tag off data ok, .fwActivate via tag ok, .fwCommitSvn via tag,
          .ownerEnrol via tag key ok, .ownerTransfer via tag key sig ok], Refused s i tag vsDenied)
    ∧ (runs' ∨ c.boot.recovery = true ∧ local' → ∃ t, exec (.getInfo via tag) s = .next t ∧ Answers s t [.answer (tag % 256) 0
        (f.serial16 ++ leBytes 2 0x0108 ++ leBytes 2 0 ++ leBytes 2 x.version ++ leBytes 2 x.svn ++ leBytes 1 (b2n x.runB) ++ leBytes 7 0)])
    ∧ (runs' → ∃ t, exec (.getIdentity via tag) s = .next t
        ∧ Answers s t [.answer (tag % 256) 0 (padTo 56 0 f.pubKey ++ leBytes 2 f.cert.length ++ f.cert)])
    ∧ (∀ a n, runs' → (n = 0 ∨ 16 < n → Refused s (.readReg via tag a n) tag vsBadReq)
        ∧ (a % 4 = 0 → ∃ t, exec (.readReg via tag a 1) s = .next t
          ∧ t.dev.out = [.answer (tag % 256) 0 (leBytes 4 (({ s.dev with out := [] } : Dev).readWord s.gate via a))]
          ∧ SameMemory s t ∧ t.gate = s.gate ∧ t.dev.staged = s.dev.staged ∧ t.dev.flash = f))
    ∧ (∀ t0 a v, runs' → (a ∉ [0x4, 0x60004, 0x70004, 0x40000, 0x20014] ∨ via = .pf → Refused s (.writeReg via tag t0 a v) tag vsDenied)
        ∧ (via ≠ .pf → 650 ≤ v → v ≤ 1500 → ∃ t, exec (.writeReg via tag t0 0x60004 v) s = .next t ∧ t = { s with dev := { s.dev with
            out := [.answer (tag % 256) 0 []]
            staged := s.dev.staged ++ [⟨F.PWR_CAP_CAP_W.key, F.PWR_CAP_CAP_W.mask, v, c.dueFrame t0, via⟩] } }))
    ∧ (∀ nonce ok, runs' → nonce.length = 32 → c.fld F.SEC_SIG_CTL_MIN_S = 60 →
        let allowed : Prop := 0 < x.credit ∨ x.creditAt + 60000000000 ≤ c.frm.time
        (x.noCounter = true → Refused s (.getReport via tag nonce ok) tag vsNoCounter)
        ∧ (x.noCounter = false → 2 ^ 20 ≤ x.leaf → ∃ t, exec (.getReport via tag nonce ok) s = .next t ∧ Answered s t tag vsExhausted [] f
            ∧ flagged t F.SEC_INT_STATUS_SIG_EXHAUSTED ∧ t.dev.chip = c)
        ∧ (x.noCounter = false → x.leaf < 2 ^ 20 → ¬ allowed → ∃ t, exec (.getReport via tag nonce ok) s = .next t
            ∧ Answered s t tag vsRate [] f ∧ (sec t).leaf = x.leaf)
        ∧ (x.noCounter = false → x.leaf < 2 ^ 20 → allowed → x.leaf = f.hwm → ok = false → ∃ t, exec (.getReport via tag nonce ok) s = .next t
            ∧ t.dev.out = [.answer (tag % 256) 10 []]
            ∧ (sec t).noCounter = true ∧ t.dev.flash = f.failCounter ∧ (sec t).leaf = x.leaf)
        ∧ (x.noCounter = false → x.leaf < 2 ^ 20 → allowed → x.leaf ≠ f.hwm ∨ ok = true → ∃ t body, exec (.getReport via tag nonce ok) s = .next t
            ∧ Answered s t tag vsOk (body ++ padTo 1772 0 (Config.lmsSign x.leaf body))
                (if x.leaf = f.hwm then f.putCounter (min (x.leaf + 1024) (2 ^ 20)) else f)
            ∧ body.length = 912 ∧ body.take 4 = [0x5A, 0x41, 0x54, 0x52] ∧ (body.drop 0x10).take 32 = nonce ∧ (body.drop 0x80).take 4 = leBytes 4 x.leaf
            ∧ bitOf (leField body 0x49 1) 0 = s.gate.locked ∧ (body.drop 0x4A).take 6 = leBytes 6 s.dev.shown.frm.commit
            ∧ (sec t).leaf = x.leaf + 1 ∧ (2 ^ 20 - 65536 ≤ x.leaf → flagged t F.SEC_INT_STATUS_SIG_LOW)))
    ∧ (∀ off data, local' → runs' ∨ c.boot.recovery = true → off + data.length ≤ 16 * 2 ^ 20 → data.length ≤ 1024 →
        Refused s (.fwWrite via tag off data false) tag vsFlashErr
        ∧ ∃ t g, exec (.fwWrite via tag off data true) s = .next t ∧ Answered s t tag vsOk [] (f.setSlot b g) ∧ (sec t).erased = true
          ∧ (x.erased = false → g.shipped = false)
          ∧ (∀ a, g.byte a = if off ≤ a ∧ a < off + data.length then data.getD (a - off) 0
              else if x.erased = true then (f.slot b).byte a else 0xFF))
    ∧ (∀ ok st, local' → runs' ∨ c.boot.recovery = true → (f.slot b).verify f.minSvn = .bad st → Refused s (.fwActivate via tag ok) tag st)
    ∧ (∀ v n h, local' → runs' → c.bit.load = none → (f.slot b).verify f.minSvn = .good v n h → Refused s (.fwActivate via tag false) tag vsFlashErr
        ∧ ∃ t, exec (.fwActivate via tag true) s = .next t ∧ Answered s t tag vsOk [] (f.putBoot b) ∧ t.dev.chip.boot.warm = true
          ∧ t.dev.chip.boot.mfw = false ∧ t.dev.chip.fld F.GLB_STATUS_WARM_CAUSE = 3 ∧ (sec t).activating = true ∧ (sec t).runB = x.runB
          ∧ t.dev.chip.rooms = c.rooms)
    ∧ (local' → runs' → (f.minSvn < x.svn → f.svnBurns < 63 → ∃ t, exec (.fwCommitSvn via tag) s = .next t
          ∧ Answered s t tag vsOk [] { f with minSvn := x.svn, svnBurns := f.svnBurns + 1 } ∧ t.dev.chip = c)
        ∧ (f.minSvn < x.svn → 63 ≤ f.svnBurns → Refused s (.fwCommitSvn via tag) tag vsExhausted)
        ∧ (x.svn ≤ f.minSvn → ∃ t, exec (.fwCommitSvn via tag) s = .next t ∧ Answers s t [.answer (tag % 256) 0 []]))
    ∧ (∀ key : List Byte, local' → runs' → key.length = 56 →
        (c.bit.eng ≠ .idle → Refused s (.ownerEnrol via tag key true) tag vsBusy)
        ∧ (c.bit.eng = .idle → f.owner ≠ none ∨ c.fld F.SEC_CTL_ENROL_ALLOW = 0 → Refused s (.ownerEnrol via tag key true) tag vsDenied)
        ∧ (c.bit.eng = .idle → f.owner = none → c.fld F.SEC_CTL_ENROL_ALLOW = 1 → Refused s (.ownerEnrol via tag key false) tag vsFlashErr
            ∧ ∃ t, exec (.ownerEnrol via tag key true) s = .next t ∧ Answered s t tag vsOk ((sha256 key).take 16) (f.putOwner (some key) f.nonce)
              ∧ t.dev.chip = { c with sec := { x with ownerNew := true } })
        ∧ (∀ cur sig, c.bit.eng = .idle → f.owner = some cur →
            let msg := [0x5A, 0x4F, 0x57, 0x4E] ++ sha256 key ++ leBytes 8 f.nonce
            (lmsVerify cur msg sig = false → Refused s (.ownerTransfer via tag key sig true) tag vsVerifyFail)
            ∧ (lmsVerify cur msg sig = true → ∃ t, exec (.ownerTransfer via tag key sig true) s = .next t
                ∧ Answered s t tag vsOk ((sha256 key).take 16) (f.putOwner (some key) ((f.nonce + 1) % 2 ^ 64))
                ∧ t.dev.chip = { c with sec := { x with ownerNew := true } })))
    ∧ (∀ n keys, runs' → n < 4 → (via = .pf → ∃ t, exec (.ideKm via tag n keys true) s = .next t ∧ Answered s t tag vsOk [] f
          ∧ Tab.find t.dev.chip.host.ideKeys n = some keys ∧ bitOf (sec t).secure n = true ∧ bitOf (sec t).insecure n = false
          ∧ (∀ j, j ≠ n → bitOf (sec t).secure j = bitOf x.secure j ∧ bitOf (sec t).insecure j = bitOf x.insecure j))
        ∧ (via ≠ .pf → Refused s (.ideKm via tag n keys true) tag vsDenied))
    ∧ (∀ n, n < 4 → (bitOf x.secure n = true → ∃ t, exec (.ideFail n) s = .next t ∧ bitOf (sec t).secure n = false ∧ bitOf (sec t).insecure n = true
          ∧ flagged t F.SEC_INT_STATUS_IDE_FAIL ∧ logged s t { cls := clsConfig, kind := 0, index := 0 } ∧ Quiet s t)
        ∧ (bitOf x.secure n = false → ∃ t, exec (.ideFail n) s = .next t ∧ Answers s t []))
    ∧ (∀ op places leaf msg sig, runs' →
        (lmsVerify Config.vendorKey msg sig = false → Refused s (.vendorService via tag op places leaf msg sig) tag vsVerifyFail)
        ∧ (lmsVerify Config.vendorKey msg sig = true →
          (op = 0 → places = [0] → ∃ t, exec (.vendorService via tag op places leaf msg sig) s = .next t
            ∧ Answered s t tag vsOk [] f ∧ t.dev.chip.cal.retire = c.cal.retire.drop 1)
          ∧ (op = 1 → ∃ t, exec (.vendorService via tag op places leaf msg sig) s = .next t ∧ Answered s t tag vsOk [] (f.putOwner none f.nonce)
              ∧ t.dev.chip = { c with sec := { x with ownerNew := true } })
          ∧ (op = 2 → leaf ≤ 2 ^ 20 → ∃ t, exec (.vendorService via tag op places leaf msg sig) s = .next t ∧ Answered s t tag vsOk [] (f.putCounter leaf)
              ∧ t.dev.chip = { c with sec := { x with noCounter := false, leaf := leaf } })))
    ∧ (∀ t0 ok, c.boot.pcie = true → tag < 256 →
        exec (.doeObject 0x1DF3 1 t0 ok [0x04, BitVec.ofNat 8 tag, 0, 0]) s = exec (.getIdentity .pf tag) s
        ∧ exec (.doeObject 0x1DF3 1 t0 ok [0x08, BitVec.ofNat 8 tag, 0, 0]) s = exec (.fwCommitSvn .pf tag) s
        ∧ (runs' → Refused s (.doeObject 0x1DF3 1 t0 ok [0x7F, BitVec.ofNat 8 tag, 0, 0]) tag vsBadReq)
        ∧ (∃ t, exec (.doeObject 1 0 t0 ok [0]) s = .next t ∧ ∃ l, Answers s t [.doe l]))
    ∧ (∀ vid type t0 ok body, c.boot.pcie = false → ∃ t, exec (.doeObject vid type t0 ok body) s = .next t ∧ Answers s t [])

/-! ## The whole machine -/

/-- The supply, the two reset pins and the rails that PWR_GOOD shows: what reaches a module that is off or held in reset (R19 to R21, R26 to R28). -/
def Sys2Proof.Claims.pinEvent : Instr → Bool
  | .powerOn .. | .overVoltageTurnOn .. | .inputTurnOff .. | .railOutOfRegulation | .moduleReset .. | .moduleResetRelease => true
  | .threshold f => f.rails
  | _ => false

/-- A step takes the command at the front of the queue and is what `exec` answers for it on the state with the rest of the queue; on an empty
queue the module idles (the model's choice, log 6). -/
def Obligations.StepRunsTheFront : Prop :=
  (∀ (s : State) (i : Instr) (l : List Instr), s.pending = i :: l → step s = exec i { s with pending := l })
    ∧ ∀ s : State, s.pending = [] → step s = .next s

/-- After module reset (R10, R50, R177, R273, R443, R506, R510, R513): every register that software may write reads its reset value, staged and events
alike; no frame has begun; no room holds an image; every tower, stack, porch and quadrant is OFF and no port is up; every byte of memory reads 0; the
configuration is open and no injection is allowed; no command waits, and the invariant of steps holds. That unwritten memory reads 0 is stated by R177
and R273 and holds before the start as the model's choice (log 2). -/
def Obligations.ResetState : Prop :=
  let c := State.reset.dev.chip
  Inv State.reset ∧ State.reset.active = true ∧ State.reset.pending = [] ∧ State.reset.dev.staged = [] ∧ State.reset.dev.ev = [] ∧ State.reset.dev.cnt = []
    ∧ (∀ k, c.reg k = resetWord k) ∧ (∀ a, State.reset.mem.get a = 0) ∧ c.frm.begun = false
    ∧ (∀ r, (c.room r).cur = none ∧ (c.room r).st.code = 0) ∧ (∀ b, (c.block b).st = .off) ∧ (∀ q, (c.port q).st = 0)
    ∧ (∀ q, c.queueOn q = false) ∧ (∀ n line, c.pageValid n line = false)
    ∧ State.reset.gate.locked = false ∧ State.reset.gate.allow = false ∧ State.reset.gate.inj.st = .idle

/-- No command stops the module, and only the supply and the reset pins reach one that is off or held in module reset (R20, R26, R513): every command
has a next state, and any other command leaves such a module exactly as it is. -/
def Obligations.NothingStopsTheModule : Prop :=
  (∀ (i : Instr) (s : State), ∃ t, exec i s = .next t)
    ∧ ∀ (i : Instr) (s : State), s.active = false → pinEvent i = false → exec i s = .next s

/-- Every step keeps the invariant: memory stays in its canonical form, and under the lock no injection is allowed, waits to be allowed, is armed or
is active (R8, R443); no memory operation of a command is left over. The lock itself opens only with a module reset or the loss of the supply, which
also lose every byte of memory (R8, R20, R513). -/
def Obligations.InvariantKept : Prop :=
  ∀ (s t : State), Inv s → step s = .next t →
    Inv t ∧ (s.gate.locked = true → t.gate.locked = true ∨ (t.mem = [] ∧ t.gate.locked = false ∧ t.gate.allow = false))

end
end

