-- ==== Sys2Proof/Laws/Tab.lean ====
section
/-! SUPPORT. Laws of sparse tables: reading after writing, and that every operation keeps the canonical form. -/

namespace Sys2Proof.Machine

variable {α : Type}

/-- What a listing reads as, key by key, after `v` was listed at `n`. -/
theorem Tab.find_ins (t : Tab α) (n : Nat) (v : α) (k : Nat) :
    Tab.find (Tab.ins t n v) k = if k = n then some v else Tab.find t k := by
  induction t with
  | nil => simp [Tab.ins, Tab.find]
  | cons x t ih =>
    obtain ⟨m, w⟩ := x
    by_cases h1 : n < m
    · simp [Tab.ins, h1, Tab.find]
    · by_cases h2 : n = m
      · subst h2
        by_cases h3 : k = n <;> simp [Tab.ins, Tab.find, h3]
      · by_cases h3 : k = m
        · have : ¬ m = n := fun h => h2 h.symm
          simp [Tab.ins, h1, h2, Tab.find, h3, this]
        · simp [Tab.ins, h1, h2, Tab.find, h3, ih]

variable [DecidableEq α]

/-- The lower bound under which a canonical table starts may be lowered. -/
theorem Tab.okFrom_mono {d : α} {t : Tab α} {a b : Nat} (h : a ≤ b) (hb : Tab.okFrom d (some b) t = true) :
    Tab.okFrom d (some a) t = true := by
  cases t with
  | nil => rfl
  | cons x t =>
    obtain ⟨m, w⟩ := x
    simp only [Tab.okFrom, Bool.and_eq_true, decide_eq_true_eq] at hb ⊢
    exact ⟨⟨by omega, hb.1.2⟩, hb.2⟩

/-- A table canonical above a bound is canonical. -/
theorem Tab.okFrom_none {d : α} {t : Tab α} {b : Nat} (hb : Tab.okFrom d (some b) t = true) : Tab.okFrom d none t = true := by
  cases t with
  | nil => rfl
  | cons x t =>
    obtain ⟨m, w⟩ := x
    simp only [Tab.okFrom, Bool.and_eq_true, decide_eq_true_eq] at hb ⊢
    exact ⟨hb.1.2, hb.2⟩

/-- No key at or below the bound of a canonical table is listed. -/
theorem Tab.find_le {d : α} {t : Tab α} {b k : Nat} (h : Tab.okFrom d (some b) t = true) (hk : k ≤ b) : Tab.find t k = none := by
  induction t generalizing b with
  | nil => rfl
  | cons x t ih =>
    obtain ⟨m, w⟩ := x
    simp only [Tab.okFrom, Bool.and_eq_true, decide_eq_true_eq] at h
    have : ¬ k = m := by omega
    simp only [Tab.find, this, if_false]
    exact ih h.2 (by omega)

omit [DecidableEq α] in
/-- Removing a key: nothing else changes. -/
theorem Tab.find_del (t : Tab α) (n k : Nat) : Tab.find (Tab.del t n) k = if k = n then none else Tab.find t k := by
  induction t with
  | nil => by_cases h3 : k = n <;> simp [Tab.del, Tab.find]
  | cons x t ih =>
    obtain ⟨m, w⟩ := x
    by_cases h2 : n = m
    · subst h2
      by_cases h3 : k = n
      · simp_all [Tab.del]
      · simp [Tab.del, ih, Tab.find, h3]
    · by_cases h3 : k = m
      · have : ¬ m = n := fun h => h2 h.symm
        simp [Tab.del, h2, Tab.find, h3, this]
      · simp [Tab.del, h2, Tab.find, h3, ih]

/-- Listing a value that is not the default keeps the canonical form. -/
theorem Tab.okFrom_ins {d : α} {t : Tab α} {n : Nat} {v : α} (hv : v ≠ d) :
    ∀ {lo : Option Nat}, Tab.okFrom d lo t = true → (∀ b, lo = some b → b < n) → Tab.okFrom d lo (Tab.ins t n v) = true := by
  induction t with
  | nil => intro lo _ hb; cases lo <;> simp_all [Tab.ins, Tab.okFrom]
  | cons x t ih =>
    obtain ⟨m, w⟩ := x
    intro lo h hb
    have hm : Tab.okFrom d (some m) t = true := by
      cases lo <;> simp only [Tab.okFrom, Bool.and_eq_true] at h <;> exact h.2
    have hw : w ≠ d := by
      cases lo <;> simp only [Tab.okFrom, Bool.and_eq_true, decide_eq_true_eq] at h
      · exact h.1
      · exact h.1.2
    by_cases h1 : n < m
    · cases lo <;> simp_all [Tab.ins, Tab.okFrom]
    · by_cases h2 : n = m
      · subst h2; cases lo <;> simp_all [Tab.ins, Tab.okFrom]
      · have h3 := ih hm (fun b hb' => by cases hb'; omega)
        rw [show Tab.ins ((m, w) :: t) n v = (m, w) :: Tab.ins t n v by simp [Tab.ins, h1, h2]]
        cases lo <;> simp_all [Tab.okFrom]

/-- Removing a key keeps the canonical form. -/
theorem Tab.okFrom_del {d : α} {t : Tab α} (n : Nat) :
    ∀ {lo : Option Nat}, Tab.okFrom d lo t = true → Tab.okFrom d lo (Tab.del t n) = true := by
  induction t with
  | nil => intro lo _; cases lo <;> rfl
  | cons x t ih =>
    obtain ⟨m, w⟩ := x
    intro lo h
    have hm : Tab.okFrom d (some m) t = true := by
      cases lo <;> simp only [Tab.okFrom, Bool.and_eq_true] at h <;> exact h.2
    by_cases h2 : n = m
    · have h3 := ih hm
      cases lo with
      | none => simpa [Tab.del, h2] using Tab.okFrom_none (by simpa [h2] using h3)
      | some b =>
        simp only [Tab.okFrom, Bool.and_eq_true, decide_eq_true_eq] at h
        simpa [Tab.del, h2] using Tab.okFrom_mono (by omega : b ≤ m) (by simpa [h2] using h3)
    · have := ih hm
      cases lo <;> simp_all [Tab.del, Tab.okFrom]

/-- Leaving out entries keeps the canonical form. -/
theorem Tab.okFrom_keep {d : α} {t : Tab α} (p : Nat → Bool) :
    ∀ {lo : Option Nat}, Tab.okFrom d lo t = true → Tab.okFrom d lo (Tab.keep t p) = true := by
  induction t with
  | nil => intro lo _; cases lo <;> rfl
  | cons x t ih =>
    obtain ⟨m, w⟩ := x
    intro lo h
    have hm : Tab.okFrom d (some m) t = true := by
      cases lo <;> simp only [Tab.okFrom, Bool.and_eq_true] at h <;> exact h.2
    have h' := ih hm
    by_cases hp : p m = true
    · cases lo <;> simp_all [Tab.keep, Tab.okFrom]
    · simp only [Tab.keep, List.filter, hp] at h' ⊢
      cases lo with
      | none => exact Tab.okFrom_none h'
      | some b =>
        simp only [Tab.okFrom, Bool.and_eq_true, decide_eq_true_eq] at h
        exact Tab.okFrom_mono (by omega : b ≤ m) h'

omit [DecidableEq α] in
/-- Reading an entry after a leaving-out. -/
theorem Tab.find_keep (t : Tab α) (p : Nat → Bool) (k : Nat) :
    Tab.find (Tab.keep t p) k = if p k = true then Tab.find t k else none := by
  induction t with
  | nil => simp [Tab.keep, Tab.find]
  | cons x t ih =>
    obtain ⟨m, w⟩ := x
    simp only [Tab.keep] at ih
    by_cases hk : k = m
    · subst hk
      by_cases hp : p k = true <;> simp_all [Tab.keep, List.filter, Tab.find]
    · by_cases hp : p m = true <;> simp_all [Tab.keep, List.filter, Tab.find]

/-- A write keeps the canonical form. -/
theorem Tab.wf_put {d : α} {t : Tab α} (h : Tab.wf d t = true) (n : Nat) (v : α) : Tab.wf d (Tab.put d t n v) = true := by
  unfold Tab.put
  split
  · exact Tab.okFrom_del n h
  · exact Tab.okFrom_ins (by assumption) h (by intro b hb; cases hb)

/-- A leaving-out keeps the canonical form. -/
theorem Tab.wf_keep {d : α} {t : Tab α} (h : Tab.wf d t = true) (p : Nat → Bool) : Tab.wf d (Tab.keep t p) = true :=
  Tab.okFrom_keep p h

/-- Reading after a write. -/
theorem Tab.get_put (d : α) (t : Tab α) (n : Nat) (v : α) (k : Nat) :
    Tab.get d (Tab.put d t n v) k = if k = n then v else Tab.get d t k := by
  unfold Tab.put Tab.get
  by_cases hv : v = d
  · simp only [hv, if_true, Tab.find_del]
    by_cases hk : k = n <;> simp [hk]
  · simp only [hv, if_false, Tab.find_ins]
    by_cases hk : k = n <;> simp [hk]

/-- Reading after a change. -/
theorem Tab.get_upd (d : α) (t : Tab α) (n : Nat) (f : α → α) (k : Nat) :
    Tab.get d (Tab.upd d t n f) k = if k = n then f (Tab.get d t n) else Tab.get d t k := Tab.get_put d t n _ k

end Sys2Proof.Machine
end

