-- ==== Sys2Proof/Laws/Mem.lean ====
section
/-! SUPPORT. Laws of memory: reading after writing and clearing, and that every operation keeps the canonical form. -/

namespace Sys2Proof.Machine

/-- A byte store keeps the canonical form. -/
theorem Mem.wf_set {m : Mem} (h : m.wf = true) (a : Nat) (b : Byte) : (m.set a b).wf = true := Tab.wf_put h a b

/-- Storing bytes keeps the canonical form. -/
theorem Mem.wf_write {m : Mem} (h : m.wf = true) (a : Nat) (bs : List Byte) : (m.write a bs).wf = true := by
  induction bs generalizing m a with
  | nil => exact h
  | cons b bs ih => exact ih (Mem.wf_set h a b) (a + 1)

/-- Clearing keeps the canonical form. -/
theorem Mem.wf_clear {m : Mem} (h : m.wf = true) (a n : Nat) : (m.clear a n).wf = true := Tab.wf_keep h _

/-- Every memory operation keeps the canonical form. -/
theorem Mem.wf_op {m : Mem} (h : m.wf = true) (o : MemOp) : (m.op o).wf = true := by
  cases o with
  | write a bs => exact Mem.wf_write h a bs
  | clear a n => exact Mem.wf_clear h a n
  | flip a bs => exact Mem.wf_write h a _

/-- A command's memory operations keep the canonical form. -/
theorem Mem.wf_apply {m : Mem} (h : m.wf = true) (ops : List MemOp) : (m.apply ops).wf = true := by
  unfold Mem.apply
  induction ops generalizing m with
  | nil => exact h
  | cons o ops ih => exact ih (Mem.wf_op h o)

/-- Nothing done to memory. -/
@[simp] theorem Mem.apply_nil (m : Mem) : m.apply [] = m := rfl

/-- Memory operations one list after another. -/
theorem Mem.apply_append (m : Mem) (a b : List MemOp) : m.apply (a ++ b) = (m.apply a).apply b := by
  simp [Mem.apply, List.foldl_append]

/-- Reading after a byte store. -/
theorem Mem.get_set (m : Mem) (a : Nat) (b : Byte) (k : Nat) :
    (m.set a b).get k = if k = a then b else m.get k := Tab.get_put 0 m a b k

/-- Reading after storing bytes: inside them the byte stored, outside them what stood there. -/
theorem Mem.get_write (m : Mem) (a k : Nat) (bs : List Byte) :
    (m.write a bs).get k = if a ≤ k ∧ k < a + bs.length then bs.getD (k - a) 0 else m.get k := by
  induction bs generalizing m a with
  | nil => simp [Mem.write]
  | cons b bs ih =>
    rw [Mem.write, ih, Mem.get_set]
    by_cases hk : k = a
    · subst hk; simp
    · by_cases h1 : a + 1 ≤ k ∧ k < a + 1 + bs.length
      · have h2 : a ≤ k ∧ k < a + (b :: bs).length := by simp; omega
        have h3 : k - a = (k - (a + 1)) + 1 := by omega
        simp only [h1, h2, and_self, if_true, h3]
        rfl
      · have h2 : ¬ (a ≤ k ∧ k < a + (b :: bs).length) := by simp; omega
        rw [if_neg h1, if_neg hk, if_neg h2]

/-- Reading after a clear. -/
theorem Mem.get_clear (m : Mem) (a n k : Nat) : (m.clear a n).get k = if a ≤ k ∧ k < a + n then 0 else m.get k := by
  unfold Mem.clear Mem.get Tab.get
  rw [Tab.find_keep]
  by_cases h1 : a ≤ k ∧ k < a + n
  · have h2 : ¬ (k < a) := by omega
    have h3 : ¬ (a + n ≤ k) := by omega
    simp [h1, h2, h3]
  · by_cases h2 : k < a
    · have : ¬ (a ≤ k ∧ k < a + n) := h1
      simp [h2, this]
    · have h3 : a + n ≤ k := by omega
      have : ¬ (a ≤ k ∧ k < a + n) := h1
      simp [h3, this]

end Sys2Proof.Machine
end

