-- ==== Sys2Proof/Laws/State.lean ====
section
/-! SUPPORT. What each update of the state leaves of each field: true by unfolding, so that no later proof unfolds a record
update. Changes of one part of the chip are first rewritten as changes of the chip. -/

namespace Sys2Proof.Machine

/-! ### Dev.onChip -/

@[simp] theorem Dev.onChip_pub (d : Dev) (g : Chip → Chip) : (d.onChip g).pub = d.pub := rfl
@[simp] theorem Dev.onChip_latched (d : Dev) (g : Chip → Chip) : (d.onChip g).latched = d.latched := rfl
@[simp] theorem Dev.onChip_staged (d : Dev) (g : Chip → Chip) : (d.onChip g).staged = d.staged := rfl
@[simp] theorem Dev.onChip_ev (d : Dev) (g : Chip → Chip) : (d.onChip g).ev = d.ev := rfl
@[simp] theorem Dev.onChip_pubEv (d : Dev) (g : Chip → Chip) : (d.onChip g).pubEv = d.pubEv := rfl
@[simp] theorem Dev.onChip_cnt (d : Dev) (g : Chip → Chip) : (d.onChip g).cnt = d.cnt := rfl
@[simp] theorem Dev.onChip_pubCnt (d : Dev) (g : Chip → Chip) : (d.onChip g).pubCnt = d.pubCnt := rfl
@[simp] theorem Dev.onChip_dropEv (d : Dev) (g : Chip → Chip) : (d.onChip g).dropEv = d.dropEv := rfl
@[simp] theorem Dev.onChip_dropCnt (d : Dev) (g : Chip → Chip) : (d.onChip g).dropCnt = d.dropCnt := rfl
@[simp] theorem Dev.onChip_tot (d : Dev) (g : Chip → Chip) : (d.onChip g).tot = d.tot := rfl
@[simp] theorem Dev.onChip_wm (d : Dev) (g : Chip → Chip) : (d.onChip g).wm = d.wm := rfl
@[simp] theorem Dev.onChip_pubWm (d : Dev) (g : Chip → Chip) : (d.onChip g).pubWm = d.pubWm := rfl
@[simp] theorem Dev.onChip_views (d : Dev) (g : Chip → Chip) : (d.onChip g).views = d.views := rfl
@[simp] theorem Dev.onChip_expired (d : Dev) (g : Chip → Chip) : (d.onChip g).expired = d.expired := rfl
@[simp] theorem Dev.onChip_pairs (d : Dev) (g : Chip → Chip) : (d.onChip g).pairs = d.pairs := rfl
@[simp] theorem Dev.onChip_irq (d : Dev) (g : Chip → Chip) : (d.onChip g).irq = d.irq := rfl
@[simp] theorem Dev.onChip_msix (d : Dev) (g : Chip → Chip) : (d.onChip g).msix = d.msix := rfl
@[simp] theorem Dev.onChip_pba (d : Dev) (g : Chip → Chip) : (d.onChip g).pba = d.pba := rfl
@[simp] theorem Dev.onChip_failed (d : Dev) (g : Chip → Chip) : (d.onChip g).failed = d.failed := rfl
@[simp] theorem Dev.onChip_flash (d : Dev) (g : Chip → Chip) : (d.onChip g).flash = d.flash := rfl
@[simp] theorem Dev.onChip_calFlash (d : Dev) (g : Chip → Chip) : (d.onChip g).calFlash = d.calFlash := rfl
@[simp] theorem Dev.onChip_free (d : Dev) (g : Chip → Chip) : (d.onChip g).free = d.free := rfl
@[simp] theorem Dev.onChip_out (d : Dev) (g : Chip → Chip) : (d.onChip g).out = d.out := rfl
@[simp] theorem Dev.onChip_wr (d : Dev) (g : Chip → Chip) : (d.onChip g).wr = d.wr := rfl
@[simp] theorem Dev.onChip_injUsed (d : Dev) (g : Chip → Chip) : (d.onChip g).injUsed = d.injUsed := rfl

/-! ### Dev.flag -/

@[simp] theorem Dev.flag_chip (d : Dev) (f : Fld) (i e sel : Nat) : (d.flag f i e sel).chip = d.chip := rfl
@[simp] theorem Dev.flag_pub (d : Dev) (f : Fld) (i e sel : Nat) : (d.flag f i e sel).pub = d.pub := rfl
@[simp] theorem Dev.flag_latched (d : Dev) (f : Fld) (i e sel : Nat) : (d.flag f i e sel).latched = d.latched := rfl
@[simp] theorem Dev.flag_staged (d : Dev) (f : Fld) (i e sel : Nat) : (d.flag f i e sel).staged = d.staged := rfl
@[simp] theorem Dev.flag_pubEv (d : Dev) (f : Fld) (i e sel : Nat) : (d.flag f i e sel).pubEv = d.pubEv := rfl
@[simp] theorem Dev.flag_cnt (d : Dev) (f : Fld) (i e sel : Nat) : (d.flag f i e sel).cnt = d.cnt := rfl
@[simp] theorem Dev.flag_pubCnt (d : Dev) (f : Fld) (i e sel : Nat) : (d.flag f i e sel).pubCnt = d.pubCnt := rfl
@[simp] theorem Dev.flag_dropEv (d : Dev) (f : Fld) (i e sel : Nat) : (d.flag f i e sel).dropEv = d.dropEv := rfl
@[simp] theorem Dev.flag_dropCnt (d : Dev) (f : Fld) (i e sel : Nat) : (d.flag f i e sel).dropCnt = d.dropCnt := rfl
@[simp] theorem Dev.flag_tot (d : Dev) (f : Fld) (i e sel : Nat) : (d.flag f i e sel).tot = d.tot := rfl
@[simp] theorem Dev.flag_wm (d : Dev) (f : Fld) (i e sel : Nat) : (d.flag f i e sel).wm = d.wm := rfl
@[simp] theorem Dev.flag_pubWm (d : Dev) (f : Fld) (i e sel : Nat) : (d.flag f i e sel).pubWm = d.pubWm := rfl
@[simp] theorem Dev.flag_views (d : Dev) (f : Fld) (i e sel : Nat) : (d.flag f i e sel).views = d.views := rfl
@[simp] theorem Dev.flag_expired (d : Dev) (f : Fld) (i e sel : Nat) : (d.flag f i e sel).expired = d.expired := rfl
@[simp] theorem Dev.flag_pairs (d : Dev) (f : Fld) (i e sel : Nat) : (d.flag f i e sel).pairs = d.pairs := rfl
@[simp] theorem Dev.flag_irq (d : Dev) (f : Fld) (i e sel : Nat) : (d.flag f i e sel).irq = d.irq := rfl
@[simp] theorem Dev.flag_msix (d : Dev) (f : Fld) (i e sel : Nat) : (d.flag f i e sel).msix = d.msix := rfl
@[simp] theorem Dev.flag_pba (d : Dev) (f : Fld) (i e sel : Nat) : (d.flag f i e sel).pba = d.pba := rfl
@[simp] theorem Dev.flag_failed (d : Dev) (f : Fld) (i e sel : Nat) : (d.flag f i e sel).failed = d.failed := rfl
@[simp] theorem Dev.flag_flash (d : Dev) (f : Fld) (i e sel : Nat) : (d.flag f i e sel).flash = d.flash := rfl
@[simp] theorem Dev.flag_calFlash (d : Dev) (f : Fld) (i e sel : Nat) : (d.flag f i e sel).calFlash = d.calFlash := rfl
@[simp] theorem Dev.flag_free (d : Dev) (f : Fld) (i e sel : Nat) : (d.flag f i e sel).free = d.free := rfl
@[simp] theorem Dev.flag_out (d : Dev) (f : Fld) (i e sel : Nat) : (d.flag f i e sel).out = d.out := rfl
@[simp] theorem Dev.flag_wr (d : Dev) (f : Fld) (i e sel : Nat) : (d.flag f i e sel).wr = d.wr := rfl
@[simp] theorem Dev.flag_injUsed (d : Dev) (f : Fld) (i e sel : Nat) : (d.flag f i e sel).injUsed = d.injUsed := rfl

/-! ### Dev.flagMask -/

@[simp] theorem Dev.flagMask_chip (d : Dev) (f : Fld) (m i e sel : Nat) : (d.flagMask f m i e sel).chip = d.chip := rfl
@[simp] theorem Dev.flagMask_pub (d : Dev) (f : Fld) (m i e sel : Nat) : (d.flagMask f m i e sel).pub = d.pub := rfl
@[simp] theorem Dev.flagMask_latched (d : Dev) (f : Fld) (m i e sel : Nat) : (d.flagMask f m i e sel).latched = d.latched := rfl
@[simp] theorem Dev.flagMask_staged (d : Dev) (f : Fld) (m i e sel : Nat) : (d.flagMask f m i e sel).staged = d.staged := rfl
@[simp] theorem Dev.flagMask_pubEv (d : Dev) (f : Fld) (m i e sel : Nat) : (d.flagMask f m i e sel).pubEv = d.pubEv := rfl
@[simp] theorem Dev.flagMask_cnt (d : Dev) (f : Fld) (m i e sel : Nat) : (d.flagMask f m i e sel).cnt = d.cnt := rfl
@[simp] theorem Dev.flagMask_pubCnt (d : Dev) (f : Fld) (m i e sel : Nat) : (d.flagMask f m i e sel).pubCnt = d.pubCnt := rfl
@[simp] theorem Dev.flagMask_dropEv (d : Dev) (f : Fld) (m i e sel : Nat) : (d.flagMask f m i e sel).dropEv = d.dropEv := rfl
@[simp] theorem Dev.flagMask_dropCnt (d : Dev) (f : Fld) (m i e sel : Nat) : (d.flagMask f m i e sel).dropCnt = d.dropCnt := rfl
@[simp] theorem Dev.flagMask_tot (d : Dev) (f : Fld) (m i e sel : Nat) : (d.flagMask f m i e sel).tot = d.tot := rfl
@[simp] theorem Dev.flagMask_wm (d : Dev) (f : Fld) (m i e sel : Nat) : (d.flagMask f m i e sel).wm = d.wm := rfl
@[simp] theorem Dev.flagMask_pubWm (d : Dev) (f : Fld) (m i e sel : Nat) : (d.flagMask f m i e sel).pubWm = d.pubWm := rfl
@[simp] theorem Dev.flagMask_views (d : Dev) (f : Fld) (m i e sel : Nat) : (d.flagMask f m i e sel).views = d.views := rfl
@[simp] theorem Dev.flagMask_expired (d : Dev) (f : Fld) (m i e sel : Nat) : (d.flagMask f m i e sel).expired = d.expired := rfl
@[simp] theorem Dev.flagMask_pairs (d : Dev) (f : Fld) (m i e sel : Nat) : (d.flagMask f m i e sel).pairs = d.pairs := rfl
@[simp] theorem Dev.flagMask_irq (d : Dev) (f : Fld) (m i e sel : Nat) : (d.flagMask f m i e sel).irq = d.irq := rfl
@[simp] theorem Dev.flagMask_msix (d : Dev) (f : Fld) (m i e sel : Nat) : (d.flagMask f m i e sel).msix = d.msix := rfl
@[simp] theorem Dev.flagMask_pba (d : Dev) (f : Fld) (m i e sel : Nat) : (d.flagMask f m i e sel).pba = d.pba := rfl
@[simp] theorem Dev.flagMask_failed (d : Dev) (f : Fld) (m i e sel : Nat) : (d.flagMask f m i e sel).failed = d.failed := rfl
@[simp] theorem Dev.flagMask_flash (d : Dev) (f : Fld) (m i e sel : Nat) : (d.flagMask f m i e sel).flash = d.flash := rfl
@[simp] theorem Dev.flagMask_calFlash (d : Dev) (f : Fld) (m i e sel : Nat) : (d.flagMask f m i e sel).calFlash = d.calFlash := rfl
@[simp] theorem Dev.flagMask_free (d : Dev) (f : Fld) (m i e sel : Nat) : (d.flagMask f m i e sel).free = d.free := rfl
@[simp] theorem Dev.flagMask_out (d : Dev) (f : Fld) (m i e sel : Nat) : (d.flagMask f m i e sel).out = d.out := rfl
@[simp] theorem Dev.flagMask_wr (d : Dev) (f : Fld) (m i e sel : Nat) : (d.flagMask f m i e sel).wr = d.wr := rfl
@[simp] theorem Dev.flagMask_injUsed (d : Dev) (f : Fld) (m i e sel : Nat) : (d.flagMask f m i e sel).injUsed = d.injUsed := rfl

/-! ### Dev.count -/

@[simp] theorem Dev.count_chip (d : Dev) (f : Fld) (n i e sel : Nat) : (d.count f n i e sel).chip = d.chip := rfl
@[simp] theorem Dev.count_pub (d : Dev) (f : Fld) (n i e sel : Nat) : (d.count f n i e sel).pub = d.pub := rfl
@[simp] theorem Dev.count_latched (d : Dev) (f : Fld) (n i e sel : Nat) : (d.count f n i e sel).latched = d.latched := rfl
@[simp] theorem Dev.count_staged (d : Dev) (f : Fld) (n i e sel : Nat) : (d.count f n i e sel).staged = d.staged := rfl
@[simp] theorem Dev.count_ev (d : Dev) (f : Fld) (n i e sel : Nat) : (d.count f n i e sel).ev = d.ev := rfl
@[simp] theorem Dev.count_pubEv (d : Dev) (f : Fld) (n i e sel : Nat) : (d.count f n i e sel).pubEv = d.pubEv := rfl
@[simp] theorem Dev.count_pubCnt (d : Dev) (f : Fld) (n i e sel : Nat) : (d.count f n i e sel).pubCnt = d.pubCnt := rfl
@[simp] theorem Dev.count_dropEv (d : Dev) (f : Fld) (n i e sel : Nat) : (d.count f n i e sel).dropEv = d.dropEv := rfl
@[simp] theorem Dev.count_dropCnt (d : Dev) (f : Fld) (n i e sel : Nat) : (d.count f n i e sel).dropCnt = d.dropCnt := rfl
@[simp] theorem Dev.count_wm (d : Dev) (f : Fld) (n i e sel : Nat) : (d.count f n i e sel).wm = d.wm := rfl
@[simp] theorem Dev.count_pubWm (d : Dev) (f : Fld) (n i e sel : Nat) : (d.count f n i e sel).pubWm = d.pubWm := rfl
@[simp] theorem Dev.count_views (d : Dev) (f : Fld) (n i e sel : Nat) : (d.count f n i e sel).views = d.views := rfl
@[simp] theorem Dev.count_expired (d : Dev) (f : Fld) (n i e sel : Nat) : (d.count f n i e sel).expired = d.expired := rfl
@[simp] theorem Dev.count_pairs (d : Dev) (f : Fld) (n i e sel : Nat) : (d.count f n i e sel).pairs = d.pairs := rfl
@[simp] theorem Dev.count_irq (d : Dev) (f : Fld) (n i e sel : Nat) : (d.count f n i e sel).irq = d.irq := rfl
@[simp] theorem Dev.count_msix (d : Dev) (f : Fld) (n i e sel : Nat) : (d.count f n i e sel).msix = d.msix := rfl
@[simp] theorem Dev.count_pba (d : Dev) (f : Fld) (n i e sel : Nat) : (d.count f n i e sel).pba = d.pba := rfl
@[simp] theorem Dev.count_failed (d : Dev) (f : Fld) (n i e sel : Nat) : (d.count f n i e sel).failed = d.failed := rfl
@[simp] theorem Dev.count_flash (d : Dev) (f : Fld) (n i e sel : Nat) : (d.count f n i e sel).flash = d.flash := rfl
@[simp] theorem Dev.count_calFlash (d : Dev) (f : Fld) (n i e sel : Nat) : (d.count f n i e sel).calFlash = d.calFlash := rfl
@[simp] theorem Dev.count_free (d : Dev) (f : Fld) (n i e sel : Nat) : (d.count f n i e sel).free = d.free := rfl
@[simp] theorem Dev.count_out (d : Dev) (f : Fld) (n i e sel : Nat) : (d.count f n i e sel).out = d.out := rfl
@[simp] theorem Dev.count_wr (d : Dev) (f : Fld) (n i e sel : Nat) : (d.count f n i e sel).wr = d.wr := rfl
@[simp] theorem Dev.count_injUsed (d : Dev) (f : Fld) (n i e sel : Nat) : (d.count f n i e sel).injUsed = d.injUsed := rfl

/-! ### Dev.observe -/

@[simp] theorem Dev.observe_chip (d : Dev) (f : Fld) (v i e sel : Nat) : (d.observe f v i e sel).chip = d.chip := rfl
@[simp] theorem Dev.observe_pub (d : Dev) (f : Fld) (v i e sel : Nat) : (d.observe f v i e sel).pub = d.pub := rfl
@[simp] theorem Dev.observe_latched (d : Dev) (f : Fld) (v i e sel : Nat) : (d.observe f v i e sel).latched = d.latched := rfl
@[simp] theorem Dev.observe_staged (d : Dev) (f : Fld) (v i e sel : Nat) : (d.observe f v i e sel).staged = d.staged := rfl
@[simp] theorem Dev.observe_ev (d : Dev) (f : Fld) (v i e sel : Nat) : (d.observe f v i e sel).ev = d.ev := rfl
@[simp] theorem Dev.observe_pubEv (d : Dev) (f : Fld) (v i e sel : Nat) : (d.observe f v i e sel).pubEv = d.pubEv := rfl
@[simp] theorem Dev.observe_cnt (d : Dev) (f : Fld) (v i e sel : Nat) : (d.observe f v i e sel).cnt = d.cnt := rfl
@[simp] theorem Dev.observe_pubCnt (d : Dev) (f : Fld) (v i e sel : Nat) : (d.observe f v i e sel).pubCnt = d.pubCnt := rfl
@[simp] theorem Dev.observe_dropEv (d : Dev) (f : Fld) (v i e sel : Nat) : (d.observe f v i e sel).dropEv = d.dropEv := rfl
@[simp] theorem Dev.observe_dropCnt (d : Dev) (f : Fld) (v i e sel : Nat) : (d.observe f v i e sel).dropCnt = d.dropCnt := rfl
@[simp] theorem Dev.observe_pubWm (d : Dev) (f : Fld) (v i e sel : Nat) : (d.observe f v i e sel).pubWm = d.pubWm := rfl
@[simp] theorem Dev.observe_views (d : Dev) (f : Fld) (v i e sel : Nat) : (d.observe f v i e sel).views = d.views := rfl
@[simp] theorem Dev.observe_expired (d : Dev) (f : Fld) (v i e sel : Nat) : (d.observe f v i e sel).expired = d.expired := rfl
@[simp] theorem Dev.observe_pairs (d : Dev) (f : Fld) (v i e sel : Nat) : (d.observe f v i e sel).pairs = d.pairs := rfl
@[simp] theorem Dev.observe_irq (d : Dev) (f : Fld) (v i e sel : Nat) : (d.observe f v i e sel).irq = d.irq := rfl
@[simp] theorem Dev.observe_msix (d : Dev) (f : Fld) (v i e sel : Nat) : (d.observe f v i e sel).msix = d.msix := rfl
@[simp] theorem Dev.observe_pba (d : Dev) (f : Fld) (v i e sel : Nat) : (d.observe f v i e sel).pba = d.pba := rfl
@[simp] theorem Dev.observe_failed (d : Dev) (f : Fld) (v i e sel : Nat) : (d.observe f v i e sel).failed = d.failed := rfl
@[simp] theorem Dev.observe_flash (d : Dev) (f : Fld) (v i e sel : Nat) : (d.observe f v i e sel).flash = d.flash := rfl
@[simp] theorem Dev.observe_calFlash (d : Dev) (f : Fld) (v i e sel : Nat) : (d.observe f v i e sel).calFlash = d.calFlash := rfl
@[simp] theorem Dev.observe_free (d : Dev) (f : Fld) (v i e sel : Nat) : (d.observe f v i e sel).free = d.free := rfl
@[simp] theorem Dev.observe_out (d : Dev) (f : Fld) (v i e sel : Nat) : (d.observe f v i e sel).out = d.out := rfl
@[simp] theorem Dev.observe_wr (d : Dev) (f : Fld) (v i e sel : Nat) : (d.observe f v i e sel).wr = d.wr := rfl
@[simp] theorem Dev.observe_injUsed (d : Dev) (f : Fld) (v i e sel : Nat) : (d.observe f v i e sel).injUsed = d.injUsed := rfl

/-! ### Dev.emit -/

@[simp] theorem Dev.emit_chip (d : Dev) (o : Out) : (d.emit o).chip = d.chip := rfl
@[simp] theorem Dev.emit_pub (d : Dev) (o : Out) : (d.emit o).pub = d.pub := rfl
@[simp] theorem Dev.emit_latched (d : Dev) (o : Out) : (d.emit o).latched = d.latched := rfl
@[simp] theorem Dev.emit_staged (d : Dev) (o : Out) : (d.emit o).staged = d.staged := rfl
@[simp] theorem Dev.emit_ev (d : Dev) (o : Out) : (d.emit o).ev = d.ev := rfl
@[simp] theorem Dev.emit_pubEv (d : Dev) (o : Out) : (d.emit o).pubEv = d.pubEv := rfl
@[simp] theorem Dev.emit_cnt (d : Dev) (o : Out) : (d.emit o).cnt = d.cnt := rfl
@[simp] theorem Dev.emit_pubCnt (d : Dev) (o : Out) : (d.emit o).pubCnt = d.pubCnt := rfl
@[simp] theorem Dev.emit_dropEv (d : Dev) (o : Out) : (d.emit o).dropEv = d.dropEv := rfl
@[simp] theorem Dev.emit_dropCnt (d : Dev) (o : Out) : (d.emit o).dropCnt = d.dropCnt := rfl
@[simp] theorem Dev.emit_tot (d : Dev) (o : Out) : (d.emit o).tot = d.tot := rfl
@[simp] theorem Dev.emit_wm (d : Dev) (o : Out) : (d.emit o).wm = d.wm := rfl
@[simp] theorem Dev.emit_pubWm (d : Dev) (o : Out) : (d.emit o).pubWm = d.pubWm := rfl
@[simp] theorem Dev.emit_views (d : Dev) (o : Out) : (d.emit o).views = d.views := rfl
@[simp] theorem Dev.emit_expired (d : Dev) (o : Out) : (d.emit o).expired = d.expired := rfl
@[simp] theorem Dev.emit_pairs (d : Dev) (o : Out) : (d.emit o).pairs = d.pairs := rfl
@[simp] theorem Dev.emit_irq (d : Dev) (o : Out) : (d.emit o).irq = d.irq := rfl
@[simp] theorem Dev.emit_msix (d : Dev) (o : Out) : (d.emit o).msix = d.msix := rfl
@[simp] theorem Dev.emit_pba (d : Dev) (o : Out) : (d.emit o).pba = d.pba := rfl
@[simp] theorem Dev.emit_failed (d : Dev) (o : Out) : (d.emit o).failed = d.failed := rfl
@[simp] theorem Dev.emit_flash (d : Dev) (o : Out) : (d.emit o).flash = d.flash := rfl
@[simp] theorem Dev.emit_calFlash (d : Dev) (o : Out) : (d.emit o).calFlash = d.calFlash := rfl
@[simp] theorem Dev.emit_free (d : Dev) (o : Out) : (d.emit o).free = d.free := rfl
@[simp] theorem Dev.emit_wr (d : Dev) (o : Out) : (d.emit o).wr = d.wr := rfl
@[simp] theorem Dev.emit_injUsed (d : Dev) (o : Out) : (d.emit o).injUsed = d.injUsed := rfl

/-! ### Dev.memOp -/

@[simp] theorem Dev.memOp_chip (d : Dev) (o : MemOp) : (d.memOp o).chip = d.chip := rfl
@[simp] theorem Dev.memOp_pub (d : Dev) (o : MemOp) : (d.memOp o).pub = d.pub := rfl
@[simp] theorem Dev.memOp_latched (d : Dev) (o : MemOp) : (d.memOp o).latched = d.latched := rfl
@[simp] theorem Dev.memOp_staged (d : Dev) (o : MemOp) : (d.memOp o).staged = d.staged := rfl
@[simp] theorem Dev.memOp_ev (d : Dev) (o : MemOp) : (d.memOp o).ev = d.ev := rfl
@[simp] theorem Dev.memOp_pubEv (d : Dev) (o : MemOp) : (d.memOp o).pubEv = d.pubEv := rfl
@[simp] theorem Dev.memOp_cnt (d : Dev) (o : MemOp) : (d.memOp o).cnt = d.cnt := rfl
@[simp] theorem Dev.memOp_pubCnt (d : Dev) (o : MemOp) : (d.memOp o).pubCnt = d.pubCnt := rfl
@[simp] theorem Dev.memOp_dropEv (d : Dev) (o : MemOp) : (d.memOp o).dropEv = d.dropEv := rfl
@[simp] theorem Dev.memOp_dropCnt (d : Dev) (o : MemOp) : (d.memOp o).dropCnt = d.dropCnt := rfl
@[simp] theorem Dev.memOp_tot (d : Dev) (o : MemOp) : (d.memOp o).tot = d.tot := rfl
@[simp] theorem Dev.memOp_wm (d : Dev) (o : MemOp) : (d.memOp o).wm = d.wm := rfl
@[simp] theorem Dev.memOp_pubWm (d : Dev) (o : MemOp) : (d.memOp o).pubWm = d.pubWm := rfl
@[simp] theorem Dev.memOp_views (d : Dev) (o : MemOp) : (d.memOp o).views = d.views := rfl
@[simp] theorem Dev.memOp_expired (d : Dev) (o : MemOp) : (d.memOp o).expired = d.expired := rfl
@[simp] theorem Dev.memOp_pairs (d : Dev) (o : MemOp) : (d.memOp o).pairs = d.pairs := rfl
@[simp] theorem Dev.memOp_irq (d : Dev) (o : MemOp) : (d.memOp o).irq = d.irq := rfl
@[simp] theorem Dev.memOp_msix (d : Dev) (o : MemOp) : (d.memOp o).msix = d.msix := rfl
@[simp] theorem Dev.memOp_pba (d : Dev) (o : MemOp) : (d.memOp o).pba = d.pba := rfl
@[simp] theorem Dev.memOp_failed (d : Dev) (o : MemOp) : (d.memOp o).failed = d.failed := rfl
@[simp] theorem Dev.memOp_flash (d : Dev) (o : MemOp) : (d.memOp o).flash = d.flash := rfl
@[simp] theorem Dev.memOp_calFlash (d : Dev) (o : MemOp) : (d.memOp o).calFlash = d.calFlash := rfl
@[simp] theorem Dev.memOp_free (d : Dev) (o : MemOp) : (d.memOp o).free = d.free := rfl
@[simp] theorem Dev.memOp_out (d : Dev) (o : MemOp) : (d.memOp o).out = d.out := rfl
@[simp] theorem Dev.memOp_injUsed (d : Dev) (o : MemOp) : (d.memOp o).injUsed = d.injUsed := rfl

/-! ### Dev.fresh -/

@[simp] theorem Dev.fresh_chip (d : Dev)  : (d.fresh.2).chip = d.chip := rfl
@[simp] theorem Dev.fresh_pub (d : Dev)  : (d.fresh.2).pub = d.pub := rfl
@[simp] theorem Dev.fresh_latched (d : Dev)  : (d.fresh.2).latched = d.latched := rfl
@[simp] theorem Dev.fresh_staged (d : Dev)  : (d.fresh.2).staged = d.staged := rfl
@[simp] theorem Dev.fresh_ev (d : Dev)  : (d.fresh.2).ev = d.ev := rfl
@[simp] theorem Dev.fresh_pubEv (d : Dev)  : (d.fresh.2).pubEv = d.pubEv := rfl
@[simp] theorem Dev.fresh_cnt (d : Dev)  : (d.fresh.2).cnt = d.cnt := rfl
@[simp] theorem Dev.fresh_pubCnt (d : Dev)  : (d.fresh.2).pubCnt = d.pubCnt := rfl
@[simp] theorem Dev.fresh_dropEv (d : Dev)  : (d.fresh.2).dropEv = d.dropEv := rfl
@[simp] theorem Dev.fresh_dropCnt (d : Dev)  : (d.fresh.2).dropCnt = d.dropCnt := rfl
@[simp] theorem Dev.fresh_tot (d : Dev)  : (d.fresh.2).tot = d.tot := rfl
@[simp] theorem Dev.fresh_wm (d : Dev)  : (d.fresh.2).wm = d.wm := rfl
@[simp] theorem Dev.fresh_pubWm (d : Dev)  : (d.fresh.2).pubWm = d.pubWm := rfl
@[simp] theorem Dev.fresh_views (d : Dev)  : (d.fresh.2).views = d.views := rfl
@[simp] theorem Dev.fresh_expired (d : Dev)  : (d.fresh.2).expired = d.expired := rfl
@[simp] theorem Dev.fresh_pairs (d : Dev)  : (d.fresh.2).pairs = d.pairs := rfl
@[simp] theorem Dev.fresh_irq (d : Dev)  : (d.fresh.2).irq = d.irq := rfl
@[simp] theorem Dev.fresh_msix (d : Dev)  : (d.fresh.2).msix = d.msix := rfl
@[simp] theorem Dev.fresh_pba (d : Dev)  : (d.fresh.2).pba = d.pba := rfl
@[simp] theorem Dev.fresh_failed (d : Dev)  : (d.fresh.2).failed = d.failed := rfl
@[simp] theorem Dev.fresh_flash (d : Dev)  : (d.fresh.2).flash = d.flash := rfl
@[simp] theorem Dev.fresh_calFlash (d : Dev)  : (d.fresh.2).calFlash = d.calFlash := rfl
@[simp] theorem Dev.fresh_out (d : Dev)  : (d.fresh.2).out = d.out := rfl
@[simp] theorem Dev.fresh_wr (d : Dev)  : (d.fresh.2).wr = d.wr := rfl
@[simp] theorem Dev.fresh_injUsed (d : Dev)  : (d.fresh.2).injUsed = d.injUsed := rfl

/-! ### Dev.freshSr -/

@[simp] theorem Dev.freshSr_chip (d : Dev)  : (d.freshSr.2).chip = d.chip := rfl
@[simp] theorem Dev.freshSr_pub (d : Dev)  : (d.freshSr.2).pub = d.pub := rfl
@[simp] theorem Dev.freshSr_latched (d : Dev)  : (d.freshSr.2).latched = d.latched := rfl
@[simp] theorem Dev.freshSr_staged (d : Dev)  : (d.freshSr.2).staged = d.staged := rfl
@[simp] theorem Dev.freshSr_ev (d : Dev)  : (d.freshSr.2).ev = d.ev := rfl
@[simp] theorem Dev.freshSr_pubEv (d : Dev)  : (d.freshSr.2).pubEv = d.pubEv := rfl
@[simp] theorem Dev.freshSr_cnt (d : Dev)  : (d.freshSr.2).cnt = d.cnt := rfl
@[simp] theorem Dev.freshSr_pubCnt (d : Dev)  : (d.freshSr.2).pubCnt = d.pubCnt := rfl
@[simp] theorem Dev.freshSr_dropEv (d : Dev)  : (d.freshSr.2).dropEv = d.dropEv := rfl
@[simp] theorem Dev.freshSr_dropCnt (d : Dev)  : (d.freshSr.2).dropCnt = d.dropCnt := rfl
@[simp] theorem Dev.freshSr_tot (d : Dev)  : (d.freshSr.2).tot = d.tot := rfl
@[simp] theorem Dev.freshSr_wm (d : Dev)  : (d.freshSr.2).wm = d.wm := rfl
@[simp] theorem Dev.freshSr_pubWm (d : Dev)  : (d.freshSr.2).pubWm = d.pubWm := rfl
@[simp] theorem Dev.freshSr_views (d : Dev)  : (d.freshSr.2).views = d.views := rfl
@[simp] theorem Dev.freshSr_expired (d : Dev)  : (d.freshSr.2).expired = d.expired := rfl
@[simp] theorem Dev.freshSr_pairs (d : Dev)  : (d.freshSr.2).pairs = d.pairs := rfl
@[simp] theorem Dev.freshSr_irq (d : Dev)  : (d.freshSr.2).irq = d.irq := rfl
@[simp] theorem Dev.freshSr_msix (d : Dev)  : (d.freshSr.2).msix = d.msix := rfl
@[simp] theorem Dev.freshSr_pba (d : Dev)  : (d.freshSr.2).pba = d.pba := rfl
@[simp] theorem Dev.freshSr_failed (d : Dev)  : (d.freshSr.2).failed = d.failed := rfl
@[simp] theorem Dev.freshSr_flash (d : Dev)  : (d.freshSr.2).flash = d.flash := rfl
@[simp] theorem Dev.freshSr_calFlash (d : Dev)  : (d.freshSr.2).calFlash = d.calFlash := rfl
@[simp] theorem Dev.freshSr_out (d : Dev)  : (d.freshSr.2).out = d.out := rfl
@[simp] theorem Dev.freshSr_wr (d : Dev)  : (d.freshSr.2).wr = d.wr := rfl
@[simp] theorem Dev.freshSr_injUsed (d : Dev)  : (d.freshSr.2).injUsed = d.injUsed := rfl

/-! ### Dev.stage -/

@[simp] theorem Dev.stage_chip (d : Dev) (r : Requester) (t k m v : Nat) : (d.stage r t k m v).chip = d.chip := rfl
@[simp] theorem Dev.stage_pub (d : Dev) (r : Requester) (t k m v : Nat) : (d.stage r t k m v).pub = d.pub := rfl
@[simp] theorem Dev.stage_latched (d : Dev) (r : Requester) (t k m v : Nat) : (d.stage r t k m v).latched = d.latched := rfl
@[simp] theorem Dev.stage_ev (d : Dev) (r : Requester) (t k m v : Nat) : (d.stage r t k m v).ev = d.ev := rfl
@[simp] theorem Dev.stage_pubEv (d : Dev) (r : Requester) (t k m v : Nat) : (d.stage r t k m v).pubEv = d.pubEv := rfl
@[simp] theorem Dev.stage_cnt (d : Dev) (r : Requester) (t k m v : Nat) : (d.stage r t k m v).cnt = d.cnt := rfl
@[simp] theorem Dev.stage_pubCnt (d : Dev) (r : Requester) (t k m v : Nat) : (d.stage r t k m v).pubCnt = d.pubCnt := rfl
@[simp] theorem Dev.stage_dropEv (d : Dev) (r : Requester) (t k m v : Nat) : (d.stage r t k m v).dropEv = d.dropEv := rfl
@[simp] theorem Dev.stage_dropCnt (d : Dev) (r : Requester) (t k m v : Nat) : (d.stage r t k m v).dropCnt = d.dropCnt := rfl
@[simp] theorem Dev.stage_tot (d : Dev) (r : Requester) (t k m v : Nat) : (d.stage r t k m v).tot = d.tot := rfl
@[simp] theorem Dev.stage_wm (d : Dev) (r : Requester) (t k m v : Nat) : (d.stage r t k m v).wm = d.wm := rfl
@[simp] theorem Dev.stage_pubWm (d : Dev) (r : Requester) (t k m v : Nat) : (d.stage r t k m v).pubWm = d.pubWm := rfl
@[simp] theorem Dev.stage_views (d : Dev) (r : Requester) (t k m v : Nat) : (d.stage r t k m v).views = d.views := rfl
@[simp] theorem Dev.stage_expired (d : Dev) (r : Requester) (t k m v : Nat) : (d.stage r t k m v).expired = d.expired := rfl
@[simp] theorem Dev.stage_pairs (d : Dev) (r : Requester) (t k m v : Nat) : (d.stage r t k m v).pairs = d.pairs := rfl
@[simp] theorem Dev.stage_irq (d : Dev) (r : Requester) (t k m v : Nat) : (d.stage r t k m v).irq = d.irq := rfl
@[simp] theorem Dev.stage_msix (d : Dev) (r : Requester) (t k m v : Nat) : (d.stage r t k m v).msix = d.msix := rfl
@[simp] theorem Dev.stage_pba (d : Dev) (r : Requester) (t k m v : Nat) : (d.stage r t k m v).pba = d.pba := rfl
@[simp] theorem Dev.stage_failed (d : Dev) (r : Requester) (t k m v : Nat) : (d.stage r t k m v).failed = d.failed := rfl
@[simp] theorem Dev.stage_flash (d : Dev) (r : Requester) (t k m v : Nat) : (d.stage r t k m v).flash = d.flash := rfl
@[simp] theorem Dev.stage_calFlash (d : Dev) (r : Requester) (t k m v : Nat) : (d.stage r t k m v).calFlash = d.calFlash := rfl
@[simp] theorem Dev.stage_free (d : Dev) (r : Requester) (t k m v : Nat) : (d.stage r t k m v).free = d.free := rfl
@[simp] theorem Dev.stage_out (d : Dev) (r : Requester) (t k m v : Nat) : (d.stage r t k m v).out = d.out := rfl
@[simp] theorem Dev.stage_wr (d : Dev) (r : Requester) (t k m v : Nat) : (d.stage r t k m v).wr = d.wr := rfl
@[simp] theorem Dev.stage_injUsed (d : Dev) (r : Requester) (t k m v : Nat) : (d.stage r t k m v).injUsed = d.injUsed := rfl

/-! ### What the updates change -/

/-- The chip after a change of the chip. -/
@[simp] theorem Dev.onChip_chip (d : Dev) (g : Chip → Chip) : (d.onChip g).chip = g d.chip := rfl
/-- What was sent out after one more item. -/
@[simp] theorem Dev.emit_out (d : Dev) (o : Out) : (d.emit o).out = d.out ++ [o] := rfl
/-- The memory operations after one more. -/
@[simp] theorem Dev.memOp_wr (d : Dev) (o : MemOp) : (d.memOp o).wr = d.wr ++ [o] := rfl
/-- The running number of free values after one was taken. -/
@[simp] theorem Dev.fresh_free (d : Dev) : d.fresh.2.free = d.free + 1 := rfl
/-- The value taken. -/
@[simp] theorem Dev.fresh_fst (d : Dev) : d.fresh.1 = Config.free d.free := rfl
/-- The staged writes after one more (R56). -/
@[simp] theorem Dev.stage_staged (d : Dev) (r : Requester) (t k m v : Nat) :
    (d.stage r t k m v).staged = d.staged ++ [⟨k, m, v &&& m, d.chip.dueFrame t, r⟩] := rfl

/-! ### Parts of the chip -/

/-- As a change of the chip. -/
@[simp] theorem Dev.onTow_eq (d : Dev) (g : Towers → Towers) : d.onTow g = d.onChip fun c => { c with tow := g c.tow } := rfl
/-- As a change of the chip. -/
@[simp] theorem Dev.onHall_eq (d : Dev) (g : Hall → Hall) : d.onHall g = d.onChip fun c => { c with hall := g c.hall } := rfl
/-- As a change of the chip. -/
@[simp] theorem Dev.onLight_eq (d : Dev) (g : Light → Light) : d.onLight g = d.onChip fun c => { c with light := g c.light } := rfl
/-- As a change of the chip. -/
@[simp] theorem Dev.onCel_eq (d : Dev) (g : Cellar → Cellar) : d.onCel g = d.onChip fun c => { c with cel := g c.cel } := rfl
/-- As a change of the chip. -/
@[simp] theorem Dev.onJil_eq (d : Dev) (g : Jilia → Jilia) : d.onJil g = d.onChip fun c => { c with jil := g c.jil } := rfl
/-- As a change of the chip. -/
@[simp] theorem Dev.onBit_eq (d : Dev) (g : Bit → Bit) : d.onBit g = d.onChip fun c => { c with bit := g c.bit } := rfl
/-- As a change of the chip. -/
@[simp] theorem Dev.onSec_eq (d : Dev) (g : Sec → Sec) : d.onSec g = d.onChip fun c => { c with sec := g c.sec } := rfl
/-- As a change of the chip. -/
@[simp] theorem Dev.onSnap_eq (d : Dev) (g : Snap → Snap) : d.onSnap g = d.onChip fun c => { c with snap := g c.snap } := rfl
/-- As a change of the chip. -/
@[simp] theorem Dev.onCal_eq (d : Dev) (g : Calib → Calib) : d.onCal g = d.onChip fun c => { c with cal := g c.cal } := rfl
/-- As a change of the chip. -/
@[simp] theorem Dev.onThm_eq (d : Dev) (g : Thermal → Thermal) : d.onThm g = d.onChip fun c => { c with thm := g c.thm } := rfl
/-- As a change of the chip. -/
@[simp] theorem Dev.onPwr_eq (d : Dev) (g : Power → Power) : d.onPwr g = d.onChip fun c => { c with pwr := g c.pwr } := rfl
/-- As a change of the chip. -/
@[simp] theorem Dev.onInteg_eq (d : Dev) (g : Integ → Integ) : d.onInteg g = d.onChip fun c => { c with integ := g c.integ } := rfl
/-- As a change of the chip. -/
@[simp] theorem Dev.onHost_eq (d : Dev) (g : HostIf → HostIf) : d.onHost g = d.onChip fun c => { c with host := g c.host } := rfl
/-- As a change of the chip. -/
@[simp] theorem Dev.onSeq_eq (d : Dev) (g : Seqs → Seqs) : d.onSeq g = d.onChip fun c => { c with seq := g c.seq } := rfl
/-- As a change of the chip. -/
@[simp] theorem Dev.onSync_eq (d : Dev) (g : Sync → Sync) : d.onSync g = d.onChip fun c => { c with frm := { c.frm with sync := g c.frm.sync } } := rfl
/-- As a change of the chip. -/
@[simp] theorem Dev.onCore_eq (d : Dev) (n : Nat) (g : Core → Core) : d.onCore n g = d.onChip fun c => c.setCore n (g (c.core n)) := rfl
/-- As a change of the chip. -/
@[simp] theorem Dev.onRoom_eq (d : Dev) (r : Nat) (g : Room → Room) : d.onRoom r g = d.onChip fun c => { c with rooms := Tab.upd {} c.rooms r g } := rfl
/-- As a change of the chip. -/
@[simp] theorem Dev.onBlock_eq (d : Dev) (k : Nat) (g : Block → Block) : d.onBlock k g = d.onChip fun c => c.setBlock k (g (c.block k)) := rfl
/-- As a change of the chip. -/
@[simp] theorem Dev.onBundle_eq (d : Dev) (b : Nat) (g : Bundle → Bundle) : d.onBundle b g = d.onChip fun c => { c with hall := { c.hall with bundles := Tab.upd {} c.hall.bundles b g } } := rfl
/-- As a change of the chip. -/
@[simp] theorem Dev.onSlice_eq (d : Dev) (k : Nat) (g : Slice → Slice) : d.onSlice k g = d.onChip fun c => { c with cel := { c.cel with slices := Tab.upd {} c.cel.slices k g } } := rfl
/-- As a change of the chip. -/
@[simp] theorem Dev.onPort_eq (d : Dev) (q : Nat) (g : Port → Port) : d.onPort q g = d.onChip fun c => { c with jil := { c.jil with ports := Tab.upd {} c.jil.ports q g } } := rfl
/-- As a change of the chip. -/
@[simp] theorem Dev.onRing_eq (d : Dev) (k : Nat) (g : Ring → Ring) : d.onRing k g = d.onChip fun c => { c with light := { c.light with rings := Tab.upd {} c.light.rings k g } } := rfl
/-- As a change of the chip. -/
@[simp] theorem Dev.onSrc_eq (d : Dev) (k : Nat) (g : Src → Src) : d.onSrc k g = d.onChip fun c => { c with light := { c.light with srcs := Tab.upd {} c.light.srcs k g } } := rfl
/-- As a change of the chip. -/
@[simp] theorem Dev.onSensor_eq (d : Dev) (k : Nat) (g : Sensor → Sensor) : d.onSensor k g = d.onChip fun c => { c with thm := { c.thm with sensors := Tab.upd {} c.thm.sensors k g } } := rfl

/-! ### Chip.setReg -/

@[simp] theorem Chip.setReg_pins (c : Chip) (k : Nat) (v : Word) : (c.setReg k v).pins = c.pins := rfl
@[simp] theorem Chip.setReg_boot (c : Chip) (k : Nat) (v : Word) : (c.setReg k v).boot = c.boot := rfl
@[simp] theorem Chip.setReg_blocks (c : Chip) (k : Nat) (v : Word) : (c.setReg k v).blocks = c.blocks := rfl
@[simp] theorem Chip.setReg_seq (c : Chip) (k : Nat) (v : Word) : (c.setReg k v).seq = c.seq := rfl
@[simp] theorem Chip.setReg_frm (c : Chip) (k : Nat) (v : Word) : (c.setReg k v).frm = c.frm := rfl
@[simp] theorem Chip.setReg_snap (c : Chip) (k : Nat) (v : Word) : (c.setReg k v).snap = c.snap := rfl
@[simp] theorem Chip.setReg_integ (c : Chip) (k : Nat) (v : Word) : (c.setReg k v).integ = c.integ := rfl
@[simp] theorem Chip.setReg_tow (c : Chip) (k : Nat) (v : Word) : (c.setReg k v).tow = c.tow := rfl
@[simp] theorem Chip.setReg_bit (c : Chip) (k : Nat) (v : Word) : (c.setReg k v).bit = c.bit := rfl
@[simp] theorem Chip.setReg_rooms (c : Chip) (k : Nat) (v : Word) : (c.setReg k v).rooms = c.rooms := rfl
@[simp] theorem Chip.setReg_que (c : Chip) (k : Nat) (v : Word) : (c.setReg k v).que = c.que := rfl
@[simp] theorem Chip.setReg_hall (c : Chip) (k : Nat) (v : Word) : (c.setReg k v).hall = c.hall := rfl
@[simp] theorem Chip.setReg_light (c : Chip) (k : Nat) (v : Word) : (c.setReg k v).light = c.light := rfl
@[simp] theorem Chip.setReg_sec (c : Chip) (k : Nat) (v : Word) : (c.setReg k v).sec = c.sec := rfl
@[simp] theorem Chip.setReg_cel (c : Chip) (k : Nat) (v : Word) : (c.setReg k v).cel = c.cel := rfl
@[simp] theorem Chip.setReg_jil (c : Chip) (k : Nat) (v : Word) : (c.setReg k v).jil = c.jil := rfl
@[simp] theorem Chip.setReg_pwr (c : Chip) (k : Nat) (v : Word) : (c.setReg k v).pwr = c.pwr := rfl
@[simp] theorem Chip.setReg_thm (c : Chip) (k : Nat) (v : Word) : (c.setReg k v).thm = c.thm := rfl
@[simp] theorem Chip.setReg_cal (c : Chip) (k : Nat) (v : Word) : (c.setReg k v).cal = c.cal := rfl
@[simp] theorem Chip.setReg_host (c : Chip) (k : Nat) (v : Word) : (c.setReg k v).host = c.host := rfl

/-! ### Chip.setCore -/

@[simp] theorem Chip.setCore_pins (c : Chip) (n : Nat) (v : Core) : (c.setCore n v).pins = c.pins := rfl
@[simp] theorem Chip.setCore_boot (c : Chip) (n : Nat) (v : Core) : (c.setCore n v).boot = c.boot := rfl
@[simp] theorem Chip.setCore_blocks (c : Chip) (n : Nat) (v : Core) : (c.setCore n v).blocks = c.blocks := rfl
@[simp] theorem Chip.setCore_seq (c : Chip) (n : Nat) (v : Core) : (c.setCore n v).seq = c.seq := rfl
@[simp] theorem Chip.setCore_frm (c : Chip) (n : Nat) (v : Core) : (c.setCore n v).frm = c.frm := rfl
@[simp] theorem Chip.setCore_snap (c : Chip) (n : Nat) (v : Core) : (c.setCore n v).snap = c.snap := rfl
@[simp] theorem Chip.setCore_regs (c : Chip) (n : Nat) (v : Core) : (c.setCore n v).regs = c.regs := rfl
@[simp] theorem Chip.setCore_integ (c : Chip) (n : Nat) (v : Core) : (c.setCore n v).integ = c.integ := rfl
@[simp] theorem Chip.setCore_bit (c : Chip) (n : Nat) (v : Core) : (c.setCore n v).bit = c.bit := rfl
@[simp] theorem Chip.setCore_rooms (c : Chip) (n : Nat) (v : Core) : (c.setCore n v).rooms = c.rooms := rfl
@[simp] theorem Chip.setCore_que (c : Chip) (n : Nat) (v : Core) : (c.setCore n v).que = c.que := rfl
@[simp] theorem Chip.setCore_hall (c : Chip) (n : Nat) (v : Core) : (c.setCore n v).hall = c.hall := rfl
@[simp] theorem Chip.setCore_light (c : Chip) (n : Nat) (v : Core) : (c.setCore n v).light = c.light := rfl
@[simp] theorem Chip.setCore_sec (c : Chip) (n : Nat) (v : Core) : (c.setCore n v).sec = c.sec := rfl
@[simp] theorem Chip.setCore_cel (c : Chip) (n : Nat) (v : Core) : (c.setCore n v).cel = c.cel := rfl
@[simp] theorem Chip.setCore_jil (c : Chip) (n : Nat) (v : Core) : (c.setCore n v).jil = c.jil := rfl
@[simp] theorem Chip.setCore_pwr (c : Chip) (n : Nat) (v : Core) : (c.setCore n v).pwr = c.pwr := rfl
@[simp] theorem Chip.setCore_thm (c : Chip) (n : Nat) (v : Core) : (c.setCore n v).thm = c.thm := rfl
@[simp] theorem Chip.setCore_cal (c : Chip) (n : Nat) (v : Core) : (c.setCore n v).cal = c.cal := rfl
@[simp] theorem Chip.setCore_host (c : Chip) (n : Nat) (v : Core) : (c.setCore n v).host = c.host := rfl

/-! ### Chip.setBlock -/

@[simp] theorem Chip.setBlock_pins (c : Chip) (k : Nat) (b : Block) : (c.setBlock k b).pins = c.pins := rfl
@[simp] theorem Chip.setBlock_boot (c : Chip) (k : Nat) (b : Block) : (c.setBlock k b).boot = c.boot := rfl
@[simp] theorem Chip.setBlock_seq (c : Chip) (k : Nat) (b : Block) : (c.setBlock k b).seq = c.seq := rfl
@[simp] theorem Chip.setBlock_frm (c : Chip) (k : Nat) (b : Block) : (c.setBlock k b).frm = c.frm := rfl
@[simp] theorem Chip.setBlock_snap (c : Chip) (k : Nat) (b : Block) : (c.setBlock k b).snap = c.snap := rfl
@[simp] theorem Chip.setBlock_regs (c : Chip) (k : Nat) (b : Block) : (c.setBlock k b).regs = c.regs := rfl
@[simp] theorem Chip.setBlock_integ (c : Chip) (k : Nat) (b : Block) : (c.setBlock k b).integ = c.integ := rfl
@[simp] theorem Chip.setBlock_tow (c : Chip) (k : Nat) (b : Block) : (c.setBlock k b).tow = c.tow := rfl
@[simp] theorem Chip.setBlock_bit (c : Chip) (k : Nat) (b : Block) : (c.setBlock k b).bit = c.bit := rfl
@[simp] theorem Chip.setBlock_rooms (c : Chip) (k : Nat) (b : Block) : (c.setBlock k b).rooms = c.rooms := rfl
@[simp] theorem Chip.setBlock_que (c : Chip) (k : Nat) (b : Block) : (c.setBlock k b).que = c.que := rfl
@[simp] theorem Chip.setBlock_hall (c : Chip) (k : Nat) (b : Block) : (c.setBlock k b).hall = c.hall := rfl
@[simp] theorem Chip.setBlock_light (c : Chip) (k : Nat) (b : Block) : (c.setBlock k b).light = c.light := rfl
@[simp] theorem Chip.setBlock_sec (c : Chip) (k : Nat) (b : Block) : (c.setBlock k b).sec = c.sec := rfl
@[simp] theorem Chip.setBlock_cel (c : Chip) (k : Nat) (b : Block) : (c.setBlock k b).cel = c.cel := rfl
@[simp] theorem Chip.setBlock_jil (c : Chip) (k : Nat) (b : Block) : (c.setBlock k b).jil = c.jil := rfl
@[simp] theorem Chip.setBlock_pwr (c : Chip) (k : Nat) (b : Block) : (c.setBlock k b).pwr = c.pwr := rfl
@[simp] theorem Chip.setBlock_thm (c : Chip) (k : Nat) (b : Block) : (c.setBlock k b).thm = c.thm := rfl
@[simp] theorem Chip.setBlock_cal (c : Chip) (k : Nat) (b : Block) : (c.setBlock k b).cal = c.cal := rfl
@[simp] theorem Chip.setBlock_host (c : Chip) (k : Nat) (b : Block) : (c.setBlock k b).host = c.host := rfl

/-! ### Register files of a core (R119) -/

@[simp] theorem Core.wrW_s (c : Core) (i : Nat) (v : BitVec 2048) : (c.wrW i v).s = c.s := rfl
@[simp] theorem Core.wrW_p (c : Core) (i : Nat) (v : BitVec 2048) : (c.wrW i v).p = c.p := rfl
@[simp] theorem Core.wrW_m (c : Core) (i : Nat) (v : BitVec 2048) : (c.wrW i v).m = c.m := rfl
@[simp] theorem Core.wrW_d (c : Core) (i : Nat) (v : BitVec 2048) : (c.wrW i v).d = c.d := rfl
@[simp] theorem Core.wrW_b (c : Core) (i : Nat) (v : BitVec 2048) : (c.wrW i v).b = c.b := rfl
@[simp] theorem Core.wrW_loops (c : Core) (i : Nat) (v : BitVec 2048) : (c.wrW i v).loops = c.loops := rfl
@[simp] theorem Core.wrW_flags (c : Core) (i : Nat) (v : BitVec 2048) : (c.wrW i v).flags = c.flags := rfl
@[simp] theorem Core.wrW_tol (c : Core) (i : Nat) (v : BitVec 2048) : (c.wrW i v).tol = c.tol := rfl
@[simp] theorem Core.wrW_pc (c : Core) (i : Nat) (v : BitVec 2048) : (c.wrW i v).pc = c.pc := rfl
@[simp] theorem Core.wrW_st (c : Core) (i : Nat) (v : BitVec 2048) : (c.wrW i v).st = c.st := rfl
@[simp] theorem Core.wrW_wait (c : Core) (i : Nat) (v : BitVec 2048) : (c.wrW i v).wait = c.wait := rfl
@[simp] theorem Core.wrW_replay (c : Core) (i : Nat) (v : BitVec 2048) : (c.wrW i v).replay = c.replay := rfl
@[simp] theorem Core.wrW_moveQ (c : Core) (i : Nat) (v : BitVec 2048) : (c.wrW i v).moveQ = c.moveQ := rfl
@[simp] theorem Core.wrW_matQ (c : Core) (i : Nat) (v : BitVec 2048) : (c.wrW i v).matQ = c.matQ := rfl
@[simp] theorem Core.wrW_vecQ (c : Core) (i : Nat) (v : BitVec 2048) : (c.wrW i v).vecQ = c.vecQ := rfl
@[simp] theorem Core.wrW_flight (c : Core) (i : Nat) (v : BitVec 2048) : (c.wrW i v).flight = c.flight := rfl
@[simp] theorem Core.wrW_lastMat (c : Core) (i : Nat) (v : BitVec 2048) : (c.wrW i v).lastMat = c.lastMat := rfl
@[simp] theorem Core.wrW_abuf (c : Core) (i : Nat) (v : BitVec 2048) : (c.wrW i v).abuf = c.abuf := rfl
@[simp] theorem Core.wrW_istore (c : Core) (i : Nat) (v : BitVec 2048) : (c.wrW i v).istore = c.istore := rfl
@[simp] theorem Core.wrW_entry (c : Core) (i : Nat) (v : BitVec 2048) : (c.wrW i v).entry = c.entry := rfl
@[simp] theorem Core.wrW_trappedNow (c : Core) (i : Nat) (v : BitVec 2048) : (c.wrW i v).trappedNow = c.trappedNow := rfl
@[simp] theorem Core.wrW_trapCode (c : Core) (i : Nat) (v : BitVec 2048) : (c.wrW i v).trapCode = c.trapCode := rfl
@[simp] theorem Core.wrW_trapAddr (c : Core) (i : Nat) (v : BitVec 2048) : (c.wrW i v).trapAddr = c.trapAddr := rfl
@[simp] theorem Core.wrW_userCode (c : Core) (i : Nat) (v : BitVec 2048) : (c.wrW i v).userCode = c.userCode := rfl
@[simp] theorem Core.wrW_endAddr (c : Core) (i : Nat) (v : BitVec 2048) : (c.wrW i v).endAddr = c.endAddr := rfl
@[simp] theorem Core.wrW_endCycles (c : Core) (i : Nat) (v : BitVec 2048) : (c.wrW i v).endCycles = c.endCycles := rfl
@[simp] theorem Core.wrW_endAt (c : Core) (i : Nat) (v : BitVec 2048) : (c.wrW i v).endAt = c.endAt := rfl
@[simp] theorem Core.wrW_endAddrC (c : Core) (i : Nat) (v : BitVec 2048) : (c.wrW i v).endAddrC = c.endAddrC := rfl
@[simp] theorem Core.wrW_usedC (c : Core) (i : Nat) (v : BitVec 2048) : (c.wrW i v).usedC = c.usedC := rfl
@[simp] theorem Core.wrW_arrived (c : Core) (i : Nat) (v : BitVec 2048) : (c.wrW i v).arrived = c.arrived := rfl
@[simp] theorem Core.wrW_done (c : Core) (i : Nat) (v : BitVec 2048) : (c.wrW i v).done = c.done := rfl
@[simp] theorem Core.wrW_sends (c : Core) (i : Nat) (v : BitVec 2048) : (c.wrW i v).sends = c.sends := rfl
@[simp] theorem Core.wrW_held (c : Core) (i : Nat) (v : BitVec 2048) : (c.wrW i v).held = c.held := rfl
@[simp] theorem Core.wrD_s (c : Core) (i : Nat) (v : BitVec 256) : (c.wrD i v).s = c.s := rfl
@[simp] theorem Core.wrD_p (c : Core) (i : Nat) (v : BitVec 256) : (c.wrD i v).p = c.p := rfl
@[simp] theorem Core.wrD_m (c : Core) (i : Nat) (v : BitVec 256) : (c.wrD i v).m = c.m := rfl
@[simp] theorem Core.wrD_w (c : Core) (i : Nat) (v : BitVec 256) : (c.wrD i v).w = c.w := rfl
@[simp] theorem Core.wrD_b (c : Core) (i : Nat) (v : BitVec 256) : (c.wrD i v).b = c.b := rfl
@[simp] theorem Core.wrD_loops (c : Core) (i : Nat) (v : BitVec 256) : (c.wrD i v).loops = c.loops := rfl
@[simp] theorem Core.wrD_flags (c : Core) (i : Nat) (v : BitVec 256) : (c.wrD i v).flags = c.flags := rfl
@[simp] theorem Core.wrD_tol (c : Core) (i : Nat) (v : BitVec 256) : (c.wrD i v).tol = c.tol := rfl
@[simp] theorem Core.wrD_pc (c : Core) (i : Nat) (v : BitVec 256) : (c.wrD i v).pc = c.pc := rfl
@[simp] theorem Core.wrD_st (c : Core) (i : Nat) (v : BitVec 256) : (c.wrD i v).st = c.st := rfl
@[simp] theorem Core.wrD_wait (c : Core) (i : Nat) (v : BitVec 256) : (c.wrD i v).wait = c.wait := rfl
@[simp] theorem Core.wrD_replay (c : Core) (i : Nat) (v : BitVec 256) : (c.wrD i v).replay = c.replay := rfl
@[simp] theorem Core.wrD_moveQ (c : Core) (i : Nat) (v : BitVec 256) : (c.wrD i v).moveQ = c.moveQ := rfl
@[simp] theorem Core.wrD_matQ (c : Core) (i : Nat) (v : BitVec 256) : (c.wrD i v).matQ = c.matQ := rfl
@[simp] theorem Core.wrD_vecQ (c : Core) (i : Nat) (v : BitVec 256) : (c.wrD i v).vecQ = c.vecQ := rfl
@[simp] theorem Core.wrD_flight (c : Core) (i : Nat) (v : BitVec 256) : (c.wrD i v).flight = c.flight := rfl
@[simp] theorem Core.wrD_lastMat (c : Core) (i : Nat) (v : BitVec 256) : (c.wrD i v).lastMat = c.lastMat := rfl
@[simp] theorem Core.wrD_abuf (c : Core) (i : Nat) (v : BitVec 256) : (c.wrD i v).abuf = c.abuf := rfl
@[simp] theorem Core.wrD_istore (c : Core) (i : Nat) (v : BitVec 256) : (c.wrD i v).istore = c.istore := rfl
@[simp] theorem Core.wrD_entry (c : Core) (i : Nat) (v : BitVec 256) : (c.wrD i v).entry = c.entry := rfl
@[simp] theorem Core.wrD_trappedNow (c : Core) (i : Nat) (v : BitVec 256) : (c.wrD i v).trappedNow = c.trappedNow := rfl
@[simp] theorem Core.wrD_trapCode (c : Core) (i : Nat) (v : BitVec 256) : (c.wrD i v).trapCode = c.trapCode := rfl
@[simp] theorem Core.wrD_trapAddr (c : Core) (i : Nat) (v : BitVec 256) : (c.wrD i v).trapAddr = c.trapAddr := rfl
@[simp] theorem Core.wrD_userCode (c : Core) (i : Nat) (v : BitVec 256) : (c.wrD i v).userCode = c.userCode := rfl
@[simp] theorem Core.wrD_endAddr (c : Core) (i : Nat) (v : BitVec 256) : (c.wrD i v).endAddr = c.endAddr := rfl
@[simp] theorem Core.wrD_endCycles (c : Core) (i : Nat) (v : BitVec 256) : (c.wrD i v).endCycles = c.endCycles := rfl
@[simp] theorem Core.wrD_endAt (c : Core) (i : Nat) (v : BitVec 256) : (c.wrD i v).endAt = c.endAt := rfl
@[simp] theorem Core.wrD_endAddrC (c : Core) (i : Nat) (v : BitVec 256) : (c.wrD i v).endAddrC = c.endAddrC := rfl
@[simp] theorem Core.wrD_usedC (c : Core) (i : Nat) (v : BitVec 256) : (c.wrD i v).usedC = c.usedC := rfl
@[simp] theorem Core.wrD_arrived (c : Core) (i : Nat) (v : BitVec 256) : (c.wrD i v).arrived = c.arrived := rfl
@[simp] theorem Core.wrD_done (c : Core) (i : Nat) (v : BitVec 256) : (c.wrD i v).done = c.done := rfl
@[simp] theorem Core.wrD_sends (c : Core) (i : Nat) (v : BitVec 256) : (c.wrD i v).sends = c.sends := rfl
@[simp] theorem Core.wrD_held (c : Core) (i : Nat) (v : BitVec 256) : (c.wrD i v).held = c.held := rfl
@[simp] theorem Core.wrB_s (c : Core) (i : Nat) (v : Bank) : (c.wrB i v).s = c.s := rfl
@[simp] theorem Core.wrB_p (c : Core) (i : Nat) (v : Bank) : (c.wrB i v).p = c.p := rfl
@[simp] theorem Core.wrB_m (c : Core) (i : Nat) (v : Bank) : (c.wrB i v).m = c.m := rfl
@[simp] theorem Core.wrB_w (c : Core) (i : Nat) (v : Bank) : (c.wrB i v).w = c.w := rfl
@[simp] theorem Core.wrB_d (c : Core) (i : Nat) (v : Bank) : (c.wrB i v).d = c.d := rfl
@[simp] theorem Core.wrB_loops (c : Core) (i : Nat) (v : Bank) : (c.wrB i v).loops = c.loops := rfl
@[simp] theorem Core.wrB_flags (c : Core) (i : Nat) (v : Bank) : (c.wrB i v).flags = c.flags := rfl
@[simp] theorem Core.wrB_tol (c : Core) (i : Nat) (v : Bank) : (c.wrB i v).tol = c.tol := rfl
@[simp] theorem Core.wrB_pc (c : Core) (i : Nat) (v : Bank) : (c.wrB i v).pc = c.pc := rfl
@[simp] theorem Core.wrB_st (c : Core) (i : Nat) (v : Bank) : (c.wrB i v).st = c.st := rfl
@[simp] theorem Core.wrB_wait (c : Core) (i : Nat) (v : Bank) : (c.wrB i v).wait = c.wait := rfl
@[simp] theorem Core.wrB_replay (c : Core) (i : Nat) (v : Bank) : (c.wrB i v).replay = c.replay := rfl
@[simp] theorem Core.wrB_moveQ (c : Core) (i : Nat) (v : Bank) : (c.wrB i v).moveQ = c.moveQ := rfl
@[simp] theorem Core.wrB_matQ (c : Core) (i : Nat) (v : Bank) : (c.wrB i v).matQ = c.matQ := rfl
@[simp] theorem Core.wrB_vecQ (c : Core) (i : Nat) (v : Bank) : (c.wrB i v).vecQ = c.vecQ := rfl
@[simp] theorem Core.wrB_flight (c : Core) (i : Nat) (v : Bank) : (c.wrB i v).flight = c.flight := rfl
@[simp] theorem Core.wrB_lastMat (c : Core) (i : Nat) (v : Bank) : (c.wrB i v).lastMat = c.lastMat := rfl
@[simp] theorem Core.wrB_abuf (c : Core) (i : Nat) (v : Bank) : (c.wrB i v).abuf = c.abuf := rfl
@[simp] theorem Core.wrB_istore (c : Core) (i : Nat) (v : Bank) : (c.wrB i v).istore = c.istore := rfl
@[simp] theorem Core.wrB_entry (c : Core) (i : Nat) (v : Bank) : (c.wrB i v).entry = c.entry := rfl
@[simp] theorem Core.wrB_trappedNow (c : Core) (i : Nat) (v : Bank) : (c.wrB i v).trappedNow = c.trappedNow := rfl
@[simp] theorem Core.wrB_trapCode (c : Core) (i : Nat) (v : Bank) : (c.wrB i v).trapCode = c.trapCode := rfl
@[simp] theorem Core.wrB_trapAddr (c : Core) (i : Nat) (v : Bank) : (c.wrB i v).trapAddr = c.trapAddr := rfl
@[simp] theorem Core.wrB_userCode (c : Core) (i : Nat) (v : Bank) : (c.wrB i v).userCode = c.userCode := rfl
@[simp] theorem Core.wrB_endAddr (c : Core) (i : Nat) (v : Bank) : (c.wrB i v).endAddr = c.endAddr := rfl
@[simp] theorem Core.wrB_endCycles (c : Core) (i : Nat) (v : Bank) : (c.wrB i v).endCycles = c.endCycles := rfl
@[simp] theorem Core.wrB_endAt (c : Core) (i : Nat) (v : Bank) : (c.wrB i v).endAt = c.endAt := rfl
@[simp] theorem Core.wrB_endAddrC (c : Core) (i : Nat) (v : Bank) : (c.wrB i v).endAddrC = c.endAddrC := rfl
@[simp] theorem Core.wrB_usedC (c : Core) (i : Nat) (v : Bank) : (c.wrB i v).usedC = c.usedC := rfl
@[simp] theorem Core.wrB_arrived (c : Core) (i : Nat) (v : Bank) : (c.wrB i v).arrived = c.arrived := rfl
@[simp] theorem Core.wrB_done (c : Core) (i : Nat) (v : Bank) : (c.wrB i v).done = c.done := rfl
@[simp] theorem Core.wrB_sends (c : Core) (i : Nat) (v : Bank) : (c.wrB i v).sends = c.sends := rfl
@[simp] theorem Core.wrB_held (c : Core) (i : Nat) (v : Bank) : (c.wrB i v).held = c.held := rfl
@[simp] theorem Core.wrS_p (c : Core) (i : Nat) (v : Word) : (c.wrS i v).p = c.p := by unfold Core.wrS; split <;> rfl
@[simp] theorem Core.wrS_m (c : Core) (i : Nat) (v : Word) : (c.wrS i v).m = c.m := by unfold Core.wrS; split <;> rfl
@[simp] theorem Core.wrS_w (c : Core) (i : Nat) (v : Word) : (c.wrS i v).w = c.w := by unfold Core.wrS; split <;> rfl
@[simp] theorem Core.wrS_d (c : Core) (i : Nat) (v : Word) : (c.wrS i v).d = c.d := by unfold Core.wrS; split <;> rfl
@[simp] theorem Core.wrS_b (c : Core) (i : Nat) (v : Word) : (c.wrS i v).b = c.b := by unfold Core.wrS; split <;> rfl
@[simp] theorem Core.wrS_loops (c : Core) (i : Nat) (v : Word) : (c.wrS i v).loops = c.loops := by unfold Core.wrS; split <;> rfl
@[simp] theorem Core.wrS_flags (c : Core) (i : Nat) (v : Word) : (c.wrS i v).flags = c.flags := by unfold Core.wrS; split <;> rfl
@[simp] theorem Core.wrS_tol (c : Core) (i : Nat) (v : Word) : (c.wrS i v).tol = c.tol := by unfold Core.wrS; split <;> rfl
@[simp] theorem Core.wrS_pc (c : Core) (i : Nat) (v : Word) : (c.wrS i v).pc = c.pc := by unfold Core.wrS; split <;> rfl
@[simp] theorem Core.wrS_st (c : Core) (i : Nat) (v : Word) : (c.wrS i v).st = c.st := by unfold Core.wrS; split <;> rfl
@[simp] theorem Core.wrS_wait (c : Core) (i : Nat) (v : Word) : (c.wrS i v).wait = c.wait := by unfold Core.wrS; split <;> rfl
@[simp] theorem Core.wrS_replay (c : Core) (i : Nat) (v : Word) : (c.wrS i v).replay = c.replay := by unfold Core.wrS; split <;> rfl
@[simp] theorem Core.wrS_moveQ (c : Core) (i : Nat) (v : Word) : (c.wrS i v).moveQ = c.moveQ := by unfold Core.wrS; split <;> rfl
@[simp] theorem Core.wrS_matQ (c : Core) (i : Nat) (v : Word) : (c.wrS i v).matQ = c.matQ := by unfold Core.wrS; split <;> rfl
@[simp] theorem Core.wrS_vecQ (c : Core) (i : Nat) (v : Word) : (c.wrS i v).vecQ = c.vecQ := by unfold Core.wrS; split <;> rfl
@[simp] theorem Core.wrS_flight (c : Core) (i : Nat) (v : Word) : (c.wrS i v).flight = c.flight := by unfold Core.wrS; split <;> rfl
@[simp] theorem Core.wrS_lastMat (c : Core) (i : Nat) (v : Word) : (c.wrS i v).lastMat = c.lastMat := by unfold Core.wrS; split <;> rfl
@[simp] theorem Core.wrS_abuf (c : Core) (i : Nat) (v : Word) : (c.wrS i v).abuf = c.abuf := by unfold Core.wrS; split <;> rfl
@[simp] theorem Core.wrS_istore (c : Core) (i : Nat) (v : Word) : (c.wrS i v).istore = c.istore := by unfold Core.wrS; split <;> rfl
@[simp] theorem Core.wrS_entry (c : Core) (i : Nat) (v : Word) : (c.wrS i v).entry = c.entry := by unfold Core.wrS; split <;> rfl
@[simp] theorem Core.wrS_trappedNow (c : Core) (i : Nat) (v : Word) : (c.wrS i v).trappedNow = c.trappedNow := by unfold Core.wrS; split <;> rfl
@[simp] theorem Core.wrS_trapCode (c : Core) (i : Nat) (v : Word) : (c.wrS i v).trapCode = c.trapCode := by unfold Core.wrS; split <;> rfl
@[simp] theorem Core.wrS_trapAddr (c : Core) (i : Nat) (v : Word) : (c.wrS i v).trapAddr = c.trapAddr := by unfold Core.wrS; split <;> rfl
@[simp] theorem Core.wrS_userCode (c : Core) (i : Nat) (v : Word) : (c.wrS i v).userCode = c.userCode := by unfold Core.wrS; split <;> rfl
@[simp] theorem Core.wrS_endAddr (c : Core) (i : Nat) (v : Word) : (c.wrS i v).endAddr = c.endAddr := by unfold Core.wrS; split <;> rfl
@[simp] theorem Core.wrS_endCycles (c : Core) (i : Nat) (v : Word) : (c.wrS i v).endCycles = c.endCycles := by unfold Core.wrS; split <;> rfl
@[simp] theorem Core.wrS_endAt (c : Core) (i : Nat) (v : Word) : (c.wrS i v).endAt = c.endAt := by unfold Core.wrS; split <;> rfl
@[simp] theorem Core.wrS_endAddrC (c : Core) (i : Nat) (v : Word) : (c.wrS i v).endAddrC = c.endAddrC := by unfold Core.wrS; split <;> rfl
@[simp] theorem Core.wrS_usedC (c : Core) (i : Nat) (v : Word) : (c.wrS i v).usedC = c.usedC := by unfold Core.wrS; split <;> rfl
@[simp] theorem Core.wrS_arrived (c : Core) (i : Nat) (v : Word) : (c.wrS i v).arrived = c.arrived := by unfold Core.wrS; split <;> rfl
@[simp] theorem Core.wrS_done (c : Core) (i : Nat) (v : Word) : (c.wrS i v).done = c.done := by unfold Core.wrS; split <;> rfl
@[simp] theorem Core.wrS_sends (c : Core) (i : Nat) (v : Word) : (c.wrS i v).sends = c.sends := by unfold Core.wrS; split <;> rfl
@[simp] theorem Core.wrS_held (c : Core) (i : Nat) (v : Word) : (c.wrS i v).held = c.held := by unfold Core.wrS; split <;> rfl
@[simp] theorem Core.wrP_s (c : Core) (i : Nat) (v : Bool) : (c.wrP i v).s = c.s := by unfold Core.wrP; split <;> rfl
@[simp] theorem Core.wrP_m (c : Core) (i : Nat) (v : Bool) : (c.wrP i v).m = c.m := by unfold Core.wrP; split <;> rfl
@[simp] theorem Core.wrP_w (c : Core) (i : Nat) (v : Bool) : (c.wrP i v).w = c.w := by unfold Core.wrP; split <;> rfl
@[simp] theorem Core.wrP_d (c : Core) (i : Nat) (v : Bool) : (c.wrP i v).d = c.d := by unfold Core.wrP; split <;> rfl
@[simp] theorem Core.wrP_b (c : Core) (i : Nat) (v : Bool) : (c.wrP i v).b = c.b := by unfold Core.wrP; split <;> rfl
@[simp] theorem Core.wrP_loops (c : Core) (i : Nat) (v : Bool) : (c.wrP i v).loops = c.loops := by unfold Core.wrP; split <;> rfl
@[simp] theorem Core.wrP_flags (c : Core) (i : Nat) (v : Bool) : (c.wrP i v).flags = c.flags := by unfold Core.wrP; split <;> rfl
@[simp] theorem Core.wrP_tol (c : Core) (i : Nat) (v : Bool) : (c.wrP i v).tol = c.tol := by unfold Core.wrP; split <;> rfl
@[simp] theorem Core.wrP_pc (c : Core) (i : Nat) (v : Bool) : (c.wrP i v).pc = c.pc := by unfold Core.wrP; split <;> rfl
@[simp] theorem Core.wrP_st (c : Core) (i : Nat) (v : Bool) : (c.wrP i v).st = c.st := by unfold Core.wrP; split <;> rfl
@[simp] theorem Core.wrP_wait (c : Core) (i : Nat) (v : Bool) : (c.wrP i v).wait = c.wait := by unfold Core.wrP; split <;> rfl
@[simp] theorem Core.wrP_replay (c : Core) (i : Nat) (v : Bool) : (c.wrP i v).replay = c.replay := by unfold Core.wrP; split <;> rfl
@[simp] theorem Core.wrP_moveQ (c : Core) (i : Nat) (v : Bool) : (c.wrP i v).moveQ = c.moveQ := by unfold Core.wrP; split <;> rfl
@[simp] theorem Core.wrP_matQ (c : Core) (i : Nat) (v : Bool) : (c.wrP i v).matQ = c.matQ := by unfold Core.wrP; split <;> rfl
@[simp] theorem Core.wrP_vecQ (c : Core) (i : Nat) (v : Bool) : (c.wrP i v).vecQ = c.vecQ := by unfold Core.wrP; split <;> rfl
@[simp] theorem Core.wrP_flight (c : Core) (i : Nat) (v : Bool) : (c.wrP i v).flight = c.flight := by unfold Core.wrP; split <;> rfl
@[simp] theorem Core.wrP_lastMat (c : Core) (i : Nat) (v : Bool) : (c.wrP i v).lastMat = c.lastMat := by unfold Core.wrP; split <;> rfl
@[simp] theorem Core.wrP_abuf (c : Core) (i : Nat) (v : Bool) : (c.wrP i v).abuf = c.abuf := by unfold Core.wrP; split <;> rfl
@[simp] theorem Core.wrP_istore (c : Core) (i : Nat) (v : Bool) : (c.wrP i v).istore = c.istore := by unfold Core.wrP; split <;> rfl
@[simp] theorem Core.wrP_entry (c : Core) (i : Nat) (v : Bool) : (c.wrP i v).entry = c.entry := by unfold Core.wrP; split <;> rfl
@[simp] theorem Core.wrP_trappedNow (c : Core) (i : Nat) (v : Bool) : (c.wrP i v).trappedNow = c.trappedNow := by unfold Core.wrP; split <;> rfl
@[simp] theorem Core.wrP_trapCode (c : Core) (i : Nat) (v : Bool) : (c.wrP i v).trapCode = c.trapCode := by unfold Core.wrP; split <;> rfl
@[simp] theorem Core.wrP_trapAddr (c : Core) (i : Nat) (v : Bool) : (c.wrP i v).trapAddr = c.trapAddr := by unfold Core.wrP; split <;> rfl
@[simp] theorem Core.wrP_userCode (c : Core) (i : Nat) (v : Bool) : (c.wrP i v).userCode = c.userCode := by unfold Core.wrP; split <;> rfl
@[simp] theorem Core.wrP_endAddr (c : Core) (i : Nat) (v : Bool) : (c.wrP i v).endAddr = c.endAddr := by unfold Core.wrP; split <;> rfl
@[simp] theorem Core.wrP_endCycles (c : Core) (i : Nat) (v : Bool) : (c.wrP i v).endCycles = c.endCycles := by unfold Core.wrP; split <;> rfl
@[simp] theorem Core.wrP_endAt (c : Core) (i : Nat) (v : Bool) : (c.wrP i v).endAt = c.endAt := by unfold Core.wrP; split <;> rfl
@[simp] theorem Core.wrP_endAddrC (c : Core) (i : Nat) (v : Bool) : (c.wrP i v).endAddrC = c.endAddrC := by unfold Core.wrP; split <;> rfl
@[simp] theorem Core.wrP_usedC (c : Core) (i : Nat) (v : Bool) : (c.wrP i v).usedC = c.usedC := by unfold Core.wrP; split <;> rfl
@[simp] theorem Core.wrP_arrived (c : Core) (i : Nat) (v : Bool) : (c.wrP i v).arrived = c.arrived := by unfold Core.wrP; split <;> rfl
@[simp] theorem Core.wrP_done (c : Core) (i : Nat) (v : Bool) : (c.wrP i v).done = c.done := by unfold Core.wrP; split <;> rfl
@[simp] theorem Core.wrP_sends (c : Core) (i : Nat) (v : Bool) : (c.wrP i v).sends = c.sends := by unfold Core.wrP; split <;> rfl
@[simp] theorem Core.wrP_held (c : Core) (i : Nat) (v : Bool) : (c.wrP i v).held = c.held := by unfold Core.wrP; split <;> rfl
@[simp] theorem Core.wrM_s (c : Core) (i : Nat) (v : BitVec 128) : (c.wrM i v).s = c.s := by unfold Core.wrM; split <;> rfl
@[simp] theorem Core.wrM_p (c : Core) (i : Nat) (v : BitVec 128) : (c.wrM i v).p = c.p := by unfold Core.wrM; split <;> rfl
@[simp] theorem Core.wrM_w (c : Core) (i : Nat) (v : BitVec 128) : (c.wrM i v).w = c.w := by unfold Core.wrM; split <;> rfl
@[simp] theorem Core.wrM_d (c : Core) (i : Nat) (v : BitVec 128) : (c.wrM i v).d = c.d := by unfold Core.wrM; split <;> rfl
@[simp] theorem Core.wrM_b (c : Core) (i : Nat) (v : BitVec 128) : (c.wrM i v).b = c.b := by unfold Core.wrM; split <;> rfl
@[simp] theorem Core.wrM_loops (c : Core) (i : Nat) (v : BitVec 128) : (c.wrM i v).loops = c.loops := by unfold Core.wrM; split <;> rfl
@[simp] theorem Core.wrM_flags (c : Core) (i : Nat) (v : BitVec 128) : (c.wrM i v).flags = c.flags := by unfold Core.wrM; split <;> rfl
@[simp] theorem Core.wrM_tol (c : Core) (i : Nat) (v : BitVec 128) : (c.wrM i v).tol = c.tol := by unfold Core.wrM; split <;> rfl
@[simp] theorem Core.wrM_pc (c : Core) (i : Nat) (v : BitVec 128) : (c.wrM i v).pc = c.pc := by unfold Core.wrM; split <;> rfl
@[simp] theorem Core.wrM_st (c : Core) (i : Nat) (v : BitVec 128) : (c.wrM i v).st = c.st := by unfold Core.wrM; split <;> rfl
@[simp] theorem Core.wrM_wait (c : Core) (i : Nat) (v : BitVec 128) : (c.wrM i v).wait = c.wait := by unfold Core.wrM; split <;> rfl
@[simp] theorem Core.wrM_replay (c : Core) (i : Nat) (v : BitVec 128) : (c.wrM i v).replay = c.replay := by unfold Core.wrM; split <;> rfl
@[simp] theorem Core.wrM_moveQ (c : Core) (i : Nat) (v : BitVec 128) : (c.wrM i v).moveQ = c.moveQ := by unfold Core.wrM; split <;> rfl
@[simp] theorem Core.wrM_matQ (c : Core) (i : Nat) (v : BitVec 128) : (c.wrM i v).matQ = c.matQ := by unfold Core.wrM; split <;> rfl
@[simp] theorem Core.wrM_vecQ (c : Core) (i : Nat) (v : BitVec 128) : (c.wrM i v).vecQ = c.vecQ := by unfold Core.wrM; split <;> rfl
@[simp] theorem Core.wrM_flight (c : Core) (i : Nat) (v : BitVec 128) : (c.wrM i v).flight = c.flight := by unfold Core.wrM; split <;> rfl
@[simp] theorem Core.wrM_lastMat (c : Core) (i : Nat) (v : BitVec 128) : (c.wrM i v).lastMat = c.lastMat := by unfold Core.wrM; split <;> rfl
@[simp] theorem Core.wrM_abuf (c : Core) (i : Nat) (v : BitVec 128) : (c.wrM i v).abuf = c.abuf := by unfold Core.wrM; split <;> rfl
@[simp] theorem Core.wrM_istore (c : Core) (i : Nat) (v : BitVec 128) : (c.wrM i v).istore = c.istore := by unfold Core.wrM; split <;> rfl
@[simp] theorem Core.wrM_entry (c : Core) (i : Nat) (v : BitVec 128) : (c.wrM i v).entry = c.entry := by unfold Core.wrM; split <;> rfl
@[simp] theorem Core.wrM_trappedNow (c : Core) (i : Nat) (v : BitVec 128) : (c.wrM i v).trappedNow = c.trappedNow := by unfold Core.wrM; split <;> rfl
@[simp] theorem Core.wrM_trapCode (c : Core) (i : Nat) (v : BitVec 128) : (c.wrM i v).trapCode = c.trapCode := by unfold Core.wrM; split <;> rfl
@[simp] theorem Core.wrM_trapAddr (c : Core) (i : Nat) (v : BitVec 128) : (c.wrM i v).trapAddr = c.trapAddr := by unfold Core.wrM; split <;> rfl
@[simp] theorem Core.wrM_userCode (c : Core) (i : Nat) (v : BitVec 128) : (c.wrM i v).userCode = c.userCode := by unfold Core.wrM; split <;> rfl
@[simp] theorem Core.wrM_endAddr (c : Core) (i : Nat) (v : BitVec 128) : (c.wrM i v).endAddr = c.endAddr := by unfold Core.wrM; split <;> rfl
@[simp] theorem Core.wrM_endCycles (c : Core) (i : Nat) (v : BitVec 128) : (c.wrM i v).endCycles = c.endCycles := by unfold Core.wrM; split <;> rfl
@[simp] theorem Core.wrM_endAt (c : Core) (i : Nat) (v : BitVec 128) : (c.wrM i v).endAt = c.endAt := by unfold Core.wrM; split <;> rfl
@[simp] theorem Core.wrM_endAddrC (c : Core) (i : Nat) (v : BitVec 128) : (c.wrM i v).endAddrC = c.endAddrC := by unfold Core.wrM; split <;> rfl
@[simp] theorem Core.wrM_usedC (c : Core) (i : Nat) (v : BitVec 128) : (c.wrM i v).usedC = c.usedC := by unfold Core.wrM; split <;> rfl
@[simp] theorem Core.wrM_arrived (c : Core) (i : Nat) (v : BitVec 128) : (c.wrM i v).arrived = c.arrived := by unfold Core.wrM; split <;> rfl
@[simp] theorem Core.wrM_done (c : Core) (i : Nat) (v : BitVec 128) : (c.wrM i v).done = c.done := by unfold Core.wrM; split <;> rfl
@[simp] theorem Core.wrM_sends (c : Core) (i : Nat) (v : BitVec 128) : (c.wrM i v).sends = c.sends := by unfold Core.wrM; split <;> rfl
@[simp] theorem Core.wrM_held (c : Core) (i : Nat) (v : BitVec 128) : (c.wrM i v).held = c.held := by unfold Core.wrM; split <;> rfl

end Sys2Proof.Machine
end

