-- ==== Sys2Proof/Laws/Ops.lean ====
section
/-! SUPPORT. One lemma for each shared operation that says what it can do: how a command's effect is committed, run or
dropped; register fields; core registers; the error log and the triggers of snapshots. -/

namespace Sys2Proof.Machine

open Host

/-! ## Committing and running -/

/-- A commit leaves the chip as the effect made it. -/
@[simp] theorem commit_chip (s : State) (d : Dev) : (commit s d).dev.chip = d.chip := by
  unfold commit; dsimp only; split <;> rfl
/-- What the effect sent out. -/
@[simp] theorem commit_out (s : State) (d : Dev) : (commit s d).dev.out = d.out := by
  unfold commit; dsimp only; split <;> rfl
/-- The staged writes of the effect. -/
@[simp] theorem commit_staged (s : State) (d : Dev) : (commit s d).dev.staged = d.staged := by
  unfold commit; dsimp only; split <;> rfl
/-- The publication of the effect. -/
@[simp] theorem commit_pub (s : State) (d : Dev) : (commit s d).dev.pub = d.pub := by
  unfold commit; dsimp only; split <;> rfl
/-- The counts of the effect. -/
@[simp] theorem commit_cnt (s : State) (d : Dev) : (commit s d).dev.cnt = d.cnt := by
  unfold commit; dsimp only; split <;> rfl
/-- The published counts of the effect. -/
@[simp] theorem commit_pubCnt (s : State) (d : Dev) : (commit s d).dev.pubCnt = d.pubCnt := by
  unfold commit; dsimp only; split <;> rfl
/-- The published events of the effect. -/
@[simp] theorem commit_pubEv (s : State) (d : Dev) : (commit s d).dev.pubEv = d.pubEv := by
  unfold commit; dsimp only; split <;> rfl
/-- The views of the effect. -/
@[simp] theorem commit_views (s : State) (d : Dev) : (commit s d).dev.views = d.views := by
  unfold commit; dsimp only; split <;> rfl
/-- The pairs of the effect. -/
@[simp] theorem commit_pairs (s : State) (d : Dev) : (commit s d).dev.pairs = d.pairs := by
  unfold commit; dsimp only; split <;> rfl
/-- The latched snapshot of the effect. -/
@[simp] theorem commit_latched (s : State) (d : Dev) : (commit s d).dev.latched = d.latched := by
  unfold commit; dsimp only; split <;> rfl
/-- The flash of the effect. -/
@[simp] theorem commit_flash (s : State) (d : Dev) : (commit s d).dev.flash = d.flash := by
  unfold commit; dsimp only; split <;> rfl
/-- The calibration flash of the effect. -/
@[simp] theorem commit_calFlash (s : State) (d : Dev) : (commit s d).dev.calFlash = d.calFlash := by
  unfold commit; dsimp only; split <;> rfl
/-- The rooms whose running frame fails. -/
@[simp] theorem commit_failed (s : State) (d : Dev) : (commit s d).dev.failed = d.failed := by
  unfold commit; dsimp only; split <;> rfl
/-- The MSI-X requests of the effect. -/
@[simp] theorem commit_irq (s : State) (d : Dev) : (commit s d).dev.irq = d.irq := by
  unfold commit; dsimp only; split <;> rfl
/-- The watermarks of the effect. -/
@[simp] theorem commit_wm (s : State) (d : Dev) : (commit s d).dev.wm = d.wm := by
  unfold commit; dsimp only; split <;> rfl
/-- The free values used. -/
@[simp] theorem commit_free (s : State) (d : Dev) : (commit s d).dev.free = d.free := by
  unfold commit; dsimp only; split <;> rfl
/-- No memory operation waits after a commit. -/
@[simp] theorem commit_wr (s : State) (d : Dev) : (commit s d).dev.wr = [] := rfl
/-- No injection use waits after a commit. -/
@[simp] theorem commit_injUsed (s : State) (d : Dev) : (commit s d).dev.injUsed = 0 := rfl
/-- Memory after a commit. -/
@[simp] theorem commit_mem (s : State) (d : Dev) : (commit s d).mem = s.mem.apply d.wr := by
  unfold commit; dsimp only; split <;> rfl
/-- The queue is not touched. -/
@[simp] theorem commit_pending (s : State) (d : Dev) : (commit s d).pending = s.pending := rfl
/-- Of the gate a commit changes the injection only. -/
@[simp] theorem commit_gate (s : State) (d : Dev) : (commit s d).gate = { s.gate with inj := s.gate.inj.use d.injUsed } := rfl

/-- With no injection used the injection stays. -/
@[simp] theorem Inj.use_zero (i : Inj) : i.use 0 = i := by simp [Inj.use]

/-- Uses of an injection keep its state, or end an active one. -/
theorem Inj.use_st (i : Inj) (n : Nat) : (i.use n).st = i.st ∨ (i.st = .active ∧ (i.use n).st = .done) := by
  unfold Inj.use
  split
  · rename_i h
    by_cases h2 : i.left ≤ n
    · right; simp [h.1, h2]
    · left; simp [h.1, h2]
  · left; rfl

/-- With no injection used the events are those of the effect. -/
theorem commit_ev (s : State) (d : Dev) (h : d.injUsed = 0) : (commit s d).dev.ev = d.ev := by
  simp [commit, h]

/-- Every command run on the device answers a next state. -/
theorem runs_next (s : State) (k : Dev → Dev) : ∃ t, runs s k = .next t := by
  unfold runs; split <;> exact ⟨_, rfl⟩

/-- On a module that acts, a command's effect is committed. -/
theorem runs_active {s : State} (h : s.active = true) (k : Dev → Dev) :
    runs s k = .next (commit s (k { s.dev with out := [] })) := by simp [runs, h]

/-- An effect without memory operations and uses of the injection is the next state as it stands. -/
theorem runs_plain {s : State} (h : s.active = true) (k : Dev → Dev) (hw : (k { s.dev with out := [] }).wr = [])
    (hu : (k { s.dev with out := [] }).injUsed = 0) : runs s k = .next { s with dev := k { s.dev with out := [] } } := by
  rw [runs_active h]
  unfold commit
  simp only [hu, Inj.use_zero]
  simp only [ne_eq, not_true, if_false, Mem.apply, List.foldl, hw]
  generalize k { s.dev with out := [] } = d at *
  cases d; simp_all

/-- Module reset, or no power: nothing happens. -/
theorem runs_inactive {s : State} (h : s.active = false) (k : Dev → Dev) : runs s k = .next s := by simp [runs, h]

/-- Outside M warm reset a write of a block of M acts. -/
theorem runsM_active {s : State} (h : s.active = true) (hw : s.dev.chip.boot.warm = false) (k : Dev → Dev) :
    runsM s k = .next (commit s (k { s.dev with out := [] })) := by simp [runsM, runs, h, hw]

/-- A command at the level of the whole state. -/
theorem runsAll_active {s : State} (h : s.active = true) (k : State → State) :
    runsAll s k = .next (k { s with dev := { s.dev with out := [] } }) := by simp [runsAll, h]

/-- What every command run on the device keeps: the queue; the gate but for the uses of its injection; canonical memory. -/
theorem runs_frame {s t : State} {k : Dev → Dev} (h : runs s k = .next t) :
    t.pending = s.pending ∧ (∃ n, t.gate = { s.gate with inj := s.gate.inj.use n }) ∧ (s.mem.wf = true → t.mem.wf = true) := by
  unfold runs at h
  split at h
  · cases h
    exact ⟨rfl, ⟨_, rfl⟩, fun hm => Mem.wf_apply hm _⟩
  · cases h
    exact ⟨rfl, ⟨0, by simp⟩, id⟩

/-! ## Registers of a core (R119) -/

/-- A scalar register after a write; s0 reads 0. -/
theorem Core.rdS_wrS (c : Core) (i j : Nat) (v : Word) :
    (c.wrS i v).rdS j = if j = 0 then 0 else if j = i then v else c.rdS j := by
  unfold Core.wrS Core.rdS
  by_cases hj : j = 0
  · simp [hj]
  · by_cases hi : i = 0
    · have : ¬ j = i := by omega
      simp [hi, hj]
    · simp only [hi, hj, if_false]; exact Tab.get_put _ _ i v j

/-- A predicate after a write; p0 reads 1. -/
theorem Core.rdP_wrP (c : Core) (i j : Nat) (v : Bool) :
    (c.wrP i v).rdP j = if j = 0 then true else if j = i then v else c.rdP j := by
  unfold Core.wrP Core.rdP
  by_cases hj : j = 0
  · simp [hj]
  · by_cases hi : i = 0
    · simp [hi, hj]
    · simp only [hi, hj, if_false]; exact Tab.get_put _ _ i v j

/-- A lane mask after a write; m0 reads all ones. -/
theorem Core.rdM_wrM (c : Core) (i j : Nat) (v : BitVec 128) :
    (c.wrM i v).rdM j = if j = 0 then BitVec.allOnes 128 else if j = i then v else c.rdM j := by
  unfold Core.wrM Core.rdM
  by_cases hj : j = 0
  · simp [hj]
  · by_cases hi : i = 0
    · simp [hi, hj]
    · simp only [hi, hj, if_false]; exact Tab.get_put _ _ i v j

/-- A vector register after a write. -/
theorem Core.rdW_wrW (c : Core) (i j : Nat) (v : BitVec 2048) :
    (c.wrW i v).rdW j = if j = i then v else c.rdW j := Tab.get_put _ _ i v j

/-- A descriptor register after a write. -/
theorem Core.rdD_wrD (c : Core) (i j : Nat) (v : BitVec 256) :
    (c.wrD i v).rdD j = if j = i then v else c.rdD j := Tab.get_put _ _ i v j

/-- A bank after a write. -/
theorem Core.rdB_wrB (c : Core) (i j : Nat) (v : Bank) :
    (c.wrB i v).rdB j = if j = i then v else c.rdB j := Tab.get_put _ _ i v j

/-- A core after a core was replaced. -/
theorem Chip.core_setCore (c : Chip) (i j : Nat) (v : Core) :
    (c.setCore i v).core j = if j = i then v else c.core j := Tab.get_put _ _ i v j

/-- A register in force after it was set. -/
theorem Chip.reg_setReg (c : Chip) (k j : Nat) (v : Word) : (c.setReg k v).reg j = if j = k then v else c.reg j := by
  unfold Chip.setReg Chip.reg
  rw [Tab.find_ins]
  by_cases h : j = k <;> simp [h]

/-- A block after it was replaced. -/
theorem Chip.block_setBlock (c : Chip) (k j : Nat) (b : Block) :
    (c.setBlock k b).block j = if j = k then b else c.block j := Tab.get_put _ _ k b j

end Sys2Proof.Machine
end

