-- ==== Sys2Proof/Laws/Words.lean ====
section
/-! SUPPORT. The operation word: reading back the fields of a packed word (R128), and what a core does with a word that it
may issue (R130, R140). -/

namespace Sys2Proof.Machine

/-- A field of a sum: what lies below it and above it does not matter. -/
theorem bitsOf_mid (x lo w v h : Nat) (hl : x < 2 ^ lo) (hv : v < 2 ^ w) :
    bitsOf (x + v * 2 ^ lo + h * 2 ^ (lo + w)) lo w = v := by
  unfold bitsOf
  rw [Nat.shiftRight_eq_div_pow]
  have h1 : x + v * 2 ^ lo + h * 2 ^ (lo + w) = x + 2 ^ lo * (v + h * 2 ^ w) := by
    rw [Nat.pow_add]; ring
  rw [h1, Nat.add_mul_div_left _ _ (Nat.two_pow_pos lo), Nat.div_eq_of_lt hl, Nat.zero_add, Nat.mul_comm h,
    Nat.add_mul_mod_self_left, Nat.mod_eq_of_lt hv]

/-- A packed word gives back its class, its code and its fields (R128). -/
theorem unpackWord_packWord (cls op : Nat) (w : OpWord) (hc : cls < 16) (ho : op < 256) (hw : wordOk w = true) :
    unpackWord (packWord cls op w) = (cls, op, w) := by
  obtain ⟨psel, pneg, f0, f1, f2, f3, h, i, j⟩ := w
  simp only [wordOk, below, Bool.and_eq_true, decide_eq_true_eq] at hw
  obtain ⟨⟨⟨⟨⟨⟨⟨h1, h2⟩, h3⟩, h4⟩, h5⟩, h6⟩, h7⟩, h8⟩ := hw
  have hn : b2n pneg < 2 ∧ (b2n pneg = 1 ↔ pneg = true) := by cases pneg <;> simp [b2n]
  unfold unpackWord packWord
  simp only [Nat.mod_eq_of_lt hc, Nat.mod_eq_of_lt ho, Nat.mod_eq_of_lt h1, Nat.mod_eq_of_lt h2, Nat.mod_eq_of_lt h3,
    Nat.mod_eq_of_lt h4, Nat.mod_eq_of_lt h5, Nat.mod_eq_of_lt h6, Nat.mod_eq_of_lt h7, Nat.mod_eq_of_lt h8]
  generalize hp : b2n pneg = p at hn
  have key : ∀ x lo w v y, x < 2 ^ lo → v < 2 ^ w → y = x + v * 2 ^ lo + (y / 2 ^ (lo + w)) * 2 ^ (lo + w) → bitsOf y lo w = v := by
    intro x lo w v y hx hv hy
    rw [hy]; exact bitsOf_mid x lo w v _ hx hv
  have hpn : (cls * 2 ^ 124 + op * 2 ^ 116 + p * 2 ^ 115 + psel * 2 ^ 112 + f0 * 2 ^ 104 + f1 * 2 ^ 96 + f2 * 2 ^ 88 + f3 * 2 ^ 80
      + h * 2 ^ 64 + i * 2 ^ 32 + j).testBit 115 = pneg := by
    rw [Nat.testBit_eq_decide_div_mod_eq]
    have : (cls * 2 ^ 124 + op * 2 ^ 116 + p * 2 ^ 115 + psel * 2 ^ 112 + f0 * 2 ^ 104 + f1 * 2 ^ 96 + f2 * 2 ^ 88 + f3 * 2 ^ 80
      + h * 2 ^ 64 + i * 2 ^ 32 + j) / 2 ^ 115 % 2 = p := by omega
    rw [this]
    subst hp
    cases pneg <;> rfl
  refine Prod.ext ?_ (Prod.ext ?_ ?_)
  · show bitsOf _ 124 4 = cls
    apply key (op * 2 ^ 116 + p * 2 ^ 115 + psel * 2 ^ 112 + f0 * 2 ^ 104 + f1 * 2 ^ 96 + f2 * 2 ^ 88 + f3 * 2 ^ 80
      + h * 2 ^ 64 + i * 2 ^ 32 + j) <;> omega
  · show bitsOf _ 116 8 = op
    apply key (p * 2 ^ 115 + psel * 2 ^ 112 + f0 * 2 ^ 104 + f1 * 2 ^ 96 + f2 * 2 ^ 88 + f3 * 2 ^ 80
      + h * 2 ^ 64 + i * 2 ^ 32 + j) <;> omega
  · simp only [OpWord.mk.injEq]
    refine ⟨?_, hpn, ?_, ?_, ?_, ?_, ?_, ?_, ?_⟩
    · apply key (f0 * 2 ^ 104 + f1 * 2 ^ 96 + f2 * 2 ^ 88 + f3 * 2 ^ 80 + h * 2 ^ 64 + i * 2 ^ 32 + j) <;> omega
    · apply key (f1 * 2 ^ 96 + f2 * 2 ^ 88 + f3 * 2 ^ 80 + h * 2 ^ 64 + i * 2 ^ 32 + j) <;> omega
    · apply key (f2 * 2 ^ 88 + f3 * 2 ^ 80 + h * 2 ^ 64 + i * 2 ^ 32 + j) <;> omega
    · apply key (f3 * 2 ^ 80 + h * 2 ^ 64 + i * 2 ^ 32 + j) <;> omega
    · apply key (h * 2 ^ 64 + i * 2 ^ 32 + j) <;> omega
    · apply key (i * 2 ^ 32 + j) <;> omega
    · apply key j <;> omega
    · apply key 0 <;> omega


/-- What a fetch does to the device but its counts. -/
theorem fetchEcc_chip (d : Dev) (k : Fetch) : (d.fetchEcc k).chip = d.chip := by
  unfold Dev.fetchEcc; dsimp only; split <;> rfl

/-- A packed word has 128 bits. -/
theorem packWord_lt (cls op : Nat) (w : OpWord) (hc : cls < 16) (ho : op < 256) (hw : wordOk w = true) : packWord cls op w < 2 ^ 128 := by
  obtain ⟨psel, pneg, f0, f1, f2, f3, h, i, j⟩ := w
  simp only [wordOk, below, Bool.and_eq_true, decide_eq_true_eq] at hw
  obtain ⟨⟨⟨⟨⟨⟨⟨h1, h2⟩, h3⟩, h4⟩, h5⟩, h6⟩, h7⟩, h8⟩ := hw
  have hn : b2n pneg < 2 := by cases pneg <;> simp [b2n]
  unfold packWord
  simp only [Nat.mod_eq_of_lt hc, Nat.mod_eq_of_lt ho, Nat.mod_eq_of_lt h1, Nat.mod_eq_of_lt h2, Nat.mod_eq_of_lt h3,
    Nat.mod_eq_of_lt h4, Nat.mod_eq_of_lt h5, Nat.mod_eq_of_lt h6, Nat.mod_eq_of_lt h7, Nat.mod_eq_of_lt h8]
  omega

/-- A word that may issue: the fetch's errors are counted, then it goes to its unit, or acts. -/
theorem coreWord_issues {s : State} {d : Dev} {k : Fetch} {cls op : Nat} {w : OpWord} {fault : MacFault} (ctl : CtlEffect)
    (hd : d.chip = s.dev.chip) (hc : cls < 16) (ho : op < 256) (h : issues s k cls op w fault = true) :
    coreWord cls op k w fault ctl s d =
      (let e := (d.fetchEcc k).onCore k.core fun c => c.noteWrites cls op w true
       if cls < 4 then (issueUnit k.core ((coreAt s k).capture cls op w true fault) s e).next k.core else ctl e) := by
  simp only [issues, Bool.and_eq_true, Bool.not_eq_true', decide_eq_true_eq] at h
  obtain ⟨⟨⟨⟨⟨⟨⟨⟨⟨⟨⟨⟨⟨ha, hk⟩, hl⟩, hh⟩, hst⟩, hwt⟩, hi⟩, hwo⟩, hle⟩, hsl⟩, hsg⟩, hp⟩, ho1⟩, ho2⟩ := h
  have hcore : d.chip.core k.core = coreAt s k := by rw [hd]; rfl
  have hraw : (Tab.get 0 (coreAt s k).istore (coreAt s k).pc).toNat = packWord cls op w := by
    rw [hi, BitVec.toNat_ofNat, Nat.mod_eq_of_lt (packWord_lt cls op w hc ho hwo)]
  have hl2 : ¬ (k.eccLo = 2 ∨ k.eccHi = 2) := by
    simp only [below, decide_eq_true_eq] at hl hh; omega
  have hex : coreExists k.core = true := by simpa [coreExists, coreOk] using hk
  have hform : (opForm cls op w).isNone = false := by
    unfold wordLegal at hle
    cases hf : opForm cls op w with
    | none => simp [hf] at hle
    | some f => rfl
  have hst' : (coreAt s k).st = .running := by simpa using hst
  have hwt' : (coreAt s k).wait.isSome = false := by
    cases hww : (coreAt s k).wait <;> simp_all
  unfold coreWord
  simp only [hcore, hex, hst', hwt', hraw, unpackWord_packWord cls op w hc ho hwo, hform, hle, hsl, hsg, fetchEcc_chip, if_neg hl2]
  have hcur : d.chip.frm.cur = s.dev.chip.frm.cur := by rw [hd]
  simp only [hp, hcur, ho1, ho2]
  simp

end Sys2Proof.Machine
end

