-- ==== Sys2Proof/Laws/Lanes.lean ====
section
/-! SUPPORT. Bytes and lanes: reading a lane of a vector register built from lanes, and of one written under a mask
(R152). -/

namespace Sys2Proof.Machine

/-- The bytes of a number read back, little-endian (R1). -/
theorem ofLe_leBytes (k n : Nat) : ofLe (leBytes k n) = n % 256 ^ k := by
  induction k generalizing n with
  | zero => simp [leBytes, ofLe, Nat.mod_one]
  | succ k ih =>
    simp only [leBytes, ofLe, ih, BitVec.toNat_ofNat]
    rw [show (2 : Nat) ^ 8 = 256 by rfl, Nat.pow_succ, Nat.mul_comm (256 ^ k) 256, Nat.mod_mul]

/-- The number of bytes written. -/
@[simp] theorem leBytes_length (k n : Nat) : (leBytes k n).length = k := by
  induction k generalizing n with
  | zero => rfl
  | succ k ih => simp [leBytes, ih]

/-- Bytes one list after another. -/
theorem ofLe_append (a b : List Byte) : ofLe (a ++ b) = ofLe a + 256 ^ a.length * ofLe b := by
  induction a with
  | nil => simp [ofLe]
  | cons x a ih =>
    simp only [List.cons_append, ofLe, ih, List.length_cons]
    rw [Nat.pow_succ]; ring

/-- Bytes hold less than their number of values. -/
theorem ofLe_lt (l : List Byte) : ofLe l < 256 ^ l.length := by
  induction l with
  | nil => simp [ofLe]
  | cons x l ih =>
    have := x.isLt
    simp only [ofLe, List.length_cons, Nat.pow_succ]
    omega

/-- A lane of the number that lanes of `k` bytes make. -/
theorem bitsOf_flatMap (k : Nat) (xs : List Nat) (l : Nat) (h : l < xs.length) :
    bitsOf (ofLe (xs.flatMap (leBytes k))) (8 * k * l) (8 * k) = xs[l] % 2 ^ (8 * k) := by
  have h256 : ∀ n, (256 : Nat) ^ n = 2 ^ (8 * n) := by intro n; rw [show (256 : Nat) = 2 ^ 8 by rfl, ← Nat.pow_mul]
  induction xs generalizing l with
  | nil => simp at h
  | cons x xs ih =>
    simp only [List.flatMap_cons, ofLe_append, ofLe_leBytes, leBytes_length, h256]
    have hx : x % 2 ^ (8 * k) < 2 ^ (8 * k) := Nat.mod_lt _ (Nat.two_pow_pos _)
    cases l with
    | zero =>
      simp only [bitsOf, Nat.mul_zero, Nat.shiftRight_zero, Nat.add_mul_mod_self_left, List.getElem_cons_zero]
      exact Nat.mod_mod _ _
    | succ l =>
      have := ih l (by simpa using h)
      simp only [List.getElem_cons_succ]
      rw [← this]
      unfold bitsOf
      rw [Nat.shiftRight_eq_div_pow, Nat.shiftRight_eq_div_pow]
      congr 1
      rw [show 8 * k * (l + 1) = 8 * k + 8 * k * l by ring, Nat.pow_add, ← Nat.div_div_eq_div_mul, Nat.add_mul_div_left _ _ (Nat.two_pow_pos _),
        Nat.div_eq_of_lt hx, Nat.zero_add]

/-- A lane of a register built from lanes. -/
theorem lane_ofLanes (ty : Nat) (xs : List Nat) (hn : xs.length = laneCount ty) (l : Nat) (h : l < laneCount ty) :
    lane ty (ofLanes ty xs) l = xs.getD l 0 % 2 ^ laneBits ty := by
  have hk : laneBytes ty = 4 ∨ laneBytes ty = 2 := by unfold laneBytes; split <;> simp
  have hlen : (xs.flatMap (leBytes (laneBytes ty))).length = 256 := by
    rw [List.length_flatMap]
    have : (xs.map fun a => (leBytes (laneBytes ty) a).length) = List.replicate xs.length (laneBytes ty) := by
      simp
    rw [this, List.sum_replicate, hn]
    unfold laneCount
    rcases hk with hk | hk <;> simp [hk]
  have hlt := ofLe_lt (xs.flatMap (leBytes (laneBytes ty)))
  rw [hlen] at hlt
  have h2 : (256 : Nat) ^ 256 = 2 ^ 2048 := by rw [show 2048 = 8 * 256 from rfl, Nat.pow_mul]
  unfold lane ofLanes bvOf
  rw [BitVec.toNat_ofNat, Nat.mod_eq_of_lt (by rw [← h2]; exact hlt)]
  have hl : l < xs.length := by omega
  rw [show laneBits ty * l = 8 * laneBytes ty * l from rfl, show laneBits ty = 8 * laneBytes ty from rfl, bitsOf_flatMap _ _ _ hl]
  simp [hl]

/-- A lane is a value of its width. -/
theorem lane_lt (ty : Nat) (v : BitVec 2048) (l : Nat) : lane ty v l < 2 ^ laneBits ty := Nat.mod_lt _ (Nat.two_pow_pos _)

/-- The number of lanes read. -/
@[simp] theorem lanes_length (ty : Nat) (v : BitVec 2048) : (lanes ty v).length = laneCount ty := by simp [lanes]

/-- A lane of the list of lanes. -/
theorem lanes_getD (ty : Nat) (v : BitVec 2048) (l : Nat) (h : l < laneCount ty) : (lanes ty v).getD l 0 = lane ty v l := by
  simp [lanes, h]

/-- A lane after a write under a mask: an enabled lane takes the new value, the others keep theirs (R152). -/
theorem lane_mergeLanes (ty : Nat) (mask : BitVec 128) (old : BitVec 2048) (new : List Nat) (l : Nat) (h : l < laneCount ty) :
    lane ty (mergeLanes ty mask old new) l =
      if mask.getLsbD l then new.getD l (lane ty old l) % 2 ^ laneBits ty else lane ty old l := by
  unfold mergeLanes
  rw [lane_ofLanes ty _ (by simp) l h]
  have : l < (lanes ty old).length := by simpa using h
  have hg : (lanes ty old)[l] = lane ty old l := by simp [lanes]
  simp only [List.getD_eq_getElem?_getD, List.getElem?_mapIdx, this, List.getElem?_eq_getElem, Option.map_some, Option.getD_some, hg]
  split
  · rfl
  · exact Nat.mod_eq_of_lt (lane_lt ty old l)

end Sys2Proof.Machine
end

