-- ==== Sys2Proof/Laws/Cores.lean ====
section
/-! SUPPORT. A word that issues and starts at once: the state that its operation acts on, and where the core goes on
(R140, R141, R155). -/

namespace Sys2Proof.Machine

open Host

/-- The core of a word that started: it is in flight on its unit, and what KEEP_A may match is noted. -/
def Core.begun (c : Core) (cls op : Nat) (w : OpWord) (u : UOp) : Core :=
  { c.noteWrites cls op w true with flight := (c.noteWrites cls op w true).flight ++ [(unitOf cls, u)] }

/-- The device in which a started operation acts. -/
def begunDev (s : State) (k : Fetch) (cls op : Nat) (w : OpWord) (u : UOp) : Dev :=
  ((({ s.dev with out := [] } : Dev).fetchEcc k).onCore k.core fun c => c.noteWrites cls op w true).onCore k.core fun c =>
    { c with flight := c.flight ++ [(unitOf u.cls, u)] }

/-- Noting the writes leaves the queues and what is in flight. -/
theorem Core.noteWrites_queue (c : Core) (cls op : Nat) (w : OpWord) (r : Bool) (x : UnitId) :
    (c.noteWrites cls op w r).queue x = c.queue x ∧ (c.noteWrites cls op w r).inFlight x = c.inFlight x := by
  unfold Core.noteWrites
  split
  · cases x <;> exact ⟨rfl, rfl⟩
  · split <;> cases x <;> exact ⟨rfl, rfl⟩

/-- Noting the writes leaves the program state. -/
theorem Core.noteWrites_state (c : Core) (cls op : Nat) (w : OpWord) (r : Bool) :
    (c.noteWrites cls op w r) = { c with lastMat := (c.noteWrites cls op w r).lastMat } := by
  unfold Core.noteWrites
  split
  · rfl
  · split <;> rfl

/-- The core after two changes of it. -/
theorem core_onCore (d : Dev) (n j : Nat) (f : Core → Core) :
    (d.onCore n f).chip.core j = if j = n then f (d.chip.core n) else d.chip.core j := by
  simp only [Dev.onCore, Dev.onChip_chip, Chip.core_setCore]

/-- The core in which a started operation acts. -/
theorem core_begunDev (s : State) (k : Fetch) (cls op : Nat) (w : OpWord) (u : UOp) (hu : u.cls = cls) :
    (begunDev s k cls op w u).chip.core k.core = (coreAt s k).begun cls op w u := by
  unfold begunDev
  simp only [core_onCore, if_true, fetchEcc_chip, hu]
  rfl

/-- Other cores in it. -/
theorem core_begunDev_other (s : State) (k : Fetch) (cls op : Nat) (w : OpWord) (u : UOp) (j : Nat) (h : j ≠ k.core) :
    (begunDev s k cls op w u).chip.core j = s.dev.chip.core j := by
  unfold begunDev
  simp only [core_onCore, if_neg h, fetchEcc_chip]

/-- The fields of a captured operation. -/
@[simp] theorem capture_cls (c : Core) (cls op : Nat) (w : OpWord) (r : Bool) (f : MacFault) : (c.capture cls op w r f).cls = cls := rfl
@[simp] theorem capture_op (c : Core) (cls op : Nat) (w : OpWord) (r : Bool) (f : MacFault) : (c.capture cls op w r f).op = op := rfl
@[simp] theorem capture_w (c : Core) (cls op : Nat) (w : OpWord) (r : Bool) (f : MacFault) : (c.capture cls op w r f).w = w := rfl
@[simp] theorem capture_run (c : Core) (cls op : Nat) (w : OpWord) (r : Bool) (f : MacFault) : (c.capture cls op w r f).run = r := rfl
@[simp] theorem capture_pc (c : Core) (cls op : Nat) (w : OpWord) (r : Bool) (f : MacFault) : (c.capture cls op w r f).pc = c.pc := rfl

/-- Issue implies that the module acts. -/
theorem issues_active {s : State} {k : Fetch} {cls op : Nat} {w : OpWord} {f : MacFault} (h : issues s k cls op w f = true) :
    s.active = true := by
  simp only [issues, Bool.and_eq_true] at h
  tauto

/-- Issue implies that the core runs. -/
theorem issues_running {s : State} {k : Fetch} {cls op : Nat} {w : OpWord} {f : MacFault} (h : issues s k cls op w f = true) :
    (coreAt s k).st = .running := by
  simp only [issues, Bool.and_eq_true, decide_eq_true_eq] at h
  tauto

/-- A word of a unit that is free starts at once: its operation acts, then issue goes on (R140, R141). -/
theorem unit_starts {s : State} {k : Fetch} {cls op : Nat} {w : OpWord} {fault : MacFault} (hc : cls < 4) (ho : op < 256)
    (h : issues s k cls op w fault = true) (hf : unitFree s k cls = true) :
    runs s (coreWord cls op k w fault id s) =
      .next (commit s ((opEffect k.core ((coreAt s k).capture cls op w true fault) s
        (begunDev s k cls op w ((coreAt s k).capture cls op w true fault))).next k.core)) := by
  rw [runs_active (issues_active h), coreWord_issues (s := s) id (by rfl) (by omega) ho h]
  simp only [hc, if_true]
  congr 2
  unfold issueUnit
  simp only [core_onCore, if_true, fetchEcc_chip, capture_cls]
  have hq := Core.noteWrites_queue (coreAt s k) cls op w true (unitOf cls)
  have hcore : ({ s.dev with out := [] } : Dev).chip.core k.core = coreAt s k := rfl
  unfold unitFree at hf
  simp only [Bool.and_eq_true] at hf
  rw [if_pos (by rw [hcore, hq.1, hq.2]; simpa using hf)]
  rfl

/-- Issue goes on after a word whose core still runs. -/
theorem next_eq {d : Dev} {n : Nat} {pc : Nat} {loops : List Loop} (hp : (d.chip.core n).pc = pc) (hl : (d.chip.core n).loops = loops)
    (hg : (advance pc loops).1 ≤ 0xFFF) :
    d.next n = d.onCore n fun c => { c with pc := (advance pc loops).1, loops := (advance pc loops).2 } := by
  unfold Dev.next Dev.goto
  simp only [hp, hl]
  rw [if_neg (by omega)]

end Sys2Proof.Machine
end

