-- ==== Sys2Proof/Laws/Pantry.lean ====
section
/-! SUPPORT. What reads and writes of a pantry do to memory: a read without an uncorrectable word changes no byte; a write
with byte enables changes the enabled bytes and no other (R164 to R168). -/

namespace Sys2Proof.Machine

/-- Memory operations for enabled bytes: an enabled byte takes its value, every other byte keeps its own. -/
theorem apply_segs (m : Mem) (a : Nat) (l : List (Option Byte)) (x : Nat) :
    (m.apply (segs a l)).get x = if a ≤ x then ((l.getD (x - a) none).getD (m.get x)) else m.get x := by
  induction l generalizing m a with
  | nil => simp [segs]
  | cons b t ih =>
    have hxa : ∀ {x}, a ≤ x → x ≠ a → (b :: t).getD (x - a) none = t.getD (x - (a + 1)) none := by
      intro x h1 h2
      rw [show x - a = (x - (a + 1)) + 1 by omega]; rfl
    cases b with
    | none =>
      rw [segs, ih]
      by_cases h1 : a ≤ x
      · by_cases h2 : x = a
        · subst h2; simp
        · rw [if_pos (by omega), if_pos h1, hxa h1 h2]
      · rw [if_neg (by omega), if_neg h1]
    | some b =>
      have key : (m.apply (segs a (some b :: t))).get x = ((m.set a b).apply (segs (a + 1) t)).get x := by
        rw [segs]
        split
        · rename_i a' bs r heq
          by_cases h : a' = a + 1
          · subst h
            simp only [heq, if_true, Mem.apply, List.foldl_cons, Mem.op, Mem.write]
          · simp only [heq, if_neg h, Mem.apply, List.foldl_cons, Mem.op, Mem.write]
        · rfl
      rw [key, ih]
      by_cases h1 : a ≤ x
      · by_cases h2 : x = a
        · subst h2; rw [if_neg (by omega), if_pos h1, Mem.get_set]; simp
        · rw [if_pos (by omega), if_pos h1, hxa h1 h2, Mem.get_set, if_neg h2]
      · rw [if_neg (by omega), if_neg h1, Mem.get_set, if_neg (by omega)]

/-- A word that holds no uncorrectable error is read without a change of memory, of the cores and of its husk marks
(R167). -/
theorem eccWord_frame (d : Dev) (core w : Nat) (h : Tab.get 0 d.chip.tow.errs (wordKey core w) ≠ 1000) :
    (d.eccWord core w).wr = d.wr ∧ (d.eccWord core w).chip.tow.cores = d.chip.tow.cores
      ∧ (d.eccWord core w).chip.tow.husk = d.chip.tow.husk
      ∧ (∀ k, Tab.get 0 (d.eccWord core w).chip.tow.errs k = Tab.get 0 d.chip.tow.errs k
          ∨ Tab.get 0 (d.eccWord core w).chip.tow.errs k = 0) := by
  unfold Dev.eccWord
  dsimp only
  split
  · exact ⟨rfl, rfl, rfl, fun _ => .inl rfl⟩
  · rename_i heq; exact absurd heq h
  · refine ⟨rfl, rfl, rfl, fun k => ?_⟩
    simp only [Dev.count_chip, Dev.onTow_eq, Dev.onChip_chip, Tab.get, Tab.find_del]
    by_cases hk : k = wordKey core w <;> simp [hk]

/-- Words without uncorrectable errors are read without a change of memory, of the cores and of husk marks (R167). -/
theorem readWords_frame (d : Dev) (core a n : Nat)
    (h : ∀ w ∈ wordsOf a n, Tab.get 0 d.chip.tow.errs (wordKey core w) ≠ 1000) :
    (d.readWords core a n).wr = d.wr ∧ (d.readWords core a n).chip.tow.cores = d.chip.tow.cores
      ∧ (d.readWords core a n).chip.tow.husk = d.chip.tow.husk := by
  unfold Dev.readWords
  suffices ∀ (l : List Nat) (d : Dev), (∀ w ∈ l, Tab.get 0 d.chip.tow.errs (wordKey core w) ≠ 1000) →
      (l.foldl (fun d w => d.eccWord core w) d).wr = d.wr
        ∧ (l.foldl (fun d w => d.eccWord core w) d).chip.tow.cores = d.chip.tow.cores
        ∧ (l.foldl (fun d w => d.eccWord core w) d).chip.tow.husk = d.chip.tow.husk from this _ d h
  intro l
  induction l with
  | nil => intro d _; exact ⟨rfl, rfl, rfl⟩
  | cons w l ih =>
    intro d hd
    have h1 := eccWord_frame d core w (hd w (by simp))
    have h2 := ih (d.eccWord core w) (fun x hx => by
      rcases h1.2.2.2 (wordKey core x) with h | h
      · rw [h]; exact hd x (by simp [hx])
      · rw [h]; omega)
    simp only [List.foldl_cons]
    exact ⟨h2.1.trans h1.1, h2.2.1.trans h1.2.1, h2.2.2.trans h1.2.2.1⟩

end Sys2Proof.Machine
end

