-- ==== Sys2Proof/Tests/Slice0.lean ====
section
/-! SUPPORT. The model's own tests: well-formedness, the hypotheses of the statements met by concrete states, and worked
values of the spec. -/

namespace Sys2Proof.Tests

-- one theorem after the other: a kernel decision waits for all before it, and would hold a thread while it does
set_option Elab.async false

open Sys2Proof Sys2Proof.Machine Sys2Proof.Claims

/-! ## Small states -/

/-- The state after reset with another chip. -/
def on (c : Chip) : State := { dev := { chip := c } }

theorem inv_on (c : Chip) : Inv (on c) := ⟨rfl, nofun, rfl, rfl⟩

theorem ready_on (c : Chip) : Ready (on c) := ⟨inv_on c, rfl⟩

/-- The fetch of the first word of the first core. -/
def k0 : Fetch := { core := 0 }

/-- That core is issuing the word; its registers are those of `c`. -/
def issuing (cls op : Nat) (w : OpWord) (c : Core := {}) : State :=
  on { tow := { cores := [(0, { c with st := .running, istore := [(c.pc, BitVec.ofNat 128 (packWord cls op w))] })] } }

/-- It issues and its operation starts. -/
def begins (cls op : Nat) (w : OpWord) (c : Core := {}) : Bool :=
  let s := issuing cls op w c
  issues s k0 cls op w && unitFree s k0 cls && goesOn s k0

/-- The hypotheses of a clause about a unit's word: the operation starts, and `P`. -/
def Met (cls op : Nat) (w : OpWord) (c : Core := {}) (P : State → Prop := fun _ => True) : Prop :=
  Starts (issuing cls op w c) k0 cls op w ∧ P (issuing cls op w c)

/-- The hypotheses of a clause about a controller word. -/
def MetAct (cls op : Nat) (w : OpWord) (c : Core := {}) (P : State → Prop := fun _ => True) : Prop :=
  Acts (issuing cls op w c) k0 cls op w ∧ P (issuing cls op w c)

theorem met {cls op : Nat} {w : OpWord} {c : Core} {P : State → Prop} (h : begins cls op w c = true ∧ P (issuing cls op w c)) :
    Met cls op w c P := by
  have h' := h.1
  simp only [begins, Bool.and_eq_true] at h'
  exact ⟨⟨inv_on _, h'.1.1, h'.1.2, h'.2⟩, h.2⟩

theorem met_act {cls op : Nat} {w : OpWord} {c : Core} {P : State → Prop} (h : begins cls op w c = true ∧ P (issuing cls op w c)) :
    MetAct cls op w c P := ⟨⟨inv_on _, (met h).1.2.1, (met h).1.2.2.2⟩, h.2⟩

/-- A tile descriptor of 32 rows and `cols` columns in format `fmt`, at the address `base` with stride `stride`. -/
def tile (base stride cols fmt : Nat) (blk : Bool) : BitVec 256 :=
  BitVec.ofNat 256 (base + stride * 2 ^ 32 + 32 * 2 ^ 192 + cols * 2 ^ 208 + fmt * 2 ^ 224 + b2n blk * 2 ^ 228)

/-- A loaded image without programs. -/
def aLoad : Loaded := { image := {}, srcKind := 1, src := 0, len := 256, fn := 0 }

/-- A register that holds `v` in a field and 0 elsewhere. -/
def holds (f : Fld) (v : Nat) (i : Nat := 0) (e : Nat := 0) (sel : Nat := 0) : Nat × Word := (f.key i e sel, BitVec.ofNat 32 (v * 2 ^ f.lo))

/-! ## Cores -/

/-- Scalars s1 to s5 hold the last addresses at which 256, 4 and 32 bytes, a bank image and a line fit. -/
def ends : Core := { s := [(1, 0x2FFF00), (2, 0x2FFFFC), (3, 0x2FFFE0), (4, 0x2FBF80), (5, 0x2FFF80)] }

theorem witness_LoadsReadThePantry :
    (let w : OpWord := { f0 := 63, f1 := 1 }; Met 0 1 w ends fun s => sound s k0 (addrOf s k0 w) 256 = true)
    ∧ (let w : OpWord := { f0 := 31, f1 := 2 }; Met 0 3 w ends fun s => sound s k0 (addrOf s k0 w) 4 = true)
    ∧ (let w : OpWord := { f0 := 159, f1 := 3 }; Met 0 5 w ends fun s => sound s k0 (addrOf s k0 w) 32 = true)
    ∧ (let w : OpWord := { f0 := 163, f1 := 4 }; Met 1 4 w ends fun s => sound s k0 (addrOf s k0 w) bankImageBytes = true) :=
  ⟨met (by decide +kernel), met (by decide +kernel), met (by decide +kernel), met (by decide +kernel)⟩

theorem witness_StoresWriteThePantry :
    (let w : OpWord := { f0 := 63, f1 := 1, f2 := 71, h := 4 }; Met 0 2 w ends fun s => noUncorr s k0 (addrOf s k0 w) 256 = true)
    ∧ (let w : OpWord := { f0 := 31, f1 := 2 }; Met 0 4 w ends fun s => noUncorr s k0 (addrOf s k0 w) 4 = true)
    ∧ (let w : OpWord := { f1 := 5, h := 1, i := 0xFFFFFFFF }; Met 0 8 w ends fun s => noUncorr s k0 (addrOf s k0 w) (128 * w.h) = true)
    ∧ (let w : OpWord := { f0 := 163, f1 := 4 }; Met 1 3 w ends fun s => noUncorr s k0 (addrOf s k0 w) bankImageBytes = true) :=
  ⟨met (by decide +kernel), met (by decide +kernel), met (by decide +kernel), met (by decide +kernel)⟩

theorem witness_SetdAndCopy :
    Met 0 6 { f0 := 159, f1 := 31, h := 28 }
    ∧ (let w : OpWord := { f1 := 5, f2 := 0, h := 1 }
       Met 0 7 w ends fun s => noUncorr s k0 (srcOf s k0 w) (128 * w.h) = true ∧ noUncorr s k0 (addrOf s k0 w) (128 * w.h) = true) :=
  ⟨met (by decide +kernel), met (by decide +kernel)⟩

theorem witness_BankMoves :
    Met 1 5 { f0 := 163, i := 2 ^ 18 } ∧ Met 1 7 { f0 := 63, f1 := 163, h := 31 } ∧ Met 1 8 { f0 := 163, f1 := 63, h := 31 }
    ∧ Met 1 6 { f0 := 163, f1 := 63 } :=
  ⟨met (by decide +kernel), met (by decide +kernel), met (by decide +kernel), met (by decide +kernel)⟩

/-- d1 is a tile of A, d2 one of B, in format `fmt`; d3 a tile of C at address 0x10000 in FP32. -/
def tiles (fmt : Nat) (isInt : Bool := false) : Core :=
  { d := [(1, tile 0 0x800 32 fmt true), (2, BitVec.ofNat 256 (0x4000 + 0x1000 * 2 ^ 32 + 32 * 2 ^ 192 + 64 * 2 ^ 208 + fmt * 2 ^ 224)),
      (3, tile 0x10000 0x100 64 0 false)]
    b := [(0, { isInt })] }

theorem witness_MatrixMultiplyAndOut :
    (let w : OpWord := { f0 := 160, f1 := 129, f2 := 130, h := 1 }
     Met 1 1 w (tiles 3) fun s => w.h = 1 ∧ bitOf w.i 17 = false ∧ s.gate.inj.st ≠ .active
       ∧ ∀ r ∈ rangesA (argsOf s k0 w).a (argsOf s k0 w).kb0 ++ rangesB (argsOf s k0 w).b (argsOf s k0 w).kb0, sound s k0 r.1 r.2 = true)
    ∧ (let w : OpWord := { f0 := 160, f1 := 131 }
       Met 1 2 w (tiles 3) fun s => (coreAt s k0).closed = []
         ∧ ∀ r ∈ (outRanges ((coreAt s k0).capture 1 2 w true {}) s.dev.chip.frm.cur).1, noUncorr s k0 r.1 r.2 = true) :=
  ⟨met (by decide +kernel), met (by decide +kernel)⟩

theorem witness_IntegerAccumulatorSaturates :
    let w : OpWord := { f0 := 160, f1 := 129, f2 := 130, h := 1, i := 2 ^ 18 }
    Met 1 1 w (tiles 8 true) fun s => w.h = 1 ∧ bitOf w.i 17 = false ∧ s.gate.inj.st ≠ .active ∧ (argsOf s k0 w).isInt = true
      ∧ (argsOf s k0 w).zero = false
      ∧ ∀ r ∈ rangesA (argsOf s k0 w).a (argsOf s k0 w).kb0 ++ rangesB (argsOf s k0 w).b (argsOf s k0 w).kb0, sound s k0 r.1 r.2 = true :=
  met (by decide +kernel)

/-- Lane words: a vector destination and two vector sources, of lane type `ty` under mask m7. -/
def lanesWord (ty : Nat) (i : Nat := 0) : OpWord := { f0 := 63, f1 := 32, f2 := 33, h := 0x70 + ty, i }

theorem witness_FloatLanes :
    Met 2 1 (lanesWord 1) ∧ Met 2 2 (lanesWord 2) ∧ Met 2 3 { lanesWord 0 (2 ^ 31) with f2 := 31 }
    ∧ Met 2 4 { lanesWord 1 with f3 := 34, h := 0x171 } :=
  ⟨met (by decide +kernel), met (by decide +kernel), met (by decide +kernel), met (by decide +kernel)⟩

theorem witness_IntegerLanes :
    Met 2 0x30 (lanesWord 3) ∧ Met 2 0x31 (lanesWord 4) ∧ Met 2 0x32 (lanesWord 3) ∧ Met 2 0x33 (lanesWord 4) ∧ Met 2 0x34 (lanesWord 3)
    ∧ Met 2 0x35 (lanesWord 4) ∧ Met 2 0x36 { lanesWord 3 (2 ^ 31) with f2 := 31 } ∧ Met 2 0x37 (lanesWord 4) :=
  ⟨met (by decide +kernel), met (by decide +kernel), met (by decide +kernel), met (by decide +kernel), met (by decide +kernel),
    met (by decide +kernel), met (by decide +kernel), met (by decide +kernel)⟩

theorem witness_LaneChoices :
    Met 2 5 (lanesWord 0) ∧ Met 2 6 (lanesWord 4) ∧ Met 2 8 { lanesWord 1 with f3 := 71 } ∧ Met 2 7 { lanesWord 3 5 with f0 := 71 }
    ∧ Met 2 7 { lanesWord 3 0 with f0 := 64 } :=
  ⟨met (by decide +kernel), met (by decide +kernel), met (by decide +kernel), met (by decide +kernel), met (by decide +kernel)⟩

theorem witness_LaneMakers :
    Met 2 9 { f0 := 63, f1 := 32, h := 0x171, i := 0x30 } ∧ Met 2 0xA { f0 := 63, f1 := 32, f2 := 31, i := 9 }
    ∧ Met 2 0xB { f0 := 63, h := 0x74, i := 2 ^ 31, j := 0xFFFFFFFF } ∧ Met 2 0xB { f0 := 63, f1 := 31, h := 0x70 }
    ∧ Met 2 0xC { f0 := 63, h := 0x74 } ∧ Met 2 0xD { f0 := 71, f1 := 31, h := 4 } ∧ Met 2 0xD { f0 := 64, f1 := 31 } :=
  ⟨met (by decide +kernel), met (by decide +kernel), met (by decide +kernel), met (by decide +kernel), met (by decide +kernel),
    met (by decide +kernel), met (by decide +kernel)⟩

/-- Words of the function operations. -/
def fnWord : OpWord := { f0 := 63, f1 := 32, h := 0x171 }

theorem witness_FunctionLanes :
    (Met 2 0x10 fnWord ∧ Met 2 0x11 fnWord ∧ Met 2 0x12 fnWord ∧ Met 2 0x13 fnWord ∧ Met 2 0x14 fnWord ∧ Met 2 0x15 fnWord
      ∧ Met 2 0x16 fnWord ∧ Met 2 0x17 fnWord)
    ∧ (Fmt.fp32.decode 0x7F800001).isNan = true
    ∧ (Fmt.fp32.decode 0x80000001).isNan = false ∧ (Fmt.fp32.decode 0x80000001).isZero = false ∧ (Fmt.fp32.decode 0x80000001).isNeg = true
    ∧ ((2 : Nat) < 3 ∧ fnSpecial .exp ((laneFmt 2).decode 0x3C00) = none ∧ Fn.far .exp ((laneFmt 2).decode 0x3C00) = false)
    ∧ ((1 : Nat) < 3 ∧ fnSpecial .sin ((laneFmt 1).decode 0x3F80) = none ∧ Fn.far .sin ((laneFmt 1).decode 0x3F80) = false) :=
  ⟨⟨met (by decide +kernel), met (by decide +kernel), met (by decide +kernel), met (by decide +kernel), met (by decide +kernel),
    met (by decide +kernel), met (by decide +kernel), met (by decide +kernel)⟩, by decide +kernel⟩

theorem witness_SortAndGather :
    (let w : OpWord := { f0 := 34, f1 := 32, f2 := 33, f3 := 35, h := 3, i := 1 }; Met 2 0x20 w {} fun _ => opIdx w.f0 ≠ opIdx w.f3)
    ∧ (let w : OpWord := { f0 := 34, f1 := 32, f2 := 33, f3 := 35, h := 1, i := 64 }; Met 2 0x21 w {} fun _ => opIdx w.f0 ≠ opIdx w.f3)
    ∧ (let w : OpWord := { f0 := 34, f1 := 131, f2 := 31, f3 := 71, h := 0x70, i := 2 ^ 31 }
       Met 2 0x22 w { tiles 3 with m := [(7, 1)] } fun s =>
         let d := (Desc.ofBits ((coreAt s k0).rdD (opIdx w.f1))).pingPong s.dev.chip.frm.cur
         ∀ l, l < 64 → enabled s k0 w l = true → ∀ a ∈ gatherAddr d (toSigned 32 (laneB s k0 w 3 l)), sound s k0 a (laneBytes (gatherTy d)) = true) :=
  ⟨met (by decide +kernel), met (by decide +kernel), met (by decide +kernel)⟩

theorem witness_LaneReductions :
    (let w : OpWord := { f0 := 31, f1 := 32, h := 0x73 }; Met 3 1 w {} fun _ => opIdx w.f0 ≠ 0)
    ∧ (let w : OpWord := { f0 := 31, f1 := 32, h := 4 }
       Met 3 2 w {} fun s => opIdx w.f0 ≠ 0 ∧ firstBest (fun a b => keyLt 4 b a) (taken s k0 w) = some (0, 0))
    ∧ (let w : OpWord := { f0 := 31, f1 := 32, h := 0 }
       Met 3 3 w {} fun s => opIdx w.f0 ≠ 0 ∧ firstBest (keyLt 0) (taken s k0 w) = some (0, 0))
    ∧ (let w : OpWord := { f0 := 31, f1 := 32, f2 := 30, h := 0x71 }
       Met 3 4 w { m := [(7, 2 ^ 127)] } fun s => opIdx w.f0 ≠ 0 ∧ opIdx w.f2 ≠ 0 ∧ opIdx w.f0 ≠ opIdx w.f2
         ∧ firstBest (fun a b => keyLt 1 b a) (taken s k0 w) = some (127, 0)) :=
  ⟨met (by decide +kernel), met (by decide +kernel), met (by decide +kernel), met (by decide +kernel)⟩

theorem witness_BankReductions :
    (let w : OpWord := { f0 := 63, f1 := 163, f2 := 31 }; Met 3 5 w { s := [(31, 64)] } fun s => ((coreAt s k0).rdB (opIdx w.f1)).isInt = false)
    ∧ (let w : OpWord := { f0 := 63, f1 := 163, f2 := 31 }; Met 3 6 w { s := [(31, 65)] } fun s => ((coreAt s k0).rdB (opIdx w.f1)).isInt = false)
    ∧ (let w : OpWord := { f0 := 61, f1 := 163, f2 := 62, f3 := 63, h := 0x1E1F }
       Met 3 8 w { s := [(31, 64)] } fun s => ((coreAt s k0).rdB (opIdx w.f1)).isInt = false ∧ opIdx w.f0 ≠ opIdx w.f2 ∧ opIdx w.f0 ≠ opIdx w.f3
         ∧ opIdx w.f2 ≠ opIdx w.f3)
    ∧ (let w : OpWord := { f0 := 63, f1 := 131, f2 := 62, f3 := 31, h := 8 }
       Met 3 9 w (tiles 3) fun s =>
         let d := (Desc.ofBits ((coreAt s k0).rdD (opIdx w.f1))).pingPong s.dev.chip.frm.cur
         ∀ e, e < bitsOf w.h 0 4 → sound s k0 (d.base + e * d.stride + ((coreAt s k0).rdS (opIdx w.f3)).toNat) 256 = true) :=
  ⟨met (by decide +kernel), met (by decide +kernel), met (by decide +kernel), met (by decide +kernel)⟩

theorem witness_ControllerRegisters :
    MetAct 4 0 {} ∧ MetAct 4 1 { f0 := 31, j := 0xFFFFFFFF } ∧ MetAct 4 2 { f0 := 31, f1 := 1, f2 := 2, h := 10 }
    ∧ MetAct 4 2 { f0 := 0, f1 := 1, h := 7, i := 2 ^ 31, j := 32 } ∧ MetAct 4 3 { f0 := 103, f1 := 1, f2 := 2, h := 13 }
    ∧ MetAct 4 4 { f0 := 103, f1 := 97, f2 := 98, h := 3 } ∧ MetAct 4 0x10 { f0 := 31 } ∧ MetAct 4 0x11 { f0 := 31, i := 1 }
    ∧ MetAct 5 1 { f0 := 163, h := 0xFFFF } ∧ MetAct 5 2 { f0 := 31, h := 0x1F } :=
  ⟨met_act (by decide +kernel), met_act (by decide +kernel), met_act (by decide +kernel), met_act (by decide +kernel),
    met_act (by decide +kernel), met_act (by decide +kernel), met_act (by decide +kernel), met_act (by decide +kernel),
    met_act (by decide +kernel), met_act (by decide +kernel)⟩

theorem witness_ControlFlow :
    MetAct 4 8 { h := 1, j := 0xFFF }
    ∧ MetAct 4 8 { h := 0, j := 0xFFE } {} (fun s => (advance 0xFFE (coreAt s k0).loops).1 ≤ 0xFFF)
    ∧ MetAct 4 9 { j := 0xFFF } :=
  ⟨met_act (by decide +kernel), met_act (by decide +kernel), met_act (by decide +kernel)⟩

theorem witness_WaitsAndBarriers :
    MetAct 4 0xA { h := 0xF } ∧ MetAct 4 0xB {} { replay := true } ∧ MetAct 4 0xC { h := 0xFF }
    ∧ MetAct 4 0xD { f0 := 103, h := 0xFF } {} (fun s => (coreAt s k0).replay = false)
    ∧ MetAct 4 0xD { f0 := 96, h := 0 } { replay := true } (fun s => (coreAt s k0).replay = true) ∧ MetAct 4 0xE {} :=
  ⟨met_act (by decide +kernel), met_act (by decide +kernel), met_act (by decide +kernel), met_act (by decide +kernel),
    met_act (by decide +kernel), met_act (by decide +kernel)⟩

theorem witness_Traps :
    MetAct 4 0xF { h := 0xFF }
    ∧ (let s := issuing 4 0 {}; s.active = true ∧ coreOk k0.core = true ∧ (coreAt s k0).st = .running ∧ (coreAt s k0).wait = none)
    ∧ (let s := issuing 6 0 {}; (coreAt s k0).st = .running ∧ (coreAt s k0).wait = none
        ∧ (let x := unpackWord (Tab.get 0 (coreAt s k0).istore (coreAt s k0).pc).toNat; opForm x.1 x.2.1 x.2.2 = none)) :=
  ⟨met_act (by decide +kernel), by decide +kernel, by decide +kernel⟩

theorem witness_XsigPosts :
    let w : OpWord := { f1 := 5, h := 1, i := 0xFF }
    MetAct 5 3 w ends fun s => s.gate.inj.st ≠ .active ∧ sound s k0 (addrOf s k0 w) (128 * w.h) = true :=
  met_act (by decide +kernel)

/-- A unit that still runs an earlier operation. -/
def busyUnit : Core := { flight := [(.move, { cls := 0, op := 8, w := {} }), (.vec, { cls := 2, op := 1, w := { f0 := 37, f1 := 37, f2 := 37 } })] }

theorem witness_UnitsAndQueues :
    (let s := issuing 0 8 { h := 1 } busyUnit; issues s k0 0 8 { h := 1 } = true ∧ goesOn s k0 = true ∧ unitFree s k0 0 = false)
    ∧ (let s := issuing 2 1 (lanesWord 0) busyUnit; issues s k0 2 1 (lanesWord 0) = true ∧ goesOn s k0 = true ∧ unitFree s k0 2 = false)
    ∧ (let u : UOp := { cls := 2, op := 1, w := {}, run := false }
       let c := coreAt (issuing 4 0 {} { vecQ := [u] }) k0
       c.queue (unitOf 2) = [u] ∧ c.inFlight (unitOf 2) = false ∧ u.run = false ∧ u.cls ≠ 1 ∧ unitOf u.cls = unitOf 2)
    ∧ (let c := coreAt (issuing 4 0 {} { wait := some (.sync 15) }) k0; c.wait = some (.sync 15) ∧ c.syncDone 15 = true) := by
  decide +kernel

theorem witness_OperationWordLayout :
    wordOk { psel := 7, f0 := 255, f1 := 255, f2 := 255, f3 := 255, h := 0xFFFF, i := 0xFFFFFFFF, j := 0xFFFFFFFF } = true ∧ (15 : Nat) < 16 := by
  decide
/-! ## Registers, views, alignment and snapshots -/

/-- The PF reads a register of the state after reset that answers `P`; no pair word is latched. -/
def readsAs (a : Nat) (P : RegRef → Bool) : Prop :=
  (on {}).dev.chip.cutOff a = false ∧ ((on {}).dev.readable .pf a).any P = true ∧ (on {}).dev.pairs = [] ∧ a ≠ F.FRM_VIEW_LO.addr

theorem witness_RegisterReads :
    Ready (on {})
    ∧ readsAs F.FRM_SYNC_COUNT_EXTRA.addr (fun x => !keepsRc .pf x && !x.row.pair && decide (x.row.rc ≠ 0) && !isWatermark x.row)
    ∧ readsAs F.QUE_POOL_LOW.addr (fun x => !keepsRc .pf x && !x.row.pair && decide (x.row.rc ≠ 0) && isWatermark x.row)
    ∧ readsAs F.FRM_COMMIT_LO.addr (fun x => decide (x.row.rc = 0) && x.row.pair)
    ∧ ((regAt F.FRM_COMMIT_LO.addr).map fun y => y.1.pair).getD false = true
    ∧ (14 : Nat) % 16 ≠ 15 := by
  refine ⟨ready_on _, ?_, ?_, ?_, by decide +kernel, by decide⟩ <;> unfold readsAs <;> decide +kernel

theorem witness_RegisterWrites :
    Ready (on {})
    ∧ ((on {}).dev.writable .pf F.PWR_STAGGER_ALWAYS.addr).any (fun x => plainReg x
        && decide ((on {}).dev.rwMask .pf x.row.addr 0xFFFFFFFF x.row.rw + (0xFFFFFFFF &&& (x.row.w1c ||| x.row.w1s)) ≠ 0)) = true
    ∧ ((on {}).dev.writable .pf F.FRM_INT_STATUS_BAD_WRITE.addr).any (fun x => decide (2 ^ 31 - 1 &&& x.row.w1c ≠ 0)) = true
    ∧ (8 ≤ 8 ∧ 128 ≤ 128) ∧ (7 < 8 ∨ 128 < 7) ∧ (129 < 8 ∨ 128 < 129)
    ∧ ((on {}).dev.chip.boot.warm = false ∧ (on {}).dev.chip.boot.recovery = false)
    ∧ (let s : State := { on {} with gate := { locked := true } }
       Inv s ∧ s.active = true ∧ s.gate.locked = true ∧ (s.dev.writable .pf 0x10018).any (fun x => decide (0 % 2 ≠ s.dev.stagedReg x.key % 2)) = true)
    ∧ (let c := (on { frm := { begun := true, cur := 2 ^ 48 - 1 } }).dev.chip
       c.frm.cur < 2 ^ 48 ∧ c.dueFrame (c.frameNs - 128) = 0 ∧ c.dueFrame (c.frameNs - 127) = 1) := by
  refine ⟨ready_on _, by decide +kernel, by decide +kernel, by decide, by decide, by decide, by decide, ?_, by decide +kernel⟩
  refine ⟨⟨rfl, ?_, rfl, rfl⟩, by decide +kernel⟩
  intro
  decide

theorem witness_Views :
    Ready (on {})
    ∧ (let v : View := ⟨0, 0, {}, []⟩
       let s : State := { dev := { chip := { frm := { begun := true, cur := 4095 } }, views := [(0, v)] } }
       s.dev.views.find? (fun p => p.1 = Requester.pf.code) = some (Requester.pf.code, v) ∧ 4096 ≤ frameSub (nextFrame s.dev.chip.frm.cur) v.pinned) :=
  ⟨ready_on _, by decide +kernel⟩

/-- FRM_SYNC_CTL.SRC in force. -/
def syncRegs (v : Word) : Tab Word := [(F.FRM_SYNC_CTL_SRC.key, v)]

theorem witness_EdgesAlignFrames :
    let c (x : Sync) : Chip := { regs := syncRegs 1, frm := { begun := true, sync := x } }
    (∀ x, Ready (on (c x)))
    ∧ ((c { st := .locked }).fld F.FRM_SYNC_CTL_SRC = 1 ∧ (c { st := .locked }).frm.sync.coarse = false ∧ 256 ≤ 256)
    ∧ ((c { st := .acquiring }).frameNs : Int) - 256 ≤ ((c { st := .acquiring }).frameNs - 256 : Nat) ∧ 256 < (c { st := .acquiring }).frameNs - 256
    ∧ (c { st := .lost, seen := true }).frm.sync.seen = true ∧ (c { st := .locked, came := true }).frm.sync.came = true
    ∧ (256 < (257 : Nat) ∧ ((257 : Nat) : Int) < (c {}).frameNs - 256)
    ∧ (c { st := .acquiring, coarse := true }).frm.sync.coarse = true := by
  refine ⟨fun x => ready_on _, ?_⟩
  decide +kernel


theorem witness_AlignmentEvents :
    (Ready (on {}) ∧ (2 : Nat) < 3 ∧ (on {}).dev.chip.loadedRooms = [])
    ∧ (let c : Chip := { rooms := [(15, { st := .running, cur := some aLoad })] }; Ready (on c) ∧ c.loadedRooms ≠ [])
    ∧ (let x : Sync := { st := .locked, missFrames := 63 }
       Ready (on { frm := { sync := x } }) ∧ (x.st = .acquiring ∨ x.st = .locked) ∧ x.seen = false ∧ 63 ≤ x.missFrames)
    ∧ (let x : Sync := { st := .quarantined, quarLeft := 1 }; x.st = .quarantined ∧ x.quarLeft ≤ 1)
    ∧ (let c : Chip := { regs := syncRegs 2, blocks := [(20, { st := .ready })], jil := { ports := [(0, { st := 3, carrying := true })] }
                         frm := { begun := true, sync := { st := .locked } } }
       Ready (on c) ∧ c.portUp 0 = true ∧ (c.port 0).carrying = true ∧ bitOf 1 2 = false ∧ c.fld F.FRM_SYNC_CTL_SRC = 2 ∧ c.fld F.FRM_SYNC_CTL_PORT = 0
         ∧ bitOf 1 0 = true ∧ c.frm.sync.setOffset = false ∧ c.frm.sync.coarse = false ∧ c.frm.sync.st.accepts = true ∧ c.frm.sync.seen = false
         ∧ c.frm.sync.st ≠ .off ∧ -256 ≤ ((256 : Nat) : Int) - 0 - (c.port 0).delay ∧ ((256 : Nat) : Int) - 0 - (c.port 0).delay ≤ 256)
    ∧ (let c : Chip := { blocks := [(20, { st := .ready })], jil := { ports := [(2, { st := 4, carrying := true })] } }
       c.portUp 2 = true ∧ (c.port 2).carrying = true ∧ bitOf 0 2 = false ∧ bitOf 0 0 = false ∧ bitOf 0 1 = false ∧ bitOf 1 0 = true ∧ ¬ (c.fld F.FRM_SYNC_CTL_SRC = 2 ∧ c.fld F.FRM_SYNC_CTL_PORT = 2))
    ∧ (let c : Chip := { frm := { sync := { st := .locked } } }; c.pwr.holdover = false ∧ c.frm.sync.st ≠ .off)
    ∧ (let c : Chip := { pwr := { holdover := true, relocking := true } }; c.pwr.holdover = true ∧ c.pwr.relocking = true) := by
  refine ⟨⟨ready_on _, ?_⟩, ⟨ready_on _, ?_⟩, ⟨ready_on _, ?_⟩, ?_, ⟨ready_on _, ?_⟩, ?_⟩ <;> decide +kernel

theorem witness_Snapshots :
    let regs : Tab Word := [(F.SNAP_CTL_SRC_EN.key, BitVec.ofNat 32 F.SNAP_CTL_SRC_EN.mask)]
    (∀ x, Ready (on { regs, snap := x }))
    ∧ (let c : Chip := { regs, snap := { st := .armed } }
       c.boot.warm = false ∧ bitOf (c.fld F.SNAP_CTL_SRC_EN) 0 = true ∧ bitOf (c.fld F.SNAP_CTL_SRC_EN) 4 = true)
    ∧ bitOf (({} : Chip).fld F.SNAP_CTL_SRC_EN) 4 = false
    ∧ ({} : Snap).st = .idle ∧ ({ st := .stalled } : Snap).st = .stalled ∧ ({ st := .collecting, pendArm := true } : Snap).pendArm = true :=
  ⟨fun _ => ready_on _, by decide +kernel⟩
/-! ## Power, resets, blocks and sequencers -/

theorem witness_PowerAndModuleReset :
    (let s : State := { gate := { powered := false } }; s.gate.powered = false ∧ s.dev.chip.pins.ovOff = false)
    ∧ (let s : State := { gate := { powered := false }, dev := { chip := { pins := { ovOff := true } } } }
       s.gate.powered = false ∧ s.dev.chip.pins.ovOff = true)
    ∧ ((on {}).gate.powered = true ∧ (on {}).gate.held = false ∧ (on {}).dev.chip.boot.started = false ∧ (on {}).active = true
        ∧ (on {}).dev.chip.boot.warm = false)
    ∧ (let s := on { thm := { tripped := true, coolAt := some 0 }, frm := { time := 5000000000 } }
       s.active = true ∧ s.dev.chip.thm.tripped = true ∧ s.dev.chip.thm.coolAt = some 0 ∧ 0 + 5000000000 ≤ s.dev.chip.frm.time) := by
  decide +kernel

theorem witness_WarmAndScopedResets :
    (Ready (on {}) ∧ (on {}).dev.chip.boot.warm = false) ∧ (Ready (on { boot := { warm := true } }) ∧ (on { boot := { warm := true } }).dev.chip.boot.warm = true)
    ∧ 7 < 8 ∧ 11 < 12 ∧ 3 < 4 ∧ 1 < 2 :=
  ⟨⟨ready_on _, rfl⟩, ⟨ready_on _, rfl⟩, by decide⟩

/-- Every quadrant READY, and the block `k`. -/
def oneBlock (k : Nat) (b : Block) : Chip :=
  { blocks := Tab.ins [(22, { st := .ready }), (23, { st := .ready }), (24, { st := .ready }), (25, { st := .ready })] k b }

/-- A room whose image holds row 0 of tower 0. -/
def withRow : Chip :=
  { rooms := [(0, { st := .halted, cur := some { aLoad with image := { rows := [0] } } })], blocks := [(0, { st := .ready }), (22, { st := .ready })] }

theorem witness_BlockStates :
    (∀ c, Ready (on c))
    ∧ (let c := oneBlock 21 { st := .starting }; (c.block 21).st = .starting ∧ c.quadUp 21 = true ∧ 21 < 22)
    ∧ (let c := oneBlock 25 { st := .starting }; 22 ≤ 25 ∧ 25 < 26 ∧ (c.block 25).st = .starting)
    ∧ (let c := oneBlock 0 { st := .stopping }; (c.block 0).st = .stopping ∧ (c.block 0).drain = false ∧ (c.block 0).pendEn = false)
    ∧ (let c := oneBlock 19 { st := .stopping, pendEn := true }; (c.block 19).st = .stopping ∧ (c.block 19).pendEn = true ∧ c.quadUp 19 = true)
    ∧ (let c := oneBlock 8 {}; (c.block 8).st = .off ∧ c.quadUp 8 = true)
    ∧ (let c : Chip := {}; (c.block 7).st = .off ∧ c.quadUp 7 = false)
    ∧ withRow.roomsWith 0 ≠ []
    ∧ (let c := oneBlock 7 { st := .ready }; 7 < 8 ∧ c.roomsWith 7 = [] ∧ (c.block 7).up = true) :=
  ⟨fun _ => ready_on _, by decide +kernel⟩

theorem witness_Sequencers :
    let both : Seqs := { a := .active, b := .standby }
    let other : Seqs := { a := .standby, b := .active, act := true, mailbox := true }
    (∀ c : Chip, c.boot.warm = false → Ready (on c) ∧ (on c).dev.chip.boot.warm = false)
    ∧ (let x : Seqs := { a := .bist, b := .bist }; x.a = .bist ∧ x.b = .bist ∧ x.drillBist = false)
    ∧ (let x : Seqs := { a := .standby, b := .bist }; x.a = .standby ∧ x.b = .bist ∧ x.drillBist = false)
    ∧ (let x : Seqs := { a := .failed, b := .bist }; x.a = .failed ∧ x.b = .bist ∧ x.drillBist = false ∧ x.lost = false)
    ∧ (both.st both.act = .active ∧ both.st (!both.act) = .standby ∧ both.take = none ∧ both.lost = false ∧ 1 ≤ 1 ∧ 4 ≤ 4 ∧ both.act = false)
    ∧ (let x : Seqs := { both with take := some ⟨1, false, false⟩ }; x.take = some ⟨1, false, false⟩ ∧ x.lost = false)
    ∧ (let c : Chip := { seq := both, frm := { published := true, begun := true, cur := 1024 } }
       c.frm.published = true ∧ c.frm.begun = true ∧ c.fld F.SEQ_CTL_HB_LIMIT ≤ c.fld F.SEQ_CTL_HB_LIMIT ∧ 0 < c.fld F.SEQ_CTL_HB_LIMIT
         ∧ c.frm.cur % 1024 = 0)
    ∧ (let c : Chip := { seq := other }
       other.st other.act = .active ∧ other.st (!other.act) = .standby ∧ c.seq.take = none ∧ c.seq.act = true ∧ c.seq.mailbox = true
         ∧ c.fld F.SEQ_CTL_MBX_US < c.fld F.SEQ_CTL_MBX_US + 1) :=
  ⟨fun _ h => ⟨ready_on _, h⟩, by decide +kernel⟩

theorem witness_Thresholds :
    (∀ c, Ready (on c))
    ∧ (let c : Chip := {}; c.frm.begun = false ∧ c.driven = false)
    ∧ (let c : Chip := { frm := { begun := true }, seq := { lost := true } }; c.frm.begun = true ∧ c.seq.lost = true)
    ∧ (let k : Takeover := ⟨1, false, false⟩
       let c : Chip := { frm := { begun := true }, seq := { take := some k } }
       c.frm.begun = true ∧ c.seq.lost = false ∧ c.seq.take = some k ∧ k.taken = false)
    ∧ (let k : Takeover := ⟨1, false, true⟩
       let c : Chip := { frm := { begun := true }, seq := { take := some k } }
       c.frm.begun = true ∧ c.seq.lost = false ∧ c.seq.take = some k ∧ k.taken = true)
    ∧ (let c (safe tripped : Bool) : Chip := { frm := { begun := true, safe }, seq := { a := .active }, thm := { tripped } }
       (∀ x y, (c x y).frm.begun = true ∧ (c x y).seq.lost = false ∧ (c x y).seq.take = none)
         ∧ (c true false).frm.safe = true ∧ (c false true).frm.safe = false ∧ (c false true).thm.tripped = true
         ∧ ({ settings := true } : Facts).settings = true ∧ ({ settings := false } : Facts).settings = false) :=
  ⟨fun _ => ready_on _, by decide +kernel⟩
/-! ## The Hall -/

/-- A bundle in service: lane `l` on line `l`, two spare lines. -/
def upBundle : Bundle :=
  let roles := List.range 16 ++ [roleSpare, roleSpare]
  { st := 2, roles, upperRoles := roles }

/-- Room 0 runs, on bundle 0, a step with these runs; latch 0 of every endpoint takes lane 0 of bundle 0. -/
def sending (runs : List RunE) (h : Hall := {}) : Chip :=
  { rooms := [(0, { st := .running, hold := false, cur := some { aLoad with image := { lanes := (List.range 16)
                                                                                       progs := [⟨0, 0, 0, 0, 0, 0, 0xFF, [{ runs }], [], [], [], 0, 0⟩] } } })]
    hall := { h with bundles := [(0, upBundle)], latches := (List.range 23).map fun e => (e * 512, { assigned := some (0, 0) }) } }

/-- A tensor run of bundle 0, lane 0, slots 4 and 5, from the end of slice (row 0, core 0) of tower 0. -/
def aRun (dest dkind : Nat) : RunE := ⟨0, 0, clsTensor, 4, 2, dest, dkind, 0, 0, 0x2FFF20, 0x2FFF20⟩

theorem witness_SlotsAreSent :
    let c := sending [aRun 0 1]
    Ready (on c) ∧ 0 < nBundles ∧ 0 < 18 ∧ 3 ≤ 3 ∧ 5 < c.slots ∧ (c.bundle 0).st = 2 ∧ (c.bundle 0).dark = false ∧ (c.bundle 0).lineRetired 0 = false
    ∧ ((c.bundle 0).checkUpper 0 = (c.bundle 0).check 0 ∧ (c.bundle 0).goodUpper = (c.bundle 0).goodBase)
    ∧ (let b := { upBundle with goodUpper := 1 }; ¬ (b.goodUpper = b.goodBase ∨ b.agree = true) ∧ b.mismatch = false)
    ∧ (let b := { upBundle with upperEpoch := 1 }; b.checkUpper 0 ≠ b.check 0)
    ∧ ((sending [⟨0, 0, clsSignal, 4, 1, 1, 0, 0, 0, 0, 0⟩]).placeAt 0 0 4).any (fun p => !p.replay && !p.folded && decide (p.run.cls = clsSignal)
        && p.run.generated && decide (endpointOf p.run.bundle < 8)) = true
    ∧ c.placeAt 0 ((c.bundle 0).roles.getD 17 roleRetired) 255 = none ∧ 255 < c.slots ∧ (c.bundle 0).lineRetired 17 = false
    ∧ (c.placeAt 0 ((c.bundle 0).roles.getD 0 roleRetired) 5).any (fun p => !p.replay && !p.folded && p.run.reread && p.run.dkind ≠ 6
        && decide (endpointOf p.run.bundle < 8) && decide ((0, p.lane, 5) ∉ c.hall.slipped)
        && decide (p.run.srcAddr + 112 * p.index + 112 = sliceBytes)
        && errorFree (on c) (c.physCore 0 0) (p.run.srcAddr + 112 * p.index) 112) = true :=
  ⟨ready_on _, by decide +kernel⟩

theorem witness_SlotLayout : (List.replicate 112 (0xFF : Byte)).length = 112 ∧ 13 < 14 ∧ 7 < 8 ∧ 127 < 128 ∧ 3 < 4 := by decide

theorem witness_SlotsArrive :
    let c := sending [aRun 22 1]
    Ready (on c) ∧ 22 < 23 ∧ 0 < latchCount 22 ∧ c.takes 22 0 = some (0, 0) ∧ (c.bundle 0).lineOf 0 = some 0 ∧ (on c).gate.inj.st ≠ .active
    ∧ (c.placeAt 0 0 4).any (fun p => p.run.dest = 22 && p.run.bundle = 0 && !p.replay && p.run.dkind = 1) = true
    ∧ (0, 22) ∉ c.hall.desync ∧ (c.bundle 0).mismatch = false ∧ 127 < 128
    ∧ (List.replicate 112 (0 : Byte)).length = 112
    ∧ (let bytes : List Byte := List.replicate 128 0; bytes.length = 128 ∧ popcount 16 (leField bytes 126 2) % 2 = 0) :=
  ⟨ready_on _, by decide +kernel⟩

/-- A header of 124 bytes FFH whose CRC field holds `n`. -/
def headerWith (n : Nat) : List Byte := List.replicate 124 0xFF ++ leBytes 4 n

theorem headerWith_crc (n : Nat) : (headerWith n).length = 128 ∧ leField (headerWith n) 0x7C 4 = n % 2 ^ 32
    ∧ (headerWith n).take 0x7C = List.replicate 124 0xFF := by
  refine ⟨by simp [headerWith, leBytes], ?_, List.take_left' (by simp)⟩
  rw [leField, headerWith, List.drop_left' (by simp)]
  simp [leBytes, ofLe]
  omega

theorem witness_FrameHeadersChecked :
    let c := sending []
    let crc := (crc32c (List.replicate 124 0xFF)).toNat
    (Ready (on c) ∧ c.takes 0 0 = some (0, 0) ∧ (c.bundle 0).lineOf 0 = some 0 ∧ (c.bundle 0).dark = false ∧ c.frm.cur < 2 ^ 48
      ∧ (c.bundle 0).checkUpper 0 = (c.bundle 0).check 0)
    ∧ (let bytes := headerWith (crc + 1); bytes.length = 128 ∧ ¬ leField bytes 0x7C 4 = (crc32c (bytes.take 0x7C)).toNat)
    ∧ (let bytes := headerWith crc
       bytes.length = 128 ∧ leField bytes 0x7C 4 = (crc32c (bytes.take 0x7C)).toNat ∧ leField bytes 6 6 ≠ c.frm.cur ∧ (0, 0) ∉ c.hall.desync
         ∧ leField bytes 0xC 4 ≠ ((c.bundle 0).check 0).toNat ∧ (c.bundle 0).mismatch = false) := by
  intro c crc
  have h := headerWith_crc crc
  have h' := headerWith_crc (crc + 1)
  have lt : crc < 2 ^ 32 := BitVec.isLt _
  refine ⟨⟨ready_on _, by decide +kernel⟩, ⟨h'.1, ?_⟩, h.1, ?_, ?_, by decide, ?_, by decide⟩
  · rw [h'.2.1, h'.2.2]
    show ¬ (crc + 1) % 2 ^ 32 = crc
    omega
  · rw [h.2.1, h.2.2]
    exact Nat.mod_eq_of_lt lt
  · have : leField (headerWith crc) 6 6 = 2 ^ 48 - 1 := by simp [headerWith, leField, List.replicate, ofLe]
    rw [this]
    decide
  · have : leField (headerWith crc) 0xC 4 = 2 ^ 32 - 1 := by simp [headerWith, leField, List.replicate, ofLe]
    rw [this]
    decide +kernel

theorem witness_ReplaysAssigned :
    let o : Slot := ⟨0, 1, 4, 0, 0, 1⟩
    let retry : RunE := ⟨0, 0, clsRetry, 255, 1, 0, 0, 0, 0, 0, 0⟩
    (let c := sending [retry] { rejectsPrev := [(o, aRun 0 1)] }
     Ready (on c) ∧ c.hall.rejectsPrev = [(o, aRun 0 1)] ∧ (c.bundle o.bundle).st ≠ 5
       ∧ c.retrySlots o.room o.bundle o.ep ((c.hall.rejLanesPrev.filter fun x => x.1 = o.bundle).map Prod.snd) = [(255, 0)])
    ∧ (let c := sending [] { rejectsPrev := [(o, aRun 0 0)] }
       Ready (on c) ∧ c.retrySlots o.room o.bundle o.ep ((c.hall.rejLanesPrev.filter fun x => x.1 = o.bundle).map Prod.snd) = [] ∧ (aRun 0 0).dkind = 0) := by
  refine ⟨⟨ready_on _, by decide +kernel, by decide +kernel, ?_⟩, ready_on _, ?_, by decide⟩ <;>
    simp [sending, Chip.retrySlots, Chip.stepDue, Chip.prog, Chip.image, Chip.room, Tab.get, Tab.find, Image.prog, Prog.step, RunE.slots, Chip.deadIn,
      clsRetry, upBundle, aLoad, List.range, List.range.loop] <;> decide +kernel

theorem witness_SignalsAct :
    let q : QueueE := ⟨7, qFeed, 0, 4096⟩
    let c : Chip :=
      { tow := { barriers := [(15 * 256 + 255, { members := [0, 2047, 4096 + 9], home := 22, arrived := [0], doneFrame := some 5 })]
                 flags := [(15 * 64 + 63, { home := 22 })] }
        rooms := [(15, { st := .running, cur := some { aLoad with image := { queues := [q] } } })] }
    Ready (on c)
    ∧ (Tab.find c.tow.barriers (15 * 256 + 255)).any (fun b => b.home = 22 && decide (b.members ≠ []) && b.doneFrame = some 5) = true
    ∧ frameLater 5 5 = false ∧ 7 < 8
    ∧ (Tab.find c.tow.flags (15 * 64 + 63)).any (fun f => f.home = 22) = true
    ∧ c.queueDecl 7 = some (15, q) ∧ q.kind = qFeed ∧ c.queueDecl 8 = none
    ∧ (15 < 16 ∧ 1 ≤ 1 ∧ 63 ≤ 63) ∧ (0 ≠ 1 ∨ 1 = 0 ∨ 63 < 1) ∧ (0 ≠ 0 ∨ 64 = 0 ∨ 63 < 64) :=
  ⟨ready_on _, by decide +kernel⟩

theorem witness_SumOnArrival :
    let x : SoaTree := { tile := 8, id := 63, ty := 0, accum := false, kind := 1, unit := 0, addr := 0, slots := 1, srcs := [(0, 0, 4), (1, 0, 4)] }
    let y : SoaTree := { x with tile := 7, kind := 0, addr := 0x2FFF80 }
    let part (x : SoaTree) (i : Nat) : SoaPart := ⟨0, x.tile, 63, i, 0, List.replicate 112 0, 0, true, 0⟩
    let c (x : SoaTree) (l : List SoaPart) : Chip := { frm := { begun := true }, tow := { trees := [x], parts := l } }
    let one (x : SoaTree) (l : List SoaPart) : Prop := (((c x l).treesOf 0).filter fun t => t.tile = x.tile && t.id = 63) = [x]
    let came (x : SoaTree) (l : List SoaPart) : Prop := ∀ i, i < x.srcs.length → ((c x l).soaParts 0 x 0).any (fun p => p.src = i) = true
    (∀ x l, Ready (on (c x l)))
    ∧ one x [part x 0] ∧ ¬ came x [part x 0]
    ∧ one x [part x 0, part x 1] ∧ came x [part x 0, part x 1] ∧ x.kind = 1 ∧ (∀ p ∈ (c x [part x 0, part x 1]).soaParts 0 x 0, p.husks = 0)
    ∧ one y [part y 0, part y 1] ∧ came y [part y 0, part y 1] ∧ y.kind = 0 ∧ y.accum = false ∧ y.tile < 8
    ∧ (∀ p ∈ (c y [part y 0, part y 1]).soaParts 0 y 0, p.husks = 0) :=
  ⟨fun _ _ => ready_on _, by decide +kernel⟩

theorem witness_LightControl :
    (∀ c, Ready (on c)) ∧ 292 < nBundles ∧ 17 < 18 ∧ 25 < 26
    ∧ (let c : Chip := { hall := { bundles := [(292, { agree := true, quiesced := 15 })] } }; (c.bundle 292).agree = true ∧ 15 ≤ (c.bundle 292).quiesced)
    ∧ (let c : Chip := { light := { srcs := Tab.ins assemblySources 29 { st := 1, asked := true, group := 25 } }, frm := { time := 20000000 } }
       29 < 30 ∧ (c.src 29).st = 1 ∧ (c.src 29).asked = true ∧ (c.src 29).warmAt + 20000000 ≤ c.endTime)
    ∧ (let c : Chip := { light := { srcs := Tab.ins assemblySources 13 { st := 2, okSince := some 0, group := 0 } }, frm := { time := 10000000000 } }
       13 < 30 ∧ (c.src 13).st = 2 ∧ (c.src 13).asked = false ∧ (c.src 13).okSince = some 0 ∧ 0 + 10000000000 ≤ c.endTime
         ∧ ∀ w ∈ c.light.swaps, w.src ≠ 13)
    ∧ (let c : Chip := { light := { rings := [(292 * 18 + 17, { st := 0 }), (0, { st := 2 })] }, frm := { cur := 4 } }
       ringIndex false 292 17 = some (292 * 18 + 17) ∧ c.ringState (292 * 18 + 17) ≠ 4 ∧ c.thm.tripped = false ∧ 16 < 18 ∧ 16 ≠ 17
         ∧ c.ringState (292 * 18 + 17) = 0)
    ∧ (let c : Chip := { light := { rings := [(0, { st := 2 })] }, frm := { cur := 4 } }
       ringIndex false 0 0 = some 0 ∧ c.ringState 0 = 2 ∧ 4 ≤ frameSub c.frm.cur (c.ring 0).since)
    ∧ (ringIndex true 22 0).isSome = true := by
  refine ⟨fun _ => ready_on _, ?_⟩
  decide +kernel

/-! ## Towers and cellar -/

theorem witness_PortGrants :
    Ready (on {}) ∧ 7 * 512 + 15 * 32 + 16 < 4096 ∧ (7 * 512 + 15 * 32 + 16) % 32 < 17 ∧ bitOf 7 2 = true ∧ bitOf 7 4 = false
    ∧ sliceBytes / 16 - 1 < sliceBytes / 16 ∧ (List.replicate 16 (0xFF : Byte)).length = 16 ∧ bitOf 7 0 = true ∧ 2 ≤ (bitList 5 7).length
    ∧ ¬ (bitOf 5 0 = true ∧ bitOf 5 1 = true) ∧ 2 ≤ (bitList 5 5).length ∧ (bitOf 3 0 = true ∧ bitOf 3 1 = true ∧ 3 % 32 = 3)
    ∧ (bitOf 7 1 = true ∧ 3 ≤ (bitList 5 7).length ∧ 2 ≠ ((on {}).dev.chip.core 0).waitingSide) :=
  ⟨ready_on _, by decide +kernel⟩

theorem witness_DebugWindowAndMarchTests :
    (∀ c, Ready (on c)) ∧ 7 < 8
    ∧ (let c : Chip := {}
       let core := c.selCore .pf 7
       (c.dbg (7 * 32)).busy = false ∧ (Tab.get {} c.tow.pos core).st ≠ 3 ∧ (c.row (core / 32)).room = none
         ∧ c.fld F.TOW_DBG_ADDR 7 0 0 < sliceBytes / 16)
    ∧ (let c : Chip := { tow := { pos := [(7 * 512, { st := 3 })] } }; (Tab.get {} c.tow.pos (c.selCore .pf 7)).st = 3)
    ∧ (let c : Chip := { regs := [(F.TOW_DBG_ADDR.key 7, BitVec.ofNat 32 sliceBytes)] }; sliceBytes / 16 ≤ c.fld F.TOW_DBG_ADDR 7 0 0)
    ∧ (let x : Dbg := { busy := true, isWrite := true, word := sliceBytes / 16 - 1 }; x.busy = true ∧ x.isWrite = true ∧ x.word < sliceBytes / 16)
    ∧ (let x : Dbg := { busy := true, word := sliceBytes / 16 - 1 }
       x.busy = true ∧ x.isWrite = false ∧ x.word < sliceBytes / 16 ∧ errorFree (on {}) x.core (16 * x.word) 16 = true)
    ∧ 1 < 2 ∧ 2 ≤ 2
    ∧ (let c : Chip := { tow := { march := [(7, { st := 1, preserve := false, rows := 0xFFFF })] } }; (c.march 7).st = 1 ∧ (c.march 7).preserve = false)
    ∧ (let c : Chip := { tow := { march := [(7, { st := 1 })] } }; (c.march 7).st = 1 ∧ (c.march 7).preserve = true)
    ∧ (let c : Chip := { tow := { march := [(7, { st := 1, rows := 0x8000, bg := 8 })] } }
       let x : BadCell := ⟨7 * 512 + 15 * 32 + 16, 196607, 137, .stuck true⟩
       x.core ∈ ((bitList 16 (c.march 7).rows).flatMap fun w => rowCores (7 * 16 + w)) ∧ (c.march 7).bg % 16 ≠ 0 ∧ x.word < 196608 ∧ x.bit < 138
         ∧ ∃ v, x.fault = .stuck v)
    ∧ (({} : Chip).march 7).st ≠ 1 :=
  ⟨fun _ => ready_on _, by decide +kernel, by decide +kernel, by decide +kernel, by decide +kernel, by decide +kernel, by decide +kernel,
    by decide, by decide, by decide +kernel, by decide +kernel, ⟨by decide +kernel, by decide, by decide, by decide, true, rfl⟩, by decide +kernel⟩

/-- Stack 11 READY. -/
def powered : Tab Block := [(19, { st := .ready }), (22, { st := .ready }), (23, { st := .ready }), (24, { st := .ready }), (25, { st := .ready })]

/-- A cellar request of room 0, on the last line of the last slice of stack 11. -/
def aReq (kind op : Nat) : CelReq :=
  { order := 0, frame := 0, owner := 0, room := 0, pf := false, tag := 1, slice := 11 * 64 + 63, sliceByte := 63, kind, count := 1, op, reply := 0, off := 56
    line := cellarLines - 1, dest := 0, data := List.replicate 64 0, enables := 2 ^ 63 }

theorem witness_CellarRequests :
    (∀ c, Ready (on c))
    ∧ (let x : CelRec := { stack := 11, sender := 0, owner := 0, order := 0, room := 0, pf := false, tag := 0xFFFF, slice := 63, count := 1, reply := 0, off := 0
                           line := cellarLines - 1, dest := 0, late := false }
       x.stack < 12 ∧ x.slice < 64 ∧ celRecOk x 1 0 = true ∧ celRecOk x 2 0 = true ∧ celRecOk x 3 14 = true
         ∧ (let c : Chip := { rooms := [(0, { st := .running, cur := some { aLoad with image := { slices := [11 * 64 + 63] } } })]
                              blocks := powered }
            x.owner < 16 ∧ x.room = x.owner ∧ x.pf = false ∧ c.sliceRoom (x.stack * 64 + x.slice) = some x.room ∧ x.line < cellarLines
              ∧ c.absent (x.stack * 64 + x.slice) = false ∧ c.celPending x.stack x.owner < 256))
    ∧ (let q := aReq 2 0
       let c : Chip := { cel := { reqs := [q] }, frm := { cur := 1 }, blocks := powered }
       c.absent q.slice = false ∧ c.retraining q.slice = false ∧ 11 < 12 ∧ c.cel.writes = [] ∧ q.slice / 64 = 11 ∧ q.status = celOk ∧ c.before q.frame = true ∧ q.line < cellarLines
         ∧ c.pageValid q.slice q.line = false ∧ q.kind = 2 ∧ q.husk = none ∧ q.data.length = 64 ∧ q.enables % 2 ^ 64 ≠ 0)
    ∧ (let q := aReq 3 2
       let c : Chip := { cel := { reqs := [q], valid := [(q.slice * 244141 + q.line / 64, true)] }, frm := { cur := 1 }, blocks := powered }
       c.absent q.slice = false ∧ c.retraining q.slice = false ∧ (aReq 1 0).kind = 1 ∧ (aReq 1 0).count = 1 ∧ q.kind = 3 ∧ c.pageValid q.slice q.line = true ∧ q.off % 8 = 0 ∧ q.off + 8 ≤ 64 ∧ c.before q.frame = true
         ∧ Tab.get [] c.cel.errs (lineKey q.slice q.line) = [] ∧ c.lineHusked q.slice q.line = false)
    ∧ (let w : HallWrite := ⟨0, 11 * 64 + 63, 64 * (cellarLines - 1), List.replicate 64 1, 0⟩
       let c : Chip := { cel := { writes := [w] }, frm := { cur := 1 }, blocks := powered }
       w.slice / 64 = 11 ∧ c.before w.frame = true ∧ w.addr = 64 * (cellarLines - 1) ∧ w.bytes.length = 64 ∧ w.husks = 0 ∧ c.absent w.slice = false)
    ∧ (let v : HallWrite := ⟨0, 11 * 64 + 63, 64 * (cellarLines - 1), List.replicate 16 1, 0⟩
       let w : HallWrite := ⟨0, 11 * 64 + 63, 64 * (cellarLines - 1) + 16, List.replicate 48 1, 0⟩
       w.slice = v.slice ∧ w.frame = v.frame ∧ w.addr = v.addr + v.bytes.length ∧ v.bytes.length + w.bytes.length = 64 ∧ v.husks = 0 ∧ w.husks = 0)
    ∧ (let q := aReq 2 0
       let c : Chip := { cel := { reqs := [q] }, frm := { cur := 1 } }
       q.status = celOk ∧ c.before q.frame = true ∧ c.absent q.slice = true ∧ c.retraining q.slice = false ∧ q.kind = 2)
    ∧ ({} : Chip).rspSlots 0 0 0 = false
    ∧ (let r : CelRsp := { stack := 11, owner := 0, reply := 22, isData := true, room := 0, pf := false, tag := 0, slice := 0, seq := 0, status := 0
                           line := 0, dest := 0 }
       let c := { (sending [⟨261, 0, clsCelRsp, 4, 1, 22, 1, 0, 0, 0, 0⟩]) with cel := { rsps := [r] } }
       c.cel.rsps = [r] ∧ r.isData = true ∧ r.reply = 22 ∧ c.rspSlots r.stack r.owner 22 = true) :=
  ⟨fun _ => ready_on _, by decide +kernel⟩

theorem witness_atomicRow :
    atomicRow .fadd32 1 4 (fun t x _ => (t + x) % 2 ^ 32) ∧ atomicRow .fadd64 2 8 (fun t x _ => (t + x) % 2 ^ 64)
    ∧ atomicRow .fmax 14 4 (fun t x _ => (toF32 ((f32 (BitVec.ofNat 32 t)).max (f32 (BitVec.ofNat 32 x)))).toNat) := by
  refine ⟨?_, ?_, ?_⟩ <;> simp [atomicRow]

theorem witness_CellarCare :
    let line := cellarLines - 1
    let k := 11 * 64 + 63
    let bad (n : Nat) : Tab Nat := (List.range n).map fun i => (i, 1)
    let c (n : Nat) : Chip := { cel := { valid := [(k * 244141 + line / 64, true)], errs := [(lineKey k line, bad n)] }, blocks := powered }
    (∀ c, Ready (on c)) ∧ 11 < 12
    ∧ (let c : Chip := { frm := { begun := true, cur := 2 ^ 48 - 1 }, blocks := powered }; c.leakDue 11 = true) ∧ ({} : Chip).leakDue 11 = false
    ∧ Requester.vf 1 ≠ .pf
    ∧ (let x : Scrub := { st := 1, slices := 2 ^ 63, first := line, last := line }
       63 < 64 ∧ x.st = 1 ∧ bitOf x.slices 63 = true ∧ x.line 63 ≤ x.last ∧ (c 0).retraining k = false)
    ∧ (c 0).pageValid k line = true ∧ ({} : Chip).pageValid k line = false ∧ (c 2).lineHusked k line = false
    ∧ (c 0).lineHusked k line = false ∧ Tab.get [] (c 0).cel.errs (lineKey k line) = [] ∧ (Tab.get [] (c 2).cel.errs (lineKey k line)).length = 2
    ∧ (Tab.get [] (c 6).cel.errs (lineKey k line)).length = 6
    ∧ (let c : Chip := { cal := { phyLeft := [(11, 8)] }, frm := { idle := true } }; c.retraining k = true)
    ∧ (let x : Scrub := { st := 1, slices := 1, last := 0, next := [(0, 1)] }; x.st = 1 ∧ ∀ k, k < 64 → bitOf x.slices k = true → x.last < x.line k)
    ∧ (let x : Scrub := { st := 1, slices := 1, last := 0 }; x.st = 1 ∧ bitOf x.slices 0 = true ∧ x.line 0 ≤ x.last) :=
  ⟨fun _ => ready_on _, by decide +kernel⟩
/-! ## Rooms, images and queues -/

theorem witness_RoomsAndLoads :
    let load : Load := { owner := 0, room := 0, srcKind := 1, src := 0, len := 2 ^ 30 }
    (∀ c : Chip, c.boot.warm = false → Ready (on c) ∧ (on c).dev.chip.boot.warm = false)
    ∧ (15 < 16 ∧ roomWriter (.vf 16) 15 = true ∧ roomWriter .pf 0 = true ∧ 63 < 64 ∧ 15 < 16 ∧ 17 ≠ 15 + 1)
    ∧ (let x : Room := { st := .running, haltDue := true }
       x.st = .running ∧ x.resetDue = none ∧ x.overran = false ∧ x.haltDue = true ∧ x.resumeDue = false)
    ∧ (let x : Room := { st := .halted, cause := causeHost, resumeDue := true }
       x.st = .halted ∧ x.cause = causeHost ∧ x.resetDue = none ∧ x.resumeDue = true)
    ∧ (let s := on { regs := [holds F.BIT_LEN 4] }
       let b := s.dev.chip.bit
       b.eng = .idle ∧ (s.dev.chip.room (s.dev.stagedOf F.BIT_CFG_ROOM 0 0 0)).st ≠ .running ∧ s.dev.chip.seq.lost = false
         ∧ s.dev.stagedOf F.BIT_CFG_KIND 0 0 0 = 0 ∧ s.dev.stagedOf F.BIT_LEN 0 0 0 * 64 = 256)
    ∧ (let s := on { regs := [holds F.BIT_LEN (2 ^ 24)] }; s.dev.stagedOf F.BIT_LEN 0 0 0 * 64 = 2 ^ 30)
    ∧ (on {}).dev.stagedOf F.BIT_LEN 0 0 0 * 64 < 256
    ∧ (let s := on { regs := [holds F.BIT_CFG_KIND 1 0 0 16] }; s.dev.stagedOf F.BIT_CFG_KIND 0 0 (Requester.vf (15 + 1)).code = 1)
    ∧ (let b : Bit := { eng := .reading, load := some load }
       b.eng ≠ .idle ∧ b.eng = .reading ∧ b.load = some load ∧ load.srcKind = 1 ∧ load.owner = Requester.pf.code)
    ∧ (let b : Bit := { eng := .reading, load := some { load with len := 4 } }
       (b.load.map Load.len) = some ([0, 0, 0, 0] : List Byte).length ∧ ([0, 0, 0, 0] : List Byte).take 4 ≠ [0x5A#8, 0x4B#8, 0x49#8, 0x4D#8])
    ∧ (let b : Bit := { eng := .validating, load := some load }; b.eng = .validating ∧ b.load = some load ∧ load.owner = Requester.pf.code)
    ∧ ({ eng := .accepted } : Bit).eng = .accepted :=
  ⟨fun _ h => ⟨ready_on _, h⟩, by decide +kernel⟩

/-- Queue 8191 of room 0, of a kind, on a ring of 4096 bytes. -/
def withQueue (kind : Nat) (x : Queue := {}) (maxCells : Nat := 256) : Chip :=
  { rooms := [(0, { st := .running, cur := some { aLoad with image := { queues := [⟨8191, kind, 0, 96⟩] } } })]
    que := { qs := [(8191, x)] }
    regs := [(F.QUE_Q_CFG_EN.key 0 0 8191, BitVec.ofNat 32 F.QUE_Q_CFG_EN.mask), (F.QUE_Q_LIM_MIN_CELLS.key 0 0 8191, BitVec.ofNat 32 (maxCells * 2 ^ 16 + 1)),
      holds F.QUE_Q_RINGSZ 12 0 0 8191] }

theorem witness_QueuesAct :
    (∀ c, Ready (on c)) ∧ 8191 < nQueues
    ∧ (let c := withQueue qFeed {}
       c.queueOn 8191 = true ∧ c.queueKind 8191 = some qFeed
         ∧ (c.ringSize 8191 / 16 + 2 ^ 32 - (c.queue 8191).taken) % 2 ^ 32 ≤ c.ringSize 8191 / 16)
    ∧ ({} : Chip).queueOn 8191 = false
    ∧ (let c := withQueue qCompl { prod := 64 }
       c.queueOn 8191 = true ∧ c.queueKind 8191 = some qCompl ∧ 64 % 16 = 0
         ∧ (64 + 2 ^ 32 - (c.queue 8191).cons) % 2 ^ 32 ≤ ((c.queue 8191).prod + 2 ^ 32 - (c.queue 8191).cons) % 2 ^ 32)
    ∧ (let c := withQueue qFeed { written := 1 }
       let entry : List Byte := List.replicate 16 0
       c.queueOn 8191 = true ∧ (c.queue 8191).readE ≠ (c.queue 8191).written ∧ leField entry 8 4 ≤ ((c.queueDecl 8191).map fun e => e.2.maxPkt).getD 0
         ∧ c.room4 8191 0 (cellsOf (leField entry 8 4)) = true)
    ∧ (let c := withQueue qFeed { written := 1, wait := [{ data := [0], origin := 0, source := 0 }] } 1
       c.queueOn 8191 = true ∧ c.room4 8191 0 (cellsOf 96) = false ∧ 96 ≤ ((c.queueDecl 8191).map fun e => e.2.maxPkt).getD 0)
    ∧ (let data : List Byte := List.replicate 96 1
       let slot : StreamSlot := ⟨0, 0, padTo 112 0 (leBytes 1 1 ++ leBytes 1 3 ++ leBytes 2 data.length ++ List.replicate 12 0 ++ data), 0, true⟩
       let c := withQueue qCompl { streamPrev := [slot] }
       data.length = 96 ∧ (c.queue 8191).streamPrev = [slot] ∧ slot.good = true ∧ slot.husks = 0 ∧ (c.queue 8191).building = none
         ∧ c.room4 8191 0 (cellsOf data.length) = true)
    ∧ (let p : Pkt := { data := List.replicate 96 1, origin := 1, source := 0 }
       let c := withQueue qCompl { pkts := [p] }
       (c.queue 8191).pkts = [p] ∧ (c.queue 8191).prod % c.ringSize 8191 + (p.record 8191).length ≤ c.ringSize 8191)
    ∧ (let p : Pkt := { data := List.replicate 96 1, origin := 1, source := 0 }
       let c := withQueue qCompl { pkts := [p], prod := 4096 }
       (c.queue 8191).prod % c.ringSize 8191 + (p.record 8191).length ≤ c.ringSize 8191
         ∧ c.ringSize 8191 < ((c.queue 8191).prod + 2 ^ 32 - (c.queue 8191).cons) % 2 ^ 32 + (p.record 8191).length)
    ∧ (let p : Pkt := { data := List.replicate 96 1, origin := 1, source := 0 }
       let c := withQueue qCompl { pkts := [p], prod := 4032, cons := 0 }
       let c' := withQueue qCompl { pkts := [p], prod := 4096 + 4032, cons := 4096 }
       c.que.fails 8191 p = false ∧ c'.ringSize 8191 < (c'.queue 8191).prod % c'.ringSize 8191 + (p.record 8191).length
         ∧ (let used := ((c'.queue 8191).prod + 2 ^ 32 - (c'.queue 8191).cons) % 2 ^ 32
            let pos := (c'.queue 8191).prod % c'.ringSize 8191
            used + (c'.ringSize 8191 - pos) ≤ c'.ringSize 8191 ∧ c'.ringSize 8191 < used + (c'.ringSize 8191 - pos) + (p.record 8191).length
              ∧ pos < c'.ringSize 8191)
         ∧ c.queueKind 8191 = some qCompl)
    ∧ ((withQueue qFeed).queue 8191).building = none ∧ ((withQueue qFeed).queue 8191).stream = [] ∧ ((withQueue qFeed).queue 8191).streamPrev = []
    ∧ (on {}).dev.enableOk 8191 = false
    ∧ (let c := { (withQueue qFeed) with regs := [holds F.QUE_Q_RINGSZ 12 0 0 8191] }; (on c).dev.enableOk 8191 = true ∧ c.queueOn 8191 = false)
    ∧ 0 < (on (withQueue qFeed)).dev.minSum nQueues
    ∧ (on {}).dev.stagedOf F.QUE_Q_CFG_EN 0 0 8191 = 0 :=
  ⟨fun _ => ready_on _, by decide +kernel⟩

/-- A switch that falls due in an empty room; a halted room that has run no step. -/
theorem witness_RoomsAndLoads_step :
    (let m : Room := { switchDue := some (0, 0) }; m.cur = none ∧ m.switchDue = some (0, 0))
    ∧ (let m : Room := { cur := some aLoad, st := .halted }; m.cur = some aLoad ∧ m.st = .halted ∧ m.switchDue = none ∧ m.run.ran = false) := by
  decide +kernel

/-- A packet in a cell with an upset fails CHECK, one in a sound cell does not. -/
theorem witness_QueuesAct_cells :
    let p : Pkt := { data := [1], origin := 1, source := 0, cells := [0] }
    ({ cellErrs := [(0, [(0, 1)])] } : Queues).fails 8191 p = true ∧ ({} : Queues).fails 8191 p = false := by
  decide +kernel
/-! ## The Jilia ports -/

/-- Port 5 of porch die 1, which is up. -/
def withPort (x : Port) (c : Chip := {}) : Chip :=
  { c with blocks := [(21, { st := .ready }), (22, { st := .ready }), (23, { st := .ready }), (24, { st := .ready }), (25, { st := .ready })]
           jil := { c.jil with ports := [(5, x)] } }

theorem witness_PortStates :
    (∀ c, Ready (on c)) ∧ (∀ x, (withPort x).portUp 5 = (withPort {}).portUp 5) ∧ (withPort {}).portUp 5 = true
    ∧ (((withPort {}).port 5).st = 0 ∧ ((withPort { st := 1 }).port 5).st = 1)
    ∧ (let p := (withPort { st := 4, carrying := true }).port 5; 1 ≤ p.st ∧ p.st ≤ 4 ∧ 2 ≤ p.st)
    ∧ (let p := (withPort { st := 5 }).port 5; p.st = 5 ∧ p.pulseAt = none)
    ∧ (let c := withPort { st := 5, pulseAt := some 0 }; c.endTime < 0 + 100000000 ∧ c.frm.time ≤ 0 + 2000000)
    ∧ (let c := withPort { st := 5, pulseAt := some 0 } { frm := { time := 2000001 } }; 0 + 2000000 < c.frm.time)
    ∧ (let c := withPort { st := 2 }
       let p := c.port 5
       let live := 0xF % 65536 &&& (65535 - p.retired % 65536)
       (¬ ∃ m ∈ [((15 : Nat), true)], m.2 ≠ laneHigh m.1) ∧ (∃ m ∈ [((15 : Nat), false)], m.2 ≠ laneHigh m.1) ∧ p.st = 2 ∧ p.waiting = false ∧ (2 : Nat) = (5 + 3) % 6 ∧ popcount 16 live = 4
         ∧ c.neighbourAt 5 = 0 ∧ c.sizes = 0)
    ∧ popcount 16 (0x7 % 65536 &&& (65535 - 0 % 65536)) < 4
    ∧ (let c := withPort { st := 2, waiting := true } { frm := { time := 1000000000 } }
       (c.port 5).since + 400000000 ≤ c.endTime ∧ (c.port 5).waiting = true ∧ (c.port 5).since + 1000000000 ≤ c.endTime)
    ∧ (withPort { st := 2 }).endTime < ((withPort { st := 2 }).port 5).since + 400000000 :=
  ⟨fun _ => ready_on _, fun _ => rfl, by decide +kernel⟩

/-- Both ports of a ring carry traffic: the break of one is told over the other. -/
theorem witness_PortMoves :
    let c : Chip := { jil := { ports := [(2, { st := 3, carrying := true, credit := vcUnits }), (5, { st := 3, carrying := true })] } }
    (c.port 5).carrying = true ∧ (c.port 2).near = []
      ∧ (c.port 2).takes (sealed { linkPacket 2 (c.linkOf 5) true with dest := (c.port 2).neighbour, src := c.nodeId }) = true := by
  decide +kernel

/-- A LANES packet as it came in from the neighbour. -/
theorem witness_PortTraffic_lanes :
    let pk := sealed { type := 3, tc := 3, dest := 0, src := 1, args := padTo 12 0 (leBytes 2 0xFFFF) }
    let c : Chip := withPort { st := 3, carrying := true, inq := [pk] }
    c.portUp 5 = true ∧ (on c).dev.throttle.chip.head 5 (vcOf pk) = some pk ∧ typeTc pk.type = some pk.tc ∧ pk.hops < 48 ∧ pk.type = 3 ∧ packetOk pk = true
      ∧ (c.port 5).carrying = true := by
  decide +kernel

/-- A WACK for the other module of a ring of two in X. -/
def wackOn : Packet := { type := 1, tc := 2, dest := 0x100, args := List.replicate 12 0 }

/-- It came in at port 1; the two X ports carry traffic or not. -/
def onRing (carrying : Bool) (breaks : List Nat) (p : Packet) : Chip :=
  { regs := [holds F.PCH_NODE_SX 1], blocks := [(20, { st := .ready }), (22, { st := .ready }), (23, { st := .ready }), (24, { st := .ready }), (25, { st := .ready })]
    jil := { breaks, ports := [(0, { st := 3, carrying, credit := vcUnits }), (1, { inq := [p] }), (3, { st := 3, carrying, credit := vcUnits })] } }

/-- The hop is to an output port and `P` holds there. -/
def outBy (h : Hop) (P : Nat → Packet → Bool) : Bool :=
  match h with
  | .out o y => P o y
  | _ => false

/-- The packet stands at the head of its class at port 1. -/
def atHead (s : State) (p : Packet) : Bool := s.dev.chip.portUp 1 && decide (s.dev.throttle.chip.head 1 (vcOf p) = some p)

theorem witness_PortTraffic_packets :
    let s (carrying : Bool) (breaks : List Nat) (p : Packet) : State := on (onRing carrying breaks p)
    (atHead (s true [0, 0, 0] wackOn) wackOn = true ∧ typeTc wackOn.type = some wackOn.tc ∧ wackOn.hops < 48 ∧ neighbourType wackOn.type = false
      ∧ wackOn.mcast = false)
    ∧ (let c := (s true [0, 0, 0] wackOn).dev.throttle.chip
       outBy (c.hop 1 wackOn) fun o y => !c.outranked o 1 wackOn && (c.port o).carrying && c.mayGo 1 o wackOn { y with hops := wackOn.hops + 1 }) = true
    ∧ (let c := (on { onRing true [0, 0, 0] wackOn with jil := { (onRing true [0, 0, 0] wackOn).jil with ports :=
         [(0, { st := 3, carrying := true }), (1, { inq := [wackOn] }), (3, { st := 3, carrying := true })] } }).dev.throttle.chip
       outBy (c.hop 1 wackOn) fun o y => (c.port o).carrying && !c.mayGo 1 o wackOn { y with hops := wackOn.hops + 1 }) = true
    ∧ (let c := (s false [0, 0, 0] wackOn).dev.throttle.chip; outBy (c.hop 1 wackOn) fun o _ => !(c.port o).carrying) = true
    ∧ (s true [3, 0, 0] wackOn).dev.throttle.chip.hop 1 wackOn = .unreach
    ∧ (let far := { wackOn with hops := 48 }; atHead (s true [0, 0, 0] far) far = true ∧ 48 ≤ far.hops)
    ∧ (let odd := { wackOn with tc := 3 }; atHead (s true [0, 0, 0] odd) odd = true ∧ typeTc odd.type ≠ some odd.tc) := by
  decide +kernel

theorem witness_PortTraffic :
    (∀ c, Ready (on c)) ∧ (withPort {}).portUp 5 = true ∧ 15 < 16 ∧ (on {}).gate.inj.st ≠ .active
    ∧ (let p := (withPort { st := 4, live := 0xFFFF, carrying := true }).port 5
       (p.st = 3 ∨ p.st = 4) ∧ bitOf p.live 15 = true ∧ p.carrying = true ∧ 15 < 16 ∧ 65535 < 65536)
    ∧ nextLane 0xFFFF 255 15 = some (255, 15) ∧ (255 < 256 ∧ ({ rxRound := 255 } : Port).skew = [])
    ∧ (let p : Port := { live := 0xFFFF, rxRound := 255, rxLane := 15 }
       nextLane p.live p.rxRound p.rxLane ≠ some (0, 15) ∧ p.roundsAhead 0 < 12 ∧ 0 ≠ p.rxRound)
    ∧ (let p : Port := { carrying := true, credit := vcUnits }
       let pk := sealed { type := 0x42, tc := 3, dest := 0, src := 0, args := padTo 12 0 (leBytes 8 1 ++ leBytes 4 2) }
       p.near = [] ∧ p.takes pk = true ∧ ({} : Port).takes pk = false)
    ∧ (let c := withPort { st := 3, carrying := true } { jil := { ports := [(2, { st := 3, carrying := true, credit := vcUnits })] } }
       (c.port 5).carrying = true)
    ∧ ((withPort { st := 3, live := 1 }).port 5).carrying = false
    ∧ 4095 < 4096 ∧ 15 < 16
    ∧ (let p := (withPort { askedAt := some 7 }).port 5; p.askedAt = some 7 ∧ p.delays = [] ∧ p.askedAt ≠ some 8)
    ∧ (let c : Chip := {}; 0 < c.torusSize (5 % 3) ∧ c.jil.breakDue = [] ∧ bitOf (c.jil.breaks.getD (5 % 3) 0) 0 ≠ true
         ∧ bitOf (c.jil.breaks.getD (5 % 3) 0) 0 = false) := by
  refine ⟨fun _ => ready_on _, ?_⟩
  decide +kernel

theorem flitCrc_of (f : Flit) (n : Nat) : flitCrc { f with crc := n } = flitCrc f := by
  cases f
  simp only [flitCrc, flitLink]

theorem witness_PortTraffic_flits (f : Flit) :
    (let x : Flit := { f with crc := flitCrc f }; x.crc = flitCrc x ∧ x.nak = f.nak ∧ x.idle = f.idle ∧ x.fseq = f.fseq)
    ∧ (let x : Flit := { f with crc := flitCrc f + 1 }; x.crc ≠ flitCrc x) := by
  refine ⟨⟨(flitCrc_of f _).symm, rfl, rfl, rfl⟩, ?_⟩
  intro x
  rw [flitCrc_of]
  show flitCrc f + 1 ≠ flitCrc f
  omega
/-! ## Pairs, messages and requests -/

/-- A chip whose porch dies are up, in a module of node 0, with a receiver pair for node 1 (die 1). -/
def paired (x : RPair) (j : Jilia := {}) (c : Chip := {}) : Chip :=
  { c with blocks := [(20, { st := .ready }), (21, { st := .ready }), (22, { st := .ready }), (23, { st := .ready }), (24, { st := .ready }), (25, { st := .ready })]
           jil := { j with recv := [(1, x)] } }

/-- The pair expects the highest packet number. -/
def atTop : RPair := { gen := 255, cum := 2 ^ 24 - 1 }

/-- A packet of that number from node 1, its ECRC not computed. -/
def raw (type tc : Nat) (args body : List Byte) : Packet := { type, tc, dest := 0, src := 1, gen := 255, num := 2 ^ 24 - 1, args := padTo 12 0 args, body }

theorem packetOk_sealed (p : Packet) : packetOk (sealed p) = true := by
  simp [packetOk, sealed, packetCrc, packetHead, packetCtl, packetMap]

theorem packetOk_big {p : Packet} (h : 2 ^ 32 ≤ p.ecrc) : packetOk p = false := by
  simp only [packetOk, decide_eq_false_iff_not]
  exact Nat.ne_of_gt (Nat.lt_of_lt_of_le (BitVec.isLt (crc32c _)) h)

/-- A sealed packet arrives; what that takes but its ECRC. -/
theorem arrives_sealed {c : Chip} {p : Packet} {type : Nat}
    (h : p.type = type ∧ p.dest = c.nodeId ∧ windowed p = true ∧ typeTc p.type = some p.tc ∧ c.dieUp (homeDie p.src) = true) :
    arrives c (sealed p) type := ⟨h.1, packetOk_sealed p, h.2⟩

/-- A sealed packet of the pair's next number is in order. -/
theorem inOrder_sealed (type tc : Nat) (args body : List Byte) (j : Jilia) (c : Chip) :
    inOrder (paired atTop j c) (sealed (raw type tc args body)) atTop := ⟨rfl, rfl, rfl, by decide, rfl, rfl, by decide, rfl⟩

theorem witness_PairsAct :
    (∀ c, Ready (on c))
    ∧ (arrives (paired atTop) (sealed (raw 0x33 2 [] [])) 0x33 ∧ inOrder (paired atTop) (sealed (raw 0x33 2 [] [])) atTop)
    ∧ arrives (paired { gen := 255, cum := 0, got := [2 ^ 24 - 1] }) (sealed (raw 0x33 2 [] [])) 0x33
    ∧ ({ gen := 255, cum := 0, got := [2 ^ 24 - 1] } : RPair).has (raw 0x33 2 [] []).num = true
    ∧ (arrives { (paired {}) with jil := {} } (sealed (raw 0x33 2 [] [])) 0x33 ∧ ({ (paired {}) with jil := {} } : Chip).recvPair 1 = none)
    ∧ packetOk { (raw 0x33 2 [] []) with ecrc := 2 ^ 32 } = false := by
  refine ⟨fun _ => ready_on _, ⟨arrives_sealed (by decide +kernel), inOrder_sealed _ _ _ _ _ _⟩, arrives_sealed (by decide +kernel), by decide +kernel,
    ⟨arrives_sealed (by decide +kernel), rfl⟩, ?_⟩
  exact packetOk_big (Nat.le_refl _)

theorem witness_PairsAct_timers :
      (let p := raw 1 2 [0xFF, 0xFF, 0xFF, 7] []
     let x : SPair := { gen := 7, un := [{ pkt := p, due := 0, first := 0 }] }
     let c : Chip := { jil := { send := [(1, x)] } }
     p.type = 1 ∧ p.dest = c.nodeId ∧ c.sendPair p.src = some x ∧ x.gen = leField p.args 0 4 / 2 ^ 24 ∧ c.jil.waits = [])
    ∧ (let x : RPair := { owe := 1 }; (paired x).recvPair 1 = some x ∧ 0 < x.owe) ∧ (paired {}).recvPair 1 = some {}
    ∧ (let p := raw 2 2 [] []
       let c : Chip := { jil := { send := [(1, {})] } }
       p.type = 2 ∧ p.dest = c.nodeId ∧ c.sendPair p.src = some {} ∧ c.jil.waits = [])
    ∧ (let u : RTx := { pkt := raw 0x33 2 [] [], due := 16384, first := 0, sends := ({} : Chip).fld F.PCH_FAB_CTL_RETX_LIMIT - 1 }
       let c : Chip := { jil := { send := [(4095, { un := [u] })] }, frm := { time := 16384 } }
       c.sendPair 4095 = some { un := [u] } ∧ u.due ≤ c.endTime ∧ u.sends < c.fld F.PCH_FAB_CTL_RETX_LIMIT)
    ∧ (let u : RTx := { pkt := raw 0x33 2 [] [], due := 0, first := 0, sends := ({} : Chip).fld F.PCH_FAB_CTL_RETX_LIMIT }
       let c : Chip := { jil := { send := [(4095, { un := [u] })] } }
       c.sendPair 4095 = some { un := [u] } ∧ u.due ≤ c.endTime ∧ c.fld F.PCH_FAB_CTL_RETX_LIMIT ≤ u.sends ∧ isRequest u.pkt = false ∧ c.jil.waits = [])
    ∧ (let c : Chip := { jil := { send := [(0, {})] }, frm := { time := 1000000 } }; c.sendPair 0 = some {} ∧ ({} : SPair).idle + 1000000 ≤ c.endTime)
    ∧ (let c := paired {} {} { frm := { time := 10000000 } }; c.recvPair 1 = some {} ∧ ({} : RPair).last + 10000000 ≤ c.endTime) := by
  decide +kernel

/-- A stream slot of an injection buffer, whose first record has the words `w`. -/
def recordSlot (w : List Byte) : StreamSlot := ⟨0, 0, padTo 112 0 w, 0, true⟩

/-- A message record, as R376 lays packets out. -/
def msgRecord (q : Packet) : List Byte := packetHead q false 0 0 0 ++ q.body

theorem witness_PairsAct_buffers :
    let q : Packet := { type := 0x20, tc := 1, dest := 2, args := padTo 12 0 [0, 0, 0, 0, 0, 0, 16, 0], body := List.replicate 16 1 }
    let c (w : List Byte) : Chip := { jil := { bufs := [(1023, { prev := [recordSlot w] })] } }
    let taken (w : List Byte) := (c w).nextRecord (bufRoom 1023) (streamWords ((c w).buf 1023).prev)
    let r : InjRec := { frame := 0, pkt := q, size := 48, clear := true }
    let d : Chip := { jil := { bufs := [(1023, { recs := [r] })] } }
    1023 < 1024 ∧ ((c []).buf 1023).prev ≠ [] ∧ (c []).jil.fences = []
    ∧ (taken (msgRecord q)).any (fun x => x.any fun y => ((c []).nextRecord (bufRoom 1023) y.2.2).isNone
        && decide (({ (c (msgRecord q)).buf 1023 with prev := [] } : InjBuf).used + y.2.1 ≤ 65536)) = true
    ∧ (taken (msgRecord { q with tc := 2 })).any Option.isNone = true
    ∧ (d.buf 1023).recs = [r] ∧ r.pkt.type = 0x20 ∧ r.pkt.mcast = false ∧ d.speculative (bufRoom 1023) = false ∧ d.sendPair r.pkt.dest = none
    ∧ (d.pairsOn (homeDie r.pkt.dest)).length < 2048 ∧ d.storeUsed (homeDie r.pkt.dest) + wireLen r.pkt ≤ 16 * 2 ^ 20
    ∧ wireLen r.pkt ≤ 2 ^ d.fld F.PCH_FAB_CTL_WINDOW * 1024 := by
  decide +kernel

/-- Queue 8191 of room 0 takes messages from node 1. -/
def msgChip (x : Queue := {}) : Chip :=
  let c := withQueue qFabHost x
  { c with regs := c.regs ++ [(F.PCH_ALLOW_EN.key, BitVec.ofNat 32 (2 ^ 31 + 0xFFF * 2 ^ 16 + 1))] }

/-- A message of one segment of 16 bytes to queue 8191. -/
def aMsg : Packet := raw 0x20 1 [0xFF, 0x1F, 0, 0, 0, 0, 16, 0] (List.replicate 16 1)

/-- A STORE of 64 bytes at offset 0 of window 0 of job 1. -/
def aStore : Packet := raw 0x11 0 [1, 0] (List.replicate 64 1)

/-- A speculative STORE, held. -/
def aHeld : Held := ⟨1, { aStore with spec := true }, 0⟩

/-- MACKs awaited from member 63 of group 1, and one of them. -/
def aGather : Gather := { room := 0, group := 1, id := 2, reply := 8191, mask := 2 ^ 63, since := 0 }
def aMack : Packet := raw 0x21 1 [1, 0, 2, 0, 63, 0] []

/-- Node 1 is the fabric manager. -/
def managed : Chip := { regs := [(F.PCH_MGMT_EN.key, 0x80000001)] }

/-- The hop ends here. -/
def isHere (h : Hop) : Bool :=
  match h with
  | .here => true
  | _ => false

theorem witness_MessagesAct_arrivals :
    (∀ c : Chip, c.boot.warm = false → Ready (on c) ∧ (on c).dev.chip.boot.warm = false)
    ∧ (arrives (paired atTop {} msgChip) (sealed aMsg) 0x20 ∧ inOrder (paired atTop {} msgChip) (sealed aMsg) atTop)
    ∧ (arrives (paired atTop {} managed) (sealed (raw 0x30 2 [] [1])) 0x30 ∧ inOrder (paired atTop {} managed) (sealed (raw 0x30 2 [] [1])) atTop)
    ∧ (arrives (paired atTop {} managed) (sealed (raw 0x32 2 [] [])) 0x32 ∧ inOrder (paired atTop {} managed) (sealed (raw 0x32 2 [] [])) atTop)
    ∧ (arrives (paired atTop { gathers := [aGather] }) (sealed aMack) 0x21 ∧ inOrder (paired atTop { gathers := [aGather] }) (sealed aMack) atTop)
    ∧ (arrives (paired atTop { psb := [aHeld] }) (sealed (raw 0x43 3 [] [])) 0x43 ∧ inOrder (paired atTop { psb := [aHeld] }) (sealed (raw 0x43 3 [] [])) atTop)
    ∧ (arrives (paired atTop { psb := [aHeld] }) (sealed (raw 0x44 3 [] [])) 0x44 ∧ inOrder (paired atTop { psb := [aHeld] }) (sealed (raw 0x44 3 [] [])) atTop) :=
  ⟨fun _ h => ⟨ready_on _, h⟩, ⟨arrives_sealed (by decide +kernel), inOrder_sealed _ _ _ _ _ _⟩,
    ⟨arrives_sealed (by decide +kernel), inOrder_sealed _ _ _ _ _ _⟩, ⟨arrives_sealed (by decide +kernel), inOrder_sealed _ _ _ _ _ _⟩,
    ⟨arrives_sealed (by decide +kernel), inOrder_sealed _ _ _ _ _ _⟩, ⟨arrives_sealed (by decide +kernel), inOrder_sealed _ _ _ _ _ _⟩,
    arrives_sealed (by decide +kernel), inOrder_sealed _ _ _ _ _ _⟩

theorem witness_MessagesAct_1 :
      (let c := paired atTop {} msgChip
     c.msgOk (msgQueue aMsg) aMsg.src (msgTotal aMsg) = true ∧ msgOffset aMsg = 0
       ∧ msgTotal aMsg = aMsg.body.length ∧ c.jil.asms = [] ∧ aMsg.spec = false ∧ packetHusked aMsg = false ∧ c.queueOn (msgQueue aMsg) = true
       ∧ c.room4 (msgQueue aMsg) 0 (cellsOf aMsg.body.length) = true)
    ∧ (paired atTop).msgOk (msgQueue aMsg) aMsg.src (msgTotal aMsg) = false := by
  decide +kernel

theorem witness_MessagesAct_2 :
      (let a : Asm := { src := 1, room := 0, id := 0, queue := 0, total := 32, segs := [], since := 0 }
       ({ jil := { asms := [a] }, frm := { time := 1000000 } } : Chip).jil.asms = [a]
         ∧ a.since + 1000000 ≤ ({ jil := { asms := [a] }, frm := { time := 1000000 } } : Chip).endTime
         ∧ ({ jil := { asms := [a] } } : Chip).endTime < a.since + 1000000)
    ∧ (let p : Packet := { aMsg with mcast := true, dest := 1023, args := padTo 12 0 [1] }
       let c := paired atTop {} { msgChip with regs := msgChip.regs ++ [holds F.PCH_MC_CFG_N 1 0 0 1023, (F.PCH_MC_MEMBER.key 0 0 (memberSel 1023 0), 0x1FFF0000)] }
       let fenced := paired atTop {} { msgChip with regs := msgChip.regs ++ [holds F.PCH_MC_CFG_N 1 0 0 1023, (F.PCH_MC_MEMBER.key 0 0 (memberSel 1023 0), 0x9FFF0000)] }
       p.type = 0x20 ∧ p.mcast = true ∧ p.tc = 1 ∧ p.hops < 48 ∧ bitList 64 (mcMask p) = [0] ∧ 0 < c.groupSize p.dest ∧ 0 < fenced.groupSize p.dest
         ∧ (fenced.member p.dest 0).1 = 1 ∧ (c.member p.dest 0).1 = 0 ∧ isHere (c.mcPort 6 p 0) = true
         ∧ c.msgOk (c.member p.dest 0).2.1 p.src p.body.length = true ∧ c.queueOn (c.member p.dest 0).2.1 = true
         ∧ c.jil.inject = [] ∧ c.room4 (c.member p.dest 0).2.1 0 (cellsOf p.body.length) = true) := by
  decide +kernel

theorem asmUsed_one (c : Chip) (a : Asm) (q : Packet) (h : c.jil.asms = [a]) (hs : a.segs = [(0, q)]) :
    c.asmUsed (homeDie a.src) = q.body.length := by
  simp [Chip.asmUsed, h, hs]

/-- A multicast packet whose die has no memory left. -/
theorem witness_MessagesAct_held :
    let p : Packet := sealed { aMsg with mcast := true, dest := 1023, args := padTo 12 0 [1] }
    let full : Asm := { src := 1, room := 1, id := 9, queue := 0, total := 0, segs := [(0, { aMsg with body := List.replicate (4 * 2 ^ 20) 0 })], since := 0 }
    let c := paired atTop { asms := [full] } { msgChip with regs := msgChip.regs ++ [holds F.PCH_MC_CFG_N 1 0 0 1023, (F.PCH_MC_MEMBER.key 0 0 (memberSel 1023 0), 0x1FFF0000)] }
    (p.type = 0x20 ∧ p.mcast = true ∧ p.tc = 1 ∧ bitList 64 (mcMask p) = [0] ∧ 0 < c.groupSize p.dest ∧ (c.member p.dest 0).1 = 0
      ∧ isHere (c.mcPort 6 p 0) = true ∧ c.msgOk (c.member p.dest 0).2.1 p.src p.body.length = true ∧ homeDie p.src = homeDie full.src
      ∧ c.jil.branches = [] ∧ c.jil.inject = [] ∧ 0 < p.body.length)
      ∧ c.asmUsed (homeDie full.src) = 4 * 2 ^ 20 := by
  intro p full c
  refine ⟨by decide +kernel, ?_⟩
  exact (asmUsed_one c full _ rfl rfl).trans List.length_replicate

theorem witness_MessagesAct_3 :
      (let p : Packet := { aMsg with mcast := true, hops := 48 }; p.type = 0x20 ∧ p.mcast = true ∧ p.tc = 1 ∧ 48 ≤ p.hops)
    ∧ (let c : Chip := { jil := { branches := [(aMsg, 63, 0, 6)] }, frm := { time := 4000 } }; c.jil.branches = [(aMsg, 63, 0, 6)] ∧ 0 + 4000 ≤ c.endTime) := by
  decide +kernel

theorem witness_MessagesAct_4 :
    ({ jil := { branches := [(aMsg, 63, 0, 6)] } } : Chip).endTime < 0 + 4000
    ∧ (let g := aGather
       let c := paired atTop { gathers := [g] }
       c.jil.gathers = [g] ∧ leField aMack.args 0 2 = g.group ∧ leField aMack.args 2 2 = g.id ∧ leField aMack.args 5 1 = 0
         ∧ (g.delivered ||| g.fenced ||| g.dropped) &&& g.mask ≠ g.mask ∧ c.endTime < g.since + 1000000) := by
  decide +kernel

theorem witness_MessagesAct_5 :
      (let g : Gather := { room := 0, group := 1, id := 2, reply := 8191, mask := 3, delivered := 2, fenced := 1, since := 0 }
       let c := paired atTop { gathers := [g] } msgChip
       c.jil.gathers = [g] ∧ c.endTime < g.since + 1000000 ∧ (g.delivered ||| g.fenced ||| g.dropped) &&& g.mask = g.mask
         ∧ (c.queueDecl g.reply).any (fun e => e.1 = g.room && e.2.kind = qFabHost) = true ∧ c.queueOn g.reply = true ∧ c.room4 g.reply 0 1 = true)
    ∧ ((paired atTop {} managed).fromManager (raw 0x30 2 [] [1]) = true ∧ (paired atTop).fromManager (raw 0x30 2 [] [1]) = false) := by
  decide +kernel

theorem witness_MessagesAct_6 :
    (({} : Chip).frm.cur % 2 ^ ({} : Chip).fld F.PCH_CMAP_CTL_SHIFT = 0 ∧ ({} : Chip).jil.cmapAt ≠ some ({} : Chip).frm.cur
        ∧ (let c : Chip := { frm := { cur := 1 }, regs := [holds F.PCH_CMAP_CTL_SHIFT 15] }; c.frm.cur % 2 ^ c.fld F.PCH_CMAP_CTL_SHIFT ≠ 0))
    ∧ (aHeld.pkt.src = 1 ∧ aHeld.pkt.room = leField (raw 0x43 3 [] []).args 0 1 % 16
        ∧ aHeld.pkt.sframe = leField (raw 0x43 3 [] []).args 2 6 % 65536 ∧ reqKind aHeld.pkt = 2) := by
  decide +kernel

theorem witness_MessagesAct_7 :
      (let m : Pkt := { data := [1], origin := 2, source := 1, spec := some (1, 0, 0), clear := false }
       let c : Chip := { que := { qs := [(5, { wait := [m] })] }, frm := { time := 40000000 } }
       c.que.qs = [(5, { wait := [m] })] ∧ m.spec = some (1, 0, 0) ∧ m.clear = false ∧ m.since + 40000000 ≤ c.endTime) := by
  decide +kernel

/-- Window 0 of job 1 lies at the start of room 0, whose one slice is slice 0 of stack 0; key 0 covers its first unit. -/
def targetChip (j : Jilia) (keyed : Bool := false) : Chip :=
  paired atTop j { rooms := [(0, { st := .running, cur := some { aLoad with image := { slices := [0] } } })]
                   regs := [(F.PCH_WIN_CFG_VALID.key 0 0 5, BitVec.ofNat 32 (0xB8000000 + b2n keyed * 2 ^ 30)), holds F.PCH_WIN_JOB 1 0 0 5, holds F.PCH_WIN_SIZE_LO 16 0 0 5,
                     (F.PCH_KEY_CFG_VALID.key 0 0 7, BitVec.ofNat 32 (2 ^ 31 + 5)), holds F.PCH_KEY_LEN 1 0 0 7] }

/-- A LOAD of 64 bytes at offset 0 of window 0 of job 1. -/
def load : Packet := raw 0x10 0 [1, 0] [64, 0, 0, 0, 0, 0, 0, 0]

/-- A request taken at die 1. -/
def taken (p : Packet) : Taken := { die := 1, pkt := p, since := 0, order := 0 }

theorem witness_RequestsAct_arrivals :
    (∀ c, Ready (on c)) ∧ (arrives (paired atTop) (sealed load) 0x10 ∧ inOrder (paired atTop) (sealed load) atTop)
    ∧ arrives (paired atTop) (sealed aHeld.pkt) 0x11 ∧ inOrder (paired atTop) (sealed aHeld.pkt) atTop
    ∧ packetOk (sealed (raw 0x18 0 [0, 1] [1, 0, 0, 0, 0, 0, 0, 0])) = true :=
  ⟨fun _ => ready_on _, ⟨arrives_sealed (by decide +kernel), inOrder_sealed _ _ _ _ _ _⟩, arrives_sealed (by decide +kernel),
    ⟨rfl, rfl, rfl, by decide, rfl, rfl, by decide, rfl⟩, packetOk_sealed _⟩

theorem witness_RequestsAct_1 :
      (let r : InjRec := { frame := 0, pkt := load, size := 48, clear := true }
       let c := paired atTop { bufs := [(1023, { recs := [r] })] }
       1023 < 1024 ∧ (c.buf 1023).recs = [r] ∧ c.speculative (bufRoom 1023) = false ∧ r.pkt.type = 0x10 ∧ r.pkt.mcast = false
         ∧ (c.rbuf (rbufOf (bufRoom 1023) (argRbuf r.pkt))).used + reserveOf r.pkt ≤ 65536 ∧ c.sendPair r.pkt.dest = none
         ∧ (c.pairsOn (homeDie r.pkt.dest)).length < 2048 ∧ wireLen r.pkt ≤ 2 ^ c.fld F.PCH_FAB_CTL_WINDOW * 1024)
    ∧ (let q : Req := { room := 15, rbuf := 0, tag := 0, kind := 1, reserve := 96, node := 1, seq := 0, epoch := 0, first := 0, frame := 0 }
       let r : InjRec := { frame := 0, pkt := raw 0x1F 0 [] [], size := 32, clear := true }
       let c := paired atTop { bufs := [(1023, { recs := [r] })], reqs := [q] }
       r.pkt.type = 0x1F ∧ (c.rbuf (rbufOf (bufRoom 1023) (argRbuf r.pkt))).used + 32 ≤ 65536 ∧ c.jil.fences = [] ∧ q ∈ c.jil.reqs
         ∧ q.room = bufRoom 1023 ∧ coveredBy r.frame q.frame = true) := by
  decide +kernel

theorem witness_RequestsAct_2 :
      (let p := raw 0x18 0 [0, 1] [1, 0, 0, 0, 0, 0, 0, 0]
       let q : Req := { room := 0, rbuf := 0, tag := 0, kind := 1, reserve := 96, node := 1, seq := 1, epoch := 0, first := 0, frame := 0 }
       let c := paired atTop { reqs := [q] }
       c.jil.reqs = [q] ∧ c.jil.fences = [] ∧ p.type = 0x18 ∧ q.node = p.src ∧ q.seq = leField p.body 0 4 ∧ q.kind = 1
         ∧ leField p.args 0 1 ≠ rsLost ∧ p.husk = false ∧ c.endTime < q.first + 50000000
         ∧ q.first + 50000000 ≤ (paired atTop { reqs := [q] } { frm := { time := 50000000 } }).endTime
         ∧ (paired atTop).openReq p.src (leField p.body 0 4) = none)
    ∧ (load.spec = false ∧ (paired atTop).jil.taken = [] ∧ aHeld.pkt.spec = true ∧ (paired atTop).psbUsed (homeDie aHeld.pkt.src) + heldBytes aHeld.pkt ≤ 16 * 2 ^ 20) := by
  decide +kernel

theorem witness_RequestsAct_3 :
      (let c := targetChip { taken := [taken load] }
       c.jil.taken = [taken load] ∧ c.pipReady load = true ∧ c.checkReq load = (rsOk, 5) ∧ reqKind load = 1)
    ∧ (let c := targetChip { taken := [taken aStore] }
       c.pipReady aStore = true ∧ c.checkReq aStore = (rsOk, 5) ∧ reqKind aStore = 2 ∧ (paired atTop).windowOf (argJob aStore) (argWindow aStore) = none
         ∧ (taken aStore).result = 0 ∧ c.endTime < (taken aStore).since + 10000000) := by
  decide +kernel

theorem witness_RequestsAct_4 :
    (taken aStore).since + 10000000 ≤ ({ frm := { time := 10000000 } } : Chip).endTime
    ∧ (let key (op : Byte) : Packet := raw 0x13 0 [1, 0, 0, 16 * op] (List.replicate 8 0)
       let c := targetChip {} true
       c.pipReady (key 3) = true ∧ c.checkReq (key 1) = (rsOk, 5) ∧ c.checkReq (key 2) = (rsOk, 5) ∧ c.checkReq (key 3) = (rsOk, 5) ∧ reqKind (key 1) = 4
         ∧ argOp (key 1) = 1 ∧ argOp (key 2) = 2 ∧ argOp (key 3) = 3) := by
  decide +kernel

theorem witness_RequestsAct_5 :
      (let m : CelMsg := { die := 1, stack := 0, room := 0, tag := 9, slice := 0, line := 0, kind := 1 }
       let r : Taken := { (taken load) with checked := true,  waits := [(m, 0)], data := List.replicate 64 0 }
       let y : RspRec := { ep := 21, stack := 0, room := 0, tag := 9, slice := 0, status := 0 }
       let c := targetChip { taken := [r] }
       c.jil.taken = [r] ∧ r.checked = true ∧ r.keyDue = none ∧ r.waits = [(m, 0)] ∧ y.ep = 20 + r.die ∧ r.die < 2 ∧ m.tag = y.tag ∧ r.status = rsOk
         ∧ y.status = celOk ∧ reqKind r.pkt = 1 ∧ r.data.length = 64 ∧ r.husks = 0
         ∧ 0 = c.winBase ((c.windowOf (argJob r.pkt) (argWindow r.pkt)).getD 0) + argOffset r.pkt)
    ∧ (let h := aHeld
       let c : Chip := { jil := { psb := [h] }, frm := { time := 40000000 } }
       c.jil.psb = [h] ∧ h.since + 40000000 ≤ c.endTime) := by
  decide +kernel

theorem witness_RequestsAct_6 :
    (({} : Chip).fld F.PCH_WIN_CFG_ROOM 0 0 (({} : Chip).fld F.PCH_KEY_CFG_WIN 0 0 4095) = 0 ∧ (0 : Nat) ≠ 15 ∧ 4095 < 4096 ∧ 1 < 2)
    ∧ (let s := on { regs := [(F.PCH_WIN_CFG_VALID.key 0 0 5, 0x80000007)] }
       s.dev.stagedOf F.PCH_WIN_CFG_VALID 0 0 5 = 1 ∧ s.dev.stagedOf F.PCH_WIN_JOB 0 0 5 = 0 ∧ s.dev.stagedOf F.PCH_WIN_CFG_WINDOW 0 0 5 = 0x80000007 % 4096
         ∧ bitOf 0x80000007 31 = true ∧ bitOf 7 31 = false ∧ bitsOf 0x10000 16 4 ≠ 2) := by
  decide +kernel

/-! ## Integrity, power, temperature, calibration -/

/-- Tower 0 is up and cross-checking is on: its sixteen rows are free. -/
def checking : Chip := { blocks := [(0, { st := .ready })], regs := [holds F.ERR_XCHK_CTL_EN 1] }

theorem witness_IntegrityAndPower :
    (∀ c : Chip, c.boot.warm = false → Ready (on c) ∧ (on c).dev.chip.boot.warm = false)
    ∧ (checking.boot.warm = false ∧ checking.fld F.ERR_XCHK_CTL_EN = 1 ∧ checking.freeRows.length = 16 ∧ checking.integ.xLast = none
        ∧ (on checking).gate.inj.st ≠ .active ∧ 5 ≠ 0 ∧ (1 + checking.integ.xRound) % checking.freeRows.length ≠ 0
        ∧ (List.range 16).all (fun i => i = 0 || decide (checking.physCore (checking.freeRows.getD i 0) 0 ≠ checking.physCore (checking.freeRows.getD 0 0) 0)) = true)
    ∧ ({} : Chip).fld F.ERR_XCHK_CTL_EN = 0
    ∧ (2 ^ 32 - 1 < 2 ^ 32 ∧ (({ prod := 1023 } : Integ).prod + 2 ^ 32 - (2 ^ 32 - 1)) % 2 ^ 32 ≤ 1024 ∧ 1024 < (({ prod := 1024 } : Integ).prod + 2 ^ 32 - (2 ^ 32 - 1)) % 2 ^ 32)
    ∧ (roomWriter .pf 15 = true ∧ roomWriter (.vf 16) 15 = true)
    ∧ (let c : Chip := { frm := { idle := true } }
       4064 < 4096 ∧ 4064 % 32 < 17 ∧ 255 < 256 ∧ (∀ r, (c.row (4064 / 32)).room = some r → (c.room r).hold = true ∨ c.frm.idle = true))
    ∧ (let c : Chip := { tow := { rows := [(127, { room := some 15 })] }, rooms := [(15, { hold := false })] }
       (c.row (4064 / 32)).room = some 15 ∧ (c.room 15).hold = false ∧ c.frm.idle = false)
    ∧ (let c : Chip := { tow := { pos := [(4064, { st := 0, fmax := 79 })] } }
       c.tow.pos = [(4064, { st := 0, fmax := 79 })] ∧ 79 < c.freqReq (4064 / 32) ∧ 4064 ∈ (List.range 16).map (c.physCore (4064 / 32)))
    ∧ (let c (p : Power) : Chip := { frm := { cur := 63 }, pwr := p }
       let rs (p : Power) := (c p).rowPlans (c p).freqReq ((((on (c p)).dev.lookAhead 63 (!(c p).frm.idle) 1).head?.map Prod.snd).getD [])
       let fits (p : Power) (k : Nat) : Bool := (on (c p)).dev.levelFits (rs p) k
       let heavy : Power := { outRun := some 2000000, outIdle := some 0 }
       nextFrame 63 % 64 = 0 ∧ heavy.kNext = none ∧ heavy.idleK = 0 ∧ heavy.capUn = false ∧ fits heavy 7 = true ∧ fits heavy 2 = true
         ∧ fits heavy 1 = false ∧ fits heavy 0 = false ∧ fits {} 0 = true ∧ fits { outRun := some 2000000, outIdle := some 2000000 } 7 = false
         ∧ (c { capUn := true, cycleNs := 1, cycleNj := 1501 }).limit * (1 + 0) < 1501 + 0
         ∧ (let x := c { idleK := 7, aboveAll := true }; x.pwr.idleK = 7 ∧ x.overBy 1500001 = true ∧ x.overBy 1500000 = false))
    ∧ nextFrame ({} : Chip).frm.cur % 64 ≠ 0
    ∧ (({ boot := { mfw := true } } : Chip).mRuns = true ∧ ({ boot := { mfw := true } } : Chip).frm.cur % 2 ^ 28 = 0)
    ∧ ({ boot := { mfw := false } } : Chip).mRuns = false ∧ (({ cur := 1 } : Machine.Frm).cur) % 2 ^ 28 ≠ 0
    ∧ (on {}).dev.calFlash.eng0 = none ∧ (on {}).dev.calFlash.eng1 = none
    ∧ ({ frm := { cur := 2 ^ 40 }, cal := { phyLeft := [(0, 1)] } } : Chip).insertDue = true ∧ ({} : Chip).insertDue = false :=
  ⟨fun _ h => ⟨ready_on _, h⟩, by decide +kernel⟩

/-- A tower at 60 W whose plan asks for 80 W, room 3's share growing; at the bounds of RISE and FALL, 12 W and 20 W, and of an excess. -/
theorem witness_IntegrityAndPower_slew :
    (let c : Chip := { pwr := { towers := [(7, { power := 600 })] } }
     Tab.find c.pwr.towers 7 = some { power := 600 } ∧ c.fld F.HALL_SLEW_RISE = 12 ∧ c.fld F.HALL_SLEW_FALL = 20
       ∧ 600 + 10 * 12 < planOn [(3, 7, 800)] 7 ∧ shareOn c.pwr.plan 7 3 < shareOn [(3, 7, 800)] 7 3 ∧ planOn [(3, 7, 720)] 7 ≤ 600 + 10 * 12
       ∧ 125 * 12 < 10 * (751 - 600) ∧ ¬ 125 * 12 < 10 * (750 - 600) ∧ 125 * 20 < 10 * (600 - 349) ∧ ¬ 125 * 20 < 10 * (600 - 350)) := by
  decide +kernel

/-- A chip with sensor `k`. -/
def sensing (k : Nat) (x : Sensor) (t : Bool := false) : Chip := { thm := { sensors := [(k, x)], tripped := t } }

/-- A chip with a calibration unit. -/
def calibrating (kind unit : Nat) (u : CalUnit) (retry : List Nat := []) : Chip := { cal := { units := [(calKey kind unit, u)], retry } }

theorem witness_ThermalAndCalibration :
    (∀ c, Ready (on c))
    ∧ (let x := (sensing 365 { st := 0 }).sensor 365; (sensorClass 365).isSome = true ∧ x.st < 2 ∧ x.failing = false ∧ (-160 : Int) ≤ -160 ∧ (600 : Int) ≤ 600 ∧ (600 : Int) < 601)
    ∧ (let x := (sensing 16 { st := 0, low := 7 }).sensor 16; buried 16 = true ∧ x.st = 0 ∧ 7 ≤ x.low)
    ∧ (let x := (sensing 258 { st := 0, low := 6 }).sensor 258; buried 258 = true ∧ x.st = 0 ∧ x.low < 7)
    ∧ (let x := (sensing 347 { st := 1, fine := 1023 }).sensor 347; buried (256 + 8 * 11 + 1) = true ∧ x.st = 1 ∧ 1023 ≤ x.fine)
    ∧ (let c := sensing 0 { st := 0 }; sensorClass 0 = some .compute ∧ ((c.sensor 0).st = 2 → (c.sensor 0).openShort = false) ∧ c.thm.tripped = false)
    ∧ (let c := sensing 239 { st := 2 } true; sensorClass 239 = some .compute ∧ ((c.sensor 239).st = 2 → (c.sensor 239).openShort = false) ∧ c.thm.tripped = true)
    ∧ (({} : Chip).thm.cool.reversed = false ∧ ({} : Chip).thm.cool.hot = false ∧ (-4 : Int) ≤ 176 - 180 ∧ (208 : Int) < 209 ∧ (208 : Int) ≤ 208
        ∧ 600 ≤ 600 ∧ (180 : Int) < 181 ∧ ({} : Chip).fld F.THM_CTL_FLUID = 0)
    ∧ (1 ≤ 1 ∧ 7 < 8 ∧ 22 < calUnits 1 ∧ 7 < calUnits 7 ∧ 7 ≠ 5 ∧ ({} : Chip).calTriggered 1 22 = false ∧ ({} : Chip).thm.tripped = false)
    ∧ (let u := (calibrating 4 1 { running := true, base := [100], source := 0 }).calUnit 4 1
       u.running = true ∧ u.goal = none ∧ calPlausible 4 (if u.source = 3 then 2 else 1) u.base (u.newSet 4 [80]) = true)
    ∧ (let c := { (calibrating 7 7 { record := true, cur := [1] } [calKey 7 7]) with boot := { mfw := true } }
       c.mRuns = true ∧ (c.calUnit 7 7).record = true ∧ c.cal.retry = [calKey 7 7] ∧ (on c).dev.calFlash.copy 7 7 0 = none ∧ (on c).dev.calFlash.copy 7 7 1 = none)
    ∧ (({} : Chip).calUnit 7 7).record = false ∧ ({ boot := { mfw := false } } : Chip).mRuns = false :=
  ⟨fun _ => ready_on _, by decide +kernel⟩
/-! ## The host -/

/-- A chip whose PCIe link is up and whose room 0 holds slice 0. -/
def hosted (h : HostIf := {}) (c : Chip := {}) : Chip :=
  { c with boot := { pcie := true }, host := h, rooms := [(0, { st := .running, cur := some { aLoad with image := { slices := [0] } } })] }

/-- A read of the first 8 bytes of a line, sent out under tag 9; its write; the answer with a status. -/
def aMsg2 : CelMsg := { die := 2, stack := 0, room := 0, tag := 9, slice := 0, line := 0, kind := 1 }
def anAcc (write : Bool) : HostAcc := { id := 0, fn := 0, write, addr := 56, len := 8, recs := [(aMsg2, none)], since := 0 }
def answer (status : Nat) : RspRec := { ep := 22, stack := 0, room := 0, tag := 9, slice := 0, status }

/-- A load of room 0 that reads from the host. -/
def aRead : Load := { owner := 0, room := 0, srcKind := 1, src := 0, len := 256 }

theorem witness_HostPorts :
    (∀ c, Ready (on c))
    ∧ (16 ≤ 16 ∧ (17 = 0 ∨ 16 < 17) ∧ (hosted).boot.pcie = true ∧ 2 ^ 17 - 1 < 2 ^ 17 ∧ 30 ≤ 40 ∧ 40 ≤ 40)
    ∧ ((hosted).fnUp 0 = true ∧ (hosted).hostMap 0 0 = some (0, 0) ∧ 56 % 64 + 8 ≤ 64 ∧ 0 < 8 ∧ ((hosted).sliceRoom 0).isSome = true)
    ∧ (let c := { (hosted) with rooms := [] }; c.fnUp 0 = true ∧ c.hostMap 0 0 = some (0, 0) ∧ (c.sliceRoom 0).isSome = false)
    ∧ (let c := hosted { vfEnable := true, numVFs := 1 }
       c.fnUp 1 = true ∧ c.hostMap 1 0 = some (0, 0) ∧ c.hostMap 1 (2 ^ 30 - 64) = none ∧ ([1] : List Byte) ≠ [])
    ∧ ({} : Chip).fnUp 0 = false :=
  ⟨fun _ => ready_on _, by decide +kernel⟩

theorem witness_HostPorts_answers :
      (let c := hosted { accs := [anAcc false] }
       c.host.accs = [anAcc false] ∧ (anAcc false).recs = [(aMsg2, none)] ∧ (answer celOk).ep = 22 ∧ (answer celOk).tag = aMsg2.tag
         ∧ (anAcc false).addr % 64 + (anAcc false).len ≤ 64 ∧ (List.replicate 64 (0 : Byte)).length = 64 ∧ (answer celHusk).status = celHusk
         ∧ (c.sliceRoom (aMsg2.stack * 64 + aMsg2.slice)).isSome = true ∧ c.endTime < (anAcc false).since + 8000000)
    ∧ (let c : Chip := { host := { accs := [anAcc true] }, frm := { time := 8000000 } }
       c.host.accs = [anAcc true] ∧ (anAcc true).write = true ∧ (answer celRange).status = celRange ∧ (anAcc true).since + 8000000 ≤ c.endTime)
    ∧ (withQueue qFabHost {}).queueOn 8191 = true
    ∧ (let c : Chip := { snap := { st := .collecting } }; c.snap.st = .collecting ∧ c.boot.warm = false)
    ∧ (let c := hosted { ats := 1 } { bit := { load := some aRead, eng := .reading } }
       c.bit.load = some aRead ∧ c.bit.eng = .reading ∧ c.fnUp 0 = true ∧ bitOf c.host.ats 0 = true ∧ c.host.inval = [] ∧ c.readsUnderWay 0 = true
         ∧ 256 ≤ 1 * 2 ^ 20
         ∧ (hosted { ats := 1 }).readsUnderWay 0 = false) := by
  decide +kernel

/-- What a module reset of one function leaves is about these: a view, a masked vector, an open queue with a packet, a load. -/
theorem witness_FunctionsReset :
    (let c : Chip := { (withQueue qFabHost {}) with bit := { load := some aRead, eng := .reading } }
     c.queueOn 8191 = true ∧ c.que.qs = [(8191, {})] ∧ c.bit.load = some aRead ∧ c.bit.eng ≠ .accepted)
    ∧ (let c : Chip := { bit := { load := some aRead, eng := .accepted } }; c.bit.load = some aRead ∧ c.bit.eng = .accepted) := by
  decide +kernel
/-! ## The security engine -/

/-- A state whose firmware runs, with another security engine and another flash. -/
def served (x : Sec := {}) (f : SecFlash := {}) (c : Chip := {}) : State :=
  { dev := { chip := { c with boot := { mfw := true, pcie := true }, sec := x }, flash := f } }

theorem witness_SecurityActs :
    (∀ x f c, Ready (served x f c) ∧ (served x f c).dev.chip.boot.warm = false ∧ (served x f c).dev.chip.boot.recovery = false
        ∧ (served x f c).dev.chip.boot.mfw = true)
    ∧ (∀ r, Ready (on { boot := { recovery := r, mfw := false } }))
    ∧ (0x60000 % 4 = 0 ∧ ¬ (0 = 1 ∨ 16 < 1) ∧ (0 = 17 ∨ 16 < 17) ∧ 0x8 ∉ [0x4, 0x60004, 0x70004, 0x40000, 0x20014] ∧ 650 ≤ 650 ∧ 1500 ≤ 1500)
    ∧ ((List.replicate 32 (0 : Byte)).length = 32 ∧ ({} : Chip).fld F.SEC_SIG_CTL_MIN_S = 60)
    ∧ ((served { noCounter := true }).dev.chip.sec.noCounter = true ∧ 2 ^ 20 ≤ (served { leaf := 2 ^ 20 }).dev.chip.sec.leaf)
    ∧ (let s := served { leaf := 2 ^ 20 - 1, credit := 0, creditAt := 1 } {} { frm := { time := 60000000000 } }
       s.dev.chip.sec.noCounter = false ∧ s.dev.chip.sec.leaf < 2 ^ 20
         ∧ ¬ (0 < s.dev.chip.sec.credit ∨ s.dev.chip.sec.creditAt + 60000000000 ≤ s.dev.chip.frm.time))
    ∧ (let s := served { leaf := 2 ^ 20 - 65536, credit := 0 } (({} : SecFlash).putCounter (2 ^ 20 - 65536)) { frm := { time := 60000000000 } }
       (0 < s.dev.chip.sec.credit ∨ s.dev.chip.sec.creditAt + 60000000000 ≤ s.dev.chip.frm.time) ∧ s.dev.chip.sec.leaf = s.dev.flash.hwm
         ∧ 2 ^ 20 - 65536 ≤ s.dev.chip.sec.leaf)
    ∧ (let s := served {} (({} : SecFlash).putCounter 1); 0 < s.dev.chip.sec.credit ∧ s.dev.chip.sec.leaf ≠ s.dev.flash.hwm)
    ∧ 16 * 2 ^ 20 - 1024 + (List.replicate 1024 (0 : Byte)).length ≤ 16 * 2 ^ 20
    ∧ ({} : Chip).bit.load = none
    ∧ (let s := served { svn := 5 } { svnBurns := 62 }; s.dev.flash.minSvn < s.dev.chip.sec.svn ∧ s.dev.flash.svnBurns < 63)
    ∧ (let s := served { svn := 5 } { svnBurns := 63 }; s.dev.flash.minSvn < s.dev.chip.sec.svn ∧ 63 ≤ s.dev.flash.svnBurns)
    ∧ (served {} {}).dev.chip.sec.svn ≤ (served {} {}).dev.flash.minSvn
    ∧ ((List.replicate 56 (0 : Byte)).length = 56 ∧ ({ bit := { eng := .reading } } : Chip).bit.eng ≠ .idle ∧ ({} : Chip).bit.eng = .idle)
    ∧ (let s := served {} (({} : SecFlash).putOwner (some []) 0); s.dev.flash.owner ≠ none ∧ s.dev.flash.owner = some [])
    ∧ (let s := served {} {}; s.dev.flash.owner = none ∧ s.dev.chip.fld F.SEC_CTL_ENROL_ALLOW = 1)
    ∧ ({ regs := [holds F.SEC_CTL_ENROL_ALLOW 0] } : Chip).fld F.SEC_CTL_ENROL_ALLOW = 0 ∧ 3 < 4
    ∧ bitOf (served { secure := 8 }).dev.chip.sec.secure 3 = true ∧ bitOf (served {}).dev.chip.sec.secure 3 = false
    ∧ ((served).dev.chip.boot.pcie = true ∧ 255 < 256 ∧ ({} : Chip).boot.pcie = false) :=
  ⟨fun _ _ _ => ⟨⟨⟨rfl, nofun, rfl, rfl⟩, rfl⟩, rfl, rfl, rfl⟩, fun _ => ready_on _, by decide +kernel⟩

/-- The image written at assembly verifies under its own SVN only. -/
theorem witness_SecurityActs_slot :
    ({ shipped := true } : FwSlot).verify 0 = .good 0 0 [] ∧ ({ shipped := true } : FwSlot).verify 1 = .bad vsRollback := by
  decide +kernel

/-! A signature that verifies: its key holds the root that the signature leads to. -/

def sigIdent : List Byte := List.replicate 16 0

/-- Type code 4 of the one-time signature, type code 6 of the tree of height 10. -/
def aSig : List Byte := padTo 1128 0 [0, 0, 0, 0, 0, 0, 0, 4] ++ [0, 0, 0, 6] ++ List.replicate 320 0

/-- The root of the tree in which `aSig` is the signature of `msg`. -/
def sigRoot (msg : List Byte) : List Byte :=
  lmsRoot sigIdent 10 (2 ^ 10 + 0) (sha256 (sigIdent ++ beBytes 4 (2 ^ 10 + 0) ++ [0x82, 0x82]
    ++ otsKey 8 34 0 (sigIdent ++ beBytes 4 0) ((aSig.drop 8).take 32) (aSig.drop 40) msg)) (aSig.drop 1132)

def sigKey (msg : List Byte) : List Byte := [0, 0, 0, 6, 0, 0, 0, 4, 0, 0, 0, 0, 0, 0, 0, 0, 0, 0, 0, 0, 0, 0, 0, 0] ++ sigRoot msg

theorem sha256_length (l : List Byte) : (sha256 l).length = 32 := by simp [sha256, beBytes, leBytes]

theorem lmsRoot_length (ident : List Byte) : ∀ n node x path, x.length = 32 → (lmsRoot ident n node x path).length = 32
  | 0, _, _, _, h => h
  | n + 1, _, _, _, _ => lmsRoot_length ident n _ _ _ (sha256_length _)

theorem lmsVerify_sig (msg : List Byte) : lmsVerify (sigKey msg) msg aSig = true := by
  have h : (sigRoot msg).length = 32 := lmsRoot_length _ _ _ _ _ (sha256_length _)
  have hs : sigRoot msg = lmsRoot sigIdent 10 (2 ^ 10 + 0) (sha256 (sigIdent ++ beBytes 4 (2 ^ 10 + 0) ++ [0x82, 0x82]
    ++ otsKey 8 34 0 (sigIdent ++ beBytes 4 0) ((aSig.drop 8).take 32) (aSig.drop 40) msg)) (aSig.drop 1132) := rfl
  unfold sigKey
  generalize sigRoot msg = r at *
  have e0 : ofBe ((([0, 0, 0, 6, 0, 0, 0, 4, 0, 0, 0, 0, 0, 0, 0, 0, 0, 0, 0, 0, 0, 0, 0, 0] ++ r).drop 0).take 4) = 6 := rfl
  have e4 : ofBe ((([0, 0, 0, 6, 0, 0, 0, 4, 0, 0, 0, 0, 0, 0, 0, 0, 0, 0, 0, 0, 0, 0, 0, 0] ++ r).drop 4).take 4) = 4 := rfl
  have ei : (([0, 0, 0, 6, 0, 0, 0, 4, 0, 0, 0, 0, 0, 0, 0, 0, 0, 0, 0, 0, 0, 0, 0, 0] ++ r).drop 8).take 16 = sigIdent := rfl
  have ed : ([0, 0, 0, 6, 0, 0, 0, 4, 0, 0, 0, 0, 0, 0, 0, 0, 0, 0, 0, 0, 0, 0, 0, 0] ++ r : List Byte).drop 24 = r := rfl
  have s0 : ofBe ((aSig.drop 0).take 4) = 0 := by decide +kernel
  have s4 : ofBe ((aSig.drop 4).take 4) = 4 := by decide +kernel
  have so : ofBe ((aSig.drop (8 + 32 * (34 + 1))).take 4) = 6 := by decide +kernel
  have sl : aSig.length = 8 + 32 * (34 + 1) + 4 + 32 * 10 := by decide +kernel
  have h6 : lmsHeight 6 = some 10 := rfl
  have h4 : otsOf 4 = some (8, 34, 0) := rfl
  simp only [lmsVerify, e0, e4, ei, ed, s0, s4, so, sl, h6, h4, ← hs]
  simp [h]

/-- A transfer of ownership whose signature verifies, and one whose signature does not. -/
theorem witness_SecurityActs_transfer (key : List Byte) :
    (let cur := sigKey ([0x5A, 0x4F, 0x57, 0x4E] ++ sha256 key ++ leBytes 8 0)
     let s := served {} (({} : SecFlash).putOwner (some cur) 0)
     Ready s ∧ s.dev.chip.bit.eng = .idle ∧ s.dev.flash.owner = some cur
       ∧ lmsVerify cur ([0x5A, 0x4F, 0x57, 0x4E] ++ sha256 key ++ leBytes 8 s.dev.flash.nonce) aSig = true)
    ∧ (let s := served {} (({} : SecFlash).putOwner (some []) 0)
       s.dev.chip.bit.eng = .idle ∧ s.dev.flash.owner = some []
         ∧ lmsVerify [] ([0x5A, 0x4F, 0x57, 0x4E] ++ sha256 key ++ leBytes 8 s.dev.flash.nonce) [] = false) :=
  ⟨⟨⟨⟨rfl, nofun, rfl, rfl⟩, rfl⟩, rfl, rfl, lmsVerify_sig _⟩, rfl, rfl, rfl⟩
/-! ## The whole machine -/

theorem witness_StepRunsTheFront :
    (let s : State := { pending := [.pcieLinkUp, .linkDown] }; s.pending = [.pcieLinkUp, .linkDown] ∧ (on {}).pending = []) := by
  decide +kernel

theorem witness_NothingStopsTheModule :
    ({ gate := { powered := false } } : State).active = false ∧ ({ gate := { held := true } } : State).active = false ∧ pinEvent .pcieLinkUp = false := by
  decide +kernel

/-- The invariant holds and the front command has a next state, with the lock closed and open. -/
theorem witness_InvariantKept :
    (∃ s t : State, Inv s ∧ s.gate.locked = true ∧ step s = .next t) ∧ ∃ s t : State, Inv s ∧ s.gate.locked = false ∧ step s = .next t :=
  ⟨⟨{ gate := { locked := true } }, _, ⟨rfl, fun _ => by decide, rfl, rfl⟩, rfl, rfl⟩, ⟨on {}, _, inv_on _, rfl, rfl⟩⟩
/-! ## Ill-formed commands -/

/-- A record, an answer, a packet and a flit whose fields are in their ranges. -/
def aCelRec : CelRec := { stack := 0, sender := 0, owner := 0, order := 0, room := 0, tag := 0, slice := 0, reply := 0, line := 0 }
def aRspRec : RspRec := { ep := 0, stack := 0, room := 0, tag := 0, slice := 0, status := 0 }
def aPacket : Packet := { type := 0, tc := 0, dest := 0, args := List.replicate 12 0 }
def aFlit : Flit := { fseq := 0, ack := 0, crc := 0 }

/-- For each check, a command that it refuses. -/
theorem smoke_well_formed :
    [ -- a number below a bound
      wellFormed (.moduleReset 2), wellFormed (.syncSrcWrite .pf 0 8), wellFormed (.droop 128 0), wellFormed (.sensorSample 366 0 0),
      wellFormed (.readReg .pf 0 0 0), wellFormed (.readReg .pf 0 0 17), wellFormed (.vfFlr 0), wellFormed (.bar2Read 0 0 0),
      -- a list of a length
      wellFormed (.slotReceive 0 0 0 [] 0), wellFormed (.getReport .pf 0 [] true), wellFormed (.slotSend 0 0 0 false [1]),
      -- a frame number
      wellFormed (.heartbeat frameMod),
      -- a core
      wellFormed (.waitEnd 4096), wellFormed (.waitEnd 17),
      -- a fetch
      wellFormed (.nop { core := 0, eccLo := 3 } {}), wellFormed (.nop { core := 17 } {}),
      -- an operation word
      wellFormed (.nop { core := 0 } { psel := 8 }), wellFormed (.nop { core := 0 } { f3 := 256 }), wellFormed (.nop { core := 0 } { h := 65536 }),
      wellFormed (.nop { core := 0 } { j := 2 ^ 32 }),
      -- a defect of the array
      wellFormed (.mma { core := 0 } {} { cell := some (32, 0) }),
      -- a requester
      wellFormed (.viewPin (.vf 0)), wellFormed (.viewPin (.vf 17)), wellFormed (.run 0 0 (.write (.vf 17) 0)),
      -- an address
      wellFormed (.pairLowRead .pf 2 false), wellFormed (.rcRead .pf (2 ^ 26) 15),
      -- the cellar's records
      wellFormed (.read { aCelRec with stack := 12 }), wellFormed (.ack { aRspRec with ep := 23 } 0), wellFormed (.data aRspRec []),
      -- a packet, a flit
      wellFormed (.msg { aPacket with args := [] }), wellFormed (.flit 0 0 { aFlit with fseq := 2048 }) ]
      = List.replicate 31 false := by
  decide +kernel

/-- The same commands with operands in their range. -/
theorem smoke_well_formed_good :
    [ wellFormed (.moduleReset 1), wellFormed (.syncSrcWrite .pf 0 7), wellFormed (.droop 127 0), wellFormed (.sensorSample 365 0 0),
      wellFormed (.readReg .pf 0 0 16), wellFormed (.vfFlr 16), wellFormed (.slotReceive 0 0 0 (List.replicate 128 0) 0), wellFormed (.heartbeat (frameMod - 1)),
      wellFormed (.waitEnd 4080), wellFormed (.nop { core := 16 } { psel := 7, f3 := 255, h := 65535, j := 2 ^ 32 - 1 }),
      wellFormed (.mma { core := 0 } {} { cell := some (31, 63) }), wellFormed (.viewPin (.vf 16)), wellFormed (.rcRead .pf (2 ^ 26 - 4) 15),
      wellFormed (.read { aCelRec with stack := 11 }), wellFormed (.msg aPacket), wellFormed (.flit 5 15 { aFlit with fseq := 2047 }) ]
      = List.replicate 16 true := by
  decide +kernel

/-! ## Values the spec works out -/

/-- The table of example addresses of spec/19 (R561). -/
theorem test_addresses :
    [F.TOW_ROWMAP_ROW_STATE.addrOf 5 9, F.HALL_MAP3_CHECK.addrOf 0 130, F.PCH_PORT_STATUS_STATE.addrOf 1 2, F.CEL_SCRUB_SUM.addrOf 11 5]
      = [0x00480124, 0x0010282C, 0x00900184, 0x00760134] := by
  decide +kernel

/-- The factors of one cell: what stands in the first places of a row of A and of a column of B; all others are zero. -/
def cellOf (l : List (Nat × Nat)) : List (Nat × Nat) := l ++ List.replicate (32 - l.length) (0, 0)

/-- One K-block of E4M3 by E2M1 (spec/03, after R99): S is 1,844,026 and the entry 1,844,026 * 2^-10 = 0x44E119D0. -/
theorem test_k_block :
    let a : Side := ⟨.e4m3, true, 0x7D⟩
    let b : Side := ⟨.e2m1, true, 0x81⟩
    let fs := cellOf [(0x3C, 0x7), (0xAC, 0x1), (0x7E, 0x6), (0x01, 0xD)]
    (blockSum false (products a b fs)).1 = 1844026
      ∧ f32 ((cellExact a b fs 0 false 0).ent.setWidth 32) = .fin false 14752208 (-13) ∧ 14752208 = 1844026 * 2 ^ 3 ∧ (cellExact a b fs 0 false 0).flags = 0 := by
  decide +kernel

/-- Two blocks quantised to MXFP8 E4M3 (spec/03, after R105): 300.0, and 0.0123 as FP32, 12897485 * 2^-30. -/
theorem test_quantise :
    mxScale .e4m3 [.fin false 300 0] = 0x7F ∧ mxElem .e4m3 0x7F (.fin false 300 0) none = (0x79, 0)
      ∧ mxScale .e4m3 [.fin false 13207024 (-30)] = 0x70 ∧ mxElem .e4m3 0x70 (.fin false 13207024 (-30)) none = (0x7D, 0) := by
  decide +kernel

/-- The tree of sum-on-arrival (spec/05, after R184): 2^24, 1.0, 1.0 and -2^24 give 1.0. -/
theorem test_sum_tree : soaElem 0 none [0x4B800000, 0x3F800000, 0x3F800000, 0xCB800000] = (0x3F800000, 0) := by
  decide +kernel

/-- A faulty multiplier (spec/13, after R426): the product 100 in place of 36 shows in row 1, column 2 and the corner. -/
theorem test_shell_check :
    let A : ABuf := { elems := [0x2, 0xB] ++ List.replicate 30 0 ++ [0x4, 0x7] ++ List.replicate (32 * 31 - 2) 0 }
    let cols : List Col := [[(0, 0x1), (1, 0x2)], [(0, 0x5), (1, 0x9)], [(0, 0xE), (1, 0x3)]]
    shellExact .e2m1 .e2m1 A cols none 0 0 = {} ∧ shellExact .e2m1 .e2m1 A cols (some (1, 2)) 64 0 = { rows := 2, cols := 4, corner := true } := by
  decide +kernel

/-- The cycle averages of a cap below the floor (spec/14, after R465), in units of 10 mW, each tower's rounded down: eight
towers of 72 W and 12 W, 500 W and 330 W besides. -/
theorem test_idle_cycle :
    let mean (idle : Nat) : Nat := 8 * cycleMean 72000 12000 12000 20000 idle + ((64 - idle) * 500000 + idle * 330000) / 64
    (mean 40 + 9) / 10 = 69225 ∧ (mean 48 + 9) / 10 = 61100 ∧ (mean 56 + 9) / 10 = 52975 := by
  decide +kernel

/-- A line's 73 symbols are a word of the code: its eight syndromes are 0 (spec/08, R270). -/
theorem test_line_code :
    let w := (lineCode ((List.range 64).map fun k => BitVec.ofNat 8 (7 * k + 1)) true).zipIdx.map fun x => (x.2, x.1)
    w.length = 73 ∧ (List.range 8).all (fun j => rsSyndrome 8 0x11D 73 j w = 0) = true := by
  decide +kernel

/-- Half the reference power is a fade of -3.0 dB, the reference itself 0 dB (spec/07, R235); 0 dBm is 10^6 nW. -/
theorem test_fade : fadeLevel (8 * 500000) 8 0 = -30 ∧ fadeLevel (8 * 1000000) 8 0 = 0 := by decide +kernel

/-- Cells of a packet of 900 bytes (spec/09, after R311). -/
theorem test_cells : cellsOf 900 = 4 := by decide +kernel

/-- Translation of a store (spec/12, after R403): R falls on C9 slice 56, slice address 40,414,352. -/
theorem test_translation :
    roomMap (List.range 128 |>.map (8 * 64 + ·)) 0x134567890 = some (9 * 64 + 56, 40414352) ∧ 40414352 = 64 * 631474 + 16 := by
  decide +kernel

end Sys2Proof.Tests
end

section
/-! PROOF. What every step keeps (R8, R20, R443, R513): no memory operation and no use of an injection is left over, memory stays in its
canonical form, and the lock with what it forbids stays until module reset or the loss of the supply. -/

namespace Sys2Proof.Machine

open Host

/-! ## No memory operation and no use of an injection waits -/

/-- Between commands the device holds no memory operation and no use of an injection. -/
def Dev.Clean (d : Dev) : Prop := d.wr = [] ∧ d.injUsed = 0

/-- What has the memory operations and injection uses of a clean device is clean. -/
theorem Dev.Clean.congr {d e : Dev} (h : d.Clean) (hw : e.wr = d.wr) (hu : e.injUsed = d.injUsed) : e.Clean :=
  ⟨hw.trans h.1, hu.trans h.2⟩

theorem Dev.Clean.onChip {d : Dev} (h : d.Clean) (g : Chip → Chip) : (d.onChip g).Clean := h.congr rfl rfl

theorem Dev.Clean.flag {d : Dev} (h : d.Clean) (f : Fld) (i e sel : Nat) : (d.flag f i e sel).Clean := h.congr rfl rfl

/-- Effects one after another, each of which leaves the device clean. -/
theorem Dev.Clean.foldl {α : Type} {d : Dev} (h : d.Clean) (l : List α) (f : Dev → α → Dev)
    (hf : ∀ d, d.Clean → ∀ a, (f d a).Clean) : (l.foldl f d).Clean :=
  List.foldlRecOn l f h fun e he a _ => hf e he a

theorem Dev.Clean.ite {p : Prop} [Decidable p] {d e : Dev} (hd : d.Clean) (he : e.Clean) : (if p then d else e).Clean := by
  split <;> assumption

theorem Dev.Clean.flagIf {p : Prop} [Decidable p] {d : Dev} (h : d.Clean) {f : Fld} {i e sel : Nat} :
    (if p then d.flag f i e sel else d).Clean := .ite (h.flag _ _ _ _) h

/-- A snapshot trigger changes the chip or a count. -/
theorem Dev.Clean.fire {d : Dev} (h : d.Clean) (src cls : Nat) : (d.fire src cls).Clean := by
  unfold Dev.fire
  split
  · exact h
  · split <;> exact h.congr rfl rfl

/-- The error log is part of the chip. -/
theorem Dev.Clean.log {d : Dev} (h : d.Clean) (e : LogEv) : (d.log e).Clean := by
  unfold Dev.log
  dsimp only
  split
  · exact h
  · split
    · exact (h.onChip _).fire _ _
    · exact h.onChip _

/-! ## The start of the functions -/

theorem Dev.Clean.retiredRing {d : Dev} (h : d.Clean) (k : Nat) : (d.retiredRing k).Clean := by
  unfold Dev.retiredRing
  dsimp only
  split <;> exact h.congr rfl rfl

/-- The retire list sets parts of the chip (R81, R234, R252, R283). -/
theorem Dev.Clean.loadRetireList {d : Dev} (h : d.Clean) : d.loadRetireList.Clean := by
  unfold Dev.loadRetireList
  refine Dev.Clean.foldl (h.onChip _) _ _ fun d h e => ?_
  dsimp only
  split
  · exact h.retiredRing _
  any_goals exact h.congr rfl rfl
  split <;> exact h.congr rfl rfl

theorem Dev.Clean.lifeStart {d : Dev} (h : d.Clean) : d.lifeStart.Clean := by
  unfold Dev.lifeStart
  dsimp only
  split <;> exact h.congr rfl rfl

/-- M's boot reads the flash and sets its registers and flags (R548). -/
theorem Dev.Clean.secBoot {d : Dev} (h : d.Clean) : d.secBoot.Clean := by
  unfold Dev.secBoot
  extract_lets back d₁ f a b pick act now d₂ d₃
  have h₁ : d₁.Clean := by
    unfold d₁
    split <;> exact h.congr rfl rfl
  have h₃ : d₃.Clean := (h₁.onChip _).onChip _
  clear_value d₃ pick
  cases pick with
  | none => exact h₃
  | some s => exact .flagIf (.flagIf (h₃.onChip _))

theorem Dev.Clean.calStart {d : Dev} (h : d.Clean) (kind unit : Nat) : (d.calStart kind unit).Clean := by
  unfold Dev.calStart
  dsimp only
  split
  · exact h
  · split <;> exact h.congr rfl rfl

theorem Dev.Clean.laserLoad {d : Dev} (h : d.Clean) (die : Nat) (set : List Int) : (d.laserLoad die set).Clean :=
  h.foldl _ _ fun _ h _ => h.congr rfl rfl

/-- A unit's values and runs are part of the chip (R490, R496). -/
theorem Dev.Clean.calLoad {d : Dev} (h : d.Clean) (kind unit : Nat) : (d.calLoad kind unit).Clean := by
  unfold Dev.calLoad
  extract_lets bad base lim cs good x d₁ d₂ d₃
  have h₁ : d₁.Clean := h.onChip _
  have h₂ : d₂.Clean := .ite (((h₁.onChip _).flag _ _ _ _).log _) h₁
  have h₃ : d₃.Clean := .ite (h₂.laserLoad _ _) (.ite (h₂.onChip _) h₂)
  exact .ite (h₃.calStart _ _) h₃

theorem Dev.Clean.calLoadBlock {d : Dev} (h : d.Clean) (b : Nat) : (d.calLoadBlock b).Clean :=
  Dev.Clean.foldl (.ite ((h.flag _ _ _ _).log _) h) _ _ fun _ h _ => h.calLoad _ _

/-- A block that begins to start changes the chip, and its units load their values (R496, R510). -/
theorem Dev.Clean.beginStart {d : Dev} (h : d.Clean) (k : Nat) : (d.beginStart k).Clean := by
  unfold Dev.beginStart
  extract_lets d₁ d₂
  have h₂ : d₂.Clean := .ite (Dev.Clean.foldl (h.onChip _) _ _ fun _ h _ => h.onChip _) (h.onChip _)
  exact .ite (h₂.calLoadBlock _) h₂

/-- The start of the functions leaves no memory operation: memory is lost by the reset before it (R23, R506). -/
theorem Dev.Clean.startFunctions {d : Dev} (h : d.Clean) : d.startFunctions.Clean := by
  unfold Dev.startFunctions
  extract_lets d₁ d₂ d₃ d₄
  have h₂ : d₂.Clean := (h.onChip _).loadRetireList.lifeStart.secBoot
  refine .ite h (.ite (h₂.onChip _) ?_)
  exact .foldl (.foldl ((h₂.calLoad 4 0).calLoad 4 1) _ _ fun _ h _ => h.onChip _) _ _ fun _ h _ => h.beginStart _

/-! ## The lock and what it forbids -/

/-- Under the lock no injection is allowed, waits to be allowed, is armed or is active (R8, R443). -/
def Gate.Sealed (g : Gate) : Prop :=
  g.locked = true → g.allow = false ∧ g.allowStaged = [] ∧ g.inj.st ≠ .armed ∧ g.inj.st ≠ .active

/-- A part of a step that is no reset: memory stays canonical, the lock stays, and so does what it forbids. -/
structure Keeps (s t : State) : Prop where
  mem : s.mem.wf = true → t.mem.wf = true
  locked : s.gate.locked = true → t.gate.locked = true
  sealed : s.gate.Sealed → t.gate.Sealed

theorem Keeps.refl (s : State) : Keeps s s := ⟨id, id, id⟩

theorem Keeps.trans {s t u : State} (h : Keeps s t) (k : Keeps t u) : Keeps s u :=
  ⟨k.mem ∘ h.mem, k.locked ∘ h.locked, k.sealed ∘ h.sealed⟩

/-- Neither memory nor the gate changes. -/
theorem Keeps.of_same {s t : State} (hm : t.mem = s.mem) (hg : t.gate = s.gate) : Keeps s t := by
  constructor <;> simp [hm, hg]

theorem Keeps.foldl {α : Type} (s : State) (l : List α) (f : State → α → State) (hf : ∀ s a, Keeps s (f s a)) :
    Keeps s (l.foldl f s) :=
  List.foldlRecOn l f (.refl s) fun t ht a _ => ht.trans (hf t a)

/-- An injection that is neither armed nor active stays so when it is used. -/
theorem Inj.use_idle {i : Inj} (ha : i.st ≠ .armed) (hb : i.st ≠ .active) (n : Nat) :
    (i.use n).st ≠ .armed ∧ (i.use n).st ≠ .active := by
  rcases i.use_st n with h | ⟨h, -⟩
  · rw [h]; exact ⟨ha, hb⟩
  · exact absurd h hb

/-- An injection that ended is neither armed nor active. -/
theorem endInj_idle (i : Inj) : (endInj i).st ≠ .armed ∧ (endInj i).st ≠ .active := by
  unfold endInj
  split
  · simp
  · next h => exact not_or.mp h

/-- A commit performs memory operations and takes uses of an injection. -/
theorem Keeps.commit (s : State) (d : Dev) : Keeps s (commit s d) where
  mem h := by rw [commit_mem]; exact Mem.wf_apply h _
  locked := id
  sealed h hl := by
    obtain ⟨hallow, hstaged, harmed, hactive⟩ := h hl
    exact ⟨hallow, hstaged, Inj.use_idle harmed hactive _⟩

/-- ARM under the lock does nothing: ALLOW is 0 (R8, R443). -/
theorem Keeps.armNow (s : State) : Keeps s s.armNow := by
  unfold State.armNow
  split
  · exact .refl s
  · next hallow =>
    have hopen : s.gate.Sealed → ¬ s.gate.locked = true := fun h hl => by simp [(h hl).1] at hallow
    dsimp only
    split <;> exact ⟨id, id, fun h hl => absurd hl (hopen h)⟩

theorem Keeps.disarmNow (s : State) : Keeps s s.disarmNow := by
  unfold State.disarmNow
  split
  · refine ⟨id, id, fun h hl => ?_⟩
    obtain ⟨hallow, hstaged, -⟩ := h hl
    exact ⟨hallow, hstaged, endInj_idle _⟩
  · exact .refl s

/-- No injection becomes active under the lock: none is armed. -/
theorem Keeps.startInj (s : State) (m : Nat) : Keeps s (s.startInj m) := by
  unfold State.startInj
  extract_lets i
  split
  · exact .refl s
  · next h =>
    have harmed : s.gate.inj.st = .armed := not_not.mp (not_or.mp h).1
    have hopen : s.gate.Sealed → ¬ s.gate.locked = true := fun h hl => by
      obtain ⟨-, -, hidle, -⟩ := h hl
      exact hidle harmed
    split <;> exact ⟨id, id, fun h hl => absurd hl (hopen h)⟩

/-- ALLOW stays 0 under the lock at a threshold, so ARM is ignored (R8, R443). -/
theorem Keeps.injThreshold (s : State) (m : Nat) : Keeps s (s.injThreshold m) := by
  unfold State.injThreshold
  extract_lets g allow due s₁ s₂
  have h₁ : Keeps s s₁ := ⟨id, id, fun h hl => by
    obtain ⟨-, hstaged, hinj⟩ := h hl
    exact ⟨by simp [s₁, g, show s.gate.locked = true from hl], by simp [s₁, g, hstaged], hinj⟩⟩
  have h₂ : Keeps s₁ s₂ := .foldl s₁ due _ fun s x => by
    split
    · exact .armNow s
    · exact .disarmNow s
  exact (h₁.trans h₂).trans (.startInj s₂ m)

/-- Lost frames move the thresholds of staged writes, not what is staged (R525). -/
theorem Keeps.postponeInj (s : State) (m : Nat) : Keeps s (s.postponeInj m) :=
  ⟨id, id, fun h hl => by
    obtain ⟨hallow, hstaged, hinj⟩ := h hl
    exact ⟨hallow, by simp [State.postponeInj, hstaged], hinj⟩⟩

/-- CONFIG_LOCK clears what the lock forbids (R8). -/
theorem Keeps.lock (s : State) : Keeps s s.lock := ⟨id, fun _ => rfl, fun _ _ => ⟨rfl, rfl, endInj_idle _⟩⟩

/-- Under the lock a write of ERR_INJ_CTL stages no ALLOW (R8). -/
theorem Keeps.writeInj (s : State) (r : Requester) (t : Nat) (x : RegRef) (v : Nat) : Keeps s (s.writeInj r t x v) :=
  ⟨id, id, fun h hl => by
    obtain ⟨hallow, hstaged, hinj⟩ := h hl
    exact ⟨hallow, by simp [State.writeInj, show s.gate.locked = true from hl, hstaged], hinj⟩⟩

/-! ## Steps -/

/-- What a reset leaves: no byte of memory, the lock open, no injection allowed (R8, R513). -/
def Wiped (t : State) : Prop := t.mem = [] ∧ t.gate.locked = false ∧ t.gate.allow = false

/-- What every step does: it leaves nothing over, and keeps memory and the lock or is a reset. -/
structure Settles (s t : State) : Prop where
  clean : t.dev.Clean
  keeps : Keeps s t ∨ Wiped t

/-- The step of the invariant, from what every step does. -/
theorem Settles.inv {s t : State} (h : Settles s t) (hs : Inv s) :
    Inv t ∧ (s.gate.locked = true → t.gate.locked = true ∨ (t.mem = [] ∧ t.gate.locked = false ∧ t.gate.allow = false)) := by
  obtain ⟨⟨hwr, hused⟩, hk | ⟨hmem, hlocked, hallow⟩⟩ := h
  · exact ⟨⟨hk.mem hs.mem, hk.sealed hs.lock, hwr, hused⟩, fun hl => .inl (hk.locked hl)⟩
  · exact ⟨⟨by rw [hmem]; rfl, fun hl => by simp [hlocked] at hl, hwr, hused⟩, fun _ => .inr ⟨hmem, hlocked, hallow⟩⟩

theorem Settles.commit (s : State) (d : Dev) : Settles s (commit s d) := ⟨⟨rfl, rfl⟩, .inl (.commit s d)⟩

/-- Only the device changes, and it leaves nothing over. -/
theorem Settles.dev {s t : State} (h : t.dev.Clean) (hm : t.mem = s.mem) (hg : t.gate = s.gate) : Settles s t :=
  ⟨h, .inl (.of_same hm hg)⟩

theorem Settles.after {s t u : State} (h : Settles t u) (hk : Keeps s t) : Settles s u := ⟨h.clean, h.keeps.imp_left hk.trans⟩

theorem Settles.onSeq {s t : State} (h : Settles s t) (f : Seqs → Seqs) : Settles s { t with dev := t.dev.onSeq f } :=
  ⟨h.clean.congr rfl rfl, h.keeps.imp (fun k => ⟨k.mem, k.locked, k.sealed⟩) id⟩

theorem Settles.refl {s : State} (h : s.dev.Clean) : Settles s s := .dev h rfl rfl

theorem Settles.ite {p : Prop} [Decidable p] {s t u : State} (ht : Settles s t) (hu : Settles s u) :
    Settles s (if p then t else u) := by
  split <;> assumption

/-! ### Resets, the supply and the pins -/

/-- A module reset that needs no pin, whatever came before it in the step (R513). -/
theorem Settles.restart (s u : State) (cause : Nat) : Settles s (u.restart cause) :=
  ⟨Dev.Clean.startFunctions ⟨rfl, rfl⟩, .inr ⟨rfl, rfl, rfl⟩⟩

theorem Settles.reborn (s u : State) (cause : Nat) (held : Bool) : Settles s (u.reborn cause held) :=
  ⟨⟨rfl, rfl⟩, .inr ⟨rfl, rfl, rfl⟩⟩

theorem Settles.modReset {s : State} (h : s.dev.Clean) (r : Requester) : Settles s (modReset r s) := by
  unfold Machine.modReset
  split
  · exact .refl h
  · exact .restart s s 3

/-- THERMAL_RESTART puts the trip fields back into the chip after a module reset (R479). -/
theorem Settles.thermalRestart {s : State} (h : s.dev.Clean) : Settles s (thermalRestart s) := by
  unfold Machine.thermalRestart
  extract_lets t
  split
  · exact .ite (.refl h) ⟨(Settles.restart s _ 4).clean.congr rfl rfl, .inr ⟨rfl, rfl, rfl⟩⟩
  · exact .refl h

theorem Settles.onPins {s : State} (h : s.dev.Clean) (f : Pins → Pins) : Settles s (s.onPins f) := .dev (h.congr rfl rfl) rfl rfl

/-- A module that powers up lost its memory with the supply (R20, R27). -/
theorem Settles.powerUp (s : State) (straps : Nat) (perstN modResetN : Bool) : Settles s (s.powerUp straps perstN modResetN) := by
  unfold State.powerUp
  extract_lets pins s₁ s₂
  exact .ite (.reborn s _ _ _) ⟨Dev.Clean.startFunctions ⟨rfl, rfl⟩, .inr ⟨rfl, rfl, rfl⟩⟩

theorem Settles.inputTurnOff {s : State} (h : s.dev.Clean) (e : TurnOff) : Settles s (inputTurnOff e s) := by
  unfold Machine.inputTurnOff
  exact .ite (.ite (.onPins h _) (.refl h)) ⟨⟨rfl, rfl⟩, .inr ⟨rfl, rfl, rfl⟩⟩

theorem Settles.moduleReset {s : State} (h : s.dev.Clean) (pin : Nat) : Settles s (moduleReset pin s) :=
  .ite (.onPins h _) (.reborn s _ _ true)

/-- Releasing the reset pins starts the functions and touches neither memory nor the lock (R26, R506). -/
theorem Settles.moduleResetRelease {s : State} (h : s.dev.Clean) : Settles s (moduleResetRelease s) := by
  have hp := Settles.onPins h fun p => { p with perstN := true, modResetN := true }
  exact .ite hp ⟨hp.clean.startFunctions, .inl ⟨id, id, id⟩⟩

/-! ### Writes of registers -/

/-- A write of GLB_CTL: the lock, then M's warm reset, then module reset (R529). -/
theorem Settles.writeGlb {s : State} (h : s.dev.Clean) (r : Requester) (v : Nat) : Settles s (s.writeGlb r v) := by
  unfold State.writeGlb
  extract_lets s₁ s₂
  have hl : Keeps s s₁ ∧ s₁.dev.Clean := by
    unfold s₁
    split
    · exact ⟨.lock s, .flagIf h⟩
    · exact ⟨.refl s, h⟩
  exact .ite (.restart s s₂ 3) (.after (.ite (.commit s₁ _) (.refl hl.2)) hl.1)

theorem Settles.regWrite {s : State} (h : s.dev.Clean) (r : Requester) (t a v : Nat) : Settles s (s.regWrite r t a v) := by
  unfold State.regWrite
  extract_lets v'
  split
  · exact .ite (.refl h) (.commit s _)
  · refine .ite (.writeGlb h r v') (.ite ?_ (.ite (.ite (.commit s _) (.refl h)) (.commit s _)))
    have hd (k m : Nat) : (s.dev.stage r t k m v').Clean := h.congr rfl rfl
    exact ⟨.ite ((hd _ _).log _) (hd _ _), .inl (.writeInj s _ _ _ _)⟩

theorem Settles.writeOneReg {s : State} (h : s.dev.Clean) (via : Requester) (tag t a v : Nat) :
    Settles s (writeOneReg via tag t a v s) := by
  have ha : (s.dev.answer tag vsOk).Clean := h.congr rfl rfl
  have hr := Settles.regWrite (s := { s with dev := s.dev.answer tag vsOk }) ha via t a (if a = 0x4 then v % 4 else v)
  exact .ite (hr.after (.of_same rfl rfl)) (.commit s _)

/-- A command body is committed, but for WRITE_REG (R544). -/
theorem Settles.commandBody {s : State} (h : s.dev.Clean) (via : Requester) (t : Nat) (flashOk : Bool) (body : List Byte) :
    Settles s (commandBody via t flashOk body s) := by
  unfold Machine.commandBody
  extract_lets cmd tag p g d malformed sized
  have hm : Settles s malformed := .commit s _
  have hz (n : Nat) (k : Dev → Dev) : Settles s (sized n k) := .ite (.commit s _) hm
  refine .ite hm ?_
  clear_value cmd
  split
  case h_2 | h_6 => exact .ite (hz _ _) hm
  case h_3 => exact .ite (.writeOneReg h _ _ _ _ _) (hz 8 id)
  case h_10 | h_11 => exact .commit s _
  case h_12 => exact hm
  all_goals exact hz _ _

theorem Settles.doeObject {s : State} (h : s.dev.Clean) (vid type t : Nat) (flashOk : Bool) (body : List Byte) :
    Settles s (doeObject vid type t flashOk body s) :=
  .ite (.refl h) (.ite (.commit s _) (.ite (.commandBody h _ _ _ _) (.refl h)))

/-! ### The threshold -/

/-- The frame that begins: what settings do is committed, then the injection acts, and the rest is committed (R56, R443). -/
theorem Settles.begin (s : State) (was : Chip) (m t : Nat) (f : Facts) : Settles s (s.begin was m t f) := by
  unfold State.begin
  extract_lets d s₁ s₂ moved r f' d'
  exact .after (.commit s₂ _) ((Keeps.commit s _).trans (.injThreshold s₁ m))

/-- The frame that begins after lost frames (R524, R525). -/
theorem Settles.resume (s : State) (d : Dev) (was : Chip) (m t : Nat) (f : Facts) :
    Settles s (((Machine.commit s d).postponeInj m).begin was m t f) :=
  .after (.begin _ was m t f) ((Keeps.commit s d).trans (.postponeInj _ m))

/-- The frame that begins after one that ended and was published (R54). -/
theorem Settles.advance (s : State) (d e : Dev) (was : Chip) (m t : Nat) (f : Facts) :
    Settles s ((Machine.commit (Machine.commit s d) e).begin was m t f) :=
  .after (.begin _ was m t f) ((Keeps.commit s d).trans (.commit _ e))

theorem Settles.threshold (s : State) (f : Facts) : Settles s (threshold f s) := by
  unfold Machine.threshold
  extract_lets c m t
  refine .ite (.ite (.begin s c 0 t f) (.commit s _)) (.ite (.commit s _) ?_)
  split
  · exact .ite (.resume s _ c m t f) (.commit s _)
  · exact .ite (.commit s _) (.ite (.resume s _ c m t f) (.ite (.onSeq (.advance s _ _ c m t f) _) (.advance s _ _ c m t f)))

/-! ### Commands -/

/-- The commands whose effect is not on the device alone: the supply, the reset pins, module resets, thresholds, writes of registers and
of the injection unit. -/
def beyondDevice : Instr → Bool
  | .powerOn .. | .overVoltageTurnOn .. | .inputTurnOff .. | .railOutOfRegulation | .moduleReset .. | .moduleResetRelease
  | .modReset .. | .thermalRestart | .threshold .. | .registerWrite .. | .configLock .. | .writeReg .. | .doeObject ..
  | .injArm .. | .injDisarm .. => true
  | _ => false

/-- A write that M's warm reset drops is an effect on the device. -/
theorem runsM_eq_runs (s : State) (k : Dev → Dev) : ∃ k', runsM s k = runs s k' := ⟨_, rfl⟩

/-- Every other command runs an effect on the device. -/
theorem exec_eq_runs {i : Instr} (h : beyondDevice i = false) (s : State) : ∃ k, exec i s = runs s k := by
  cases i
  case powerOn | overVoltageTurnOn | inputTurnOff | railOutOfRegulation | moduleReset | moduleResetRelease | modReset | thermalRestart
    | threshold | registerWrite | configLock | writeReg | doeObject | injArm | injDisarm => cases h
  all_goals dsimp only [exec]
  case snapTrigger | queueConfigWrite | loadStart | abort | imageRetry | porchDieReset | logConsume | capWrite | staggerWrite | jobMark
    | forget | quadReset | towerReset | stackReset => exact runsM_eq_runs s _
  all_goals exact ⟨_, rfl⟩

theorem Settles.runs {s : State} (h : s.dev.Clean) (k : Dev → Dev) : ∃ t, runs s k = .next t ∧ Settles s t := by
  unfold Machine.runs
  split
  · exact ⟨_, rfl, .commit s _⟩
  · exact ⟨_, rfl, .refl h⟩

/-- A command at the level of the whole state, on a module that acts or not. -/
theorem Settles.of_active {s : State} (h : s.dev.Clean) {p : Prop} [Decidable p] {k : State → State}
    (hk : ∀ u : State, u.dev.Clean → Settles u (k u)) : Settles s (if p then k { s with dev := { s.dev with out := [] } } else s) := by
  have ho : ({ s with dev := { s.dev with out := [] } } : State).dev.Clean := h.congr rfl rfl
  exact .ite (.after (hk _ ho) (.of_same rfl rfl)) (.refl h)

theorem Settles.injWrite {s : State} (h : s.dev.Clean) (r : Requester) (t : Nat) (arm : Bool) :
    ∃ u, injWrite r t arm s = .next u ∧ Settles s u := by
  unfold Machine.injWrite
  split
  · exact ⟨_, rfl, h.congr rfl rfl, .inl ⟨id, id, id⟩⟩
  · exact ⟨_, rfl, .refl h⟩

/-- Every command has a next state, and settles. -/
theorem exec_settles {s : State} (h : s.dev.Clean) (i : Instr) : ∃ t, exec i s = .next t ∧ Settles s t := by
  by_cases hb : beyondDevice i = false
  · obtain ⟨k, hk⟩ := exec_eq_runs hb s
    rw [hk]
    exact Settles.runs h k
  · cases i
    case powerOn => exact ⟨_, rfl, .ite (.refl h) (.powerUp s _ _ _)⟩
    case overVoltageTurnOn => exact ⟨_, rfl, .ite (.refl h) (.powerUp s _ _ _)⟩
    case inputTurnOff e => exact ⟨_, rfl, .inputTurnOff h e⟩
    case railOutOfRegulation => exact ⟨_, rfl, .ite (.onPins h _) (.refl h)⟩
    case moduleReset pin => exact ⟨_, rfl, .moduleReset h pin⟩
    case moduleResetRelease => exact ⟨_, rfl, .moduleResetRelease h⟩
    case modReset r => exact ⟨_, rfl, .ite (.modReset h r) (.refl h)⟩
    case thermalRestart => exact ⟨_, rfl, .ite (.thermalRestart h) (.refl h)⟩
    case threshold f =>
      show ∃ t, execThreshold f s = .next t ∧ Settles s t
      unfold execThreshold
      split
      · exact ⟨_, rfl, .dev (.ite (h.onChip _) h) rfl rfl⟩
      · exact ⟨_, rfl, .of_active h fun u _ => .threshold u f⟩
    case registerWrite r t a v => exact ⟨_, rfl, .of_active h fun u hu => .regWrite hu r t a v⟩
    case configLock => exact ⟨_, rfl, .of_active h fun u hu => ⟨.flagIf hu, .inl (.lock u)⟩⟩
    case writeReg via tag t a v => exact ⟨_, rfl, .of_active h fun u hu => .writeOneReg hu via tag t a v⟩
    case doeObject vid type t ok body => exact ⟨_, rfl, .of_active h fun u hu => .doeObject hu vid type t ok body⟩
    case injArm r t => exact Settles.injWrite h r t true
    case injDisarm r t => exact Settles.injWrite h r t false
    all_goals exact absurd rfl hb

/-- A step settles: with no command waiting the state stays, else it is what the front command leaves (log 6). -/
theorem step_settles {s t : State} (h : s.dev.Clean) (hst : step s = .next t) : Settles s t := by
  unfold step at hst
  split at hst
  · cases hst
    exact .refl h
  · next c cs _ =>
    obtain ⟨u, hu, hs⟩ := exec_settles (s := { s with pending := cs }) h c
    cases hu.symm.trans hst
    exact hs.after (.of_same rfl rfl)

end Sys2Proof.Machine

namespace Sys2Proof.Claims

open Sys2Proof.Machine

/-- Settles O60: every step leaves nothing over, and keeps memory and the lock or is a reset that loses every byte (R8, R20, R443, R513). -/
theorem invariantKept : Obligations.InvariantKept := by
  unfold Obligations.InvariantKept
  intro s t hs hst
  exact (step_settles ⟨hs.wr, hs.used⟩ hst).inv hs

end Sys2Proof.Claims
end

section
/-! PROOF. The state after module reset (R10, R50, R177, R273, R506, R513). -/

namespace Sys2Proof.Machine

/-- The address in a register's key, below the selected element or the requester. -/
theorem regKey_mod (a sel : Nat) : regKey a sel % 2 ^ 26 = a % 2 ^ 26 := by
  unfold regKey
  exact Nat.mul_add_mod_self_right sel (2 ^ 26) a

/-- The reset value of a register depends on the address in its key alone (R10). -/
theorem resetWord_congr {k l : Nat} (h : k % 2 ^ 26 = l % 2 ^ 26) : resetWord k = resetWord l := by
  unfold resetWord
  rw [h]

/-- Where no register has been written, each reads its reset value. -/
theorem Chip.reg_of_regs_nil {c : Chip} (h : c.regs = []) (k : Nat) : c.reg k = resetWord k := by
  simp [Chip.reg, h, Tab.find]

/-- No queue is enabled then: the reset value of QUE_Q_CFG has EN 0. -/
theorem Chip.queueOn_of_regs_nil {c : Chip} (h : c.regs = []) (q : Nat) : c.queueOn q = false := by
  unfold Chip.queueOn Chip.fld
  rw [Chip.reg_of_regs_nil h, resetWord_congr (regKey_mod _ q)]
  decide

end Sys2Proof.Machine

namespace Sys2Proof.Claims

open Sys2Proof.Machine

/-- Settles O58: the reset state lists no register, byte, room, block, port or page, so each reads as its reset value
(R10, R177, R273, R506). -/
theorem resetState : Obligations.ResetState := by
  unfold Obligations.ResetState
  refine ⟨⟨rfl, nofun, rfl, rfl⟩, rfl, rfl, rfl, rfl, rfl, Chip.reg_of_regs_nil rfl, fun _ => rfl, rfl, fun _ => ⟨rfl, rfl⟩, fun _ => rfl, fun _ => rfl,
    ?_, fun _ _ => rfl, rfl, rfl, rfl⟩
  exact Chip.queueOn_of_regs_nil rfl

end Sys2Proof.Claims
end

section
/-! PROOF. Reads of registers (R4, R9, R55, R559, R563). -/

namespace Sys2Proof.Machine

open Host

/-- Reading an entry after a leaving-out: what is left out reads as the default. -/
theorem Tab.get_keep {α : Type} (d : α) (t : Tab α) (p : Nat → Bool) (k : Nat) :
    Tab.get d (Tab.keep t p) k = if p k = true then Tab.get d t k else d := by
  unfold Tab.get
  rw [Tab.find_keep]
  split <;> rfl

/-- An effect that leaves nothing over is the next state as it stands. -/
theorem runs_of_clean {s : State} (h : s.active = true) {k : Dev → Dev} {e : Dev} (hk : k { s.dev with out := [] } = e) (he : e.Clean) :
    runs s k = .next { s with dev := e } := by
  subst hk
  exact runs_plain h k he.1 he.2

theorem exec_rcRead (r : Requester) (a be : Nat) (s : State) : exec (.rcRead r a be) s = runs s fun d => d.regRead s.gate r a be := rfl

theorem exec_watermarkRead (r : Requester) (a be : Nat) (s : State) :
    exec (.watermarkRead r a be) s = runs s fun d => d.regRead s.gate r a be := rfl

theorem exec_pairLowRead (r : Requester) (a : Nat) (wide : Bool) (s : State) :
    exec (.pairLowRead r a wide) s = runs s (pairLowRead r a wide s) := rfl

/-! ## Latched words -/

/-- No word of a pair is latched for the requester at an address. -/
def Dev.Unlatched (d : Dev) (r : Requester) (a : Nat) : Prop := ∀ p ∈ d.pairs, ¬ (p.1 = r.code ∧ p.2.1 = a)

section
variable {d : Dev} {g : Gate} {r : Requester} {a be : Nat} {x : RegRef}

theorem Dev.Unlatched.find? (h : d.Unlatched r a) : d.pairs.find? (fun p => p.1 = r.code && p.2.1 = a) = none := by
  simpa [Dev.Unlatched] using h

theorem Dev.Unlatched.any (h : d.Unlatched r a) : d.pairs.any (fun p => p.1 = r.code && p.2.1 = a) = false := by
  simpa [Dev.Unlatched] using h

theorem Dev.Unlatched.filter (h : d.Unlatched r a) : d.pairs.filter (fun p => !(p.1 = r.code && p.2.1 = a)) = d.pairs := by
  rw [List.filter_eq_self]
  intro p hp
  simpa only [Bool.not_eq_true', Bool.and_eq_false_iff, decide_eq_false_iff_not, not_and_or] using h p hp

/-! ## What a read returns and what it does -/

/-- A register that nothing cuts off and no latch stands for reads as its word (R3). -/
theorem Dev.readWord_eq_word (hc : d.chip.cutOff a = false) (hx : d.readable r a = some x) (hp : d.Unlatched r a) :
    d.readWord g r a = d.word g r x := by
  simp [Dev.readWord, hc, hx, hp.find?]

/-- A latched word is what a read of its address returns (R4). -/
theorem Dev.readWord_latched {l : List (Nat × Nat × Nat)} {v : Nat} (hc : d.chip.cutOff a = false) (hl : d.pairs = l ++ [(r.code, a, v)])
    (hp : ∀ p ∈ l, ¬ (p.1 = r.code ∧ p.2.1 = a)) : d.readWord g r a = v := by
  have hf : d.pairs.find? (fun p => p.1 = r.code && p.2.1 = a) = some (r.code, a, v) := by
    rw [hl, List.find?_append, List.find?_eq_none.mpr (by simpa using hp)]
    simp
  simp [Dev.readWord, hc, hf]

/-- A full read clears the clear-on-read fields (R9). -/
theorem Dev.afterRead_single (hc : d.chip.cutOff a = false) (hx : d.readable r a = some x) (hp : d.Unlatched r a)
    (hk : keepsRc r x = false) (hs : x.row.pair = false) : d.afterRead g r a = d.clearRc x := by
  simp [Dev.afterRead, hc, hx, hp.any, hk, hs]

/-- A read of the low word of a pair latches the high word, behind the words that are latched (R4). -/
theorem Dev.afterRead_pair (hc : d.chip.cutOff a = false) (hx : d.readable r a = some x) (hp : d.Unlatched r a)
    (hrc : x.row.rc = 0) (hs : x.row.pair = true) (hq : d.Unlatched r (a + 4)) :
    d.afterRead g r a = { d with pairs := d.pairs ++ [(r.code, a + 4, d.readWord g r (a + 4))] } := by
  have hrest := hq.filter
  simp only [Dev.afterRead, hc, hx, hp.any, Dev.clearRc, hrc, hs, hrest, ite_self, if_true, Bool.false_eq_true, if_false]

/-- A full read answers the word and does what a read does, but for FRM_VIEW_LO, which pins a view (R57). -/
theorem Dev.regRead_full (hb : be % 16 = 15) (ha : a ≠ F.FRM_VIEW_LO.addr) :
    d.regRead g r a be = (d.afterRead g r a).emit (.value (d.readWord g r a)) := by
  simp [Dev.regRead, hb, ha]

/-- A read of a part of a register does nothing but answer (R559). -/
theorem Dev.regRead_part (hb : be % 16 ≠ 15) : d.regRead g r a be = d.emit (.value (d.readWord g r a &&& enableMask be)) := by
  simp [Dev.regRead, hb]

/-- A 64-bit read of a pair of which nothing is latched does nothing but answer (R4, R559). -/
theorem Dev.pairRead_unlatched (hq : d.Unlatched r (a + 4)) (ha : a ≠ F.FRM_VIEW_LO.addr) :
    d.pairRead g r a = d.emit (.value (d.readWord g r a + d.readWord g r (a + 4) * 2 ^ 32)) := by
  have hrest := hq.filter
  simp only [Dev.pairRead, ha, hrest, false_and, if_false]

/-! ## Clear-on-read fields -/

/-- Clearing counts changes the published counts alone. -/
theorem Dev.clearRc_counts (h : isWatermark x.row = false) : ∃ l, d.clearRc x = { d with pubCnt := l } := by
  unfold Dev.clearRc
  rw [h]
  split <;> exact ⟨_, rfl⟩

/-- The counts of other registers stay (R9). -/
theorem Dev.pubCnt_clearRc (h : isWatermark x.row = false) {k : Nat} (hk : k / 32 ≠ x.key) :
    Tab.get {} (d.clearRc x).pubCnt k = Tab.get {} d.pubCnt k := by
  unfold Dev.clearRc
  rw [h]
  split
  · rfl
  · simp [Tab.get_keep, hk]

/-- No count is left in the register's clear-on-read fields (R9). -/
theorem Dev.rcPart_clearRc (h : isWatermark x.row = false) : (d.clearRc x).rcPart x &&& x.row.rc = 0 := by
  by_cases hrc : x.row.rc = 0
  · simp [hrc]
  · have hz (lo : Nat) (hlo : lo ∈ List.range 32) : Tab.get {} (d.clearRc x).pubCnt (x.key * 32 + lo) = {} := by
      have hdiv : (x.key * 32 + lo) / 32 = x.key := by
        have := List.mem_range.mp hlo
        omega
      simp [Dev.clearRc, hrc, h, Tab.get_keep, hdiv]
    have hsum : (d.clearRc x).rcPart x = 0 := by
      simp only [Dev.rcPart, h, Bool.false_eq_true, if_false]
      exact List.foldlRecOn (motive := (· = 0)) _ _ rfl fun n hn lo hlo => by simp [hn, hz lo hlo]
    simp [hsum]

/-- A watermark restarts: its extremum over committed frames alone is dropped (R563). -/
theorem Dev.clearRc_watermark (h : isWatermark x.row = true) (hrc : x.row.rc ≠ 0) :
    d.clearRc x = { d with wm := Tab.upd {} d.wm x.key fun w => { w with acc := none } } := by
  simp [Dev.clearRc, h, hrc]

end

end Sys2Proof.Machine

namespace Sys2Proof.Claims

open Sys2Proof.Machine

/-- Settles O23: each kind of read is its case of what a read returns and does. -/
theorem registerReads : Obligations.RegisterReads := by
  unfold Obligations.RegisterReads
  intro s r a be x ⟨hi, hact⟩ hc hx hp ha w
  let d : Dev := { s.dev with out := [] }
  have hd : d.Clean := ⟨hi.wr, hi.used⟩
  replace hc : d.chip.cutOff a = false := hc
  replace hx : d.readable r a = some x := hx
  replace hp : d.Unlatched r a := hp
  have hw : d.readWord s.gate r a = w := Dev.readWord_eq_word hc hx hp
  have hfull (hb : be % 16 = 15) (hk : keepsRc r x = false) (hs : x.row.pair = false) :
      d.regRead s.gate r a be = (d.clearRc x).emit (.value w) := by
    rw [Dev.regRead_full hb ha, Dev.afterRead_single hc hx hp hk hs, hw]
  refine ⟨fun hb hk hs hm => ?_, fun hb hk hs hrc hm => ?_, fun hrc hs hq => ?_, fun hs hq => ?_, fun hb => ?_⟩
  · obtain ⟨l, hl⟩ := Dev.clearRc_counts (d := d) hm
    have he := hfull hb hk hs
    have hzero := Dev.rcPart_clearRc (d := d) hm
    have hkeep (k : Nat) (hk : k / 32 ≠ x.key) := Dev.pubCnt_clearRc (d := d) hm hk
    simp only [hl] at he hzero hkeep
    exact ⟨_, (exec_rcRead r a be s).trans (runs_of_clean hact he (hd.congr rfl rfl)), rfl, hzero, hkeep, rfl⟩
  · have he := hfull hb hk hs
    rw [Dev.clearRc_watermark hm hrc] at he
    refine ⟨_, (exec_watermarkRead r a be s).trans (runs_of_clean hact he (hd.congr rfl rfl)), rfl, ?_, ?_, fun k hk => ?_, rfl⟩
    · simp [Tab.get_upd]
    · simp [Tab.get_upd, d]
    · simp [Tab.get_upd, hk, d]
  · replace hq : d.Unlatched r (a + 4) := hq
    have he : d.regRead s.gate r a 15 =
        ({ d with pairs := d.pairs ++ [(r.code, a + 4, d.readWord s.gate r (a + 4))] } : Dev).emit (.value w) := by
      rw [Dev.regRead_full rfl ha, Dev.afterRead_pair hc hx hp hrc hs hq, hw]
    refine ⟨_, (exec_pairLowRead r a false s).trans (runs_of_clean hact he (hd.congr rfl rfl)), rfl, rfl, fun p hpr => ?_, fun u hu hcu => ?_⟩
    · have hne : p ≠ (r.code, a + 4, d.readWord s.gate r (a + 4)) := fun h => hpr (congrArg Prod.fst h)
      exact (List.mem_append.trans (or_iff_left (by simpa using hne)))
    · exact Dev.readWord_latched hcu hu hq
  · replace hq : d.Unlatched r (a + 4) := hq
    have he : pairLowRead r a true s d = d.emit (.value (w + d.readWord s.gate r (a + 4) * 2 ^ 32)) := by
      simp only [pairLowRead, hs, if_true]
      rw [Dev.pairRead_unlatched hq ha, hw]
    exact ⟨_, (exec_pairLowRead r a true s).trans (runs_of_clean hact he (hd.congr rfl rfl)), rfl⟩
  · have he : d.regRead s.gate r a be = d.emit (.value (w &&& enableMask be)) := by rw [Dev.regRead_part hb, hw]
    exact ⟨_, (exec_rcRead r a be s).trans (runs_of_clean hact he (hd.congr rfl rfl)), rfl⟩

end Sys2Proof.Claims
end

section
/-! PROOF. Writes of registers (R7, R8, R46, R56): bits that a staged write replaces, where a write goes, and the lock. -/

namespace Sys2Proof.Machine

open Host

/-! ## Bits that a write replaces -/

/-- Numbers without a common bit add as they join. -/
theorem add_eq_or_of_and_eq_zero {a b : Nat} (h : a &&& b = 0) : a + b = a ||| b := by
  obtain ⟨n, hn⟩ : ∃ n, a + b < 2 ^ n := ⟨a + b, Nat.lt_two_pow_self⟩
  have ha : a < 2 ^ n := by omega
  have hb : b < 2 ^ n := by omega
  have hbv : BitVec.ofNat n a &&& BitVec.ofNat n b = 0#n := by rw [← BitVec.ofNat_and, h]
  have hsum := congrArg BitVec.toNat (BitVec.add_eq_or_of_and_eq_zero _ _ hbv)
  rw [BitVec.toNat_add, BitVec.toNat_or] at hsum
  simpa [Nat.mod_eq_of_lt, ha, hb, hn] using hsum

/-- Taking out the bits of a mask by subtraction. -/
theorem sub_and_eq_xor (n m : Nat) : n - (n &&& m) = n ^^^ (n &&& m) := by
  have hdis : (n ^^^ (n &&& m)) &&& (n &&& m) = 0 := by
    apply Nat.eq_of_testBit_eq
    intro b
    cases hn : n.testBit b <;> simp [hn]
  have hor : (n ^^^ (n &&& m)) ||| (n &&& m) = n := by
    apply Nat.eq_of_testBit_eq
    intro b
    cases hn : n.testBit b <;> simp [hn]
  have hsum := add_eq_or_of_and_eq_zero hdis
  omega

/-- The bits under a mask after they were replaced are those of the value. -/
theorem testBit_replaced (n v : Nat) {m b : Nat} (hb : m.testBit b = true) : (n - (n &&& m) + (v &&& m)).testBit b = v.testBit b := by
  have hdis : (n ^^^ (n &&& m)) &&& (v &&& m) = 0 := by
    apply Nat.eq_of_testBit_eq
    intro j
    cases hm : m.testBit j <;> simp [hm]
  rw [sub_and_eq_xor, add_eq_or_of_and_eq_zero hdis]
  simp [hb]

/-- An RW bit reads back as the write that was staged last (R7, R56). -/
theorem Dev.stagedReg_stage (d : Dev) (r : Requester) (t k m v : Nat) {b : Nat} (hb : m.testBit b = true) :
    ((d.stage r t k m v).stagedReg k).testBit b = v.testBit b := by
  unfold Dev.stagedReg
  rw [Dev.stage_staged, List.filter_append, List.foldl_append]
  simp only [List.filter_cons, List.filter_nil, decide_true, if_true, List.foldl_cons, List.foldl_nil]
  exact testBit_replaced _ v hb

/-! ## Where a write goes -/

theorem exec_registerWrite (r : Requester) (t a v : Nat) (s : State) : exec (.registerWrite r t a v) s =
    .next (if s.active then ({ s with dev := { s.dev with out := [] } } : State).regWrite r t a v else s) := rfl

theorem exec_w1cWrite (r : Requester) (t a v : Nat) (s : State) : exec (.w1cWrite r t a v) s = runs s (w1cWrite r t a v) := rfl

theorem exec_periodWrite (r : Requester) (t len : Nat) (s : State) : exec (.periodWrite r t len) s = runs s (periodWrite r t len) := rfl

theorem exec_configLock (r : Requester) (s : State) : exec (.configLock r) s =
    .next (if s.active ∧ isPf r ∧ (s.dev.writable r 0x4).isSome then ({ s with dev := { s.dev with out := [] } } : State).lock else s) := rfl

/-- An effect that leaves nothing over is committed as it stands. -/
theorem commit_of_clean (s : State) {d : Dev} (h : d.Clean) : commit s d = { s with dev := d } := by
  obtain ⟨hw, hu⟩ := h
  unfold commit
  simp only [hu, hw, Inj.use_zero, ne_eq, not_true, if_false, Mem.apply_nil]
  cases d
  simp_all

/-- The row of a register that a write reaches is the row at its address. -/
theorem Dev.row_of_writable {d : Dev} {r : Requester} {a : Nat} {x : RegRef} (h : d.writable r a = some x) :
    (regAt a).map Prod.fst = some x.row := by
  unfold Dev.writable at h
  split at h
  · cases h
  · obtain ⟨y, hy, hx⟩ := Option.bind_eq_some_iff.mp h
    have hyx : y = x := by
      split at hx
      · exact Option.some.inj hx
      · split at hx <;> simp_all
      · split at hx <;> simp_all
    obtain ⟨z, hz, rfl⟩ := Option.map_eq_some_iff.mp hy
    rw [hz, ← hyx]
    rfl

/-- Outside M's warm reset and recovery mode the PF's writes reach every register (R515, R548). -/
theorem Dev.writable_pf {d : Dev} (hw : d.chip.boot.warm = false) (hr : d.chip.boot.recovery = false) (a : Nat) :
    (d.writable .pf a).isSome = (regAt a).isSome := by
  simp [Dev.writable, Chip.cutOff, Chip.regRef, hw, hr]

end Sys2Proof.Machine

namespace Sys2Proof.Claims

open Sys2Proof.Machine

/-- A register without rules of its own has none of the addresses that have them. -/
theorem plainReg_iff (x : RegRef) : plainReg x = true ↔
    x.row.addr ∉ [0x4, 0x20600, 0x10018, 0x40000, 0x40008, 0x40030, 0x30000, 0x60004, 0x20014, 0xA00004, 0xD00000, 0x200330, 0x200334, 0x200340,
      0x801104, 0x801108, 0x200380] ∧ x.row.sel ≠ .queue ∧ x.row.now = false := by
  unfold plainReg
  simp only [Bool.and_eq_true, Bool.not_eq_true', List.contains_eq_mem, decide_eq_false_iff_not, decide_eq_true_eq, and_assoc]

/-- A write of a plain register goes to its staged bits. -/
theorem regWrite_plain {s : State} {r : Requester} {t a v : Nat} {x : RegRef} (hx : s.dev.writable r a = some x) (hp : plainReg x = true)
    (hv : v < 2 ^ 32) (hm : s.dev.rwMask r x.row.addr v x.row.rw + (v &&& (x.row.w1c ||| x.row.w1s)) ≠ 0) :
    s.regWrite r t a v =
      commit s (s.dev.stage r t x.key (s.dev.rwMask r x.row.addr v x.row.rw + (v &&& (x.row.w1c ||| x.row.w1s))) v) := by
  obtain ⟨haddr, hsel, hnow⟩ := (plainReg_iff x).mp hp
  simp only [List.mem_cons, not_or] at haddr
  simp only [State.regWrite, Nat.mod_eq_of_lt hv, hx, Dev.writeReg, haddr, hsel, hnow, hm, false_and, false_or, if_false, Bool.false_eq_true]

/-- A period in range is staged as it is written (R46). -/
theorem periodWrite_inRange (d : Dev) (t : Nat) {v : Nat} (hlo : 8 ≤ v) (hhi : v ≤ 128) : periodWrite .pf t v d =
    { d with staged := d.staged ++ [⟨F.FRM_PERIOD_LEN.key, F.FRM_PERIOD_LEN.mask, v, d.chip.dueFrame t, .pf⟩] } := by
  have hval : v % 2 ^ 8 * 2 ^ 0 &&& F.FRM_PERIOD_LEN.mask = v := by
    show v % 2 ^ 8 * 2 ^ 0 &&& (2 ^ 8 - 1) = v
    rw [Nat.and_two_pow_sub_one_eq_mod]
    omega
  have hin : ¬ (v < 8 ∨ 128 < v) := by omega
  simp only [periodWrite, isPf, hin, decide_true, Bool.not_true, Bool.false_eq_true, if_false, Dev.stageFld, Dev.stage]
  rw [show F.FRM_PERIOD_LEN.w = 8 from rfl, show F.FRM_PERIOD_LEN.lo = 0 from rfl, hval]

/-- The threshold that a write is staged for, in numbers of frames (R44, R56). -/
theorem dueFrame_eq (c : Chip) (t : Nat) : c.dueFrame t =
    if c.frm.begun = false then 0 else if t + 128 ≤ c.frameNs then (c.frm.cur + 1) % 2 ^ 48 else (c.frm.cur + 2) % 2 ^ 48 := by
  have hnext : nextFrame (nextFrame c.frm.cur) = (c.frm.cur + 2) % 2 ^ 48 := by
    show ((c.frm.cur + 1) % 2 ^ 48 + 1) % 2 ^ 48 = _
    rw [Nat.mod_add_mod]
  unfold Chip.dueFrame
  cases c.frm.begun
  · rfl
  · simp only [hnext]
    rfl

end Sys2Proof.Claims

namespace Sys2Proof.Machine

/-! ## The error log and its snapshot trigger -/

/-- A trigger leaves the error events as they are. -/
@[simp] theorem Dev.fire_integ (d : Dev) (src cls : Nat) : (d.fire src cls).chip.integ = d.chip.integ := by
  unfold Dev.fire
  split
  · rfl
  · split <;> rfl

@[simp] theorem Dev.fire_regs (d : Dev) (src cls : Nat) : (d.fire src cls).chip.regs = d.chip.regs := by
  unfold Dev.fire
  split
  · rfl
  · split <;> rfl

@[simp] theorem Dev.fire_staged (d : Dev) (src cls : Nat) : (d.fire src cls).staged = d.staged := by
  unfold Dev.fire
  split
  · rfl
  · split <;> rfl

@[simp] theorem Dev.log_regs (d : Dev) (e : LogEv) : (d.log e).chip.regs = d.chip.regs := by
  unfold Dev.log
  split
  · rfl
  · extract_lets e' d'
    split <;> simp [d']

@[simp] theorem Dev.log_staged (d : Dev) (e : LogEv) : (d.log e).staged = d.staged := by
  unfold Dev.log
  split
  · rfl
  · extract_lets e' d'
    split <;> simp [d']

/-- Outside M's warm reset an event joins those of the running frame (R441). -/
theorem Dev.log_events {d : Dev} (hw : d.chip.boot.warm = false) (e : LogEv) :
    (d.log e).chip.integ.events = addEvent { e with frame := d.chip.frm.cur } d.chip.integ.events := by
  unfold Dev.log
  rw [if_neg (by simp [hw])]
  extract_lets e' d'
  split <;> simp [d', e']

end Sys2Proof.Machine

namespace Sys2Proof.Claims

open Sys2Proof.Machine

/-- CONFIG_LOCK by the PF outside M's warm reset and recovery mode is the lock (R8, R515, R548). -/
theorem exec_configLock_pf {s : State} (h : s.active = true) (hw : s.dev.chip.boot.warm = false) (hr : s.dev.chip.boot.recovery = false) :
    exec (.configLock .pf) s = .next ({ s with dev := { s.dev with out := [] } } : State).lock := by
  have hreach : (s.dev.writable .pf 0x4).isSome = true := by
    rw [Dev.writable_pf hw hr]
    decide
  rw [exec_configLock, if_pos ⟨h, rfl, hreach⟩]

/-- After the lock a write that would change ENROL_ALLOW is logged and nothing else (R7, R8). -/
theorem regWrite_enrol_locked {s : State} {r : Requester} {t v : Nat} {x : RegRef} (hx : s.dev.writable r 0x10018 = some x)
    (hl : s.gate.locked = true) (hne : v % 2 ≠ s.dev.stagedReg x.key % 2) :
    s.regWrite r t 0x10018 v = commit s s.dev.lockViolation := by
  have haddr : x.row.addr = 0x10018 := by
    have hrow : (regAt 0x10018).map (fun y => y.1.addr) = some 0x10018 := by decide
    have := congrArg (Option.map RegRow.addr) (Dev.row_of_writable hx)
    rw [Option.map_map] at this
    exact Option.some.inj (this.symm.trans hrow)
  simp [State.regWrite, hx, haddr, hl, hne]

/-- Settles O24: each write is its case of where writes of registers go; the lock is CONFIG_LOCK's own. -/
theorem registerWrites : Obligations.RegisterWrites := by
  unfold Obligations.RegisterWrites
  intro s r t0 a v x ⟨hi, hact⟩
  let d : Dev := { s.dev with out := [] }
  have hd : d.Clean := ⟨hi.wr, hi.used⟩
  have hreg (r : Requester) (a : Nat) : exec (.registerWrite r t0 a v) s = .next (({ s with dev := d } : State).regWrite r t0 a v) := by
    rw [exec_registerWrite, if_pos hact]
  refine ⟨fun hx hp hv => ?_, fun hx hv => ?_, fun hlo hhi => ?_, fun hv => ?_, fun hw hr => ?_, fun hx hl hne _ => ?_,
    fun _ => dueFrame_eq _ _⟩
  · intro m hm
    have hcl : (d.stage r t0 x.key m v).Clean := hd.congr rfl rfl
    have he := (regWrite_plain (s := { s with dev := d }) (t := t0) hx hp hv hm).trans (commit_of_clean _ hcl)
    exact ⟨_, (hreg r a).trans (congrArg _ he), rfl, fun b hb => Dev.stagedReg_stage d r t0 x.key m v hb⟩
  · have he : w1cWrite r t0 a v d = d.stage r t0 x.key (v &&& x.row.w1c) v := by
      have hx' : d.writable r a = some x := hx
      simp [w1cWrite, hx', hv]
    refine ⟨_, (exec_w1cWrite r t0 a v s).trans (runs_of_clean hact he (hd.congr rfl rfl)), ?_⟩
    have hval : v &&& (v &&& x.row.w1c) = v &&& x.row.w1c := by rw [← Nat.and_assoc, Nat.and_self]
    rw [Dev.stage, hval]
  · exact ⟨_, (exec_periodWrite .pf t0 v s).trans (runs_of_clean hact (periodWrite_inRange d t0 hlo hhi) (hd.congr rfl rfl)), rfl, rfl⟩
  · have he : periodWrite .pf t0 v d = d.badWrite := by simp [periodWrite, isPf, hv]
    exact ⟨_, (exec_periodWrite .pf t0 v s).trans (runs_of_clean hact he (hd.congr rfl rfl)), rfl⟩
  · refine ⟨_, exec_configLock_pf hact hw hr, rfl, rfl, rfl, ?_, ?_, ?_, rfl, rfl⟩
    · show (endInj s.gate.inj).st = _
      unfold endInj
      split <;> rfl
    · show (if _ then Dev.flag d _ else d : Dev).chip = _
      split <;> rfl
    · show (if _ then Dev.flag d _ else d : Dev).staged = _
      split <;> rfl
  · have hcl : d.lockViolation.Clean := hd.log _
    have he := (regWrite_enrol_locked (s := { s with dev := d }) (t := t0) hx hl hne).trans (commit_of_clean _ hcl)
    exact ⟨_, (hreg .pf _).trans (congrArg _ he), Dev.log_staged d _, Dev.log_regs d _, rfl, fun hw => Dev.log_events (d := d) hw _⟩

end Sys2Proof.Claims
end

section
/-! PROOF. No command stops the module, and one that is off or held in reset answers to the supply and the pins alone (R20, R26, R513). -/

namespace Sys2Proof.Machine

/-- A command at the level of the whole state does nothing on a module that is off or held. -/
theorem runsAll_inactive {s : State} (h : s.active = false) (k : State → State) : runsAll s k = .next s := by
  simp [runsAll, h]

theorem injWrite_inactive {s : State} (h : s.active = false) (r : Requester) (t : Nat) (arm : Bool) : injWrite r t arm s = .next s := by
  simp [injWrite, h]

/-- A threshold reaches a module that does not act through its rails alone (R28). -/
theorem execThreshold_inactive {s : State} (h : s.active = false) {f : Facts} (hf : f.rails = false) : execThreshold f s = .next s := by
  unfold execThreshold
  split
  · simp [Dev.railsGood, hf]
  · exact runsAll_inactive h _

theorem execThreshold_next (f : Facts) (s : State) : ∃ t, execThreshold f s = .next t := by
  unfold execThreshold
  split <;> exact ⟨_, rfl⟩

theorem injWrite_next (r : Requester) (t : Nat) (arm : Bool) (s : State) : ∃ u, injWrite r t arm s = .next u := by
  unfold injWrite
  split <;> exact ⟨_, rfl⟩

/-- No meaning answers a fault or a refusal. -/
theorem exec_next (i : Instr) (s : State) : ∃ t, exec i s = .next t := by
  by_cases hb : beyondDevice i = false
  · obtain ⟨k, hk⟩ := exec_eq_runs hb s
    exact hk ▸ runs_next s k
  · cases i
    case threshold f => exact execThreshold_next f s
    case injArm r t => exact injWrite_next r t true s
    case injDisarm r t => exact injWrite_next r t false s
    case powerOn | overVoltageTurnOn | inputTurnOff | railOutOfRegulation | moduleReset | moduleResetRelease | modReset | thermalRestart
      | registerWrite | configLock | writeReg | doeObject => exact ⟨_, rfl⟩
    all_goals exact absurd rfl hb

/-- Off or held in reset, the module ignores what is no event of the supply, the rails or the reset pins (R20, R26). -/
theorem exec_inactive {i : Instr} {s : State} (h : s.active = false) (hp : Claims.pinEvent i = false) : exec i s = .next s := by
  by_cases hb : beyondDevice i = false
  · obtain ⟨k, hk⟩ := exec_eq_runs hb s
    exact hk.trans (runs_inactive h k)
  · cases i
    case powerOn | overVoltageTurnOn | inputTurnOff | railOutOfRegulation | moduleReset | moduleResetRelease => cases hp
    case threshold f => exact execThreshold_inactive h hp
    case writeReg | doeObject => exact runsAll_inactive h _
    case injArm | injDisarm => exact injWrite_inactive h _ _ _
    case modReset => simp [exec, execModReset, h]
    case thermalRestart => simp [exec, execThermalRestart, h]
    case registerWrite => simp [exec, execRegisterWrite, h]
    case configLock => simp [exec, execConfigLock, h]
    all_goals exact absurd rfl hb

end Sys2Proof.Machine

namespace Sys2Proof.Claims

open Sys2Proof.Machine

/-- Settles O59: commands act through the device, which needs an active module, or are the few whose effect is on the whole state. -/
theorem nothingStopsTheModule : Obligations.NothingStopsTheModule := by
  unfold Obligations.NothingStopsTheModule
  exact ⟨exec_next, fun _ _ => exec_inactive⟩

end Sys2Proof.Claims
end

section
/-! PROOF. The flash through the loss of the input (R20, R21, R546): a record of two copies keeps the copy in force. -/

namespace Sys2Proof.Machine

/-! ## Two copies -/

section

variable {α : Type}

/-- A copy that has just been written passes its check. -/
theorem validCopy_written (n : Nat) (v : α) : validCopy (some ⟨n, true, v⟩) = some ⟨n, true, v⟩ := rfl

/-- A copy whose write stayed incomplete fails its check (R21). -/
theorem validCopy_torn (c : Option (Copy α)) : validCopy (c.map fun x => { x with ok := false }) = none := by
  cases c <;> rfl

/-- A new record takes the place of the copy not in force and is in force itself (R546). -/
theorem TwoCopy.inForce_write (x : TwoCopy α) (v : α) :
    (x.write v).inForce = some ⟨(x.inForce.map fun c => c.seq + 1).getD 0, true, v⟩ := by
  rcases h0 : validCopy x.c0 with _ | a <;> rcases h1 : validCopy x.c1 with _ | b
  case some.some => by_cases hab : a.seq < b.seq <;> simp [TwoCopy.write, TwoCopy.inForce, TwoCopy.second, h0, h1, validCopy_written, hab]
  all_goals simp [TwoCopy.write, TwoCopy.inForce, TwoCopy.second, h0, h1, validCopy_written]

/-- An incomplete write spoils the copy not in force alone (R21). -/
theorem TwoCopy.inForce_tear (x : TwoCopy α) : x.tear.inForce = x.inForce := by
  rcases h0 : validCopy x.c0 with _ | a <;> rcases h1 : validCopy x.c1 with _ | b
  case some.some => by_cases hab : a.seq < b.seq <;> simp [TwoCopy.tear, TwoCopy.inForce, TwoCopy.second, h0, h1, validCopy_torn, hab]
  all_goals simp [TwoCopy.tear, TwoCopy.inForce, TwoCopy.second, h0, h1, validCopy_torn]

@[simp] theorem TwoCopy.val_tear (x : TwoCopy α) (d : α) : x.tear.val d = x.val d := by
  simp [TwoCopy.val, TwoCopy.inForce_tear]

end

/-! ## Torn writes -/

/-- What no element of a fold changes, the fold does not change. -/
theorem foldl_kept {σ α β : Type} {f : σ → α → σ} (g : σ → β) (h : ∀ s a, g (f s a) = g s) (l : List α) (s : σ) :
    g (l.foldl f s) = g s :=
  List.foldlRecOn (motive := fun t => g t = g s) l f rfl fun t ht a _ => (h t a).trans ht

/-- What the flash says of firmware, and what each record that it keeps in two copies says (R17, R546). -/
structure FlashInForce where
  slotA : FwSlot
  slotB : FwSlot
  boot : Bool
  ownerRec : Option (List Byte) × Nat
  counter : Nat
  retire : List RetireE

/-- What the device's flash says. -/
def Dev.flashInForce (d : Dev) : FlashInForce :=
  { slotA := d.flash.slotA, slotB := d.flash.slotB, boot := d.flash.boot.val false, ownerRec := d.flash.ownerRec.val (none, 0)
    counter := d.flash.counter.val 0, retire := d.calFlash.retire.val [] }

/-- A torn write leaves what was in force: of a record in two copies it spoils the other one (R21). -/
theorem Dev.flashInForce_tearWrite (d : Dev) (k : Nat) : (d.tearWrite k).flashInForce = d.flashInForce := by
  unfold Dev.tearWrite
  dsimp only
  split
  · rfl
  · split
    case h_1 | h_2 | h_3 => simp [Dev.flashInForce]
    case h_4 => split <;> rfl
    case h_5 =>
      split
      · rfl
      · split
        · simp [Dev.flashInForce]
        · rfl

/-- Where M's firmware does not run, no write is under way (R16). -/
theorem Dev.tearWrite_of_stopped {d : Dev} (h : d.chip.mRuns = false) (k : Nat) : d.tearWrite k = d := by
  simp [Dev.tearWrite, h]

theorem Dev.foldl_tearWrite_of_stopped {d : Dev} (h : d.chip.mRuns = false) (l : List Nat) : l.foldl Dev.tearWrite d = d :=
  List.foldlRecOn (motive := (· = d)) l _ rfl fun _ he k _ => he ▸ Dev.tearWrite_of_stopped h k

end Sys2Proof.Machine
end

section
/-! PROOF. What the start of the functions leaves as it is (R23, R506), and what a module reset leaves (R513). -/

namespace Sys2Proof.Machine

/-! ## The start of the functions -/

/-- The parts of the device that the start of the functions leaves, but for what M's boot does (R506, R548). -/
structure StartFrame where
  pins : Pins
  thm : Thermal
  boot : Boot
  sec : Sec
  staged : List Staged
  flash : SecFlash
  calFlash : CalFlash

/-- These parts of a device. -/
def Dev.startFrame (d : Dev) : StartFrame :=
  { pins := d.chip.pins, thm := d.chip.thm, boot := d.chip.boot, sec := d.chip.sec, staged := d.staged, flash := d.flash, calFlash := d.calFlash }

theorem Dev.startFrame_flag (d : Dev) (f : Fld) (i e sel : Nat) : (d.flag f i e sel).startFrame = d.startFrame := rfl

theorem Dev.startFrame_onSec (d : Dev) (g : Sec → Sec) : (d.onSec g).startFrame = { d.startFrame with sec := g d.chip.sec } := rfl

theorem Dev.startFrame_fire (d : Dev) (src cls : Nat) : (d.fire src cls).startFrame = d.startFrame := by
  unfold Dev.fire
  split
  · rfl
  · split <;> rfl

theorem Dev.startFrame_log (d : Dev) (e : LogEv) : (d.log e).startFrame = d.startFrame := by
  unfold Dev.log
  dsimp only
  split
  · rfl
  · split
    · exact Dev.startFrame_fire _ _ _
    · rfl

theorem Dev.startFrame_ite {p : Prop} [Decidable p] {d e : Dev} (h : d.startFrame = e.startFrame) :
    (if p then d else e).startFrame = e.startFrame := by
  split
  · exact h
  · rfl

theorem Dev.startFrame_retiredRing (d : Dev) (k : Nat) : (d.retiredRing k).startFrame = d.startFrame := by
  unfold Dev.retiredRing
  dsimp only
  split <;> rfl

/-- The retire list acts on towers, the cellar, light and calibration (R81, R234, R252, R283). -/
theorem Dev.startFrame_loadRetireList (d : Dev) : d.loadRetireList.startFrame = d.startFrame := by
  unfold Dev.loadRetireList
  refine foldl_kept Dev.startFrame (fun d e => ?_) _ _
  dsimp only
  split
  case h_1 => exact Dev.startFrame_retiredRing _ _
  case h_7 => split <;> rfl
  all_goals rfl

theorem Dev.startFrame_lifeStart (d : Dev) : d.lifeStart.startFrame = d.startFrame := by
  unfold Dev.lifeStart
  dsimp only
  split <;> rfl

theorem Dev.startFrame_calStart (d : Dev) (kind unit : Nat) : (d.calStart kind unit).startFrame = d.startFrame := by
  unfold Dev.calStart
  dsimp only
  split
  · rfl
  · split <;> rfl

theorem Dev.startFrame_laserLoad (d : Dev) (die : Nat) (set : List Int) : (d.laserLoad die set).startFrame = d.startFrame := by
  unfold Dev.laserLoad
  refine foldl_kept Dev.startFrame (fun d k => ?_) _ _
  rfl

/-- A unit's values are the calibration engine's; a fallback is flagged and logged (R490, R496). -/
theorem Dev.startFrame_calLoad (d : Dev) (kind unit : Nat) : (d.calLoad kind unit).startFrame = d.startFrame := by
  unfold Dev.calLoad
  extract_lets bad base lim cs good x d₁ d₂ d₃
  have h₂ : d₂.startFrame = d₁.startFrame := Dev.startFrame_ite (Dev.startFrame_log _ _)
  have h₃ : d₃.startFrame = d₂.startFrame := by
    unfold d₃
    split
    · exact Dev.startFrame_laserLoad _ _ _
    · exact Dev.startFrame_ite rfl
  calc (if kind < 8 then d₃.calStart kind unit else d₃).startFrame
      = d₃.startFrame := Dev.startFrame_ite (Dev.startFrame_calStart _ _ _)
    _ = d₁.startFrame := h₃.trans h₂

theorem Dev.startFrame_calLoadBlock (d : Dev) (b : Nat) : (d.calLoadBlock b).startFrame = d.startFrame := by
  unfold Dev.calLoadBlock
  extract_lets d₁
  have h₁ : d₁.startFrame = d.startFrame := Dev.startFrame_ite (Dev.startFrame_log _ _)
  exact (foldl_kept Dev.startFrame (fun d (k : Nat × Nat) => Dev.startFrame_calLoad d k.1 k.2) _ _).trans h₁

theorem Dev.startFrame_beginStart (d : Dev) (k : Nat) : (d.beginStart k).startFrame = d.startFrame := by
  unfold Dev.beginStart
  extract_lets d₁ d₂
  have h₂ : d₂.startFrame = d₁.startFrame := by
    refine Dev.startFrame_ite (foldl_kept Dev.startFrame (fun d b => ?_) _ _)
    rfl
  exact (Dev.startFrame_ite (Dev.startFrame_calLoadBlock _ _)).trans h₂

/-- Without an activation M does not roll back to the other slot (R549). -/
theorem Dev.rollsBack_of_not_activated {d : Dev} (h : d.chip.sec.activated = none) : d.rollsBack = false := by
  simp [Dev.rollsBack, h]

/-- What M's boot leaves of these parts (R548): recovery mode `r`, the security engine as `x`, the flash as `f`. -/
def StartFrame.booted (y : StartFrame) (r : Bool) (x : Sec) (f : SecFlash) : StartFrame :=
  { y with boot := { y.boot with recovery := r }, sec := x, flash := f }

/-- M's boot writes the flash only to roll back (R549). -/
theorem Dev.startFrame_secBoot (d : Dev) :
    ∃ r x f, d.secBoot.startFrame = d.startFrame.booted r x f ∧ (d.rollsBack = false → f = d.flash) := by
  unfold Dev.secBoot
  extract_lets back d₁ f a b pick act now d₂ d₃
  have h₃ : d₃.startFrame = d.startFrame.booted pick.isNone d₂.chip.sec f := by
    unfold d₃ d₂ f d₁
    split <;> rfl
  have hf : back = false → f = d.flash := fun hb => by simp [f, d₁, hb]
  generalize pick.isNone = r at h₃
  clear_value d₃ pick
  cases pick with
  | none => exact ⟨r, _, f, h₃, hf⟩
  | some s =>
    have hsec (g : Sec → Sec) : (d₃.onSec g).startFrame = d.startFrame.booted r (g d₃.chip.sec) f := by
      rw [Dev.startFrame_onSec, h₃]
      rfl
    have hflag {p : Prop} [Decidable p] (e : Dev) (w : Fld) : (if p then e.flag w else e).startFrame = e.startFrame :=
      Dev.startFrame_ite (Dev.startFrame_flag e w 0 0 0)
    exact ⟨r, _, f, (hflag _ _).trans ((hflag _ _).trans (hsec _)), hf⟩

/-- The functions begin to start once; M's boot writes the flash only to roll back an activation (R506, R548, R549). -/
theorem Dev.startFrame_startFunctions {d : Dev} (h : d.chip.boot.started = false) :
    ∃ r x f, d.startFunctions.startFrame = { d.startFrame with boot := { d.chip.boot with started := true } }.booted r x f
      ∧ (d.chip.sec.activated = none → f = d.flash) := by
  unfold Dev.startFunctions
  rw [h, if_neg Bool.false_ne_true]
  extract_lets d₁ d₂ d₃ d₄
  have h₁ : d₁.loadRetireList.lifeStart.startFrame = d₁.startFrame :=
    (Dev.startFrame_lifeStart _).trans (Dev.startFrame_loadRetireList _)
  obtain ⟨r, x, f, h₂, hf⟩ := Dev.startFrame_secBoot d₁.loadRetireList.lifeStart
  have hsec : d₁.loadRetireList.lifeStart.chip.sec = d.chip.sec := congrArg StartFrame.sec h₁
  have hflash : d₁.loadRetireList.lifeStart.flash = d.flash := congrArg StartFrame.flash h₁
  rw [h₁] at h₂
  replace h₂ : d₂.startFrame = d₁.startFrame.booted r x f := h₂
  refine ⟨r, x, f, Eq.trans ?_ h₂, fun ha => (hf (Dev.rollsBack_of_not_activated (hsec ▸ ha))).trans hflash⟩
  split
  · rfl
  · have h₃ : d₃.startFrame = d₂.startFrame := (Dev.startFrame_calLoad _ 4 1).trans (Dev.startFrame_calLoad _ 4 0)
    have h₄ : d₄.startFrame = d₃.startFrame := by
      refine foldl_kept Dev.startFrame (fun d k => ?_) _ _
      rfl
    exact (foldl_kept Dev.startFrame Dev.startFrame_beginStart _ _).trans (h₄.trans h₃)

/-! ## Module reset -/

/-- A module that acts has its supply (R20). -/
theorem powered_of_active {s : State} (h : s.active = true) : s.gate.powered = true := (Bool.and_eq_true_iff.mp h).1

/-- After a module reset that needs no pin the functions start, the pins but SYNC_OUT and THERM_TRIP_N stay, and temperature is at its
reset values (R506, R513). -/
theorem State.restart_startedReset {s : State} (h : s.gate.powered = true) (cause : Nat) :
    Claims.startedReset s (s.restart cause) cause
      ∧ (s.restart cause).dev.chip.pins = { s.dev.chip.pins with syncOut := false, thermTrip := false }
      ∧ (s.restart cause).dev.chip.thm = {} := by
  obtain ⟨r, x, f, hd, hf⟩ := Dev.startFrame_startFunctions (d := s.dev.reborn cause) rfl
  have hboot : (s.restart cause).dev.chip.boot = { started := true, recovery := r, modCause := cause } := congrArg StartFrame.boot hd
  have hflash : (s.restart cause).dev.flash = s.dev.flash := (congrArg StartFrame.flash hd).trans (hf rfl)
  refine ⟨⟨?_, rfl, ?_, ?_, congrArg StartFrame.staged hd, hflash, congrArg StartFrame.calFlash hd, rfl⟩, congrArg StartFrame.pins hd,
    congrArg StartFrame.thm hd⟩
  · simp [State.restart, State.reborn, h]
  all_goals rw [hboot]

/-- Power on with both reset pins high: a module reset that needs no pin (R27, R506). -/
theorem State.powerUp_startedReset (s : State) (straps : Nat) : Claims.startedReset s (s.powerUp straps true true) 0 :=
  let on : State := { s with gate := { s.gate with powered := true } }
  (State.restart_startedReset (s := on.onPins fun _ => { smbAddr := 0x58 + straps % 8 }) rfl 0).1

/-- Power on with a reset pin low: the module is held (R26, R27). -/
theorem State.powerUp_heldReset (s : State) (straps : Nat) {p m : Bool} (h : ¬ (p = true ∧ m = true)) :
    Claims.heldReset s (s.powerUp straps p m) 0 { perstN := p, modResetN := m, smbAddr := 0x58 + straps % 8 } := by
  have hheld : (!p || !m) = true := by
    cases p <;> simp_all
  simp [State.powerUp, State.reborn, State.onPins, Dev.reborn, hheld, Claims.heldReset]

theorem State.powerUp_reset (s : State) (straps : Nat) (p m : Bool) :
    if p = true ∧ m = true then Claims.startedReset s (s.powerUp straps p m) 0
    else Claims.heldReset s (s.powerUp straps p m) 0 { perstN := p, modResetN := m, smbAddr := 0x58 + straps % 8 } := by
  split
  · next h =>
    obtain ⟨rfl, rfl⟩ := h
    exact State.powerUp_startedReset s straps
  · next h => exact State.powerUp_heldReset s straps h

/-- A reset pin that goes low holds a module that was not held (R26, R513). -/
theorem moduleReset_heldReset {s : State} (hp : s.gate.powered = true) (hh : s.gate.held = false) (pin : Nat) :
    Claims.heldReset s (moduleReset pin s) (if pin = 0 then 1 else 2) { s.dev.chip.pins with
      perstN := if pin = 0 then false else s.dev.chip.pins.perstN
      modResetN := if pin = 0 then s.dev.chip.pins.modResetN else false
      syncOut := false
      thermTrip := false } := by
  have hrun : moduleReset pin s = (s.onPins fun p => if pin = 0 then { p with perstN := false } else { p with modResetN := false }).reborn
      (if pin = 0 then 1 else 2) true := if_neg (by simp [State.onPins, hp, hh])
  rw [hrun]
  refine ⟨?_, rfl, ?_, rfl, rfl, rfl, rfl⟩
  · simp [State.reborn, State.onPins, hp]
  · by_cases h0 : pin = 0 <;> simp [State.reborn, State.onPins, Dev.reborn, h0]

/-- Both reset pins high: the functions start (R26, R506). -/
theorem moduleResetRelease_starts {s : State} (hp : s.gate.powered = true) (hs : s.dev.chip.boot.started = false) :
    (moduleResetRelease s).gate = { s.gate with held := false }
      ∧ (moduleResetRelease s).dev.chip.pins = { s.dev.chip.pins with perstN := true, modResetN := true }
      ∧ (moduleResetRelease s).dev.chip.boot.started = true ∧ (moduleResetRelease s).mem = s.mem
      ∧ (moduleResetRelease s).pending = s.pending := by
  let u := s.onPins fun p => { p with perstN := true, modResetN := true }
  have hrun : moduleResetRelease s = { u with gate := { u.gate with held := false }, dev := u.dev.startFunctions } :=
    if_neg (by simp [State.onPins, hp])
  obtain ⟨r, x, f, hd, -⟩ := Dev.startFrame_startFunctions (d := u.dev) hs
  rw [hrun]
  exact ⟨rfl, congrArg StartFrame.pins hd, congrArg (fun y => y.boot.started) hd, rfl, rfl⟩

/-- The loss of the input leaves of the state only the flash, in force as it was, and the pins' levels (R20, R21). -/
theorem inputTurnOff_eq {s : State} (hp : s.gate.powered = true) (e : TurnOff) :
    inputTurnOff e s = { (State.onPins { s with dev := e.torn.foldl Dev.tearWrite s.dev } fun _ =>
      { pwrGood := false, railsOk := false, ovOff := e.high, perstN := s.dev.chip.pins.perstN
        modResetN := s.dev.chip.pins.modResetN }).reborn 0 false with gate := { powered := false } } :=
  if_neg (by simp [hp])

/-- A chip with the trip fields of `t` (R479). -/
def Chip.withTrip (c : Chip) (t : Thermal) : Chip :=
  { c with thm := { c.thm with
      tripValid := t.tripValid
      tripSensor := t.tripSensor
      tripTemp := t.tripTemp
      tripFrame := t.tripFrame
      trips := t.trips } }

/-- The module after the restart that follows a trip: THERM_TRIP_N released, a module reset, the trip fields put back (R479). -/
def State.afterTrip (s : State) : State :=
  let r := (s.onPins fun p => { p with thermTrip := false }).restart 4
  { r with dev := { r.dev.flag F.THM_INT_STATUS_RESTARTED with
      chip := r.dev.chip.withTrip s.dev.chip.thm, pub := r.dev.pub.withTrip s.dev.chip.thm } }

/-- Once every counted sensor has read below 70 °C for 5 s, a tripped module restarts (R479). -/
theorem thermalRestart_eq {s : State} {since : Nat} (ht : s.dev.chip.thm.tripped = true) (hc : s.dev.chip.thm.coolAt = some since)
    (hdue : since + 5000000000 ≤ s.dev.chip.frm.time) : thermalRestart s = s.afterTrip := by
  have hnot : ¬ ((!s.dev.chip.thm.tripped) = true ∨ s.dev.chip.frm.time < since + msNs 5000) := by
    have : msNs 5000 = 5000000000 := rfl
    simp only [ht, Bool.not_true, Bool.false_eq_true, false_or]
    omega
  unfold thermalRestart
  simp only [hc, if_neg hnot]
  rfl

/-- It is a module reset that keeps the trip fields and leaves PWR_GOOD to the rails (R28, R479). -/
theorem State.afterTrip_startedReset {s : State} (hp : s.gate.powered = true) :
    Claims.startedReset s s.afterTrip 4 ∧ s.afterTrip.dev.chip.thm.tripped = false
      ∧ s.afterTrip.dev.chip.thm.tripValid = s.dev.chip.thm.tripValid ∧ s.afterTrip.dev.chip.thm.tripSensor = s.dev.chip.thm.tripSensor
      ∧ s.afterTrip.dev.chip.thm.tripTemp = s.dev.chip.thm.tripTemp ∧ s.afterTrip.dev.chip.thm.trips = s.dev.chip.thm.trips
      ∧ s.afterTrip.dev.chip.pins.thermTrip = false ∧ s.afterTrip.dev.chip.pins.pwrGood = s.dev.chip.pins.pwrGood := by
  obtain ⟨hreset, hpins, hthm⟩ := State.restart_startedReset (s := s.onPins fun p => { p with thermTrip := false }) hp 4
  exact ⟨hreset, congrArg Thermal.tripped hthm, rfl, rfl, rfl, rfl, congrArg Pins.thermTrip hpins, (congrArg Pins.pwrGood hpins :)⟩

end Sys2Proof.Machine

namespace Sys2Proof.Claims

open Host Sys2Proof.Machine

/-- Settles O29: power on and the resets start the functions or hold the module, and neither they nor torn writes change a record in force; what
POWER_ON and module reset do to the other pins is the model's choice (log 93). -/
theorem powerAndModuleReset : Obligations.PowerAndModuleReset := by
  unfold Obligations.PowerAndModuleReset
  refine ⟨fun α x v => ⟨TwoCopy.inForce_write x v, TwoCopy.inForce_tear x⟩, ?_⟩
  intro s straps pin p m ov torn c up
  refine ⟨?_, ?_, ?_, ?_, ?_, ?_, ?_, ?_⟩
  · intro hp (ho : s.dev.chip.pins.ovOff = false)
    have hrun : powerOn straps p m s = s.powerUp straps p m := if_neg (by simp [hp, ho])
    exact ⟨_, congrArg Outcome.next hrun, State.powerUp_reset s straps p m⟩
  · intro hp (ho : s.dev.chip.pins.ovOff = true)
    have hrun : overVoltageTurnOn straps p m s = s.powerUp straps p m := if_neg (by simp [hp, ho])
    exact ⟨_, congrArg Outcome.next hrun, State.powerUp_reset s straps p m⟩
  · intro hp
    have hf : (torn.foldl Dev.tearWrite s.dev).flashInForce = s.dev.flashInForce :=
      foldl_kept Dev.flashInForce Dev.flashInForce_tearWrite torn s.dev
    have hd (h : torn = [] ∨ s.dev.chip.mRuns = false) : torn.foldl Dev.tearWrite s.dev = s.dev :=
      h.elim (fun ht => by rw [ht]; rfl) fun hr => Dev.foldl_tearWrite_of_stopped hr torn
    exact ⟨_, congrArg Outcome.next (inputTurnOff_eq hp _), rfl, rfl, rfl, congrArg FlashInForce.slotA hf, congrArg FlashInForce.slotB hf,
      congrArg FlashInForce.boot hf, congrArg (fun x => x.ownerRec.1) hf, congrArg (fun x => x.ownerRec.2) hf, congrArg FlashInForce.counter hf,
      congrArg FlashInForce.retire hf, fun h => ⟨(congrArg Dev.flash (hd h) :), (congrArg Dev.calFlash (hd h) :)⟩, rfl⟩
  · exact fun hp hh => ⟨_, rfl, moduleReset_heldReset hp hh pin⟩
  · exact fun hp hs => ⟨_, rfl, moduleResetRelease_starts hp hs⟩
  · exact fun hp => ⟨_, rfl, if_pos hp⟩
  · intro ha (hw : s.dev.chip.boot.warm = false)
    have hrun : (if s.active ∧ !s.dev.chip.boot.warm then modReset .pf s else s) = s.restart 3 := if_pos (by simp [ha, hw])
    exact ⟨_, congrArg Outcome.next hrun, (State.restart_startedReset (powered_of_active ha) 3).1⟩
  · intro since ha ht hc hdue
    have hrun : (if s.active then thermalRestart s else s) = s.afterTrip := (if_pos ha).trans (thermalRestart_eq ht hc hdue)
    exact ⟨_, congrArg Outcome.next hrun, State.afterTrip_startedReset (powered_of_active ha)⟩

end Sys2Proof.Claims
end

section
/-! PROOF. Views (R57) and snapshots (R69, R72): what each command leaves of the device. -/

namespace Sys2Proof.Machine

/-- The parts of the device that only few commands change: publication, staged writes, views, flash, the latched snapshot. -/
structure OuterParts where
  pub : Chip
  staged : List Staged
  views : List (Nat × View)
  flash : SecFlash
  calFlash : CalFlash
  latched : Option (List Byte)

/-- These parts of a device. -/
def Dev.outerParts (d : Dev) : OuterParts :=
  { pub := d.pub, staged := d.staged, views := d.views, flash := d.flash, calFlash := d.calFlash, latched := d.latched }

end Sys2Proof.Machine

namespace Sys2Proof.Claims

open Host Sys2Proof.Machine

/-- The device before a command, with nothing sent out yet, is clean. -/
theorem Ready.clean {s : State} (h : Ready s) : ({ s.dev with out := [] } : Dev).Clean := ⟨h.1.wr, h.1.used⟩

/-- An effect on a device that keeps these parts is quiet. -/
theorem quiet_of_outerParts {s : State} {e : Dev} (h : e.outerParts = s.dev.outerParts) : Quiet s { s with dev := e } :=
  ⟨⟨rfl, rfl, congrArg OuterParts.pub h, congrArg OuterParts.staged h, congrArg OuterParts.views h, congrArg OuterParts.flash h,
    congrArg OuterParts.calFlash h, congrArg OuterParts.latched h⟩, fun _ => rfl⟩

/-- A count in the device is a count of the command. -/
theorem counted_count (s : State) (d : Dev) (h : d.cnt = s.dev.cnt) (n : Nat) (f : Fld) (i e sel : Nat) :
    counted s { s with dev := d.count f n i e sel } n f i e sel := by
  simp [counted, Dev.count, Tab.get_upd, h]

/-! ## Views -/

/-- What is put behind entries none of which is its requester's is found there. -/
theorem find?_filter_append {α : Type} (l : List α) {p q : α → Bool} {x : α} (hx : p x = true) (hq : ∀ y, q y = true → p y = false) :
    (l.filter q ++ [x]).find? p = some x := by
  have hnone : (l.filter q).find? p = none := by
    rw [List.find?_eq_none]
    intro y hy
    simp [hq y (List.mem_filter.mp hy).2]
  rw [List.find?_append, hnone]
  simp [hx]

section
variable (d : Dev) (r : Requester)

/-- A pinned view stands for its requester in place of an earlier one (R57). -/
theorem viewPin_find? : (viewPin r d).views.find? (fun p => p.1 = r.code) =
    some (r.code, ⟨d.pub.frm.commit, d.chip.frm.cur, d.shown, d.pubEv⟩) :=
  find?_filter_append d.views (decide_eq_true rfl) fun y hy => by simpa using hy

/-- The high word of its frame is latched in place of an earlier one (R4, R57). -/
theorem viewPin_latches : (viewPin r d).pairs.find? (fun p => p.1 = r.code && p.2.1 = F.FRM_VIEW_HI.addr) =
    some (r.code, F.FRM_VIEW_HI.addr, d.pub.frm.commit / 2 ^ 32) :=
  find?_filter_append d.pairs (by simp) fun y hy => by simpa only [Bool.not_eq_true'] using hy

theorem viewPin_others {p : Nat × View} (hp : p.1 ≠ r.code) : p ∈ (viewPin r d).views ↔ p ∈ d.views := by
  have hne : p ≠ (r.code, ⟨d.pub.frm.commit, d.chip.frm.cur, d.shown, d.pubEv⟩) := fun h => hp (congrArg Prod.fst h)
  show p ∈ (d.views.filter fun p => p.1 ≠ r.code) ++ [_] ↔ _
  simp [hp, hne]

theorem mem_viewRelease (p : Nat × View) : p ∈ (viewRelease r d).views ↔ p ∈ d.views ∧ p.1 ≠ r.code := by
  simp [viewRelease]

theorem viewExpired_others {p : Nat × View} (hp : p.1 ≠ r.code) : p ∈ (viewExpired r d).views ↔ p ∈ d.views := by
  simp [viewExpired, Dev.expireViews, hp]

/-- A view that has reached the frame limit ends, and its requester sees that it has (R57). -/
theorem viewExpired_aged {v : View} (hv : (r.code, v) ∈ d.views) (hage : v.aged (nextFrame d.chip.frm.cur) = true) :
    (r.code, v) ∉ (viewExpired r d).views ∧ r.code ∈ (viewExpired r d).expired := by
  constructor
  · simp [viewExpired, Dev.expireViews, hage]
  · simp only [viewExpired, Dev.expireViews, List.mem_append, List.mem_map, List.mem_filter]
    exact .inr ⟨_, ⟨hv, by simp [hage]⟩, rfl⟩

end

/-- Settles O25: reading FRM_VIEW_LO, releasing and the frame limit change the views of their requester alone. -/
theorem views : Obligations.Views := by
  unfold Obligations.Views
  intro s r hr
  let d : Dev := { s.dev with out := [] }
  have run {k : Dev → Dev} (hw : (k d).wr = d.wr := by rfl) (hu : (k d).injUsed = d.injUsed := by rfl) :
      runs s k = .next { s with dev := k d } := runs_of_clean hr.2 rfl (hr.clean.congr hw hu)
  have hexp : r.code ∉ (viewPin r d).expired := by simp [viewPin]
  refine ⟨⟨_, run, rfl, viewPin_find? d r, fun p hp => viewPin_others d r hp, hexp, viewPin_latches d r, rfl⟩,
    ⟨_, run, mem_viewRelease d r, rfl⟩, fun v hv hage => ?_⟩
  obtain ⟨hgone, hseen⟩ := viewExpired_aged d r (List.mem_of_find?_eq_some hv) (decide_eq_true hage)
  exact ⟨_, run, hgone, hseen, fun p hp => viewExpired_others d r hp, rfl⟩

/-! ## Snapshots -/

/-- A source that is enabled fires the armed controller (R69). -/
theorem fire_armed {d : Dev} {src : Nat} (hw : d.chip.boot.warm = false) (hen : bitOf (d.chip.fld F.SNAP_CTL_SRC_EN) src = true)
    (hst : d.chip.snap.st = .armed) : d.fire src = d.onSnap fun x => { x with
      fired := orBit x.fired src
      firstFrame := if x.fired = 0 then d.chip.frm.cur else x.firstFrame } := by
  have herr (n : Nat) : (if n = 0xFFFF then 0xFFFF else n) = n := by split <;> simp_all
  simp only [Dev.fire, hw, hen, hst, herr]
  rfl

/-- One that finds the controller not armed is counted as missed (R69). -/
theorem fire_missed {d : Dev} {src : Nat} (hw : d.chip.boot.warm = false) (hen : bitOf (d.chip.fld F.SNAP_CTL_SRC_EN) src = true)
    (hst : d.chip.snap.st ≠ .armed) : d.fire src = d.count F.SNAP_MISSED := by
  simp [Dev.fire, hw, hen, hst]

/-- One that is not enabled does nothing. -/
theorem fire_disabled {d : Dev} {src : Nat} (hen : bitOf (d.chip.fld F.SNAP_CTL_SRC_EN) src = false) : d.fire src = d := by
  simp [Dev.fire, hen]

/-- A write of one field is staged as its bits (R56). -/
theorem stageFld_collect (d : Dev) (t : Nat) : d.stageFld .pf t F.SNAP_CTL_COLLECT 1 =
    { d with staged := d.staged ++ [⟨F.SNAP_CTL_COLLECT.key, 8, 8, d.chip.dueFrame t, .pf⟩] } := rfl

/-- A request of a message changes nothing but the requests. -/
theorem msixReq_eq (d : Dev) (fn vec : Nat) : ∃ l, d.msixReq fn vec = { d with irq := l } ∧ (fn, vec) ∈ l := by
  unfold Dev.msixReq
  split
  · exact ⟨d.irq, rfl, by assumption⟩
  · exact ⟨_, rfl, by simp⟩

@[simp] theorem msixReq_chip (d : Dev) (fn vec : Nat) : (d.msixReq fn vec).chip = d.chip := by
  obtain ⟨l, h, -⟩ := msixReq_eq d fn vec
  rw [h]

/-! What ARM, DISARM and the end of the record's DMA make of the device, by the controller's state (R72). -/

section
variable {d : Dev} (hw : d.chip.boot.warm = false)
include hw

theorem snapArm_idle (h : d.chip.snap.st = .idle) : snapArm d = d.onSnap fun x => { x with st := .armed } := by
  simp [snapArm, hw, h]

theorem snapArm_busy (h : d.chip.snap.st = .latched ∨ d.chip.snap.st = .collecting) :
    snapArm d = d.onSnap fun x => { x with pendArm := true } := by
  obtain h | h := h <;> simp [snapArm, hw, h]

theorem snapArm_ended (h : d.chip.snap.st = .done ∨ d.chip.snap.st = .stalled) :
    snapArm d = d.snapRelease.onSnap fun x => { x with st := .armed, tooSmall := false, pendArm := false } := by
  obtain h | h := h <;> simp [snapArm, hw, h]

theorem snapDisarm_armed (h : d.chip.snap.st = .armed) :
    snapDisarm d = d.onSnap fun x => { x with st := .idle, fired := 0, errClass := 0xFFFF } := by
  simp [snapDisarm, hw, h]

theorem snapDisarm_busy (h : d.chip.snap.st = .latched ∨ d.chip.snap.st = .collecting) :
    snapDisarm d = d.onSnap fun x => { x with pendArm := false } := by
  obtain h | h := h <;> simp [snapDisarm, hw, h]

theorem snapDisarm_done (h : d.chip.snap.st = .done) :
    snapDisarm d = d.snapRelease.onSnap fun x => { x with st := .idle, pendArm := false } := by
  simp [snapDisarm, hw, h]

theorem snapDisarm_stalled (h : d.chip.snap.st = .stalled) :
    snapDisarm d = d.snapRelease.onSnap fun x => { x with st := .idle, tooSmall := false, pendArm := false } := by
  simp [snapDisarm, hw, h]

/-- A record that was written asks for the message of vector 3; a waiting ARM arms the controller. -/
theorem recordWritten_ok (h : d.chip.snap.st = .collecting) : recordWritten true d =
    if d.chip.snap.pendArm then (d.msixReq 0 3).snapRelease.onSnap fun x => { x with st := .armed, pendArm := false }
    else (d.msixReq 0 3).onSnap fun x => { x with st := .done } := by
  simp [recordWritten, hw, h]

theorem recordWritten_failed (h : d.chip.snap.st = .collecting) :
    recordWritten false d = d.onSnap fun x => { x with st := .stalled, tooSmall := false } := by
  simp [recordWritten, hw, h]

end

/-- Settles O28: each command is its case of the controller's state table. -/
theorem snapshots : Obligations.Snapshots := by
  unfold Obligations.Snapshots
  intro s t0 hr hw x goes fires freed
  let d : Dev := { s.dev with out := [] }
  have hd : d.Clean := hr.clean
  replace hw : d.chip.boot.warm = false := hw
  have run {k : Dev → Dev} {e : Dev} (hk : k d = e) (he : e.wr = d.wr := by rfl) (hu : e.injUsed = d.injUsed := by rfl) :
      runs s k = .next { s with dev := e } := runs_of_clean hr.2 hk (hd.congr he hu)
  have went {e : Dev} {y : Snap} (hc : e.chip = { s.dev.chip with snap := y } := by rfl) (ho : e.outerParts = s.dev.outerParts := by rfl) :
      goes { s with dev := e } y := ⟨quiet_of_outerParts ho, hc⟩
  have released (e : Dev) (g : Snap → Snap) (hc : e.chip = s.dev.chip := by rfl) (hs : e.staged = s.dev.staged := by rfl) :
      freed { s with dev := e.snapRelease.onSnap g } (g x) :=
    ⟨congrArg (fun c : Chip => { c with snap := g c.snap }) hc, rfl, fun _ => rfl, rfl, hs⟩
  have hmissed : counted s { s with dev := d.count F.SNAP_MISSED } 1 F.SNAP_MISSED := counted_count s d rfl 1 F.SNAP_MISSED 0 0 0
  obtain ⟨irq, hreq, hmem⟩ := msixReq_eq d 0 3
  refine ⟨?_, ?_, ?_, ?_, ?_, ?_, ?_, ?_, ?_, ?_, ?_, ?_, ?_, ?_, ?_⟩
  · intro hst hen
    have hk : (if d.chip.boot.warm then d else d.fire 0) = _ := (if_neg (by simp [hw])).trans (fire_armed hw hen hst)
    exact ⟨_, run (k := fun d => if d.chip.boot.warm then d else snapTrigger .pf d) hk, went⟩
  · exact fun hst hen => ⟨_, run (k := fun d => d.fire 4) (fire_armed hw hen hst), went⟩
  · exact fun hst hen => ⟨_, run (k := fun d => d.fire 4) (fire_missed hw hen hst), hmissed, went⟩
  · exact fun hen => ⟨_, run (k := fun d => d.fire 4) (fire_disabled hen), went⟩
  · exact fun hst => ⟨_, run (snapArm_idle hw hst), went⟩
  · exact fun hst => ⟨_, run (snapArm_busy hw hst), went⟩
  · exact fun hst => ⟨_, run (snapArm_ended hw hst), released d _⟩
  · exact fun hst => ⟨_, run (snapDisarm_armed hw hst), went⟩
  · exact fun hst => ⟨_, run (snapDisarm_busy hw hst), went⟩
  · exact fun hst => ⟨_, run (snapDisarm_done hw hst), released d _⟩
  · exact fun hst => ⟨_, run (snapDisarm_stalled hw hst), released d _⟩
  · have hk : collectWrite .pf t0 d = d.stageFld .pf t0 F.SNAP_CTL_COLLECT 1 := if_pos (by simp [isPf, hw])
    exact ⟨_, run (hk.trans (stageFld_collect d t0)), rfl⟩
  · intro hst (hp : d.chip.snap.pendArm = false)
    have hk := recordWritten_ok hw hst
    rw [hp, if_neg Bool.false_ne_true, hreq] at hk
    exact ⟨_, run hk, went, hmem⟩
  · intro hst (hp : d.chip.snap.pendArm = true)
    have hk := recordWritten_ok hw hst
    rw [hp, if_pos rfl, hreq] at hk
    exact ⟨_, run hk, released { d with irq } _, hmem⟩
  · exact fun hst => ⟨_, run (recordWritten_failed hw hst), went⟩

end Sys2Proof.Claims
end

section
/-! PROOF. Frame alignment (R58 to R65, R385, R386, R457, R458): what edges, ticks and the other events leave of it. -/

namespace Sys2Proof.Machine

/-! ## An accepted edge -/

theorem closeEdge_iff (e : Int) : closeEdge e = true ↔ -16 ≤ e ∧ e ≤ 16 := by simp [closeEdge]

section
variable (x : Sync) (e : Int)

theorem Sync.accept_good : (x.accept e).good = if -16 ≤ e ∧ e ≤ 16 then x.good + 1 else 0 := by
  simp only [Sync.accept, closeEdge_iff]

/-- Where an accepted edge leads: the fourth close one in a row locks (R60, R63). -/
theorem Sync.accept_st (hx : x.st = .acquiring ∨ x.st = .locked ∨ x.st = .lost) : (x.accept e).st =
    if x.st = .lost then .acquiring else if ¬ (-16 ≤ e ∧ e ≤ 16) then .acquiring
      else if x.st = .locked ∨ 3 ≤ x.good then .locked else .acquiring := by
  by_cases hc : -16 ≤ e ∧ e ≤ 16 <;> obtain h | h | h := hx <;> simp [Sync.accept, closeEdge_iff, h, hc]

theorem Sync.accept_clearLost : (x.accept e).clearLost = true ↔ x.clearLost = true ∨ x.syncLost = true := by
  simp [Sync.accept]

end

/-- An accepted edge changes alignment and, where it locks, the events (R63). -/
theorem acceptEdge_eq (d : Dev) (e : Int) : ∃ ev, d.acceptEdge e = { d.onSync fun x => x.accept e with ev } := by
  unfold Dev.acceptEdge
  dsimp only
  split <;> exact ⟨_, rfl⟩

/-! ## What an edge does, by its window (R58, R59, R62) -/

theorem accepts_iff (x : SyncSt) : x.accepts = true ↔ x = .acquiring ∨ x = .locked ∨ x = .lost := by
  cases x <;> decide

theorem ne_off_of_accepts {x : SyncSt} (h : x.accepts = true) : x ≠ .off := by
  rintro rfl
  simp [SyncSt.accepts] at h

section
variable {d : Dev} {t : Int} (hb : d.chip.frm.begun = true) (hx : d.chip.frm.sync.st.accepts = true)
include hb hx

theorem edge_coarse (hc : d.chip.frm.sync.coarse = true) : d.edge t = (some 0, (d.acceptEdge t).onSync fun x => { x with
    coarse := false, seen := true, coarseLen := some ((d.chip.frm.active * 128 : Nat) + t).toNat }) := by
  have hoff := ne_off_of_accepts hx
  simp [Dev.edge, hb, hx, hc, hoff]

variable (hc : d.chip.frm.sync.coarse = false)
include hc

theorem edge_first (hlo : -256 ≤ t) (hhi : t ≤ 256) (hs : d.chip.frm.sync.seen = false) (hm : d.chip.frm.sync.came = false) :
    d.edge t = (some 0, (d.acceptEdge t).onSync fun x => { x with seen := true, step := edgeStep t }) := by
  have hoff := ne_off_of_accepts hx
  simp [Dev.edge, hb, hx, hc, hoff, hlo, hhi, hs, hm]

theorem edge_extra (hlo : -256 ≤ t) (hhi : t ≤ 256) (hs : d.chip.frm.sync.seen = true ∨ d.chip.frm.sync.came = true) :
    d.edge t = (none, d.extraEdge) := by
  have hoff := ne_off_of_accepts hx
  cases hseen : d.chip.frm.sync.seen
  · have hcame : d.chip.frm.sync.came = true := by simpa [hseen] using hs
    simp [Dev.edge, hb, hx, hc, hoff, hlo, hhi, hseen, hcame]
  · simp [Dev.edge, hb, hc, hoff, hlo, hhi, hseen]

variable (hout : ¬ (-256 ≤ t ∧ t ≤ 256))
include hout

theorem edge_next (hlo : (d.chip.frameNs : Int) - 256 ≤ t) (hhi : t ≤ d.chip.frameNs + 256) (hs : d.chip.frm.sync.seenNext = false)
    (hm : d.chip.frm.sync.cameNext = false) : d.edge t = (some 1, (d.acceptEdge (t - d.chip.frameNs)).onSync fun x => { x with
      seenNext := true, stepNext := edgeStep (t - d.chip.frameNs) }) := by
  have hoff := ne_off_of_accepts hx
  unfold Dev.edge
  simp only [hb, hx, hc, hoff, hout, hlo, hhi, hs, hm, and_self, if_true, if_false, Bool.not_true, Bool.false_eq_true, false_or, false_and]

theorem edge_outside (hno : ¬ ((d.chip.frameNs : Int) - 256 ≤ t ∧ t ≤ d.chip.frameNs + 256)) :
    d.edge t = (none, d.count F.FRM_SYNC_COUNT_OUT_WINDOW) := by
  have hoff := ne_off_of_accepts hx
  simp only [Dev.edge, hb, hc, hoff, hout, hno, if_false, Bool.not_true, Bool.false_eq_true, false_or, false_and]

end

end Sys2Proof.Machine

namespace Sys2Proof.Claims

open Host Sys2Proof.Machine

/-- Settles O26: in each case an edge is accepted, extra or outside; what EXTRA counts after HOLDOVER, and the phase and the good count at a
coarse edge or after LOST, are the model's choice (log 37). -/
theorem edgesAlignFrames : Obligations.EdgesAlignFrames := by
  unfold Obligations.EdgesAlignFrames
  intro s e hr x y hsrc hb hst took
  let d : Dev := { s.dev with out := [] }
  have hd : d.Clean := hr.clean
  replace hx : d.chip.frm.sync.st.accepts = true := (accepts_iff _).mpr hst
  replace hb : d.chip.frm.begun = true := hb
  have run {o : Option Nat} {d' : Dev} (hk : d.edge e = (o, d')) (hc : d'.Clean) :
      exec (.syncInEdge e) s = .next { s with dev := d' } := by
    have hin : syncInEdge e d = d' := (if_pos hsrc).trans (congrArg Prod.snd hk)
    exact runs_of_clean hr.2 hin hc
  have accepted (p : Int) (g : Sync → Sync) (hph : ∀ z, (g z).phase = z.phase := by intro; rfl) (hg : ∀ z, (g z).good = z.good := by intro; rfl)
      (hs : ∀ z, (g z).st = z.st := by intro; rfl) (hc : ∀ z, (g z).clearLost = z.clearLost := by intro; rfl) :
      ((d.acceptEdge p).onSync g).Clean ∧ took { s with dev := (d.acceptEdge p).onSync g } p := by
    obtain ⟨ev, hev⟩ := acceptEdge_eq d p
    rw [hev]
    exact ⟨hd.congr rfl rfl, ⟨hph _, (hg _).trans (x.accept_good p), (hs _).trans (x.accept_st p hst),
      (hc _ ▸ x.accept_clearLost p :), rfl, quiet_of_outerParts rfl⟩⟩
  have hcap : edgeStep e = min 16 (e : Int) := max_eq_right (by omega)
  refine ⟨fun hc he hs hm => ?_, fun hc he hlo hhi hs hm => ?_, fun hc he hs => ?_, fun hc he hout => ?_, fun hc => ?_⟩
  · obtain ⟨hclean, htook⟩ := accepted e fun x => { x with seen := true, step := edgeStep e }
    exact ⟨_, run (edge_first hb hx hc (by omega) (by omega) hs hm) hclean, htook, hcap, rfl⟩
  · obtain ⟨hclean, htook⟩ := accepted (e - s.dev.chip.frameNs) fun x => { x with
      seenNext := true, stepNext := edgeStep (e - s.dev.chip.frameNs) }
    exact ⟨_, run (edge_next hb hx hc (by omega) hlo (by exact_mod_cast hhi) hs hm) hclean, htook, rfl, rfl⟩
  · exact ⟨_, run (edge_extra hb hx hc (by omega) (by omega) hs) (hd.congr rfl rfl), counted_count s d rfl 1 F.FRM_SYNC_COUNT_EXTRA 0 0 0,
      quiet_of_outerParts rfl, rfl⟩
  · have hno : ¬ ((d.chip.frameNs : Int) - 256 ≤ e ∧ (e : Int) ≤ d.chip.frameNs + 256) := by
      rintro ⟨hlo, hhi⟩
      exact hout.elim (fun h => not_lt.mpr hlo h) fun h => not_lt.mpr hhi (by exact_mod_cast h)
    exact ⟨_, run (edge_outside hb hx hc (by omega) hno) (hd.congr rfl rfl), counted_count s d rfl 1 F.FRM_SYNC_COUNT_OUT_WINDOW 0 0 0,
      quiet_of_outerParts rfl, rfl⟩
  · obtain ⟨hclean, htook⟩ := accepted e fun x => { x with
      coarse := false, seen := true, coarseLen := some ((s.dev.chip.frm.active * 128 : Nat) + (e : Int)).toNat }
    exact ⟨_, run (edge_coarse hb hx hc) hclean, htook, rfl, rfl⟩


/-! ## The other events -/

/-- Bits set in a register read as set. -/
theorem bitsOf_or_mask (v : Word) {lo w : Nat} (h : lo + w ≤ 32) :
    bitsOf (v ||| BitVec.ofNat 32 ((2 ^ w - 1) * 2 ^ lo)).toNat lo w = 2 ^ w - 1 := by
  have hlt : (2 ^ w - 1) * 2 ^ lo < 2 ^ 32 := calc
    (2 ^ w - 1) * 2 ^ lo < 2 ^ w * 2 ^ lo := Nat.mul_lt_mul_of_pos_right (Nat.sub_lt (Nat.two_pow_pos w) Nat.one_pos) (Nat.two_pow_pos lo)
    _ = 2 ^ (lo + w) := by rw [← Nat.pow_add, Nat.add_comm]
    _ ≤ 2 ^ 32 := Nat.pow_le_pow_right Nat.two_pos h
  apply Nat.eq_of_testBit_eq
  intro b
  rw [bitsOf, BitVec.toNat_or, BitVec.toNat_ofNat, Nat.mod_eq_of_lt hlt]
  by_cases hb : b < w <;>
    simp [Nat.testBit_mod_two_pow, Nat.testBit_mul_two_pow, Nat.testBit_two_pow_sub_one, hb]

/-- An event stands among those of the frame (R9). -/
theorem flagged_flag {t : State} {d : Dev} {f : Fld} {i e sel : Nat} (ht : t.dev.ev = (d.flag f i e sel).ev) (hf : f.lo + f.w ≤ 32) :
    flagged t f i e sel := by
  simp only [flagged, ht, Dev.flag, Tab.get_upd, if_true]
  exact bitsOf_or_mask _ hf

/-- What a trigger changes: the snapshot controller, or the count of missed ones (R69). -/
theorem fire_eq (d : Dev) (src cls : Nat) : ∃ sn cnt tot, d.fire src cls = { d with chip := { d.chip with snap := sn }, cnt, tot }
    ∧ ∀ k, k ≠ cntKey F.SNAP_MISSED 0 0 0 → Tab.get {} cnt k = Tab.get {} d.cnt k := by
  unfold Dev.fire
  split
  · exact ⟨_, _, _, rfl, fun _ _ => rfl⟩
  · split
    · exact ⟨_, _, _, rfl, fun _ _ => rfl⟩
    · exact ⟨_, _, _, rfl, fun k hk => by simp [Tab.get_upd, hk]⟩

/-- What an error event changes: the events, and what it fires of snapshots (R69, R441). -/
theorem log_eq (d : Dev) (e : LogEv) : ∃ i sn cnt tot, d.log e = { d with chip := { d.chip with integ := i, snap := sn }, cnt, tot }
    ∧ (∀ k, k ≠ cntKey F.SNAP_MISSED 0 0 0 → Tab.get {} cnt k = Tab.get {} d.cnt k)
    ∧ (d.chip.boot.warm = false → i.events = addEvent { e with frame := d.chip.frm.cur } d.chip.integ.events) := by
  unfold Dev.log
  split
  · next hw => exact ⟨_, _, _, _, rfl, fun _ _ => rfl, fun h => absurd hw (by simp [h])⟩
  · extract_lets e' d'
    split
    · obtain ⟨sn, cnt, tot, h, hk⟩ := fire_eq d' 2 e'.cls
      exact ⟨_, sn, cnt, tot, h, hk, fun _ => rfl⟩
    · exact ⟨_, _, _, _, rfl, fun _ _ => rfl, fun _ => rfl⟩

/-- Losing alignment (R60, R63, R419). -/
theorem setSyncLost_eq (d : Dev) (st : SyncSt) : ∃ irq, (0, 3) ∈ irq ∧
    d.setSyncLost st = Dev.log { (d.onSync fun x => { x with st, syncLost := true, clearLost := false, good := 0 }).flag
      F.FRM_INT_STATUS_SYNC_LOST with irq } { cls := clsSync, kind := 0, index := 0 } := by
  obtain ⟨irq, h, hmem⟩ := msixReq_eq ((d.onSync fun x => { x with st, syncLost := true, clearLost := false, good := 0 }).flag
    F.FRM_INT_STATUS_SYNC_LOST) 0 3
  exact ⟨irq, hmem, congrArg (fun d => Dev.log d { cls := clsSync, kind := 0, index := 0 }) h⟩

/-- A quarantine that ends leads to ACQUIRING (R63). -/
theorem syncFrame_quarantined (d : Dev) (hst : d.chip.frm.sync.st = .quarantined) (hleft : d.chip.frm.sync.quarLeft ≤ 1) :
    d.syncFrame.chip.frm.sync.st = .acquiring ∧ d.syncFrame.chip.frm.sync.missFrames = 0 := by
  unfold Dev.syncFrame
  extract_lets d₁ x dq d₂ ended
  have h₁ : x.st = .quarantined ∧ x.quarLeft ≤ 1 := by
    unfold x d₁
    split <;> exact ⟨hst, hleft⟩
  have h₂ : d₂ = d₁.endQuarantine := by
    simp [d₂, h₁, SyncSt.accepts, Sync.missing]
  have hended : ended = true := by simp [ended, h₁]
  rw [h₂, hended]
  simp [Dev.endQuarantine]

section
variable {q arrival master tx depth flags snap : Nat} {d : Dev} (hup : d.chip.portUp q = true) (hc : (d.chip.port q).carrying = true)
include hup hc

/-- The port that alignment follows; the timing master follows none (R63, R65). -/
def tickSelected (c : Chip) (q : Nat) : Prop :=
  c.fld F.FRM_SYNC_CTL_SRC = 2 ∧ c.fld F.FRM_SYNC_CTL_PORT = q ∧ c.fld F.FRM_SYNC_CTL_MASTER = 0

theorem tick_unselected (hm : ¬ tickSelected d.chip q) (h0 : bitOf flags 0 = true) : tick q arrival master tx depth flags snap d = d := by
  have hmine : (d.chip.fld F.FRM_SYNC_CTL_SRC = 2 && d.chip.fld F.FRM_SYNC_CTL_PORT = q && d.chip.fld F.FRM_SYNC_CTL_MASTER = 0) = false := by
    simpa [tickSelected, and_assoc] using hm
  simp [tick, hup, hc, h0, hmine]

theorem tick_ignored (hm : ¬ tickSelected d.chip q) (h0 : bitOf flags 0 = false) (h1 : bitOf flags 1 = false) :
    tick q arrival master tx depth flags snap d = d.count F.PCH_PORT_TICK_IGN 1 (portDie q) (q % 3) := by
  have hmine : (d.chip.fld F.FRM_SYNC_CTL_SRC = 2 && d.chip.fld F.FRM_SYNC_CTL_PORT = q && d.chip.fld F.FRM_SYNC_CTL_MASTER = 0) = false := by
    simpa [tickSelected, and_assoc] using hm
  simp [tick, hup, hc, h0, h1, hmine, Dev.countPort]

/-- A tick of the selected port is an edge at its arrival less TX_OFFSET and the link's delay (R58, R386). -/
theorem tick_edge (hm : tickSelected d.chip q) (h0 : bitOf flags 0 = true) (hs : bitOf flags 2 = false)
    (hf : d.chip.frm.sync.setOffset = false) : tick q arrival master tx depth flags snap d =
      ((d.onSync fun x => { x with depth := depth % 256, tickSnap := none }).edge ((arrival : Int) - tx - (d.chip.port q).delay)).2 := by
  obtain ⟨hsrc, hport, hmaster⟩ := hm
  have hmine : (d.chip.fld F.FRM_SYNC_CTL_SRC = 2 && d.chip.fld F.FRM_SYNC_CTL_PORT = q && d.chip.fld F.FRM_SYNC_CTL_MASTER = 0) = true := by
    simp [hsrc, hport, hmaster]
  simp only [tick, hup, hc, h0, hs, hmine, if_true, if_false, Bool.not_true, Bool.false_eq_true, or_self, Bool.true_or, true_or]
  split
  · next k d' he =>
    rw [he]
    exact if_neg (by simp [hf])
  · next d' he => rw [he]

/-- In the first window of the running frame's threshold it is accepted as an edge is (R58). -/
theorem tick_accepted (hm : tickSelected d.chip q) (h0 : bitOf flags 0 = true) (hs : bitOf flags 2 = false)
    (hf : d.chip.frm.sync.setOffset = false) (hb : d.chip.frm.begun = true) (hx : d.chip.frm.sync.st.accepts = true)
    (hco : d.chip.frm.sync.coarse = false) (hseen : d.chip.frm.sync.seen = false) (hcame : d.chip.frm.sync.came = false) {e : Int}
    (he : (arrival : Int) - tx - (d.chip.port q).delay = e) (hlo : -256 ≤ e) (hhi : e ≤ 256) :
    ∃ ev, tick q arrival master tx depth flags snap d = { d.onSync fun x => { x.accept e with
      depth := depth % 256, tickSnap := none, seen := true, step := edgeStep e } with ev } := by
  let d' := d.onSync fun x => { x with depth := depth % 256, tickSnap := none }
  obtain ⟨ev, hev⟩ := acceptEdge_eq d' e
  have hedge : d'.edge e = (some 0, (d'.acceptEdge e).onSync fun x => { x with seen := true, step := edgeStep e }) :=
    edge_first hb hx hco hlo hhi hseen hcame
  refine ⟨ev, ?_⟩
  rw [tick_edge hup hc hm h0 hs hf, he, hedge, hev]
  rfl

end

/-- Alignment as the loss of REFCLK suspends it (R61, R63). -/
def Sync.suspend (x : Sync) : Sync :=
  { x with
    st := if x.st = .off then .off else .holdover
    good := 0
    quarLeft := 0
    came := x.came || x.seen
    cameNext := x.cameNext || x.seenNext
    seen := false
    seenNext := false
    stepNext := 0 }

/-! What the writes of FRM_SYNC_CTL stage (R62, R63, R76). -/

theorem srcWrite_eq (d : Dev) (t : Nat) {src : Nat} (h : src < 3) :
    srcWrite .pf t src d = d.stage .pf t F.FRM_SYNC_CTL_SRC.key F.FRM_SYNC_CTL_SRC.mask src := by
  interval_cases src <;> rfl

theorem coarseWrite_free {d : Dev} (t : Nat) (h : d.chip.loadedRooms = []) :
    coarseWrite .pf t d = d.stage .pf t F.FRM_SYNC_CTL_SRC.key 0x40 0x40 := by
  have hbit : bitOf (0x40 &&& 0x40) 6 = true := by decide
  simp only [coarseWrite, syncCtlWrite, h, hbit]
  rfl

theorem coarseWrite_loaded {d : Dev} (t : Nat) (h : d.chip.loadedRooms ≠ []) :
    coarseWrite .pf t d = d.badWrite.stage .pf t F.FRM_SYNC_CTL_SRC.key 0 0x40 := by
  have hbit : bitOf (0x40 &&& 0x40) 6 = true := by decide
  simp only [coarseWrite, syncCtlWrite, hbit, decide_eq_true h]
  rfl

/-- Settles O27: each event is its case; vector 3 whatever FRM_INT_EN holds, the source of the entry of the loss, and starting again are the
model's choice (logs 135, 79, 84). -/
theorem alignmentEvents : Obligations.AlignmentEvents := by
  unfold Obligations.AlignmentEvents
  intro s t0 src hr x y only
  let d : Dev := { s.dev with out := [] }
  have hd : d.Clean := hr.clean
  have run {k : Dev → Dev} {e : Dev} (hk : k d = e) (hw : e.wr = d.wr := by rfl) (hu : e.injUsed = d.injUsed := by rfl) :
      runs s k = .next { s with dev := e } := runs_of_clean hr.2 hk (hd.congr hw hu)
  refine ⟨fun hsrc => ?_, fun hroom => ?_, fun hroom => ?_, fun hst hseen hmiss => ?_, fun hst hleft => ?_, syncFrame_quarantined, ?_,
    fun hhold hoff => ?_, ⟨_, run rfl, quiet_of_outerParts rfl, rfl⟩, fun hhold hlock => ?_, ⟨_, run rfl, quiet_of_outerParts rfl, rfl⟩⟩
  · exact ⟨_, run (srcWrite_eq d t0 hsrc), rfl⟩
  · exact ⟨_, run (coarseWrite_free t0 hroom), rfl⟩
  · refine ⟨_, run (coarseWrite_loaded t0 hroom), flagged_flag (d := d) rfl (by decide), rfl, fun k hk => ?_⟩
    exact (List.mem_append.mp hk).imp_right fun h => congrArg Staged.mask (List.mem_singleton.mp h)
  · have hmissing : d.chip.frm.sync.missing = true := by
      simp only [Sync.missing, Bool.and_eq_true, Bool.not_eq_true', decide_eq_true_eq, Bool.or_eq_true]
      exact ⟨⟨hst, hseen⟩, hmiss⟩
    obtain ⟨irq, hirq, hset⟩ := setSyncLost_eq d .lost
    obtain ⟨i, sn, cnt, tot, hlog, -, hev⟩ := log_eq _ _
    exact ⟨_, run ((if_pos hmissing).trans (hset.trans hlog)), rfl, rfl, hirq, flagged_flag (d := d) rfl (by decide),
      hev, rfl, quiet_of_outerParts rfl⟩
  · exact ⟨_, run (if_pos ⟨hst, hleft⟩), hst, rfl, rfl, quiet_of_outerParts rfl⟩
  · intro q arrival master tx depth flags snap hup hc hs mine e
    refine ⟨fun hm h0 => ⟨_, run (tick_unselected hup hc hm h0), rfl⟩, fun hm h0 hset hco hacc hb hseen hcame _ hlo hhi => ?_,
      fun hm h0 h1 => ⟨_, run (tick_ignored hup hc hm h0 h1), counted_count s d rfl 1 _ _ _ 0, quiet_of_outerParts rfl, rfl⟩⟩
    obtain ⟨ev, hk⟩ := tick_accepted (arrival := arrival) (master := master) (tx := tx) (depth := depth) (snap := snap) (d := d)
      hup hc hm h0 hs hset hb hacc hco hseen hcame rfl hlo hhi
    exact ⟨_, run hk, rfl, rfl, rfl, rfl, rfl, quiet_of_outerParts rfl⟩
  · obtain ⟨i, sn, cnt, tot, hlog, hcnt, hev⟩ := log_eq (((d.onPwr fun p => { p with
      refclkOk := false, holdover := true, relocking := false }).onSync Sync.suspend).count F.PWR_REFCLK_LOSSES |>.flag
      F.PWR_INT_STATUS_REFCLK_LOST) { cls := clsPower, kind := 0, index := 0 }
    have hk : refclkLost d = _ := (if_neg (by simp [d, hhold])).trans hlog
    refine ⟨_, run hk, if_neg hoff, rfl, rfl, ?_, flagged_flag rfl (by decide), hev, rfl, quiet_of_outerParts rfl⟩
    exact (congrArg Cnt.n (hcnt (cntKey F.PWR_REFCLK_LOSSES 0 0 0) (by decide))).trans (counted_count s d rfl 1 F.PWR_REFCLK_LOSSES 0 0 0)
  · have hk : holdoverEnd d = _ := if_pos (by simp [d, hhold, hlock])
    exact ⟨_, run hk, flagged_flag rfl (by decide), quiet_of_outerParts rfl, rfl⟩

end Sys2Proof.Claims
end

section
/-! PROOF. The threshold (R44, R54, R521 to R527): what of the device its parts leave alone. -/

namespace Sys2Proof.Machine

open Host

/-! ## The course of the frames -/

/-- What of the device only the threshold itself, publication and the hardware trip change: the frame in the run of frames, what is
published, and whether the module has tripped. -/
structure Course where
  begun : Bool
  cur : Nat
  commit : Nat
  published : Bool
  safe : Bool
  time : Nat
  pub : Chip
  tripped : Bool

/-- The course of a device. -/
def Dev.course (d : Dev) : Course :=
  { begun := d.chip.frm.begun, cur := d.chip.frm.cur, commit := d.chip.frm.commit, published := d.chip.frm.published, safe := d.chip.frm.safe
    time := d.chip.frm.time, pub := d.pub, tripped := d.chip.thm.tripped }

theorem Dev.course_ite {p : Prop} [Decidable p] (d e : Dev) : (if p then d else e).course = if p then d.course else e.course :=
  apply_ite Dev.course p d e

theorem Dev.course_foldl {α : Type} {f : Dev → α → Dev} (h : ∀ d a, (f d a).course = d.course) (l : List α) (d : Dev) :
    (l.foldl f d).course = d.course := foldl_kept Dev.course h l d

theorem Dev.course_onChip {d : Dev} {g : Chip → Chip} (hf : (g d.chip).frm = d.chip.frm)
    (ht : (g d.chip).thm.tripped = d.chip.thm.tripped) : (d.onChip g).course = d.course := by
  simp [Dev.course, hf, ht]

/-! Every part of the threshold but those leaves the course, each by the lemmas of the parts that it is made of, in the order of the
model. (A proof `by rfl`, unlike `rfl`, leaves its lemma one that rewrites under the hypothesis of `Dev.course_foldl`.) -/

/-! ### Access to the state -/

theorem Dev.course_memOp (d : Dev) (o : MemOp) : (d.memOp o).course = d.course := by rfl

theorem Dev.course_setFld (d : Dev) (f : Fld) (v i e sel : Nat) : (d.setFld f v i e sel).course = d.course := by rfl

theorem Dev.course_flag (d : Dev) (f : Fld) (i e sel : Nat) : (d.flag f i e sel).course = d.course := by rfl

theorem Dev.course_flagMask (d : Dev) (f : Fld) (mask i e sel : Nat) : (d.flagMask f mask i e sel).course = d.course := by rfl

theorem Dev.course_count (d : Dev) (f : Fld) (n i e sel : Nat) : (d.count f n i e sel).course = d.course := by rfl

theorem Dev.course_observe (d : Dev) (f : Fld) (v i e sel : Nat) : (d.observe f v i e sel).course = d.course := by rfl

theorem Dev.course_msixReq (d : Dev) (fn vec : Nat) : (d.msixReq fn vec).course = d.course := by
  unfold Dev.msixReq
  split <;> rfl

theorem Dev.course_emit (d : Dev) (o : Out) : (d.emit o).course = d.course := by rfl

theorem Dev.course_fresh (d : Dev) : d.fresh.2.course = d.course := by rfl

theorem Dev.course_fire (d : Dev) (src cls : Nat) : (d.fire src cls).course = d.course := by
  simp only [Dev.fire, Dev.course_onChip, Dev.course_count, Dev.course_ite, ite_self]

theorem Dev.course_log (d : Dev) (e : LogEv) : (d.log e).course = d.course := by
  simp only [Dev.log, Dev.course_onChip, Dev.course_fire, Dev.course_ite, ite_self]

theorem Dev.course_log3 (d : Dev) (cls kind index room : Nat) : (d.log3 cls kind index room).course = d.course := by
  simp only [Dev.log3, Dev.course_log]

theorem Dev.course_chanErr (d : Dev) (cls index : Nat) : (d.chanErr cls index).course = d.course := by
  simp only [Dev.chanErr, Dev.course_onChip]

theorem Dev.course_chanChecked (d : Dev) (cls index : Nat) : (d.chanChecked cls index).course = d.course := by
  simp only [Dev.chanChecked, Dev.course_onChip]

theorem Dev.course_appendRetire (d : Dev) (type cause index data : Nat) : (d.appendRetire type cause index data).course = d.course := by
  simp only [Dev.appendRetire, Dev.course_fresh, Dev.course_log3, Dev.course_flag, Dev.course_onChip, Dev.course_ite, ite_self]

theorem Dev.course_failRoom (d : Dev) (room cause : Nat) : (d.failRoom room cause).course = d.course := by
  unfold Dev.failRoom
  split <;> rfl

theorem Dev.course_useInj (d : Dev) (i : Inj) : (d.useInj i).course = d.course := Dev.course_log _ _

/-! ### Operands and cores -/

theorem Dev.course_onCore (d : Dev) (n : Nat) (f : Core → Core) : (d.onCore n f).course = d.course := by rfl

theorem Dev.course_onRow (d : Dev) (r : Nat) (f : Row → Row) : (d.onRow r f).course = d.course := by rfl

/-! ### Pantries -/

theorem Dev.course_onTow (d : Dev) (f : Towers → Towers) : (d.onTow f).course = d.course := by rfl

theorem Dev.course_mark (d : Dev) (key : Nat) (b : Bool) : (d.mark key b).course = d.course := by
  simp only [Dev.mark, Dev.course_onTow]

theorem Dev.course_huskWord (d : Dev) (key : Nat) (rec : List Byte) : (d.huskWord key rec).course = d.course := by
  simp only [Dev.huskWord, Dev.course_memOp, Dev.course_mark]

theorem Dev.course_eccWord (d : Dev) (core w : Nat) : (d.eccWord core w).course = d.course := by
  simp only [Dev.eccWord]
  split <;> simp only [Dev.course_huskWord, Dev.course_flag, Dev.course_count, Dev.course_log, Dev.course_onTow]

theorem Dev.course_readWords (d : Dev) (core a n : Nat) : (d.readWords core a n).course = d.course := by
  simp only [Dev.readWords, Dev.course_eccWord, Dev.course_foldl, implies_true]

theorem Dev.course_withWr (d : Dev) (l : List MemOp) : ({ d with wr := l } : Dev).course = d.course := by rfl

theorem Dev.course_pantryWrite (d : Dev) (core a : Nat) (l : List (Option Byte)) : (d.pantryWrite core a l).course = d.course := by
  rw [Dev.pantryWrite]
  refine (Dev.course_withWr _ _).trans ?_
  refine Dev.course_foldl (fun d w => ?_) _ _
  simp only [Dev.course_ite, Dev.course_mark, Dev.course_eccWord, ite_self]

theorem Dev.course_hrxWord (d : Dev) (core w : Nat) (bs : List Byte) (husk : Bool) : (d.hrxWord core w bs husk).course = d.course := by
  simp only [Dev.hrxWord, Dev.course_memOp, Dev.course_mark]

theorem Dev.course_clearSlice (d : Dev) (core : Nat) : (d.clearSlice core).course = d.course := by
  simp only [Dev.clearSlice, Dev.course_memOp, Dev.course_onTow]

/-! ### Bundles, lanes and latches -/

theorem Dev.course_onHall (d : Dev) (f : Hall → Hall) : (d.onHall f).course = d.course := by rfl

theorem Dev.course_onBundle (d : Dev) (b : Nat) (f : Bundle → Bundle) : (d.onBundle b f).course = d.course := by rfl

theorem Dev.course_onLatch (d : Dev) (ep l : Nat) (f : Latch → Latch) : (d.onLatch ep l f).course = d.course := by rfl

theorem Dev.course_onRoom (d : Dev) (r : Nat) (f : Room → Room) : (d.onRoom r f).course = d.course := by rfl

theorem Dev.course_renumberRoom (d : Dev) (i : Image) : (d.renumberRoom i).course = d.course := by
  simp only [Dev.renumberRoom, Dev.course_onBundle, Dev.course_ite, Dev.course_foldl, ite_self, implies_true]

theorem Dev.course_setFolds (d : Dev) (room : Nat) (fs : List Fold) : (d.setFolds room fs).course = d.course := by
  simp only [Dev.setFolds, Dev.course_flag, Dev.course_onHall, Dev.course_ite, ite_self]

theorem Dev.course_enterProg {d e : Dev} {room : Nat} {i : Image} {x y : Exec} {b : Option Step} (h : d.enterProg room i x b = some (y, e)) :
    e.course = d.course := by
  unfold Dev.enterProg at h
  split at h
  · cases h
  · split at h
    · cases h
      exact Dev.course_setFolds _ _ _
    · split at h
      · cases h
        simp only [Dev.course_flag, Dev.course_renumberRoom, Dev.course_setFolds]
      · cases h

theorem Dev.course_retireLine (d : Dev) (bn line cause : Nat) : (d.retireLine bn line cause).course = d.course := by
  simp only [Dev.retireLine, Dev.course_onBundle, Dev.course_flag, Dev.course_onHall, Dev.course_log, Dev.course_appendRetire, Dev.course_ite,
    ite_self]

theorem Dev.course_decideRetire (d : Dev) (bn line due cause : Nat) : (d.decideRetire bn line due cause).course = d.course := by
  simp only [Dev.decideRetire, Dev.course_onHall, Dev.course_ite, ite_self]

/-! ### Staged writes -/

theorem Dev.course_onCal (d : Dev) (f : Calib → Calib) : (d.onCal f).course = d.course := by rfl

theorem Dev.course_calStart (d : Dev) (kind unit : Nat) : (d.calStart kind unit).course = d.course := by
  simp only [Dev.calStart, Dev.course_onCal, Dev.course_ite, ite_self]

theorem Dev.course_badWrite (d : Dev) : d.badWrite.course = d.course := by
  simp only [Dev.badWrite, Dev.course_flag]

/-! ### Repair -/

theorem Dev.course_retireRow (d : Dev) (w cause : Nat) : (d.retireRow w cause).course = d.course := by
  simp only [Dev.retireRow, Dev.course_onRow, Dev.course_onTow, Dev.course_log, Dev.course_appendRetire, Dev.course_ite, ite_self]

theorem Dev.course_repairRow (d : Dev) (cause w : Nat) : (d.repairRow cause w).course = d.course := by
  simp only [Dev.repairRow, Dev.course_retireRow, Dev.course_flag, Dev.course_onRow, Dev.course_onTow, Dev.course_log3, Dev.course_appendRetire,
    Dev.course_ite, Dev.course_foldl, ite_self, implies_true]

/-! ### Rooms -/

theorem Dev.course_dueReset (d : Dev) (r cause : Nat) : (d.dueReset r cause).course = d.course := by
  simp only [Dev.dueReset, Dev.course_onRoom]

theorem course_commitCore (core frameNs : Nat) (d : Dev) : (commitCore core frameNs d).course = d.course := by
  simp only [commitCore, Dev.course_observe, Dev.course_onCore, Dev.course_ite, ite_self]

theorem course_judgeRoom (m : Nat) (d : Dev) (r : Nat) : (judgeRoom m d r).course = d.course := by
  simp only [judgeRoom, Dev.course_onRoom, Dev.course_log, Dev.course_onChip, course_commitCore, Dev.course_ite, Dev.course_foldl, ite_self,
    implies_true]

theorem Dev.course_roomTo (d : Dev) (r : Nat) (st : RoomSt) (cause : Nat) : (d.roomTo r st cause).course = d.course := by
  unfold Dev.roomTo
  split <;> rfl

theorem Dev.course_cancelSwitch (d : Dev) (r : Nat) (transit : Bool) : (d.cancelSwitch r transit).course = d.course := by
  simp only [Dev.cancelSwitch, Dev.course_flag, Dev.course_onRoom, Dev.course_ite, ite_self]

theorem Dev.course_haltRoom (d : Dev) (r cause : Nat) : (d.haltRoom r cause).course = d.course := by
  simp only [Dev.haltRoom, Dev.course_cancelSwitch, Dev.course_roomTo, Dev.course_onRoom, Dev.course_flag, Dev.course_ite, ite_self]

theorem Dev.course_clearBarriers (d : Dev) (r : Nat) : (d.clearBarriers r).course = d.course := by
  simp only [Dev.clearBarriers, Dev.course_onTow]

theorem Dev.course_resetRoom (d : Dev) (r cause : Nat) : (d.resetRoom r cause).course = d.course := by
  simp only [Dev.resetRoom, Dev.course_cancelSwitch, Dev.course_onCore, Dev.course_clearBarriers, Dev.course_onTow, Dev.course_onHall,
    Dev.course_onChip, Dev.course_onRoom, Dev.course_flag, Dev.course_roomTo, Dev.course_log, Dev.course_foldl, implies_true]

theorem Dev.course_resumeRoom (d : Dev) (r : Nat) : (d.resumeRoom r).course = d.course := by
  simp only [Dev.resumeRoom, Dev.course_roomTo, Dev.course_onRoom, Dev.course_flag, Dev.course_ite, ite_self]

theorem course_roomStep1 {f : Nat → Nat → Dev → Dev} (h : ∀ r c d, (f r c d).course = d.course) (d : Dev) (r : Nat) :
    (roomStep1 f d r).course = d.course := by
  simp only [roomStep1, Dev.course_onRoom, Dev.course_ite, Dev.course_resumeRoom, Dev.course_haltRoom, h, ite_self]

theorem Dev.course_startZero (d : Dev) (i : Image) : (d.startZero i).course = d.course := by
  simp only [Dev.startZero, Dev.course_clearSlice, Dev.course_onCore, Dev.course_foldl, implies_true]

theorem Dev.course_startInit (d : Dev) (i : Image) : (d.startInit i).course = d.course := by
  simp only [Dev.startInit, Dev.course_pantryWrite, Dev.course_foldl, implies_true]

theorem Dev.course_nextStep (d : Dev) (r : Nat) : (d.nextStep r).course = d.course := by
  unfold Dev.nextStep
  split <;> rfl

theorem Dev.course_haltUnfit (d : Dev) (r : Nat) : (d.haltUnfit r).course = d.course := by
  simp only [Dev.haltUnfit, Dev.course_onRoom, Dev.course_nextStep, Dev.course_haltRoom, Dev.course_flag, Dev.course_ite, ite_self]

theorem Dev.course_enter (d : Dev) (r : Nat) (i : Image) (x : Exec) (before : Option Step) (transit : Bool) (target : Nat × Nat) :
    (d.enter r i x before transit target).course = d.course := by
  unfold Dev.enter
  split
  · exact Dev.course_haltUnfit _ _
  · next h => exact (Dev.course_onRoom _ _ _).trans (Dev.course_enterProg h)

theorem Dev.course_switchDone (d : Dev) (r : Nat) : (d.switchDone r).course = d.course := by
  simp only [Dev.switchDone, Dev.course_count, Dev.course_flag, Dev.course_onRoom]

theorem Dev.course_performSwitch (d : Dev) (r : Nat) (i : Image) (slot phase : Nat) : (d.performSwitch r i slot phase).course = d.course := by
  simp only [Dev.performSwitch, Dev.course_onRoom, Dev.course_enter, Dev.course_haltUnfit, Dev.course_switchDone, Dev.course_ite, ite_self]

theorem Dev.course_takeSwitch (d : Dev) (r : Nat) (i : Image) (slot phase : Nat) : (d.takeSwitch r i slot phase).course = d.course := by
  unfold Dev.takeSwitch
  split <;> simp only [Dev.course_flag, Dev.course_onRoom, Dev.course_switchDone, Dev.course_ite, ite_self]

theorem Dev.course_startRun (d : Dev) (r : Nat) (i : Image) : (d.startRun r i).course = d.course := by
  simp only [Dev.startRun, Dev.course_enter, Dev.course_onRoom, Dev.course_roomTo, Dev.course_ite, ite_self]

theorem Dev.course_startPinned (d : Dev) (r : Nat) (i : Image) : (d.startPinned r i).course = d.course := by
  simp only [Dev.startPinned]
  split <;> simp only [Dev.course_onRoom, Dev.course_enter, Dev.course_startRun]

theorem Dev.course_startStep3 (d : Dev) (r : Nat) (i : Image) : (d.startStep3 r i).course = d.course := by
  simp only [Dev.startStep3, Dev.course_onRoom, Dev.course_startZero]

theorem Dev.course_imageLost (d : Dev) (r : Nat) : (d.imageLost r).course = d.course := by
  simp only [Dev.imageLost, Dev.course_flag, Dev.course_onRoom]

theorem Dev.course_startNext (d : Dev) (r : Nat) (i : Image) (f : RoomFacts) : (d.startNext r i f).course = d.course := by
  simp only [Dev.startNext, Dev.course_startStep3, Dev.course_repairRow, Dev.course_onRoom, Dev.course_imageLost, Dev.course_startPinned,
    Dev.course_startInit, Dev.course_ite, Dev.course_foldl, ite_self, implies_true]

theorem Dev.course_advanceRoom (d : Dev) (r : Nat) (i : Image) : (d.advanceRoom r i).course = d.course := by
  unfold Dev.advanceRoom
  dsimp only
  (repeat' split) <;> simp only [Dev.course_onRoom, Dev.course_startPinned, Dev.course_enter, Dev.course_switchDone, Dev.course_performSwitch]

theorem Dev.course_advanceHalted (d : Dev) (r : Nat) (i : Image) : (d.advanceHalted r i).course = d.course := by
  simp only [Dev.advanceHalted, Dev.course_nextStep, Dev.course_advanceRoom, Dev.course_onRoom, Dev.course_ite, ite_self]

theorem course_roomStep6 (f : RoomFacts) (d : Dev) (r : Nat) : (roomStep6 f d r).course = d.course := by
  unfold roomStep6
  dsimp only
  (repeat' split) <;> simp only [Dev.course_flag, Dev.course_onRoom, Dev.course_takeSwitch, Dev.course_roomTo, Dev.course_startNext,
    Dev.course_advanceRoom, Dev.course_advanceHalted]

theorem course_startCore (t : Step) (e : CoreE) (c : Nat) (d : Dev) : (startCore t e c d).course = d.course := by
  simp only [startCore, Dev.course_onCore]

theorem course_roomStep7 (held : Nat → Bool) (d : Dev) (r : Nat) : (roomStep7 held d r).course = d.course := by
  unfold roomStep7
  dsimp only
  (repeat' split) <;> simp only [Dev.course_onRoom, Dev.course_onLatch, Dev.course_onCore, course_startCore, Dev.course_foldl, implies_true]

theorem course_effectRoomCtl (n value : Nat) (d : Dev) : (effectRoomCtl n value d).course = d.course := by
  simp only [effectRoomCtl, Dev.course_onRoom]

theorem course_effectSwitch (n value : Nat) (d : Dev) : (effectSwitch n value d).course = d.course := by
  simp only [effectSwitch, Dev.course_onRoom, Dev.course_ite, ite_self]

/-! ### Queues -/

theorem Dev.course_onQueues (d : Dev) (f : Queues → Queues) : (d.onQueues f).course = d.course := by
  simp only [Dev.onQueues, Dev.course_onChip, Dev.course_flag, Dev.course_ite, ite_self]

theorem Dev.course_onQueue (d : Dev) (q : Nat) (f : Queue → Queue) : (d.onQueue q f).course = d.course := by
  simp only [Dev.onQueue, Dev.course_onQueues]

theorem Dev.course_rewound (d : Dev) (q n : Nat) : (d.rewound q n).course = d.course := by
  simp only [Dev.rewound, Dev.course_flag, Dev.course_count, Dev.course_ite, ite_self]

theorem Dev.course_queueDrop (d : Dev) (q frame : Nat) : (d.queueDrop q frame).course = d.course := by
  simp only [Dev.queueDrop, Dev.course_onQueue, Dev.course_flag, Dev.course_count]

theorem Dev.course_rewindBuild (d : Dev) (q : Nat) (keep : Bool) : (d.rewindBuild q keep).course = d.course := by
  unfold Dev.rewindBuild
  split <;> simp only [Dev.course_rewound, Dev.course_onQueue, Dev.course_ite, ite_self]

theorem Dev.course_streamData (d : Dev) (q frame source : Nat) (first last good : Bool) (dat : List Byte) :
    (d.streamData q frame source first last good dat).course = d.course := by
  unfold Dev.streamData
  dsimp only
  (repeat' split) <;> simp only [Dev.course_onQueue, Dev.course_rewound, Dev.course_onQueues, Dev.course_queueDrop]

theorem Dev.course_streamWalk (d : Dev) (q frame : Nat) (src : Nat → Nat) (whole : Nat → Bool) (fuel o : Nat) (l : List (Byte × Bool)) :
    (d.streamWalk q frame src whole fuel o l).course = d.course := by
  induction fuel generalizing d o l with
  | zero => rfl
  | succ fuel ih => simp only [Dev.streamWalk, ih, Dev.course_ite, Dev.course_rewindBuild, Dev.course_streamData, ite_self]

theorem Dev.course_queueStream (d : Dev) (q : Nat) : (d.queueStream q).course = d.course := by
  simp only [Dev.queueStream, Dev.course_onQueue, Dev.course_streamWalk]

theorem Dev.course_takeStreams (d : Dev) (q : Nat) : (d.takeStreams q).course = d.course := by
  simp only [Dev.takeStreams, Dev.course_queueStream, Dev.course_onQueue]

theorem Dev.course_judgePkt (m q : Nat) (d : Dev) (p : Pkt) : (Dev.judgePkt m q d p).course = d.course := by
  simp only [Dev.judgePkt, Dev.course_onQueue, Dev.course_onQueues, Dev.course_rewound, Dev.course_ite, ite_self]

theorem Dev.course_commitQueues (d : Dev) (m : Nat) : (d.commitQueues m).course = d.course := by
  simp only [Dev.commitQueues, Dev.course_queueStream, Dev.course_judgePkt, Dev.course_onQueue, Dev.course_ite, Dev.course_foldl, ite_self,
    implies_true]

theorem Dev.course_releaseQueues (d : Dev) (m : Nat) : (d.releaseQueues m).course = d.course := by
  simp only [Dev.releaseQueues, Dev.course_onQueue, Dev.course_ite, Dev.course_foldl, ite_self, implies_true]

theorem Dev.course_resetQueues (d : Dev) (r : Nat) : (d.resetQueues r).course = d.course := by
  simp only [Dev.resetQueues, Dev.course_takeStreams, Dev.course_rewound, Dev.course_rewindBuild, Dev.course_onQueue, Dev.course_ite,
    Dev.course_foldl, ite_self, implies_true]

theorem Dev.course_discardQueue (d : Dev) (q : Nat) : (d.discardQueue q).course = d.course := by
  simp only [Dev.discardQueue, Dev.course_takeStreams, Dev.course_rewound, Dev.course_rewindBuild, Dev.course_onQueue]

theorem Dev.course_enableQueue (d : Dev) (q fn : Nat) : (d.enableQueue q fn).course = d.course := by
  simp only [Dev.enableQueue, Dev.course_onQueue, Dev.course_setFld, Dev.course_ite, ite_self]

theorem Dev.course_disableQueue (d : Dev) (q : Nat) : (d.disableQueue q).course = d.course := by
  simp only [Dev.disableQueue, Dev.course_discardQueue, Dev.course_setFld, Dev.course_ite, ite_self]

theorem Dev.course_cellUpsets (d : Dev) (l : List (Nat × Nat × Nat)) : (d.cellUpsets l).course = d.course := by
  simp only [Dev.cellUpsets, Dev.course_onQueues, Dev.course_ite, ite_self]

theorem Dev.course_sendMsix (d : Dev) (fn vec : Nat) : (d.sendMsix fn vec).course = d.course := by
  unfold Dev.sendMsix
  split <;> rfl

theorem Dev.course_publishQueues (d : Dev) (n : Nat) : (d.publishQueues n).course = d.course := by
  simp only [Dev.publishQueues, Dev.course_emit, Dev.course_sendMsix, Dev.course_onQueue, Dev.course_ite, Dev.course_foldl, ite_self, implies_true]

theorem Dev.course_handQueue (d : Dev) (q cap : Nat) : (d.handQueue q cap).course = d.course := by
  simp only [Dev.handQueue, Dev.course_onQueue, Dev.course_rewound, Dev.course_onQueues, Dev.course_ite, ite_self]

theorem Dev.course_intakeRoom (d : Dev) (r : Nat) : (d.intakeRoom r).course = d.course := by
  unfold Dev.intakeRoom
  dsimp only
  split
  · rfl
  · refine Dev.course_foldl (fun d i => ?_) _ _
    split
    · simp only [Dev.course_ite, Dev.course_handQueue, ite_self]
    · rfl

theorem Dev.course_shiftQueues (d : Dev) : d.shiftQueues.course = d.course := by
  simp only [Dev.shiftQueues, Dev.course_onQueue, Dev.course_foldl, implies_true]

theorem Dev.course_badDoorbell (d : Dev) : d.badDoorbell.course = d.course := by
  simp only [Dev.badDoorbell, Dev.course_count]

theorem course_doorbell (room q value : Nat) (late : Bool) (d : Dev) : (doorbell room q value late d).course = d.course := by
  unfold doorbell
  split <;> simp only [Dev.course_onQueue, Dev.course_badDoorbell, Dev.course_ite, ite_self]

/-! ### The cellar -/

theorem Dev.course_onCel (d : Dev) (f : Cellar → Cellar) : (d.onCel f).course = d.course := by rfl

theorem Dev.course_onSlice (d : Dev) (k : Nat) (f : Slice → Slice) : (d.onSlice k f).course = d.course := by rfl

theorem Dev.course_countSlice (d : Dev) (f : Fld) (slice : Nat) : (d.countSlice f slice).course = d.course := by
  simp only [Dev.countSlice, Dev.course_count]

theorem Dev.course_lineHusk (d : Dev) (slice line : Nat) (rec : List Byte) : (d.lineHusk slice line rec).course = d.course := by
  simp only [Dev.lineHusk, Dev.course_memOp, Dev.course_onCel]

theorem Dev.course_lineUncorr (d : Dev) (slice line : Nat) : (d.lineUncorr slice line).course = d.course := by
  simp only [Dev.lineUncorr, Dev.course_lineHusk, Dev.course_flag, Dev.course_countSlice, Dev.course_chanErr, Dev.course_log]

theorem Dev.course_lineCorrected (d : Dev) (slice line : Nat) : (d.lineCorrected slice line).course = d.course := by
  simp only [Dev.lineCorrected, Dev.course_countSlice, Dev.course_onSlice, Dev.course_onCel]

theorem Dev.course_lineMiss (d : Dev) (slice line : Nat) (e fix : Tab Nat) : (d.lineMiss slice line e fix).course = d.course := by
  simp only [Dev.lineMiss, Dev.course_onCel, Dev.course_memOp, Dev.course_ite, ite_self]

theorem Dev.course_lineUse (d : Dev) (slice : Nat) : (d.lineUse slice).course = d.course := by
  simp only [Dev.lineUse, Dev.course_onCel]

theorem Dev.course_lineMeet (d : Dev) (slice line : Nat) : (d.lineMeet slice line).course = d.course := by
  unfold Dev.lineMeet
  dsimp only
  (repeat' split) <;> simp only [Dev.course_lineUse, Dev.course_lineMiss, Dev.course_lineCorrected, Dev.course_lineUncorr]

theorem Dev.course_openPage (d : Dev) (slice line : Nat) : (d.openPage slice line).course = d.course := by
  simp only [Dev.openPage, Dev.course_memOp, Dev.course_onCel, Dev.course_ite, ite_self]

theorem Dev.course_lineWrite (d : Dev) (slice line : Nat) (l : List (Option Byte)) : (d.lineWrite slice line l).course = d.course := by
  unfold Dev.lineWrite
  extract_lets d₁ d₂
  have h : d₂.course = d.course := by
    simp only [d₂, d₁, Dev.course_ite, Dev.course_onCel, Dev.course_lineUse, Dev.course_lineMeet, Dev.course_openPage, ite_self]
  split
  · rfl
  · exact h

theorem Dev.course_gatherLine (d : Dev) (slice line : Nat) (ws : List HallWrite) : (d.gatherLine slice line ws).course = d.course := by
  simp only [Dev.gatherLine]
  split <;> simp only [Dev.course_lineWrite, Dev.course_lineHusk]

theorem Dev.course_gatherFrame (d : Dev) (ws : List HallWrite) : (d.gatherFrame ws).course = d.course := by
  simp only [Dev.gatherFrame, Dev.course_onSlice, Dev.course_gatherLine, Dev.course_foldl, implies_true]

theorem course_celRequest (x : CelRec) (kind op : Nat) (data : List Byte) (enables operand compare : Nat) (d : Dev) :
    (celRequest x kind op data enables operand compare d).course = d.course := by
  simp only [celRequest, Dev.course_onCel, Dev.course_count, Dev.course_ite, ite_self]

theorem Dev.course_addRsps (d : Dev) (l : List CelRsp) : (d.addRsps l).course = d.course := by
  simp only [Dev.addRsps, Dev.course_onCel]

theorem Dev.course_celStore (s : State) (d : Dev) (q : CelReq) : (Dev.celStore s d q).2.course = d.course := by
  unfold Dev.celStore
  dsimp only
  (repeat' split) <;> simp only [Dev.course_lineHusk, Dev.course_openPage, Dev.course_lineWrite, Dev.course_lineMeet]

theorem Dev.course_celLoad (s : State) (d : Dev) (q : CelReq) : (Dev.celLoad s d q).2.course = d.course := by
  unfold Dev.celLoad
  refine foldl_kept (fun acc : List CelRsp × Dev => acc.2.course) (fun acc k => ?_) _ _
  dsimp only
  split
  · rfl
  · split
    · rfl
    · exact Dev.course_lineMeet _ _ _

theorem Dev.course_applyWrites (d : Dev) (stack : Nat) (due : Nat → Bool) : (d.applyWrites stack due).course = d.course := by
  simp only [Dev.applyWrites, Dev.course_onCel, Dev.course_gatherFrame, Dev.course_foldl, implies_true]

theorem Dev.course_takeReqs (s : State) (d : Dev) (stack : Nat) (due : Nat → Bool) : (Dev.takeReqs s d stack due).course = d.course := by
  unfold Dev.takeReqs
  extract_lets now qs d₁ stores all
  have hstores : stores.2.course = d.course := by
    refine foldl_kept (fun acc : List (Nat × CelRsp) × Dev => acc.2.course) (fun acc q => ?_) _ _
    dsimp only
    split
    · rfl
    · exact Dev.course_celStore s _ _
  have hall : all.2.2.course = stores.2.course := by
    refine foldl_kept (fun acc : List CelRsp × List (Nat × CelRsp) × Dev => acc.2.2.course) (fun acc q => ?_) _ _
    dsimp only
    split
    · exact Dev.course_celLoad s _ _
    · rfl
  exact (Dev.course_addRsps _ _).trans (hall.trans hstores)

theorem course_cellarApply (stack : Nat) (s : State) (d : Dev) : (cellarApply stack s d).course = d.course := by
  simp only [cellarApply, Dev.course_takeReqs, Dev.course_applyWrites]

theorem Dev.course_cellarFrame (s : State) (d : Dev) : (Dev.cellarFrame s d).course = d.course := by
  simp only [Dev.cellarFrame, course_cellarApply, Dev.course_foldl, implies_true]

theorem Dev.course_leak (d : Dev) (stack : Nat) : (d.leak stack).course = d.course := by
  simp only [Dev.leak, Dev.course_onSlice, Dev.course_onCel, Dev.course_ite, Dev.course_foldl, ite_self, implies_true]

theorem course_bucketLeak (stack : Nat) (d : Dev) : (bucketLeak stack d).course = d.course := by
  simp only [bucketLeak, Dev.course_leak, Dev.course_ite, ite_self]

theorem Dev.course_bucketOver (d : Dev) (k v : Nat) : (d.bucketOver k v).course = d.course := by
  simp only [Dev.bucketOver, Dev.course_onSlice, Dev.course_flagMask, Dev.course_flag, Dev.course_chanErr, Dev.course_log, Dev.course_ite, ite_self]

theorem Dev.course_bucketFrame (d : Dev) : d.bucketFrame.course = d.course := by
  simp only [Dev.bucketFrame, course_bucketLeak, Dev.course_onSlice, Dev.course_bucketOver, Dev.course_ite, Dev.course_foldl, ite_self, implies_true]

theorem Dev.course_onScrub (d : Dev) (n : Nat) (f : Scrub → Scrub) : (d.onScrub n f).course = d.course := by rfl

theorem course_effectScrub (n : Nat) (d : Dev) : (effectScrub n d).course = d.course := by
  simp only [effectScrub, Dev.course_flag, Dev.course_onScrub, Dev.course_ite, ite_self]

theorem Dev.course_endScrub (d : Dev) (n st : Nat) : (d.endScrub n st).course = d.course := by
  simp only [Dev.endScrub, Dev.course_onScrub]

theorem Dev.course_resetScrub (d : Dev) (n : Nat) : (d.resetScrub n).course = d.course := by
  simp only [Dev.resetScrub, Dev.course_endScrub, Dev.course_onCel, Dev.course_ite, ite_self]

theorem course_effectInval (n : Nat) (d : Dev) : (effectInval n d).course = d.course := by
  simp only [effectInval, Dev.course_onCel, Dev.course_flag, Dev.course_ite, ite_self]

theorem Dev.course_startStack (d : Dev) (n : Nat) : (d.startStack n).course = d.course := by
  simp only [Dev.startStack, Dev.course_onCel]

theorem Dev.course_retireSlice (d : Dev) (k cause : Nat) : (d.retireSlice k cause).course = d.course := by
  unfold Dev.retireSlice
  rw [Dev.course_log, Dev.course_appendRetire, Dev.course_flag]
  split <;> rfl

theorem Dev.course_retireSlices (d : Dev) : d.retireSlices.course = d.course := by
  simp only [Dev.retireSlices, Dev.course_retireSlice, Dev.course_foldl, implies_true]

theorem Dev.course_resetCellar (d : Dev) (r : Nat) : (d.resetCellar r).course = d.course := by
  simp only [Dev.resetCellar, Dev.course_onCel]

/-! ### Loads -/

theorem Dev.course_onBit (d : Dev) (f : Bit → Bit) : (d.onBit f).course = d.course := by rfl

theorem Dev.course_onLoadRes (d : Dev) (fn : Nat) (f : LoadRes → LoadRes) : (d.onLoadRes fn f).course = d.course := by rfl

theorem Dev.course_loadFail (d : Dev) (fn : Nat) (b : Bad) : (d.loadFail fn b).course = d.course := by
  simp only [Dev.loadFail, Dev.course_flag, Dev.course_onLoadRes]

theorem Dev.course_engineIdle (d : Dev) : d.engineIdle.course = d.course := by
  simp only [Dev.engineIdle, Dev.course_onBit]

theorem Dev.course_cellarSource (s : State) (d : Dev) (place : Nat → Option (Nat × Nat)) (from' len : Nat) :
    (Dev.cellarSource s d place from' len).2.course = d.course := by
  unfold Dev.cellarSource
  refine foldl_kept (fun acc : Option (List (List Byte)) × Dev => acc.2.course) (fun acc k => ?_) _ _
  dsimp only
  split
  · split
    · rfl
    · exact Dev.course_lineMeet _ _ _
  · rfl

theorem Dev.course_sourceRead (d : Dev) (l : Load) : (d.sourceRead l).course = d.course := by
  simp only [Dev.sourceRead, Dev.course_onBit]

theorem Dev.course_cellarRead (d : Dev) : d.cellarRead.course = d.course := by
  unfold Dev.cellarRead
  split <;> simp only [Dev.course_sourceRead, Dev.course_ite, ite_self]

theorem Dev.course_rereadSect (s : State) (l : Loaded) (acc : Bool × Dev) (x : ShaE) : (Dev.rereadSect s l acc x).2.course = acc.2.course := by
  unfold Dev.rereadSect
  split <;> simp only [Dev.course_cellarSource]

theorem Dev.course_rereads (s : State) (d : Dev) (f : RoomFacts) : (Dev.rereads s d f).2.course = d.course := by
  unfold Dev.rereads
  refine foldl_kept (fun acc : List Nat × Dev => acc.2.course) (fun acc r => ?_) _ _
  dsimp only
  split
  · rfl
  · exact foldl_kept (fun acc : Bool × Dev => acc.2.course) (Dev.course_rereadSect s _) _ _

theorem Dev.course_loadReset (d : Dev) (m : Nat) : (d.loadReset m).course = d.course := by
  unfold Dev.loadReset
  split <;> simp only [Dev.course_dueReset, Dev.course_ite, ite_self]

theorem Dev.course_swapQueues (d : Dev) (old new : List QueueE) : (d.swapQueues old new).course = d.course := by
  simp only [Dev.swapQueues, Dev.course_disableQueue, Dev.course_foldl, implies_true]

theorem Dev.course_dropMembers (d : Dev) (r : Nat) (i : Image) : (d.dropMembers r i).course = d.course := by
  simp only [Dev.dropMembers, Dev.course_onCore, Dev.course_onRow, Dev.course_onLatch, Dev.course_setFolds, Dev.course_onTow, Dev.course_foldl,
    implies_true]

theorem Dev.course_joinMembers (d : Dev) (r : Nat) (i : Image) : (d.joinMembers r i).course = d.course := by
  simp only [Dev.joinMembers, Dev.course_onCore, Dev.course_onRow, Dev.course_onTow, Dev.course_foldl, implies_true]

theorem Dev.course_loadEffect (d : Dev) : d.loadEffect.course = d.course := by
  unfold Dev.loadEffect
  dsimp only
  (repeat' split) <;> simp only [Dev.course_engineIdle, Dev.course_loadFail, Dev.course_onBit, Dev.course_dropMembers, Dev.course_swapQueues,
    Dev.course_resetRoom, Dev.course_onRoom, Dev.course_joinMembers, Dev.course_roomTo, Dev.course_onLoadRes, Dev.course_flag]

theorem course_effectRetry (n : Nat) (d : Dev) : (effectRetry n d).course = d.course := by
  simp only [effectRetry, Dev.course_onRoom]

/-! ### Light sources -/

theorem Dev.course_onLight (d : Dev) (f : Light → Light) : (d.onLight f).course = d.course := by rfl

theorem Dev.course_onRing (d : Dev) (k : Nat) (f : Ring → Ring) : (d.onRing k f).course = d.course := by rfl

theorem course_relockRings (m : Nat) (d : Dev) : (relockRings m d).course = d.course := by
  simp only [relockRings, Dev.course_calStart, Dev.course_onRing, Dev.course_foldl, implies_true]

theorem course_retireRings (m : Nat) (d : Dev) : (retireRings m d).course = d.course := by
  unfold retireRings
  refine Dev.course_foldl (fun d p => ?_) _ _
  split
  · rfl
  · dsimp only
    split <;> simp only [Dev.course_retireLine, Dev.course_onLatch, Dev.course_appendRetire, Dev.course_log3, Dev.course_onRing]

theorem Dev.course_onSrc (d : Dev) (s : Nat) (f : Src → Src) : (d.onSrc s f).course = d.course := by rfl

theorem Dev.course_warm (d : Dev) (s g : Nat) (asked : Bool) : (d.warm s g asked).course = d.course := by
  simp only [Dev.warm, Dev.course_log3, Dev.course_onSrc]

theorem Dev.course_needSpare (d : Dev) (g : Nat) : (d.needSpare g).course = d.course := by
  unfold Dev.needSpare
  dsimp only
  (repeat' split) <;> simp only [Dev.course_warm, Dev.course_log3, Dev.course_flag, Dev.course_onLight]

theorem Dev.course_decideSwap (d : Dev) (s due : Nat) : (d.decideSwap s due).course = d.course := by
  simp only [Dev.decideSwap, Dev.course_onLight, Dev.course_ite, ite_self]

theorem Dev.course_relight (d : Dev) (g : Nat) : (d.relight g).course = d.course := by
  simp only [Dev.relight, Dev.course_onLight, Dev.course_onBundle, Dev.course_foldl, implies_true]

theorem Dev.course_swapNow (d : Dev) (w : SwapDue) : (d.swapNow w).course = d.course := by
  unfold Dev.swapNow
  dsimp only
  (repeat' split) <;> simp only [Dev.course_log3, Dev.course_onSrc, Dev.course_appendRetire, Dev.course_relight, Dev.course_count, Dev.course_flag,
    Dev.course_calStart, Dev.course_foldl, implies_true]

theorem course_lightSwaps (m : Nat) (d : Dev) : (lightSwaps m d).course = d.course := by
  simp only [lightSwaps, Dev.course_onLight, Dev.course_swapNow, Dev.course_onBundle, Dev.course_foldl, implies_true]

theorem course_endGroups (m : Nat) (d : Dev) : (endGroups m d).course = d.course := by
  unfold endGroups
  refine Dev.course_foldl (fun d p => ?_) _ _
  simp only [Dev.course_onLight, Dev.course_relight, Dev.course_foldl, Dev.course_retireLine, implies_true]

theorem course_lightMeasure (taps : List (Nat × List Nat)) (d : Dev) : (lightMeasure taps d).course = d.course := by
  unfold lightMeasure
  refine (Dev.course_foldl (fun d s => ?_) _ _).trans (Dev.course_foldl (fun d p => ?_) _ _)
  · split
    · simp only [Dev.course_ite, Dev.course_log3, Dev.course_appendRetire, Dev.course_onSrc, ite_self]
    · rfl
  · simp only [Dev.course_ite, Dev.course_onSrc, ite_self]

theorem course_sourcePolicy (d : Dev) (s : Nat) : (sourcePolicy d s).course = d.course := by
  unfold sourcePolicy
  extract_lets x g next raising raisedAt d₁ d₂ d₃ lost d₄ full need d₅ d₆
  have h : d₆.course = d.course := by
    simp only [d₆, d₅, d₄, d₃, d₂, d₁, Dev.course_ite, Dev.course_onSrc, Dev.course_calStart, Dev.course_log3, Dev.course_flag,
      Dev.course_onLight, Dev.course_needSpare, ite_self]
  split
  · rfl
  · split
    · simp only [Dev.course_ite, Dev.course_onSrc, Dev.course_decideSwap, h, ite_self]
    · exact h

theorem course_lightPolicy (d : Dev) : (lightPolicy d).course = d.course := by
  simp only [lightPolicy, course_sourcePolicy, Dev.course_foldl, implies_true]

theorem course_effectSwap (d : Dev) : (effectSwap d).course = d.course := by
  unfold effectSwap
  dsimp only
  (repeat' split) <;> simp only [Dev.course_flag, Dev.course_warm, Dev.course_onSrc, Dev.course_decideSwap]

/-! ### Packets -/

theorem Dev.course_onJil (d : Dev) (f : Jilia → Jilia) : (d.onJil f).course = d.course := by rfl

theorem Dev.course_onPort (d : Dev) (q : Nat) (f : Port → Port) : (d.onPort q f).course = d.course := by rfl

theorem Dev.course_countDie (d : Dev) (f : Fld) (die n : Nat) : (d.countDie f die n).course = d.course := by
  simp only [Dev.countDie, Dev.course_count]

/-! ### Links -/

theorem Dev.course_sendWord (d : Dev) (q mode : Nat) (f0 f1 : Flit) : (d.sendWord q mode f0 f1).course = d.course := by
  unfold Dev.sendWord
  split <;> simp only [Dev.course_onPort, Dev.course_emit, Dev.course_ite, ite_self]

theorem Dev.course_sendFlits (d : Dev) (q : Nat) (l : List Flit) : (d.sendFlits q l).course = d.course := by
  induction l using List.twoStepInduction generalizing d with
  | nil => rfl
  | singleton f => simp only [Dev.sendFlits, Dev.course_ite, Dev.course_sendWord, ite_self]
  | cons_cons f g l ih _ => simp only [Dev.sendFlits, ih, Dev.course_ite, Dev.course_sendWord, ite_self]

theorem Dev.course_sendBodies (d : Dev) (q : Nat) (l : List (List Byte)) : (d.sendBodies q l).course = d.course := by
  simp only [Dev.sendBodies, Dev.course_sendFlits, Dev.course_onPort]

theorem Dev.course_sendOn (d : Dev) (q : Nat) (p : Packet) : (d.sendOn q p).course = d.course := by
  simp only [Dev.sendOn, Dev.course_onPort, Dev.course_sendBodies, Dev.course_emit]

theorem Dev.course_putNear (d : Dev) (q : Nat) (p : Packet) : (d.putNear q p).course = d.course := by
  simp only [Dev.putNear, Dev.course_sendOn, Dev.course_onPort, Dev.course_ite, ite_self]

theorem Dev.course_sendNear (d : Dev) (q : Nat) (p : Packet) : (d.sendNear q p).course = d.course := by
  simp only [Dev.sendNear, Dev.course_putNear]

theorem Dev.course_pumpNear (d : Dev) (q : Nat) : (d.pumpNear q).course = d.course := by
  simp only [Dev.pumpNear, Dev.course_putNear, Dev.course_onPort, Dev.course_foldl, implies_true]

theorem Dev.course_sendLink (d : Dev) (q dim i : Nat) (down : Bool) : (d.sendLink q dim i down).course = d.course := by
  simp only [Dev.sendLink, Dev.course_sendNear, Dev.course_ite, ite_self]

theorem Dev.course_linkChange (d : Dev) (q : Nat) (down : Bool) : (d.linkChange q down).course = d.course := by
  simp only [Dev.linkChange, Dev.course_onJil, Dev.course_sendLink]

theorem Dev.course_portDown (d : Dev) (q : Nat) : (d.portDown q).course = d.course := by
  simp only [Dev.portDown, Dev.course_linkChange, Dev.course_flag, Dev.course_onPort, Dev.course_ite, ite_self]

theorem Dev.course_portTo (d : Dev) (q st cause : Nat) : (d.portTo q st cause).course = d.course := by
  simp only [Dev.portTo, Dev.course_portDown, Dev.course_onPort, Dev.course_ite, ite_self]

theorem Dev.course_train (d : Dev) (q cause : Nat) : (d.train q cause).course = d.course := by
  simp only [Dev.train, Dev.course_onPort, Dev.course_portTo]

theorem course_portEn (q : Nat) (en : Bool) (d : Dev) : (portEn q en d).course = d.course := by
  simp only [portEn, Dev.course_setFld, Dev.course_portTo, Dev.course_ite, ite_self]

theorem Dev.course_sendHold (d : Dev) (q : Nat) : (d.sendHold q).course = d.course := by
  simp only [Dev.sendHold, Dev.course_sendWord]

theorem Dev.course_retireLane (d : Dev) (q lane due : Nat) (permanent : Bool) : (d.retireLane q lane due permanent).course = d.course := by
  simp only [Dev.retireLane, Dev.course_onPort, Dev.course_ite, ite_self]

theorem Dev.course_laneGone (d : Dev) (q lane : Nat) (permanent : Bool) : (d.laneGone q lane permanent).course = d.course := by
  simp only [Dev.laneGone, Dev.course_onPort, Dev.course_log, Dev.course_flag, Dev.course_train, Dev.course_sendNear, Dev.course_ite, ite_self]

theorem course_portsThreshold (m : Nat) (d : Dev) : (portsThreshold m d).course = d.course := by
  simp only [portsThreshold, Dev.course_onPort, Dev.course_laneGone, Dev.course_pumpNear, Dev.course_linkChange, Dev.course_flag, Dev.course_ite,
    Dev.course_foldl, ite_self, implies_true]

theorem course_retrainPort (q : Nat) (d : Dev) : (retrainPort q d).course = d.course := by
  simp only [retrainPort, Dev.course_onPort, Dev.course_train, Dev.course_ite, ite_self]

theorem course_resetPort (q : Nat) (d : Dev) : (resetPort q d).course = d.course := by
  simp only [resetPort, Dev.course_onPort, Dev.course_train, Dev.course_ite, ite_self]

theorem course_effectPortCtl (q value : Nat) (d : Dev) : (effectPortCtl q value d).course = d.course := by
  simp only [effectPortCtl, Dev.course_retireLane, course_retrainPort, course_resetPort, Dev.course_ite, ite_self]

theorem course_effectNode (d : Dev) : (effectNode d).course = d.course := by
  simp only [effectNode, Dev.course_train, Dev.course_ite, Dev.course_foldl, ite_self, implies_true]

/-! ### Requests -/

theorem Dev.course_onRbuf (d : Dev) (b : Nat) (f : RBuf → RBuf) : (d.onRbuf b f).course = d.course := by rfl

theorem Dev.course_reply (d : Dev) (b reserve : Nat) (bytes : List Byte) (husks : Nat) : (d.reply b reserve bytes husks).course = d.course := by
  simp only [Dev.reply, Dev.course_onRbuf]

theorem Dev.course_endFences (d : Dev) : d.endFences.course = d.course := by
  simp only [Dev.endFences, Dev.course_onJil, Dev.course_countDie, Dev.course_reply, Dev.course_ite, Dev.course_foldl, ite_self, implies_true]

theorem Dev.course_completeReq (d : Dev) (q : Req) (status result : Nat) (data : List Byte) (husks : Nat) :
    (d.completeReq q status result data husks).course = d.course := by
  simp only [Dev.completeReq, Dev.course_onJil, Dev.course_countDie, Dev.course_onRbuf, Dev.course_reply, Dev.course_endFences, Dev.course_ite,
    ite_self]

theorem Dev.course_lostOp (d : Dev) (p : Packet) : (d.lostOp p).course = d.course := by
  unfold Dev.lostOp
  split
  · rfl
  · split
    · exact Dev.course_completeReq _ _ _ _ _ _
    · rfl

theorem Dev.course_replyRuns (d : Dev) (r : Nat) : (d.replyRuns r).course = d.course := by
  unfold Dev.replyRuns
  split <;> simp only [Dev.course_onRbuf, Dev.course_foldl, implies_true]

theorem Dev.course_freeReplies (d : Dev) : d.freeReplies.course = d.course := by
  simp only [Dev.freeReplies, Dev.course_onJil]

theorem Dev.course_resetReqs (d : Dev) (r : Nat) : (d.resetReqs r).course = d.course := by
  simp only [Dev.resetReqs, Dev.course_onJil]

/-! ### The fabric -/

theorem course_breakMaps (d : Dev) : (breakMaps d).course = d.course := by
  simp only [breakMaps, Dev.course_onJil, Dev.course_flag, Dev.course_ite, ite_self]

theorem Dev.course_sendWin {d e : Dev} {p q : Packet} (h : d.sendWin p = some (q, e)) : e.course = d.course := by
  unfold Dev.sendWin at h
  dsimp only at h
  split at h
  · cases h
  · cases h
    rfl

theorem Dev.course_postWin (d : Dev) (p : Packet) : (d.postWin p).course = d.course := by
  unfold Dev.postWin
  split
  · next h =>
    split at h
    · cases h
    · exact Dev.course_sendWin h
  · rfl

theorem Dev.course_losePackets (d : Dev) (node : Nat) (l : List Packet) : (d.losePackets node l).course = d.course := by
  simp only [Dev.losePackets, Dev.course_countDie, Dev.course_lostOp, Dev.course_ite, Dev.course_foldl, ite_self, implies_true]

/-! ### Requests as their target -/

theorem Dev.course_answerReq (d : Dev) (t : Taken) (status result : Nat) (data : List Byte) (husks : Nat) :
    (d.answerReq t status result data husks).course = d.course := by
  simp only [Dev.answerReq, Dev.course_onJil, Dev.course_countDie, Dev.course_postWin, Dev.course_ite, ite_self]

theorem Dev.course_answerStop (d : Dev) (t : Taken) (status : Nat) : (d.answerStop t status).course = d.course := by
  simp only [Dev.answerStop, Dev.course_answerReq, Dev.course_ite, ite_self]

theorem Dev.course_issueReq (d : Dev) (t : Taken) : (d.issueReq t).course = d.course := by
  simp only [Dev.issueReq, Dev.course_answerStop, Dev.course_onJil, Dev.course_answerReq, Dev.course_ite, ite_self]

theorem Dev.course_settleReq (d : Dev) (order : Nat) : (d.settleReq order).course = d.course := by
  unfold Dev.settleReq
  split <;> simp only [Dev.course_answerStop, Dev.course_answerReq, Dev.course_ite, ite_self]

theorem Dev.course_celAnswer (d : Dev) (die tag status : Nat) (data : List Byte) (result : Nat) :
    (d.celAnswer die tag status data result).course = d.course := by
  unfold Dev.celAnswer
  dsimp only
  (repeat' split) <;> simp only [Dev.course_onJil, Dev.course_settleReq]

theorem Dev.course_keyChanged (d : Dev) (k : Nat) : (d.keyChanged k).course = d.course := by
  simp only [Dev.keyChanged, Dev.course_onJil, Dev.course_foldl, implies_true]

theorem Dev.course_setKey (d : Dev) (k node job : Nat) (mode : Option Nat) : (d.setKey k node job mode).course = d.course := by
  unfold Dev.setKey
  split <;> rfl

theorem Dev.course_keyNow (d : Dev) (t : Taken) (k : Nat) : (d.keyNow t k).course = d.course := by
  unfold Dev.keyNow
  extract_lets p c mine free mode op r backed
  have hr : ∀ d', r = some d' → d'.course = d.course := by
    intro d' h
    unfold r at h
    split_ifs at h <;> cases h <;> exact Dev.course_setKey _ _ _ _ _
  clear_value r
  cases r with
  | none => exact Dev.course_answerReq _ _ _ _ _ _
  | some d' => simp only [Dev.course_ite, Dev.course_answerReq, hr d' rfl, ite_self]

theorem course_keyThreshold (m : Nat) (d : Dev) : (keyThreshold m d).course = d.course := by
  simp only [keyThreshold, Dev.course_onJil, Dev.course_setKey, Dev.course_issueReq, Dev.course_keyNow, Dev.course_foldl, implies_true]

theorem course_setRecord (room die key node job mode : Nat) (late : Bool) (d : Dev) :
    (setRecord room die key node job mode late d).course = d.course := by
  simp only [setRecord, Dev.course_countDie, Dev.course_onJil, Dev.course_ite, ite_self]

/-! ### Injections -/

theorem Dev.course_onBuf (d : Dev) (b : Nat) (f : InjBuf → InjBuf) : (d.onBuf b f).course = d.course := by rfl

theorem Dev.course_takeRecords (d : Dev) (b frame fuel : Nat) (ws : List (List Byte × Bool)) : (d.takeRecords b frame fuel ws).course = d.course := by
  induction fuel generalizing d ws with
  | zero => rfl
  | succ fuel ih =>
    unfold Dev.takeRecords
    split
    · rfl
    · simp only [Dev.course_log3, Dev.course_flag, Dev.course_countDie]
    · simp only [ih, Dev.course_ite, Dev.course_log3, Dev.course_flag, Dev.course_countDie, Dev.course_onBuf, ite_self]

theorem course_injectionRecord (b : Nat) (d : Dev) : (injectionRecord b d).course = d.course := by
  simp only [injectionRecord, Dev.course_endFences, Dev.course_takeRecords, Dev.course_onBuf, Dev.course_ite, ite_self]

theorem course_injectFrame (d : Dev) : (injectFrame d).course = d.course := by
  simp only [injectFrame, course_injectionRecord, Dev.course_onJil, Dev.course_foldl, implies_true]

theorem Dev.course_raiseBuffers (d : Dev) : d.raiseBuffers.course = d.course := by
  simp only [Dev.raiseBuffers, Dev.course_onTow, Dev.course_ite, Dev.course_foldl, ite_self, implies_true]

theorem Dev.course_outboundFate (d : Dev) (room n : Nat) (clear : Bool) (cause rows endpoint : Nat) :
    (d.outboundFate room n clear cause rows endpoint).course = d.course := by
  simp only [Dev.outboundFate, Dev.course_onBuf, Dev.course_onJil, Dev.course_postWin, Dev.course_foldl, implies_true]

theorem Dev.course_resetInject (d : Dev) (r : Nat) : (d.resetInject r).course = d.course := by
  simp only [Dev.resetInject, Dev.course_onJil]

/-! ### Reception -/

theorem course_throttledTime (d : Dev) : (throttledTime d).course = d.course := by
  simp only [throttledTime, Dev.course_onJil, Dev.course_countDie, Dev.course_ite, Dev.course_foldl, ite_self, implies_true]

theorem Dev.course_loseDie (d : Dev) (die : Nat) : (d.loseDie die).course = d.course := by
  simp only [Dev.loseDie, Dev.course_losePackets, Dev.course_onJil, Dev.course_foldl, implies_true]

/-! ### BAR2 -/

theorem Dev.course_onHost (d : Dev) (f : HostIf → HostIf) : (d.onHost f).course = d.course := by rfl

theorem Dev.course_aer (d : Dev) (fn bit : Nat) : (d.aer fn bit).course = d.course := by
  simp only [Dev.aer, Dev.course_onHost]

theorem Dev.course_hostSend (d : Dev) (m : CelMsg) : (d.hostSend m).course = d.course := by
  simp only [Dev.hostSend, Dev.course_onJil, Dev.course_emit, Dev.course_ite, ite_self]

theorem Dev.course_settleAcc (d : Dev) (a : HostAcc) : (d.settleAcc a).course = d.course := by
  simp only [Dev.settleAcc, Dev.course_onHost, Dev.course_aer, Dev.course_emit, Dev.course_ite, ite_self]

theorem Dev.course_hostAnswer (d : Dev) (tag status : Nat) (data : List Byte) : (d.hostAnswer tag status data).course = d.course := by
  unfold Dev.hostAnswer
  split <;> simp only [Dev.course_hostSend, Dev.course_settleAcc, Dev.course_onHost, Dev.course_ite, Dev.course_foldl, ite_self, implies_true]

/-! ### Signals -/

theorem Dev.course_soaCount (d : Dev) (tile : Nat) (tower cellar : Fld) (n : Nat) : (d.soaCount tile tower cellar n).course = d.course := by
  simp only [Dev.soaCount, Dev.course_count, Dev.course_ite, ite_self]

theorem Dev.course_soaArrive (d : Dev) (p : SoaPart) : (d.soaArrive p).course = d.course := by
  simp only [Dev.soaArrive, Dev.course_onTow, Dev.course_observe, Dev.course_ite, ite_self]

theorem Dev.course_soaStore (s : State) (d : Dev) (t : SoaTree) (frame k : Nat) : (Dev.soaStore s d t frame k).course = d.course := by
  simp only [Dev.soaStore, Dev.course_readWords, Dev.course_onTow, Dev.course_soaCount, Dev.course_hrxWord, Dev.course_onCel, Dev.course_ite,
    Dev.course_foldl, ite_self, implies_true]

theorem Dev.course_soaFinish (s : State) (d : Dev) : (Dev.soaFinish s d).course = d.course := by
  unfold Dev.soaFinish
  refine Dev.course_foldl (fun d x => ?_) _ _
  split
  · rfl
  · simp only [Dev.course_soaStore, Dev.course_foldl, Dev.course_ite, Dev.course_onTow, ite_self, implies_true]

theorem course_sampleArrivals (n : Nat) (d : Dev) (r : Nat) : (sampleArrivals n d r).course = d.course := by
  simp only [sampleArrivals, Dev.course_onTow, Dev.course_ite, ite_self]

theorem course_barrierArrive (ep room id sender row mask : Nat) (late : Bool) (d : Dev) :
    (barrierArrive ep room id sender row mask late d).course = d.course := by
  simp only [barrierArrive]
  split <;> simp only [Dev.course_onTow, Dev.course_ite, ite_self]

theorem course_barrierDone (ep room id frame : Nat) (d : Dev) : (barrierDone ep room id frame d).course = d.course := by
  unfold barrierDone
  split <;> simp only [Dev.course_onCore, Dev.course_ite, Dev.course_foldl, ite_self, implies_true]

theorem course_flagRaise (ep room id value : Nat) (late : Bool) (d : Dev) : (flagRaise ep room id value late d).course = d.course := by
  simp only [flagRaise]
  split <;> simp only [Dev.course_onTow, Dev.course_ite, ite_self]

theorem Dev.course_flagsFrame (d : Dev) : d.flagsFrame.course = d.course := by
  unfold Dev.flagsFrame
  refine Dev.course_foldl (fun d p => ?_) _ _
  dsimp only
  split <;> simp only [Dev.course_onTow, Dev.course_foldl, Dev.course_hrxWord, implies_true]

theorem course_interruptRecord (owner room vec : Nat) (order : Option Nat) (late : Bool) (d : Dev) :
    (interruptRecord owner room vec order late d).course = d.course := by
  simp only [interruptRecord, Dev.course_badDoorbell, Dev.course_onHost, Dev.course_ite, ite_self]

theorem Dev.course_inbandSend (d : Dev) (n : Nat) : (d.inbandSend n).course = d.course := by
  simp only [Dev.inbandSend, Dev.course_onHost, Dev.course_sendMsix, Dev.course_ite, Dev.course_foldl, ite_self, implies_true]

/-! ### Slots received -/

theorem Dev.course_landPantry (d : Dev) (p : Place) (a : Arrival) : (d.landPantry p a).course = d.course := by
  simp only [Dev.landPantry, Dev.course_hrxWord, Dev.course_foldl, implies_true]

theorem Dev.course_landStore (d : Dev) (p : Place) (a : Arrival) : (d.landStore p a).course = d.course := by
  simp only [Dev.landStore, Dev.course_onTow]

theorem course_celRecords (p : Place) (a : Arrival) (late : Bool) (d : Dev) : (celRecords p a late d).course = d.course := by
  simp only [celRecords, course_celRequest, Dev.course_ite, Dev.course_foldl, ite_self, implies_true]

theorem course_signalRecord (p : Place) (ep : Nat) (r : List Byte) (d : Dev) : (signalRecord p ep r d).course = d.course := by
  unfold signalRecord
  split <;> simp only [course_barrierArrive, course_barrierDone, course_flagRaise, course_doorbell, Dev.course_badDoorbell, course_interruptRecord,
    Dev.course_count, Dev.course_ite, ite_self]

theorem course_keyRecord (p : Place) (ep : Nat) (r : List Byte) (d : Dev) : (keyRecord p ep r d).course = d.course := by
  simp only [keyRecord, course_setRecord, Dev.course_ite, ite_self]

theorem course_replyRecord (ep tag status : Nat) (data : List Byte) (result : Nat) (d : Dev) :
    (replyRecord ep tag status data result d).course = d.course := by
  simp only [replyRecord, Dev.course_celAnswer, Dev.course_hostAnswer, Dev.course_ite, ite_self]

theorem course_celReplies (a : Arrival) (d : Dev) : (celReplies a d).course = d.course := by
  simp only [celReplies, course_replyRecord, Dev.course_ite, Dev.course_foldl, ite_self, implies_true]

theorem course_eachRecord {f : List Byte → Dev → Dev} (h : ∀ b d, (f b d).course = d.course) (a : Arrival) (d : Dev) :
    (eachRecord a f d).course = d.course :=
  Dev.course_foldl (fun d _ => h _ d) _ _

theorem Dev.course_landTree (d : Dev) (p : Place) (a : Arrival) : (d.landTree p a).course = d.course := by
  simp only [Dev.landTree]
  split <;> simp only [Dev.course_soaArrive]

theorem Dev.course_outboundWord (d : Dev) (p : Place) (a : Arrival) : (d.outboundWord p a).course = d.course := by
  simp only [Dev.outboundWord]
  split <;> simp only [Dev.course_onChip]

theorem Dev.course_deliverSlot (d : Dev) (p : Place) (a : Arrival) : (d.deliverSlot p a).course = d.course := by
  unfold Dev.deliverSlot
  split <;> simp only [Dev.course_landPantry, Dev.course_onCel, Dev.course_onQueue, Dev.course_landTree, Dev.course_landStore, Dev.course_onBuf,
    Dev.course_outboundWord, course_celRecords, course_celReplies, course_eachRecord, course_signalRecord, course_keyRecord, Dev.course_ite, ite_self,
    implies_true]

theorem Dev.course_loseSlot (d : Dev) (p : Place) (ep line : Nat) : (d.loseSlot p ep line).course = d.course := by
  simp only [Dev.loseSlot, Dev.course_flag, Dev.course_count, Dev.course_log, Dev.course_deliverSlot]

theorem Dev.course_endReplays (d : Dev) : d.endReplays.course = d.course := by
  simp only [Dev.endReplays, Dev.course_onHall, Dev.course_loseSlot, Dev.course_foldl, implies_true]

theorem course_effectHallMaint (value : Nat) (d : Dev) : (effectHallMaint value d).course = d.course := by
  simp only [effectHallMaint, Dev.course_decideRetire, Dev.course_onBundle, Dev.course_ite, ite_self]

theorem Dev.course_startAgreements (d : Dev) : d.startAgreements.course = d.course := by
  simp only [Dev.startAgreements, Dev.course_onBundle, Dev.course_ite, Dev.course_foldl, ite_self, implies_true]

theorem Dev.course_agreedMap (d : Dev) (b : Nat) : (d.agreedMap b).course = d.course := by
  simp only [Dev.agreedMap, Dev.course_retireLine, Dev.course_onBundle, Dev.course_foldl, implies_true]

theorem Dev.course_postMasks (d : Dev) (masks : List (Nat × Nat × Nat)) (upper : List (Nat × List Nat)) :
    (d.postMasks masks upper).course = d.course := by
  simp only [Dev.postMasks, Dev.course_onBundle, Dev.course_ite, Dev.course_foldl, ite_self, implies_true]

theorem Dev.course_runAgreements (d : Dev) (untrained : List Nat) : (d.runAgreements untrained).course = d.course := by
  simp only [Dev.runAgreements, Dev.course_onBundle, Dev.course_agreedMap, Dev.course_retireLine, Dev.course_ite, Dev.course_foldl, ite_self,
    implies_true]

/-! ### Towers -/

theorem Dev.course_onMarch (d : Dev) (t : Nat) (f : March → March) : (d.onMarch t f).course = d.course := by rfl

theorem course_effectMarch (n : Nat) (d : Dev) : (effectMarch n d).course = d.course := by
  simp only [effectMarch, Dev.course_onMarch, Dev.course_ite, ite_self]

theorem course_beginMarches (d : Dev) : (beginMarches d).course = d.course := by
  simp only [beginMarches, Dev.course_onMarch, Dev.course_ite, Dev.course_foldl, ite_self, implies_true]

/-! ### Integrity -/

theorem Dev.course_onInteg (d : Dev) (f : Integ → Integ) : (d.onInteg f).course = d.course := by rfl

theorem Dev.course_xcheckError (d : Dev) (core room : Nat) : (d.xcheckError core room).course = d.course := by
  simp only [Dev.xcheckError, Dev.course_log, Dev.course_onInteg, Dev.course_chanErr]

theorem Dev.course_xcheckFail (d : Dev) : d.xcheckFail.course = d.course := by
  simp only [Dev.xcheckFail, Dev.course_flag, Dev.course_count]

theorem Dev.course_comparePosts (d : Dev) : d.comparePosts.course = d.course := by
  simp only [Dev.comparePosts, Dev.course_onInteg, Dev.course_count, Dev.course_chanChecked, Dev.course_xcheckError, Dev.course_xcheckFail,
    Dev.course_failRoom, Dev.course_ite, Dev.course_foldl, ite_self, implies_true]

theorem Dev.course_outboundInj (s : State) (d : Dev) (room : Nat) : (Dev.outboundInj s d room).2.course = d.course := by
  unfold Dev.outboundInj
  split <;> simp only [Dev.course_useInj]

theorem Dev.course_outboundCheck (s : State) (d : Dev) (n : Nat) : (Dev.outboundCheck s d n).course = d.course := by
  unfold Dev.outboundCheck
  refine Dev.course_foldl (fun d room => ?_) _ _
  dsimp only
  split
  · exact Dev.course_outboundInj s d room
  · simp only [Dev.course_dueReset, Dev.course_onInteg, Dev.course_flag, Dev.course_log, Dev.course_count, Dev.course_outboundInj]

theorem Dev.course_clears (d : Dev) (m : Nat) : (d.clears m).course = d.course := by
  unfold Dev.clears
  refine Dev.course_foldl (fun d r => ?_) _ _
  split
  · rfl
  · exact Dev.course_outboundFate _ _ _ _ _ _ _

theorem course_publishEvent (x : Nat × Dev) (e : LogEv) : (publishEvent x e).2.course = x.2.course := by
  simp only [publishEvent]
  split <;> simp only [Dev.course_flag, Dev.course_onInteg, Dev.course_count]

theorem Dev.course_publishLog (d : Dev) : d.publishLog.course = d.course := by
  unfold Dev.publishLog
  extract_lets es d₁ full d₂
  have h₁ : d₁.course = d.course :=
    foldl_kept (fun x : Nat × Dev => x.2.course) course_publishEvent es (0, d.onInteg fun i => { i with events := [] })
  simp only [d₂, Dev.course_onInteg, Dev.course_ite, Dev.course_flag, h₁, ite_self]

theorem Dev.course_injectOnce (d : Dev) (i : Inj) : (d.injectOnce i).course = d.course := by
  unfold Dev.injectOnce
  split <;> simp only [Dev.course_useInj, Dev.course_onTow, Dev.course_onCel, Dev.course_huskWord, Dev.course_lineHusk, Dev.course_openPage,
    Dev.course_ite, ite_self]

/-! ### Temperatures -/

theorem Dev.course_onThm {d : Dev} {g : Thermal → Thermal} (h : (g d.chip.thm).tripped = d.chip.thm.tripped) :
    (d.onThm g).course = d.course := by
  simp only [Dev.onThm, Dev.course_onChip, h]

theorem Dev.course_onSensor (d : Dev) (k : Nat) (f : Sensor → Sensor) : (d.onSensor k f).course = d.course := by rfl

theorem Dev.course_sensorFails (d : Dev) (k : Nat) (openShort : Bool) : (d.sensorFails k openShort).course = d.course := by
  simp only [Dev.sensorFails, Dev.course_flag, Dev.course_log3, Dev.course_onSensor, Dev.course_ite, ite_self]

theorem Dev.course_suspectNow (d : Dev) (k : Nat) : (d.suspectNow k).course = d.course := by
  simp only [Dev.suspectNow, Dev.course_flag, Dev.course_log3, Dev.course_onSensor]

theorem Dev.course_sensorBegin (d : Dev) (k : Nat) : (d.sensorBegin k).course = d.course := by
  simp only [Dev.sensorBegin, Dev.course_onSensor, Dev.course_ite, ite_self]

theorem Dev.course_sensorValue (d : Dev) (now k : Nat) : (d.sensorValue now k).course = d.course := by
  simp only [Dev.sensorValue, Dev.course_onSensor, Dev.course_sensorFails, Dev.course_ite, ite_self]

theorem Dev.course_sensorBand (d : Dev) (k : Nat) : (d.sensorBand k).course = d.course := by
  unfold Dev.sensorBand
  split <;> simp only [Dev.course_observe, Dev.course_onSensor, Dev.course_ite, ite_self]

theorem Dev.course_episode (d : Dev) (mean : Nat → Nat) (scope : Nat) : (d.episode mean scope).course = d.course := by
  simp only [Dev.episode, Dev.course_onThm, Dev.course_flag, Dev.course_log3, Dev.course_ite, ite_self]

theorem Dev.course_coolDown (d : Dev) (now : Nat) : (d.coolDown now).course = d.course := by
  simp only [Dev.coolDown, Dev.course_onThm, Dev.course_ite, ite_self]

/-! ### Power -/

theorem Dev.course_onPwr (d : Dev) (f : Power → Power) : (d.onPwr f).course = d.course := by rfl

theorem Dev.course_onRowClk (d : Dev) (row : Nat) (f : RowClk → RowClk) : (d.onRowClk row f).course = d.course := by rfl

theorem Dev.course_rowFreqs (d : Dev) (m : Nat) : (d.rowFreqs m).course = d.course := by
  simp only [Dev.rowFreqs, Dev.course_onRowClk, Dev.course_foldl, implies_true]

theorem course_effectStagger (mask value : Nat) (d : Dev) : (effectStagger mask value d).course = d.course := by
  unfold effectStagger
  dsimp only
  split <;> rfl

theorem course_effectForget (d : Dev) : (effectForget d).course = d.course := by
  simp only [effectForget, Dev.course_onPwr]

theorem course_effectJobMark (room : Nat) (d : Dev) : (effectJobMark room d).course = d.course := by
  simp only [effectJobMark, Dev.course_onPwr]

theorem Dev.course_clearLoss (d : Dev) : d.clearLoss.course = d.course := by
  simp only [Dev.clearLoss, Dev.course_onPwr]

/-! ### Calibration -/

theorem Dev.course_onUnit (d : Dev) (kind unit : Nat) (f : CalUnit → CalUnit) : (d.onUnit kind unit f).course = d.course := by rfl

theorem course_effectRun (mask : Nat) (d : Dev) : (effectRun mask d).course = d.course := by
  simp only [effectRun, Dev.course_calStart, Dev.course_foldl, implies_true]

theorem Dev.course_calTriggers (d : Dev) : d.calTriggers.course = d.course := by
  simp only [Dev.calTriggers, Dev.course_calStart, Dev.course_ite, Dev.course_foldl, ite_self, implies_true]

theorem Dev.course_calApplied (d : Dev) (kind unit m : Nat) : (d.calApplied kind unit m).course = d.course := by
  simp only [Dev.calApplied, Dev.course_onUnit, Dev.course_onLight, Dev.course_onSrc, Dev.course_flag, Dev.course_ite, Dev.course_foldl, ite_self,
    implies_true]

theorem Dev.course_laserDrive (d : Dev) (die : Nat) (set : List Int) : (d.laserDrive die set).course = d.course := by
  simp only [Dev.laserDrive, Dev.course_onSrc, Dev.course_ite, Dev.course_foldl, ite_self, implies_true]

theorem Dev.course_walkPorts (d : Dev) (qs : List Nat) : (d.walkPorts qs).course = d.course := by
  simp only [Dev.walkPorts, Dev.course_onCal]

theorem Dev.course_calSteps (d : Dev) (m : Nat) : (d.calSteps m).course = d.course := by
  unfold Dev.calSteps
  refine Dev.course_foldl (fun d p => ?_) _ _
  dsimp only
  split
  · rfl
  · simp only [Dev.course_ite, Dev.course_onUnit, Dev.course_laserDrive, Dev.course_walkPorts, Dev.course_calApplied, ite_self]

theorem Dev.course_calAbandon (d : Dev) (kind unit : Nat) : (d.calAbandon kind unit).course = d.course := by
  simp only [Dev.calAbandon, Dev.course_onUnit]

theorem Dev.course_equalisers (d : Dev) (changed : List Nat) : (d.equalisers changed).course = d.course := by
  simp only [Dev.equalisers, Dev.course_walkPorts, Dev.course_onCal, Dev.course_foldl, implies_true]

theorem Dev.course_phyFrame (d : Dev) : d.phyFrame.course = d.course := by
  simp only [Dev.phyFrame, Dev.course_onCal, Dev.course_ite, ite_self]

theorem course_idleInsert (d : Dev) : (idleInsert d).course = d.course := by
  simp only [idleInsert, Dev.course_count, Dev.course_onCal, Dev.course_ite, ite_self]

theorem Dev.course_laserLoad (d : Dev) (die : Nat) (set : List Int) : (d.laserLoad die set).course = d.course := by
  simp only [Dev.laserLoad, Dev.course_onSrc, Dev.course_foldl, implies_true]

theorem Dev.course_calLoad (d : Dev) (kind unit : Nat) : (d.calLoad kind unit).course = d.course := by
  simp only [Dev.calLoad, Dev.course_onUnit, Dev.course_log, Dev.course_flag, Dev.course_onCal, Dev.course_laserLoad, Dev.course_walkPorts,
    Dev.course_calStart, Dev.course_ite, ite_self]

theorem Dev.course_calLoadBlock (d : Dev) (b : Nat) : (d.calLoadBlock b).course = d.course := by
  simp only [Dev.calLoadBlock, Dev.course_log, Dev.course_flag, Dev.course_calLoad, Dev.course_ite, Dev.course_foldl, ite_self, implies_true]

/-! ### Channels -/

theorem Dev.course_policyInForce (d : Dev) : d.policyInForce.course = d.course := by
  simp only [Dev.policyInForce, Dev.course_onInteg, Dev.course_foldl, implies_true]

theorem Dev.course_relockFrom (d : Dev) (m k : Nat) : (d.relockFrom m k).course = d.course := by
  simp only [Dev.relockFrom, Dev.course_onRing, Dev.course_ite, ite_self]

theorem Dev.course_adaptAction (d : Dev) (m cls index : Nat) : (d.adaptAction m cls index).course = d.course := by
  unfold Dev.adaptAction
  split <;> simp only [Dev.course_relockFrom, Dev.course_calStart, Dev.course_foldl, implies_true]

theorem Dev.course_adapt (d : Dev) (m cls index : Nat) : (d.adapt m cls index).course = d.course := by
  simp only [Dev.adapt, Dev.course_adaptAction, Dev.course_onInteg, Dev.course_onCal, Dev.course_log3, Dev.course_flag, Dev.course_count]

theorem Dev.course_declare (d : Dev) (m cls index : Nat) : (d.declare m cls index).course = d.course := by
  unfold Dev.declare
  split <;> simp only [Dev.course_onInteg, Dev.course_flag, Dev.course_decideRetire, Dev.course_onTow, Dev.course_onSlice, Dev.course_retireLane,
    Dev.course_foldl, implies_true]

theorem Dev.course_judgeChan (d : Dev) (m key : Nat) (h : Chan) : (d.judgeChan m key h).course = d.course := by
  simp only [Dev.judgeChan, Dev.course_onInteg, Dev.course_adapt, Dev.course_declare, Dev.course_ite, ite_self]

theorem Dev.course_ageAdapts (d : Dev) : d.ageAdapts.course = d.course := by
  simp only [Dev.ageAdapts, Dev.course_onCal]

theorem Dev.course_judgeChans (d : Dev) (m : Nat) : (d.judgeChans m).course = d.course := by
  simp only [Dev.judgeChans, Dev.course_ageAdapts, Dev.course_judgeChan, Dev.course_foldl, implies_true]

theorem Dev.course_loseRow (d : Dev) (w cause : Nat) : (d.loseRow w cause).course = d.course := by
  simp only [Dev.loseRow]
  split <;> simp only [Dev.course_retireRow, Dev.course_onRoom, Dev.course_haltRoom, Dev.course_ite, ite_self]

theorem Dev.course_fence (d : Dev) (core : Nat) (fmax : Bool) : (d.fence core fmax).course = d.course := by
  unfold Dev.fence
  dsimp only
  (repeat' split) <;> simp only [Dev.course_onTow, Dev.course_onCore, Dev.course_appendRetire, Dev.course_log, Dev.course_loseRow, Dev.course_onRow,
    Dev.course_dueReset, Dev.course_onInteg, Dev.course_flag, Dev.course_repairRow]

theorem Dev.course_fmaxFences (d : Dev) : d.fmaxFences.course = d.course := by
  simp only [Dev.fmaxFences, Dev.course_fence, Dev.course_flag, Dev.course_log3, Dev.course_ite, Dev.course_foldl, ite_self, implies_true]

theorem Dev.course_fences (d : Dev) (m : Nat) : (d.fences m).course = d.course := by
  simp only [Dev.fences, Dev.course_onTow, Dev.course_fmaxFences, Dev.course_fence, Dev.course_loseRow, Dev.course_foldl, implies_true]

/-! ### Secure boot -/

theorem Dev.course_onSec (d : Dev) (f : Sec → Sec) : (d.onSec f).course = d.course := by rfl

/-! ### Blocks, resets and the sequencers -/

theorem Dev.course_onBlock (d : Dev) (k : Nat) (f : Block → Block) : (d.onBlock k f).course = d.course := by rfl

theorem Dev.course_resetRegs (d : Dev) (lo hi : Nat) (keep : RegRow → Bool) : (d.resetRegs lo hi keep).course = d.course := by rfl

theorem Dev.course_rowMaps (d : Dev) : d.rowMaps.course = d.course := by
  simp only [Dev.rowMaps, Dev.course_onTow]

theorem Dev.course_beginStart (d : Dev) (k : Nat) : (d.beginStart k).course = d.course := by
  simp only [Dev.beginStart, Dev.course_onBlock, Dev.course_onBundle, Dev.course_calLoadBlock, Dev.course_ite, Dev.course_foldl, ite_self,
    implies_true]

theorem Dev.course_resetScope (d : Dev) (k : Nat) : (d.resetScope k).course = d.course := by
  simp only [Dev.resetScope, Dev.course_calAbandon, Dev.course_onTow, Dev.course_resetRegs, Dev.course_celAnswer, Dev.course_hostAnswer,
    Dev.course_onJil, Dev.course_resetScrub, Dev.course_startStack, Dev.course_onCel, Dev.course_loseDie, Dev.course_ite, Dev.course_foldl, ite_self,
    implies_true]

theorem Dev.course_stopBlock (d : Dev) (k : Nat) (reset : Bool) (last : Nat) (forced : Bool) :
    (d.stopBlock k reset last forced).course = d.course := by
  simp only [Dev.stopBlock, Dev.course_onBlock, Dev.course_onChip, Dev.course_dueReset, Dev.course_sendHold, Dev.course_train, Dev.course_onBundle,
    Dev.course_onHall, Dev.course_loseSlot, Dev.course_resetScope, Dev.course_ite, Dev.course_foldl, ite_self, implies_true]

theorem Dev.course_stopQuad (d : Dev) (k : Nat) (reset : Bool) (last : Nat) (forced : Bool) : (d.stopQuad k reset last forced).course = d.course := by
  simp only [Dev.stopQuad, Dev.course_stopBlock, Dev.course_foldl, implies_true]

theorem course_effectReset (value : Nat) (d : Dev) : (effectReset value d).course = d.course := by
  simp only [effectReset, Dev.course_stopQuad, Dev.course_stopBlock, Dev.course_ite, Dev.course_foldl, ite_self, implies_true]

theorem Dev.course_endDrains (d : Dev) : d.endDrains.course = d.course := by
  simp only [Dev.endDrains, Dev.course_resetScope, Dev.course_onBlock, Dev.course_foldl, implies_true]

theorem Dev.course_enableBlock (d : Dev) (k : Nat) : (d.enableBlock k).course = d.course := by
  unfold Dev.enableBlock
  split
  · rfl
  · dsimp only
    split
    · split
      · exact Dev.course_beginStart _ _
      · rfl
    · rfl
    · rfl

theorem Dev.course_disableBlock (d : Dev) (k : Nat) : (d.disableBlock k).course = d.course := by
  unfold Dev.disableBlock
  split
  · rfl
  · split
    · rfl
    · dsimp only
      split
      · exact Dev.course_stopBlock _ _ _ _ _
      · exact Dev.course_stopQuad _ _ _ _ _

theorem course_effectEnables (mask value : Nat) (d : Dev) : (effectEnables mask value d).course = d.course := by
  simp only [effectEnables, Dev.course_enableBlock, Dev.course_disableBlock, Dev.course_stopBlock, Dev.course_stopQuad, Dev.course_ite,
    Dev.course_foldl, ite_self, implies_true]

theorem Dev.course_regFaults (d : Dev) : d.regFaults.course = d.course := by
  simp only [Dev.regFaults, Dev.course_onChip, Dev.course_stopBlock, Dev.course_foldl, implies_true]

theorem Dev.course_onSeq (d : Dev) (f : Seqs → Seqs) : (d.onSeq f).course = d.course := by rfl

theorem Dev.course_haltLost (d : Dev) (r : Nat) : (d.haltLost r).course = d.course := by
  simp only [Dev.haltLost, Dev.course_onRoom, Dev.course_ite, ite_self]

theorem Dev.course_flagNow (d : Dev) (f : Fld) : (d.flagNow f).course = d.course := by rfl

theorem Dev.course_sequencerLost (d : Dev) : d.sequencerLost.course = d.course := by
  simp only [Dev.sequencerLost, Dev.course_onSeq, Dev.course_haltLost, Dev.course_log3, Dev.course_flagNow, Dev.course_sendMsix, Dev.course_ite,
    Dev.course_foldl, ite_self, implies_true]

theorem Dev.course_standbyLost (d : Dev) : d.standbyLost.course = d.course := by
  simp only [Dev.standbyLost, Dev.course_flag]

theorem Dev.course_release (d : Dev) (cause : Nat) (drill : Bool) : (d.release cause drill).course = d.course := by
  simp only [Dev.release, Dev.course_onSeq, Dev.course_sequencerLost, Dev.course_ite, ite_self]

theorem course_effectDrill (d : Dev) : (effectDrill d).course = d.course := by
  simp only [effectDrill, Dev.course_flag, Dev.course_release, Dev.course_ite, ite_self]

theorem Dev.course_takeControl (d : Dev) (m : Nat) : (d.takeControl m).course = d.course := by
  unfold Dev.takeControl
  split <;> simp only [Dev.course_onSeq, Dev.course_log3, Dev.course_flag, Dev.course_standbyLost, Dev.course_outboundFate, Dev.course_onInteg,
    Dev.course_dueReset, Dev.course_ite, Dev.course_foldl, ite_self, implies_true]

/-! ### Frames and alignment -/

theorem Dev.course_onSync (d : Dev) (f : Sync → Sync) : (d.onSync f).course = d.course := by rfl

theorem Dev.course_applyPeriod (d : Dev) : d.applyPeriod.course = d.course := by
  unfold Dev.applyPeriod
  dsimp only
  split <;> rfl

theorem Dev.course_expireViews (d : Dev) (m : Nat) (who : Nat → Bool) : (d.expireViews m who).course = d.course := by rfl

theorem Dev.course_setSyncLost (d : Dev) (st : SyncSt) : (d.setSyncLost st).course = d.course := by
  simp only [Dev.setSyncLost, Dev.course_onSync, Dev.course_log3, Dev.course_msixReq, Dev.course_flag]

theorem Dev.course_endQuarantine (d : Dev) : d.endQuarantine.course = d.course := by
  simp only [Dev.endQuarantine, Dev.course_onSync]

theorem Dev.course_syncFrame (d : Dev) : d.syncFrame.course = d.course := by
  simp only [Dev.syncFrame, Dev.course_onSync, Dev.course_flag, Dev.course_setSyncLost, Dev.course_endQuarantine, Dev.course_ite, ite_self]

theorem Dev.course_effectSrc (d : Dev) : d.effectSrc.course = d.course := by
  simp only [Dev.effectSrc, Dev.course_onSync, Dev.course_ite, ite_self]

theorem Dev.course_effectCoarse (d : Dev) : d.effectCoarse.course = d.course := by
  simp only [Dev.effectCoarse, Dev.course_badWrite, Dev.course_onSync, Dev.course_ite, ite_self]

theorem course_effectSyncCtl (mask value : Nat) (d : Dev) : (effectSyncCtl mask value d).course = d.course := by
  simp only [effectSyncCtl, Dev.course_effectSrc, Dev.course_effectCoarse, Dev.course_ite, ite_self]

theorem Dev.course_syncOut (d : Dev) (m : Nat) : (d.syncOut m).course = d.course := by
  simp only [Dev.syncOut, Dev.course_onChip, Dev.course_ite, ite_self]

theorem Dev.course_sendTicks (d : Dev) (m : Nat) (tx : List Nat) : (d.sendTicks m tx).course = d.course := by
  simp only [Dev.sendTicks, Dev.course_sendNear, Dev.course_ite, Dev.course_foldl, ite_self, implies_true]

/-! ### Snapshots -/

theorem Dev.course_onSnap (d : Dev) (f : Snap → Snap) : (d.onSnap f).course = d.course := by rfl

theorem Dev.course_collect (d : Dev) : d.collect.course = d.course := by
  simp only [Dev.collect, Dev.course_emit, Dev.course_onSnap, Dev.course_ite, ite_self]

theorem Dev.course_snapLatch (d : Dev) : d.snapLatch.course = d.course := by
  unfold Dev.snapLatch
  dsimp only
  split
  · rfl
  · exact Dev.course_collect _

/-- The TICK trigger of frame `m` (R69), as the frame's beginning fires it. -/
def Dev.fireTick (d : Dev) (m : Nat) : Dev :=
  match d.chip.snap.tick with
  | some x => if (m + d.chip.frm.sync.offset) % frameMod = x then (d.onSnap fun y => { y with tick := none }).fire 3 else d
  | none => d

theorem Dev.snapBegin_eq (d : Dev) (m : Nat) :
    d.snapBegin m = (if d.chip.pair F.SNAP_MATCH_LO F.SNAP_MATCH_HI = m then d.fire 1 else d).fireTick m := rfl

theorem Dev.course_fireTick (d : Dev) (m : Nat) : (d.fireTick m).course = d.course := by
  unfold Dev.fireTick
  split
  · simp only [Dev.course_ite, Dev.course_fire, Dev.course_onSnap, ite_self]
  · rfl

theorem Dev.course_snapBegin (d : Dev) (m : Nat) : (d.snapBegin m).course = d.course := by
  rw [Dev.snapBegin_eq, Dev.course_fireTick]
  simp only [Dev.course_ite, Dev.course_fire, ite_self]

theorem course_snapArm (d : Dev) : (snapArm d).course = d.course := by
  unfold snapArm
  split
  · rfl
  · split <;> rfl

theorem course_snapDisarm (d : Dev) : (snapDisarm d).course = d.course := by
  unfold snapDisarm
  split
  · rfl
  · split <;> rfl

theorem course_snapCollect (d : Dev) : (snapCollect d).course = d.course := by
  simp only [snapCollect, Dev.course_collect, Dev.course_ite, ite_self]

theorem course_effectSnap (value : Nat) (d : Dev) : (effectSnap value d).course = d.course := by
  simp only [effectSnap, course_snapDisarm, course_snapArm, course_snapCollect, Dev.course_ite, ite_self]

/-! ### The host link -/

theorem Dev.course_ownerThreshold (d : Dev) : d.ownerThreshold.course = d.course := by
  simp only [Dev.ownerThreshold, Dev.course_flag, Dev.course_onSec, Dev.course_ite, ite_self]

/-! ### Power caps -/

theorem course_idleCycle (nj ns mean : Nat) (d : Dev) : (idleCycle nj ns mean d).course = d.course := by
  simp only [idleCycle, Dev.course_onPwr, Dev.course_ite, ite_self]

theorem Dev.course_idleBegin (d : Dev) (m : Nat) : (d.idleBegin m).course = d.course := by
  unfold Dev.idleBegin
  dsimp only
  (repeat' split) <;> simp only [Dev.course_onPwr, Dev.course_flag, Dev.course_log3]

theorem Dev.course_fixFreqs (d : Dev) (m : Nat) : (d.fixFreqs m).course = d.course := by
  simp only [Dev.fixFreqs, Dev.course_onRowClk, Dev.course_ite, Dev.course_foldl, ite_self, implies_true]

theorem Dev.course_slewGovern (d : Dev) (m : Nat) (held : Chip → Nat → Bool) : (d.slewGovern m held).course = d.course := by
  simp only [Dev.slewGovern, Dev.course_onPwr, Dev.course_flag, Dev.course_count, Dev.course_ite, ite_self]

theorem Dev.course_tileBallast (d : Dev) : d.tileBallast.course = d.course := by
  simp only [Dev.tileBallast, Dev.course_onPwr]

/-! ### Energy -/

theorem Dev.course_markMeters (d : Dev) (x : Meters) : (d.markMeters x).course = d.course := by
  simp only [Dev.markMeters, Dev.course_onPwr]

theorem Dev.course_slewCheck (d : Dev) (x : Nat × Nat) : (d.slewCheck x).course = d.course := by
  unfold Dev.slewCheck
  split <;> simp only [Dev.course_log3, Dev.course_count, Dev.course_ite, ite_self]

theorem Dev.course_learnOutside (d : Dev) (w : Nat) : (d.learnOutside w).course = d.course := by
  simp only [Dev.learnOutside, Dev.course_onPwr]

theorem Dev.course_powerFrame (d : Dev) (x : Meters) : (d.powerFrame x).course = d.course := by
  simp only [Dev.powerFrame, Dev.course_markMeters, Dev.course_slewCheck, Dev.course_onPwr, Dev.course_learnOutside, Dev.course_count, Dev.course_ite,
    Dev.course_foldl, ite_self, implies_true]

theorem Dev.course_charge (d : Dev) (x : Meters) : (d.charge x).course = d.course := by
  simp only [Dev.charge, Dev.course_onPwr, Dev.course_onChip]

theorem Dev.course_ledgerFrame (d : Dev) (x : Meters) : (d.ledgerFrame x).course = d.course := by
  simp only [Dev.ledgerFrame, Dev.course_onPwr]

/-! ### Publication -/

theorem Dev.course_clearW1c (d : Dev) (m : Nat) : (d.clearW1c m).course = d.course := by rfl

theorem Dev.course_keepW1c (d : Dev) (m : Nat) : (d.keepW1c m).course = d.course := by rfl

theorem Dev.course_sendAll (d : Dev) (l : List (Nat × Nat)) : (d.sendAll l).course = d.course := by
  simp only [Dev.sendAll, Dev.course_sendMsix, Dev.course_foldl, implies_true]

/-! ### The threshold -/

theorem Dev.course_putBits (d : Dev) (key mask value : Nat) : (d.putBits key mask value).course = d.course := by
  unfold Dev.putBits
  split <;> rfl

theorem Dev.course_stagedEffect (d : Dev) (r : RegRow) (i e sel old : Nat) (x : Staged) : (d.stagedEffect r i e sel old x).course = d.course := by
  simp only [Dev.stagedEffect, course_effectSyncCtl, course_effectSnap, course_effectMarch, course_effectHallMaint, course_effectSwap,
    course_effectScrub, course_effectInval, course_effectRoomCtl, course_effectSwitch, course_effectRetry, course_effectPortCtl, course_portEn,
    course_effectNode, course_effectForget, course_effectJobMark, course_effectRun, course_effectReset, course_effectDrill, Dev.course_disableQueue,
    Dev.course_enableQueue, Dev.course_ite, ite_self]

theorem Dev.course_applyStaged (d : Dev) (x : Staged) : (d.applyStaged x).course = d.course := by
  unfold Dev.applyStaged
  split <;> simp only [Dev.course_putBits, course_effectEnables, course_effectStagger, Dev.course_stagedEffect, Dev.course_ite, ite_self]

theorem Dev.course_applyDue (d : Dev) (m : Nat) : (d.applyDue m).course = d.course :=
  (Dev.course_foldl Dev.course_keyChanged _ _).trans (Dev.course_foldl Dev.course_applyStaged _ _)

theorem Dev.course_upsets (d : Dev) (f : Facts) : (d.upsets f).course = d.course := by
  simp only [Dev.upsets, Dev.course_onTow, Dev.course_cellUpsets, Dev.course_onCel]

theorem Dev.course_tripRooms (d : Dev) : d.tripRooms.course = d.course := by
  simp only [Dev.tripRooms, Dev.course_onRoom, Dev.course_onInteg, Dev.course_ite, Dev.course_foldl, ite_self, implies_true]

theorem Dev.course_arrivalsEnd (s : State) (d : Dev) : (Dev.arrivalsEnd s d).course = d.course := by
  simp only [Dev.arrivalsEnd, Dev.course_soaFinish, Dev.course_endReplays, Dev.course_cellarFrame, course_injectFrame, Dev.course_flagsFrame,
    Dev.course_bucketFrame]

theorem Dev.course_observeHeld (d : Dev) : d.observeHeld.course = d.course := by
  simp only [Dev.observeHeld, Dev.course_observe, Dev.course_ite, Dev.course_foldl, ite_self, implies_true]

theorem Dev.course_railsGood (d : Dev) (ok : Bool) : (d.railsGood ok).course = d.course := by
  simp only [Dev.railsGood, Dev.course_onChip, Dev.course_ite, ite_self]

theorem Dev.course_shiftHall (d : Dev) : d.shiftHall.course = d.course := by
  simp only [Dev.shiftHall, Dev.course_onTow, Dev.course_onHall]

theorem Dev.course_storeWords (d : Dev) : d.storeWords.course = d.course := by
  simp only [Dev.storeWords, Dev.course_onCore, Dev.course_onTow, Dev.course_foldl, implies_true]

theorem Dev.course_settings (d : Dev) (m : Nat) : (d.settings m).course = d.course := by
  simp only [Dev.settings, Dev.course_regFaults, Dev.course_endDrains, course_beginMarches, Dev.course_ownerThreshold, Dev.course_applyDue,
    Dev.course_onSec, Dev.course_applyPeriod]

theorem Dev.course_foresee (d : Dev) (m : Nat) : (d.foresee m).course = d.course := by
  unfold Dev.foresee
  refine Dev.course_foldl (fun d r => ?_) _ _
  split
  · simp only [Dev.course_ite, Dev.course_dueReset, ite_self]
  · rfl

theorem Dev.course_judgeFrame (s : State) (d : Dev) (m : Nat) : (Dev.judgeFrame s d m).course = d.course := by
  simp only [Dev.judgeFrame, Dev.course_outboundCheck, Dev.course_comparePosts, Dev.course_foresee, Dev.course_loadReset, course_judgeRoom,
    Dev.course_onInteg, Dev.course_foldl, implies_true]

theorem Dev.course_planIdle (d : Dev) : d.planIdle.course = d.course := by
  simp only [Dev.planIdle, course_idleInsert, Dev.course_phyFrame, course_idleCycle, Dev.course_ite, ite_self]

theorem Dev.course_resetAll (r cause : Nat) (d : Dev) : (Dev.resetAll r cause d).course = d.course := by
  simp only [Dev.resetAll, Dev.course_resetInject, Dev.course_resetReqs, Dev.course_resetCellar, Dev.course_resetQueues, Dev.course_resetRoom]

theorem Dev.course_hallStep2 (d : Dev) (m : Nat) (f : Facts) : (d.hallStep2 m f).course = d.course := by
  simp only [Dev.hallStep2, Dev.course_onHall, Dev.course_retireLine, Dev.course_retireSlices, course_endGroups, course_retireRings,
    Dev.course_postMasks, Dev.course_startAgreements, Dev.course_runAgreements, Dev.course_foldl, implies_true]

theorem course_hallStep3 (d : Dev) (r : Nat) : (hallStep3 d r).course = d.course := by
  unfold hallStep3
  dsimp only
  (repeat' split) <;> simp only [Dev.course_setFolds, Dev.course_flag, Dev.course_renumberRoom, Dev.course_onRoom, Dev.course_haltRoom]

theorem Dev.course_loadNow (d : Dev) : d.loadNow.course = d.course := by
  unfold Dev.loadNow
  split <;> simp only [Dev.course_resetAll, Dev.course_loadEffect, Dev.course_ite, ite_self]

theorem course_stepTrees (d : Dev) (r : Nat) : (stepTrees d r).course = d.course := by
  unfold stepTrees
  split <;> rfl

theorem course_stepRuns (d : Dev) (r : Nat) : (stepRuns d r).course = d.course := by
  simp only [stepRuns, Dev.course_intakeRoom, Dev.course_replyRuns]

theorem Dev.course_roomsBegin (d : Dev) (m : Nat) (f : Facts) : (d.roomsBegin m f).course = d.course := by
  simp only [Dev.roomsBegin, course_relockRings, course_lightSwaps, Dev.course_fences, Dev.course_rowMaps, Dev.course_calSteps, course_roomStep1,
    Dev.course_resetAll, course_sampleArrivals, Dev.course_releaseQueues, Dev.course_clears, Dev.course_hallStep2, course_hallStep3, course_roomStep6,
    Dev.course_loadNow, Dev.course_slewGovern, course_roomStep7, Dev.course_shiftQueues, Dev.course_freeReplies, course_stepTrees, course_stepRuns,
    Dev.course_foldl, implies_true]

theorem Dev.course_idleFrame (d : Dev) (m : Nat) : (d.idleFrame m).course = d.course := Dev.course_idleBegin d m

theorem Dev.course_restBegin (d : Dev) (m : Nat) (f : Facts) : (d.restBegin m f).course = d.course := by
  simp only [Dev.restBegin, course_breakMaps, course_portsThreshold, course_lightPolicy, course_keyThreshold, Dev.course_clearLoss,
    Dev.course_rowFreqs, Dev.course_policyInForce, Dev.course_fixFreqs, Dev.course_sendTicks, Dev.course_snapBegin, Dev.course_expireViews,
    Dev.course_ite, ite_self]

theorem Dev.course_postpone (d : Dev) (m : Nat) : (d.postpone m).course = d.course := by
  simp only [Dev.postpone, Dev.course_onHall, Dev.course_onLight, Dev.course_onJil, Dev.course_onTow, Dev.course_onCel, Dev.course_onPwr,
    Dev.course_onBit]

theorem Dev.course_loseFrame (d : Dev) : d.loseFrame.course = d.course := by rfl

theorem Dev.course_countLost (d : Dev) : d.countLost.course = d.course := by
  simp only [Dev.countLost, Dev.course_onSeq]

/-! ## The hardware trip -/

theorem Dev.course_setBlock (d : Dev) (k : Nat) (b : Chip → Block) : (d.onChip fun c => c.setBlock k (b c)).course = d.course := rfl

theorem Dev.course_setLight (d : Dev) (g : Chip → Light) : (d.onChip fun c => { c with light := g c }).course = d.course := rfl

theorem Dev.course_setPins (d : Dev) (g : Chip → Pins) : (d.onChip fun c => { c with pins := g c }).course = d.course := rfl

/-- From `d` to `e` nothing of the course changes, or the module trips. -/
def Dev.Trips (d e : Dev) : Prop := e.course = d.course ∨ e.course = { d.course with tripped := true }

theorem Dev.Trips.trans {d e f : Dev} (h : d.Trips e) (k : e.Trips f) : d.Trips f := by
  obtain h | h := h <;> obtain k | k := k
  · exact .inl (k.trans h)
  · exact .inr (by rw [k, h])
  · exact .inr (k.trans h)
  · exact .inr (by rw [k, h])

theorem Dev.Trips.foldl {α : Type} {f : Dev → α → Dev} (h : ∀ (d : Dev) a, d.Trips (f d a)) (l : List α) (d : Dev) :
    d.Trips (l.foldl f d) :=
  List.foldlRecOn (motive := d.Trips) l f (.inl rfl) fun _ he a _ => he.trans (h _ a)

/-- Blocks that switch off leave the course. -/
theorem Dev.course_allOff (l : List Nat) (d : Dev) :
    (l.foldl (fun d b => d.onChip fun c => c.setBlock b { c.block b with st := .off }) d).course = d.course :=
  Dev.course_foldl (fun d b => Dev.course_setBlock d b _) l d

/-- Ports that go down leave the course. -/
theorem Dev.course_allDown (l : List Nat) (d : Dev) :
    (l.foldl (fun d q => if (d.chip.port q).st = 0 then d else d.portTo q 1 0) d).course = d.course :=
  Dev.course_foldl (fun d q => by simp only [Dev.course_ite, Dev.course_portTo, ite_self]) l d

/-- The first trip sets it; later ones are counted (R479). -/
theorem Dev.trips_thermalTrip (d : Dev) (k : Nat) : d.Trips (d.thermalTrip k) := by
  unfold Dev.thermalTrip
  dsimp only
  split
  · exact .inl rfl
  · refine .inr ?_
    rw [Dev.course_allDown, Dev.course_setLight, Dev.course_allOff, Dev.course_setPins, Dev.course_log3]
    rfl

theorem Dev.trips_sensorPlausible (d : Dev) (rowMw stackMw : Nat → Nat) (k : Nat) : d.Trips (d.sensorPlausible rowMw stackMw k) := by
  unfold Dev.sensorPlausible
  extract_lets x
  split
  · exact .inl rfl
  · split
    · exact .inl rfl
    · extract_lets low fine d₁ y d₂
      have h : d₂.course = d.course := by
        simp only [d₂, d₁, Dev.course_ite, Dev.course_suspectNow, Dev.course_onSensor, ite_self]
      clear_value d₂
      split
      · exact .trans (.inl h) (d₂.trips_thermalTrip k)
      · exact .inl h

theorem Dev.trips_thermalThreshold (d : Dev) (rowMw stackMw mean : Nat → Nat) : d.Trips (d.thermalThreshold rowMw stackMw mean) := by
  unfold Dev.thermalThreshold
  extract_lets now was d₁ d₂ d₃ d₄ d₅ d₆ d₇
  have h₃ : d₃.course = d.course := by
    simp only [d₃, d₂, d₁, Dev.course_foldl, Dev.course_ite, Dev.course_flag, Dev.course_sensorBegin, Dev.course_sensorValue, ite_self,
      implies_true]
  clear_value d₃
  have h₄ : d₃.Trips d₄ := .foldl (fun d k => d.trips_sensorPlausible rowMw stackMw k) _ _
  clear_value d₄
  have h₇ : (d₇.coolDown now).course = d₄.course := by
    simp only [d₇, d₆, d₅, Dev.course_coolDown, Dev.course_ite, Dev.course_count, Dev.course_foldl, Dev.course_episode, Dev.course_sensorBand,
      ite_self, implies_true]
  exact .trans (.inl h₃) (h₄.trans (.inl h₇))

theorem Dev.trips_measure (d : Dev) (f : Facts) : d.Trips (d.measure f) := by
  unfold Dev.measure
  extract_lets x d₁ ns d₂
  have h₁ : d₁.course = d.course := Dev.course_powerFrame _ _
  have h₂ : d₁.Trips d₂ := d₁.trips_thermalThreshold _ _ _
  refine .trans (.inl h₁) (h₂.trans (.inl ?_))
  rw [Dev.course_ledgerFrame, Dev.course_charge, course_lightMeasure]

/-- The frame that ends is judged and measured; of the course only the trip may change (R479). -/
theorem Dev.trips_endFrame (s : State) (m : Nat) (f : Facts) (d : Dev) : d.Trips (Dev.endFrame s m f d) := by
  unfold Dev.endFrame
  extract_lets d₁ d₂ d₃ d₄
  have h₁ : d₁.course = d.course := Dev.course_upsets _ _
  split
  · refine .trans (.inl ((Dev.course_tripRooms d₁).trans h₁)) (.trans (d₁.tripRooms.trips_measure f) (.inl (Dev.course_syncFrame _)))
  · have h₂ : (d₂.judgeChans m).calTriggers.course = d.course := by
      simp only [d₂, Dev.course_calTriggers, Dev.course_judgeChans, Dev.course_judgeFrame, Dev.course_arrivalsEnd, h₁]
    have h₄ : d₄.syncFrame.course = ((d₂.judgeChans m).calTriggers.measure f).course := by
      simp only [d₄, d₃, Dev.course_syncFrame, course_throttledTime, Dev.course_commitQueues, Dev.course_planIdle]
    exact .trans (.inl h₂) (.trans (Dev.trips_measure _ f) (.inl h₄))

/-! ## Publication -/

/-- The chip that a publication of frame `n` shows (R54). -/
def Chip.publishedAs (c : Chip) (n : Nat) : Chip :=
  { c with frm := { c.frm with commit := n, published := true }, seq := c.seq.checkpoint n }

theorem Dev.course_publishAll (d : Dev) (n : Nat) :
    (d.publishAll n).course = { d.course with commit := n, published := true, pub := d.chip.publishedAs n } :=
  Dev.course_sendAll _ _

/-- A tripped device publishes no frame (R479). -/
theorem Dev.course_publishTrip (d : Dev) : ∃ p : Chip, p.frm = d.pub.frm ∧ d.publishTrip.course = { d.course with pub := p } := by
  unfold Dev.publishTrip
  extract_lets msgs d₁ regs pub p
  have h : ({ d₁ with pub := p, irq := [] } : Dev).course = { d.course with pub := p } := rfl
  exact ⟨p, rfl, (Dev.course_sendAll _ _).trans h⟩

/-- From `x` to `y` a frame is published: the one that ended is the last committed one (R54), but for a tripped device (R479). -/
structure Course.Publishes (x y : Course) : Prop where
  tripped : x.tripped = true → y.pub.frm = x.pub.frm ∧ y = { x with pub := y.pub }
  ended : x.tripped = false → y.pub.frm.commit = x.cur ∧ y.pub.frm.published = true ∧ y.pub.frm.cur = x.cur
    ∧ y = { x with commit := x.cur, published := true, pub := y.pub }

theorem Dev.course_publish (d : Dev) (m : Nat) : d.course.Publishes (d.publish m).course := by
  unfold Dev.publish
  extract_lets n d₁ d₂ d₃
  have h₁ : d₁.course = d.course := Dev.course_publishLog d
  have hn : n = d₁.course.cur := (congrArg Course.cur h₁).symm
  rw [← h₁]
  clear_value n d₁
  subst hn
  constructor <;> intro (ht : d₁.chip.thm.tripped = _) <;> rw [ht]
  · obtain ⟨p, hp, hc⟩ := Dev.course_publishTrip (d₁.clearW1c m)
    have hk : (d₁.clearW1c m).course = d₁.course := Dev.course_clearW1c d₁ m
    rw [if_pos rfl, hc, hk]
    exact ⟨hp.trans (congrArg (fun x => x.pub.frm) hk), rfl⟩
  · have h₂ : (d₂.clearW1c m).course = d₁.course := by
      simp only [d₂, Dev.course_clearW1c, Dev.course_observeHeld, Dev.course_observe]
    rw [if_neg Bool.false_ne_true, Dev.course_inbandSend, Dev.course_publishQueues, Dev.course_snapLatch, Dev.course_publishAll, h₂]
    exact ⟨rfl, rfl, congrArg Course.cur h₂, rfl⟩

/-- After the judgement of the frame that ended, which may trip the module, what a publication leaves (R54, R479). -/
theorem Course.Publishes.of_trips {x y z : Course} (h : y = x ∨ y = { x with tripped := true }) (k : y.Publishes z) :
    (z.tripped = false → z.commit = x.cur ∧ z.pub.frm.commit = x.cur ∧ z.pub.frm.published = true ∧ z.pub.frm.cur = x.cur)
    ∧ (x.tripped = true → z.commit = x.commit ∧ z.pub.frm = x.pub.frm) := by
  cases ht : y.tripped with
  | true =>
    obtain ⟨hpub, hz⟩ := k.tripped ht
    have hzt : z.tripped = true := (congrArg Course.tripped hz).trans ht
    refine ⟨fun hn => absurd hn (by simp [hzt]), fun _ => ⟨(congrArg Course.commit hz).trans ?_, hpub.trans ?_⟩⟩
    · obtain rfl | rfl := h <;> rfl
    · obtain rfl | rfl := h <;> rfl
  | false =>
    obtain ⟨hcommit, hpublished, hcur, hz⟩ := k.ended ht
    obtain rfl | rfl := h
    · exact ⟨fun _ => ⟨congrArg Course.commit hz, hcommit, hpublished, hcur⟩, fun hx => absurd hx (by simp [ht])⟩
    · cases ht

/-! ## The frame that begins -/

theorem Dev.course_setFrame (d : Dev) (m t : Nat) :
    (d.setFrame m t).course = { d.course with begun := true, cur := m, time := t, safe := false } := rfl

theorem Dev.course_putSafe (d : Dev) (b : Bool) :
    (d.onChip fun c => { c with frm := { c.frm with safe := b } }).course = { d.course with safe := b } := rfl

/-- A safe frame begins at its time and is marked as one (R521). -/
theorem Dev.course_safeFrame (d : Dev) (m t : Nat) (rails : Bool) :
    (d.safeFrame m t rails).course = { d.course with begun := true, cur := m, time := t, safe := true } := by
  unfold Dev.safeFrame
  extract_lets e
  simp only [Dev.course_snapBegin, Dev.course_foldl, course_roomStep7, implies_true, Dev.course_tileBallast, Dev.course_shiftHall,
    Dev.course_syncOut]
  rw [Dev.course_putSafe, Dev.course_railsGood, Dev.course_setFrame, Dev.course_loseFrame]

/-! ## What a safe frame leaves besides -/

/-- The memory operations and the failures of the frame, and the sequencers. -/
structure Rest where
  wr : List MemOp
  failed : List (Nat × Nat)
  seq : Seqs

/-- These parts of a device. -/
def Dev.rest (d : Dev) : Rest := { wr := d.wr, failed := d.failed, seq := d.chip.seq }

theorem Dev.rest_ite {p : Prop} [Decidable p] (d e : Dev) : (if p then d else e).rest = if p then d.rest else e.rest :=
  apply_ite Dev.rest p d e

theorem Dev.rest_foldl {α : Type} {f : Dev → α → Dev} (h : ∀ d a, (f d a).rest = d.rest) (l : List α) (d : Dev) :
    (l.foldl f d).rest = d.rest := foldl_kept Dev.rest h l d

theorem Dev.rest_onRoom (d : Dev) (r : Nat) (f : Room → Room) : (d.onRoom r f).rest = d.rest := by rfl

theorem Dev.rest_onLatch (d : Dev) (ep x : Nat) (f : Latch → Latch) : (d.onLatch ep x f).rest = d.rest := by rfl

theorem Dev.rest_onCore (d : Dev) (k : Nat) (f : Core → Core) : (d.onCore k f).rest = d.rest := by rfl

theorem Dev.rest_fire (d : Dev) (src cls : Nat) : (d.fire src cls).rest = d.rest := by
  obtain ⟨sn, cnt, tot, h, -⟩ := Claims.fire_eq d src cls
  rw [h]
  rfl

theorem Dev.rest_fireTick (d : Dev) (m : Nat) : (d.fireTick m).rest = d.rest := by
  unfold Dev.fireTick
  split
  · rw [Dev.rest_ite, Dev.rest_fire]
    exact ite_self _
  · rfl

theorem Dev.rest_snapBegin (d : Dev) (m : Nat) : (d.snapBegin m).rest = d.rest := by
  rw [Dev.snapBegin_eq, Dev.rest_fireTick, Dev.rest_ite, Dev.rest_fire, ite_self]

theorem Dev.rest_startCore (t : Step) (e : CoreE) (c : Nat) (d : Dev) : (startCore t e c d).rest = d.rest := by rfl

theorem Dev.rest_roomStep7 (held : Nat → Bool) (d : Dev) (r : Nat) : (roomStep7 held d r).rest = d.rest := by
  unfold roomStep7
  dsimp only
  split
  · rfl
  · split
    · simp only [Dev.rest_foldl, Dev.rest_onRoom, Dev.rest_onLatch, Dev.rest_onCore, implies_true]
    · simp only [Dev.rest_foldl, Dev.rest_onRoom, Dev.rest_onLatch, Dev.rest_startCore, implies_true]

theorem Dev.rest_tileBallast (d : Dev) : d.tileBallast.rest = d.rest := rfl

theorem Dev.rest_shiftHall (d : Dev) : d.shiftHall.rest = d.rest := rfl

theorem Dev.rest_syncOut (d : Dev) (m : Nat) : (d.syncOut m).rest = d.rest := by
  unfold Dev.syncOut
  split <;> rfl

theorem Dev.rest_railsGood (d : Dev) (ok : Bool) : (d.railsGood ok).rest = d.rest := by
  unfold Dev.railsGood
  split <;> rfl

theorem Dev.rest_putSafe (d : Dev) (b : Bool) : (d.onChip fun c => { c with frm := { c.frm with safe := b } }).rest = d.rest := rfl

/-- A safe frame forgets the failures of the one before it (R521); it writes no memory and leaves the sequencers. -/
theorem Dev.rest_safeFrame (d : Dev) (m t : Nat) (rails : Bool) : (d.safeFrame m t rails).rest = { d.rest with failed := [] } := by
  unfold Dev.safeFrame
  extract_lets e
  have he : e.rest = { d.rest with failed := [] } := by
    simp only [e, Dev.rest_putSafe, Dev.rest_railsGood]
    rfl
  rw [Dev.rest_snapBegin, Dev.rest_foldl (Dev.rest_roomStep7 _), Dev.rest_tileBallast, Dev.rest_shiftHall, Dev.rest_syncOut, he]

/-- A frame that a takeover loses is counted (R524). -/
theorem Dev.countLost_seq {d : Dev} {k : Takeover} (hk : d.chip.seq.take = some k) :
    d.countLost.chip.seq.lostFrames = satAdd 32 d.chip.seq.lostFrames 1 := by
  simp [Dev.countLost, Dev.onSeq, hk]

theorem Dev.railsGood_out (d : Dev) (ok : Bool) (o : List Out) :
    ({ d with out := o } : Dev).railsGood ok = { d.railsGood ok with out := o } := by
  unfold Dev.railsGood
  split <;> rfl

theorem Dev.Clean.railsGood {d : Dev} (h : d.Clean) (ok : Bool) : (d.railsGood ok).Clean := by
  unfold Dev.railsGood
  split
  · exact h.congr rfl rfl
  · exact h

/-! ## The state around the device -/

/-- The queue, and the supply, the reset and the lock of the gate. -/
def State.outline (s : State) : List Instr × Bool × Bool × Bool := (s.pending, s.gate.powered, s.gate.held, s.gate.locked)

theorem commit_outline (s : State) (d : Dev) : (commit s d).outline = s.outline := rfl

theorem commit_course (s : State) (d : Dev) : (commit s d).dev.course = d.course := by
  simp only [Dev.course, commit_chip, commit_pub]

/-- An effect on the state of the module keeps its outline and the course of its device. -/
def State.Coasts (s t : State) : Prop := t.outline = s.outline ∧ t.dev.course = s.dev.course

theorem State.Coasts.trans {s t u : State} (h : s.Coasts t) (k : t.Coasts u) : s.Coasts u := ⟨k.1.trans h.1, k.2.trans h.2⟩

theorem State.coasts_armNow (s : State) : s.Coasts s.armNow := by
  unfold State.armNow
  split
  · exact ⟨rfl, rfl⟩
  · dsimp only
    split <;> exact ⟨rfl, rfl⟩

theorem State.coasts_disarmNow (s : State) : s.Coasts s.disarmNow := by
  unfold State.disarmNow
  split <;> exact ⟨rfl, rfl⟩

theorem State.coasts_startInj (s : State) (m : Nat) : s.Coasts (s.startInj m) := by
  unfold State.startInj
  extract_lets i
  split
  · exact ⟨rfl, rfl⟩
  · split
    · exact ⟨rfl, Dev.course_injectOnce s.dev i⟩
    · exact ⟨rfl, rfl⟩

/-- Writes of ARM and DISARM that are due at one threshold (R443). -/
theorem State.coasts_injDue (due : List (Bool × Nat)) (s : State) :
    s.Coasts (due.foldl (fun s x => if x.1 then s.armNow else s.disarmNow) s) := by
  refine List.foldlRecOn (motive := s.Coasts) due _ ⟨rfl, rfl⟩ fun t ht x _ => ?_
  split
  · exact ht.trans t.coasts_armNow
  · exact ht.trans t.coasts_disarmNow

theorem State.coasts_injThreshold (s : State) (m : Nat) : s.Coasts (s.injThreshold m) := by
  unfold State.injThreshold
  extract_lets g allow due s₁ s₂
  have h₁ : s.Coasts s₁ := ⟨rfl, rfl⟩
  have h₂ : s₁.Coasts s₂ := s₁.coasts_injDue due
  exact h₁.trans (h₂.trans (s₂.coasts_startInj m))

theorem Dev.course_withFailed (d : Dev) (l : List (Nat × Nat)) : ({ d with failed := l } : Dev).course = d.course := rfl

/-- From `s` to `t` frame `m` begins at time `time`, in control of a sequencer and with no failure left over. -/
structure State.Begins (s : State) (m time : Nat) (t : State) : Prop where
  outline : t.outline = s.outline
  course : t.dev.course = { s.dev.course with begun := true, cur := m, time, safe := false }
  failed : t.dev.failed = []

theorem State.begins_begin (s : State) (was : Chip) (m t : Nat) (f : Facts) : s.Begins m t (s.begin was m t f) := by
  unfold State.begin
  extract_lets d s₁ s₂ moved r f' d'
  have hd : d.course = { s.dev.course with begun := true, cur := m, time := t, safe := false } := by
    rw [← Dev.course_setFrame]
    exact Dev.course_railsGood _ _
  have h₁ : s₁.dev.course = d.course := by
    simp only [s₁, commit_course, Dev.course_settings, Dev.course_storeWords, Dev.course_shiftHall]
  obtain ⟨hout, h₂⟩ := s₁.coasts_injThreshold m
  have hr : r.2.course = s₂.dev.course := Dev.course_rereads _ _ _
  have h' : d'.course = r.2.course := by
    simp only [d', Dev.course_raiseBuffers, Dev.course_restBegin, Dev.course_roomsBegin, Dev.course_equalisers, Dev.course_idleFrame,
      Dev.course_syncOut, Dev.course_cellarRead]
  clear_value d' r
  refine ⟨(commit_outline _ _).trans (hout.trans (commit_outline _ _)), ?_, commit_failed _ _⟩
  rw [commit_course, Dev.course_withFailed, h', hr, h₂, h₁, hd]

/-- A device that leaves no memory operation, as a command commits it. -/
theorem commit_of_rest (s : State) {e : Dev} {r : Rest} {x : Course} (hr : e.rest = r) (hw : r.wr = []) (hx : e.course = x) :
    (commit s e).outline = s.outline ∧ (commit s e).mem = s.mem ∧ (commit s e).dev.course = x
      ∧ (commit s e).dev.failed = r.failed ∧ (commit s e).dev.chip.seq = r.seq := by
  subst hr hx
  have he : e.wr = [] := hw
  rw [commit_mem, commit_course, commit_failed, commit_chip, he, Mem.apply_nil]
  exact ⟨commit_outline s e, rfl, rfl, rfl, rfl⟩

/-- From `s` to `t` safe frame `m` begins at time `time`: no failure of the one before it is left over, and memory stays (R521). The
sequencers are `q`. -/
structure State.Parks (s : State) (q : Seqs) (m time : Nat) (t : State) : Prop where
  outline : t.outline = s.outline
  mem : t.mem = s.mem
  course : t.dev.course = { s.dev.course with begun := true, cur := m, time, safe := true }
  failed : t.dev.failed = []
  seq : t.dev.chip.seq = q

theorem State.parks_safeFrame (s : State) {d : Dev} (hd : d.course = s.dev.course) (hw : d.wr = []) (m t : Nat) (rails : Bool) :
    s.Parks d.chip.seq m t (commit s (d.safeFrame m t rails)) := by
  have hcourse := Dev.course_safeFrame d m t rails
  rw [hd] at hcourse
  obtain ⟨ho, hm, hc, hf, hs⟩ := commit_of_rest s (Dev.rest_safeFrame d m t rails) hw hcourse
  exact ⟨ho, hm, hc, hf, hs⟩

/-! ## Frames that are lost, and the frame that ended -/

/-- The state in which frame `m` of the standby begins, after the frames that the takeover lost (R524, R525). -/
def State.takeOver (s : State) (m : Nat) : State :=
  (commit s (((s.dev.countLost.keepW1c m).loseFrame.postpone m).takeControl m)).postponeInj m

/-- The state in which frame `m` begins after a safe frame (R521). -/
def State.recover (s : State) (m : Nat) : State := (commit s ((s.dev.keepW1c m).loseFrame.postpone m)).postponeInj m

/-- The state in which frame `m` begins after one that ended and was published (R54). -/
def State.publishEnded (s : State) (m : Nat) (f : Facts) : State :=
  let s := commit s (Dev.endFrame s m f s.dev)
  commit s ((s.dev.onInteg fun i => { i with injShown := (s.gate.inj.st.code, s.gate.inj.left) }).publish m)

/-- After the frame that began, when it was the first of a standby in control, the next is not (R526). -/
def State.passFirst (s : State) (first : Bool) : State :=
  if first then { s with dev := s.dev.onSeq fun x => { x with firstFrame := false } } else s

theorem State.Begins.passFirst {s t : State} {m time : Nat} (h : s.Begins m time t) (first : Bool) : s.Begins m time (t.passFirst first) := by
  cases first
  · exact h
  · exact ⟨h.outline, h.course, h.failed⟩

theorem State.coasts_takeOver (s : State) (m : Nat) : s.Coasts (s.takeOver m) := by
  refine ⟨rfl, (commit_course s _).trans ?_⟩
  rw [Dev.course_takeControl, Dev.course_postpone, Dev.course_loseFrame, Dev.course_keepW1c, Dev.course_countLost]

theorem State.coasts_recover (s : State) (m : Nat) : s.Coasts (s.recover m) := by
  refine ⟨rfl, (commit_course s _).trans ?_⟩
  rw [Dev.course_postpone, Dev.course_loseFrame, Dev.course_keepW1c]

/-- The frame that ended is judged, which may trip the module, and published. -/
theorem State.trips_publishEnded (s : State) (m : Nat) (f : Facts) :
    ∃ d, s.dev.Trips d ∧ d.course.Publishes (s.publishEnded m f).dev.course := by
  unfold State.publishEnded
  extract_lets s₁
  have h₁ : s.dev.Trips s₁.dev := by
    rw [Dev.Trips, commit_course]
    exact Dev.trips_endFrame s m f s.dev
  rw [commit_course]
  exact ⟨_, h₁.trans (.inl (Dev.course_onInteg _ _)), Dev.course_publish _ m⟩

/-! ## The branches of the threshold -/

section
variable {s : State} (f : Facts)

theorem threshold_waits (hb : s.dev.chip.frm.begun = false) (hd : s.dev.chip.driven = false) :
    threshold f s = commit s (s.dev.railsGood f.rails) := by
  simp [threshold, hb, hd]

theorem threshold_first (hb : s.dev.chip.frm.begun = false) (hd : s.dev.chip.driven = true) :
    s.Begins 0 s.dev.chip.frm.time (threshold f s) := by
  have h : threshold f s = s.begin s.dev.chip 0 s.dev.chip.frm.time f := by simp [threshold, hb, hd]
  exact h ▸ s.begins_begin ..

variable (hb : s.dev.chip.frm.begun = true)
include hb

section
variable (hw : s.dev.wr = [])
include hw

theorem threshold_lost (hl : s.dev.chip.seq.lost = true) :
    s.Parks s.dev.chip.seq (nextFrame s.dev.chip.frm.cur) s.dev.chip.endTime (threshold f s) := by
  have h : threshold f s = commit s (s.dev.safeFrame (nextFrame s.dev.chip.frm.cur) s.dev.chip.endTime f.rails) := by simp [threshold, hb, hl]
  exact h ▸ s.parks_safeFrame rfl hw ..

variable (hl : s.dev.chip.seq.lost = false)
include hl

theorem threshold_handover {k : Takeover} (hk : s.dev.chip.seq.take = some k) (ht : k.taken = false) :
    s.Parks s.dev.countLost.chip.seq (nextFrame s.dev.chip.frm.cur) s.dev.chip.endTime (threshold f s) := by
  have h : threshold f s = commit s (s.dev.countLost.safeFrame (nextFrame s.dev.chip.frm.cur) s.dev.chip.endTime f.rails) := by
    simp [threshold, hb, hl, hk, ht]
  exact h ▸ s.parks_safeFrame (Dev.course_countLost _) hw ..

theorem threshold_unset (hk : s.dev.chip.seq.take = none) (hf : f.settings = false) :
    s.Parks s.dev.chip.seq (nextFrame s.dev.chip.frm.cur) s.dev.chip.endTime (threshold f s) := by
  have h : threshold f s = commit s (s.dev.safeFrame (nextFrame s.dev.chip.frm.cur) s.dev.chip.endTime f.rails) := by
    simp [threshold, hb, hl, hk, hf]
  exact h ▸ s.parks_safeFrame rfl hw ..

end

variable (hl : s.dev.chip.seq.lost = false)
include hl

theorem threshold_taken {k : Takeover} (hk : s.dev.chip.seq.take = some k) (ht : k.taken = true) :
    (s.takeOver (nextFrame s.dev.chip.frm.cur)).Begins (nextFrame s.dev.chip.frm.cur) s.dev.chip.endTime (threshold f s) := by
  have h : threshold f s = (s.takeOver (nextFrame s.dev.chip.frm.cur)).begin s.dev.chip (nextFrame s.dev.chip.frm.cur)
      s.dev.chip.endTime f := by simp [threshold, hb, hl, hk, ht, State.takeOver]
  exact h ▸ State.begins_begin ..

variable (hk : s.dev.chip.seq.take = none) (hf : f.settings = true)
include hk hf

theorem threshold_recovers (hs : s.dev.chip.frm.safe = true) :
    (s.recover (nextFrame s.dev.chip.frm.cur)).Begins (nextFrame s.dev.chip.frm.cur) s.dev.chip.endTime (threshold f s) := by
  have h : threshold f s = (s.recover (nextFrame s.dev.chip.frm.cur)).begin s.dev.chip (nextFrame s.dev.chip.frm.cur)
      s.dev.chip.endTime f := by simp [threshold, hb, hl, hk, hf, hs, State.recover]
  exact h ▸ State.begins_begin ..

theorem threshold_publishes (hs : s.dev.chip.frm.safe = false) :
    (s.publishEnded (nextFrame s.dev.chip.frm.cur) f).Begins (nextFrame s.dev.chip.frm.cur) s.dev.chip.endTime (threshold f s) := by
  have h : threshold f s = ((s.publishEnded (nextFrame s.dev.chip.frm.cur) f).begin s.dev.chip (nextFrame s.dev.chip.frm.cur)
      s.dev.chip.endTime f).passFirst s.dev.chip.seq.firstFrame := by
    simp only [threshold, hb, hl, hk, hf, hs, Bool.not_true, Bool.false_eq_true, if_false, if_true]
    rfl
  rw [h]
  exact (State.begins_begin ..).passFirst _

end

end Sys2Proof.Machine

namespace Sys2Proof.Claims

open Host Sys2Proof.Machine

/-- A threshold of a module that acts. -/
theorem exec_threshold {s : State} (hr : Ready s) (f : Facts) : ∃ t, exec (.threshold f) s = .next t
    ∧ t = threshold f { s with dev := { s.dev with out := [] } } ∧ t.mem.wf = true := by
  let s₀ : State := { s with dev := { s.dev with out := [] } }
  have hinv : Inv s₀ := ⟨hr.1.mem, hr.1.lock, hr.1.wr, hr.1.used⟩
  have hgate : ¬ (s.gate.powered = true ∧ s.gate.held = true) := by
    have hact : (s.gate.powered && !s.gate.held) = true := hr.2
    simp_all
  have hexec : exec (.threshold f) s = runsAll s (threshold f) := if_neg hgate
  exact ⟨_, hexec.trans (runsAll_active hr.2 _), rfl, ((Settles.threshold s₀ f).inv hinv).1.mem⟩

/-- Settles O33: each case is a branch of the threshold; what it leaves of the device's course, of the queue and of the gate. -/
theorem thresholds : Obligations.Thresholds := by
  unfold Obligations.Thresholds
  intro s f hr c same safe ran
  obtain ⟨t, hexec, ht, hwf⟩ := exec_threshold hr f
  let s₀ : State := { s with dev := { s.dev with out := [] } }
  have hw : s₀.dev.wr = [] := hr.1.wr
  have hkept (h : t.outline = s₀.outline) : same t := by
    simp only [State.outline, Prod.mk.injEq] at h
    obtain ⟨hp, hpow, hheld, hlock⟩ := h
    exact ⟨hp, hpow, hheld, hlock, hwf⟩
  have hsafe {q : Seqs} (h : s₀.Parks q (nextFrame c.frm.cur) c.endTime (threshold f s₀)) :
      safe t ∧ t.dev.chip.frm.safe = true ∧ t.dev.failed = [] ∧ t.dev.chip.seq = q ∧ same t := by
    obtain ⟨hout, hmem, hcourse, hfailed, hseq⟩ := ht ▸ h
    exact ⟨⟨congrArg Course.cur hcourse, congrArg Course.commit hcourse, congrArg Course.pub hcourse, congrArg Course.time hcourse,
      fun a => by rw [hmem]⟩, congrArg Course.safe hcourse, hfailed, hseq, hkept hout⟩
  have hran {u : State} {m time : Nat} (hu : s₀.Coasts u) (h : u.Begins m time (threshold f s₀)) :
      (t.dev.chip.frm.cur = m ∧ t.dev.chip.frm.begun = true ∧ t.dev.chip.frm.safe = false ∧ t.dev.chip.frm.time = time ∧ t.dev.failed = [])
      ∧ t.dev.chip.frm.commit = c.frm.commit ∧ t.dev.pub = s.dev.pub ∧ same t := by
    obtain ⟨hout, hcourse, hfailed⟩ := ht ▸ h
    rw [hu.2] at hcourse
    exact ⟨⟨congrArg Course.cur hcourse, congrArg Course.begun hcourse, congrArg Course.safe hcourse, congrArg Course.time hcourse, hfailed⟩,
      congrArg Course.commit hcourse, congrArg Course.pub hcourse, hkept (hout.trans hu.1)⟩
  refine ⟨fun hb hd => ?_, fun hb hd => ?_, fun hb hl => ?_, fun k hb hl hk hn => ?_, fun hb hl hk hf => ?_, fun hb hl hk => ?_,
    fun k hb hl hk hn => ?_, fun hb hl hk hf hs => ?_, fun hb hl hk hf hs => ?_⟩
  · have hwait : threshold f s₀ = commit s₀ (s₀.dev.railsGood f.rails) := threshold_waits f hb hd
    rw [commit_of_clean s₀ (hr.clean.railsGood f.rails), Dev.railsGood_out] at hwait
    exact ⟨t, hexec, ht.trans hwait⟩
  · obtain ⟨⟨hcur, hbegun, hsf, htime, hfailed⟩, -, hpub, hsame⟩ := hran ⟨rfl, rfl⟩ (threshold_first (s := s₀) f hb hd)
    exact ⟨t, hexec, hcur, hbegun, hsf, htime, hfailed, hpub, hsame⟩
  · obtain ⟨h, -, -, -, hsame⟩ := hsafe (threshold_lost f hb hw hl)
    exact ⟨t, hexec, h, hsame⟩
  · obtain ⟨h, -, -, hseq, hsame⟩ := hsafe (threshold_handover f hb hw hl hk hn)
    exact ⟨t, hexec, h, hseq ▸ Dev.countLost_seq hk, hsame⟩
  · obtain ⟨h, hsf, -, -, hsame⟩ := hsafe (threshold_unset f hb hw hl hk hf)
    exact ⟨t, hexec, h, hsf, hsame⟩
  · cases hf : f.settings with
    | false =>
      obtain ⟨-, -, hfailed, -, hsame⟩ := hsafe (threshold_unset f hb hw hl hk hf)
      exact ⟨t, hexec, hfailed, hsame⟩
    | true =>
      cases hs : c.frm.safe with
      | false =>
        obtain ⟨hout, -, hfailed⟩ := ht ▸ threshold_publishes (s := s₀) f hb hl hk hf hs
        exact ⟨t, hexec, hfailed, hkept hout⟩
      | true =>
        obtain ⟨hout, -, hfailed⟩ := ht ▸ threshold_recovers (s := s₀) f hb hl hk hf hs
        exact ⟨t, hexec, hfailed, hkept hout⟩
  · obtain ⟨h, hcommit, hpub, hsame⟩ := hran (s₀.coasts_takeOver _) (threshold_taken f hb hl hk hn)
    exact ⟨t, hexec, h, hcommit, hpub, hsame⟩
  · obtain ⟨h, hcommit, hpub, hsame⟩ := hran (s₀.coasts_recover _) (threshold_recovers f hb hl hk hf hs)
    exact ⟨t, hexec, h, hcommit, hpub, hsame⟩
  · obtain ⟨hout, hcourse, hfailed⟩ := ht ▸ threshold_publishes (s := s₀) f hb hl hk hf hs
    obtain ⟨d, hd, hp⟩ := s₀.trips_publishEnded (nextFrame c.frm.cur) f
    obtain ⟨hok, htrip⟩ := hp.of_trips hd
    refine ⟨t, hexec, ⟨congrArg Course.cur hcourse, congrArg Course.begun hcourse, congrArg Course.safe hcourse,
      congrArg Course.time hcourse, hfailed⟩, hkept hout, ?_⟩
    rw [← congrArg Course.commit hcourse, ← congrArg Course.pub hcourse] at hok htrip
    rw [← congrArg Course.tripped hcourse] at hok
    exact ⟨hok, htrip⟩

end Sys2Proof.Claims
end

section
/-! PROOF. Operations of a core's units (R140, R141, R155): what a word that starts at once leaves, whatever it computes. -/

namespace Sys2Proof.Machine

open Host

/-! ## What an operation leaves of the device -/

/-- Where a core stands in its program. -/
structure Standing where
  pc : Nat
  loops : List Loop
  st : CoreSt

/-- The standing of a core. -/
def Core.standing (c : Core) : Standing := { pc := c.pc, loops := c.loops, st := c.st }

/-- The register files of a core (R119). -/
structure Files where
  s : Tab Word
  p : Tab Bool
  m : Tab (BitVec 128)
  w : Tab (BitVec 2048)
  d : Tab (BitVec 256)
  b : Tab Bank

/-- The files of a core. -/
def Core.files (c : Core) : Files := { s := c.s, p := c.p, m := c.m, w := c.w, d := c.d, b := c.b }

/-- A chip with other cores. -/
def Chip.withCores (c : Chip) (t : Tab Core) : Chip := { c with tow := { c.tow with cores := t } }

/-- What makes `e` of `d` is a matter of core `n`: no other core changed, and nothing outside the device's own parts. -/
structure Dev.Local (n : Nat) (d e : Dev) : Prop where
  others : ∀ j, j ≠ n → e.chip.core j = d.chip.core j
  outer : e.outerParts = d.outerParts
  used : e.injUsed = d.injUsed

/-- It is work of core `n`, which stands where it stood. -/
structure Dev.Works (n : Nat) (d e : Dev) : Prop extends Dev.Local n d e where
  standing : (e.chip.core n).standing = (d.chip.core n).standing

/-- The work writes no memory. -/
structure Dev.Reads (n : Nat) (d e : Dev) : Prop extends Dev.Works n d e where
  wr : e.wr = d.wr

/-- The work stays among registers: of the chip only core `n` changed. -/
structure Dev.Computes (n : Nat) (d e : Dev) : Prop extends Dev.Reads n d e where
  chip : e.chip = d.chip.withCores e.chip.tow.cores

theorem Dev.Local.trans {n : Nat} {d e f : Dev} (h : d.Local n e) (k : e.Local n f) : d.Local n f :=
  ⟨fun j hj => (k.others j hj).trans (h.others j hj), k.outer.trans h.outer, k.used.trans h.used⟩

theorem Dev.Works.trans {n : Nat} {d e f : Dev} (h : d.Works n e) (k : e.Works n f) : d.Works n f :=
  ⟨h.toLocal.trans k.toLocal, k.standing.trans h.standing⟩

theorem Dev.Reads.refl (n : Nat) (d : Dev) : d.Reads n d := ⟨⟨⟨fun _ _ => rfl, rfl, rfl⟩, rfl⟩, rfl⟩

theorem Dev.Reads.trans {n : Nat} {d e f : Dev} (h : d.Reads n e) (k : e.Reads n f) : d.Reads n f :=
  ⟨h.toWorks.trans k.toWorks, k.wr.trans h.wr⟩

theorem Dev.Computes.refl (n : Nat) (d : Dev) : d.Computes n d := ⟨.refl n d, rfl⟩

theorem Dev.Computes.trans {n : Nat} {d e f : Dev} (h : d.Computes n e) (k : e.Computes n f) : d.Computes n f :=
  ⟨h.toReads.trans k.toReads, k.chip.trans (congrArg (Chip.withCores · f.chip.tow.cores) h.chip :)⟩

/-- What leaves all the cores as they are, memory, and what lies outside the device's own parts. -/
theorem Dev.Reads.of_cores {n : Nat} {d e : Dev} (hc : e.chip.tow.cores = d.chip.tow.cores) (ho : e.outerParts = d.outerParts)
    (hu : e.injUsed = d.injUsed) (hw : e.wr = d.wr) : d.Reads n e := by
  have hcore (j : Nat) : e.chip.core j = d.chip.core j := congrArg (Tab.get ({} : Core) · j) hc
  exact ⟨⟨⟨fun j _ => hcore j, ho, hu⟩, by rw [hcore]⟩, hw⟩

/-- What leaves the chip as it is. -/
theorem Dev.Computes.of_chip {n : Nat} {d e : Dev} (hc : e.chip = d.chip) (ho : e.outerParts = d.outerParts) (hu : e.injUsed = d.injUsed)
    (hw : e.wr = d.wr) : d.Computes n e :=
  ⟨.of_cores (by rw [hc]) ho hu hw, by rw [hc]; rfl⟩

/-- A change of the core that does not move it. -/
theorem Dev.Computes.onCore (n : Nat) (d : Dev) (f : Core → Core) (hf : (f (d.chip.core n)).standing = (d.chip.core n).standing) :
    d.Computes n (d.onCore n f) where
  others j hj := by rw [core_onCore, if_neg hj]
  outer := rfl
  used := rfl
  standing := by rw [core_onCore, if_pos rfl, hf]
  wr := rfl
  chip := rfl

theorem Dev.Computes.flagMask (n : Nat) (d : Dev) (f : Fld) (mask i e sel : Nat) : d.Computes n (d.flagMask f mask i e sel) :=
  .of_chip rfl rfl rfl rfl

theorem Dev.Computes.count (n : Nat) (d : Dev) (f : Fld) (c i e sel : Nat) : d.Computes n (d.count f c i e sel) := .of_chip rfl rfl rfl rfl

theorem Dev.Computes.withFree (n : Nat) (d : Dev) (k : Nat) : d.Computes n { d with free := k } := .of_chip rfl rfl rfl rfl

/-- Flags set by an operation (R114). -/
theorem Dev.Computes.coreFlags (n : Nat) (d : Dev) (mask : Nat) : d.Computes n (d.coreFlags n mask) := by
  unfold Dev.coreFlags
  split
  · exact .refl n d
  · exact (Dev.Computes.onCore n d _ (by rfl)).trans (.flagMask ..)

/-- Saturations counted (R116). -/
theorem Dev.Computes.countSat (n : Nat) (d : Dev) (c : Nat) : d.Computes n (d.countSat n c) := by
  unfold Dev.countSat
  split
  · exact .refl n d
  · exact .count ..

/-- The fetch counts its corrected errors (R78). -/
theorem Dev.Computes.fetchEcc (d : Dev) (k : Fetch) : d.Computes k.core (d.fetchEcc k) := by
  unfold Dev.fetchEcc
  extract_lets n
  split
  · exact .refl _ d
  · exact .count ..

/-- An error event (R441). -/
theorem Dev.Reads.log (n : Nat) (d : Dev) (e : LogEv) : d.Reads n (d.log e) := by
  obtain ⟨i, sn, cnt, tot, h, -, -⟩ := Claims.log_eq d e
  rw [h]
  exact .of_cores rfl rfl rfl rfl

/-- A room's frame fails (R290, R430). -/
theorem Dev.Reads.failRoom (n : Nat) (d : Dev) (room cause : Nat) : d.Reads n (d.failRoom room cause) := by
  unfold Dev.failRoom
  split <;> exact .of_cores rfl rfl rfl rfl

@[simp] theorem Dev.log_cores (d : Dev) (e : LogEv) : (d.log e).chip.tow.cores = d.chip.tow.cores := by
  obtain ⟨i, sn, cnt, tot, h, -, -⟩ := Claims.log_eq d e
  rw [h]

@[simp] theorem Dev.failRoom_cores (d : Dev) (room cause : Nat) : (d.failRoom room cause).chip.tow.cores = d.chip.tow.cores := by
  unfold Dev.failRoom
  split <;> rfl

@[simp] theorem Dev.coreFlags_files (d : Dev) (n mask : Nat) : ((d.coreFlags n mask).chip.core n).files = (d.chip.core n).files := by
  unfold Dev.coreFlags
  split
  · rfl
  · rw [Dev.flagMask_chip, core_onCore, if_pos rfl]
    rfl

@[simp] theorem Dev.countSat_chip (d : Dev) (n c : Nat) : (d.countSat n c).chip = d.chip := by
  unfold Dev.countSat
  split <;> rfl

/-- The core after its word: issue goes on to the next word (R155). -/
def Core.wentOn (c : Core) : Core := { c with pc := (advance c.pc c.loops).1, loops := (advance c.pc c.loops).2 }

theorem next_wentOn {d : Dev} {n : Nat} (h : (advance (d.chip.core n).pc (d.chip.core n).loops).1 ≤ 0xFFF) :
    d.next n = d.onCore n Core.wentOn := next_eq rfl rfl h

/-! ## The device in which an operation starts -/

/-- The device after the fetch of a word. -/
def fetched (s : State) (k : Fetch) : Dev := ({ s.dev with out := [] } : Dev).fetchEcc k

theorem fetched_chip (s : State) (k : Fetch) : (fetched s k).chip = s.dev.chip := fetchEcc_chip _ k

theorem computes_fetched (s : State) (k : Fetch) : s.dev.Computes k.core (fetched s k) := by
  have hout : s.dev.Computes k.core { s.dev with out := [] } := .of_chip rfl rfl rfl rfl
  exact hout.trans (.fetchEcc _ k)

/-- The device in which the operation of a word acts whose unit was free (R141). -/
def started (s : State) (k : Fetch) (cls op : Nat) (w : OpWord) : Dev := begunDev s k cls op w ((coreAt s k).capture cls op w true {})

section
variable (s : State) (k : Fetch) (cls op : Nat) (w : OpWord)

theorem core_started : (started s k cls op w).chip.core k.core = (coreAt s k).begun cls op w ((coreAt s k).capture cls op w true {}) :=
  core_begunDev s k cls op w _ rfl

/-- Up to its start an operation is work of its core among registers. -/
theorem computes_started : s.dev.Computes k.core (started s k cls op w) := by
  have hnote (c : Core) : (c.noteWrites cls op w true).standing = c.standing := by
    rw [Core.noteWrites_state]
    rfl
  have hnoted := (computes_fetched s k).trans (.onCore k.core _ (fun c => c.noteWrites cls op w true) (hnote _))
  exact hnoted.trans (.onCore k.core _
    (fun c => { c with flight := c.flight ++ [(unitOf cls, (coreAt s k).capture cls op w true {})] }) rfl)

@[simp] theorem started_files : ((started s k cls op w).chip.core k.core).files = (coreAt s k).files := by
  rw [core_started, Core.begun, Core.noteWrites_state]
  rfl

@[simp] theorem started_flags : ((started s k cls op w).chip.core k.core).flags = (coreAt s k).flags := by
  rw [core_started, Core.begun, Core.noteWrites_state]

@[simp] theorem started_free : (started s k cls op w).free = s.dev.free := by
  have hfetch (d : Dev) : (d.fetchEcc k).free = d.free := by
    unfold Dev.fetchEcc
    extract_lets
    split <;> rfl
  exact hfetch _

@[simp] theorem started_rdM (j : Nat) : ((started s k cls op w).chip.core k.core).rdM j = (coreAt s k).rdM j :=
  congrArg (fun f : Files => if j = 0 then BitVec.allOnes 128 else Tab.get 0 f.m j) (started_files s k cls op w)

@[simp] theorem started_rdW (j : Nat) : ((started s k cls op w).chip.core k.core).rdW j = (coreAt s k).rdW j :=
  congrArg (fun f : Files => Tab.get 0 f.w j) (started_files s k cls op w)

@[simp] theorem started_rdB (j : Nat) : ((started s k cls op w).chip.core k.core).rdB j = (coreAt s k).rdB j :=
  congrArg (fun f : Files => Tab.get ({} : Bank) f.b j) (started_files s k cls op w)

@[simp] theorem started_wr (h : s.dev.wr = []) : (started s k cls op w).wr = [] := (computes_started s k cls op w).wr.trans h

@[simp] theorem started_frm : (started s k cls op w).chip.frm = s.dev.chip.frm :=
  (congrArg Chip.frm (computes_started s k cls op w).chip :)

end

end Sys2Proof.Machine

namespace Sys2Proof.Claims

open Host Sys2Proof.Machine

/-! ## The state that an operation leaves -/

theorem keepsOuter_commit {s : State} {e : Dev} (ho : e.outerParts = s.dev.outerParts) (hu : e.injUsed = 0) : KeepsOuter s (commit s e) := by
  refine ⟨rfl, by simp [hu], ?_⟩
  simp only [commit_pub, commit_staged, commit_views, commit_flash, commit_calFlash, commit_latched]
  exact ⟨congrArg OuterParts.pub ho, congrArg OuterParts.staged ho, congrArg OuterParts.views ho, congrArg OuterParts.flash ho,
    congrArg OuterParts.calFlash ho, congrArg OuterParts.latched ho⟩

/-- A word whose operation starts at once and makes `e` of the device: its core goes on from `e` (R140, R155). -/
theorem unit_works {s : State} {k : Fetch} {cls op : Nat} {w : OpWord} (h : Starts s k cls op w) (hc : cls < 4) (ho : op < 256) {e : Dev}
    (he : opEffect k.core ((coreAt s k).capture cls op w true {}) s (started s k cls op w) = e) (hw : (started s k cls op w).Works k.core e) :
    ∃ t, runs s (unitWord cls op k w s) = .next t ∧ GoesOn s t k ∧ (coreAt t k).files = (e.chip.core k.core).files
      ∧ (coreAt t k).flags = (e.chip.core k.core).flags ∧ t.mem = s.mem.apply e.wr
      ∧ (s.dev.Computes k.core e → OnlyGoesOn s t k) := by
  obtain ⟨hinv, hissues, hfree, hgo⟩ := h
  have hworks : s.dev.Works k.core e := (computes_started s k cls op w).toWorks.trans hw
  have hrun : runs s (unitWord cls op k w s) = .next (commit s (e.next k.core)) := by
    subst he
    exact unit_starts hc ho hissues hfree
  have hstand : (e.chip.core k.core).standing = (coreAt s k).standing := hworks.standing
  have hpc : (e.chip.core k.core).pc = (coreAt s k).pc := congrArg Standing.pc hstand
  have hloops : (e.chip.core k.core).loops = (coreAt s k).loops := congrArg Standing.loops hstand
  have hnext : e.next k.core = e.onCore k.core Core.wentOn := next_wentOn (by rw [hpc, hloops]; exact of_decide_eq_true hgo)
  have hcore : coreAt (commit s (e.next k.core)) k = (e.chip.core k.core).wentOn := by
    rw [coreAt, commit_chip, hnext, core_onCore, if_pos rfl]
  have hothers (j : Nat) (hj : j ≠ k.core) : (commit s (e.next k.core)).dev.chip.core j = s.dev.chip.core j := by
    rw [commit_chip, hnext, core_onCore, if_neg hj, hworks.others j hj]
  have hmem : (commit s (e.next k.core)).mem = s.mem.apply e.wr := by
    rw [commit_mem, hnext]
    rfl
  have hat : AtNext s (commit s (e.next k.core)) k := by
    rw [AtNext, hcore, ← hpc, ← hloops]
    exact ⟨rfl, rfl, (congrArg Standing.st hstand).trans (issues_running hissues)⟩
  have houter : KeepsOuter s (commit s (e.next k.core)) := by
    refine keepsOuter_commit ?_ ?_
    · rw [hnext]
      exact hworks.outer
    · rw [hnext]
      exact hworks.used.trans hinv.used
  refine ⟨_, hrun, ⟨hat, hothers, houter⟩, by rw [hcore]; rfl, by rw [hcore]; rfl, hmem, fun hcomp => ⟨hat, ⟨hothers, ?_⟩, ?_, houter⟩⟩
  · rw [commit_chip, hnext]
    exact (congrArg (Chip.withCores · (e.onCore k.core Core.wentOn).chip.tow.cores) hcomp.chip :)
  · intro a
    rw [hmem, hcomp.wr, hinv.wr]
    rfl

/-- A word whose operation stays among registers. -/
theorem unit_computes {s : State} {k : Fetch} {cls op : Nat} {w : OpWord} (h : Starts s k cls op w) (hc : cls < 4) (ho : op < 256) {e : Dev}
    (he : opEffect k.core ((coreAt s k).capture cls op w true {}) s (started s k cls op w) = e)
    (hw : (started s k cls op w).Computes k.core e) :
    ∃ t, runs s (unitWord cls op k w s) = .next t ∧ (coreAt t k).files = (e.chip.core k.core).files ∧ OnlyGoesOn s t k := by
  obtain ⟨t, hrun, -, hfiles, -, -, hgo⟩ := unit_works h hc ho he hw.toWorks
  exact ⟨t, hrun, hfiles, hgo ((computes_started s k cls op w).trans hw)⟩

end Sys2Proof.Claims
end

section
/-! PROOF. Operations on the lanes of vector registers (R111, R152): what their sources read, and what a write of lanes leaves. -/

namespace Sys2Proof.Machine

open Host

/-! ## Register files -/

section
variable {c c' : Core} (h : c.files = c'.files)
include h

theorem Core.rdS_of_files (j : Nat) : c.rdS j = c'.rdS j := congrArg (fun f : Files => if j = 0 then 0 else Tab.get 0 f.s j) h

theorem Core.rdM_of_files (j : Nat) : c.rdM j = c'.rdM j :=
  congrArg (fun f : Files => if j = 0 then BitVec.allOnes 128 else Tab.get 0 f.m j) h

theorem Core.rdW_of_files (j : Nat) : c.rdW j = c'.rdW j := congrArg (fun f : Files => Tab.get 0 f.w j) h

theorem Core.rdB_of_files (j : Nat) : c.rdB j = c'.rdB j := congrArg (fun f : Files => Tab.get ({} : Bank) f.b j) h

theorem Core.wrS_of_files (i : Nat) (v : Word) : (c.wrS i v).files = (c'.wrS i v).files := by
  unfold Core.wrS
  split
  · exact h
  · exact (congrArg (fun f : Files => { f with s := Tab.put 0 f.s i v }) h :)

theorem Core.wrM_of_files (i : Nat) (v : BitVec 128) : (c.wrM i v).files = (c'.wrM i v).files := by
  unfold Core.wrM
  split
  · exact h
  · exact (congrArg (fun f : Files => { f with m := Tab.put 0 f.m i v }) h :)

theorem Core.wrW_of_files (i : Nat) (v : BitVec 2048) : (c.wrW i v).files = (c'.wrW i v).files :=
  (congrArg (fun f : Files => { f with w := Tab.put 0 f.w i v }) h :)

end

/-! A register read after a write of another file. -/

@[simp] theorem Core.wrS_rdW (c : Core) (i j : Nat) (v : Word) : (c.wrS i v).rdW j = c.rdW j := by simp [Core.rdW]
@[simp] theorem Core.wrW_rdS (c : Core) (i j : Nat) (v : BitVec 2048) : (c.wrW i v).rdS j = c.rdS j := rfl
@[simp] theorem Core.wrM_rdW (c : Core) (i j : Nat) (v : BitVec 128) : (c.wrM i v).rdW j = c.rdW j := by simp [Core.rdW]

/-! ## The word -/

/-- What issue says of the word itself (R130). -/
theorem issues_legal {s : State} {k : Fetch} {cls op : Nat} {w : OpWord} {f : MacFault} (h : issues s k cls op w f = true) :
    wordLegal cls op w = true := by
  simp only [issues, Bool.and_eq_true] at h
  tauto

/-- A legal word has values that its operation allows (R130). -/
theorem valuesOk_of_legal {cls op : Nat} {w : OpWord} (h : wordLegal cls op w = true) : valuesOk cls op w = true := by
  unfold wordLegal at h
  split at h
  · cases h
  · simp only [Bool.and_eq_true] at h
    tauto

/-! ## Sources and random bits -/

/-- The sixteen bits that each of `n` lanes draws where rounding is stochastic (R102). -/
theorem drawLanes_eq (sr : Bool) (n : Nat) (d : Dev) : drawLanes sr n d =
    ((List.range n).map fun l => if sr then some (Config.srBits (d.free + l)).toNat else none, if sr then { d with free := d.free + n } else d) := by
  cases sr with
  | false => simp [drawLanes]
  | true =>
    simp only [drawLanes, if_true]
    induction n with
    | zero => rfl
    | succ n ih =>
      rw [List.range_succ, List.foldl_append, ih, List.map_append]
      rfl

/-- Drawing leaves the chip. -/
theorem drawLanes_chip (sr : Bool) (n : Nat) (d : Dev) : (drawLanes sr n d).2.chip = d.chip := by
  rw [drawLanes_eq]
  cases sr <;> rfl

/-- Drawing is work among registers. -/
theorem Dev.Computes.drawLanes (core : Nat) (sr : Bool) (n : Nat) (d : Dev) : d.Computes core (drawLanes sr n d).2 := by
  rw [drawLanes_eq]
  cases sr
  · exact .refl core d
  · exact .withFree core d _

section
variable {s : State} {k : Fetch} {cls op : Nat} {w : OpWord}

/-- The random bits of a lane (R102, R152). -/
theorem drawLanes_randOf {n l : Nat} (hl : l < n) :
    (drawLanes (bitOf w.h 8) n (started s k cls op w)).1.getD l none = Claims.randOf s w l := by
  rw [drawLanes_eq]
  simp [hl, Claims.randOf]

/-- A lane of the second source (R152). -/
theorem src2_getD {ty l : Nat} (hf : ((opForm cls op w).getD {}).f2 = vsrc w) (hl : l < laneCount ty) :
    (src2 ((started s k cls op w).chip.core k.core) ((coreAt s k).capture cls op w true {}) ty).getD l 0 = Claims.laneB s k w ty l := by
  unfold src2 Claims.laneB
  simp only [capture_w, started_rdW]
  split
  · next hb => simp [hl, Core.capture, hf, vsrc, hb, src]
  · exact lanes_getD ty _ l hl

/-- A lane of a vector register that the operation reads. -/
theorem started_lane {ty l : Nat} (i : Nat) (hl : l < laneCount ty) :
    (lanes ty (((started s k cls op w).chip.core k.core).rdW i)).getD l 0 = lane ty ((coreAt s k).rdW i) l := by
  rw [started_rdW, lanes_getD _ _ _ hl]

end

end Sys2Proof.Machine

namespace Sys2Proof.Claims

open Host Sys2Proof.Machine

/-! ## What a register's write leaves -/

/-- One vector register written. -/
theorem onlyW_of_files {s t : State} {k : Fetch} {i : Nat} {v : BitVec 2048} (h : (coreAt t k).files = ((coreAt s k).wrW i v).files) :
    OnlyW s t k i :=
  ⟨fun j hj => by rw [Core.rdW_of_files h, Core.rdW_wrW, if_neg hj], congrArg Files.s h, congrArg Files.p h, congrArg Files.m h,
    congrArg Files.d h, congrArg Files.b h⟩

/-- One scalar register written. -/
theorem onlyS_of_files {s t : State} {k : Fetch} {i : Nat} {v : Word} (h : (coreAt t k).files = ((coreAt s k).wrS i v).files) :
    OnlyS s t k i := by
  refine ⟨fun j hj => ?_, (congrArg Files.p h).trans (Core.wrS_p ..), (congrArg Files.m h).trans (Core.wrS_m ..),
    (congrArg Files.w h).trans (Core.wrS_w ..), (congrArg Files.d h).trans (Core.wrS_d ..), (congrArg Files.b h).trans (Core.wrS_b ..)⟩
  rw [Core.rdS_of_files h, Core.rdS_wrS, if_neg hj]
  split
  · next h0 => simp [Core.rdS, h0]
  · rfl

/-- One lane mask written. -/
theorem onlyM_of_files {s t : State} {k : Fetch} {i : Nat} {v : BitVec 128} (h : (coreAt t k).files = ((coreAt s k).wrM i v).files) :
    OnlyM s t k i := by
  refine ⟨fun j hj => ?_, (congrArg Files.s h).trans (Core.wrM_s ..), (congrArg Files.p h).trans (Core.wrM_p ..),
    (congrArg Files.w h).trans (Core.wrM_w ..), (congrArg Files.d h).trans (Core.wrM_d ..), (congrArg Files.b h).trans (Core.wrM_b ..)⟩
  rw [Core.rdM_of_files h, Core.rdM_wrM, if_neg hj]
  split
  · next h0 => simp [Core.rdM, h0]
  · rfl

/-! ## Operations that write lanes -/

section
variable {s : State} {k : Fetch} {op : Nat} {w : OpWord}

/-- An operation that writes the lanes `outs` of F0 under its mask: every enabled lane takes its output (R152). -/
theorem vec_done (h : Starts s k 2 op w) (ho : op < 256) {outs : List LaneOut} {d : Dev} (hd : (started s k 2 op w).Computes k.core d)
    (hc : d.chip = (started s k 2 op w).chip) (he : opEffect k.core ((coreAt s k).capture 2 op w true {}) s (started s k 2 op w) =
      writeLanes k.core ((coreAt s k).capture 2 op w true {}) (laneTy w) outs d) (hn : outs.length = laneCount (laneTy w)) {f : Nat → Nat}
    (hf : ∀ l, l < laneCount (laneTy w) → (outs.getD l (0, 0)).1 % 2 ^ laneBits (laneTy w) = f l % 2 ^ laneBits (laneTy w)) :
    ∃ t, runs s (unitWord 2 op k w s) = .next t ∧ VecDone s t k w f := by
  have hcomp : (started s k 2 op w).Computes k.core (writeLanes k.core ((coreAt s k).capture 2 op w true {}) (laneTy w) outs d) :=
    hd.trans ((Dev.Computes.onCore _ _ _ rfl).trans (.coreFlags ..))
  obtain ⟨t, hrun, hfiles, hgo⟩ := unit_computes h (by omega) ho he hcomp
  have hwrote : (coreAt t k).files = ((coreAt s k).wrW (opIdx w.f0) (mergeLanes (laneTy w) ((coreAt s k).rdM (maskIdx w))
      ((coreAt s k).rdW (opIdx w.f0)) (outs.map Prod.fst))).files := by
    rw [hfiles, writeLanes, Dev.coreFlags_files, core_onCore, if_pos rfl, hc]
    simp only [capture_w, started_rdM, started_rdW]
    exact Core.wrW_of_files (started_files s k 2 op w) _ _
  refine ⟨t, hrun, fun l hl => ?_, onlyW_of_files hwrote, hgo⟩
  have hlen : l < outs.length := hn ▸ hl
  rw [Core.rdW_of_files hwrote, Core.rdW_wrW, if_pos rfl, lane_mergeLanes _ _ _ _ _ hl, enabled, ← hf l hl]
  simp [hlen]

/-- A floating-point operation of two sources (R111). -/
theorem vecFloat2_done (h : Starts s k 2 op w) (ho : op < 256) (hf2 : ((opForm 2 op w).getD {}).f2 = vsrc w) (f : FV → FV → FV)
    (he : ∀ d, opEffect k.core ((coreAt s k).capture 2 op w true {}) s d = vecFloat2 k.core ((coreAt s k).capture 2 op w true {}) f d) :
    ∃ t, runs s (unitWord 2 op k w s) = .next t ∧ VecDone s t k w fun l =>
      (floatLane (laneTy w) (randOf s w l) (f ((laneFmt (laneTy w)).decode (laneA s k w (laneTy w) l))
        ((laneFmt (laneTy w)).decode (laneB s k w (laneTy w) l))) [(laneFmt (laneTy w)).decode (laneA s k w (laneTy w) l),
          (laneFmt (laneTy w)).decode (laneB s k w (laneTy w) l)]).1 := by
  refine vec_done h ho (.drawLanes ..) (drawLanes_chip ..) ((he _).trans rfl) (by simp) fun l hl => ?_
  simp only [capture_w, List.getD_eq_getElem?_getD, List.getElem?_map, List.getElem?_range hl, Option.map_some, Option.getD_some]
  simp only [← List.getD_eq_getElem?_getD, started_lane _ hl, src2_getD hf2 hl, drawLanes_randOf hl, laneA]

/-- The multiply-add (R111). -/
theorem fma_done (h : Starts s k 2 0x04 w) :
    ∃ t, runs s (unitWord 2 0x04 k w s) = .next t ∧ VecDone s t k w fun l =>
      let x := (laneFmt (laneTy w)).decode (laneA s k w (laneTy w) l)
      let y := (laneFmt (laneTy w)).decode (laneB s k w (laneTy w) l)
      let z := (laneFmt (laneTy w)).decode (lane (laneTy w) ((coreAt s k).rdW (opIdx w.f3)) l)
      (floatLane (laneTy w) (randOf s w l) ((x.mul y).add z) [x, y, z]).1 := by
  have hf2 : ((opForm 2 0x04 w).getD {}).f2 = vsrc w := rfl
  refine vec_done h (by omega) (.drawLanes ..) (drawLanes_chip ..) rfl (by simp) fun l hl => ?_
  simp only [capture_w, List.getD_eq_getElem?_getD, List.getElem?_map, List.getElem?_range hl, Option.map_some, Option.getD_some]
  simp only [← List.getD_eq_getElem?_getD, started_lane _ hl, src2_getD hf2 hl, drawLanes_randOf hl, laneA]

end

/-- Settles O7: each operation writes, lane by lane, the rounded exact result of what its sources read. -/
theorem floatLanes : Obligations.FloatLanes := by
  unfold Obligations.FloatLanes
  intro s k w ty x y z
  refine ⟨fun h => ?_, fun h => ?_, fun h => ?_, fun h => ?_⟩
  · exact vecFloat2_done h (by omega) rfl FV.add fun _ => rfl
  · exact vecFloat2_done h (by omega) rfl (fun x y => x.add y.neg) fun _ => rfl
  · exact vecFloat2_done h (by omega) rfl FV.mul fun _ => rfl
  · exact fma_done h

end Sys2Proof.Claims
end

section
/-! PROOF. Traps (R78, R123, R130, R161, R290). -/

namespace Sys2Proof.Machine

open Host

/-! ## Words that may not issue -/

section
variable {d : Dev} {k : Fetch} (hk : coreExists k.core = true) (hst : (d.chip.core k.core).st = .running) (hwt : (d.chip.core k.core).wait = none)
include hk hst hwt

/-- A double-bit error of the fetch traps (R78). -/
theorem coreWord_istore (hecc : k.eccLo = 2 ∨ k.eccHi = 2) (cls op : Nat) (w : OpWord) (fault : MacFault) (ctl : CtlEffect) (s : State) :
    coreWord cls op k w fault ctl s d = (d.fetchEcc k).trap k.core trapIstore (d.chip.core k.core).pc := by
  unfold coreWord
  simp [hk, hst, hwt, hecc]

/-- A word whose class or code is not listed traps (R130). -/
theorem coreWord_unlisted (hecc : ¬ (k.eccLo = 2 ∨ k.eccHi = 2))
    (hform : let x := unpackWord (Tab.get 0 (d.chip.core k.core).istore (d.chip.core k.core).pc).toNat; opForm x.1 x.2.1 x.2.2 = none)
    (cls op : Nat) (w : OpWord) (fault : MacFault) (ctl : CtlEffect) (s : State) :
    coreWord cls op k w fault ctl s d = (d.fetchEcc k).trap k.core trapIllegal (d.chip.core k.core).pc := by
  dsimp only at hform
  unfold coreWord
  simp only [hform, if_neg hecc]
  simp [hk, hst, hwt]

end

/-! ## What a trap does -/

/-- A core that trapped: the first trap of the frame is recorded (R161). -/
def Core.trapped (c : Core) (code pc user : Nat) : Core :=
  { c with st := .trapped, wait := none, trappedNow := true
           trapCode := if c.trappedNow then c.trapCode else code
           trapAddr := if c.trappedNow then c.trapAddr else pc
           userCode := if code = 6 then user else c.userCode }

/-- A failed room is listed with its cause (R290, R430). -/
theorem Dev.mem_failRoom (d : Dev) (room cause : Nat) : (room, cause) ∈ (d.failRoom room cause).failed := by
  show (room, cause) ∈ (if (room, cause) ∈ d.failed then d else { d with failed := d.failed ++ [(room, cause)] } : Dev).failed
  split
  · assumption
  · simp

section
variable (d : Dev) (n code pc user : Nat) (rec : List Byte)

/-- A trap as the change of its core, and what the first one of a frame reports (R123). -/
theorem Dev.trap_eq : ∃ e, d.trap n code pc user rec =
      (if (d.chip.core n).trappedNow then d.onCore n fun c => c.trapped code pc user
       else match d.chip.coreRoom n with
         | some r => ((d.onCore n fun c => c.trapped code pc user).log e).failRoom r 2
         | none => (d.onCore n fun c => c.trapped code pc user).log e) := ⟨_, rfl⟩

/-- After the change of its core a trap only reports. -/
theorem Dev.trap_reads : (d.onCore n fun c => c.trapped code pc user).Reads n (d.trap n code pc user rec) := by
  obtain ⟨e, he⟩ := d.trap_eq n code pc user rec
  rw [he]
  split
  · exact .refl ..
  · split
    · exact (Dev.Reads.log ..).trans (.failRoom ..)
    · exact .log ..

/-- After the change of its core a trap leaves the cores as they are. -/
theorem Dev.trap_cores : (d.trap n code pc user rec).chip.tow.cores = (d.onCore n fun c => c.trapped code pc user).chip.tow.cores := by
  obtain ⟨e, he⟩ := d.trap_eq n code pc user rec
  rw [he]
  split
  · rfl
  · split
    · rw [Dev.failRoom_cores, Dev.log_cores]
    · rw [Dev.log_cores]

theorem Dev.core_trap (j : Nat) :
    (d.trap n code pc user rec).chip.core j = if j = n then (d.chip.core n).trapped code pc user else d.chip.core j :=
  (congrArg (Tab.get ({} : Core) · j) (d.trap_cores n code pc user rec)).trans (core_onCore ..)

/-- The first trap of a frame fails the frame of the core's room with cause 2 (R290). -/
theorem Dev.mem_trap_failed (h : (d.chip.core n).trappedNow = false) {r : Nat} (hr : d.chip.coreRoom n = some r) :
    (r, 2) ∈ (d.trap n code pc user rec).failed := by
  obtain ⟨e, he⟩ := d.trap_eq n code pc user rec
  simp only [he, h, hr]
  exact Dev.mem_failRoom _ r 2

end

end Sys2Proof.Machine

namespace Sys2Proof.Claims

open Host Sys2Proof.Machine

/-- The core of `k` trapped with a code at its word, and nothing but what a trap reports changed besides (R123, R161, R290). -/
def TrapsWith (s t : State) (k : Fetch) (code : Nat) : Prop :=
  (coreAt t k).st = .trapped
    ∧ ((coreAt s k).trappedNow = false → (coreAt t k).trapCode = code ∧ (coreAt t k).trapAddr = (coreAt s k).pc)
    ∧ ((coreAt s k).trappedNow = false → ∀ r, s.dev.chip.coreRoom k.core = some r → (r, 2) ∈ t.dev.failed)
    ∧ (coreAt t k).trappedNow = true ∧ (coreAt t k).wait = none ∧ (coreAt t k).pc = (coreAt s k).pc
    ∧ (∀ j, j ≠ k.core → t.dev.chip.core j = s.dev.chip.core j) ∧ SameFiles s t k ∧ SameMemory s t ∧ KeepsOuter s t

/-- A trap at the word of a core that has done nothing yet. -/
theorem trap_commit {s : State} {k : Fetch} (hinv : Inv s) {d : Dev} (hd : s.dev.Reads k.core d) (hcore : d.chip.core k.core = coreAt s k)
    (hroom : d.chip.coreRoom k.core = s.dev.chip.coreRoom k.core) (code user : Nat) :
    TrapsWith s (commit s (d.trap k.core code (coreAt s k).pc user)) k code
      ∧ coreAt (commit s (d.trap k.core code (coreAt s k).pc user)) k = (coreAt s k).trapped code (coreAt s k).pc user := by
  have hreads := d.trap_reads k.core code (coreAt s k).pc user []
  have hmoved : d.Local k.core (d.onCore k.core fun c => c.trapped code (coreAt s k).pc user) :=
    ⟨fun j hj => by rw [core_onCore, if_neg hj], rfl, rfl⟩
  have hlocal := (hd.toLocal.trans hmoved).trans hreads.toLocal
  have hwr : (d.trap k.core code (coreAt s k).pc user).wr = [] := (hreads.wr.trans hd.wr).trans hinv.wr
  have hat : coreAt (commit s (d.trap k.core code (coreAt s k).pc user)) k = (coreAt s k).trapped code (coreAt s k).pc user := by
    rw [coreAt, commit_chip, Dev.core_trap, if_pos rfl, hcore]
  refine ⟨⟨by rw [hat]; rfl, fun h => ?_, fun h r hr => ?_, by rw [hat]; rfl, by rw [hat]; rfl, by rw [hat]; rfl, fun j hj => ?_,
    by rw [SameFiles, hat]; exact ⟨rfl, rfl, rfl, rfl, rfl, rfl⟩, fun a => ?_,
    keepsOuter_commit hlocal.outer (hlocal.used.trans hinv.used)⟩, hat⟩
  · rw [hat]
    simp [Core.trapped, h]
  · rw [commit_failed]
    exact d.mem_trap_failed k.core code _ user [] (by rw [hcore, h]) (hroom.trans hr)
  · rw [commit_chip]
    exact hlocal.others j hj
  · rw [commit_mem, hwr, Mem.apply_nil]

/-- TRAP (R123, R161). -/
theorem trap_done {s : State} {k : Fetch} {w : OpWord} (hinv : Inv s) (h : issues s k 4 0x0F w = true) :
    ∃ t, exec (.trap k w) s = .next t ∧ TrapsWith s t k 6 ∧ (coreAt t k).userCode = w.h := by
  let d := (fetched s k).onCore k.core fun c => c.noteWrites 4 0x0F w true
  have hcore : d.chip.core k.core = coreAt s k := by
    rw [core_onCore, if_pos rfl, fetched_chip]
    rfl
  have hroom : d.chip.coreRoom k.core = s.dev.chip.coreRoom k.core :=
    (congrArg (Chip.coreRoom · k.core) (fetched_chip s k) :)
  have hrun : exec (.trap k w) s = .next (commit s (d.trap k.core trapUser (coreAt s k).pc (bitsOf w.h 0 8))) := by
    have hword := coreWord_issues (s := s) (d := { s.dev with out := [] })
      (fun d => d.trap k.core trapUser (d.chip.core k.core).pc (bitsOf w.h 0 8)) rfl (by omega) (by omega) h
    refine (runs_active (issues_active h) _).trans (congrArg (fun d => Outcome.next (commit s d)) (hword.trans ?_))
    rw [← hcore]
    rfl
  have huser : bitsOf w.h 0 8 = w.h := by
    have hlegal := issues_legal h
    simp only [wordLegal, opForm, formCtrl, Bool.and_eq_true] at hlegal
    have hmask : inMask 0xFF w.h = true := by tauto
    simpa [inMask, bitsOf, Nat.and_two_pow_sub_one_eq_mod w.h 8] using hmask
  have hread : s.dev.Reads k.core d := (computes_fetched s k).toReads.trans (Dev.Computes.onCore k.core _ _ rfl).toReads
  obtain ⟨htrap, hat⟩ := trap_commit hinv hread hcore hroom trapUser (bitsOf w.h 0 8)
  exact ⟨_, hrun, htrap, by rw [hat, huser]; rfl⟩

/-- Settles O18: in each case the fetched word ends in a trap of its core. -/
theorem traps : Obligations.Traps := by
  unfold Obligations.Traps
  intro s k w c trapped
  have hcore : (fetched s k).chip.core k.core = coreAt s k := by rw [fetched_chip]; rfl
  have hroom : (fetched s k).chip.coreRoom k.core = s.dev.chip.coreRoom k.core := by rw [fetched_chip]
  have hexists (hk : coreOk k.core = true) : coreExists k.core = true := by simpa [coreExists, coreOk] using hk
  have hstops (code : Nat) (hinv : Inv s) := trap_commit hinv (computes_fetched s k).toReads hcore hroom code 0
  refine ⟨fun hinv h => trap_done hinv h, fun hinv hact hk hst hwt hecc => ?_, fun hinv hact hk hst hwt hlo hhi hform => ?_⟩
  · have hword := coreWord_istore (d := { s.dev with out := [] }) (hexists hk) hst hwt hecc 4 0 w {} (fun d => (d.onCore k.core id).next k.core) s
    exact ⟨_, (runs_active hact _).trans (congrArg (fun d => Outcome.next (commit s d)) hword), (hstops 4 hinv).1⟩
  · have hword := coreWord_unlisted (d := { s.dev with out := [] }) (hexists hk) hst hwt (by omega) hform 4 0 w {}
      (fun d => (d.onCore k.core id).next k.core) s
    exact ⟨_, (runs_active hact _).trans (congrArg (fun d => Outcome.next (commit s d)) hword), (hstops 1 hinv).1⟩

end Sys2Proof.Claims
end

section
/-! PROOF. Reductions of lanes into scalars (R113, R153). -/

namespace Sys2Proof.Machine

open Host

/-- The best of a list is one of it. -/
theorem firstBest_mem {better : Nat → Nat → Bool} {l : List (Nat × Nat)} {p : Nat × Nat} (h : firstBest better l = some p) : p ∈ l := by
  cases l with
  | nil => cases h
  | cons x xs =>
    cases h
    refine List.foldlRecOn (motive := (· ∈ x :: xs)) xs _ (by simp) fun b hb y hy => ?_
    split
    · exact List.mem_cons_of_mem x hy
    · exact hb

/-- A lane as the device writes it is a value of its width (R89). -/
theorem canonLane_lt {ty x : Nat} (hty : ty < 5) (hx : x < 2 ^ laneBits ty) : canonLane ty x < 2 ^ laneBits ty := by
  have hnan : (convert (laneFmt ty) .nan false none).1 < 2 ^ laneBits ty := by interval_cases ty <;> decide
  unfold canonLane
  split
  · exact hnan
  · exact hx

/-- The low bits of the scalar that takes a lane are the lane (R153). -/
theorem laneScalar_low {ty x : Nat} (high : Nat) (hty : ty < 5) (hx : x < 2 ^ laneBits ty) :
    (laneScalar ty x high).toNat % 2 ^ laneBits ty = canonLane ty x := by
  have hc := canonLane_lt hty hx
  unfold laneScalar
  by_cases hb : laneBytes ty = 2
  · rw [laneBits, hb] at hc ⊢
    rw [if_pos rfl, BitVec.toNat_ofNat]
    omega
  · have h4 : laneBytes ty = 4 := by
      unfold laneBytes at hb ⊢
      split
      · rfl
      · next h => exact absurd (if_neg h) hb
    rw [laneBits, h4] at hc ⊢
    rw [if_neg (by omega), BitVec.toNat_ofNat]
    omega

/-- A core whose ARGMAX found the value `v` at a lane (R153). -/
def Core.wrBest (c : Core) (i j : Nat) (v at' : Word) : Core := (c.wrS i v).wrS j at'

/-- The lanes that a reduction takes are the enabled ones (R153). -/
theorem takenLanes_started (s : State) (k : Fetch) (cls op : Nat) (w : OpWord) :
    takenLanes ((started s k cls op w).chip.core k.core) ((coreAt s k).capture cls op w true {}) = Claims.taken s k w := by
  have hzip : ((lanes (laneTy w) ((coreAt s k).rdW (opIdx w.f1))).zipIdx.map fun p => (p.2, p.1)) =
      (List.range (laneCount (laneTy w))).map fun l => (l, Claims.laneA s k w (laneTy w) l) := by
    refine List.ext_getElem (by simp) fun l h₁ h₂ => ?_
    simp [lanes, Claims.laneA]
  simp only [takenLanes, Claims.taken, capture_w, started_rdM, started_rdW, hzip, List.filter_map]
  rfl

end Sys2Proof.Machine

namespace Sys2Proof.Claims

open Sys2Proof.Machine

section
variable {s : State} {k : Fetch} {cls op : Nat} {w : OpWord}

/-- An operation that writes one scalar register. -/
theorem scalar_done (h : Starts s k cls op w) (hc : cls < 4) (ho : op < 256) {e : Dev}
    (he : opEffect k.core ((coreAt s k).capture cls op w true {}) s (started s k cls op w) = e) (hcomp : (started s k cls op w).Computes k.core e)
    {i : Nat} {v : Word} (hi : i ≠ 0) (hv : (e.chip.core k.core).files = ((coreAt s k).wrS i v).files) :
    ∃ t, runs s (unitWord cls op k w s) = .next t ∧ (coreAt t k).rdS i = v ∧ OnlyS s t k i ∧ OnlyGoesOn s t k := by
  obtain ⟨t, hrun, hfiles, hgo⟩ := unit_computes h hc ho he hcomp
  have hwrote := hfiles.trans hv
  exact ⟨t, hrun, by rw [Core.rdS_of_files hwrote, Core.rdS_wrS, if_neg hi, if_pos rfl], onlyS_of_files hwrote, hgo⟩

/-- SUM (R153). -/
theorem sum_done (h : Starts s k 3 0x01 w) (h0 : opIdx w.f0 ≠ 0) :
    let terms : List Word := (List.range 64).map fun l => if enabled s k w l then lane32 ((coreAt s k).rdW (opIdx w.f1)) l else 0
    ∃ t, exec (.sum k w) s = .next t
      ∧ (coreAt t k).rdS (opIdx w.f0) = (if laneTy w = 0 then pairTree addF32 6 terms else BitVec.ofInt 32 ((terms.map BitVec.toInt).sum))
      ∧ OnlyS s t k (opIdx w.f0) ∧ OnlyGoesOn s t k := by
  intro terms
  have heff : opEffect k.core ((coreAt s k).capture 3 0x01 w true {}) s (started s k 3 0x01 w) =
      if laneTy w = 0 then ((started s k 3 0x01 w).onCore k.core fun c => c.wrS (opIdx w.f0) (pairTree addF32 6 terms)).coreFlags k.core
        (sumFlags (pairTree addF32 6 terms) terms)
      else (started s k 3 0x01 w).onCore k.core fun c => c.wrS (opIdx w.f0) (BitVec.ofInt 32 (isum (terms.map BitVec.toInt))) := by
    show opSum _ _ s _ = _
    simp only [opSum, capture_w, started_rdM, started_rdW]
    rfl
  have hstand (v : Word) (c : Core) : (c.wrS (opIdx w.f0) v).standing = c.standing := by simp [Core.standing]
  by_cases hty : laneTy w = 0
  · rw [if_pos hty] at heff ⊢
    refine scalar_done h (by omega) (by omega) heff ((Dev.Computes.onCore _ _ _ (hstand _ _)).trans (.coreFlags ..)) h0 ?_
    rw [Dev.coreFlags_files, core_onCore, if_pos rfl]
    exact Core.wrS_of_files (started_files ..) _ _
  · rw [if_neg hty] at heff ⊢
    refine scalar_done h (by omega) (by omega) heff (.onCore _ _ _ (hstand _ _)) h0 ?_
    rw [core_onCore, if_pos rfl, List.sum_eq_foldl]
    exact Core.wrS_of_files (started_files ..) _ _

/-- The best lane of a reduction that takes one is a lane of its type. -/
theorem taken_lt {better : Nat → Nat → Bool} {p : Nat × Nat} (hp : firstBest better (taken s k w) = some p) : p.2 < 2 ^ laneBits (laneTy w) := by
  obtain ⟨l, -, rfl⟩ := List.mem_map.mp (firstBest_mem hp)
  exact lane_lt ..

/-- RED MAX and RED MIN (R153). -/
theorem redPick_done (h : Starts s k 3 op w) (ho : op < 256) (hty : laneTy w < 5) (h0 : opIdx w.f0 ≠ 0) {better : Nat → Nat → Bool}
    (he : ∀ d, opEffect k.core ((coreAt s k).capture 3 op w true {}) s d = redPick k.core ((coreAt s k).capture 3 op w true {}) better false d)
    {p : Nat × Nat} (hp : firstBest better (taken s k w) = some p) :
    ∃ t, runs s (unitWord 3 op k w s) = .next t ∧ ((coreAt t k).rdS (opIdx w.f0)).toNat % 2 ^ laneBits (laneTy w) = canonLane (laneTy w) p.2
      ∧ OnlyS s t k (opIdx w.f0) ∧ OnlyGoesOn s t k := by
  have heff : redPick k.core ((coreAt s k).capture 3 op w true {}) better false (started s k 3 op w) =
      (started s k 3 op w).fresh.2.onCore k.core fun c => c.wrS (opIdx w.f0) (laneScalar (laneTy w) p.2 (started s k 3 op w).fresh.1) := by
    simp only [redPick, takenLanes_started, hp]
    rfl
  have hcomp := (Dev.Computes.withFree k.core (started s k 3 op w) _).trans (.onCore k.core (started s k 3 op w).fresh.2
    (fun c => c.wrS (opIdx w.f0) (laneScalar (laneTy w) p.2 (started s k 3 op w).fresh.1)) (by simp [Core.standing]))
  obtain ⟨t, hrun, hv, hs, hgo⟩ := scalar_done h (by omega) ho ((he _).trans heff) hcomp h0 (by
    rw [core_onCore, if_pos rfl]
    exact Core.wrS_of_files (started_files ..) _ _)
  exact ⟨t, hrun, by rw [hv, laneScalar_low _ hty (taken_lt hp)], hs, hgo⟩

/-- ARGMAX (R153). -/
theorem argmax_done (h : Starts s k 3 0x04 w) (hty : laneTy w < 5) (h0 : opIdx w.f0 ≠ 0) (h2 : opIdx w.f2 ≠ 0) (hne : opIdx w.f0 ≠ opIdx w.f2)
    {p : Nat × Nat} (hp : firstBest (fun a b => keyLt (laneTy w) b a) (taken s k w) = some p) :
    ∃ t, exec (.argmax k w) s = .next t
      ∧ ((coreAt t k).rdS (opIdx w.f0)).toNat % 2 ^ laneBits (laneTy w) = canonLane (laneTy w) p.2
      ∧ (coreAt t k).rdS (opIdx w.f2) = BitVec.ofNat 32 p.1
      ∧ (∀ j, j ≠ opIdx w.f0 → j ≠ opIdx w.f2 → (coreAt t k).rdS j = (coreAt s k).rdS j) ∧ OnlyGoesOn s t k := by
  let v := laneScalar (laneTy w) p.2 (started s k 3 0x04 w).fresh.1
  have heff : opEffect k.core ((coreAt s k).capture 3 0x04 w true {}) s (started s k 3 0x04 w) =
      (started s k 3 0x04 w).fresh.2.onCore k.core fun c => c.wrBest (opIdx w.f0) (opIdx w.f2) v (BitVec.ofNat 32 p.1) := by
    show redPick _ _ _ _ _ = _
    simp only [redPick, takenLanes_started, capture_w, hp]
    rfl
  have hcomp := (Dev.Computes.withFree k.core (started s k 3 0x04 w) _).trans (.onCore k.core (started s k 3 0x04 w).fresh.2
    (fun c => c.wrBest (opIdx w.f0) (opIdx w.f2) v (BitVec.ofNat 32 p.1)) (by simp [Core.wrBest, Core.standing]))
  obtain ⟨t, hrun, hfiles, hgo⟩ := unit_computes h (by omega) (by omega) heff hcomp
  have hwrote : (coreAt t k).files = ((coreAt s k).wrBest (opIdx w.f0) (opIdx w.f2) v (BitVec.ofNat 32 p.1)).files := by
    rw [hfiles, core_onCore, if_pos rfl]
    exact Core.wrS_of_files (Core.wrS_of_files (started_files ..) _ _) _ _
  have hrd (j : Nat) : (coreAt t k).rdS j = if j = 0 then 0 else if j = opIdx w.f2 then BitVec.ofNat 32 p.1
      else if j = opIdx w.f0 then v else (coreAt s k).rdS j := by
    rw [Core.rdS_of_files hwrote, Core.wrBest, Core.rdS_wrS, Core.rdS_wrS]
    split <;> rfl
  refine ⟨t, hrun, ?_, by rw [hrd, if_neg h2, if_pos rfl], fun j hj0 hj2 => ?_, hgo⟩
  · rw [hrd, if_neg h0, if_neg hne, if_pos rfl, laneScalar_low _ hty (taken_lt hp)]
  · rw [hrd, if_neg hj2, if_neg hj0]
    split
    · next hj => simp [Core.rdS, hj]
    · rfl

end

/-- The lane type of a reduction (R152, R153). -/
theorem red_laneTy {s : State} {k : Fetch} {op : Nat} {w : OpWord} (h : Starts s k 3 op w) (h1 : op ≠ 1) (h4 : op ≤ 4) : laneTy w < 5 := by
  have hvals := valuesOk_of_legal (issues_legal h.2.1)
  simp only [valuesOk, h1, h4, if_false, if_true, Bool.and_eq_true, decide_eq_true_eq] at hvals
  exact hvals.1

/-- Settles O13: the scalar that each reduction writes. -/
theorem laneReductions : Obligations.LaneReductions := by
  unfold Obligations.LaneReductions
  intro s k w ty terms
  refine ⟨fun h h0 => sum_done h h0, fun h h0 p hp => ?_, fun h h0 p hp => ?_, fun h h0 h2 hne p hp => ?_⟩
  · exact redPick_done h (by omega) (red_laneTy h (by omega) (by omega)) h0 (fun _ => rfl) hp
  · exact redPick_done h (by omega) (red_laneTy h (by omega) (by omega)) h0 (fun _ => rfl) hp
  · exact argmax_done h (red_laneTy h (by omega) (by omega)) h0 h2 hne hp

end Sys2Proof.Claims
end

section
/-! PROOF. Conversions and makers of lanes (R101 to R105, R152). -/

namespace Sys2Proof.Machine

/-- The scalar that the second specifier names (R141). -/
theorem capture_sc1 {c : Core} {cls op : Nat} {w : OpWord} (h : ((opForm cls op w).getD {}).f1 = src .s) :
    (c.capture cls op w true {}).sc.getD 1 0 = c.rdS (opIdx w.f1) := by
  simp [Core.capture, h, src]

/-- A core that changed among its registers, with the flags and the saturations of what it converted (R104, R116). -/
theorem Dev.Computes.converted (n : Nat) (d : Dev) (f : Core → Core) (hf : (f (d.chip.core n)).standing = (d.chip.core n).standing)
    (mask c : Nat) : d.Computes n (((d.onCore n f).coreFlags n mask).countSat n c) :=
  (Dev.Computes.onCore n d f hf).trans ((Dev.Computes.coreFlags n _ mask).trans (.countSat n _ c))

/-- The lane of a 64-lane side, or of the half of a 128-lane side, that stands at place `i` of a CVT (R152). -/
def cvtLane (ty : Nat) (hi : Bool) (i : Nat) : Nat := if laneBytes ty = 2 then i + (if hi then 64 else 0) else i

theorem cvtLane_lt {ty i : Nat} (hi : Bool) (h : i < 64) : cvtLane ty hi i < laneCount ty := by
  have hty : laneBytes ty = 4 ∨ laneBytes ty = 2 := by
    unfold laneBytes
    split <;> simp
  unfold cvtLane laneCount
  obtain hb | hb := hty
  · simpa [hb] using h
  · simp only [hb, if_true]
    split <;> omega

theorem cvtLane_inj {ty i j : Nat} {hi : Bool} (h : cvtLane ty hi i = cvtLane ty hi j) : i = j := by
  unfold cvtLane at h
  split at h <;> omega

/-- The lanes that a CVT writes, with what it writes there, of the outputs at its 64 places (R152). -/
def cvtOuts {α : Type} (ty : Nat) (hi : Bool) (out : Nat → α) : List (Nat × α) := (List.range 64).map fun i => (cvtLane ty hi i, out i)

/-- An enabled lane takes its own output. -/
theorem find?_cvtOuts {α : Type} {ty i : Nat} {hi : Bool} (out : Nat → α) (m : BitVec 128) (h : i < 64) :
    ((cvtOuts ty hi out).filter fun o => m.getLsbD o.1).find? (fun o => o.1 = cvtLane ty hi i) =
      if m.getLsbD (cvtLane ty hi i) then some (cvtLane ty hi i, out i) else none := by
  rw [List.find?_filter, cvtOuts, List.find?_map]
  cases hf : (List.range 64).find? ((fun o : Nat × α => decide (m.getLsbD o.1 = true ∧ decide (o.1 = cvtLane ty hi i) = true)) ∘
      fun i => (cvtLane ty hi i, out i)) with
  | none =>
    have hoff := List.find?_eq_none.mp hf i (List.mem_range.mpr h)
    simp_all
  | some j =>
    have hj := List.find?_some hf
    simp only [Function.comp, decide_eq_true_eq] at hj
    obtain rfl := cvtLane_inj hj.2
    rw [if_pos hj.1]
    rfl

/-- The lanes of F0 after a CVT: those written, over the old ones. -/
def cvtMerge (ty : Nat) (old : BitVec 2048) (on : List (Nat × LaneOut)) : BitVec 2048 :=
  ofLanes ty ((lanes ty old).mapIdx fun l x => ((on.find? fun o => o.1 = l).map fun o => o.2.1).getD x)

theorem lane_cvtMerge (ty : Nat) (old : BitVec 2048) (on : List (Nat × LaneOut)) {l : Nat} (h : l < laneCount ty) :
    lane ty (cvtMerge ty old on) l = ((on.find? fun o => o.1 = l).map fun o => o.2.1).getD (lane ty old l) % 2 ^ laneBits ty := by
  rw [cvtMerge, lane_ofLanes _ _ (by simp) _ h]
  simp [lanes, h]

/-- An enabled place of a CVT takes its output, another keeps its lane (R152). -/
theorem lane_cvtMerge_cvtOuts (ty : Nat) (old : BitVec 2048) (hi : Bool) (out : Nat → LaneOut) (m : BitVec 128) {i : Nat} (h : i < 64) :
    lane ty (cvtMerge ty old ((cvtOuts ty hi out).filter fun o => m.getLsbD o.1)) (cvtLane ty hi i) =
      if m.getLsbD (cvtLane ty hi i) then (out i).1 % 2 ^ laneBits ty else lane ty old (cvtLane ty hi i) := by
  rw [lane_cvtMerge _ _ _ (cvtLane_lt hi h), find?_cvtOuts out m h]
  split
  · rfl
  · exact Nat.mod_eq_of_lt (lane_lt ty old _)

end Sys2Proof.Machine

namespace Sys2Proof.Claims

open Sys2Proof.Machine

section
variable {s : State} {k : Fetch} {w : OpWord}

/-- What CVT makes of the lane of F1 at a place (R101 to R104). -/
def cvtOut (s : State) (k : Fetch) (w : OpWord) (i : Nat) : LaneOut :=
  convert (laneFmt (laneTy w)) ((laneFmt (bitsOf w.i 0 4)).decode (laneA s k w (bitsOf w.i 0 4) (cvtLane (bitsOf w.i 0 4) (bitOf w.i 4) i)))
    (bitOf w.i 5) (randOf s w i)

/-- The outputs of a CVT at its 64 places (R152). -/
theorem cvtLanes_mapIdx (s : State) (k : Fetch) (w : OpWord) :
    ((cvtLanes (laneTy w) (bitsOf w.i 0 4) (bitOf w.i 4)).mapIdx fun j p => (p.1, convert (laneFmt (laneTy w))
      ((laneFmt (bitsOf w.i 0 4)).decode (lane (bitsOf w.i 0 4) ((coreAt s k).rdW (opIdx w.f1)) p.2)) (bitOf w.i 5)
        ((drawLanes (bitOf w.h 8) 64 (started s k 2 0x09 w)).1.getD j none))) =
      cvtOuts (laneTy w) (bitOf w.i 4) (cvtOut s k w) := by
  refine List.ext_getElem (by simp [cvtLanes, cvtOuts]) fun i hi _ => ?_
  have h64 : i < 64 := by simpa [cvtLanes] using hi
  rw [List.getElem_mapIdx, drawLanes_randOf h64]
  simp [cvtLanes, cvtOuts, cvtOut, cvtLane, laneA]

/-- The enabled outputs of a CVT (R152). -/
def cvtOn (s : State) (k : Fetch) (w : OpWord) : List (Nat × LaneOut) :=
  (cvtOuts (laneTy w) (bitOf w.i 4) (cvtOut s k w)).filter fun o => ((coreAt s k).rdM (maskIdx w)).getLsbD o.1

theorem opCvt_started (s : State) (k : Fetch) (w : OpWord) :
    opEffect k.core ((coreAt s k).capture 2 0x09 w true {}) s (started s k 2 0x09 w) =
      (((drawLanes (bitOf w.h 8) 64 (started s k 2 0x09 w)).2.onCore k.core fun c =>
        c.wrW (opIdx w.f0) (cvtMerge (laneTy w) (c.rdW (opIdx w.f0)) (cvtOn s k w))).coreFlags k.core
          (orAll ((cvtOn s k w).map fun o => o.2.2))).countSat k.core (satCount ((cvtOn s k w).map fun o => o.2.2)) := by
  have hop : opEffect k.core ((coreAt s k).capture 2 0x09 w true {}) s (started s k 2 0x09 w) =
      opCvt k.core ((coreAt s k).capture 2 0x09 w true {}) s (started s k 2 0x09 w) := by simp [opEffect, effectVec]
  simp only [hop, opCvt, capture_w, cvtLanes_mapIdx, started_rdW, started_rdM]
  rfl

/-- CVT (R101 to R104, R152). -/
theorem cvt_done (h : Starts s k 2 0x09 w) : ∃ t, exec (.cvt k w) s = .next t
    ∧ (∀ i, i < 64 → lane (laneTy w) ((coreAt t k).rdW (opIdx w.f0)) (cvtLane (laneTy w) (bitOf w.i 4) i) =
        if enabled s k w (cvtLane (laneTy w) (bitOf w.i 4) i) then
          (cvtOut s k w i).1 % 2 ^ laneBits (laneTy w)
        else lane (laneTy w) ((coreAt s k).rdW (opIdx w.f0)) (cvtLane (laneTy w) (bitOf w.i 4) i))
    ∧ OnlyW s t k (opIdx w.f0) ∧ OnlyGoesOn s t k := by
  obtain ⟨t, hrun, hfiles, hgo⟩ := unit_computes h (by omega) (by omega) (opCvt_started s k w)
    ((Dev.Computes.drawLanes ..).trans (.converted _ _ _ rfl _ _))
  have hwrote : (coreAt t k).files =
      ((coreAt s k).wrW (opIdx w.f0) (cvtMerge (laneTy w) ((coreAt s k).rdW (opIdx w.f0)) (cvtOn s k w))).files := by
    rw [hfiles, Dev.countSat_chip, Dev.coreFlags_files, core_onCore, if_pos rfl, drawLanes_chip, started_rdW]
    exact Core.wrW_of_files (started_files ..) _ _
  refine ⟨t, hrun, fun i hi => ?_, onlyW_of_files hwrote, hgo⟩
  rw [Core.rdW_of_files hwrote, Core.rdW_wrW, if_pos rfl]
  exact lane_cvtMerge_cvtOuts _ _ _ _ _ hi

/-- The bits that BCAST copies to every lane: J, or a scalar (R152). -/
def bcastValue (s : State) (k : Fetch) (w : OpWord) : Nat := if bitOf w.i 31 then w.j else ((coreAt s k).rdS (opIdx w.f1)).toNat

theorem opBcast_started (s : State) (k : Fetch) (w : OpWord) :
    opBcast k.core ((coreAt s k).capture 2 0x0B w true {}) s (started s k 2 0x0B w) =
      writeLanes k.core ((coreAt s k).capture 2 0x0B w true {}) (laneTy w)
        (List.replicate (laneCount (laneTy w)) (bcastValue s k w % 2 ^ laneBits (laneTy w), 0)) (started s k 2 0x0B w) := by
  by_cases hb : bitOf w.i 31 = true
  · simp only [opBcast, bcastValue, capture_w, hb, if_true]
  · have hsc : ((coreAt s k).capture 2 0x0B w true {}).sc.getD 1 0 = (coreAt s k).rdS (opIdx w.f1) :=
      capture_sc1 (by simp [opForm, formVec, hb])
    simp only [opBcast, bcastValue, capture_w, hb, hsc]

/-- BCAST (R152). -/
theorem bcast_done (h : Starts s k 2 0x0B w) : ∃ t, exec (.bcast k w) s = .next t ∧ VecDone s t k w fun _ => bcastValue s k w := by
  refine vec_done h (by omega) (.refl ..) rfl (opBcast_started s k w) (by simp) fun l hl => ?_
  rw [List.getD_replicate _ hl, Nat.mod_mod]

/-- IOTA (R152). -/
theorem iota_done (h : Starts s k 2 0x0C w) : ∃ t, exec (.iota k w) s = .next t ∧ VecDone s t k w fun l => l := by
  refine vec_done h (by omega) (.refl ..) rfl rfl (by simp) fun l hl => ?_
  simp [hl]

/-- MLEN (R152). -/
theorem mlen_done (h : Starts s k 2 0x0D w) : ∃ t, exec (.mlen k w) s = .next t
    ∧ (∀ l, l < 128 → ((coreAt t k).rdM (opIdx w.f0)).getLsbD l =
        (if opIdx w.f0 = 0 then true else decide (l < min ((coreAt s k).rdS (opIdx w.f1)).toNat (laneCount (laneTy w)))))
    ∧ OnlyM s t k (opIdx w.f0) ∧ OnlyGoesOn s t k := by
  let v : BitVec 128 := BitVec.ofNat 128 (2 ^ min ((coreAt s k).rdS (opIdx w.f1)).toNat (laneCount (laneTy w)) - 1)
  have heff : opEffect k.core ((coreAt s k).capture 2 0x0D w true {}) s (started s k 2 0x0D w) =
      (started s k 2 0x0D w).onCore k.core fun c => c.wrM (opIdx w.f0) v := by
    show opMlen _ _ s _ = _
    simp only [opMlen, capture_w]
    rw [capture_sc1 rfl]
  obtain ⟨t, hrun, hfiles, hgo⟩ := unit_computes h (by omega) (by omega) heff (.onCore _ _ _ (by simp [Core.standing]))
  have hwrote : (coreAt t k).files = ((coreAt s k).wrM (opIdx w.f0) v).files := by
    rw [hfiles, core_onCore, if_pos rfl]
    exact Core.wrM_of_files (started_files ..) _ _
  refine ⟨t, hrun, fun l hl => ?_, onlyM_of_files hwrote, hgo⟩
  rw [Core.rdM_of_files hwrote, Core.rdM_wrM, if_pos rfl]
  split
  · rw [BitVec.getLsbD_allOnes, decide_eq_true hl]
  · rw [BitVec.getLsbD_ofNat, decide_eq_true hl, Bool.true_and, Nat.testBit_two_pow_sub_one]

/-- The values that QMX quantises (R152). -/
def qmxValues (s : State) (k : Fetch) (w : OpWord) : List FV := (lanes 0 ((coreAt s k).rdW (opIdx w.f1))).map Fmt.fp32.decode

/-- The element format of QMX (R152). -/
def qmxFmt (w : OpWord) : Fmt := (Fmt.ofCode (bitsOf w.i 0 4)).getD .e4m3

/-- The quantised elements of a block (R105). -/
def mxBlock (f : Fmt) (b : List FV) : List LaneOut := b.map fun v => mxElem f (mxScale f b) v none

/-- The quantised elements of the two blocks of QMX (R105). -/
def qmxElems (s : State) (k : Fetch) (w : OpWord) : List LaneOut :=
  mxBlock (qmxFmt w) ((qmxValues s k w).take 32) ++ mxBlock (qmxFmt w) ((qmxValues s k w).drop 32)

/-- The scale scalar of QMX: the scales of its two blocks (R152). -/
def qmxScales (s : State) (k : Fetch) (w : OpWord) : Word :=
  BitVec.ofNat 32 (mxScale (qmxFmt w) ((qmxValues s k w).take 32) + 256 * mxScale (qmxFmt w) ((qmxValues s k w).drop 32))

/-- F0 after QMX: the packed elements over the old register. -/
def qmxMerge (s : State) (k : Fetch) (w : OpWord) (old : BitVec 2048) : BitVec 2048 :=
  bvOf 2048 (patch (leBytes 256 old.toNat) 0 (packElems (qmxFmt w).bits ((qmxElems s k w).map Prod.fst)))

theorem opQmx_started (s : State) (k : Fetch) (w : OpWord) :
    opQmx k.core ((coreAt s k).capture 2 0x0A w true {}) s (started s k 2 0x0A w) =
      (((started s k 2 0x0A w).onCore k.core fun c =>
        (c.wrW (opIdx w.f0) (qmxMerge s k w (c.rdW (opIdx w.f0)))).wrS (opIdx w.f2) (qmxScales s k w)).coreFlags k.core
          (orAll ((qmxElems s k w).map Prod.snd))).countSat k.core (satCount ((qmxElems s k w).map Prod.snd)) := by
  simp only [opQmx, capture_w, started_rdW]
  rfl

/-- QMX (R105, R152). -/
theorem qmx_done (h : Starts s k 2 0x0A w) :
    let vs := (lanes 0 ((coreAt s k).rdW (opIdx w.f1))).map Fmt.fp32.decode
    let f := (Fmt.ofCode (bitsOf w.i 0 4)).getD .e4m3
    ∃ t, exec (.qmx k w) s = .next t
      ∧ (coreAt t k).rdS (opIdx w.f2) =
          (if opIdx w.f2 = 0 then 0 else BitVec.ofNat 32 (mxScale f (vs.take 32) + 256 * mxScale f (vs.drop 32)))
      ∧ (∀ j, j ≠ opIdx w.f2 → (coreAt t k).rdS j = (coreAt s k).rdS j)
      ∧ (∀ j, j ≠ opIdx w.f0 → (coreAt t k).rdW j = (coreAt s k).rdW j)
      ∧ (coreAt t k).b = (coreAt s k).b ∧ (coreAt t k).m = (coreAt s k).m ∧ (coreAt t k).p = (coreAt s k).p
      ∧ (coreAt t k).d = (coreAt s k).d ∧ OnlyGoesOn s t k := by
  intro vs f
  obtain ⟨t, hrun, hfiles, hgo⟩ := unit_computes h (by omega) (by omega) (opQmx_started s k w)
    (.converted _ _ _ (by simp [Core.standing]) _ _)
  have hwrote : (coreAt t k).files = (((coreAt s k).wrW (opIdx w.f0) (qmxMerge s k w ((coreAt s k).rdW (opIdx w.f0)))).wrS (opIdx w.f2)
      (BitVec.ofNat 32 (mxScale f (vs.take 32) + 256 * mxScale f (vs.drop 32)))).files := by
    rw [hfiles, Dev.countSat_chip, Dev.coreFlags_files, core_onCore, if_pos rfl, started_rdW]
    exact Core.wrS_of_files (Core.wrW_of_files (started_files ..) _ _) _ _
  refine ⟨t, hrun, ?_, fun j hj => ?_, fun j hj => ?_, (congrArg Files.b hwrote).trans (Core.wrS_b ..),
    (congrArg Files.m hwrote).trans (Core.wrS_m ..), (congrArg Files.p hwrote).trans (Core.wrS_p ..),
    (congrArg Files.d hwrote).trans (Core.wrS_d ..), hgo⟩
  · rw [Core.rdS_of_files hwrote, Core.rdS_wrS, if_pos rfl]
  · rw [Core.rdS_of_files hwrote, Core.rdS_wrS, if_neg hj, Core.wrW_rdS]
    split
    · next h0 => simp [Core.rdS, h0]
    · rfl
  · rw [Core.rdW_of_files hwrote, Core.wrS_rdW, Core.rdW_wrW, if_neg hj]

end

/-- Settles O10: what each operation writes. -/
theorem laneMakers : Obligations.LaneMakers := by
  unfold Obligations.LaneMakers
  intro s k w ty tyS hi dl sl vs f
  exact ⟨cvt_done, qmx_done, bcast_done, iota_done, mlen_done⟩

end Sys2Proof.Claims
end

section
/-! PROOF. Sound operands (R79, R167): a unit that consumes words without husks and without uncorrectable errors goes on as if it had read
them at once. -/

namespace Sys2Proof.Machine

/-- What reading leaves where no word holds an uncorrectable error: memory, the cores, the husk marks, the frame and the free choices;
corrected errors are gone (R167). -/
structure Dev.Met (n : Nat) (d e : Dev) : Prop extends Dev.Reads n d e where
  cores : e.chip.tow.cores = d.chip.tow.cores
  husk : e.chip.tow.husk = d.chip.tow.husk
  errs : ∀ k, Tab.get 0 e.chip.tow.errs k = Tab.get 0 d.chip.tow.errs k ∨ Tab.get 0 e.chip.tow.errs k = 0
  frm : e.chip.frm = d.chip.frm
  free : e.free = d.free

theorem Dev.Met.refl (n : Nat) (d : Dev) : d.Met n d := ⟨.refl n d, rfl, rfl, fun _ => .inl rfl, rfl, rfl⟩

theorem Dev.Met.trans {n : Nat} {d e f : Dev} (h : d.Met n e) (k : e.Met n f) : d.Met n f := by
  refine ⟨h.toReads.trans k.toReads, k.cores.trans h.cores, k.husk.trans h.husk, fun i => ?_, k.frm.trans h.frm, k.free.trans h.free⟩
  obtain hk | hk := k.errs i
  · rw [hk]
    exact h.errs i
  · exact .inr hk

theorem Dev.Met.core {n : Nat} {d e : Dev} (h : d.Met n e) (j : Nat) : e.chip.core j = d.chip.core j :=
  congrArg (Tab.get ({} : Core) · j) h.cores

/-- No word of a byte range is husked or holds an uncorrectable error, in a device (R79, R167). -/
def Dev.Sound (d : Dev) (core : Nat) (r : Nat × Nat) : Prop :=
  ∀ w ∈ wordsOf r.1 r.2, Tab.get 0 d.chip.tow.errs (wordKey core w) ≠ 1000 ∧ d.husked (wordKey core w) = false

theorem Dev.Sound.of_met {n core : Nat} {d e : Dev} {r : Nat × Nat} (h : d.Sound core r) (hm : d.Met n e) : e.Sound core r := by
  refine fun w hw => ⟨?_, ?_⟩
  · obtain he | he := hm.errs (wordKey core w)
    · rw [he]
      exact (h w hw).1
    · rw [he]
      decide
  · exact (congrArg (Tab.get false · (wordKey core w)) hm.husk).trans (h w hw).2

/-- A word without an uncorrectable error is read (R167). -/
theorem Dev.Met.eccWord {core w : Nat} {d : Dev} (h : Tab.get 0 d.chip.tow.errs (wordKey core w) ≠ 1000) : d.Met core (d.eccWord core w) := by
  obtain ⟨hwr, hcores, hhusk, herrs⟩ := eccWord_frame d core w h
  have hrest : (d.eccWord core w).outerParts = d.outerParts ∧ (d.eccWord core w).injUsed = d.injUsed
      ∧ (d.eccWord core w).chip.frm = d.chip.frm ∧ (d.eccWord core w).free = d.free := by
    unfold Dev.eccWord
    dsimp only
    split
    · exact ⟨rfl, rfl, rfl, rfl⟩
    · next he => exact absurd he h
    · exact ⟨rfl, rfl, rfl, rfl⟩
  obtain ⟨houter, hused, hfrm, hfree⟩ := hrest
  exact ⟨.of_cores hcores houter hused hwr, hcores, hhusk, herrs, hfrm, hfree⟩

/-- The words of a range without uncorrectable errors are read (R167). -/
theorem Dev.Met.foldl_eccWord {core : Nat} (l : List Nat) {d : Dev} (h : ∀ w ∈ l, Tab.get 0 d.chip.tow.errs (wordKey core w) ≠ 1000) :
    d.Met core (l.foldl (fun d w => d.eccWord core w) d) := by
  induction l generalizing d with
  | nil => exact .refl core d
  | cons w l ih =>
    have hword : d.Met core (d.eccWord core w) := .eccWord (h w (by simp))
    refine hword.trans (ih fun x hx => ?_)
    obtain he | he := hword.errs (wordKey core x)
    · rw [he]
      exact h x (by simp [hx])
    · rw [he]
      decide

/-- A sound range is consumed (R79). -/
theorem Dev.consume_sound {d : Dev} {core pc : Nat} {r : Nat × Nat} (h : d.Sound core r) (s : State) (f : Dev → Dev) :
    d.Met core (d.readWords core r.1 r.2) ∧ d.consume core r.1 r.2 pc s f = f (d.readWords core r.1 r.2) := by
  have hmet : d.Met core (d.readWords core r.1 r.2) := .foldl_eccWord _ fun w hw => (h w hw).1
  have hnone : (d.readWords core r.1 r.2).firstHusk core r.1 r.2 = none :=
    List.find?_eq_none.mpr fun w hw => by simp [(h.of_met hmet w hw).2]
  refine ⟨hmet, ?_⟩
  unfold Dev.consume
  simp only [hnone]

/-- Sound ranges are consumed in order (R79). -/
theorem Dev.consumeAll_sound {core pc : Nat} (s : State) (f : Dev → Dev) (rs : List (Nat × Nat)) {d : Dev} (h : ∀ r ∈ rs, d.Sound core r) :
    ∃ e, d.Met core e ∧ d.consumeAll core pc s f rs = f e := by
  induction rs generalizing d with
  | nil => exact ⟨d, .refl core d, rfl⟩
  | cons r rs ih =>
    obtain ⟨hmet, hread⟩ := Dev.consume_sound (pc := pc) (h r (by simp)) s fun d => d.consumeAll core pc s f rs
    obtain ⟨e, he, hall⟩ := ih fun x hx => (h x (by simp [hx])).of_met hmet
    exact ⟨e, hmet.trans he, hread.trans hall⟩

/-- Bytes of a range in the slice, where nothing was written yet. -/
theorem Dev.bytesOf_inside {d : Dev} (h : d.wr = []) (s : State) (core : Nat) {a n : Nat} (hin : a + n ≤ sliceBytes) :
    d.bytesOf s core a n = s.mem.bytes (pantryAddr core a) n := by
  have hcut : min n (sliceBytes - a) = n := by omega
  have hpast : n - (sliceBytes - a) = 0 := by omega
  simp [Dev.bytesOf, Dev.memory, h, hcut, hpast]

end Sys2Proof.Machine

namespace Sys2Proof.Claims

open Sys2Proof.Machine

/-- A sound range is so for the operation that starts. -/
theorem sound_started {s : State} {k : Fetch} {a n : Nat} (h : sound s k a n = true) (cls op : Nat) (w : OpWord) :
    (started s k cls op w).Sound k.core (a, n) := by
  have hchip := (computes_started s k cls op w).chip
  simp only [sound, noUncorr, Bool.and_eq_true, List.all_eq_true, decide_eq_true_eq, Bool.not_eq_true'] at h
  intro x hx
  refine ⟨?_, ?_⟩
  · rw [hchip]
    exact h.1 x hx
  · exact (congrArg (fun c : Chip => Tab.get false c.tow.husk (wordKey k.core x)) hchip).trans (h.2 x hx)

/-- What issue says of the descriptors (R132, R159). -/
theorem issues_stateLegal {s : State} {k : Fetch} {cls op : Nat} {w : OpWord} {f : MacFault} (h : issues s k cls op w f = true) :
    (coreAt s k).stateLegal cls op w = true := by
  simp only [issues, Bool.and_eq_true] at h
  tauto

/-- What issue says of the ranges that a word touches: none lies outside the slice (R135). -/
theorem issues_inside {s : State} {k : Fetch} {cls op : Nat} {w : OpWord} (h : issues s k cls op w = true) {r : Nat × Nat}
    (hr : r ∈ (((coreAt s k).capture cls op w true {}).touches s.dev.chip.frm.cur).1) (hn : 0 < r.2) : r.1 + r.2 ≤ sliceBytes := by
  have hnone : (((coreAt s k).capture cls op w true {}).touches s.dev.chip.frm.cur).1.any outside = false := by
    simp only [issues, Bool.and_eq_true, Bool.not_eq_true'] at h
    tauto
  have hin := List.any_eq_false.mp hnone r hr
  simp only [outside, Bool.and_eq_true, decide_eq_true_eq, not_and, not_lt] at hin
  exact hin hn

end Sys2Proof.Claims
end

section
/-! PROOF. Sorting and gathering (R113, R159). -/

namespace Sys2Proof.Machine

/-! ## Registers made of lanes -/

theorem laneCount_ge (ty : Nat) : 64 ≤ laneCount ty := by
  unfold laneCount laneBytes
  split <;> decide

theorem ofLe_flatMap_zeros (n k : Nat) : ofLe ((List.replicate n 0).flatMap (leBytes k)) = 0 := by
  have hzero : ofLe (leBytes k 0) = 0 := by rw [ofLe_leBytes, Nat.zero_mod]
  induction n with
  | zero => rfl
  | succ n ih => rw [List.replicate_succ, List.flatMap_cons, ofLe_append, hzero, ih, Nat.mul_zero]

/-- Lanes that a register is not given are 0. -/
theorem ofLanes_zeros (ty n : Nat) (xs : List Nat) : ofLanes ty (xs ++ List.replicate n 0) = ofLanes ty xs := by
  rw [ofLanes, List.flatMap_append, bvOf, ofLe_append, ofLe_flatMap_zeros, Nat.mul_zero, Nat.add_zero]
  rfl

/-- A lane of a register made of its lowest lanes; the others are 0. -/
theorem lane_ofLanes_le {ty : Nat} {xs : List Nat} (hn : xs.length ≤ laneCount ty) {l : Nat} (h : l < laneCount ty) :
    lane ty (ofLanes ty xs) l = xs.getD l 0 % 2 ^ laneBits ty := by
  rw [← ofLanes_zeros ty (laneCount ty - xs.length), lane_ofLanes _ _ (by simp; omega) _ h]
  by_cases hl : l < xs.length
  · rw [List.getD_append _ _ _ _ hl]
  · rw [List.getD_append_right _ _ _ _ (by omega), List.getD_eq_default xs _ (by omega), List.getD_replicate _ (by omega)]

/-- A lane replaced by `setLow`. -/
theorem lane_setLow {ty : Nat} (old : BitVec 2048) {xs : List Nat} (hn : xs.length ≤ laneCount ty) {l : Nat} (h : l < xs.length) :
    lane ty (setLow ty old xs) l = xs.getD l 0 % 2 ^ laneBits ty := by
  rw [setLow, lane_ofLanes _ _ (by simp [lanes]; omega) _ (by omega), List.getD_append _ _ _ _ h]

/-! ## The sort -/

theorem insertKey_perm (before : Nat → Nat → Bool) (x : Nat × Nat) (l : List (Nat × Nat)) : (insertKey before x l).Perm (x :: l) := by
  induction l with
  | nil => exact .refl _
  | cons y ys ih =>
    rw [insertKey]
    split
    · exact .refl _
    · exact (ih.cons y).trans (.swap x y ys)

/-- The sort is a permutation (R113). -/
theorem sortKeys_perm (before : Nat → Nat → Bool) (l : List (Nat × Nat)) : (sortKeys before l).Perm l := by
  suffices h : ∀ acc, (l.foldl (fun acc x => insertKey before x acc) acc).Perm (acc ++ l) from h []
  induction l with
  | nil => simp
  | cons x l ih =>
    intro acc
    refine (ih _).trans (((insertKey_perm before x acc).append_right l).trans ?_)
    exact List.perm_middle.symm

/-- A pair of a key of `ty` and a payload of 16 bits. -/
def KeyFits (ty : Nat) (p : Nat × Nat) : Prop := p.1 < 2 ^ laneBits ty ∧ p.2 < 2 ^ 16

theorem keysOf_length (c : Core) (u : UOp) (ty : Nat) : (keysOf c u ty).length = 64 := by simp [keysOf]

/-- The keys and payloads that a sort reads fit their lanes. -/
theorem keysOf_fits {c : Core} {u : UOp} {ty : Nat} {p : Nat × Nat} (h : p ∈ keysOf c u ty) : KeyFits ty p := by
  obtain ⟨l, hl, rfl⟩ := List.mem_map.mp h
  rw [List.mem_range] at hl
  refine ⟨lane_lt .., ?_⟩
  show List.getD _ l 0 < _
  split
  · rw [List.getD_replicate _ hl]
    exact Nat.mod_lt _ (by decide)
  · have h128 : l < laneCount 4 := by have := laneCount_ge 4; omega
    rw [List.getD_eq_getElem?_getD, List.getElem?_take_of_lt hl, ← List.getD_eq_getElem?_getD, lanes_getD _ _ _ h128]
    exact lane_lt 4 _ l

section
variable {before : Nat → Nat → Bool} {c : Core} {u : UOp} {ty : Nat}

@[simp] theorem sortKeys_keysOf_length : (sortKeys before (keysOf c u ty)).length = 64 := (sortKeys_perm ..).length_eq.trans (keysOf_length ..)

/-- Each entry of the sorted list fits its lanes. -/
theorem sortKeys_keysOf_fits (l : Nat) : KeyFits ty ((sortKeys before (keysOf c u ty)).getD l (0, 0)) := by
  by_cases hl : l < (sortKeys before (keysOf c u ty)).length
  · rw [List.getD_eq_getElem _ _ hl]
    exact keysOf_fits ((sortKeys_perm ..).mem_iff.mp (List.getElem_mem hl))
  · rw [List.getD_eq_default _ _ (by omega)]
    exact ⟨Nat.two_pow_pos _, by decide⟩

end

theorem KeyFits.mod {ty : Nat} {p : Nat × Nat} (h : KeyFits ty p) : (p.1 % 2 ^ laneBits ty, p.2 % 2 ^ laneBits 4) = p := by
  rw [Nat.mod_eq_of_lt h.1, Nat.mod_eq_of_lt (show p.2 < 2 ^ laneBits 4 from h.2)]

/-- A component of an entry. -/
theorem getD_map_fst (l : List (Nat × Nat)) (i : Nat) : (l.map Prod.fst).getD i 0 = (l.getD i (0, 0)).1 := by
  simp only [List.getD_eq_getElem?_getD, List.getElem?_map]
  cases l[i]? <;> rfl

theorem getD_map_snd (l : List (Nat × Nat)) (i : Nat) : (l.map Prod.snd).getD i 0 = (l.getD i (0, 0)).2 := by
  simp only [List.getD_eq_getElem?_getD, List.getElem?_map]
  cases l[i]? <;> rfl

/-- The keys that an operation reads when it starts. -/
theorem keysOf_started (s : State) (k : Fetch) (cls op : Nat) (w : OpWord) (u : UOp) (ty : Nat) :
    keysOf ((started s k cls op w).chip.core k.core) u ty = keysOf (coreAt s k) u ty := by
  simp only [keysOf, started_rdW]

end Sys2Proof.Machine

namespace Sys2Proof.Claims

open Sys2Proof.Machine

section
variable {s : State} {k : Fetch} {w : OpWord}

/-- An operation that writes two vector registers, F0 and F3. -/
theorem twoW_done {op : Nat} (h : Starts s k 2 op w) (ho : op < 256) (hne : opIdx w.f0 ≠ opIdx w.f3) {f g : Core → BitVec 2048}
    {v x : BitVec 2048} (hv : f ((started s k 2 op w).chip.core k.core) = v) (hx : g ((started s k 2 op w).chip.core k.core) = x)
    (he : opEffect k.core ((coreAt s k).capture 2 op w true {}) s (started s k 2 op w) =
      (started s k 2 op w).onCore k.core fun c => (c.wrW (opIdx w.f0) (f c)).wrW (opIdx w.f3) (g c)) :
    ∃ t, runs s (unitWord 2 op k w s) = .next t ∧ (coreAt t k).rdW (opIdx w.f0) = v ∧ (coreAt t k).rdW (opIdx w.f3) = x
      ∧ (∀ j, j ≠ opIdx w.f0 → j ≠ opIdx w.f3 → (coreAt t k).rdW j = (coreAt s k).rdW j) ∧ OnlyGoesOn s t k := by
  have hcomp : (started s k 2 op w).Computes k.core
      ((started s k 2 op w).onCore k.core fun c => (c.wrW (opIdx w.f0) (f c)).wrW (opIdx w.f3) (g c)) := .onCore _ _ _ (by simp [Core.standing])
  obtain ⟨t, hrun, hfiles, hgo⟩ := unit_computes h (by omega) ho he hcomp
  have hwrote : (coreAt t k).files = (((coreAt s k).wrW (opIdx w.f0) v).wrW (opIdx w.f3) x).files := by
    rw [hfiles, core_onCore, if_pos rfl, hv, hx]
    exact Core.wrW_of_files (Core.wrW_of_files (started_files ..) _ _) _ _
  refine ⟨t, hrun, ?_, ?_, fun j h0 h3 => ?_, hgo⟩
  · rw [Core.rdW_of_files hwrote, Core.rdW_wrW, if_neg hne, Core.rdW_wrW, if_pos rfl]
  · rw [Core.rdW_of_files hwrote, Core.rdW_wrW, if_pos rfl]
  · rw [Core.rdW_of_files hwrote, Core.rdW_wrW, if_neg h3, Core.rdW_wrW, if_neg h0]

/-- The order of a SORT (R113, R152). -/
def sortOrder (w : OpWord) : Nat → Nat → Bool := if bitOf w.i 0 then fun a b => keyLt (laneTy w) b a else keyLt (laneTy w)

/-- What SORT writes: the sorted keys and payloads. -/
def sorted (s : State) (k : Fetch) (w : OpWord) : List (Nat × Nat) :=
  sortKeys (sortOrder w) (keysOf (coreAt s k) ((coreAt s k).capture 2 0x20 w true {}) (laneTy w))

/-- The pairs that stand in the lowest lanes of F0 and F3. -/
def lowPairs (t : State) (k : Fetch) (w : OpWord) (l : Nat) : Nat × Nat :=
  (lane (laneTy w) ((coreAt t k).rdW (opIdx w.f0)) l, lane 4 ((coreAt t k).rdW (opIdx w.f3)) l)

/-- SORT (R113, R152). -/
theorem sort_done (h : Starts s k 2 0x20 w) (hne : opIdx w.f0 ≠ opIdx w.f3) : ∃ t, exec (.sort k w) s = .next t
    ∧ (List.range 64).map (lowPairs t k w) = sorted s k w
    ∧ (∀ j, j ≠ opIdx w.f0 → j ≠ opIdx w.f3 → (coreAt t k).rdW j = (coreAt s k).rdW j) ∧ OnlyGoesOn s t k := by
  have heff : opEffect k.core ((coreAt s k).capture 2 0x20 w true {}) s (started s k 2 0x20 w) =
      (started s k 2 0x20 w).onCore k.core fun c =>
        (c.wrW (opIdx w.f0) (setLow (laneTy w) (c.rdW (opIdx w.f0)) ((sorted s k w).map Prod.fst))).wrW (opIdx w.f3)
          (setLow 4 (c.rdW (opIdx w.f3)) ((sorted s k w).map Prod.snd)) := by
    have hop : opEffect k.core ((coreAt s k).capture 2 0x20 w true {}) s (started s k 2 0x20 w) =
        opSort k.core ((coreAt s k).capture 2 0x20 w true {}) s (started s k 2 0x20 w) := by simp [opEffect, effectVec]
    simp only [hop, opSort, keysOf_started, capture_w]
    rfl
  obtain ⟨t, hrun, h0, h3, hothers, hgo⟩ := twoW_done h (by omega) hne rfl rfl heff
  have hlen : (sorted s k w).length = 64 := sortKeys_keysOf_length
  refine ⟨t, hrun, List.ext_getElem (by simp [hlen]) fun l hl _ => ?_, hothers, hgo⟩
  have hl64 : l < 64 := by simpa using hl
  have hty := laneCount_ge (laneTy w)
  have h4 := laneCount_ge 4
  have hfit : KeyFits (laneTy w) ((sorted s k w).getD l (0, 0)) := sortKeys_keysOf_fits l
  rw [List.getElem_map, List.getElem_range, lowPairs, h0, h3, lane_setLow _ (by simpa [hlen] using hty) (by simpa [hlen] using hl64),
    lane_setLow _ (by simpa [hlen] using h4) (by simpa [hlen] using hl64), getD_map_fst, getD_map_snd, hfit.mod,
    List.getD_eq_getElem]

/-- TOPK (R113, R152). -/
theorem topk_done (h : Starts s k 2 0x21 w) (hne : opIdx w.f0 ≠ opIdx w.f3) : ∃ t, exec (.topk k w) s = .next t
    ∧ (∀ l, l < 64 → lowPairs t k w l =
        if l < bitsOf w.i 0 7 then
          (sortKeys (fun a b => keyLt (laneTy w) b a) (keysOf (coreAt s k) ((coreAt s k).capture 2 0x21 w true {}) (laneTy w))).getD l (0, 0)
        else (0, 0))
    ∧ (∀ j, j ≠ opIdx w.f0 → j ≠ opIdx w.f3 → (coreAt t k).rdW j = (coreAt s k).rdW j) ∧ OnlyGoesOn s t k := by
  let ins := keysOf (coreAt s k) ((coreAt s k).capture 2 0x21 w true {}) (laneTy w)
  let r := (sortKeys (fun a b => keyLt (laneTy w) b a) ins).take (bitsOf w.i 0 7)
  have heff : opEffect k.core ((coreAt s k).capture 2 0x21 w true {}) s (started s k 2 0x21 w) =
      (started s k 2 0x21 w).onCore k.core fun c =>
        (c.wrW (opIdx w.f0) (ofLanes (laneTy w) (r.map Prod.fst))).wrW (opIdx w.f3) (ofLanes 4 (r.map Prod.snd)) := by
    have hop : opEffect k.core ((coreAt s k).capture 2 0x21 w true {}) s (started s k 2 0x21 w) =
        opTopk k.core ((coreAt s k).capture 2 0x21 w true {}) s (started s k 2 0x21 w) := by simp [opEffect, effectVec]
    simp only [hop, opTopk, keysOf_started, capture_w]
    rfl
  obtain ⟨t, hrun, h0, h3, hothers, hgo⟩ := twoW_done h (by omega) hne rfl rfl heff
  refine ⟨t, hrun, fun l hl => ?_, hothers, hgo⟩
  have hlen : r.length ≤ 64 := by
    rw [List.length_take, sortKeys_keysOf_length]
    exact Nat.min_le_right ..
  have hty := laneCount_ge (laneTy w)
  have h4 := laneCount_ge 4
  rw [lowPairs, h0, h3, lane_ofLanes_le (by rw [List.length_map]; omega) (by omega),
    lane_ofLanes_le (by rw [List.length_map]; omega) (by omega), getD_map_fst, getD_map_snd]
  by_cases hk : l < bitsOf w.i 0 7
  · have htake : r.getD l (0, 0) = (sortKeys (fun a b => keyLt (laneTy w) b a) ins).getD l (0, 0) := by
      rw [List.getD_eq_getElem?_getD, List.getElem?_take_of_lt hk, ← List.getD_eq_getElem?_getD]
    rw [if_pos hk, htake]
    exact (sortKeys_keysOf_fits l).mod
  · have htake : r.getD l (0, 0) = (0, 0) := List.getD_eq_default _ _ ((List.length_take_le ..).trans (Nat.not_lt.mp hk))
    rw [if_neg hk, htake]
    simp

end

end Sys2Proof.Claims
end

section
/-! PROOF. GATHER (R91, R135, R136, R159): the bytes of a tile's elements, and the lanes that take them. -/

namespace Sys2Proof.Machine

/-! ## Masks made of bits -/

theorem testBit_foldl_orBit (l : List Nat) (n i : Nat) : (l.foldl orBit n).testBit i = (n.testBit i || decide (i ∈ l)) := by
  induction l generalizing n with
  | nil => simp
  | cons x l ih =>
    rw [List.foldl_cons, ih, orBit, Nat.testBit_or, Nat.testBit_two_pow, Bool.or_assoc]
    by_cases h : x = i
    · simp [h]
    · simp [h, Ne.symm h]

/-- A bit of the mask of the indices that pass a test. -/
theorem testBit_maskOf (n : Nat) (p : Nat → Bool) (i : Nat) : (maskOf n p).testBit i = (decide (i < n) && p i) := by
  rw [maskOf, ofBitList, testBit_foldl_orBit]
  simp [List.mem_filter]

/-! ## The elements of a tile -/

@[simp] theorem Desc.pingPong_format (t : Desc) (frame : Nat) : (t.pingPong frame).format = t.format := by
  unfold Desc.pingPong
  split <;> rfl

theorem laneBytes_gatherTy {t : Desc} (h : t.format.bits = 16 ∨ t.format.bits = 32) : laneBytes (gatherTy t) = t.format.bits / 8 := by
  unfold gatherTy
  obtain h | h := h <;> simp [h, laneBytes]

/-- The byte and the bit at which element `k` of a row stands (R91). -/
def elemPlace (e k : Nat) : Nat × Nat := if e = 6 then (k / 4 * 3, k % 4 * 6) else (k * e / 8, k * e % 8)

/-- The bytes of an element lie in its row (R91). -/
theorem elemPlace_le {e k n : Nat} (h : k < n) : (elemPlace e k).1 + ((elemPlace e k).2 + e + 7) / 8 ≤ rowBytes e n := by
  unfold elemPlace rowBytes
  split
  · next he =>
    subst he
    dsimp only
    omega
  · have hmul : k * e + e ≤ n * e := by
      rw [← Nat.succ_mul]
      exact Nat.mul_le_mul_right e h
    dsimp only
    omega

theorem Desc.elemAt_eq (t : Desc) (i j : Nat) : t.elemAt i j =
    ((if t.blk then t.base + j / 32 * t.stride + i * (4 * t.format.bits) else t.base + i * t.stride)
      + (elemPlace t.format.bits (if t.blk then j % 32 else j)).1, (elemPlace t.format.bits (if t.blk then j % 32 else j)).2) := by
  unfold Desc.elemAt elemPlace
  dsimp only
  split <;> rfl

/-- The bytes of an element lie in a row of its tile (R91, R136). -/
theorem Desc.elemAt_inside {t : Desc} {i j : Nat} (hi : i < t.rows) (hj : j < t.cols) :
    ∃ r ∈ t.extent, r.1 ≤ (t.elemAt i j).1 ∧ (t.elemAt i j).1 + ((t.elemAt i j).2 + t.format.bits + 7) / 8 ≤ r.1 + r.2 := by
  rw [t.elemAt_eq]
  cases hb : t.blk with
  | false =>
    have hplace := elemPlace_le (e := t.format.bits) hj
    refine ⟨(t.base + i * t.stride, rowBytes t.format.bits t.cols), ?_, ?_, ?_⟩
    · simp only [Desc.extent, hb]
      exact List.mem_map.mpr ⟨i, List.mem_range.mpr hi, rfl⟩
    · exact Nat.le_add_right ..
    · simp only [Bool.false_eq_true, if_false]
      omega
  | true =>
    have hplace := elemPlace_le (e := t.format.bits) (show j % 32 < min 32 (t.cols - 32 * (j / 32)) by omega)
    have hrows := Nat.mul_le_mul_right (4 * t.format.bits) (show i ≤ t.rows - 1 by omega)
    refine ⟨(t.base + j / 32 * t.stride, (t.rows - 1) * (4 * t.format.bits) + rowBytes t.format.bits (min 32 (t.cols - 32 * (j / 32)))), ?_, ?_, ?_⟩
    · simp only [Desc.extent, hb]
      exact List.mem_map.mpr ⟨j / 32, List.mem_range.mpr (by omega), rfl⟩
    · simp only [if_true]
      omega
    · simp only [if_true]
      omega

/-- An element that GATHER reads lies in a row of its tile (R159). -/
theorem gatherAddr_inside {t : Desc} (h : t.format.bits = 16 ∨ t.format.bits = 32) {x : Int} {a : Nat} (ha : gatherAddr t x = some a) :
    ∃ r ∈ t.extent, 0 < r.2 ∧ a + laneBytes (gatherTy t) ≤ r.1 + r.2 := by
  unfold gatherAddr at ha
  split at ha
  · cases ha
  · next hx =>
    obtain ⟨hx0, hxn⟩ := not_or.mp hx
    have hlt : x.toNat < t.rows * t.cols := by omega
    have hcols : 0 < t.cols := Nat.pos_of_ne_zero fun h0 => by simp [h0] at hlt
    obtain ⟨r, hr, hle, hend⟩ := Desc.elemAt_inside (Nat.div_lt_of_lt_mul (Nat.mul_comm t.rows t.cols ▸ hlt)) (Nat.mod_lt x.toNat hcols)
    rw [Option.some.inj ha] at hle hend
    rw [laneBytes_gatherTy h]
    exact ⟨r, hr, by omega, by omega⟩

/-- The descriptor that the second specifier names (R141). -/
theorem capture_ds1 {c : Core} {cls op : Nat} {w : OpWord} (h : ((opForm cls op w).getD {}).f1 = src .d) :
    (c.capture cls op w true {}).ds.getD 1 0 = c.rdD (opIdx w.f1) := by
  simp [Core.capture, h, src]

end Sys2Proof.Machine

namespace Sys2Proof.Claims

open Sys2Proof.Machine

section
variable (s : State) (k : Fetch) (w : OpWord)

/-- The tile of a GATHER (R135, R159). -/
def gatherTile : Desc := (Desc.ofBits ((coreAt s k).rdD (opIdx w.f1))).pingPong s.dev.chip.frm.cur

/-- Its indices (R159). -/
def gatherIdx : List Nat :=
  if bitOf w.i 31 then List.replicate 64 ((coreAt s k).rdS (opIdx w.f2)).toNat else lanes 3 ((coreAt s k).rdW (opIdx w.f2))

/-- The element that an enabled lane takes, in range (R159). -/
def gatherAt (l : Nat) : Option Nat :=
  if enabled s k w l then gatherAddr (gatherTile s k w) (toSigned 32 ((gatherIdx s k w).getD l 0)) else none

/-- The ranges that a GATHER reads. -/
def gatherReads : List (Nat × Nat) :=
  (List.range 64).filterMap fun l => (gatherAt s k w l).map fun a => (a, laneBytes (gatherTy (gatherTile s k w)))

/-- F0 after a GATHER that reads in a device (R159). -/
def gatherLanes (d : Dev) (old : BitVec 2048) : BitVec 2048 :=
  ofLanes (gatherTy (gatherTile s k w)) ((lanes (gatherTy (gatherTile s k w)) old).mapIdx fun l x =>
    if l < 64 && enabled s k w l then
      match gatherAt s k w l with
      | some a => leField (d.bytesOf s k.core a (laneBytes (gatherTy (gatherTile s k w)))) 0 (laneBytes (gatherTy (gatherTile s k w)))
      | none => 0
    else x)

/-- The mask of the enabled lanes out of range (R159). -/
def gatherMiss : BitVec 128 := BitVec.ofNat 128 (maskOf 64 fun l => enabled s k w l && (gatherAt s k w l).isNone)

theorem opGather_started :
    opEffect k.core ((coreAt s k).capture 2 0x22 w true {}) s (started s k 2 0x22 w) =
      (started s k 2 0x22 w).consumeAll k.core (coreAt s k).pc s (fun d => d.onCore k.core fun c =>
        (c.wrW (opIdx w.f0) (gatherLanes s k w d (c.rdW (opIdx w.f0)))).wrM (opIdx w.f3) (gatherMiss s k w)) (gatherReads s k w) := by
  have hop : opEffect k.core ((coreAt s k).capture 2 0x22 w true {}) s (started s k 2 0x22 w) =
      opGather k.core ((coreAt s k).capture 2 0x22 w true {}) s (started s k 2 0x22 w) := by simp [opEffect, effectVec]
  have hds : ((coreAt s k).capture 2 0x22 w true {}).ds.getD 1 0 = (coreAt s k).rdD (opIdx w.f1) := capture_ds1 rfl
  have hidx : (if bitOf w.i 31 then List.replicate 64 (((coreAt s k).capture 2 0x22 w true {}).sc.getD 2 0).toNat
      else lanes 3 ((coreAt s k).rdW (opIdx w.f2))) = gatherIdx s k w := by
    unfold gatherIdx
    split
    · next hb => simp [Core.capture, opForm, formVec, vsrc, hb, src]
    · rfl
  simp only [hop, opGather, capture_w, capture_pc, hds, started_frm, started_rdW, started_rdM, hidx]
  rfl

end

section
variable {s : State} {k : Fetch} {w : OpWord}

/-- The index of a lane (R152, R159). -/
theorem gatherIdx_getD {l : Nat} (hl : l < 64) : (gatherIdx s k w).getD l 0 = laneB s k w 3 l := by
  unfold gatherIdx laneB
  split
  · rw [List.getD_replicate _ hl]
    exact (Nat.mod_eq_of_lt (BitVec.isLt _)).symm
  · exact lanes_getD 3 _ l hl

theorem gatherAt_enabled {l : Nat} (hl : l < 64) (hen : enabled s k w l = true) :
    gatherAt s k w l = gatherAddr (gatherTile s k w) (toSigned 32 (laneB s k w 3 l)) := by
  rw [gatherAt, if_pos hen, gatherIdx_getD hl]

/-- The tile of a GATHER that issues has elements of 16 or 32 bits (R159). -/
theorem gatherTile_bits (h : Starts s k 2 0x22 w) :
    (gatherTile s k w).format.bits = 16 ∨ (gatherTile s k w).format.bits = 32 := by
  have hlegal := issues_stateLegal h.2.1
  rw [show (coreAt s k).stateLegal 2 0x22 w = redDescLegal 2 0x22 (coreAt s k) w from rfl] at hlegal
  simp only [redDescLegal, and_self, if_true, Bool.and_eq_true, Bool.or_eq_true, decide_eq_true_eq] at hlegal
  obtain ⟨⟨-, hfmt⟩, -⟩ := hlegal
  rw [gatherTile, Desc.pingPong_format]
  obtain (((hf | hf) | hf) | hf) | hf := hfmt <;> simp [hf, Fmt.bits]

/-- Every element that a GATHER reads lies in the slice (R135). -/
theorem gatherAt_inside (h : Starts s k 2 0x22 w) {l a : Nat} (ha : gatherAt s k w l = some a) :
    a + laneBytes (gatherTy (gatherTile s k w)) ≤ sliceBytes := by
  have haddr : gatherAddr (gatherTile s k w) (toSigned 32 ((gatherIdx s k w).getD l 0)) = some a := by
    unfold gatherAt at ha
    split at ha
    · exact ha
    · cases ha
  have htouch : (((coreAt s k).capture 2 0x22 w true {}).touches s.dev.chip.frm.cur).1 = (gatherTile s k w).extent := by
    simp only [UOp.touches, capture_cls, capture_op, capture_ds1 (c := coreAt s k) (cls := 2) (op := 0x22) (w := w) rfl]
    rfl
  obtain ⟨r, hr, hpos, hle⟩ := gatherAddr_inside (gatherTile_bits h) haddr
  exact hle.trans (issues_inside h.2.1 (htouch ▸ hr) hpos)

/-- A lane of F0 after a GATHER on a device that has written nothing (R159). -/
theorem lane_gatherLanes (h : Starts s k 2 0x22 w) {d : Dev} (hd : d.wr = []) (old : BitVec 2048) {l : Nat} (hl : l < 64) :
    lane (gatherTy (gatherTile s k w)) (gatherLanes s k w d old) l =
      if enabled s k w l then
        (match gatherAddr (gatherTile s k w) (toSigned 32 (laneB s k w 3 l)) with
          | some a => leField (sliceAt s k a (laneBytes (gatherTy (gatherTile s k w)))) 0 (laneBytes (gatherTy (gatherTile s k w)))
          | none => 0)
      else lane (gatherTy (gatherTile s k w)) old l := by
  have hcount : l < laneCount (gatherTy (gatherTile s k w)) := Nat.lt_of_lt_of_le hl (laneCount_ge _)
  rw [gatherLanes, lane_ofLanes _ _ (by simp [lanes]) _ hcount]
  simp only [lanes, List.getD_eq_getElem?_getD, List.getElem?_mapIdx, List.getElem?_map, List.getElem?_range hcount, Option.map_some,
    Option.getD_some, hl, decide_true, Bool.true_and]
  split
  · next hen =>
    rw [← gatherAt_enabled hl hen]
    cases ha : gatherAt s k w l with
    | none => simp
    | some a =>
      have hlt (bs : List Byte) (n : Nat) : leField bs 0 n < 2 ^ (8 * n) := by
        refine Nat.lt_of_lt_of_le (ofLe_lt _) ?_
        rw [Nat.pow_mul]
        exact Nat.pow_le_pow_right (by decide) (List.length_take_le ..)
      simp only [Dev.bytesOf_inside hd s k.core (gatherAt_inside h ha)]
      exact Nat.mod_eq_of_lt (hlt _ _)
  · exact Nat.mod_eq_of_lt (lane_lt ..)

/-- GATHER (R159). -/
theorem gather_done (h : Starts s k 2 0x22 w)
    (hsound : ∀ l, l < 64 → enabled s k w l = true → ∀ a, gatherAddr (gatherTile s k w) (toSigned 32 (laneB s k w 3 l)) = some a →
      sound s k a (laneBytes (gatherTy (gatherTile s k w))) = true) :
    ∃ t, exec (.gather k w) s = .next t
      ∧ (∀ l, l < 64 → lane (gatherTy (gatherTile s k w)) ((coreAt t k).rdW (opIdx w.f0)) l =
          if enabled s k w l then
            (match gatherAddr (gatherTile s k w) (toSigned 32 (laneB s k w 3 l)) with
              | some a => leField (sliceAt s k a (laneBytes (gatherTy (gatherTile s k w)))) 0 (laneBytes (gatherTy (gatherTile s k w)))
              | none => 0)
          else lane (gatherTy (gatherTile s k w)) ((coreAt s k).rdW (opIdx w.f0)) l)
      ∧ (∀ l, l < 128 → ((coreAt t k).rdM (opIdx w.f3)).getLsbD l =
          if opIdx w.f3 = 0 then true
          else decide (l < 64) && enabled s k w l && (gatherAddr (gatherTile s k w) (toSigned 32 (laneB s k w 3 l))).isNone)
      ∧ GoesOn s t k ∧ SameMemory s t := by
  have hreads : ∀ r ∈ gatherReads s k w, (started s k 2 0x22 w).Sound k.core r := fun r hr => by
    obtain ⟨l, hl, hmap⟩ := List.mem_filterMap.mp hr
    obtain ⟨a, ha, rfl⟩ := Option.map_eq_some_iff.mp hmap
    have hl64 := List.mem_range.mp hl
    have hen : enabled s k w l = true := by
      by_contra hoff
      simp [gatherAt, hoff] at ha
    exact sound_started (hsound l hl64 hen a (gatherAt_enabled hl64 hen ▸ ha)) 2 0x22 w
  obtain ⟨e, hmet, hall⟩ := Dev.consumeAll_sound (pc := (coreAt s k).pc) s (fun d => d.onCore k.core fun c =>
    (c.wrW (opIdx w.f0) (gatherLanes s k w d (c.rdW (opIdx w.f0)))).wrM (opIdx w.f3) (gatherMiss s k w)) (gatherReads s k w) hreads
  have hwr : e.wr = [] := hmet.wr.trans (started_wr s k 2 0x22 w h.1.wr)
  have hcomp := Dev.Computes.onCore k.core e (fun c => (c.wrW (opIdx w.f0) (gatherLanes s k w e (c.rdW (opIdx w.f0)))).wrM (opIdx w.f3)
    (gatherMiss s k w)) (by simp [Core.standing])
  obtain ⟨t, hrun, hgo, hfiles, -, hmem, -⟩ := unit_works h (by omega) (by omega) ((opGather_started s k w).trans hall)
    (hmet.toWorks.trans hcomp.toWorks)
  have hwrote : (coreAt t k).files =
      (((coreAt s k).wrW (opIdx w.f0) (gatherLanes s k w e ((coreAt s k).rdW (opIdx w.f0)))).wrM (opIdx w.f3) (gatherMiss s k w)).files := by
    rw [hfiles, core_onCore, if_pos rfl, hmet.core, started_rdW]
    exact Core.wrM_of_files (Core.wrW_of_files (started_files ..) _ _) _ _
  refine ⟨t, hrun, fun l hl => ?_, fun l hl => ?_, hgo, fun a => ?_⟩
  · rw [Core.rdW_of_files hwrote, Core.wrM_rdW, Core.rdW_wrW, if_pos rfl, lane_gatherLanes h hwr _ hl]
  · rw [Core.rdM_of_files hwrote, Core.rdM_wrM, if_pos rfl]
    split
    · rw [BitVec.getLsbD_allOnes, decide_eq_true hl]
    · rw [gatherMiss, BitVec.getLsbD_ofNat, decide_eq_true hl, Bool.true_and, testBit_maskOf]
      by_cases hlane : l < 64 ∧ enabled s k w l = true
      · rw [gatherAt_enabled hlane.1 hlane.2, Bool.and_assoc]
      · rw [← Bool.and_assoc, show (decide (l < 64) && enabled s k w l) = false by simpa using hlane, Bool.false_and, Bool.false_and]
  · rw [hmem, hcomp.wr, hwr, Mem.apply_nil]

end

/-- Settles O12: SORT and TOPK write a stable sort of the pairs that they read, GATHER the elements that its indices name. -/
theorem sortAndGather : Obligations.SortAndGather := by
  unfold Obligations.SortAndGather
  intro s k w ty ins outS
  refine ⟨fun h hne => ?_, topk_done, gather_done⟩
  obtain ⟨t, hrun, hsorted, hothers, hgo⟩ := sort_done h hne
  exact ⟨t, hrun, hsorted, (List.Perm.of_eq hsorted).trans (sortKeys_perm _ _), hothers, hgo⟩

end Sys2Proof.Claims
end

section
/-! PROOF. Rounding to nearest of a fixed-point number (R101, R112): the value of the code lies within half a unit of its last place, and
a number that overflows keeps overflowing further out. -/

namespace Sys2Proof.Machine

/-! ## Rounding an integer quotient -/

section
variable (m k : Nat)

theorem roundShift_none : roundShift m k none = m / 2 ^ k ∨ roundShift m k none = m / 2 ^ k + 1 := by
  simp only [roundShift, Nat.shiftRight_eq_div_pow]
  split <;> simp

/-- The rounded quotient is a nearest one. -/
theorem roundShift_near : 2 * (roundShift m k none * 2 ^ k) ≤ 2 * m + 2 ^ k ∧ 2 * m ≤ 2 * (roundShift m k none * 2 ^ k) + 2 ^ k := by
  have hdiv : 2 ^ k * (m / 2 ^ k) + m % 2 ^ k = m := Nat.div_add_mod m (2 ^ k)
  have hrem : m % 2 ^ k < 2 ^ k := Nat.mod_lt _ (Nat.two_pow_pos k)
  simp only [roundShift, Nat.shiftRight_eq_div_pow]
  split
  · rw [Nat.add_mul, Nat.mul_comm (m / 2 ^ k)]
    omega
  · rw [Nat.mul_comm (m / 2 ^ k)]
    omega

variable {m}

theorem roundShift_mono {m' : Nat} (h : m ≤ m') : roundShift m k none ≤ roundShift m' k none := by
  obtain hlt | heq := Nat.lt_or_eq_of_le (Nat.div_le_div_right (c := 2 ^ k) h)
  · have hm := roundShift_none m k
    have hm' := roundShift_none m' k
    omega
  · have hdiv := Nat.div_add_mod m (2 ^ k)
    have hdiv' := Nat.div_add_mod m' (2 ^ k)
    rw [← heq] at hdiv'
    simp only [roundShift, Nat.shiftRight_eq_div_pow, ← heq]
    split <;> split <;> omega

variable {k}

theorem roundShift_le {n : Nat} (h : m < 2 ^ (n + k)) : roundShift m k none ≤ 2 ^ n := by
  have hdiv : m / 2 ^ k < 2 ^ n := (Nat.div_lt_iff_lt_mul (Nat.two_pow_pos k)).mpr (by rwa [← Nat.pow_add])
  have hm := roundShift_none m k
  omega

theorem le_roundShift {n : Nat} (h : 2 ^ (n + k) ≤ m) : 2 ^ n ≤ roundShift m k none := by
  have hdiv : 2 ^ n ≤ m / 2 ^ k := (Nat.le_div_iff_mul_le (Nat.two_pow_pos k)).mpr (by rwa [← Nat.pow_add])
  have hm := roundShift_none m k
  omega

end

/-! ## The formats of floating-point lanes -/

/-- What the formats of floating-point lanes share (R87): infinity follows the largest finite code, a NaN code exists, and the least
exponent lies above the last place of fixed point. -/
structure FP.Regular (p : FP) : Prop where
  top : p.maxCode + 1 = (2 ^ p.eb - 1) * 2 ^ p.mb
  inf : p.infCode = some (p.maxCode + 1)
  nan : p.nanCode.isNone = false
  small : -256 < 1 - (p.bias : Int) - p.mb

/-- A lane format of regular parameters. -/
structure Fmt.Regular (fm : Fmt) : Prop extends FP.Regular fm.fp where
  isFloat : fm.isInt = false
  bits : fm.bits = fm.fp.eb + fm.fp.mb + 1
  decode (c : Nat) : fm.decode c = fm.fp.decode (c % 2 ^ fm.bits)

theorem laneFmt_regular {ty : Nat} (h : ty < 3) : (laneFmt ty).Regular := by
  interval_cases ty <;> exact ⟨⟨by decide, rfl, rfl, by decide⟩, rfl, rfl, fun _ => rfl⟩

/-- The exponent, above the least one, at which a fixed-point magnitude is rounded. -/
def FP.step (p : FP) (m : Nat) : Nat := (((Nat.log2 m : Int) + -256 - p.mb) ⊔ (1 - (p.bias : Int) - p.mb) - (1 - (p.bias : Int) - p.mb)).toNat

/-- The bits of fixed point that lie below the least place of a format. -/
def FP.low (p : FP) : Nat := (1 - (p.bias : Int) - p.mb + 256).toNat

/-- The significand of a rounded fixed-point magnitude. -/
def FP.signif (p : FP) (m : Nat) : Nat := roundShift m (p.step m + p.low) none

/-- A sign above a magnitude. -/
theorem FP.sign_add {p : FP} (neg : Bool) {c : Nat} (hc : c < 2 ^ (p.eb + p.mb)) :
    (p.sign neg + c).testBit (p.eb + p.mb) = neg ∧ (p.sign neg + c) % 2 ^ (p.eb + p.mb) = c := by
  cases neg with
  | false => simp [FP.sign, Nat.testBit_lt_two_pow hc, Nat.mod_eq_of_lt hc]
  | true => simp [FP.sign, Nat.testBit_two_pow_add_eq, Nat.testBit_lt_two_pow hc, Nat.mod_eq_of_lt hc]

section
variable {p : FP} (h : p.Regular)
include h

theorem FP.Regular.step_spec (m : Nat) : (p.step m = 0 ∧ Nat.log2 m ≤ p.mb + p.low) ∨ Nat.log2 m = p.mb + p.low + p.step m := by
  have hsmall := h.small
  unfold FP.step FP.low
  omega

/-- One unit of the last place (R112). -/
theorem FP.Regular.fxUlp_eq (y : Int) : fxUlp p y = ((2 ^ (p.step y.natAbs + p.low) : Nat) : Int) := by
  have hsmall := h.small
  unfold fxUlp FP.step FP.low
  dsimp only
  congr 3
  omega

/-- A significand has at most one bit more than the mantissa and the implied one; below the normal numbers it may have fewer. -/
theorem FP.Regular.signif_le (m : Nat) : p.signif m ≤ 2 ^ (p.mb + 1) := by
  refine roundShift_le ?_
  have hlog := @Nat.lt_log2_self m
  refine hlog.trans_le (Nat.pow_le_pow_right (by decide) ?_)
  have := h.step_spec m
  omega

theorem FP.Regular.signif_ge {m : Nat} (hs : p.step m ≠ 0) : 2 ^ p.mb ≤ p.signif m := by
  have hspec := h.step_spec m
  have hlog : Nat.log2 m = p.mb + p.low + p.step m := by omega
  have hm : m ≠ 0 := by
    rintro rfl
    have hlog0 : Nat.log2 0 = 0 := rfl
    omega
  exact le_roundShift (by rw [← Nat.add_assoc, Nat.add_right_comm, ← hlog]; exact Nat.log2_self_le hm)

/-- The code of a rounded fixed-point magnitude. -/
theorem FP.Regular.encodeMag_eq (m : Nat) : p.encodeMag m (-256) none + 2 ^ p.mb = (p.step m + 1) * 2 ^ p.mb + p.signif m := by
  have hsmall := h.small
  by_cases hm : m = 0
  · have hspec := h.step_spec 0
    have hstep : p.step 0 = 0 := by
      have hlog0 : Nat.log2 0 = 0 := rfl
      omega
    simp [FP.encodeMag, hm, hstep, FP.signif, roundShift]
  · have hround : roundAt m (-256) (((Nat.log2 m : Int) + -256 - p.mb) ⊔ (1 - (p.bias : Int) - p.mb)) none = p.signif m := by
      unfold roundAt FP.signif FP.step FP.low
      rw [if_neg (by omega)]
      congr 1
      omega
    unfold FP.encodeMag
    simp only [if_neg hm, hround]
    rw [show (((Nat.log2 m : Int) + -256 - p.mb) ⊔ (1 - (p.bias : Int) - p.mb) - (1 - (p.bias : Int) - p.mb)).toNat = p.step m from rfl]
    split
    · next hlt =>
      have hstep : p.step m = 0 := by
        by_contra hs
        have := h.signif_ge hs
        omega
      rw [hstep]
      omega
    · omega

/-- A larger magnitude has a code not below. -/
theorem FP.Regular.encodeMag_mono {m m' : Nat} (hm : m ≤ m') : p.encodeMag m (-256) none ≤ p.encodeMag m' (-256) none := by
  have hstep : p.step m ≤ p.step m' := by
    have hlog : Nat.log2 m ≤ Nat.log2 m' := by
      rw [Nat.log2_eq_log_two, Nat.log2_eq_log_two]
      exact Nat.log_mono_right hm
    unfold FP.step
    omega
  have hc := h.encodeMag_eq m
  have hc' := h.encodeMag_eq m'
  obtain hlt | heq := Nat.lt_or_eq_of_le hstep
  · have hle := h.signif_le m
    have hge := h.signif_ge (show p.step m' ≠ 0 by omega)
    have hmul : (p.step m + 2) * 2 ^ p.mb ≤ (p.step m' + 1) * 2 ^ p.mb := Nat.mul_le_mul_right _ (by omega)
    rw [Nat.pow_succ] at hle
    rw [Nat.add_mul] at hmul hc
    omega
  · have hsig : p.signif m ≤ p.signif m' := by
      unfold FP.signif
      rw [← heq]
      exact roundShift_mono _ hm
    rw [← heq] at hc'
    omega

theorem FP.Regular.top_lt : p.maxCode + 1 < 2 ^ (p.eb + p.mb) := by
  rw [h.top, Nat.pow_add]
  exact Nat.mul_lt_mul_of_pos_right (Nat.sub_lt (Nat.two_pow_pos _) Nat.one_pos) (Nat.two_pow_pos _)

/-- The code above the largest finite one is infinity. -/
theorem FP.Regular.decode_inf (neg : Bool) : p.decode (p.sign neg + (p.maxCode + 1)) = .inf neg := by
  obtain ⟨hbit, hmod⟩ := FP.sign_add (p := p) neg h.top_lt
  simp [FP.decode, hbit, hmod, h.inf]

/-- The code of a sign and a magnitude is finite up to the largest one; it stands for its significand at its place. -/
theorem FP.Regular.decode_fin (neg : Bool) {m : Nat} (hc : p.encodeMag m (-256) none ≤ p.maxCode) :
    ∃ k e, p.decode (p.sign neg + p.encodeMag m (-256) none) = .fin neg k e
      ∧ (FV.fin neg k e).fx = signedMag neg (p.signif m * 2 ^ (p.step m + p.low)) := by
  have hsmall := h.small
  have hfx (k : Nat) {e : Int} {n : Nat} (he : e = 1 - (p.bias : Int) - p.mb + n) : (FV.fin neg k e).fx = signedMag neg (k * 2 ^ (n + p.low)) := by
    have hpos : 0 ≤ e + 256 := by omega
    have hsh : (e + 256).toNat = n + p.low := by
      unfold FP.low
      omega
    simp only [FV.fx, if_pos hpos, Nat.shiftLeft_eq, hsh]
  obtain ⟨hbit, hmod⟩ := FP.sign_add (p := p) neg (lt_of_le_of_lt hc (Nat.lt_of_succ_lt h.top_lt))
  have henc := h.encodeMag_eq m
  have hle := h.signif_le m
  have hpos := Nat.two_pow_pos p.mb
  rw [Nat.pow_succ] at hle
  simp only [FP.decode, hbit, hmod, if_neg (Nat.not_lt.mpr hc)]
  obtain hsub | hnorm := Nat.lt_or_ge (p.signif m) (2 ^ p.mb)
  · have hstep : p.step m = 0 := by
      by_contra hs
      have := h.signif_ge hs
      omega
    have hcode : p.encodeMag m (-256) none = p.signif m := by
      rw [hstep] at henc
      omega
    have hex : p.signif m / 2 ^ p.mb = 0 := Nat.div_eq_of_lt hsub
    rw [hcode, if_pos hex, Nat.mod_eq_of_lt hsub]
    exact ⟨_, _, rfl, by rw [hfx _ (n := 0) (by omega), hstep]⟩
  · obtain ⟨r, hr⟩ := Nat.exists_eq_add_of_le hnorm
    have hcode : p.encodeMag m (-256) none = (p.step m + 1) * 2 ^ p.mb + r := by omega
    obtain hlt | heq := Nat.lt_or_eq_of_le (show r ≤ 2 ^ p.mb by omega)
    · have hex : p.encodeMag m (-256) none / 2 ^ p.mb = p.step m + 1 := by
        rw [hcode, Nat.add_comm, Nat.add_mul_div_right _ _ hpos, Nat.div_eq_of_lt hlt, Nat.zero_add]
      have hmant : p.encodeMag m (-256) none % 2 ^ p.mb = r := by
        rw [hcode, Nat.mul_add_mod_of_lt hlt]
      rw [hex, hmant, if_neg (Nat.succ_ne_zero _)]
      exact ⟨_, _, rfl, by rw [hfx _ (n := p.step m) (by push_cast; omega), hr]⟩
    · have hcarry : p.encodeMag m (-256) none = (p.step m + 2) * 2 ^ p.mb := by
        rw [hcode, heq]
        ring
      have hex : p.encodeMag m (-256) none / 2 ^ p.mb = p.step m + 2 := by rw [hcarry, Nat.mul_div_cancel _ hpos]
      have hmant : p.encodeMag m (-256) none % 2 ^ p.mb = 0 := by rw [hcarry, Nat.mul_mod_left]
      rw [hex, hmant, if_neg (Nat.succ_ne_zero _)]
      refine ⟨_, _, rfl, ?_⟩
      rw [hfx _ (n := p.step m + 1) (by push_cast; omega), hr, heq]
      congr 1
      ring

end

section
variable {fm : Fmt} (h : fm.Regular)
include h

/-- Rounding to nearest into a lane format (R101, R104). -/
theorem Fmt.Regular.decode_convert (y : Int) : fm.decode (convert fm (fxFV y) false none).1 =
    if fm.fp.maxCode < fm.fp.encodeMag y.natAbs (-256) none then .inf (decide (y < 0))
    else fm.fp.decode (fm.fp.sign (decide (y < 0)) + fm.fp.encodeMag y.natAbs (-256) none) := by
  have hbits (neg : Bool) {c : Nat} (hc : c < 2 ^ (fm.fp.eb + fm.fp.mb)) : (fm.fp.sign neg + c) % 2 ^ fm.bits = fm.fp.sign neg + c := by
    refine Nat.mod_eq_of_lt ?_
    rw [h.bits, Nat.pow_succ]
    unfold FP.sign
    split <;> omega
  have htop := h.toRegular.top_lt
  simp only [convert, h.isFloat, fxFV, h.toRegular.nan, h.toRegular.inf, Bool.or_self, Bool.false_eq_true, if_false,
    h.decode]
  split
  · rw [hbits _ htop, h.toRegular.decode_inf]
  · next hfin =>
    rw [hbits _ (by omega)]

/-- A rounded number overflows, and then so does every one further out, or it lies within half a unit of its last place. -/
theorem Fmt.Regular.convert_near (y : Int) :
    (fm.decode (convert fm (fxFV y) false none).1 = .inf (decide (y < 0))
      ∧ ∀ z : Int, y.natAbs ≤ z.natAbs → (fm.decode (convert fm (fxFV z) false none).1).isInf = true)
    ∨ ∃ n k e, fm.decode (convert fm (fxFV y) false none).1 = .fin n k e
      ∧ (FV.fin n k e).fx = signedMag (decide (y < 0)) (fm.fp.signif y.natAbs * 2 ^ (fm.fp.step y.natAbs + fm.fp.low)) := by
  rw [h.decode_convert]
  split
  · next hover =>
    refine .inl ⟨rfl, fun z hz => ?_⟩
    have hmore := hover.trans_le (h.toRegular.encodeMag_mono hz)
    rw [h.decode_convert, if_pos hmore]
    rfl
  · next hfin =>
    obtain ⟨k, e, hdec, hfx⟩ := h.toRegular.decode_fin (decide (y < 0)) (Nat.not_lt.mp hfin)
    exact .inr ⟨_, k, e, hdec, hfx⟩

end

end Sys2Proof.Machine
end

section
/-! PROOF. The sine and cosine of fixed point (R112): the sums of `fxSin` follow the power series, so no result lies far outside
[-1, 1]. -/

namespace Sys2Proof.Machine

/-! ## The series of integers -/

/-- The terms that `fxSin` sums for a first term and an angle. -/
def sinTerm (o : Nat) (r t : Int) : Nat → Int
  | 0 => t
  | k + 1 => -(fxMul (sinTerm o r t k) (fxMul r r)) / ((2 * k + 1 + o) * (2 * k + 2 + o) : Nat)

/-- The angle of `fxSin`, brought into [-pi, pi]. -/
def sinAngle (x : Int) : Int := if fxPi < x % (2 * fxPi) then x % (2 * fxPi) - 2 * fxPi else x % (2 * fxPi)

theorem foldl_sinTerm (o : Nat) (r t : Int) (n : Nat) :
    ((List.range n).foldl (fun (a : Int × Int) k =>
      (a.1 + a.2, -(fxMul a.2 (fxMul r r)) / ((2 * k + 1 + o) * (2 * k + 2 + o) : Nat))) (0, t)) =
      (∑ k ∈ Finset.range n, sinTerm o r t k, sinTerm o r t n) := by
  induction n with
  | zero => rfl
  | succ n ih => rw [List.range_succ, List.foldl_append, ih, Finset.sum_range_succ]; rfl

theorem fxSin_eq (cos : Bool) (x : Int) :
    fxSin cos x = ∑ k ∈ Finset.range 50, sinTerm (b2n (!cos)) (sinAngle x) (if cos then fxOne else sinAngle x) k := by
  unfold fxSin
  extract_lets r r' rr o
  exact congrArg Prod.fst (foldl_sinTerm o r' _ 50)

theorem fxPi_bounds : 0 < fxPi ∧ fxPi ≤ 4 * fxOne := by decide +kernel

theorem sinAngle_bounds (x : Int) : |sinAngle x| ≤ 4 * fxOne := by
  obtain ⟨hpos, hle⟩ := fxPi_bounds
  have h0 := Int.emod_nonneg x (show 2 * fxPi ≠ 0 by omega)
  have h2 := Int.emod_lt_of_pos x (show 0 < 2 * fxPi by omega)
  rw [abs_le]
  unfold sinAngle
  split <;> omega

/-! ## How far a term lies from its real value -/

theorem fxOne_real : ((fxOne : Int) : ℝ) = 2 ^ 256 := by norm_num [fxOne]

/-- The quotient of an integer division lies within one of the real one. -/
theorem abs_ediv_sub_le (a : Int) {b : Int} (hb : 0 < b) : |((a / b : Int) : ℝ) - a / b| ≤ 1 := by
  have hb' : (0 : ℝ) < b := by exact_mod_cast hb
  have hsplit : (a : ℝ) / b = (a / b : Int) + (a % b : Int) / b := by
    rw [eq_comm, ← sub_eq_zero]
    have h : ((b * (a / b) + a % b : Int) : ℝ) = a := by rw [Int.mul_ediv_add_emod]
    push_cast at h ⊢
    field_simp
    linarith
  have hpos : (0 : ℝ) ≤ (a % b : Int) / b := div_nonneg (by exact_mod_cast Int.emod_nonneg a hb.ne') hb'.le
  have hlt : ((a % b : Int) : ℝ) / b ≤ 1 := (div_le_one hb').mpr (by exact_mod_cast (Int.emod_lt_of_pos a hb).le)
  rw [hsplit, abs_le]
  constructor <;> linarith

theorem abs_fxMul_sub_le (a b : Int) : |((fxMul a b : Int) : ℝ) - a * b / 2 ^ 256| ≤ 1 := by
  have h := abs_ediv_sub_le (a * b) (show (0 : Int) < fxOne by decide)
  rwa [fxOne_real, Int.cast_mul] at h

/-- One step of the series, against its real value. -/
theorem abs_sinStep_le (T r : Int) {D : Nat} (hD : 2 ≤ D) :
    |((-(fxMul T (fxMul r r)) / (D : Int) : Int) : ℝ) + T * ((r : ℝ) / 2 ^ 256) ^ 2 / D| ≤ 2 + |(T : ℝ)| / 2 ^ 256 := by
  have hD1 : (1 : ℝ) ≤ D := by exact_mod_cast (by omega : 1 ≤ D)
  have hD0 : (0 : ℝ) < D := by linarith
  have hdiv := abs_ediv_sub_le (-(fxMul T (fxMul r r))) (show (0 : Int) < D by omega)
  have hmul := abs_fxMul_sub_le T (fxMul r r)
  have hsq := abs_fxMul_sub_le r r
  have hshrink {v e : ℝ} (hv : |v| ≤ e) : |v / D| ≤ e := by
    rw [abs_div, abs_of_pos hD0]
    exact (div_le_self (abs_nonneg v) hD1).trans hv
  have hprod : |(T : ℝ) * (fxMul r r : Int) / 2 ^ 256 - T * ((r : ℝ) / 2 ^ 256) ^ 2| ≤ |(T : ℝ)| / 2 ^ 256 := by
    have heq : (T : ℝ) * (fxMul r r : Int) / 2 ^ 256 - T * ((r : ℝ) / 2 ^ 256) ^ 2 =
        T / 2 ^ 256 * ((fxMul r r : Int) - (r : ℝ) * r / 2 ^ 256) := by ring
    rw [heq, abs_mul, abs_div, abs_of_pos (show (0 : ℝ) < 2 ^ 256 by positivity)]
    exact mul_le_of_le_one_right (by positivity) hsq
  have hsum : ((-(fxMul T (fxMul r r)) / (D : Int) : Int) : ℝ) + T * ((r : ℝ) / 2 ^ 256) ^ 2 / D =
      (((-(fxMul T (fxMul r r)) / (D : Int) : Int) : ℝ) - ((-(fxMul T (fxMul r r)) : Int) : ℝ) / (D : Int))
        - ((fxMul T (fxMul r r) : Int) - (T : ℝ) * (fxMul r r : Int) / 2 ^ 256) / D
        - (T * (fxMul r r : Int) / 2 ^ 256 - T * ((r : ℝ) / 2 ^ 256) ^ 2) / D := by
    push_cast
    ring
  rw [hsum]
  refine (abs_sub _ _).trans ?_
  refine (add_le_add ((abs_sub _ _).trans (add_le_add hdiv (hshrink hmul))) (hshrink hprod)).trans ?_
  linarith

/-- The real value of a term. -/
noncomputable def sinReal (o : Nat) (r t : Int) (k : Nat) : ℝ := t * (-1) ^ k * ((r : ℝ) / 2 ^ 256) ^ (2 * k) / (2 * k + o).factorial

theorem sinReal_succ (o : Nat) (r t : Int) (k : Nat) :
    sinReal o r t (k + 1) = -(sinReal o r t k * ((r : ℝ) / 2 ^ 256) ^ 2 / ((2 * k + 1 + o) * (2 * k + 2 + o) : Nat)) := by
  have hfact : (2 * (k + 1) + o).factorial = (2 * k + 2 + o) * ((2 * k + 1 + o) * (2 * k + o).factorial) := by
    rw [show 2 * (k + 1) + o = (2 * k + o + 1) + 1 by ring, Nat.factorial_succ, Nat.factorial_succ]
    ring
  have hne : ((2 * k + o).factorial : ℝ) ≠ 0 := by exact_mod_cast (2 * k + o).factorial_ne_zero
  unfold sinReal
  generalize (r : ℝ) / 2 ^ 256 = x
  rw [hfact]
  push_cast
  field_simp
  ring

section
variable {o : Nat} {r t : Int} (hr : |r| ≤ 4 * fxOne) (ht : |t| ≤ 4 * fxOne)
include hr

theorem sq_angle_le : ((r : ℝ) / 2 ^ 256) ^ 2 ≤ 16 := by
  have h : |(r : ℝ) / 2 ^ 256| ≤ 4 := by
    rw [abs_div, abs_of_pos (show (0 : ℝ) < 2 ^ 256 by positivity), div_le_iff₀ (by positivity), ← fxOne_real]
    exact_mod_cast hr
  nlinarith [abs_le.mp h, sq_abs ((r : ℝ) / 2 ^ 256), abs_nonneg ((r : ℝ) / 2 ^ 256)]

/-- A step shrinks or grows by at most 8. -/
theorem abs_mul_sq_angle_div_le (v : ℝ) {D : Nat} (hD : 2 ≤ D) : |v * ((r : ℝ) / 2 ^ 256) ^ 2 / D| ≤ 8 * |v| := by
  have hD2 : (2 : ℝ) ≤ D := by exact_mod_cast hD
  have hnonneg : 0 ≤ ((r : ℝ) / 2 ^ 256) ^ 2 := sq_nonneg _
  rw [abs_div, abs_mul, abs_of_nonneg hnonneg, abs_of_pos (show (0 : ℝ) < D by linarith), div_le_iff₀ (by linarith)]
  have hsq := mul_le_mul_of_nonneg_left (sq_angle_le hr) (abs_nonneg v)
  nlinarith [abs_nonneg v]

include ht

theorem abs_sinTerm_le (k : Nat) : |(sinTerm o r t k : ℝ)| ≤ 4 * 2 ^ 256 * 9 ^ k := by
  induction k with
  | zero =>
    rw [pow_zero, mul_one, ← fxOne_real]
    exact_mod_cast ht
  | succ k ih =>
    have hD : 2 ≤ (2 * k + 1 + o) * (2 * k + 2 + o) := by nlinarith
    have hstep := abs_sinStep_le (sinTerm o r t k) r hD
    have hmul := abs_mul_sq_angle_div_le hr (sinTerm o r t k : ℝ) hD
    have hsmall : |(sinTerm o r t k : ℝ)| / 2 ^ 256 ≤ 4 * 9 ^ k := by
      rw [div_le_iff₀ (by positivity)]
      linarith
    have hpow : (1 : ℝ) ≤ 9 ^ k := one_le_pow₀ (by norm_num)
    have htri := abs_sub_abs_le_abs_sub ((sinTerm o r t (k + 1) : Int) : ℝ)
      (-(sinTerm o r t k * ((r : ℝ) / 2 ^ 256) ^ 2 / ((2 * k + 1 + o) * (2 * k + 2 + o) : Nat)))
    rw [sub_neg_eq_add, abs_neg] at htri
    have hbound := htri.trans hstep
    rw [pow_succ (9 : ℝ)]
    linarith

/-- A term lies near its real value. -/
theorem abs_sinTerm_sub_le (ho : o.factorial = 1) (k : Nat) : |(sinTerm o r t k : ℝ) - sinReal o r t k| ≤ 16 ^ k := by
  induction k with
  | zero => simp [sinTerm, sinReal, ho]
  | succ k ih =>
    have hD : 2 ≤ (2 * k + 1 + o) * (2 * k + 2 + o) := by nlinarith
    have hstep := abs_sinStep_le (sinTerm o r t k) r hD
    have hterm := abs_sinTerm_le (o := o) hr ht k
    have hmul := abs_mul_sq_angle_div_le hr ((sinTerm o r t k : ℝ) - sinReal o r t k) hD
    have hsmall : |(sinTerm o r t k : ℝ)| / 2 ^ 256 ≤ 4 * 9 ^ k := by
      rw [div_le_iff₀ (by positivity)]
      linarith
    have hpow : (9 : ℝ) ^ k ≤ 16 ^ k := pow_le_pow_left₀ (by norm_num) (by norm_num) k
    have hone : (1 : ℝ) ≤ 9 ^ k := one_le_pow₀ (by norm_num)
    have heq : ((sinTerm o r t (k + 1) : Int) : ℝ) - sinReal o r t (k + 1) =
        (sinTerm o r t (k + 1) + sinTerm o r t k * ((r : ℝ) / 2 ^ 256) ^ 2 / ((2 * k + 1 + o) * (2 * k + 2 + o) : Nat))
          - (sinTerm o r t k - sinReal o r t k) * ((r : ℝ) / 2 ^ 256) ^ 2 / ((2 * k + 1 + o) * (2 * k + 2 + o) : Nat) := by
      rw [sinReal_succ]
      ring
    rw [heq, pow_succ (16 : ℝ)]
    refine (abs_sub _ _).trans ((add_le_add hstep hmul).trans ?_)
    linarith

/-- The sum of the terms lies near the sum of their real values. -/
theorem abs_sum_sinTerm_sub_le (ho : o.factorial = 1) :
    |((∑ k ∈ Finset.range 50, sinTerm o r t k : Int) : ℝ) - ∑ k ∈ Finset.range 50, sinReal o r t k| ≤ 50 * 16 ^ 50 := by
  rw [Int.cast_sum, ← Finset.sum_sub_distrib]
  refine (Finset.abs_sum_le_sum_abs _ _).trans ?_
  refine (Finset.sum_le_card_nsmul _ _ (16 ^ 50) fun k hk => ?_).trans_eq (by simp)
  have hk50 : k ≤ 50 := (Finset.mem_range.mp hk).le
  exact (abs_sinTerm_sub_le hr ht ho k).trans (pow_le_pow_right₀ (by norm_num) hk50)

end

/-! ## The series of cosine and sine -/

/-- The even and the odd part of the exponential series on the imaginary axis. -/
theorem sum_exp_imag (x : ℝ) (n : Nat) :
    ∑ m ∈ Finset.range (2 * n), ((x : ℂ) * Complex.I) ^ m / (m.factorial : ℂ) =
      ((∑ k ∈ Finset.range n, (-1) ^ k * x ^ (2 * k) / ((2 * k).factorial : ℝ) : ℝ) : ℂ)
        + ((∑ k ∈ Finset.range n, (-1) ^ k * x ^ (2 * k + 1) / ((2 * k + 1).factorial : ℝ) : ℝ) : ℂ) * Complex.I := by
  have hI (k : Nat) : Complex.I ^ (2 * k) = (-1) ^ k := by rw [pow_mul, Complex.I_sq]
  induction n with
  | zero => simp
  | succ n ih =>
    rw [show 2 * (n + 1) = 2 * n + 1 + 1 by ring, Finset.sum_range_succ, Finset.sum_range_succ, ih, Finset.sum_range_succ, Finset.sum_range_succ]
    simp only [mul_pow, pow_succ Complex.I, hI]
    push_cast
    ring

/-- A hundred terms of the exponential series leave next to nothing for angles up to 4. -/
theorem norm_exp_sub_sum_le {x : ℝ} (hx : |x| ≤ 4) :
    ‖Complex.exp (x * Complex.I) - ∑ m ∈ Finset.range (2 * 50), ((x : ℂ) * Complex.I) ^ m / (m.factorial : ℂ)‖ ≤ 1 / 2 ^ 26 := by
  have hnorm : ‖(x : ℂ) * Complex.I‖ = |x| := by simp
  refine (Complex.exp_bound' (n := 2 * 50) (by rw [hnorm]; norm_num; linarith)).trans ?_
  rw [hnorm]
  have hpow : |x| ^ (2 * 50) ≤ 4 ^ (2 * 50) := pow_le_pow_left₀ (abs_nonneg x) hx _
  have hfact : (4 : ℝ) ^ (2 * 50) / ((2 * 50).factorial : ℝ) * 2 ≤ 1 / 2 ^ 26 := by norm_num [Nat.factorial]
  refine le_trans ?_ hfact
  gcongr

theorem abs_cosSum_le {x : ℝ} (hx : |x| ≤ 4) :
    |∑ k ∈ Finset.range 50, (-1) ^ k * x ^ (2 * k) / ((2 * k).factorial : ℝ)| ≤ 1 + 1 / 2 ^ 26 := by
  have h := (Complex.abs_re_le_norm _).trans (norm_exp_sub_sum_le hx)
  rw [sum_exp_imag, Complex.sub_re, Complex.exp_ofReal_mul_I_re, Complex.add_re, Complex.re_ofReal_mul, Complex.ofReal_re, Complex.I_re,
    mul_zero, add_zero, abs_le] at h
  have hcos := abs_le.mp (Real.abs_cos_le_one x)
  rw [abs_le]
  constructor <;> linarith

theorem abs_sinSum_le {x : ℝ} (hx : |x| ≤ 4) :
    |∑ k ∈ Finset.range 50, (-1) ^ k * x ^ (2 * k + 1) / ((2 * k + 1).factorial : ℝ)| ≤ 1 + 1 / 2 ^ 26 := by
  have h := (Complex.abs_im_le_norm _).trans (norm_exp_sub_sum_le hx)
  rw [sum_exp_imag, Complex.sub_im, Complex.exp_ofReal_mul_I_im, Complex.add_im, Complex.im_ofReal_mul, Complex.ofReal_im, Complex.I_im,
    mul_one, zero_add, abs_le] at h
  have hsin := abs_le.mp (Real.abs_sin_le_one x)
  rw [abs_le]
  constructor <;> linarith

/-- A sine or cosine of fixed point lies within 2^-24 of [-1, 1] (R112). -/
theorem abs_fxSin_le (cos : Bool) (x : Int) : |fxSin cos x| ≤ 2 ^ 256 + 2 ^ 232 := by
  have hr := sinAngle_bounds x
  have hangle : |(sinAngle x : ℝ) / 2 ^ 256| ≤ 4 := by
    rw [abs_div, abs_of_pos (show (0 : ℝ) < 2 ^ 256 by positivity), div_le_iff₀ (by positivity), ← fxOne_real]
    exact_mod_cast hr
  have hnear {v c : ℝ} (hv : |v - 2 ^ 256 * c| ≤ 50 * 16 ^ 50) (hc : |c| ≤ 1 + 1 / 2 ^ 26) :
      |v| ≤ 2 ^ 256 * (1 + 1 / 2 ^ 26) + 50 * 16 ^ 50 := by
    rw [abs_le] at hv hc ⊢
    constructor <;> linarith
  have hreal : |((fxSin cos x : Int) : ℝ)| ≤ 2 ^ 256 * (1 + 1 / 2 ^ 26) + 50 * 16 ^ 50 := by
    rw [fxSin_eq]
    cases cos with
    | true =>
      have hsum := abs_sum_sinTerm_sub_le (o := 0) hr (t := fxOne) (by decide) rfl
      have heq : ∑ k ∈ Finset.range 50, sinReal 0 (sinAngle x) fxOne k =
          2 ^ 256 * ∑ k ∈ Finset.range 50, (-1) ^ k * ((sinAngle x : ℝ) / 2 ^ 256) ^ (2 * k) / ((2 * k).factorial : ℝ) := by
        rw [Finset.mul_sum]
        refine Finset.sum_congr rfl fun k _ => ?_
        rw [sinReal, fxOne_real, add_zero]
        ring
      exact hnear (heq ▸ hsum) (abs_cosSum_le hangle)
    | false =>
      have hsum := abs_sum_sinTerm_sub_le (o := 1) hr hr rfl
      have heq : ∑ k ∈ Finset.range 50, sinReal 1 (sinAngle x) (sinAngle x) k =
          2 ^ 256 * ∑ k ∈ Finset.range 50, (-1) ^ k * ((sinAngle x : ℝ) / 2 ^ 256) ^ (2 * k + 1) / ((2 * k + 1).factorial : ℝ) := by
        rw [Finset.mul_sum]
        refine Finset.sum_congr rfl fun k _ => ?_
        rw [sinReal, pow_succ _ (2 * k), show (sinAngle x : ℝ) = 2 ^ 256 * (sinAngle x / 2 ^ 256) by field_simp]
        ring
      exact hnear (heq ▸ hsum) (abs_sinSum_le hangle)
  have hreal' : ((|fxSin cos x| : Int) : ℝ) ≤ ((2 ^ 256 + 2 ^ 232 : Int) : ℝ) := by
    rw [Int.cast_abs]
    refine hreal.trans ?_
    norm_num
  exact_mod_cast hreal'

end Sys2Proof.Machine
end

section
/-! PROOF. The function approximations (R104, R112): the exact value rounded to nearest lies within every bound, so that a lane's result
does, and the results that R112 states. -/

namespace Sys2Proof.Machine

/-! ## The error of rounding -/

/-- How far a fixed-point magnitude lies from its rounded value. -/
def FP.err (p : FP) (m : Nat) : Int := |((p.signif m * 2 ^ (p.step m + p.low) : Nat) : Int) - m|

theorem FP.two_err_le (p : FP) (m : Nat) : 2 * p.err m ≤ ((2 ^ (p.step m + p.low) : Nat) : Int) := by
  have hnear := roundShift_near m (p.step m + p.low)
  unfold FP.err FP.signif
  rw [show ∀ a : Int, 2 * |a| = |2 * a| from fun a => by rw [abs_mul]; rfl, abs_le]
  omega

theorem FP.err_nonneg (p : FP) (m : Nat) : 0 ≤ p.err m := abs_nonneg _

/-- Rounding a magnitude keeps its error when the sign joins it. -/
theorem FP.natAbs_signedMag_sub (p : FP) (y : Int) :
    ((signedMag (decide (y < 0)) (p.signif y.natAbs * 2 ^ (p.step y.natAbs + p.low)) - y).natAbs : Int) = p.err y.natAbs := by
  unfold FP.err signedMag
  rw [Int.natCast_natAbs]
  generalize p.signif y.natAbs * 2 ^ (p.step y.natAbs + p.low) = n
  obtain hy | hy := lt_or_ge y 0
  · rw [decide_eq_true hy, if_pos rfl, ← abs_neg]
    congr 1
    omega
  · rw [decide_eq_false (by omega), if_neg (by decide)]
    congr 1
    omega

section
variable {p : FP} (h : p.Regular) (hbias : 2 ≤ p.bias) {m : Nat}
include h hbias

/-- The last place of a magnitude below a power of two. -/
theorem FP.Regular.place_le {n : Nat} (hm : m < 2 ^ n) (hn : 256 ≤ n) : p.step m + p.low ≤ n - 1 - p.mb := by
  have hsmall := h.small
  have hlog : Nat.log2 m < n := by
    by_cases h0 : m = 0
    · subst h0
      have hlog0 : Nat.log2 0 = 0 := rfl
      omega
    · exact (Nat.log2_lt h0).mpr hm
  unfold FP.step FP.low
  omega

/-- The error of a magnitude below a power of two. -/
theorem FP.Regular.err_le {n : Nat} (hm : m < 2 ^ n) (hn : 256 ≤ n) : 2 * p.err m ≤ ((2 ^ (n - 1 - p.mb) : Nat) : Int) := by
  have hpow : 2 ^ (p.step m + p.low) ≤ 2 ^ (n - 1 - p.mb) := Nat.pow_le_pow_right (by decide) (h.place_le hbias hm hn)
  have htwo := p.two_err_le m
  omega

end

theorem laneFmt_bias {ty : Nat} (h : ty < 3) : 2 ≤ (laneFmt ty).fp.bias := by
  interval_cases ty <;> decide

/-- Next to 1 a BF16 is 1, so that its error there is no more than below 1. -/
theorem err_bf16_le {m : Nat} (hm : m ≤ 2 ^ 256 + 2 ^ 232) : Fmt.bf16.fp.err m ≤ 2 ^ 247 := by
  have hreg : Fmt.bf16.fp.Regular := (laneFmt_regular (ty := 1) (by decide)).toRegular
  obtain hlt | hge := Nat.lt_or_ge m (2 ^ 256)
  · have h := hreg.err_le (n := 256) (by decide) hlt (by decide)
    have hmb : 256 - 1 - Fmt.bf16.fp.mb = 248 := rfl
    rw [hmb] at h
    omega
  · have hlog : Nat.log2 m = 256 := (Nat.log2_eq_iff (by omega)).mpr ⟨hge, by omega⟩
    have hplace : Fmt.bf16.fp.step m + Fmt.bf16.fp.low = 249 := by
      unfold FP.step FP.low
      rw [hlog]
      rfl
    have hnear := roundShift_near m 249
    unfold FP.err FP.signif
    rw [hplace, abs_le]
    omega

/-- The bound of a sine or cosine holds for the value rounded to nearest (R112). -/
theorem err_sine_le {ty : Nat} (h : ty < 3) {m : Nat} (hm : m ≤ 2 ^ 256 + 2 ^ 232) :
    (laneFmt ty).fp.err m ≤ if laneFmt ty = .fp32 then 2 ^ 234 else 2 ^ 247 := by
  have herr := (laneFmt_regular h).toRegular.err_le (laneFmt_bias h) (m := m) (n := 257) (by omega) (by decide)
  interval_cases ty
  · have hmb : 257 - 1 - (laneFmt 0).fp.mb = 233 := rfl
    rw [hmb] at herr
    simp only [laneFmt, if_true] at herr ⊢
    omega
  · exact err_bf16_le hm
  · have hmb : 257 - 1 - (laneFmt 2).fp.mb = 246 := rfl
    rw [hmb] at herr
    simp only [laneFmt, reduceCtorEq, if_false] at herr ⊢
    omega

/-! ## The bounds -/

/-- Whether a function is a sine or cosine. -/
def Fn.isTrig (f : Fn) : Bool := f = .sin || f = .cos

theorem fxUlp_nonneg (p : FP) (y : Int) : 0 ≤ fxUlp p y := by
  unfold fxUlp
  exact Int.natCast_nonneg _

/-- The bound of a function that is no sine or cosine is at least one unit of the last place (R112). -/
theorem fxUlp_le_fnBound {f : Fn} (hf : f.isTrig = false) (fm : Fmt) (v : FV) (y : Int) : fxUlp fm.fp y ≤ fnBound f fm v y := by
  have hulp := fxUlp_nonneg fm.fp y
  cases f with
  | sin => cases hf
  | cos => cases hf
  | rcp => exact le_rfl
  | exp | exp2 | rsq =>
    unfold fnBound
    dsimp only
    split <;> omega
  | ln | log2 =>
    unfold fnBound
    dsimp only
    split <;> split <;> omega

theorem fnBound_trig {f : Fn} (hf : f.isTrig = true) (fm : Fmt) (v : FV) (y : Int) :
    fnBound f fm v y = if f.far v then (v.fx.natAbs : Int) / 2 ^ 34 else if fm = .fp32 then 2 ^ 234 else 2 ^ 247 := by
  have habs : (if decide (fm = .fp32) then ((2 ^ 234 : Nat) : Int) else ((2 ^ 247 : Nat) : Int)) = if fm = .fp32 then 2 ^ 234 else 2 ^ 247 := by
    by_cases h : fm = .fp32 <;> simp [h]
  cases f with
  | sin => exact congrArg (fun a => if Fn.far .sin v then (v.fx.natAbs : Int) / 2 ^ 34 else a) habs
  | cos => exact congrArg (fun a => if Fn.far .cos v then (v.fx.natAbs : Int) / 2 ^ 34 else a) habs
  | _ => cases hf

/-- Beyond 4,096 the bound of a sine or cosine is 2^-22 or more. -/
theorem far_bound {f : Fn} {v : FV} (h : f.far v = true) : 2 ^ 234 ≤ (v.fx.natAbs : Int) / 2 ^ 34 := by
  simp only [Fn.far, fxFV, FV.lt, Bool.and_eq_true, decide_eq_true_eq] at h
  obtain ⟨-, hlt⟩ := h
  have hmag : (4096 * 2 ^ 256 : Int) < v.fx.natAbs := by
    simpa [signedMag, not_lt.mpr (abs_nonneg v.fx)] using hlt
  omega

/-- Only a sine or cosine has a far input. -/
theorem isTrig_of_far {f : Fn} {v : FV} (h : f.far v = true) : f.isTrig = true := by
  simp only [Fn.far, Bool.and_eq_true] at h
  exact h.1

/-! ## The exact value rounded to nearest -/

section
variable {fm : Fmt} (h : fm.Regular) {f : Fn} {v : FV} {y : Int}
include h

/-- A function without a far input: the bound allows the exact value rounded to nearest when it allows its error (R112). -/
theorem fnAllows_near (hfar : f.far v = false) (hb : fm.fp.err y.natAbs ≤ fnBound f fm v y) :
    fnAllows f fm v y (fnNearest f fm v y) = true := by
  have herr := fm.fp.err_nonneg y.natAbs
  have hslack : 0 ≤ (y.natAbs : Int) / 2 ^ 200 := by positivity
  unfold fnAllows fnNearest
  simp only [hfar, Bool.false_eq_true, if_false, Bool.not_false, Bool.true_or, Bool.and_true]
  obtain ⟨hinf, hout⟩ | ⟨n, k, e, hfin, hfx⟩ := h.convert_near y
  · rw [hinf]
    dsimp only
    rw [beq_self_eq_true, Bool.true_and]
    refine hout _ ?_
    by_cases hy : y < 0
    · rw [if_pos (decide_eq_true hy)]
      omega
    · rw [if_neg (by simpa using hy)]
      omega
  · rw [hfin]
    dsimp only
    rw [hfx, decide_eq_true_eq]
    have hdist := fm.fp.natAbs_signedMag_sub y
    omega

end

/-- FP32 has the values up to 1, rounded: none exceeds 1. -/
theorem fp32_signif_le {m : Nat} (hm : m ≤ 2 ^ 256) : Fmt.fp32.fp.signif m * 2 ^ (Fmt.fp32.fp.step m + Fmt.fp32.fp.low) ≤ 2 ^ 256 := by
  have hreg : Fmt.fp32.fp.Regular := (laneFmt_regular (ty := 0) (by decide)).toRegular
  obtain hlt | rfl := Nat.lt_or_eq_of_le hm
  · have hplace : Fmt.fp32.fp.step m + Fmt.fp32.fp.low ≤ 256 - 1 - Fmt.fp32.fp.mb := hreg.place_le (by decide) hlt (by decide)
    have hmb : 256 - 1 - Fmt.fp32.fp.mb = 232 := rfl
    obtain ⟨n, hn⟩ := Nat.exists_eq_add_of_le (show Fmt.fp32.fp.step m + Fmt.fp32.fp.low ≤ 256 by omega)
    have hle : Fmt.fp32.fp.signif m ≤ 2 ^ n := roundShift_le (by rwa [Nat.add_comm, ← hn])
    calc _ ≤ 2 ^ n * 2 ^ (Fmt.fp32.fp.step m + Fmt.fp32.fp.low) := Nat.mul_le_mul_right _ hle
      _ = 2 ^ 256 := by rw [← Nat.pow_add, Nat.add_comm, ← hn]
  · decide +kernel

/-- Beyond 4,096 the FP32 sine or cosine nearest within [-1, 1] is allowed (R112). -/
theorem fnAllows_far {f : Fn} {v : FV} {y : Int} (hfar : f.far v = true) (hy : |y| ≤ 2 ^ 256 + 2 ^ 232) :
    fnAllows f .fp32 v y (fnNearest f .fp32 v y) = true := by
  have hreg : Fmt.fp32.Regular := laneFmt_regular (ty := 0) (by decide)
  have hbound := far_bound hfar
  have hslack : 0 ≤ (y.natAbs : Int) / 2 ^ 200 := by positivity
  have hone : fxOne = 2 ^ 256 := rfl
  obtain ⟨z, hz⟩ : ∃ z, z = max (-fxOne) (min fxOne y) := ⟨_, rfl⟩
  have hzabs : z.natAbs ≤ 2 ^ 256 := by omega
  have hdist : |z - y| ≤ 2 ^ 232 := by
    rw [abs_le] at hy ⊢
    omega
  unfold fnAllows fnNearest
  simp only [hfar, if_true, fnBound_trig (isTrig_of_far hfar), Bool.not_true, Bool.false_or, ← hz]
  obtain ⟨-, hout⟩ | ⟨n, k, e, hfin, hfx⟩ := hreg.convert_near z
  · have hnot : (Fmt.fp32.decode (convert .fp32 (fxFV (2 ^ 256)) false none).1).isInf = false := by decide +kernel
    rw [hout (2 ^ 256) (by simpa using hzabs)] at hnot
    cases hnot
  · rw [hfin]
    dsimp only
    have hround := Fmt.fp32.fp.natAbs_signedMag_sub z
    have hle := fp32_signif_le hzabs
    have herr := hreg.toRegular.err_le (by decide) (m := z.natAbs) (n := 257) (by omega) (by decide)
    rw [show 257 - 1 - Fmt.fp32.fp.mb = 233 from rfl] at herr
    rw [hfx, Bool.and_eq_true, decide_eq_true_eq, decide_eq_true_eq]
    rw [abs_le] at hdist
    refine ⟨by omega, ?_⟩
    rw [hone]
    unfold signedMag
    split <;> omega

/-- A sine or cosine of fixed point is the exact result of its function. -/
theorem fnExact_trig {f : Fn} (hf : f.isTrig = true) (v : FV) : |fnExact f v| ≤ 2 ^ 256 + 2 ^ 232 := by
  cases f with
  | sin => exact abs_fxSin_le false v.fx
  | cos => exact abs_fxSin_le true v.fx
  | _ => cases hf

/-- The bound of R112 allows the exact value rounded to nearest. -/
theorem fnAllows_nearest {f : Fn} {ty : Nat} (hty : ty < 3) {v : FV} (hfar : ty = 0 ∨ f.far v = false) :
    fnAllows f (laneFmt ty) v (fnExact f v) (fnNearest f (laneFmt ty) v (fnExact f v)) = true := by
  cases htrig : f.isTrig with
  | false =>
    have hnear : f.far v = false := by
      by_contra hf
      rw [isTrig_of_far (by simpa using hf)] at htrig
      cases htrig
    have hulp := fxUlp_le_fnBound htrig (laneFmt ty) v (fnExact f v)
    have htwo := (laneFmt ty).fp.two_err_le (fnExact f v).natAbs
    have herr := (laneFmt ty).fp.err_nonneg (fnExact f v).natAbs
    rw [(laneFmt_regular hty).toRegular.fxUlp_eq] at hulp
    exact fnAllows_near (laneFmt_regular hty) hnear (by omega)
  | true =>
    have hexact := fnExact_trig htrig v
    cases hf : f.far v with
    | true =>
      obtain rfl : ty = 0 := hfar.resolve_right (by simp [hf])
      exact fnAllows_far hf hexact
    | false =>
      refine fnAllows_near (laneFmt_regular hty) hf ?_
      rw [fnBound_trig htrig, hf]
      exact err_sine_le hty (by rw [abs_le] at hexact; omega)

/-- The module's result is one that the bound allows. -/
theorem fnAllows_fnPick {f : Fn} {fm : Fmt} {v : FV} {y : Int} (h : fnAllows f fm v y (fnNearest f fm v y) = true) (c : Nat) :
    fnAllows f fm v y (fnPick f fm v y c) = true := by
  unfold fnPick
  split
  · assumption
  · exact h

/-- A result that R112 does not state lies within the bound. -/
theorem fnAllows_fnLane {f : Fn} {ty x : Nat} (sr : Option Nat) (hty : ty < 3) (hnone : fnSpecial f ((laneFmt ty).decode x) = none)
    (hfar : ty = 0 ∨ f.far ((laneFmt ty).decode x) = false) :
    fnAllows f (laneFmt ty) ((laneFmt ty).decode x) (fnExact f ((laneFmt ty).decode x)) (fnLane f ty x sr).1 = true := by
  have hall := fnAllows_fnPick (fnAllows_nearest hty hfar)
  show fnAllows f (laneFmt ty) _ _ (fnResult f ty (laneFmt ty) x sr) = true
  unfold fnResult
  simp only [hnone]
  split <;> exact hall _

/-- A result that R112 states, in FP32. -/
theorem fnLane_special {f : Fn} {x : Nat} {r : FV} (sr : Option Nat) (h : fnSpecial f (Fmt.fp32.decode x) = some r) :
    (fnLane f 0 x sr).1 = (convert .fp32 r false none).1 := by
  show fnResult f 0 .fp32 x sr = _
  unfold fnResult
  simp only [h]

/-- The logarithm of a negative number is a NaN, with NV (R104, R112). -/
theorem fnLane_neg {f : Fn} (hf : f = .ln ∨ f = .log2) {x : Nat} (sr : Option Nat) (hnan : (Fmt.fp32.decode x).isNan = false)
    (hzero : (Fmt.fp32.decode x).isZero = false) (hneg : (Fmt.fp32.decode x).isNeg = true) : fnLane f 0 x sr = (0x7FC00000, flagNV) := by
  have hspecial : fnSpecial f (Fmt.fp32.decode x) = some .nan := by
    obtain rfl | rfl := hf <;> simp [fnSpecial, hnan, hzero, hneg]
  have hres : fnResult f 0 .fp32 x sr = 0x7FC00000 := fnLane_special sr hspecial
  have hdec : Fmt.fp32.decode 0x7FC00000 = .nan := by decide
  have hnv : nvFlag .nan [Fmt.fp32.decode x] = flagNV := by
    have hisNan : FV.nan.isNan = true := rfl
    simp [nvFlag, hnan, hisNan]
  have hinf : FV.nan.isInf = false := rfl
  have hfmt : laneFmt 0 = .fp32 := rfl
  simp only [fnLane, hfmt, hres, hdec, hnv, hinf, Bool.false_and]
  rfl


end Sys2Proof.Machine

namespace Sys2Proof.Claims

open Host Sys2Proof.Machine

/-- A function operation: every enabled lane takes what the module gives for its input (R112, R152). -/
theorem fn_done {s : State} {k : Fetch} {op : Nat} {w : OpWord} (f : Fn) (h : Starts s k 2 op w) (ho : op < 256)
    (he : opEffect k.core ((coreAt s k).capture 2 op w true {}) s (started s k 2 op w) =
      vecFn k.core ((coreAt s k).capture 2 op w true {}) f (started s k 2 op w)) :
    ∃ t, runs s (unitWord 2 op k w s) = .next t ∧ VecDone s t k w fun l => (fnLane f (laneTy w) (laneA s k w (laneTy w) l) (randOf s w l)).1 := by
  refine vec_done h ho (.drawLanes ..) (drawLanes_chip ..) (he.trans rfl) (by simp [lanes]) fun l hl => ?_
  have hdraw := drawLanes_randOf (s := s) (k := k) (cls := 2) (op := op) (w := w) hl
  rw [List.getD_eq_getElem?_getD] at hdraw
  simp [lanes, hl, hdraw, laneA]

/-- Settles O11: lanes take the module's results, which are the stated ones or lie within the bounds. -/
theorem functionLanes : Obligations.FunctionLanes := by
  unfold Obligations.FunctionLanes
  refine ⟨fun s k w => ?_, fun f x sr hnan => ?_, fun sr => ?_, fun x sr hnan hzero hneg => ?_, fun sr => ?_,
    fun f ty x sr hty hnone hfar => fnAllows_fnLane sr hty hnone hfar⟩
  · intro ty a
    refine ⟨fun h => ?_, fun h => ?_, fun h => ?_, fun h => ?_, fun h => ?_, fun h => ?_, fun h => ?_, fun h => ?_⟩
    · exact fn_done .exp h (by omega) rfl
    · exact fn_done .exp2 h (by omega) rfl
    · exact fn_done .ln h (by omega) rfl
    · exact fn_done .log2 h (by omega) rfl
    · exact fn_done .rcp h (by omega) rfl
    · exact fn_done .rsq h (by omega) rfl
    · exact fn_done .sin h (by omega) rfl
    · exact fn_done .cos h (by omega) rfl
  · exact fnLane_special (r := .nan) sr (by simp [fnSpecial, hnan])
  · exact fnLane_special (f := .exp) (x := 0x42B18000) (r := .inf false) sr (by decide +kernel)
  · exact ⟨fnLane_neg (.inl rfl) sr hnan hzero hneg, fnLane_neg (.inr rfl) sr hnan hzero hneg⟩
  · exact fnLane_special (f := .rcp) (x := 0) (r := .inf false) sr (by decide +kernel)

end Sys2Proof.Claims
end

section
/-! PROOF. MMA over one K-block (R95 to R100, R148): the cells of the bank, the flags, and what the shell comparison reports. -/

namespace Sys2Proof.Machine

/-! ## Reports -/

/-- What `e` of `d` is only counted, recorded or reported: no core changed (R116, R420, R426). -/
structure Dev.Reports (n : Nat) (d e : Dev) : Prop extends Dev.Reads n d e where
  cores : e.chip.tow.cores = d.chip.tow.cores

theorem Dev.Reports.refl (n : Nat) (d : Dev) : d.Reports n d := ⟨.refl n d, rfl⟩

theorem Dev.Reports.trans {n : Nat} {d e f : Dev} (h : d.Reports n e) (k : e.Reports n f) : d.Reports n f :=
  ⟨h.toReads.trans k.toReads, k.cores.trans h.cores⟩

theorem Dev.Reports.of_cores {n : Nat} {d e : Dev} (hc : e.chip.tow.cores = d.chip.tow.cores) (ho : e.outerParts = d.outerParts)
    (hu : e.injUsed = d.injUsed) (hw : e.wr = d.wr) : d.Reports n e := ⟨.of_cores hc ho hu hw, hc⟩

theorem Dev.Reports.core {n : Nat} {d e : Dev} (h : d.Reports n e) (j : Nat) : e.chip.core j = d.chip.core j :=
  congrArg (Tab.get ({} : Core) · j) h.cores

theorem Dev.Reports.ite {n : Nat} {d e f : Dev} {p : Prop} [Decidable p] (he : d.Reports n e) (hf : d.Reports n f) :
    d.Reports n (if p then e else f) := by
  split
  · exact he
  · exact hf

theorem Dev.Reports.count (n : Nat) (d : Dev) (f : Fld) (c i e sel : Nat) : d.Reports n (d.count f c i e sel) := .of_cores rfl rfl rfl rfl

theorem Dev.Reports.log (n : Nat) (d : Dev) (e : LogEv) : d.Reports n (d.log e) := ⟨.log n d e, Dev.log_cores d e⟩

theorem Dev.Reports.failRoom (n : Nat) (d : Dev) (room cause : Nat) : d.Reports n (d.failRoom room cause) :=
  ⟨.failRoom n d room cause, Dev.failRoom_cores d room cause⟩

/-- A shell error reports (R426). -/
theorem Dev.Reports.shellError (n : Nat) (d : Dev) (core : Nat) (detail : List Byte) (inj : Option Inj) :
    d.Reports n (d.shellError core detail inj) := by
  unfold Dev.shellError
  extract_lets nocount room d1 d2 d3
  have h2 : d.Reports n d2 := (Dev.Reports.log ..).trans (.of_cores rfl rfl rfl rfl)
  have h3 : d.Reports n d3 := h2.trans (.ite (.refl ..) (.of_cores rfl rfl rfl rfl))
  clear_value d3 d2 d1 room
  cases room with
  | none => exact h3
  | some r => exact h3.trans (.failRoom ..)

/-! ## The flags of a core -/

theorem Dev.coreFlags_flags (d : Dev) (n mask : Nat) : ((d.coreFlags n mask).chip.core n).flags = (d.chip.core n).flags ||| mask := by
  unfold Dev.coreFlags
  split
  · next h => simp [h]
  · rw [Dev.flagMask_chip, core_onCore, if_pos rfl]

theorem testBit_foldl_or (l : List Nat) (n i : Nat) : (l.foldl (· ||| ·) n).testBit i = (n.testBit i || l.any fun m => m.testBit i) := by
  induction l generalizing n with
  | nil => simp
  | cons x l ih => rw [List.foldl_cons, ih, Nat.testBit_or, List.any_cons, Bool.or_assoc]

/-- A flag that some operation of a list set. -/
theorem testBit_orAll (l : List Nat) (i : Nat) : (orAll l).testBit i = l.any fun m => m.testBit i := by
  rw [orAll, testBit_foldl_or, Nat.zero_testBit, Bool.false_or]

/-! ## The cells of a bank -/

/-- The cells of a bank with what each does, in the order of rows. -/
def cellOuts (cell : Nat → Nat → CellOut) : List (Nat × Nat × CellOut) :=
  (List.range 32).flatMap fun i => (List.range 64).map fun j => (i, j, cell i j)

theorem mem_cellOuts {cell : Nat → Nat → CellOut} {o : Nat × Nat × CellOut} :
    o ∈ cellOuts cell ↔ o.1 < 32 ∧ o.2.1 < 64 ∧ o.2.2 = cell o.1 o.2.1 := by
  simp only [cellOuts, List.mem_flatMap, List.mem_map, List.mem_range]
  constructor
  · rintro ⟨i, hi, j, hj, rfl⟩
    exact ⟨hi, hj, rfl⟩
  · rintro ⟨hi, hj, hcell⟩
    exact ⟨o.1, hi, o.2.1, hj, by rw [← hcell]⟩

/-- A bank with the entries of a list of cells. -/
def Bank.setAll (b : Bank) (l : List (Nat × Nat × CellOut)) : Bank := l.foldl (fun b o => b.set o.1 o.2.1 o.2.2.ent) b

theorem Bank.at'_set (b : Bank) (i j : Nat) (v : BitVec 48) (i' j' : Nat) (hj : j < 64) (hj' : j' < 64) :
    (b.set i j v).at' i' j' = if i' = i ∧ j' = j then v else b.at' i' j' := by
  have hkey : 64 * i' + j' = 64 * i + j ↔ i' = i ∧ j' = j := by omega
  simp only [Bank.at', Bank.set, Tab.get_put, hkey]

/-- A cell that the list names takes its entry. -/
theorem Bank.at'_setAll {cell : Nat → Nat → CellOut} {l : List (Nat × Nat × CellOut)} (hl : ∀ o ∈ l, o.2.1 < 64 ∧ o.2.2 = cell o.1 o.2.1)
    {i j : Nat} (hj : j < 64) {b : Bank} (h : b.at' i j = (cell i j).ent ∨ ∃ o ∈ l, i = o.1 ∧ j = o.2.1) :
    (b.setAll l).at' i j = (cell i j).ent := by
  induction l generalizing b with
  | nil => exact h.resolve_right (by simp)
  | cons o l ih =>
    obtain ⟨ho, hcell⟩ := hl o (by simp)
    have hstep : b.setAll (o :: l) = (b.set o.1 o.2.1 o.2.2.ent).setAll l := rfl
    rw [hstep]
    refine ih (fun x hx => hl x (by simp [hx])) ?_
    rw [Bank.at'_set _ _ _ _ _ _ ho hj]
    by_cases hthis : i = o.1 ∧ j = o.2.1
    · left
      rw [if_pos hthis, hcell, hthis.1, hthis.2]
    · rw [if_neg hthis]
      obtain hb | ⟨x, hx, hxij⟩ := h
      · exact .inl hb
      · obtain rfl | hmem := List.mem_cons.mp hx
        · exact absurd hxij hthis
        · exact .inr ⟨x, hmem, hxij⟩

/-- Every cell of the bank takes its entry. -/
theorem Bank.at'_setAll_cellOuts (cell : Nat → Nat → CellOut) (b : Bank) {i j : Nat} (hi : i < 32) (hj : j < 64) :
    (b.setAll (cellOuts cell)).at' i j = (cell i j).ent :=
  Bank.at'_setAll (fun _ ho => (mem_cellOuts.mp ho).2) hj (.inr ⟨(i, j, cell i j), mem_cellOuts.mpr ⟨hi, hj, rfl⟩, rfl, rfl⟩)

/-! ## One K-block -/

/-- Whether a loaded K-block holds a NaN, an infinity or a NaN block scale (R99). -/
def blockSpecial (x : MmaArgs) (A : ABuf) (B : List Col × List Nat) : Bool :=
  ((List.range 32).any fun i => (A.row i).any (Claims.sideOf x.a A.scales i).special)
    || (List.range 64).any fun j => (B.1.getD j []).any fun p => (Claims.sideOf x.b B.2 j).special p.2

/-- What a cell does with a loaded K-block (R95 to R100). -/
def blockCell (x : MmaArgs) (A : ABuf) (B : List Col × List Nat) (bank : Bank) (i j : Nat) : CellOut :=
  let a := Claims.sideOf x.a A.scales i
  let b := Claims.sideOf x.b B.2 j
  let fs := factors (A.row i) (B.1.getD j [])
  if x.isInt then cellInt a b fs 0 (bank.at' i j)
  else if x.a.format.isHalf then cellHalf a b fs 0 ((bank.at' i j).truncate 32)
  else cellExact a b fs 0 (blockSpecial x A B) ((bank.at' i j).truncate 32)

/-- What a K-block leaves besides the bank and its flags: counts, the check and its error (R116, R423 to R426). -/
def blockReports (core : Nat) (x : MmaArgs) (special : Bool) (sh : Shell) (flags sats kb : Nat) (d : Dev) : Dev :=
  let d := if flags &&& flagTRUNC ≠ 0 then d.countTrunc core else d
  let d := if special then d.countSpec core
    else if sh.spec then d.onTow fun t => { t with specs := Tab.upd 0 t.specs (towerOf core) fun n => satAdd 32 n 1 }
    else d
  let d := d.countSat core sats
  let d := if sh.made then d.chanChecked 3 core else d
  if sh.bad then d.shellError core (sh.detail x.bank kb) none else d

theorem Dev.Reports.blockReports (core : Nat) (x : MmaArgs) (special : Bool) (sh : Shell) (flags sats kb : Nat) (d : Dev) :
    d.Reports core (blockReports core x special sh flags sats kb d) := by
  unfold Machine.blockReports
  extract_lets d1 d2 d3 d4
  have h1 : d.Reports core d1 := .ite (.count ..) (.refl ..)
  have h2 : d.Reports core d2 := h1.trans (.ite (.count ..) (.ite (.of_cores rfl rfl rfl rfl) (.refl ..)))
  have hsat : d2.Reports core d3 := ⟨(Dev.Computes.countSat ..).toReads, congrArg (fun c : Chip => c.tow.cores) (Dev.countSat_chip ..)⟩
  have h4 : d.Reports core d4 := (h2.trans hsat).trans (.ite (.of_cores rfl rfl rfl rfl) (.refl ..))
  exact h4.trans (.ite (.shellError ..) (.refl ..))

theorem injOn_none {s : State} (h : s.gate.inj.st ≠ .active) (d : Dev) (kind : Nat) : s.injOn d kind = none := by
  unfold State.injOn
  rw [if_neg fun hall => h hall.2.1]

/-- The cells of a loaded K-block on a bank. -/
def blockCells (x : MmaArgs) (A : ABuf) (B : List Col × List Nat) (bank : Bank) : List (Nat × Nat × CellOut) := cellOuts (blockCell x A B bank)

/-- The flags that cells set. -/
def cellFlags (l : List (Nat × Nat × CellOut)) : Nat := orAll (l.map fun o => o.2.2.flags)

/-- The shell comparison of a K-block of a sound engine (R108 to R110, R423). -/
def blockShell (x : MmaArgs) (A : ABuf) (B : List Col × List Nat) (tol : Nat) : Shell :=
  let sh : Shell :=
    if blockSpecial x A B || (x.a.format.isHalf && tol = 0xFFFF) then { made := false }
    else if x.a.format.isHalf then shellHalf (Claims.sideOf x.a A.scales 0) (Claims.sideOf x.b B.2 0) A B.1 none 0 0 tol
    else shellExact x.a.format x.b.format A B.1 none 0 0
  { sh with exponent := false, residue := false }

/-- The flag of a K-block whose comparison was suppressed (R114). -/
def specFlag (x : MmaArgs) (A : ABuf) (B : List Col × List Nat) (tol : Nat) : Nat :=
  if blockSpecial x A B || (blockShell x A B tol).spec then flagSPEC else 0

/-- A K-block of a sound engine: every cell of the bank, the flags, then reports (R95 to R100, R423). -/
theorem mmaBlock_eq {s : State} (h : s.gate.inj.st ≠ .active) (core : Nat) (x : MmaArgs) (A : ABuf) (B : List Col × List Nat) (kb : Nat) (d : Dev) :
    let cells := blockCells x A B ((d.chip.core core).rdB x.bank)
    let tol := Tab.get 4 (d.chip.core core).tol x.bank
    mmaBlock core x {} A B kb s d =
      blockReports core x (blockSpecial x A B) (blockShell x A B tol) (cellFlags cells) (cells.filter fun o => o.2.2.sat).length kb
        ((d.onCore core fun c => c.wrB x.bank (((d.chip.core core).rdB x.bank).setAll cells)).coreFlags core
          (cellFlags cells ||| specFlag x A B tol)) := by
  intro cells tol
  unfold mmaBlock
  simp only [injOn_none h, Option.filter_none, ite_self, Option.or_none]
  rfl

/-- A bank written, flags set, and reports: what they leave of the core (R114, R148). -/
theorem blockReports_done (core : Nat) (x : MmaArgs) (special : Bool) (sh : Shell) (flags sats kb mask : Nat) (bank : Bank) (d : Dev) :
    let e := blockReports core x special sh flags sats kb ((d.onCore core fun c => c.wrB x.bank bank).coreFlags core mask)
    d.Reads core e ∧ (e.chip.core core).files = ((d.chip.core core).wrB x.bank bank).files
      ∧ (e.chip.core core).flags = (d.chip.core core).flags ||| mask := by
  intro e
  have hreports : ((d.onCore core fun c => c.wrB x.bank bank).coreFlags core mask).Reports core e := .blockReports ..
  have hcomp : d.Computes core ((d.onCore core fun c => c.wrB x.bank bank).coreFlags core mask) :=
    (Dev.Computes.onCore core d (fun c => c.wrB x.bank bank) rfl).trans (.coreFlags ..)
  refine ⟨hcomp.toReads.trans hreports.toReads, ?_, ?_⟩
  · rw [hreports.core, Dev.coreFlags_files, core_onCore, if_pos rfl]
  · rw [hreports.core, Dev.coreFlags_flags, core_onCore, if_pos rfl]
    rfl

/-- A K-block of a sound engine: what it leaves of the core (R95 to R100, R114). -/
theorem mmaBlock_done {s : State} (h : s.gate.inj.st ≠ .active) {core : Nat} {x : MmaArgs} {A : ABuf} {B : List Col × List Nat} {kb : Nat} {d : Dev}
    {bank : Bank} (hbank : (d.chip.core core).rdB x.bank = bank) :
    d.Reads core (mmaBlock core x {} A B kb s d)
      ∧ ((mmaBlock core x {} A B kb s d).chip.core core).files = ((d.chip.core core).wrB x.bank (bank.setAll (blockCells x A B bank))).files
      ∧ ∃ extra, (extra = 0 ∨ extra = flagSPEC) ∧ ((mmaBlock core x {} A B kb s d).chip.core core).flags =
          (d.chip.core core).flags ||| (cellFlags (blockCells x A B bank) ||| extra) := by
  subst hbank
  have hextra : specFlag x A B (Tab.get 4 (d.chip.core core).tol x.bank) = 0
      ∨ specFlag x A B (Tab.get 4 (d.chip.core core).tol x.bank) = flagSPEC := by
    unfold specFlag
    split <;> simp
  have heq := mmaBlock_eq h core x A B kb d
  dsimp only at heq
  rw [heq]
  obtain ⟨hreads, hfiles, hflags⟩ := blockReports_done core x (blockSpecial x A B) _ _ _ kb _ _ d
  exact ⟨hreads, hfiles, _, hextra, hflags⟩

/-! ## The operands -/

theorem Dev.bytesOf_of_wr {d d' : Dev} (h : d.wr = d'.wr) : d.bytesOf = d'.bytesOf := by
  funext s core a n
  simp only [Dev.bytesOf, Dev.memory, h]

theorem loadA_of_wr {d d' : Dev} (h : d.wr = d'.wr) (s : State) (core : Nat) (t : Desc) (kb : Nat) :
    loadA d s core t kb = loadA d' s core t kb := by
  simp only [loadA, Dev.bytesOf_of_wr h]

theorem loadB_of_wr {d d' : Dev} (h : d.wr = d'.wr) (s : State) (core : Nat) (t : Desc) (kb : Nat) :
    loadB d s core t kb = loadB d' s core t kb := by
  simp only [loadB, Dev.bytesOf_of_wr h]

end Sys2Proof.Machine

namespace Sys2Proof.Claims

open Sys2Proof.Machine

section
variable (s : State) (k : Fetch) (w : OpWord)

/-- The A buffer that an MMA loads for its first K-block (R136, R137). -/
def mmaA : ABuf := loadA s.dev s k.core (argsOf s k w).a (argsOf s k w).kb0

/-- The columns of B in its first K-block (R136 to R138). -/
def mmaB : List Col × List Nat := loadB s.dev s k.core (argsOf s k w).b (argsOf s k w).kb0

/-- The bank on which an MMA accumulates: cleared where ZERO is set (R149). -/
def mmaBank : Bank :=
  if (argsOf s k w).zero then Bank.cleared (argsOf s k w).isInt (argsOf s k w).a.tileScale (argsOf s k w).b.tileScale
  else (coreAt s k).rdB (argsOf s k w).bank

/-- Its cells with what each does. -/
def mmaCells : List (Nat × Nat × CellOut) := blockCells (argsOf s k w) (mmaA s k w) (mmaB s k w) (mmaBank s k w)

/-- The core once its operands are loaded. -/
def mmaLoaded (c : Core) : Core :=
  { (if (argsOf s k w).zero then
      c.wrB (argsOf s k w).bank (Bank.cleared (argsOf s k w).isInt (argsOf s k w).a.tileScale (argsOf s k w).b.tileScale)
    else c) with abuf := mmaA s k w }

/-- The ranges of one K-block (R136 to R138). -/
def mmaReads : List (Nat × Nat) :=
  rangesA (argsOf s k w).a (argsOf s k w).kb0 ++ rangesB (argsOf s k w).b (argsOf s k w).kb0

end

section
variable {s : State} {k : Fetch} {w : OpWord}

/-- The bank on which an MMA accumulates stands in the loaded core. -/
theorem mmaLoaded_rdB {c : Core} (hc : c.files = (coreAt s k).files) : (mmaLoaded s k w c).rdB (argsOf s k w).bank = mmaBank s k w := by
  unfold mmaLoaded mmaBank
  split
  · exact (Core.rdB_wrB c _ _ _).trans (if_pos rfl)
  · exact Core.rdB_of_files hc _

/-- One bank written after loading: no other register changed. -/
theorem onlyB_of_mmaLoaded {t : State} {c : Core} (hc : c.files = (coreAt s k).files) {v : Bank}
    (ht : (coreAt t k).files = ((mmaLoaded s k w c).wrB (argsOf s k w).bank v).files) :
    (coreAt t k).rdB (argsOf s k w).bank = v ∧ OnlyB s t k (argsOf s k w).bank := by
  have hrd (j : Nat) (hj : j ≠ (argsOf s k w).bank) : (mmaLoaded s k w c).rdB j = (coreAt s k).rdB j := by
    unfold mmaLoaded
    split
    · exact ((Core.rdB_wrB c _ _ _).trans (if_neg hj)).trans (Core.rdB_of_files hc j)
    · exact Core.rdB_of_files hc j
  have hrest : (mmaLoaded s k w c).s = (coreAt s k).s ∧ (mmaLoaded s k w c).p = (coreAt s k).p ∧ (mmaLoaded s k w c).m = (coreAt s k).m
      ∧ (mmaLoaded s k w c).w = (coreAt s k).w ∧ (mmaLoaded s k w c).d = (coreAt s k).d := by
    unfold mmaLoaded
    split <;> exact ⟨congrArg Files.s hc, congrArg Files.p hc, congrArg Files.m hc, congrArg Files.w hc, congrArg Files.d hc⟩
  obtain ⟨hs, hp, hm, hw, hd⟩ := hrest
  refine ⟨?_, fun j hj => ?_, (congrArg Files.s ht).trans hs, (congrArg Files.p ht).trans hp, (congrArg Files.m ht).trans hm,
    (congrArg Files.w ht).trans hw, (congrArg Files.d ht).trans hd⟩
  · rw [Core.rdB_of_files ht, Core.rdB_wrB, if_pos rfl]
  · rw [Core.rdB_of_files ht, Core.rdB_wrB, if_neg hj, hrd j hj]

theorem mmaLoaded_standing (c : Core) : (mmaLoaded s k w c).standing = c.standing ∧ (mmaLoaded s k w c).flags = c.flags := by
  unfold mmaLoaded
  split <;> exact ⟨rfl, rfl⟩

/-- A started MMA of one K-block consumes its ranges, then runs the block (R148, R150). -/
theorem opMma_started (h1 : w.h = 1) (h17 : bitOf w.i 17 = false) :
    opEffect k.core ((coreAt s k).capture 1 0x01 w true {}) s (started s k 1 0x01 w) =
      (started s k 1 0x01 w).consumeAll k.core (coreAt s k).pc s
        (mmaRun k.core ((coreAt s k).capture 1 0x01 w true {}) (argsOf s k w) [(argsOf s k w).kb0] s) (mmaReads s k w) := by
  have hop : opEffect k.core ((coreAt s k).capture 1 0x01 w true {}) s (started s k 1 0x01 w) =
      opMma k.core ((coreAt s k).capture 1 0x01 w true {}) s (started s k 1 0x01 w) := by simp [opEffect, effectMat]
  have hkeep : (argsOf s k w).keep = false := h17
  have hkb : (argsOf s k w).kb = 1 := h1
  have hargs : mmaArgs ((coreAt s k).capture 1 0x01 w true {}) (started s k 1 0x01 w).chip.frm.cur = argsOf s k w := by
    rw [started_frm]
    rfl
  have hblocks : (List.range (argsOf s k w).kb).map (· + (argsOf s k w).kb0) = [(argsOf s k w).kb0] := by simp [hkb]
  simp only [hop, opMma, hargs, hblocks, hkeep, capture_run, capture_pc, mmaReads, Bool.not_true, Bool.false_eq_true, if_false,
    List.flatMap_cons, List.flatMap_nil, List.append_nil]

/-- The block runs on a device in which only the core's operands were loaded. -/
theorem mmaRun_one {e : Dev} (hs : s.dev.wr = []) (he : e.wr = []) (h17 : bitOf w.i 17 = false) :
    ∃ d, e.Computes k.core d ∧ d.chip.core k.core = mmaLoaded s k w (e.chip.core k.core)
      ∧ mmaRun k.core ((coreAt s k).capture 1 0x01 w true {}) (argsOf s k w) [(argsOf s k w).kb0] s e =
          mmaBlock k.core (argsOf s k w) {} (mmaA s k w) (mmaB s k w) (argsOf s k w).kb0 s d := by
  have hkeep : (argsOf s k w).keep = false := h17
  obtain ⟨z, hz, hzwr, hzcore⟩ : ∃ z, e.Computes k.core z ∧ z.wr = [] ∧ z = (if (argsOf s k w).zero then
      e.onCore k.core fun c => c.wrB (argsOf s k w).bank (Bank.cleared (argsOf s k w).isInt (argsOf s k w).a.tileScale (argsOf s k w).b.tileScale)
    else e) := by
    refine ⟨_, ?_, ?_, rfl⟩
    · split
      · exact .onCore _ _ _ rfl
      · exact .refl _ _
    · split <;> exact he
  have hA : loadA z s k.core (argsOf s k w).a (argsOf s k w).kb0 = mmaA s k w := loadA_of_wr (hzwr.trans hs.symm) ..
  have hB (f : Core → Core) : loadB (z.onCore k.core f) s k.core (argsOf s k w).b (argsOf s k w).kb0 = mmaB s k w :=
    loadB_of_wr (hzwr.trans hs.symm) ..
  refine ⟨z.onCore k.core fun c => { c with abuf := mmaA s k w }, hz.trans (.onCore _ _ _ rfl), ?_, ?_⟩
  · rw [core_onCore, if_pos rfl, hzcore]
    unfold mmaLoaded
    split
    · rw [core_onCore, if_pos rfl]
    · rfl
  · unfold mmaRun
    simp only [← hzcore, List.foldl_cons, List.foldl_nil, hkeep, Bool.false_eq_true, if_false, hA, hB]
    rfl

/-- MMA over one K-block on sound operands (R95 to R100, R148). -/
theorem mma_done (h : Starts s k 1 0x01 w) (h1 : w.h = 1) (h17 : bitOf w.i 17 = false) (hinj : s.gate.inj.st ≠ .active)
    (hsound : ∀ r ∈ mmaReads s k w, sound s k r.1 r.2 = true) :
    ∃ t, exec (.mma k w {}) s = .next t
      ∧ (∀ i j, i < 32 → j < 64 → ((coreAt t k).rdB (argsOf s k w).bank).at' i j =
          (blockCell (argsOf s k w) (mmaA s k w) (mmaB s k w) (mmaBank s k w) i j).ent)
      ∧ (∃ extra, (extra = 0 ∨ extra = flagSPEC) ∧ (coreAt t k).flags = (coreAt s k).flags ||| (cellFlags (mmaCells s k w) ||| extra))
      ∧ OnlyB s t k (opIdx w.f0) ∧ SameMemory s t ∧ KeepsOuter s t := by
  obtain ⟨e, hmet, hall⟩ := Dev.consumeAll_sound (pc := (coreAt s k).pc) s
    (mmaRun k.core ((coreAt s k).capture 1 0x01 w true {}) (argsOf s k w) [(argsOf s k w).kb0] s) (mmaReads s k w)
    fun r hr => sound_started (hsound r hr) 1 0x01 w
  have hwr : e.wr = [] := hmet.wr.trans (started_wr s k 1 0x01 w h.1.wr)
  obtain ⟨d, hcomp, hcore, hrun⟩ := mmaRun_one (k := k) (w := w) h.1.wr hwr h17
  have hfiles : (e.chip.core k.core).files = (coreAt s k).files := by rw [hmet.core, started_files]
  have hbank : (d.chip.core k.core).rdB (argsOf s k w).bank = mmaBank s k w := by rw [hcore, mmaLoaded_rdB hfiles]
  obtain ⟨hreads, hblock, extra, hextra, hflags⟩ :=
    mmaBlock_done (A := mmaA s k w) (B := mmaB s k w) (kb := (argsOf s k w).kb0) hinj hbank
  obtain ⟨t, hnext, ⟨-, -, houter⟩, htfiles, htflags, hmem, -⟩ := unit_works h (by omega) (by omega)
    ((opMma_started h1 h17).trans (hall.trans hrun)) ((hmet.toReads.trans hcomp.toReads).trans hreads).toWorks
  have hwrote : (coreAt t k).files = ((mmaLoaded s k w (e.chip.core k.core)).wrB (argsOf s k w).bank
      ((mmaBank s k w).setAll (mmaCells s k w))).files := by
    rw [htfiles, hblock, hcore]
    rfl
  obtain ⟨hset, honly⟩ := onlyB_of_mmaLoaded hfiles hwrote
  refine ⟨t, hnext, fun i j hi hj => ?_, ⟨extra, hextra, ?_⟩, honly, fun a => ?_, houter⟩
  · rw [hset]
    exact Bank.at'_setAll_cellOuts _ _ hi hj
  · rw [htflags, hflags, hcore, (mmaLoaded_standing _).2, hmet.core, started_flags]
    rfl
  · rw [hmem, hreads.wr, hcomp.wr, hwr, Mem.apply_nil]

end

end Sys2Proof.Claims
end

section
/-! PROOF. The integer accumulator (R98). -/

namespace Sys2Proof.Machine

/-- A block sum without a window is the sum of the products (R95). -/
theorem blockSum_exact (ps : List Int) : (blockSum false ps).1 = ps.sum := by
  simp [blockSum, window, isum, List.sum_eq_foldl]

/-- The entry of an integer cell is the exact sum, saturated (R98). -/
theorem cellInt_ent (a b : Side) (fs : List (Nat × Nat)) (c : BitVec 48) :
    (cellInt a b fs 0 c).ent.toInt = max (-(2 ^ 47)) (min (2 ^ 47 - 1) (c.toInt + (products a b fs).sum)) := by
  have hself {i : Int} (hlo : -(2 ^ 47) ≤ i) (hhi : i ≤ 2 ^ 47 - 1) : (BitVec.ofInt 48 i).toInt = i :=
    BitVec.toInt_ofInt_eq_self (by decide) hlo (by omega)
  unfold cellInt
  dsimp only
  rw [blockSum_exact, Int.add_zero]
  split
  · rw [hself (by decide) (by decide)]
    omega
  · split
    · rw [hself (by decide) (by decide)]
      omega
    · rw [hself (by omega) (by omega)]
      omega

/-- An integer cell sets SAT exactly when it saturates (R98). -/
theorem cellInt_sat (a b : Side) (fs : List (Nat × Nat)) (c : BitVec 48) :
    (cellInt a b fs 0 c).flags.testBit 2 = true ↔
      c.toInt + (products a b fs).sum < -(2 ^ 47) ∨ 2 ^ 47 - 1 < c.toInt + (products a b fs).sum := by
  have hsat : flagSAT.testBit 2 = true := by decide
  unfold cellInt
  dsimp only
  rw [blockSum_exact, Int.add_zero]
  split
  · simp only [hsat, true_iff]
    omega
  · split
    · simp only [hsat, true_iff]
      omega
    · simp only [Nat.zero_testBit, Bool.false_eq_true, false_iff]
      omega

/-- A flag that some cell of the bank set. -/
theorem testBit_cellFlags_cellOuts (cell : Nat → Nat → CellOut) (n : Nat) :
    (cellFlags (cellOuts cell)).testBit n = true ↔ ∃ i j, i < 32 ∧ j < 64 ∧ (cell i j).flags.testBit n = true := by
  rw [cellFlags, testBit_orAll, List.any_map, List.any_eq_true]
  constructor
  · rintro ⟨o, ho, hbit⟩
    obtain ⟨hi, hj, hcell⟩ := mem_cellOuts.mp ho
    exact ⟨o.1, o.2.1, hi, hj, hcell ▸ hbit⟩
  · rintro ⟨i, j, hi, hj, hbit⟩
    exact ⟨(i, j, cell i j), mem_cellOuts.mpr ⟨hi, hj, rfl⟩, hbit⟩

end Sys2Proof.Machine

namespace Sys2Proof.Claims

open Sys2Proof.Machine

/-- Settles O6: each entry is the exact sum saturated, and SAT tells whether one saturated. -/
theorem integerAccumulatorSaturates : Obligations.IntegerAccumulatorSaturates := by
  unfold Obligations.IntegerAccumulatorSaturates
  intro s k w x a b sum out h h1 h17 hinj hint hzero hsound
  obtain ⟨t, hrun, hents, ⟨extra, hextra, hflags⟩, honly, hmem, houter⟩ := mma_done h h1 h17 hinj hsound
  have hcell (i j : Nat) : blockCell x (mmaA s k w) (mmaB s k w) (mmaBank s k w) i j =
      cellInt (a i) (b j) (cellFactors s k x x.kb0 i j) 0 (((coreAt s k).rdB x.bank).at' i j) := by
    have hbank : mmaBank s k w = (coreAt s k).rdB x.bank := if_neg (by rw [show (argsOf s k w).zero = false from hzero]; decide)
    rw [blockCell, hbank]
    exact if_pos hint
  refine ⟨t, hrun, fun i j hi hj => ?_, ?_, honly, hmem, houter⟩
  · rw [hents i j hi hj, hcell, cellInt_ent]
  · have hno : extra.testBit 2 = false := by obtain rfl | rfl := hextra <;> decide
    have hsome : (cellFlags (mmaCells s k w)).testBit 2 = true ↔ ∃ i j, i < 32 ∧ j < 64 ∧ out (sum i j) := by
      refine (testBit_cellFlags_cellOuts _ 2).trans (exists_congr fun i => exists_congr fun j => ?_)
      rw [hcell, cellInt_sat]
    rw [hflags, Nat.testBit_or, Nat.testBit_or, hno, Bool.or_false, Bool.or_eq_true, hsome]

end Sys2Proof.Claims
end

section
/-! PROOF. Writes of scattered bytes (R148, R165): a map of bytes is written run by run, and memory then reads as the map. -/

namespace Sys2Proof.Machine

/-! ## Maps of bytes -/

/-- The keys of a listing rise. -/
def Tab.Rising {α : Type} (t : Tab α) : Prop := t.Pairwise fun p q => p.1 < q.1

theorem Tab.mem_ins {α : Type} {t : Tab α} {n : Nat} {v : α} {p : Nat × α} (h : p ∈ Tab.ins t n v) : p = (n, v) ∨ p ∈ t := by
  induction t with
  | nil => exact .inl (by simpa [Tab.ins] using h)
  | cons q t ih =>
    obtain ⟨k, x⟩ := q
    rw [Tab.ins] at h
    split at h
    · simpa using h
    · split at h
      · obtain hp | hp := List.mem_cons.mp h
        · exact .inl hp
        · exact .inr (List.mem_cons_of_mem _ hp)
      · obtain hp | hp := List.mem_cons.mp h
        · exact .inr (hp ▸ List.mem_cons_self)
        · exact (ih hp).imp_right (List.mem_cons_of_mem _)

theorem Tab.Rising.ins {α : Type} {t : Tab α} (h : Tab.Rising t) (n : Nat) (v : α) : Tab.Rising (Tab.ins t n v) := by
  induction t with
  | nil => exact List.pairwise_singleton _ _
  | cons q t ih =>
    obtain ⟨k, x⟩ := q
    obtain ⟨hk, ht⟩ := List.pairwise_cons.mp h
    rw [Tab.ins]
    split
    · next hlt =>
      refine List.pairwise_cons.mpr ⟨fun p hp => ?_, h⟩
      obtain rfl | hp := List.mem_cons.mp hp
      · exact hlt
      · exact hlt.trans (hk p hp)
    · split
      · next heq =>
        subst heq
        exact List.pairwise_cons.mpr ⟨hk, ht⟩
      · next hge hne =>
        refine List.pairwise_cons.mpr ⟨fun p hp => ?_, ih ht⟩
        obtain rfl | hp := Tab.mem_ins hp
        · exact Nat.lt_of_le_of_ne (Nat.not_lt.mp hge) (Ne.symm hne)
        · exact hk p hp

/-- A key below all those listed is not listed. -/
theorem Tab.find_of_lt {α : Type} {t : Tab α} {k : Nat} (h : ∀ p ∈ t, k < p.1) : Tab.find t k = none := by
  induction t with
  | nil => rfl
  | cons q t ih =>
    have hlt := h q (by simp)
    rw [Tab.find, if_neg (by omega)]
    exact ih fun p hp => h p (by simp [hp])

/-- Bytes put one by one into a function of addresses. -/
def putBytes (base : Nat) (m : Tab Byte) (g : Nat → Byte) : Nat → Byte := m.foldl (fun g p => Function.update g (base + p.1) p.2) g

/-- Where the keys rise, the function reads as the map. -/
theorem putBytes_apply (base : Nat) {m : Tab Byte} (h : Tab.Rising m) (g : Nat → Byte) (x : Nat) :
    putBytes base m g x = ((if base ≤ x then Tab.find m (x - base) else none).getD (g x)) := by
  induction m generalizing g with
  | nil => simp [putBytes, Tab.find]
  | cons p m ih =>
    obtain ⟨hp, hm⟩ := List.pairwise_cons.mp h
    have hstep : putBytes base (p :: m) g = putBytes base m (Function.update g (base + p.1) p.2) := rfl
    rw [hstep, ih hm]
    by_cases hx : base ≤ x
    · rw [if_pos hx, if_pos hx]
      by_cases hkey : x - base = p.1
      · rw [hkey, Tab.find_of_lt hp, Tab.find, if_pos rfl, show x = base + p.1 by omega, Function.update_self]
        rfl
      · rw [Tab.find, if_neg hkey, Function.update_of_ne (by omega)]
    · rw [if_neg hx, if_neg hx, Function.update_of_ne (by omega)]

/-! ## Runs -/

/-- Bytes of a run put into a function of addresses. -/
def putRun (base : Nat) (r : Nat × List Byte) (g : Nat → Byte) (x : Nat) : Byte :=
  if base + r.1 ≤ x then ((r.2.map some).getD (x - (base + r.1)) none).getD (g x) else g x

theorem putRun_cons (base a : Nat) (b : Byte) (bs : List Byte) (g : Nat → Byte) :
    putRun base (a, b :: bs) g = putRun base (a + 1, bs) (Function.update g (base + a) b) := by
  funext x
  obtain hlt | heq | hgt := Nat.lt_trichotomy x (base + a)
  · simp only [putRun, if_neg (show ¬ base + a ≤ x by omega), if_neg (show ¬ base + (a + 1) ≤ x by omega), Function.update_of_ne hlt.ne]
  · subst heq
    simp [putRun]
  · have hsub : x - (base + a) = x - (base + (a + 1)) + 1 := by omega
    simp only [putRun, if_pos hgt.le, if_pos (show base + (a + 1) ≤ x by omega), Function.update_of_ne hgt.ne', hsub, List.map_cons,
      List.getD_cons_succ]

theorem putRun_nil (base a : Nat) (g : Nat → Byte) : putRun base (a, []) g = g := by
  funext x
  simp [putRun]

theorem runsOf_cons (p : Nat × Byte) (m : Tab Byte) : runsOf (p :: m) =
    match runsOf m with
    | (a, bs) :: r => if a = p.1 + 1 then (p.1, p.2 :: bs) :: r else (p.1, [p.2]) :: (a, bs) :: r
    | [] => [(p.1, [p.2])] := by
  show (match runsOf m with
    | (a, bs) :: r => if a = p.1 + 1 then (p.1, p.2 :: bs) :: r else (p.1, [p.2]) :: runsOf m
    | [] => [(p.1, [p.2])]) = _
  cases runsOf m <;> rfl

/-- The runs of a map put the same bytes. -/
theorem foldl_runsOf (base : Nat) (m : Tab Byte) (g : Nat → Byte) :
    (runsOf m).foldl (fun g r => putRun base r g) g = putBytes base m g := by
  induction m generalizing g with
  | nil => rfl
  | cons p m ih =>
    have hstep : putBytes base (p :: m) g = putBytes base m (Function.update g (base + p.1) p.2) := rfl
    rw [hstep, ← ih, runsOf_cons]
    cases hr : runsOf m with
    | nil => simp only [List.foldl_cons, List.foldl_nil, putRun_cons, putRun_nil]
    | cons r rs =>
      obtain ⟨a, bs⟩ := r
      dsimp only
      split
      · next ha => simp only [List.foldl_cons, putRun_cons, ha]
      · simp only [List.foldl_cons, putRun_cons, putRun_nil]

/-- Every byte of a run is one of the map. -/
theorem mem_of_runsOf {m : Tab Byte} {r : Nat × List Byte} (h : r ∈ runsOf m) {i : Nat} (hi : i < r.2.length) : ∃ b, (r.1 + i, b) ∈ m := by
  induction m generalizing r i with
  | nil => simp [runsOf] at h
  | cons p m ih =>
    rw [runsOf_cons] at h
    have htail {r' : Nat × List Byte} (hr : r' ∈ runsOf m) {i : Nat} (hi : i < r'.2.length) : ∃ b, (r'.1 + i, b) ∈ p :: m := by
      obtain ⟨b, hb⟩ := ih hr hi
      exact ⟨b, List.mem_cons_of_mem _ hb⟩
    have hhead : ∃ b, (p.1 + 0, b) ∈ p :: m := ⟨p.2, List.mem_cons_self⟩
    split at h
    · next a bs rs hruns =>
      split at h
      · next ha =>
        obtain rfl | hr := List.mem_cons.mp h
        · cases i with
          | zero => exact hhead
          | succ i =>
            obtain ⟨b, hb⟩ := htail (hruns ▸ List.mem_cons_self) (show i < bs.length by simpa using hi)
            exact ⟨b, by rwa [show p.1 + (i + 1) = a + i by omega]⟩
        · exact htail (hruns ▸ List.mem_cons_of_mem _ hr) hi
      · obtain rfl | hr := List.mem_cons.mp h
        · obtain rfl : i = 0 := by simpa using hi
          exact hhead
        · exact htail (hruns ▸ hr) hi
    · obtain rfl := List.mem_singleton.mp h
      obtain rfl : i = 0 := by simpa using hi
      exact hhead

/-! ## Writes of a core that may write everywhere -/

/-- A write to memory that no closed range holds off: no core changed, and no error appeared (R127, R165). -/
structure Dev.Stores (n : Nat) (d e : Dev) : Prop extends Dev.Works n d e where
  cores : e.chip.tow.cores = d.chip.tow.cores
  errs : ∀ k, Tab.get 0 e.chip.tow.errs k = Tab.get 0 d.chip.tow.errs k ∨ Tab.get 0 e.chip.tow.errs k = 0

theorem Dev.Met.stores {n : Nat} {d e : Dev} (h : d.Met n e) : d.Stores n e := ⟨h.toWorks, h.cores, h.errs⟩

theorem Dev.Stores.refl (n : Nat) (d : Dev) : d.Stores n d := (Dev.Met.refl n d).stores

theorem Dev.Stores.trans {n : Nat} {d e f : Dev} (h : d.Stores n e) (k : e.Stores n f) : d.Stores n f := by
  refine ⟨h.toWorks.trans k.toWorks, k.cores.trans h.cores, fun i => ?_⟩
  obtain hk | hk := k.errs i
  · rw [hk]
    exact h.errs i
  · exact .inr hk

theorem Dev.Stores.core {n : Nat} {d e : Dev} (h : d.Stores n e) (j : Nat) : e.chip.core j = d.chip.core j :=
  congrArg (Tab.get ({} : Core) · j) h.cores

/-- A word without an uncorrectable error stays so. -/
theorem Dev.Stores.errs_ne {n k : Nat} {d e : Dev} (h : d.Stores n e) (hk : Tab.get 0 d.chip.tow.errs k ≠ 1000) :
    Tab.get 0 e.chip.tow.errs k ≠ 1000 := by
  obtain he | he := h.errs k
  · rwa [he]
  · rw [he]
    decide

theorem Dev.Stores.mark (n : Nat) (d : Dev) (key : Nat) (b : Bool) : d.Stores n (d.mark key b) := by
  have hreads : d.Reads n (d.mark key b) := .of_cores rfl rfl rfl rfl
  refine ⟨hreads.toWorks, rfl, fun k => ?_⟩
  show Tab.get 0 (Tab.del d.chip.tow.errs key) k = _ ∨ Tab.get 0 (Tab.del d.chip.tow.errs key) k = 0
  rw [Tab.get, Tab.find_del]
  split
  · exact .inr rfl
  · exact .inl rfl

theorem mem_wordsOf {a n w : Nat} : w ∈ wordsOf a n ↔ n ≠ 0 ∧ a / 16 ≤ w ∧ w ≤ (a + n - 1) / 16 ∧ w < sliceBytes / 16 := by
  unfold wordsOf
  split
  · next h => simp [h]
  · next h =>
    simp only [List.mem_filter, List.mem_map, List.mem_range, decide_eq_true_eq]
    constructor
    · rintro ⟨⟨i, hi, rfl⟩, hw⟩
      exact ⟨h, by omega, by omega, hw⟩
    · rintro ⟨-, hlo, hhi, hw⟩
      exact ⟨⟨w - a / 16, by omega, by omega⟩, hw⟩

/-- A word of a range holds a byte of it. -/
theorem exists_byte_of_mem_wordsOf {a n w : Nat} (h : w ∈ wordsOf a n) : ∃ i, i < n ∧ (a + i) / 16 = w := by
  obtain ⟨hn, hlo, hhi, -⟩ := mem_wordsOf.mp h
  by_cases ha : 16 * w ≤ a
  · exact ⟨0, by omega, by omega⟩
  · exact ⟨16 * w - a, by omega, by omega⟩

/-- What a write with byte enables does to a word that it touches (R165). -/
def Dev.writeWord (core a : Nat) (l : List (Option Byte)) (d : Dev) (w : Nat) : Dev :=
  if (wordPart a l w).all Option.isSome then d.mark (wordKey core w) false
  else if (wordPart a l w).any Option.isSome then d.eccWord core w else d

theorem Dev.pantryWrite_eq (d : Dev) (core a : Nat) (l : List (Option Byte)) : d.pantryWrite core a l =
    { (wordsOf a l.length).foldl (Dev.writeWord core a l) d with
      wr := ((wordsOf a l.length).foldl (Dev.writeWord core a l) d).wr ++ segs (pantryAddr core a) (l.take (sliceBytes - a)) } := rfl

section
variable {core a : Nat} {l : List (Option Byte)}

theorem Dev.Stores.writeWord {d : Dev} {w : Nat} (h : Tab.get 0 d.chip.tow.errs (wordKey core w) ≠ 1000) :
    d.Stores core (d.writeWord core a l w) ∧ (d.writeWord core a l w).wr = d.wr := by
  unfold Dev.writeWord
  split
  · exact ⟨.mark .., rfl⟩
  · split
    · have hmet : d.Met core (d.eccWord core w) := .eccWord h
      exact ⟨hmet.stores, hmet.wr⟩
    · exact ⟨.refl core d, rfl⟩

theorem Dev.Stores.foldl_writeWord (ws : List Nat) {d : Dev} (h : ∀ w ∈ ws, Tab.get 0 d.chip.tow.errs (wordKey core w) ≠ 1000) :
    d.Stores core (ws.foldl (Dev.writeWord core a l) d) ∧ (ws.foldl (Dev.writeWord core a l) d).wr = d.wr := by
  induction ws generalizing d with
  | nil => exact ⟨.refl core d, rfl⟩
  | cons w ws ih =>
    obtain ⟨hword, hwr⟩ := Dev.Stores.writeWord (a := a) (l := l) (h w (by simp))
    obtain ⟨hrest, hrestwr⟩ := ih fun x hx => hword.errs_ne (h x (by simp [hx]))
    exact ⟨hword.trans hrest, hrestwr.trans hwr⟩

/-- A write into words without uncorrectable errors (R165). -/
theorem Dev.Stores.pantryWrite {d : Dev} (h : ∀ w ∈ wordsOf a l.length, Tab.get 0 d.chip.tow.errs (wordKey core w) ≠ 1000) :
    d.Stores core (d.pantryWrite core a l)
      ∧ (d.pantryWrite core a l).wr = d.wr ++ segs (pantryAddr core a) (l.take (sliceBytes - a)) := by
  have hlast (e : Dev) (ops : List MemOp) : e.Stores core { e with wr := ops } := ⟨⟨⟨fun _ _ => rfl, rfl, rfl⟩, rfl⟩, rfl, fun _ => .inl rfl⟩
  obtain ⟨hstores, hwr⟩ := Dev.Stores.foldl_writeWord (a := a) (l := l) (wordsOf a l.length) h
  rw [Dev.pantryWrite_eq, hwr]
  exact ⟨hstores.trans (hlast _ _), rfl⟩

end

/-- A core's write where no range is closed (R127). -/
theorem Dev.coreWrite_open {d : Dev} {core : Nat} (h : (d.chip.core core).closed = []) (a : Nat) (l : List (Option Byte)) :
    d.coreWrite core a l = (d.pantryWrite core a l, false) := by
  have hkept : (l.mapIdx fun k b => if inRanges [] (a + k) then none else b) = l :=
    List.ext_getElem (by simp) (by simp [inRanges])
  simp only [Dev.coreWrite, h, hkept]
  simp [inRanges]

theorem get_apply_segs_run (m : Mem) (core : Nat) (r : Nat × List Byte) :
    (m.apply (segs (pantryAddr core r.1) (r.2.map some))).get = putRun (pantryAddr core 0) r m.get := by
  have hbase : pantryAddr core 0 + r.1 = pantryAddr core r.1 := by simp [pantryAddr]
  funext x
  simp only [putRun, hbase]
  exact apply_segs ..

/-- The runs of a map of bytes are written into words of a slice without uncorrectable errors. -/
theorem Dev.coreWrite_runs {core : Nat} (rs : List (Nat × List Byte)) {d : Dev} (hopen : (d.chip.core core).closed = [])
    (hin : ∀ r ∈ rs, ∀ i, i < r.2.length → r.1 + i < sliceBytes)
    (herrs : ∀ r ∈ rs, ∀ w ∈ wordsOf r.1 r.2.length, Tab.get 0 d.chip.tow.errs (wordKey core w) ≠ 1000) :
    ∃ e, rs.foldl (fun (acc : Dev × Bool) p => ((acc.1.coreWrite core p.1 (p.2.map some)).1,
        acc.2 || (acc.1.coreWrite core p.1 (p.2.map some)).2)) (d, false) = (e, false)
      ∧ d.Stores core e ∧ ∀ m : Mem, (m.apply e.wr).get = rs.foldl (fun g r => putRun (pantryAddr core 0) r g) (m.apply d.wr).get := by
  induction rs generalizing d with
  | nil => exact ⟨d, rfl, .refl core d, fun _ => rfl⟩
  | cons r rs ih =>
    obtain ⟨hstores, hwr⟩ := Dev.Stores.pantryWrite (core := core) (a := r.1) (d := d) (l := r.2.map some)
      (by simpa using herrs r (by simp))
    have htake : (r.2.map some).take (sliceBytes - r.1) = r.2.map some := by
      refine List.take_of_length_le ?_
      rw [List.length_map]
      by_contra hlong
      have hlast := hin r (by simp) (r.2.length - 1) (by omega)
      omega
    rw [htake] at hwr
    obtain ⟨e, hfold, he, hmem⟩ := ih (d := d.pantryWrite core r.1 (r.2.map some)) (by rw [hstores.core, hopen]) (fun x hx => hin x (by simp [hx]))
      fun x hx w hw => hstores.errs_ne (herrs x (by simp [hx]) w hw)
    refine ⟨e, ?_, hstores.trans he, fun m => ?_⟩
    · rw [List.foldl_cons, Dev.coreWrite_open hopen]
      exact hfold
    · rw [hmem, hwr, Mem.apply_append, get_apply_segs_run]
      rfl

end Sys2Proof.Machine
end

section
/-! PROOF. The bytes of an output tile (R103 to R105, R137): they lie in the ranges that issue checks, and of the device they depend on the
free choices alone. -/

namespace Sys2Proof.Machine

/-! ## Bits put into a map of bytes -/

section
variable {old : Nat → Byte} {m : Tab Byte} {a bit e v : Nat}

/-- A byte of the map was there, or is one of those that the bits touch. -/
theorem mem_putBits {p : Nat × Byte} (h : p ∈ putBits old m a bit e v) : p ∈ m ∨ (a ≤ p.1 ∧ p.1 < a + (bit + e + 7) / 8) := by
  unfold putBits at h
  dsimp only at h
  revert h
  refine List.foldlRecOn (motive := fun t : Tab Byte => p ∈ t → p ∈ m ∨ (a ≤ p.1 ∧ p.1 < a + (bit + e + 7) / 8)) _ _ .inl fun t ht q hq h => ?_
  obtain rfl | h := Tab.mem_ins h
  · have hlt : q.2 < (bit + e + 7) / 8 := by simpa using (List.mem_zipIdx' hq).1
    exact .inr ⟨Nat.le_add_right .., Nat.add_lt_add_left hlt a⟩
  · exact ht h

theorem rising_putBits (h : Tab.Rising m) : Tab.Rising (putBits old m a bit e v) :=
  List.foldlRecOn (motive := Tab.Rising) _ _ h fun _ ht _ _ => Tab.Rising.ins ht _ _

end

/-! ## The steps of an output tile -/

section
variable (b : Bank) (t : Desc) (old : Nat → Byte)

/-- One converted element joins the map. -/
def outPut (acc : OutAcc) (i j : Nat) (r : (Nat × Nat) × Dev) : OutAcc :=
  { m := putBits old acc.m (t.elemAt i j).1 (t.elemAt i j).2 t.format.bits r.1.1
    flags := (r.1.2 ||| nvFlag (b.scaled i j) [b.value i j, f32 b.tagA, f32 b.tagB]) :: acc.flags, d := r.2 }

/-- An element of an MX block, with a stochastic value when the tile asks for it (R102, R105). -/
def mxConv (sc : Nat) (v : FV) (d : Dev) : (Nat × Nat) × Dev :=
  if t.sr then (mxElem t.format sc v (some d.freshSr.1), d.freshSr.2) else (mxElem t.format sc v none, d)

/-- The scale of a group of elements (R105). -/
def groupScale (g : Nat × List (Nat × Nat)) : Nat := mxScale t.format (g.2.map fun p => b.scaled p.1 p.2)

/-- One group of an MX output: its scale, then its elements. -/
def outGroup (acc : OutAcc) (g : Nat × List (Nat × Nat)) : OutAcc :=
  g.2.foldl (fun acc p => outPut b t old acc p.1 p.2 (mxConv t (groupScale b t g) (b.scaled p.1 p.2) acc.d))
    { acc with m := Tab.ins acc.m g.1 (BitVec.ofNat 8 (groupScale b t g)) }

theorem outTile_eq (d : Dev) : outTile b t old d =
    if t.mx then (mxGroups t).foldl (outGroup b t old) { d }
    else (List.range t.rows).foldl (fun acc i => (List.range t.cols).foldl (fun acc j =>
      outPut b t old acc i j (convElem t.format t (b.scaled i j) acc.d)) acc) { d } := rfl

end

/-! ## What the steps keep -/

/-- The map so far lies in ranges, and of the device only free choices were taken. -/
structure OutOk (d : Dev) (rs : List (Nat × Nat)) (acc : OutAcc) : Prop where
  dev : acc.d = { d with free := acc.d.free }
  rising : Tab.Rising acc.m
  inside : ∀ p ∈ acc.m, ∃ r ∈ rs, r.1 ≤ p.1 ∧ p.1 < r.1 + r.2

/-- The ranges of an output tile (R135, R137). -/
def outTileRanges (t : Desc) : List (Nat × Nat) := t.extent ++ if t.mx then (mxGroups t).map fun g => (g.1, 1) else []

section
variable {b : Bank} {t : Desc} {old : Nat → Byte} {d : Dev}

theorem outOk_start (d : Dev) (rs : List (Nat × Nat)) : OutOk d rs { d } := ⟨rfl, List.Pairwise.nil, by simp⟩

theorem convElem_dev (f : Fmt) (t : Desc) (v : FV) (d : Dev) : (convElem f t v d).2 = { d with free := (convElem f t v d).2.free } := by
  unfold convElem
  split <;> rfl

theorem mxConv_dev (t : Desc) (sc : Nat) (v : FV) (d : Dev) : (mxConv t sc v d).2 = { d with free := (mxConv t sc v d).2.free } := by
  unfold mxConv
  split <;> rfl

theorem OutOk.outPut {acc : OutAcc} (h : OutOk d (outTileRanges t) acc) {i j : Nat} (hi : i < t.rows) (hj : j < t.cols) {r : (Nat × Nat) × Dev}
    (hr : r.2 = { acc.d with free := r.2.free }) : OutOk d (outTileRanges t) (outPut b t old acc i j r) := by
  refine ⟨?_, rising_putBits h.rising, fun p hp => ?_⟩
  · show r.2 = { d with free := r.2.free }
    rw [hr, h.dev]
  · obtain hp | ⟨hle, hlt⟩ := mem_putBits hp
    · exact h.inside p hp
    · obtain ⟨x, hx, hxle, hxend⟩ := Desc.elemAt_inside hi hj
      exact ⟨x, List.mem_append_left _ hx, hxle.trans hle, hlt.trans_le hxend⟩

theorem OutOk.outGroup {acc : OutAcc} (h : OutOk d (outTileRanges t) acc) {g : Nat × List (Nat × Nat)} (hscale : (g.1, 1) ∈ outTileRanges t)
    (hg : ∀ p ∈ g.2, p.1 < t.rows ∧ p.2 < t.cols) : OutOk d (outTileRanges t) (outGroup b t old acc g) := by
  refine List.foldlRecOn (motive := OutOk d (outTileRanges t)) _ _ ⟨h.dev, h.rising.ins _ _, fun p hp => ?_⟩ fun x hx p hp => ?_
  · obtain rfl | hp := Tab.mem_ins hp
    · exact ⟨_, hscale, Nat.le_refl _, Nat.lt_succ_self _⟩
    · exact h.inside p hp
  · exact hx.outPut (hg p hp).1 (hg p hp).2 (mxConv_dev ..)

/-- The elements of a group of an MX output are elements of the tile (R104, R137). -/
theorem mxGroups_inside (hrows : t.axisM = true → t.rows = 32) {g : Nat × List (Nat × Nat)} (hg : g ∈ mxGroups t) {p : Nat × Nat} (hp : p ∈ g.2) :
    p.1 < t.rows ∧ p.2 < t.cols := by
  unfold mxGroups at hg
  split at hg
  · next haxis =>
    obtain ⟨j, hj, rfl⟩ := List.mem_map.mp hg
    obtain ⟨i, hi, rfl⟩ := List.mem_map.mp hp
    rw [hrows haxis]
    exact ⟨List.mem_range.mp hi, List.mem_range.mp hj⟩
  · obtain ⟨i, hi, hg⟩ := List.mem_flatMap.mp hg
    obtain ⟨q, hq, rfl⟩ := List.mem_map.mp hg
    obtain ⟨x, hx, rfl⟩ := List.mem_map.mp hp
    rw [List.mem_range] at hi hq hx
    exact ⟨hi, by dsimp only; omega⟩

/-- The bytes of an output tile lie in its ranges. -/
theorem outOk_outTile (hrows : t.mx = true → t.axisM = true → t.rows = 32) : OutOk d (outTileRanges t) (outTile b t old d) := by
  rw [outTile_eq]
  split
  · next hmx =>
    refine List.foldlRecOn (motive := OutOk d (outTileRanges t)) _ _ (outOk_start ..) fun acc h g hg => ?_
    refine h.outGroup (List.mem_append_right _ ?_) fun p hp => mxGroups_inside (hrows hmx) hg hp
    rw [if_pos hmx]
    exact List.mem_map_of_mem hg
  · refine List.foldlRecOn (motive := OutOk d (outTileRanges t)) _ _ (outOk_start ..) fun acc h i hi => ?_
    refine List.foldlRecOn (motive := OutOk d (outTileRanges t)) _ _ h fun acc h j hj => ?_
    exact h.outPut (List.mem_range.mp hi) (List.mem_range.mp hj) (convElem_dev ..)

end

/-! ## The free choices decide -/

/-- Two accumulators that hold the same map and have taken as many free choices. -/
structure SameOut (x y : OutAcc) : Prop where
  m : x.m = y.m
  free : x.d.free = y.d.free

section
variable {b : Bank} {t : Desc} {old : Nat → Byte}

theorem convElem_of_free (f : Fmt) (t : Desc) (v : FV) {d e : Dev} (h : d.free = e.free) :
    (convElem f t v d).1 = (convElem f t v e).1 ∧ (convElem f t v d).2.free = (convElem f t v e).2.free := by
  unfold convElem Dev.freshSr
  split <;> simp [h]

theorem mxConv_of_free (t : Desc) (sc : Nat) (v : FV) {d e : Dev} (h : d.free = e.free) :
    (mxConv t sc v d).1 = (mxConv t sc v e).1 ∧ (mxConv t sc v d).2.free = (mxConv t sc v e).2.free := by
  unfold mxConv Dev.freshSr
  split <;> simp [h]

theorem SameOut.outPut {x y : OutAcc} (h : SameOut x y) (i j : Nat) {r r' : (Nat × Nat) × Dev} (hr : r.1 = r'.1 ∧ r.2.free = r'.2.free) :
    SameOut (outPut b t old x i j r) (outPut b t old y i j r') :=
  ⟨by simp only [Machine.outPut, h.m, hr.1], hr.2⟩

theorem SameOut.outGroup {x y : OutAcc} (h : SameOut x y) (g : Nat × List (Nat × Nat)) : SameOut (outGroup b t old x g) (outGroup b t old y g) := by
  refine List.foldl_rel ⟨by simp only [h.m], h.free⟩ fun p _ x y h => ?_
  exact h.outPut _ _ (mxConv_of_free _ _ _ h.free)

/-- The bytes of an output tile depend on the device by its free choices alone (log 5). -/
theorem outTile_m_of_free {d e : Dev} (h : d.free = e.free) : (outTile b t old d).m = (outTile b t old e).m := by
  refine SameOut.m ?_
  rw [outTile_eq, outTile_eq]
  split
  · exact List.foldl_rel (r := SameOut) ⟨rfl, h⟩ fun g _ x y hxy => hxy.outGroup g
  · refine List.foldl_rel (r := SameOut) ⟨rfl, h⟩ fun i _ x y hxy => ?_
    refine List.foldl_rel (r := SameOut) hxy fun j _ x y hxy => ?_
    exact hxy.outPut i j (convElem_of_free _ _ _ hxy.free)

end

end Sys2Proof.Machine
end

section
/-! PROOF. OUT (R103 to R105, R148): memory takes the bytes of the output tile. -/

namespace Sys2Proof.Machine

@[simp] theorem Desc.pingPong_rows (t : Desc) (frame : Nat) : (t.pingPong frame).rows = t.rows := by
  unfold Desc.pingPong
  split <;> rfl

@[simp] theorem Desc.pingPong_mode (t : Desc) (frame : Nat) : (t.pingPong frame).mode = t.mode := by
  unfold Desc.pingPong
  split <;> rfl

end Sys2Proof.Machine

namespace Sys2Proof.Claims

open Sys2Proof.Machine

section
variable (s : State) (k : Fetch) (w : OpWord)

/-- The tile that an OUT writes (R135, R148). -/
def outTileOf : Desc := outDesc ((coreAt s k).capture 1 0x02 w true {}) s.dev.chip.frm.cur

/-- What a started OUT makes of its tile. -/
def outMade : OutAcc :=
  outTile ((coreAt s k).rdB (opIdx w.f0)) (outTileOf s k w) (fun a => s.mem.get (pantryAddr k.core a)) (started s k 1 0x02 w)

/-- The byte that an OUT writes at an address of memory. -/
def outByte (x : Nat) : Option Byte :=
  if pantryAddr k.core 0 ≤ x then
    Tab.find (outTile ((coreAt s k).rdB (opIdx w.f0)) (outTileOf s k w) (fun a => s.mem.get (pantryAddr k.core a)) s.dev).m (x - pantryAddr k.core 0)
  else none

end

section
variable {s : State} {k : Fetch} {w : OpWord}

theorem outByte_eq (x : Nat) :
    outByte s k w x = if pantryAddr k.core 0 ≤ x then Tab.find (outMade s k w).m (x - pantryAddr k.core 0) else none := by
  have hmade : (outMade s k w).m = (outTile ((coreAt s k).rdB (opIdx w.f0)) (outTileOf s k w)
      (fun a => s.mem.get (pantryAddr k.core a)) s.dev).m := outTile_m_of_free (started_free ..)
  rw [hmade, outByte]

theorem opOut_started (hs : s.dev.wr = []) {e : Dev}
    (he : (runsOf (outMade s k w).m).foldl (fun (acc : Dev × Bool) p => ((acc.1.coreWrite k.core p.1 (p.2.map some)).1,
      acc.2 || (acc.1.coreWrite k.core p.1 (p.2.map some)).2)) ((outMade s k w).d, false) = (e, false)) :
    opEffect k.core ((coreAt s k).capture 1 0x02 w true {}) s (started s k 1 0x02 w) =
      (e.coreFlags k.core (orAll (outMade s k w).flags)).countSat k.core (satCount (outMade s k w).flags) := by
  have hop : opEffect k.core ((coreAt s k).capture 1 0x02 w true {}) s (started s k 1 0x02 w) =
      opOut k.core ((coreAt s k).capture 1 0x02 w true {}) s (started s k 1 0x02 w) := by simp [opEffect, effectMat]
  have hmem : (started s k 1 0x02 w).memory s = s.mem := by rw [Dev.memory, started_wr s k 1 0x02 w hs, Mem.apply_nil]
  have hmade : outTile (((started s k 1 0x02 w).chip.core k.core).rdB (opIdx w.f0))
      (outDesc ((coreAt s k).capture 1 0x02 w true {}) (started s k 1 0x02 w).chip.frm.cur)
        (fun a => ((started s k 1 0x02 w).memory s).get (pantryAddr k.core a)) (started s k 1 0x02 w) = outMade s k w := by
    rw [hmem, started_rdB, started_frm]
    rfl
  simp only [hop, opOut, capture_w, hmade, he]
  rfl

/-- What issue says of the tile of an OUT with scales along its columns (R104, R137). -/
theorem outTileOf_rows (h : Starts s k 1 0x02 w) : (outTileOf s k w).mx = true → (outTileOf s k w).axisM = true → (outTileOf s k w).rows = 32 := by
  have hlegal := issues_stateLegal h.2.1
  rw [show (coreAt s k).stateLegal 1 0x02 w = outLegal (coreAt s k) w from rfl] at hlegal
  have hds : ((coreAt s k).capture 1 0x02 w true {}).ds.getD 1 0 = (coreAt s k).rdD (opIdx w.f1) := capture_ds1 rfl
  have hmode : (outTileOf s k w).mode = (Desc.ofBits ((coreAt s k).rdD (opIdx w.f1))).mode := by
    rw [← hds]
    exact Desc.pingPong_mode ..
  have hrows : (outTileOf s k w).rows = (Desc.ofBits ((coreAt s k).rdD (opIdx w.f1))).rows := by
    rw [← hds]
    exact Desc.pingPong_rows ..
  intro hmx haxis
  rw [Desc.mx, hmode] at hmx
  rw [Desc.axisM, hmode] at haxis
  simp only [outLegal, Desc.mx, Desc.axisM, hmx, haxis, Bool.and_eq_true, Bool.not_true, Bool.false_or, if_true, decide_eq_true_eq] at hlegal
  rw [hrows]
  exact hlegal.2.2

/-- OUT (R103 to R105, R148). -/
theorem out_done (h : Starts s k 1 0x02 w) (hopen : (coreAt s k).closed = [])
    (hsound : ∀ r ∈ outTileRanges (outTileOf s k w), noUncorr s k r.1 r.2 = true) :
    ∃ t, exec (.out k w) s = .next t
      ∧ (∀ x, t.mem.get x = (outByte s k w x).getD (s.mem.get x))
      ∧ SameFiles s t k ∧ GoesOn s t k := by
  have hok : OutOk (started s k 1 0x02 w) (outTileRanges (outTileOf s k w)) (outMade s k w) := outOk_outTile (outTileOf_rows h)
  have hdrawn : (started s k 1 0x02 w).Computes k.core (outMade s k w).d := by
    rw [hok.dev]
    exact .withFree ..
  have hchip : (outMade s k w).d.chip = (started s k 1 0x02 w).chip := by rw [hok.dev]
  have hwr : (outMade s k w).d.wr = [] := hdrawn.wr.trans (started_wr s k 1 0x02 w h.1.wr)
  have hin : ∀ r ∈ outTileRanges (outTileOf s k w), 0 < r.2 → r.1 + r.2 ≤ sliceBytes := fun r hr hpos => issues_inside h.2.1 hr hpos
  have hbyte {r : Nat × List Byte} (hr : r ∈ runsOf (outMade s k w).m) {i : Nat} (hi : i < r.2.length) :
      ∃ x ∈ outTileRanges (outTileOf s k w), x.1 ≤ r.1 + i ∧ r.1 + i < x.1 + x.2 := by
    obtain ⟨b, hb⟩ := mem_of_runsOf hr hi
    exact hok.inside _ hb
  obtain ⟨e, hfold, hstores, hmem⟩ := Dev.coreWrite_runs (core := k.core) (runsOf (outMade s k w).m) (d := (outMade s k w).d)
    (by
      rw [hchip, core_started, Core.begun, Core.noteWrites_state]
      exact hopen)
    (fun r hr i hi => by
      obtain ⟨y, hy, hle, hlt⟩ := hbyte hr hi
      have hend := hin y hy (by omega)
      omega)
    (fun r hr x hx => by
      obtain ⟨i, hi, hword⟩ := exists_byte_of_mem_wordsOf hx
      obtain ⟨y, hy, hle, hlt⟩ := hbyte hr hi
      have hmemx := mem_wordsOf.mp hx
      have hno := hsound y hy
      simp only [noUncorr, List.all_eq_true, decide_eq_true_eq] at hno
      rw [hchip, (computes_started s k 1 0x02 w).chip]
      exact hno x (mem_wordsOf.mpr ⟨by omega, by omega, by omega, by omega⟩))
  have hflags := Dev.Computes.coreFlags k.core e (orAll (outMade s k w).flags)
  have hsat := Dev.Computes.countSat k.core (e.coreFlags k.core (orAll (outMade s k w).flags)) (satCount (outMade s k w).flags)
  obtain ⟨t, hrun, hgo, hfiles, -, htmem, -⟩ := unit_works h (by omega) (by omega) (opOut_started h.1.wr hfold)
    ((hdrawn.toWorks.trans hstores.toWorks).trans (hflags.trans hsat).toWorks)
  have hsame : (coreAt t k).files = (coreAt s k).files := by
    rw [hfiles, Dev.countSat_chip, Dev.coreFlags_files, hstores.core, hchip, started_files]
  refine ⟨t, hrun, fun x => ?_, ⟨congrArg Files.s hsame, congrArg Files.p hsame, congrArg Files.m hsame, congrArg Files.w hsame,
    congrArg Files.d hsame, congrArg Files.b hsame⟩, hgo⟩
  rw [htmem, (hflags.trans hsat).wr, hmem, hwr, Mem.apply_nil, foldl_runsOf, putBytes_apply _ hok.rising, outByte_eq]

end

/-- Settles O5: MMA leaves the block sums in the cells of its bank, OUT the converted tile in memory. -/
theorem matrixMultiplyAndOut : Obligations.MatrixMultiplyAndOut := by
  unfold Obligations.MatrixMultiplyAndOut
  intro s k w
  refine ⟨fun h h1 h17 hinj hsound => ?_, fun h hopen hsound => ?_⟩
  · obtain ⟨t, hrun, hents, -, honly, hmem, houter⟩ := mma_done h h1 h17 hinj hsound
    refine ⟨t, hrun, fun i j hi hj => ?_, honly, hmem, houter⟩
    intro x a b old
    have hold : (mmaBank s k w).at' i j = old := by
      unfold mmaBank
      show _ = if (argsOf s k w).zero then 0 else _
      split <;> rfl
    rw [hents i j hi hj, blockCell, hold]
    rfl
  · obtain ⟨t, hrun, hmem, hfiles, hgo⟩ := out_done h hopen hsound
    refine ⟨t, hrun, fun x => ?_, hfiles, hgo⟩
    rw [hmem, outByte, outTileOf]
    by_cases hx : pantryAddr k.core 0 ≤ x
    · simp only [if_pos hx]
      split
      · next b hb => rw [hb, Option.getD_some]
      · next hnone => rw [hnone, Option.getD_none]
    · simp only [if_neg hx, Option.getD_none]

end Sys2Proof.Claims
end

section
/-! PROOF. Controller words (R154 to R157): what they leave, and where issue goes on after them. -/

namespace Sys2Proof.Machine

open Host

/-! ## Register files -/

section
variable {c c' : Core} (h : c.files = c'.files)
include h

theorem Core.rdP_of_files (j : Nat) : c.rdP j = c'.rdP j := congrArg (fun f : Files => if j = 0 then true else Tab.get false f.p j) h

theorem Core.rdD_of_files (j : Nat) : c.rdD j = c'.rdD j := congrArg (fun f : Files => Tab.get 0 f.d j) h

theorem Core.wrP_of_files (i : Nat) (v : Bool) : (c.wrP i v).files = (c'.wrP i v).files := by
  unfold Core.wrP
  split
  · exact h
  · exact (congrArg (fun f : Files => { f with p := Tab.put false f.p i v }) h :)

theorem Core.wrD_of_files (i : Nat) (v : BitVec 256) : (c.wrD i v).files = (c'.wrD i v).files :=
  (congrArg (fun f : Files => { f with d := Tab.put 0 f.d i v }) h :)

theorem Core.wrB_of_files (i : Nat) (v : Bank) : (c.wrB i v).files = (c'.wrB i v).files :=
  (congrArg (fun f : Files => { f with b := Tab.put ({} : Bank) f.b i v }) h :)

end

/-- A scalar register that took a value: s0 still reads 0. -/
theorem Core.rdS_wrS_same (c : Core) (i : Nat) (v : Word) : (c.wrS i v).rdS i = if i = 0 then 0 else v := by
  rw [Core.rdS_wrS, if_pos rfl]

/-- A predicate that took a value: p0 still reads 1. -/
theorem Core.rdP_wrP_same (c : Core) (i : Nat) (v : Bool) : (c.wrP i v).rdP i = if i = 0 then true else v := by
  rw [Core.rdP_wrP, if_pos rfl]

@[simp] theorem Core.wrS_standing (c : Core) (i : Nat) (v : Word) : (c.wrS i v).standing = c.standing := by simp [Core.standing]
@[simp] theorem Core.wrP_standing (c : Core) (i : Nat) (v : Bool) : (c.wrP i v).standing = c.standing := by simp [Core.standing]
@[simp] theorem Core.wrW_standing (c : Core) (i : Nat) (v : BitVec 2048) : (c.wrW i v).standing = c.standing := rfl
@[simp] theorem Core.wrD_standing (c : Core) (i : Nat) (v : BitVec 256) : (c.wrD i v).standing = c.standing := rfl
@[simp] theorem Core.wrB_standing (c : Core) (i : Nat) (v : Bank) : (c.wrB i v).standing = c.standing := rfl

/-! ## Changes within a core -/

/-- What makes `e` of `d` changed core `n` alone, wherever it stands now. -/
structure Dev.InCore (n : Nat) (d e : Dev) : Prop extends Dev.Local n d e where
  wr : e.wr = d.wr
  chip : e.chip = d.chip.withCores e.chip.tow.cores

theorem Dev.Computes.inCore {n : Nat} {d e : Dev} (h : d.Computes n e) : d.InCore n e := ⟨h.toLocal, h.wr, h.chip⟩

theorem Dev.InCore.refl (n : Nat) (d : Dev) : d.InCore n d := (Dev.Computes.refl n d).inCore

theorem Dev.InCore.trans {n : Nat} {d e f : Dev} (h : d.InCore n e) (k : e.InCore n f) : d.InCore n f :=
  ⟨h.toLocal.trans k.toLocal, k.wr.trans h.wr, k.chip.trans (congrArg (Chip.withCores · f.chip.tow.cores) h.chip :)⟩

theorem Dev.InCore.onCore (n : Nat) (d : Dev) (f : Core → Core) : d.InCore n (d.onCore n f) :=
  ⟨⟨fun j hj => by rw [core_onCore, if_neg hj], rfl, rfl⟩, rfl, rfl⟩

/-- Two changes of a core, one after the other. -/
theorem Dev.InCore.onCore₂ (n : Nat) (d : Dev) (f g : Core → Core) :
    d.InCore n ((d.onCore n f).onCore n g) ∧ ((d.onCore n f).onCore n g).chip.core n = g (f (d.chip.core n)) :=
  ⟨(Dev.InCore.onCore n d f).trans (.onCore ..), by rw [core_onCore, if_pos rfl, core_onCore, if_pos rfl]⟩

/-- A controller word ends no match of KEEP_A (R150). -/
theorem Core.noteWrites_ctl (c : Core) {cls : Nat} (hc : 4 ≤ cls) (op : Nat) (w : OpWord) (run : Bool) : c.noteWrites cls op w run = c := by
  unfold Core.noteWrites
  rw [if_neg (by omega), if_neg (by omega)]

end Sys2Proof.Machine

namespace Sys2Proof.Claims

open Sys2Proof.Machine

/-! ## What a register's write leaves -/

/-- One predicate written. -/
theorem onlyP_of_files {s t : State} {k : Fetch} {i : Nat} {v : Bool} (h : (coreAt t k).files = ((coreAt s k).wrP i v).files) :
    OnlyP s t k i := by
  refine ⟨fun j hj => ?_, (congrArg Files.s h).trans (Core.wrP_s ..), (congrArg Files.m h).trans (Core.wrP_m ..),
    (congrArg Files.w h).trans (Core.wrP_w ..), (congrArg Files.d h).trans (Core.wrP_d ..), (congrArg Files.b h).trans (Core.wrP_b ..)⟩
  rw [Core.rdP_of_files h, Core.rdP_wrP, if_neg hj]
  split
  · next h0 => simp [Core.rdP, h0]
  · rfl

/-- One descriptor register written. -/
theorem onlyD_of_files {s t : State} {k : Fetch} {i : Nat} {v : BitVec 256} (h : (coreAt t k).files = ((coreAt s k).wrD i v).files) :
    OnlyD s t k i :=
  ⟨fun j hj => by rw [Core.rdD_of_files h, Core.rdD_wrD, if_neg hj], congrArg Files.s h, congrArg Files.p h, congrArg Files.m h,
    congrArg Files.w h, congrArg Files.b h⟩

/-- One bank written. -/
theorem onlyB_of_files {s t : State} {k : Fetch} {i : Nat} {v : Bank} (h : (coreAt t k).files = ((coreAt s k).wrB i v).files) :
    OnlyB s t k i :=
  ⟨fun j hj => by rw [Core.rdB_of_files h, Core.rdB_wrB, if_neg hj], congrArg Files.s h, congrArg Files.p h, congrArg Files.m h,
    congrArg Files.w h, congrArg Files.d h⟩

/-- No register written. -/
theorem sameFiles_of_files {s t : State} {k : Fetch} (h : (coreAt t k).files = (coreAt s k).files) : SameFiles s t k :=
  ⟨congrArg Files.s h, congrArg Files.p h, congrArg Files.m h, congrArg Files.w h, congrArg Files.d h, congrArg Files.b h⟩

/-! ## Controller words -/

section
variable {s : State} {k : Fetch} {cls op : Nat} {w : OpWord}

/-- A change of one core, committed. -/
theorem inCore_commit {n : Nat} {e : Dev} (hinv : Inv s) (h : s.dev.InCore n e) :
    OnlyCore s (commit s e) n ∧ SameMemory s (commit s e) ∧ KeepsOuter s (commit s e) := by
  refine ⟨⟨fun j hj => ?_, ?_⟩, fun a => ?_, keepsOuter_commit h.outer (h.used.trans hinv.used)⟩
  · rw [commit_chip]
    exact h.others j hj
  · rw [commit_chip]
    exact h.chip
  · rw [commit_mem, h.wr, hinv.wr, Mem.apply_nil]

/-- The core of a word that issues does not wait. -/
theorem issues_noWait {f : MacFault} (h : issues s k cls op w f = true) : (coreAt s k).wait = none := by
  simp only [issues, Bool.and_eq_true] at h
  have hnone : (coreAt s k).wait.isNone = true := by tauto
  simpa using hnone

/-- A controller word that issues runs its own effect (R130, R154). -/
theorem ctl_runs (h : issues s k cls op w = true) (h4 : 4 ≤ cls) (h6 : cls < 6) (ho : op < 256) (ctl : CtlEffect) :
    ∃ d, runs s (coreWord cls op k w {} ctl s) = .next (commit s (ctl d)) ∧ s.dev.Computes k.core d ∧ d.chip.core k.core = coreAt s k := by
  have hnote (c : Core) := c.noteWrites_ctl h4 op w true
  refine ⟨(fetched s k).onCore k.core fun c => c.noteWrites cls op w true, ?_,
    (computes_fetched s k).trans (.onCore _ _ _ (by rw [hnote])), by rw [core_onCore, if_pos rfl, hnote, fetched_chip]; rfl⟩
  have hword := coreWord_issues (s := s) (d := { s.dev with out := [] }) ctl rfl (by omega) ho h
  rw [if_neg (by omega)] at hword
  exact (runs_active (issues_active h) _).trans (congrArg (fun d => Host.Outcome.next (commit s d)) hword)

/-- A controller word whose effect is a change of its core. -/
theorem ctl_done (hinv : Inv s) (h : issues s k cls op w = true) (h4 : 4 ≤ cls) (h6 : cls < 6) (ho : op < 256) {ctl : CtlEffect} {c' : Core}
    (he : ∀ d : Dev, d.chip.core k.core = coreAt s k → d.chip.frm = s.dev.chip.frm → d.InCore k.core (ctl d) ∧ (ctl d).chip.core k.core = c') :
    ∃ t, runs s (coreWord cls op k w {} ctl s) = .next t ∧ coreAt t k = c' ∧ OnlyCore s t k.core ∧ SameMemory s t ∧ KeepsOuter s t := by
  obtain ⟨d, hrun, hd, hcore⟩ := ctl_runs h h4 h6 ho ctl
  obtain ⟨hin, hc'⟩ := he d hcore (congrArg Chip.frm hd.chip :)
  exact ⟨_, hrun, by rw [coreAt, commit_chip, hc'], inCore_commit hinv (hd.inCore.trans hin)⟩

/-- Issue goes on as a change of the core. -/
theorem next_of_core {d : Dev} {c : Core} (hgo : goesOn s k = true) (hc : d.chip.core k.core = c) (hst : c.standing = (coreAt s k).standing) :
    d.next k.core = d.onCore k.core Core.wentOn := by
  have hpc : c.pc = (coreAt s k).pc := congrArg Standing.pc hst
  have hloops : c.loops = (coreAt s k).loops := congrArg Standing.loops hst
  exact next_wentOn (by rw [hc, hpc, hloops]; exact of_decide_eq_true hgo)

/-- The core stands at its next word. -/
theorem atNext_of_standing {t : State} (h : issues s k cls op w = true) (hs : (coreAt t k).standing = (coreAt s k).wentOn.standing) :
    AtNext s t k :=
  ⟨congrArg Standing.pc hs, congrArg Standing.loops hs, (congrArg Standing.st hs).trans (issues_running h)⟩

/-- A controller word that changes the core by `f` and goes on. -/
theorem ctlWord_done (h : Acts s k cls op w) (h4 : 4 ≤ cls) (h6 : cls < 6) (ho : op < 256) (f : Core → Core)
    (hf : (f (coreAt s k)).standing = (coreAt s k).standing) {ctl : CtlEffect}
    (he : ∀ d : Dev, d.chip.frm = s.dev.chip.frm → ctl d = (d.onCore k.core f).next k.core) :
    ∃ t, runs s (coreWord cls op k w {} ctl s) = .next t ∧ coreAt t k = (f (coreAt s k)).wentOn ∧ OnlyGoesOn s t k := by
  obtain ⟨hinv, hissues, hgo⟩ := h
  have hnext (d : Dev) (hd : d.chip.core k.core = coreAt s k) :
      (d.onCore k.core f).next k.core = (d.onCore k.core f).onCore k.core Core.wentOn :=
    next_of_core hgo (by rw [core_onCore, if_pos rfl, hd]) hf
  obtain ⟨t, hrun, hcore, honly, hmem, houter⟩ := ctl_done (c' := (f (coreAt s k)).wentOn) hinv hissues h4 h6 ho (ctl := ctl) fun d hd hfrm => by
    rw [he d hfrm, hnext d hd, ← hd]
    exact Dev.InCore.onCore₂ k.core d f Core.wentOn
  refine ⟨t, hrun, hcore, atNext_of_standing hissues ?_, honly, hmem, houter⟩
  rw [hcore]
  exact congrArg (fun st : Standing => { st with pc := (advance st.pc st.loops).1, loops := (advance st.pc st.loops).2 }) hf

/-- A controller word that writes one scalar register. -/
theorem ctlScalar_done (h : Acts s k cls op w) (h4 : 4 ≤ cls) (h6 : cls < 6) (ho : op < 256) {f : Core → Core} {i : Nat} {v : Word}
    (hf : (f (coreAt s k)).standing = (coreAt s k).standing) (hv : (f (coreAt s k)).files = ((coreAt s k).wrS i v).files) :
    ∃ t, runs s (ctlWord cls op k w f s) = .next t ∧ coreAt t k = (f (coreAt s k)).wentOn
      ∧ (coreAt t k).rdS i = (if i = 0 then 0 else v) ∧ OnlyS s t k i ∧ OnlyGoesOn s t k := by
  obtain ⟨t, hrun, hcore, hgo⟩ := ctlWord_done h h4 h6 ho f hf (ctl := fun d => (d.onCore k.core f).next k.core) fun _ _ => rfl
  have hfiles : (coreAt t k).files = ((coreAt s k).wrS i v).files := (congrArg Core.files hcore).trans hv
  exact ⟨t, hrun, hcore, by rw [Core.rdS_of_files hfiles, Core.rdS_wrS_same], onlyS_of_files hfiles, hgo⟩

/-- A controller word that writes one predicate. -/
theorem ctlPredicate_done (h : Acts s k cls op w) (h4 : 4 ≤ cls) (h6 : cls < 6) (ho : op < 256) {f : Core → Core} {i : Nat} {v : Bool}
    (hv : f (coreAt s k) = (coreAt s k).wrP i v) :
    ∃ t, runs s (ctlWord cls op k w f s) = .next t ∧ (coreAt t k).rdP i = (if i = 0 then true else v) ∧ OnlyP s t k i ∧ OnlyGoesOn s t k := by
  obtain ⟨t, hrun, hcore, hgo⟩ := ctlWord_done h h4 h6 ho f (by simp [hv]) (ctl := fun d => (d.onCore k.core f).next k.core) fun _ _ => rfl
  have hfiles : (coreAt t k).files = ((coreAt s k).wrP i v).files := by
    rw [hcore, hv]
    rfl
  exact ⟨t, hrun, by rw [Core.rdP_of_files hfiles, Core.rdP_wrP_same], onlyP_of_files hfiles, hgo⟩

end

end Sys2Proof.Claims
end

section
/-! PROOF. Registers and the operation word (R119, R128). -/

namespace Sys2Proof.Claims

open Sys2Proof.Machine

/-- Settles O21: what a register reads after a write of a register. -/
theorem fixedRegisters : Obligations.FixedRegisters := by
  unfold Obligations.FixedRegisters
  intro c i j v b m
  refine ⟨by rw [Core.rdS_wrS, if_pos rfl], by rw [Core.rdP_wrP, if_pos rfl], by rw [Core.rdM_wrM, if_pos rfl], fun hi => ?_, fun hj => ?_⟩
  · rw [Core.rdS_wrS, Core.rdP_wrP, Core.rdM_wrM]
    simp [hi]
  · rw [Core.rdS_wrS, Core.rdP_wrP, Core.rdM_wrM, if_neg hj, if_neg hj, if_neg hj]
    by_cases h0 : j = 0
    · simp [h0, Core.rdS, Core.rdP, Core.rdM]
    · simp [h0]

/-- A class above CHECK has no operations (R128, R130). -/
theorem opForm_of_class {cls : Nat} (h : 6 ≤ cls) (op : Nat) (w : OpWord) : opForm cls op w = none := by
  obtain ⟨n, rfl⟩ := Nat.exists_eq_add_of_le' h
  rfl

/-- Settles O22: the packed word is the sum of its fields, each below the next. -/
theorem operationWordLayout : Obligations.OperationWordLayout := by
  unfold Obligations.OperationWordLayout
  intro cls op w hcls hop hw n
  refine ⟨packWord_lt cls op w hcls hop hw, unpackWord_packWord cls op w hcls hop hw, ?_⟩
  have hillegal : 6 ≤ cls → wordLegal cls op w = false := fun h => by simp [wordLegal, opForm_of_class h]
  obtain ⟨psel, pneg, f0, f1, f2, f3, h, i, j⟩ := w
  simp only [wordOk, below, Bool.and_eq_true, decide_eq_true_eq] at hw
  obtain ⟨⟨⟨⟨⟨⟨⟨hpsel, hf0⟩, hf1⟩, hf2⟩, hf3⟩, hh⟩, hi⟩, hj⟩ := hw
  have hneg : b2n pneg = (if pneg then 1 else 0) ∧ b2n pneg < 2 := by cases pneg <;> simp [b2n]
  dsimp only [n]
  unfold packWord
  dsimp only
  rw [← hneg.1]
  generalize b2n pneg = p at hneg
  refine ⟨?_, ?_, ?_, ?_, ?_, ?_, ?_, ?_, ?_, ?_, ?_, hillegal⟩ <;> omega

end Sys2Proof.Claims
end

section
/-! PROOF. The controller's words on registers (R154, R156). -/

namespace Sys2Proof.Machine

/-! ## The fields of a legal word -/

/-- A number within a mask of low bits is its own low bits (R130). -/
theorem bitsOf_of_inMask {n x : Nat} (h : inMask (2 ^ n - 1) x = true) : bitsOf x 0 n = x := by
  simpa [inMask, bitsOf, Nat.and_two_pow_sub_one_eq_mod] using h

/-- A legal word uses no bit outside the masks of its form (R130). -/
theorem inMask_of_legal {cls op : Nat} {w : OpWord} {f : Form} (hf : opForm cls op w = some f) (h : wordLegal cls op w = true) :
    inMask f.h w.h = true ∧ inMask f.i w.i = true ∧ inMask f.j w.j = true := by
  simp only [wordLegal, hf, Bool.and_eq_true] at h
  tauto

/-! ## Shifts -/

/-- A 32-bit word read as two's complement. -/
theorem toSigned_toNat (a : Word) : toSigned 32 a.toNat = a.toInt := by
  unfold toSigned
  rw [Nat.mod_eq_of_lt a.isLt, BitVec.toInt_eq_toNat_cond]
  split <;> split <;> omega

/-- The controller's left shift (R154). -/
theorem ofNat_shlBits (a : Word) (n : Nat) : BitVec.ofNat 32 (shlBits 32 a.toNat n) = if 32 ≤ n then 0 else a <<< n := by
  unfold shlBits
  split
  · rfl
  · exact BitVec.eq_of_toNat_eq (by simp)

/-- The controller's logical right shift (R154). -/
theorem ofNat_shrBits (a : Word) (n : Nat) : BitVec.ofNat 32 (shrBits 32 a.toNat n) = if 32 ≤ n then 0 else a >>> n := by
  unfold shrBits
  split
  · rfl
  · refine BitVec.eq_of_toNat_eq ?_
    rw [BitVec.toNat_ofNat, BitVec.toNat_ushiftRight, Nat.mod_eq_of_lt ((Nat.shiftRight_le ..).trans_lt a.isLt)]

/-- The controller's arithmetic right shift (R154). -/
theorem ofNat_sraBits (a : Word) (n : Nat) : BitVec.ofNat 32 (sraBits 32 a.toNat n) = a.sshiftRight (min n 32) := by
  rw [BitVec.sshiftRight, Int.shiftRight_eq_div_pow, sraBits, toSigned_toNat, ofSigned]
  refine BitVec.eq_of_toNat_eq ?_
  rw [BitVec.toNat_ofNat, BitVec.toNat_ofInt]
  push_cast
  omega

/-! ## The program's copy of the flags -/

/-- FLAGS leaves the flags that it does not clear (R156). -/
theorem Core.takeFlags_testBit (c : Core) (clear : Nat) {i : Nat} (hi : i < 5) :
    (c.takeFlags clear).2.flags.testBit i = (c.flags.testBit i && !clear.testBit i) := by
  simp [Core.takeFlags, ofBitList, testBit_foldl_orBit, bitList, hi, Bool.and_comm]

end Sys2Proof.Machine

namespace Sys2Proof.Claims

open Sys2Proof.Machine

section
variable {s : State} {k : Fetch} {w : OpWord}

/-- ALU (R154). -/
theorem alu_done (h : Acts s k 4 0x02 w) :
    let a := (coreAt s k).rdS (opIdx w.f1)
    let b := if bitOf w.i 31 then BitVec.ofNat 32 w.j else (coreAt s k).rdS (opIdx w.f2)
    ∃ t, exec (.alu k w) s = .next t ∧ (coreAt t k).rdS (opIdx w.f0) = (if opIdx w.f0 = 0 then 0 else aluOp w.h a b)
      ∧ OnlyS s t k (opIdx w.f0) ∧ OnlyGoesOn s t k := by
  intro a b
  have hvals := valuesOk_of_legal (issues_legal h.2.1)
  have hle : w.h ≤ 10 := by simpa [valuesOk] using hvals
  have hh : bitsOf w.h 0 4 = w.h := Nat.mod_eq_of_lt (by simp; omega)
  obtain ⟨t, hrun, -, hv, hs, hgo⟩ := ctlScalar_done h (by omega) (by omega) (by omega) (f := ctlAlu w) (Core.wrS_standing ..) rfl
  rw [hh] at hv
  exact ⟨t, hrun, hv, hs, hgo⟩

/-- CTRL CMP (R154). -/
theorem ctrlCmp_done (h : Acts s k 4 0x03 w) :
    let a := (coreAt s k).rdS (opIdx w.f1)
    let b := if bitOf w.i 31 then BitVec.ofNat 32 w.j else (coreAt s k).rdS (opIdx w.f2)
    ∃ t, exec (.ctrlCmp k w) s = .next t ∧ (coreAt t k).rdP (opIdx w.f0) = (if opIdx w.f0 = 0 then true else
        if bitOf w.h 3 then condInt (bitsOf w.h 0 3) a.toNat b.toNat else condInt (bitsOf w.h 0 3) a.toInt b.toInt)
      ∧ OnlyP s t k (opIdx w.f0) ∧ OnlyGoesOn s t k :=
  ctlPredicate_done h (by omega) (by omega) (by omega) (f := ctlCmp w) rfl

/-- PLOG (R154). -/
theorem plog_done (h : Acts s k 4 0x04 w) :
    let a := (coreAt s k).rdP (opIdx w.f1)
    let b := (coreAt s k).rdP (opIdx w.f2)
    ∃ t, exec (.plog k w) s = .next t ∧ (coreAt t k).rdP (opIdx w.f0) = (if opIdx w.f0 = 0 then true else
        match w.h with
        | 0 => a && b
        | 1 => a || b
        | 2 => a != b
        | _ => a && !b)
      ∧ OnlyP s t k (opIdx w.f0) ∧ OnlyGoesOn s t k := by
  intro a b
  have hh : bitsOf w.h 0 2 = w.h := bitsOf_of_inMask (inMask_of_legal rfl (issues_legal h.2.1)).1
  obtain ⟨t, hrun, hv, hp, hgo⟩ := ctlPredicate_done h (by omega) (by omega) (by omega) (f := ctlPlog w) rfl
  rw [hh] at hv
  exact ⟨t, hrun, hv, hp, hgo⟩

/-- TOL (R156). -/
theorem tol_done (h : Acts s k 5 0x01 w) :
    ∃ t, exec (.tol k w) s = .next t
      ∧ (∀ i, Tab.get 4 (coreAt t k).tol i = if i = opIdx w.f0 then w.h else Tab.get 4 (coreAt s k).tol i)
      ∧ SameFiles s t k ∧ OnlyGoesOn s t k := by
  obtain ⟨t, hrun, hcore, hgo⟩ := ctlWord_done h (by omega) (by omega) (by omega) (ctlTol w) rfl
    (ctl := fun d => (d.onCore k.core (ctlTol w)).next k.core) fun _ _ => rfl
  refine ⟨t, hrun, fun i => ?_, sameFiles_of_files (by rw [hcore]; rfl), hgo⟩
  rw [hcore]
  exact Tab.get_put ..

/-- FLAGS (R156). -/
theorem flags_done (h : Acts s k 5 0x02 w) :
    ∃ t, exec (.flags k w) s = .next t
      ∧ (coreAt t k).rdS (opIdx w.f0) = (if opIdx w.f0 = 0 then 0 else BitVec.ofNat 32 (coreAt s k).flags)
      ∧ (∀ i, i < 5 → (coreAt t k).flags.testBit i = ((coreAt s k).flags.testBit i && !w.h.testBit i))
      ∧ OnlyS s t k (opIdx w.f0) ∧ OnlyGoesOn s t k := by
  have hh : bitsOf w.h 0 5 = w.h := bitsOf_of_inMask (inMask_of_legal rfl (issues_legal h.2.1)).1
  have hfiles : (ctlFlags w (coreAt s k)).files = ((coreAt s k).wrS (opIdx w.f0) (BitVec.ofNat 32 (coreAt s k).flags)).files :=
    Core.wrS_of_files (c := ((coreAt s k).takeFlags (bitsOf w.h 0 5)).2) (c' := coreAt s k) rfl _ _
  obtain ⟨t, hrun, hcore, hv, hs, hgo⟩ := ctlScalar_done h (by omega) (by omega) (by omega) (f := ctlFlags w)
    (Core.wrS_standing ..) hfiles
  refine ⟨t, hrun, hv, fun i hi => ?_, hs, hgo⟩
  rw [hcore]
  show (ctlFlags w (coreAt s k)).flags.testBit i = _
  rw [ctlFlags, Core.wrS_flags, Core.takeFlags_testBit _ _ hi, hh]

end

/-- Settles O15: each word changes the register that it names and goes on. -/
theorem controllerRegisters : Obligations.ControllerRegisters := by
  unfold Obligations.ControllerRegisters
  intro s k w cycles c a b r
  refine ⟨fun h => ?_, fun h => ?_, fun h => ?_, ctrlCmp_done, plog_done, fun h => ?_, fun h => ?_, tol_done, flags_done⟩
  · obtain ⟨t, hrun, hcore, hgo⟩ := ctlWord_done h (by omega) (by omega) (by omega) id rfl
      (ctl := fun d => (d.onCore k.core id).next k.core) fun _ _ => rfl
    exact ⟨t, hrun, sameFiles_of_files (by rw [hcore]; rfl), hgo⟩
  · obtain ⟨t, hrun, -, hdone⟩ := ctlScalar_done h (by omega) (by omega) (by omega) (f := ctlSeti w) (Core.wrS_standing ..) rfl
    exact ⟨t, hrun, hdone⟩
  · obtain ⟨t, hrun, hv, hdone⟩ := alu_done h
    refine ⟨t, hrun, hv.trans (if_congr Iff.rfl rfl ?_), hdone⟩
    unfold aluOp
    simp only [ofNat_shlBits, ofNat_shrBits, ofNat_sraBits]
    rfl
  · obtain ⟨t, hrun, -, hdone⟩ := ctlScalar_done h (by omega) (by omega) (by omega) (f := ctlRdcyc w cycles) (Core.wrS_standing ..) rfl
    exact ⟨t, hrun, hdone⟩
  · obtain ⟨t, hrun, -, hv, hdone⟩ := ctlScalar_done h (by omega) (by omega) (by omega) (f := ctlRdfrm w s.dev.chip.frm.cur)
      (Core.wrS_standing ..) rfl
    refine ⟨t, hrun, hv.trans ?_, hdone⟩
    simp only [bitsOf, Nat.shiftRight_eq_div_pow, pow_zero, Nat.div_one, r]

end Sys2Proof.Claims
end

section
/-! PROOF. Where issue goes: LOOP and JUMP; waits and barriers (R122, R124, R144, R154, R155, R157). -/

namespace Sys2Proof.Claims

open Sys2Proof.Machine

section
variable {s : State} {k : Fetch} {w : OpWord}

/-- A controller word that sends issue to an address of the store (R155). -/
theorem goto_done (hinv : Inv s) {op : Nat} (h : issues s k 4 op w = true) (ho : op < 256) {pc : Nat} {loops : List Loop} (hpc : pc ≤ 0xFFF)
    {ctl : CtlEffect} (he : ∀ d : Dev, d.chip.core k.core = coreAt s k → ctl d = d.goto k.core pc loops) :
    ∃ t, runs s (coreWord 4 op k w {} ctl s) = .next t ∧ (coreAt t k).pc = pc ∧ (coreAt t k).loops = loops
      ∧ SameFiles s t k ∧ OnlyCore s t k.core ∧ SameMemory s t ∧ KeepsOuter s t := by
  obtain ⟨t, hrun, hcore, hframe⟩ := ctl_done (c' := { coreAt s k with pc := pc, loops := loops }) hinv h (by omega) (by omega) ho
      (ctl := ctl) fun d hd _ => by
    rw [he d hd, Dev.goto, if_neg (by omega)]
    exact ⟨.onCore .., by rw [core_onCore, if_pos rfl, hd]⟩
  exact ⟨t, hrun, by rw [hcore], by rw [hcore], sameFiles_of_files (by rw [hcore]; rfl), hframe⟩

end

/-- Settles O16: each of the words sends issue to an address of the store. -/
theorem controlFlow : Obligations.ControlFlow := by
  unfold Obligations.ControlFlow
  intro s k w c
  refine ⟨fun hinv h hpos => ?_, fun hinv h hzero hgo => ?_, fun hinv h => ?_⟩
  · have hlegal : loopLegal w c = true := issues_stateLegal h
    have hend : c.pc < w.j ∧ w.j ≤ 0xFFF := by
      simp only [loopLegal, Bool.and_eq_true, decide_eq_true_eq] at hlegal
      tauto
    exact goto_done hinv h (by omega) (by omega) fun d hd => by rw [ctlLoop, if_neg (by omega), hd]
  · obtain ⟨t, hrun, hpc, hloops, hframe⟩ := goto_done (loops := (advance w.j c.loops).2) hinv h (by omega) hgo
      (ctl := ctlLoop k.core w) fun d hd => by rw [ctlLoop, if_pos hzero, hd]
    exact ⟨t, hrun, Prod.ext hpc hloops, hframe⟩
  · have hj : bitsOf w.j 0 12 = w.j := bitsOf_of_inMask (inMask_of_legal rfl (issues_legal h)).2.2
    have hlt : w.j < 2 ^ 12 := hj ▸ Nat.mod_lt _ (by simp)
    exact goto_done hinv h (by omega) (by omega) fun d hd => by rw [ctlJump, hd]

section
variable {s : State} {k : Fetch} {w : OpWord}

/-- A controller word that goes on and then changes the core by `g`, which does not move it: a wait that starts (R144). -/
theorem ctlWait_done {op : Nat} (h : Acts s k 4 op w) (ho : op < 256) {f g : Core → Core}
    (hf : (f (coreAt s k)).standing = (coreAt s k).standing) (hg : ∀ c, (g c).standing = c.standing)
    {ctl : CtlEffect} (he : ∀ d : Dev, d.chip.core k.core = coreAt s k →
      ∃ e, d.InCore k.core e ∧ e.chip.core k.core = f (coreAt s k) ∧ ctl d = (e.next k.core).onCore k.core g) :
    ∃ t, runs s (coreWord 4 op k w {} ctl s) = .next t ∧ coreAt t k = g (f (coreAt s k)).wentOn ∧ OnlyGoesOn s t k := by
  obtain ⟨hinv, hissues, hgo⟩ := h
  obtain ⟨t, hrun, hcore, honly, hmem, houter⟩ := ctl_done (c' := g (f (coreAt s k)).wentOn) hinv hissues (by omega) (by omega) ho
      (ctl := ctl) fun d hd _ => by
    obtain ⟨e, hin, hce, heq⟩ := he d hd
    rw [heq, next_of_core hgo hce hf, ← hce]
    obtain ⟨hin₂, hc₂⟩ := Dev.InCore.onCore₂ k.core e Core.wentOn g
    exact ⟨hin.trans hin₂, hc₂⟩
  refine ⟨t, hrun, hcore, atNext_of_standing hissues ?_, honly, hmem, houter⟩
  rw [hcore, hg]
  exact congrArg (fun st : Standing => { st with pc := (advance st.pc st.loops).1, loops := (advance st.pc st.loops).2 }) hf

/-- SYNC (R144, R154). -/
theorem sync_done (h : Acts s k 4 0x0A w) : ∃ t, exec (.sync k w) s = .next t
    ∧ (coreAt t k).wait = (if (coreAt s k).syncDone w.h then none else some (.sync w.h)) ∧ SameFiles s t k ∧ OnlyGoesOn s t k := by
  have hwait := issues_noWait h.2.1
  have hrunning := issues_running h.2.1
  obtain ⟨t, hrun, hcore, hgo⟩ := ctlWait_done h (by omega) (f := id)
    (g := fun c => if c.st = .running ∧ !c.syncDone w.h then { c with wait := some (.sync w.h) } else c) rfl
    (fun c => by split <;> rfl) (ctl := ctlSync k.core w) fun d hd => ⟨d, .refl .., hd, rfl⟩
  have hcore' : coreAt t k = { (coreAt s k).wentOn with wait := if (coreAt s k).syncDone w.h then none else some (.sync w.h) } := by
    rw [hcore]
    show (if (coreAt s k).st = .running ∧ (!(coreAt s k).syncDone w.h) = true then _ else _) = _
    cases (coreAt s k).syncDone w.h <;> simp [hrunning, ← hwait]
    rfl
  exact ⟨t, hrun, by rw [hcore'], sameFiles_of_files (by rw [hcore']; rfl), hgo⟩

/-- WAITRX (R124). -/
theorem waitrx_done (h : Acts s k 4 0x0B w) : ∃ t, exec (.waitrx k w) s = .next t
    ∧ (coreAt t k).wait = (if (coreAt s k).replay then some .rx else none) ∧ SameFiles s t k ∧ OnlyGoesOn s t k := by
  have hwait := issues_noWait h.2.1
  have hrunning := issues_running h.2.1
  obtain ⟨t, hrun, hcore, hgo⟩ := ctlWait_done h (by omega) (f := id)
    (g := fun c => if c.st = .running ∧ c.replay then { c with wait := some .rx } else c) rfl
    (fun c => by split <;> rfl) (ctl := ctlWaitrx k.core) fun d hd => ⟨d, .refl .., hd, rfl⟩
  have hcore' : coreAt t k = { (coreAt s k).wentOn with wait := if (coreAt s k).replay then some .rx else none } := by
    rw [hcore]
    show (if (coreAt s k).st = .running ∧ (coreAt s k).replay = true then _ else _) = _
    cases (coreAt s k).replay <;> simp [hrunning, ← hwait]
    rfl
  exact ⟨t, hrun, by rw [hcore'], sameFiles_of_files (by rw [hcore']; rfl), hgo⟩

/-- BARRIVE (R154, R157, R185). -/
theorem barrive_done (h : Acts s k 4 0x0C w) : ∃ t, exec (.barrive k w) s = .next t
    ∧ (w.h, s.dev.chip.frm.cur) ∈ (coreAt t k).arrived ∧ w.h ∉ (coreAt t k).done
    ∧ (∀ b, b ≠ w.h → (b ∈ (coreAt t k).done ↔ b ∈ (coreAt s k).done)) ∧ SameFiles s t k ∧ OnlyGoesOn s t k := by
  obtain ⟨t, hrun, hcore, hgo⟩ := ctlWord_done h (by omega) (by omega) (by omega)
    (fun c => { c with arrived := c.arrived.filter (fun p => p.1 ≠ w.h) ++ [(w.h, s.dev.chip.frm.cur)], done := c.done.filter (· ≠ w.h) }) rfl
    (ctl := fun d => (ctlBarrive k.core w d).next k.core) fun d hfrm => by rw [ctlBarrive, hfrm]
  have hdone : (coreAt t k).done = (coreAt s k).done.filter (· ≠ w.h) := congrArg Core.done hcore
  refine ⟨t, hrun, by rw [hcore]; exact List.mem_append_right _ (by simp), by simp [hdone], fun b hb => by simp [hdone, hb],
    sameFiles_of_files (by rw [hcore]; rfl), hgo⟩

/-- BTEST when no replay slot is to come (R157). -/
theorem btest_answers (h : Acts s k 4 0x0D w) (hreplay : (coreAt s k).replay = false) : ∃ t, exec (.btest k w) s = .next t
    ∧ (coreAt t k).rdP (opIdx w.f0) = (if opIdx w.f0 = 0 then true else decide (w.h ∈ (coreAt s k).done))
    ∧ (coreAt t k).wait = none ∧ OnlyP s t k (opIdx w.f0) ∧ OnlyGoesOn s t k := by
  let f (c : Core) : Core := c.wrP (opIdx w.f0) (c.btest w.h)
  obtain ⟨t, hrun, hcore, hgo⟩ := ctlWait_done h (by omega) (f := f)
    (g := fun c => if c.st = .running ∧ c.replay then { c with wait := some (.btest (opIdx w.f0) w.h) } else c) (Core.wrP_standing ..)
    (fun c => by split <;> rfl) (ctl := ctlBtest k.core w) fun d hd =>
      ⟨d.onCore k.core f, .onCore .., by rw [core_onCore, if_pos rfl, hd], by rw [ctlBtest, hd, hreplay]; rfl⟩
  have hcore' : coreAt t k = (f (coreAt s k)).wentOn := by
    have hnot : (f (coreAt s k)).wentOn.replay = false := (Core.wrP_replay ..).trans hreplay
    rw [hcore]
    simp [hnot]
  have hfiles : (coreAt t k).files = ((coreAt s k).wrP (opIdx w.f0) (decide (w.h ∈ (coreAt s k).done))).files := by
    rw [hcore']
    rfl
  refine ⟨t, hrun, by rw [Core.rdP_of_files hfiles, Core.rdP_wrP_same], ?_, onlyP_of_files hfiles, hgo⟩
  rw [hcore']
  exact (Core.wrP_wait ..).trans (issues_noWait h.2.1)

/-- BTEST that waits for the last replay slot (R157). -/
theorem btest_waits (h : Acts s k 4 0x0D w) (hreplay : (coreAt s k).replay = true) : ∃ t, exec (.btest k w) s = .next t
    ∧ (coreAt t k).wait = some (.btest (opIdx w.f0) w.h) ∧ SameFiles s t k ∧ OnlyGoesOn s t k := by
  obtain ⟨t, hrun, hcore, hgo⟩ := ctlWait_done h (by omega) (f := id)
    (g := fun c => if c.st = .running ∧ c.replay then { c with wait := some (.btest (opIdx w.f0) w.h) } else c) rfl
    (fun c => by split <;> rfl) (ctl := ctlBtest k.core w) fun d hd => ⟨d, .refl .., hd, by rw [ctlBtest, hd, hreplay]; rfl⟩
  have hcore' : coreAt t k = { (coreAt s k).wentOn with wait := some (.btest (opIdx w.f0) w.h) } := by
    have hwaits : (coreAt s k).wentOn.st = .running ∧ (coreAt s k).wentOn.replay = true := ⟨issues_running h.2.1, hreplay⟩
    rw [hcore]
    exact if_pos hwaits
  exact ⟨t, hrun, by rw [hcore'], sameFiles_of_files (by rw [hcore']; rfl), hgo⟩

/-- FRAMEEND (R122). -/
theorem frameend_done (hinv : Inv s) (h : issues s k 4 0x0E w = true) (cycles ns : Nat) : ∃ t, exec (.frameend k w cycles ns) s = .next t
    ∧ (coreAt t k).st = (if (coreAt s k).allIdle then .ended else .ending) ∧ (coreAt t k).endCycles = cycles ∧ (coreAt t k).endAt = ns
    ∧ SameFiles s t k ∧ OnlyCore s t k.core ∧ SameMemory s t ∧ KeepsOuter s t := by
  let c' : Core := if (coreAt s k).allIdle then (coreAt s k).endStep cycles ns
    else { coreAt s k with st := .ending, endCycles := cycles, endAt := ns }
  obtain ⟨t, hrun, hcore, hframe⟩ := ctl_done (c' := c') hinv h (by omega) (by omega) (by omega) (ctl := ctlFrameend k.core cycles ns)
    fun d hd _ => ⟨.onCore .., by rw [ctlFrameend, core_onCore, if_pos rfl, hd]⟩
  have hends : c'.st = (if (coreAt s k).allIdle then .ended else .ending) ∧ c'.endCycles = cycles ∧ c'.endAt = ns
      ∧ c'.files = (coreAt s k).files := by
    dsimp only [c']
    split <;> exact ⟨rfl, rfl, rfl, rfl⟩
  obtain ⟨hst, hcycles, hat, hfiles⟩ := hends
  exact ⟨t, hrun, by rw [hcore, hst], by rw [hcore, hcycles], by rw [hcore, hat], sameFiles_of_files (by rw [hcore, hfiles]), hframe⟩

end

/-- Settles O17: the word waits or goes on as its condition asks. -/
theorem waitsAndBarriers : Obligations.WaitsAndBarriers := by
  unfold Obligations.WaitsAndBarriers
  intro s k w cycles ns c
  refine ⟨fun h => ?_, fun h => ?_, fun h => ?_, fun h hreplay => ?_, fun h hreplay => ?_, fun hinv h => ?_⟩
  · exact sync_done h
  · exact waitrx_done h
  · exact barrive_done h
  · exact btest_answers h hreplay
  · exact btest_waits h hreplay
  · exact frameend_done hinv h cycles ns

end Sys2Proof.Claims
end

section
/-! PROOF. Reads of a sound range of a slice (R79, R147, R148, R156): XSIG, LDV, LDS, LDD and LDACC. -/

namespace Sys2Proof.Machine

open Host

/-- A chip with the pantry errors of another. -/
def Chip.withEcc (c e : Chip) : Chip := { c with tow := { c.tow with errs := e.tow.errs, eccAddr := e.tow.eccAddr } }

/-- A word without an uncorrectable error is read: of the chip only the pantry errors change (R167). -/
theorem Dev.eccWord_chip {d : Dev} {core w : Nat} (h : Tab.get 0 d.chip.tow.errs (wordKey core w) ≠ 1000) :
    (d.eccWord core w).chip = d.chip.withEcc (d.eccWord core w).chip := by
  unfold Dev.eccWord
  dsimp only
  split
  · rfl
  · next he => exact absurd he h
  · rfl

/-- A sound range is read: of the chip only the pantry errors change (R167). -/
theorem Dev.foldl_eccWord_chip {core : Nat} (l : List Nat) {d : Dev} (h : ∀ w ∈ l, Tab.get 0 d.chip.tow.errs (wordKey core w) ≠ 1000) :
    (l.foldl (fun d w => d.eccWord core w) d).chip = d.chip.withEcc (l.foldl (fun d w => d.eccWord core w) d).chip := by
  induction l generalizing d with
  | nil => rfl
  | cons w l ih =>
    have hword := Dev.Met.eccWord (h w (by simp))
    have hrest := ih (d := d.eccWord core w) fun x hx => hword.stores.errs_ne (h x (by simp [hx]))
    exact hrest.trans (congrArg (Chip.withEcc · (l.foldl (fun d w => d.eccWord core w) (d.eccWord core w)).chip)
      (Dev.eccWord_chip (h w (by simp))) :)

/-- A sound range is so after work among registers. -/
theorem Dev.Sound.of_computes {n core : Nat} {d e : Dev} {r : Nat × Nat} (h : d.Sound core r) (hc : d.Computes n e) : e.Sound core r := by
  refine fun w hw => ⟨?_, ?_⟩
  · rw [hc.chip]
    exact (h w hw).1
  · exact (congrArg (fun c : Chip => Tab.get false c.tow.husk (wordKey core w)) hc.chip).trans (h w hw).2

/-- Bytes of a range that lies in the slice unless it is empty, where nothing was written yet. -/
theorem Dev.bytesOf_unwritten {d : Dev} (h : d.wr = []) (s : State) (core : Nat) {a n : Nat} (hin : 0 < n → a + n ≤ sliceBytes) :
    d.bytesOf s core a n = s.mem.bytes (pantryAddr core a) n := by
  obtain rfl | hn := Nat.eq_zero_or_pos n
  · simp [Dev.bytesOf, Dev.memory, h]
  · exact Dev.bytesOf_inside h s core (hin hn)

end Sys2Proof.Machine

namespace Sys2Proof.Claims

open Sys2Proof.Machine

/-- A sound range of a state is so in its device. -/
theorem sound_dev {s : State} {k : Fetch} {a n : Nat} (h : sound s k a n = true) : s.dev.Sound k.core (a, n) := by
  simp only [sound, noUncorr, Bool.and_eq_true, List.all_eq_true, decide_eq_true_eq, Bool.not_eq_true'] at h
  exact fun x hx => ⟨h.1 x hx, h.2 x hx⟩

/-! ## XSIG -/

/-- The post of an XSIG without an injection (R156, R427). -/
def xsigPost (s : State) (k : Fetch) (w : OpWord) : XPost :=
  ⟨(s.dev.chip.coreRoom k.core).getD 0xFF, bitsOf w.i 0 8, k.core, (crc32c (sliceAt s k (addrOf s k w) (128 * w.h))).toNat⟩

/-- The device when a post joins those of the frame (R427). -/
def posted (d : Dev) (n : Nat) (x : XPost) : Dev :=
  (d.onChip fun c => { c with integ := { c.integ with posts := c.integ.posts ++ [x] } }).chanChecked 3 n

theorem posted_posts (d : Dev) (n : Nat) (x : XPost) : (posted d n x).chip.integ.posts = d.chip.integ.posts ++ [x] := rfl

theorem reads_posted (d : Dev) (n : Nat) (x : XPost) : d.Reads n (posted d n x) := .of_cores rfl rfl rfl rfl

theorem core_posted (d : Dev) (n j : Nat) (x : XPost) : (posted d n x).chip.core j = d.chip.core j := rfl

/-- XSIG over a sound range, without an injection (R156, R427). -/
theorem ctlXsig_sound {s : State} (hinj : s.gate.inj.st ≠ .active) {d : Dev} {n a : Nat} {w : OpWord} (h : d.Sound n (a, 128 * w.h)) :
    ctlXsig n a w s d = (posted (d.readWords n a (128 * w.h)) n ⟨((d.readWords n a (128 * w.h)).chip.coreRoom n).getD 0xFF, bitsOf w.i 0 8, n,
      (crc32c ((d.readWords n a (128 * w.h)).bytesOf s n a (128 * w.h))).toNat⟩).next n := by
  have hread (pc : Nat) (f : Dev → Dev) : d.consume n a (128 * w.h) pc s f = f (d.readWords n a (128 * w.h)) := (Dev.consume_sound h s f).2
  unfold ctlXsig
  rw [hread]
  simp only [injOn_none hinj, Option.filter_none]
  rfl

/-- Settles O19: the sound lines are read, and the post joins those of the frame. -/
theorem xsigPosts : Obligations.XsigPosts := by
  unfold Obligations.XsigPosts
  intro s k w h hinj hsound
  obtain ⟨hinv, hissues, hgo⟩ := h
  obtain ⟨d, hrun, hd, hcore⟩ := ctl_runs hissues (by omega) (by omega) (by omega)
    fun d => ctlXsig k.core ((d.chip.core k.core).rdS (opIdx w.f1) + BitVec.ofNat 32 w.j).toNat w s d
  have hsd : d.Sound k.core (addrOf s k w, 128 * w.h) := (sound_dev hsound).of_computes hd
  let e := d.readWords k.core (addrOf s k w) (128 * w.h)
  have hmet : d.Met k.core e := .foldl_eccWord _ fun x hx => (hsd x hx).1
  have hchip : e.chip = d.chip.withEcc e.chip := Dev.foldl_eccWord_chip _ fun x hx => (hsd x hx).1
  have hreads : s.dev.Reads k.core e := hd.toReads.trans hmet.toReads
  have hbytes : e.bytesOf s k.core (addrOf s k w) (128 * w.h) = sliceAt s k (addrOf s k w) (128 * w.h) :=
    Dev.bytesOf_unwritten (hreads.wr.trans hinv.wr) s k.core fun hn =>
      issues_inside hissues (r := (addrOf s k w, 128 * w.h)) List.mem_cons_self hn
  have hposts : e.chip.integ.posts = s.dev.chip.integ.posts := by rw [hchip, hd.chip]; rfl
  have hroom : e.chip.coreRoom k.core = s.dev.chip.coreRoom k.core := by rw [hchip, hd.chip]; rfl
  have hctl : ctlXsig k.core ((d.chip.core k.core).rdS (opIdx w.f1) + BitVec.ofNat 32 w.j).toNat w s d =
      (posted e k.core (xsigPost s k w)).next k.core := by
    rw [hcore, show ((coreAt s k).rdS (opIdx w.f1) + BitVec.ofNat 32 w.j).toNat = addrOf s k w from rfl, ctlXsig_sound hinj hsd, hroom, hbytes,
      xsigPost]
  have hcoreP : (posted e k.core (xsigPost s k w)).chip.core k.core = coreAt s k := (core_posted ..).trans ((hmet.core k.core).trans hcore)
  have hmoved := Dev.InCore.onCore k.core (posted e k.core (xsigPost s k w)) Core.wentOn
  have hread := hreads.trans (reads_posted e k.core (xsigPost s k w))
  rw [hctl, next_of_core hgo hcoreP rfl] at hrun
  have hat : coreAt (commit s ((posted e k.core (xsigPost s k w)).onCore k.core Core.wentOn)) k = (coreAt s k).wentOn := by
    rw [coreAt, commit_chip, core_onCore, if_pos rfl, hcoreP]
  refine ⟨_, hrun, ?_, sameFiles_of_files (by rw [hat]; rfl), atNext_of_standing hissues (by rw [hat]), fun a => ?_,
    keepsOuter_commit (hmoved.outer.trans hread.outer) (hmoved.used.trans (hread.used.trans hinv.used))⟩
  · have hmovedPosts (d : Dev) : (d.onCore k.core Core.wentOn).chip.integ.posts = d.chip.integ.posts := rfl
    rw [commit_chip, hmovedPosts, posted_posts, hposts, xsigPost]
  · rw [commit_mem, hmoved.wr, hread.wr, hinv.wr, Mem.apply_nil]

/-! ## Loads -/

/-- The address that an operation captures (R141, R147). -/
theorem capture_addrOf (s : State) (k : Fetch) (cls op : Nat) (w : OpWord) : ((coreAt s k).capture cls op w true {}).addr = addrOf s k w := rfl

/-- A unit that consumes a sound range of its slice and puts what the bytes say into a register (R147, R148). -/
theorem load_done {s : State} {k : Fetch} {cls op : Nat} {w : OpWord} (h : Starts s k cls op w) (hc : cls < 4) (ho : op < 256) {n pc : Nat}
    (hin : addrOf s k w + n ≤ sliceBytes) (hsound : sound s k (addrOf s k w) n = true) {f : List Byte → Core → Core}
    (hf : ∀ bs c, (f bs c).standing = c.standing) (hfiles : ∀ bs c c', c.files = c'.files → (f bs c).files = (f bs c').files)
    (he : opEffect k.core ((coreAt s k).capture cls op w true {}) s (started s k cls op w) =
      (started s k cls op w).consume k.core (addrOf s k w) n pc s fun d =>
        d.onCore k.core (f (d.bytesOf s k.core (addrOf s k w) n))) :
    ∃ t, runs s (unitWord cls op k w s) = .next t ∧ (coreAt t k).files = (f (sliceAt s k (addrOf s k w) n) (coreAt s k)).files
      ∧ GoesOn s t k ∧ SameMemory s t := by
  obtain ⟨hmet, hread⟩ := Dev.consume_sound (pc := pc) (sound_started hsound cls op w) s fun d =>
    d.onCore k.core (f (d.bytesOf s k.core (addrOf s k w) n))
  have hwr := hmet.wr.trans (started_wr s k cls op w h.1.wr)
  have hbytes := Dev.bytesOf_inside hwr s k.core hin
  rw [hread, hbytes] at he
  obtain ⟨t, hrun, hgo, hfs, -, hmem, -⟩ := unit_works h hc ho he (hmet.toWorks.trans (Dev.Computes.onCore _ _ _ (hf _ _)).toWorks)
  refine ⟨t, hrun, ?_, hgo, fun a => ?_⟩
  · rw [hfs, core_onCore, if_pos rfl, hmet.core]
    exact hfiles _ _ _ (started_files ..)
  · rw [hmem]
    exact congrArg (Mem.get · a) ((congrArg (Mem.apply s.mem) hwr).trans (Mem.apply_nil _))

/-- Settles O1: each load puts the bytes of its range into its register. -/
theorem loadsReadThePantry : Obligations.LoadsReadThePantry := by
  unfold Obligations.LoadsReadThePantry
  intro s k w
  refine ⟨fun h hsound => ?_, fun h hsound => ?_, fun h hsound => ?_, fun h hsound => ?_⟩
  · have hin := issues_inside h.2.1 (r := (addrOf s k w, 256)) List.mem_cons_self (by simp)
    obtain ⟨t, hrun, hfiles, hgo, hmem⟩ := load_done h (by omega) (by omega) hin hsound
      (f := fun bs c => c.wrW (opIdx w.f0) (bvOf 2048 bs)) (fun _ _ => Core.wrW_standing ..) (fun _ _ _ hc => Core.wrW_of_files hc _ _) rfl
    exact ⟨t, hrun, by rw [Core.rdW_of_files hfiles, Core.rdW_wrW, if_pos rfl], onlyW_of_files hfiles, hgo, hmem⟩
  · have hin := issues_inside h.2.1 (r := (addrOf s k w, 4)) List.mem_cons_self (by simp)
    obtain ⟨t, hrun, hfiles, hgo, hmem⟩ := load_done h (by omega) (by omega) hin hsound
      (f := fun bs c => c.wrS (opIdx w.f0) (bvOf 32 bs)) (fun _ _ => Core.wrS_standing ..) (fun _ _ _ hc => Core.wrS_of_files hc _ _) rfl
    exact ⟨t, hrun, by rw [Core.rdS_of_files hfiles, Core.rdS_wrS_same], onlyS_of_files hfiles, hgo, hmem⟩
  · have hin := issues_inside h.2.1 (r := (addrOf s k w, 32)) List.mem_cons_self (by simp)
    obtain ⟨t, hrun, hfiles, hgo, hmem⟩ := load_done h (by omega) (by omega) hin hsound
      (f := fun bs c => c.wrD (opIdx w.f0) (bvOf 256 bs)) (fun _ _ => Core.wrD_standing ..) (fun _ _ _ hc => Core.wrD_of_files hc _ _) rfl
    exact ⟨t, hrun, by rw [Core.rdD_of_files hfiles, Core.rdD_wrD, if_pos rfl], onlyD_of_files hfiles, hgo, hmem⟩
  · have hin := issues_inside h.2.1 (r := (addrOf s k w, bankImageBytes)) List.mem_cons_self (by simp [bankImageBytes])
    have hop (d : Dev) : opEffect k.core ((coreAt s k).capture 1 0x04 w true {}) s d =
        d.consume k.core (addrOf s k w) bankImageBytes (coreAt s k).pc s fun d => d.onCore k.core fun c =>
          c.wrB (opIdx w.f0) (Bank.ofImage (d.bytesOf s k.core (addrOf s k w) bankImageBytes)) := by
      simp only [opEffect, effectMat, opLdacc, capture_run, capture_cls, capture_op, capture_w, capture_pc, capture_addrOf]
      rfl
    obtain ⟨t, hrun, hfiles, hgo, hmem⟩ := load_done h (by omega) (by omega) hin hsound
      (f := fun bs c => c.wrB (opIdx w.f0) (Bank.ofImage bs)) (fun _ _ => Core.wrB_standing ..) (fun _ _ _ hc => Core.wrB_of_files hc _ _) (hop _)
    exact ⟨t, hrun, by rw [Core.rdB_of_files hfiles, Core.rdB_wrB, if_pos rfl], onlyB_of_files hfiles, hgo, hmem⟩

end Sys2Proof.Claims
end

section
/-! PROOF. Writes of a core into its slice (R127, R147, R148, R165): STV, STS, FILL and STACC. -/

namespace Sys2Proof.Machine

/-- A write operation that lost bytes counts it (R127). -/
theorem Dev.Computes.dropped (n core : Nat) (d : Dev) (lost : Bool) : d.Computes n (d.dropped core lost) := by
  unfold Dev.dropped
  split
  · exact .count ..
  · exact .refl n d

@[simp] theorem Dev.dropped_chip (d : Dev) (core : Nat) (lost : Bool) : (d.dropped core lost).chip = d.chip := by
  unfold Dev.dropped
  split <;> rfl

/-- The bytes of a write that no closed range holds off (R127). -/
def keptBytes (closed : List (Nat × Nat)) (a : Nat) (l : List (Option Byte)) : List (Option Byte) :=
  l.mapIdx fun i b => if inRanges closed (a + i) then none else b

@[simp] theorem keptBytes_length (closed : List (Nat × Nat)) (a : Nat) (l : List (Option Byte)) : (keptBytes closed a l).length = l.length := by
  simp [keptBytes]

theorem keptBytes_getD (closed : List (Nat × Nat)) (a : Nat) (l : List (Option Byte)) (i : Nat) :
    (keptBytes closed a l).getD i none = if inRanges closed (a + i) then none else l.getD i none := by
  simp only [keptBytes, List.getD_eq_getElem?_getD, List.getElem?_mapIdx]
  cases l[i]? <;> simp

theorem Dev.coreWrite_fst (d : Dev) (core a : Nat) (l : List (Option Byte)) :
    (d.coreWrite core a l).1 = d.pantryWrite core a (keptBytes (d.chip.core core).closed a l) := rfl

section
variable {d : Dev} {core a : Nat} {l : List (Option Byte)}

/-- A core's write into words of its slice without uncorrectable errors (R127, R165). -/
theorem Dev.Stores.coreWrite (h : ∀ w ∈ wordsOf a l.length, Tab.get 0 d.chip.tow.errs (wordKey core w) ≠ 1000)
    (hin : a + l.length ≤ sliceBytes) : d.Stores core (d.coreWrite core a l).1
      ∧ (d.coreWrite core a l).1.wr = d.wr ++ segs (pantryAddr core a) (keptBytes (d.chip.core core).closed a l) := by
  obtain ⟨hstores, hwr⟩ := Dev.Stores.pantryWrite (core := core) (a := a) (l := keptBytes (d.chip.core core).closed a l) (by simpa using h)
  rw [List.take_of_length_le (by rw [keptBytes_length]; omega)] at hwr
  exact ⟨hstores, hwr⟩

/-- The byte at an address of memory after enabled bytes were written, closed ranges left out (R127). -/
theorem get_apply_kept (m : Mem) (core : Nat) (closed : List (Nat × Nat)) (a : Nat) (l : List (Option Byte)) (x : Nat) :
    (m.apply (segs (pantryAddr core a) (keptBytes closed a l))).get x =
      if pantryAddr core a ≤ x ∧ inRanges closed (x - pantryAddr core 0) = false
        then (l.getD (x - pantryAddr core a) none).getD (m.get x) else m.get x := by
  rw [apply_segs, keptBytes_getD]
  by_cases hx : pantryAddr core a ≤ x
  · have hoff : a + (x - pantryAddr core a) = x - pantryAddr core 0 := by
      unfold pantryAddr at hx ⊢
      omega
    rw [if_pos hx, hoff]
    cases inRanges closed (x - pantryAddr core 0) <;> simp [hx]
  · rw [if_neg hx, if_neg fun h => hx h.1]

end

/-- A write of whole bytes as one of enabled bytes. -/
theorem Dev.coreStore_eq (d : Dev) (core a : Nat) (bs : List Byte) :
    d.coreStore core a bs = (d.coreWrite core a (bs.map some)).1.dropped core (d.coreWrite core a (bs.map some)).2 := rfl

/-- The scalar that an operation's first specifier names, read at issue (R141). -/
theorem capture_sc0 {c : Core} {cls op : Nat} {w : OpWord} (h : ((opForm cls op w).getD {}).f0 = src .s) :
    (c.capture cls op w true {}).sc.getD 0 0 = c.rdS (opIdx w.f0) := by
  simp [Core.capture, h, src]

/-- The entries of a list of equal parts. -/
theorem flatMap_length_const {α β : Type} (f : α → List β) (n : Nat) (l : List α) (h : ∀ x, (f x).length = n) :
    (l.flatMap f).length = l.length * n := by
  simp [List.length_flatMap, h]

/-- A bank image fills its lines (R148). -/
theorem Bank.image_length (b : Bank) : b.image.length = bankImageBytes := by
  have hents := flatMap_length_const (fun k => leBytes 8 ((Tab.get 0 b.ent k).signExtend 64).toNat) 8 (List.range 2048) fun k => leBytes_length ..
  rw [Bank.image, List.length_append, List.length_append, List.length_append, List.length_append, hents, List.length_range, leBytes_length,
    leBytes_length, leBytes_length, List.length_replicate, bankImageBytes]

end Sys2Proof.Machine

namespace Sys2Proof.Claims

open Sys2Proof.Machine

/-- No uncorrectable error lies in a range of the device in which an operation starts. -/
theorem noUncorr_started {s : State} {k : Fetch} {a n : Nat} (h : noUncorr s k a n = true) (cls op : Nat) (w : OpWord) :
    ∀ x ∈ wordsOf a n, Tab.get 0 (started s k cls op w).chip.tow.errs (wordKey k.core x) ≠ 1000 := by
  simp only [noUncorr, List.all_eq_true, decide_eq_true_eq] at h
  intro x hx
  rw [(computes_started s k cls op w).chip]
  exact h x hx

/-- The ranges closed to a core when an operation of it starts. -/
theorem started_closed (s : State) (k : Fetch) (cls op : Nat) (w : OpWord) :
    ((started s k cls op w).chip.core k.core).closed = (coreAt s k).closed := by
  rw [core_started, Core.begun, Core.noteWrites_state]
  rfl

section
variable {s : State} {k : Fetch} {cls op : Nat} {w : OpWord}

/-- A unit that writes bytes into its core's slice (R127, R147, R148). -/
theorem store_done (h : Starts s k cls op w) (hc : cls < 4) (ho : op < 256) {n : Nat} (hin : addrOf s k w + n ≤ sliceBytes)
    (hno : noUncorr s k (addrOf s k w) n = true) {l : List (Option Byte)} (hl : l.length = n)
    (he : opEffect k.core ((coreAt s k).capture cls op w true {}) s (started s k cls op w) =
      ((started s k cls op w).coreWrite k.core (addrOf s k w) l).1.dropped k.core ((started s k cls op w).coreWrite k.core (addrOf s k w) l).2) :
    ∃ t, runs s (unitWord cls op k w s) = .next t ∧ Stored s t k (addrOf s k w) l ∧ SameFiles s t k ∧ GoesOn s t k := by
  obtain ⟨hstores, hwr⟩ := Dev.Stores.coreWrite (core := k.core) (a := addrOf s k w) (l := l) (d := started s k cls op w)
    (by rw [hl]; exact noUncorr_started hno cls op w) (by rw [hl]; exact hin)
  have hdropped := Dev.Computes.dropped k.core k.core ((started s k cls op w).coreWrite k.core (addrOf s k w) l).1
    ((started s k cls op w).coreWrite k.core (addrOf s k w) l).2
  obtain ⟨t, hrun, hgo, hfiles, -, hmem, -⟩ := unit_works h hc ho he (hstores.toWorks.trans hdropped.toWorks)
  refine ⟨t, hrun, fun x => ?_, sameFiles_of_files (by rw [hfiles, Dev.dropped_chip, hstores.core, started_files]), hgo⟩
  rw [hmem, hdropped.wr, hwr, started_wr s k cls op w h.1.wr, List.nil_append, get_apply_kept, started_closed]

/-- STV (R147). -/
theorem stv_done (h : Starts s k 0 0x02 w) (hno : noUncorr s k (addrOf s k w) 256 = true) : ∃ t, exec (.stv k w) s = .next t
    ∧ Stored s t k (addrOf s k w) ((leBytes 256 ((coreAt s k).rdW (opIdx w.f0)).toNat).mapIdx fun i b =>
        if ((coreAt s k).rdM (opIdx w.f2)).toNat.testBit (i / laneBytes (bitsOf w.h 0 4)) then some b else none)
    ∧ SameFiles s t k ∧ GoesOn s t k := by
  have hin := issues_inside h.2.1 (r := (addrOf s k w, 256)) List.mem_cons_self (by simp)
  have hop (d : Dev) : opEffect k.core ((coreAt s k).capture 0 0x02 w true {}) s d = opStv k.core ((coreAt s k).capture 0 0x02 w true {}) s d := by
    simp [opEffect, effectMove]
  refine store_done h (by omega) (by omega) hin hno (by simp) ?_
  simp only [hop, opStv, capture_w, capture_addrOf, started_rdM, started_rdW]

/-- STS (R147). -/
theorem sts_done (h : Starts s k 0 0x04 w) (hno : noUncorr s k (addrOf s k w) 4 = true) : ∃ t, exec (.sts k w) s = .next t
    ∧ Stored s t k (addrOf s k w) ((leBytes 4 ((coreAt s k).rdS (opIdx w.f0)).toNat).map some) ∧ SameFiles s t k ∧ GoesOn s t k := by
  have hin := issues_inside h.2.1 (r := (addrOf s k w, 4)) List.mem_cons_self (by simp)
  have hop (d : Dev) : opEffect k.core ((coreAt s k).capture 0 0x04 w true {}) s d = opSts k.core ((coreAt s k).capture 0 0x04 w true {}) s d := by
    simp [opEffect, effectMove]
  have hsc : ((coreAt s k).capture 0 0x04 w true {}).sc.getD 0 0 = (coreAt s k).rdS (opIdx w.f0) := capture_sc0 rfl
  refine store_done h (by omega) (by omega) hin hno (by simp) ?_
  rw [hop, opSts, hsc, Dev.coreStore_eq, capture_addrOf]

/-- FILL (R147). -/
theorem fill_done (h : Starts s k 0 0x08 w) (hno : noUncorr s k (addrOf s k w) (128 * w.h) = true) : ∃ t, exec (.fill k w) s = .next t
    ∧ Stored s t k (addrOf s k w) (((List.replicate (32 * w.h) (leBytes 4 w.i)).flatten).map some) ∧ SameFiles s t k ∧ GoesOn s t k := by
  have hpos : 0 < w.h := by simpa [valuesOk] using valuesOk_of_legal (issues_legal h.2.1)
  have hin := issues_inside h.2.1 (r := (addrOf s k w, 128 * w.h)) List.mem_cons_self (by show 0 < 128 * w.h; omega)
  have hop (d : Dev) : opEffect k.core ((coreAt s k).capture 0 0x08 w true {}) s d = opFill k.core ((coreAt s k).capture 0 0x08 w true {}) s d := by
    simp [opEffect, effectMove]
  refine store_done h (by omega) (by omega) hin hno (by simp; omega) ?_
  rw [hop, opFill, Dev.coreStore_eq, capture_addrOf, capture_w]

/-- STACC (R148). -/
theorem stacc_done (h : Starts s k 1 0x03 w) (hno : noUncorr s k (addrOf s k w) bankImageBytes = true) : ∃ t, exec (.stacc k w) s = .next t
    ∧ Stored s t k (addrOf s k w) (((coreAt s k).rdB (opIdx w.f0)).image.map some) ∧ SameFiles s t k ∧ GoesOn s t k := by
  have hin := issues_inside h.2.1 (r := (addrOf s k w, bankImageBytes)) List.mem_cons_self (by simp [bankImageBytes])
  have hop (d : Dev) : opEffect k.core ((coreAt s k).capture 1 0x03 w true {}) s d = opStacc k.core ((coreAt s k).capture 1 0x03 w true {}) s d := by
    simp [opEffect, effectMat]
  refine store_done h (by omega) (by omega) hin hno (by simp [Bank.image_length]) ?_
  rw [hop, opStacc, Dev.coreStore_eq, capture_addrOf, capture_w, started_rdB]

end

/-- Settles O2: each store writes the open bytes of its range. -/
theorem storesWriteThePantry : Obligations.StoresWriteThePantry := by
  unfold Obligations.StoresWriteThePantry
  intro s k w
  exact ⟨stv_done, sts_done, fill_done, stacc_done⟩

end Sys2Proof.Claims
end

section
/-! PROOF. SETD and COPY (R127, R147, R165). -/

namespace Sys2Proof.Machine

/-! ## SETD -/

/-- A bit of a number in which a field was replaced. -/
theorem testBit_setBits (n lo w v b : Nat) :
    (setBits n lo w v).testBit b = if lo ≤ b ∧ b < lo + w then v.testBit (b - lo) else n.testBit b := by
  have hparts (m : Nat) (hm : m < 2 ^ w) (b : Nat) : (2 ^ lo * (2 ^ w * (n / 2 ^ lo / 2 ^ w) + m) + n % 2 ^ lo).testBit b =
      if b < lo then n.testBit b else if b < lo + w then m.testBit (b - lo) else n.testBit b := by
    rw [Nat.testBit_two_pow_mul_add _ (Nat.mod_lt _ (Nat.two_pow_pos lo)), Nat.testBit_two_pow_mul_add _ hm, Nat.testBit_mod_two_pow]
    by_cases h1 : b < lo
    · simp [h1]
    · by_cases h2 : b < lo + w
      · simp [h1, h2, show b - lo < w by omega]
      · rw [if_neg h1, if_neg (by omega), if_neg h1, if_neg h2, Nat.testBit_div_two_pow, Nat.testBit_div_two_pow]
        congr 1
        omega
  have hset : setBits n lo w v = 2 ^ lo * (2 ^ w * (n / 2 ^ lo / 2 ^ w) + v % 2 ^ w) + n % 2 ^ lo := by
    have hn : n = 2 ^ lo * (2 ^ w * (n / 2 ^ lo / 2 ^ w)) + n / 2 ^ lo % 2 ^ w * 2 ^ lo + n % 2 ^ lo := by
      rw [Nat.mul_comm (n / 2 ^ lo % 2 ^ w), ← Nat.mul_add, Nat.div_add_mod, Nat.div_add_mod]
    rw [setBits, bitsOf, Nat.shiftRight_eq_div_pow, Nat.mul_add, Nat.mul_comm (2 ^ lo) (v % 2 ^ w)]
    generalize n / 2 ^ lo % 2 ^ w * 2 ^ lo = mid at hn ⊢
    generalize 2 ^ lo * (2 ^ w * (n / 2 ^ lo / 2 ^ w)) = high at hn ⊢
    generalize n % 2 ^ lo = low at hn ⊢
    omega
  rw [hset, hparts _ (Nat.mod_lt _ (Nat.two_pow_pos w)), Nat.testBit_mod_two_pow]
  by_cases h1 : b < lo
  · rw [if_pos h1, if_neg (by omega)]
  · by_cases h2 : b < lo + w
    · rw [if_neg h1, if_pos h2, if_pos ⟨by omega, h2⟩, decide_eq_true (show b - lo < w by omega), Bool.true_and]
    · rw [if_neg h1, if_neg h2, if_neg (by omega)]

end Sys2Proof.Machine

namespace Sys2Proof.Claims

open Sys2Proof.Machine

/-- SETD (R147). -/
theorem setd_done {s : State} {k : Fetch} {w : OpWord} (h : Starts s k 0 0x06 w) : ∃ t, exec (.setd k w) s = .next t
    ∧ (∀ b, b < 256 → ((coreAt t k).rdD (opIdx w.f0)).getLsbD b =
        if 8 * w.h ≤ b ∧ b < 8 * w.h + 32 then ((coreAt s k).rdS (opIdx w.f1)).getLsbD (b - 8 * w.h)
        else ((coreAt s k).rdD (opIdx w.f0)).getLsbD b)
    ∧ OnlyD s t k (opIdx w.f0) ∧ OnlyGoesOn s t k := by
  let v : BitVec 256 := BitVec.ofNat 256 (setBits ((coreAt s k).rdD (opIdx w.f0)).toNat (8 * w.h) 32 ((coreAt s k).rdS (opIdx w.f1)).toNat)
  have heff : opEffect k.core ((coreAt s k).capture 0 0x06 w true {}) s (started s k 0 0x06 w) =
      (started s k 0 0x06 w).onCore k.core fun c => c.wrD (opIdx w.f0) (BitVec.ofNat 256 (setBits (c.rdD (opIdx w.f0)).toNat (8 * w.h) 32
        ((coreAt s k).rdS (opIdx w.f1)).toNat)) := rfl
  obtain ⟨t, hrun, hfiles, hgo⟩ := unit_computes h (by omega) (by omega) heff (.onCore _ _ _ (Core.wrD_standing ..))
  have hwrote : (coreAt t k).files = ((coreAt s k).wrD (opIdx w.f0) v).files := by
    rw [hfiles, core_onCore, if_pos rfl, Core.rdD_of_files (started_files ..)]
    exact Core.wrD_of_files (started_files ..) _ _
  refine ⟨t, hrun, fun b hb => ?_, onlyD_of_files hwrote, hgo⟩
  rw [Core.rdD_of_files hwrote, Core.rdD_wrD, if_pos rfl, BitVec.getLsbD_ofNat, decide_eq_true hb, Bool.true_and, testBit_setBits]
  rfl

end Sys2Proof.Claims

namespace Sys2Proof.Machine

/-! ## One word of a COPY -/

/-- What a COPY does with one word (R147, R165). -/
def Dev.copyWord (core tgt org : Nat) (s : State) (d : Dev) : Dev × Bool :=
  if d.husked (wordKey core org) then d.coreHusk core tgt (d.wordBytes s core org)
  else d.coreWrite core (16 * tgt) ((d.wordBytes s core org).map some)

theorem copyLine_eq (core tgt org : Nat) (s : State) (d : Dev) : copyLine core (16 * tgt) (16 * org) s d =
    (List.range 8).foldl (fun (acc : Dev × Bool) i =>
      ((acc.1.copyWord core (tgt + i) (org + i) s).1, acc.2 || (acc.1.copyWord core (tgt + i) (org + i) s).2))
      (d.readWords core (16 * org) 128, false) := by
  unfold copyLine Dev.copyWord
  simp only [Nat.mul_div_cancel_left _ (show 0 < 16 by omega), Nat.mul_add]

/-- A slice after one word was copied, its bytes and its husk marks (R127, R147, R165). -/
def copiedWord (closed : Nat → Bool) (tgt org : Nat) (m : (Nat → Byte) × (Nat → Bool)) : (Nat → Byte) × (Nat → Bool) :=
  if (List.range 16).all fun i => closed (16 * tgt + i) then m
  else
    (fun x => if (16 * tgt ≤ x ∧ x < 16 * tgt + 16) ∧ (m.2 org = true ∨ closed x = false) then m.1 (x - 16 * tgt + 16 * org) else m.1 x,
     fun w => if w = tgt then m.2 org || (m.2 w && (List.range 16).any fun i => closed (16 * tgt + i)) else m.2 w)

theorem copied_succ (closed : Nat → Bool) (tgt org n : Nat) (m : (Nat → Byte) × (Nat → Bool)) :
    Claims.copied closed (16 * tgt) (16 * org) (n + 1) m =
      copiedWord closed (tgt + n) (org + n) (Claims.copied closed (16 * tgt) (16 * org) n m) := by
  have hto : 16 * tgt / 16 + n = tgt + n := by omega
  have hfrom : 16 * org / 16 + n = org + n := by omega
  have hat : 16 * tgt + 16 * n = 16 * (tgt + n) := by omega
  unfold copiedWord
  rw [Claims.copied]
  simp only [hto, hfrom, hat]
  refine if_congr Iff.rfl rfl (Prod.ext (funext fun x => ?_) rfl)
  refine ite_congr rfl (fun hx => ?_) fun _ => rfl
  rw [show x - 16 * tgt + 16 * org = x - 16 * (tgt + n) + 16 * (org + n) by omega]

/-- Words beyond those copied keep their bytes. -/
theorem copied_outside (closed : Nat → Bool) (tgt org n : Nat) (m : (Nat → Byte) × (Nat → Bool)) {x : Nat} (hx : 16 * (tgt + n) ≤ x) :
    (Claims.copied closed (16 * tgt) (16 * org) n m).1 x = m.1 x := by
  induction n with
  | zero => rfl
  | succ n ih =>
    rw [copied_succ, copiedWord, ← ih (by omega)]
    split
    · rfl
    · exact if_neg fun h => by omega

theorem wordsOf_word {w : Nat} (hw : w < sliceBytes / 16) : wordsOf (16 * w) 16 = [w] := by
  have hone : (16 * w + 16 - 1) / 16 - 16 * w / 16 + 1 = 1 := by omega
  have hfirst : 16 * w / 16 = w := by omega
  rw [wordsOf, if_neg (by omega), hone, hfirst]
  simp [hw]

section
variable {s : State} {core : Nat} {d : Dev}

/-- The bytes of a word of the slice. -/
theorem Dev.wordBytes_eq {w : Nat} (hw : w < sliceBytes / 16) :
    d.wordBytes s core w = (List.range 16).map fun i => (d.memory s).get (pantryAddr core (16 * w + i)) := by
  have hcut : min 16 (sliceBytes - 16 * w) = 16 := by omega
  have hpast : 16 - (sliceBytes - 16 * w) = 0 := by omega
  simp [Dev.wordBytes, Dev.bytesOf, hcut, hpast, Mem.bytes, pantryAddr, Nat.add_assoc]

/-- The husk mark of a word after one was marked. -/
theorem Dev.husked_mark (d : Dev) (key : Nat) (b : Bool) (j : Nat) : (d.mark key b).husked j = if j = key then b else d.husked j :=
  Tab.get_put ..

theorem wordKey_inj {core v w : Nat} : wordKey core v = wordKey core w ↔ v = w := by
  simp [wordKey]

/-- A write of a whole word: where it enables every byte, and where it enables one (R127). -/
theorem wordPart_kept (closed : List (Nat × Nat)) (tgt : Nat) (bs : List Byte) (hbs : bs.length = 16) :
    (wordPart (16 * tgt) (keptBytes closed (16 * tgt) (bs.map some)) tgt).all Option.isSome =
        !(List.range 16).any (fun i => inRanges closed (16 * tgt + i))
      ∧ (wordPart (16 * tgt) (keptBytes closed (16 * tgt) (bs.map some)) tgt).any Option.isSome =
        !(List.range 16).all (fun i => inRanges closed (16 * tgt + i)) := by
  have hpart : (wordPart (16 * tgt) (keptBytes closed (16 * tgt) (bs.map some)) tgt).map Option.isSome =
      (List.range 16).map fun i => !inRanges closed (16 * tgt + i) := by
    rw [wordPart, List.map_map]
    refine List.map_congr_left fun i hi => ?_
    have hlt : i < bs.length := by rw [hbs]; exact List.mem_range.mp hi
    rw [Function.comp_apply, if_neg (by omega), show 16 * tgt + i - 16 * tgt = i by omega, keptBytes_getD]
    cases inRanges closed (16 * tgt + i) <;> simp [hlt]
  have hid (l : List (Option Byte)) : l.all Option.isSome = (l.map Option.isSome).all id ∧ l.any Option.isSome = (l.map Option.isSome).any id := by
    rw [List.all_map, List.any_map]
    exact ⟨rfl, rfl⟩
  rw [(hid _).1, (hid _).2, hpart, List.all_map, List.any_map, List.not_any_eq_all_not, List.not_all_eq_any_not]
  exact ⟨rfl, rfl⟩

/-- The husk marks after a core's write of a whole word (R127, R165). -/
theorem Dev.husked_coreWrite {tgt : Nat} (hto : tgt < sliceBytes / 16) (herr : Tab.get 0 d.chip.tow.errs (wordKey core tgt) ≠ 1000) {bs : List Byte}
    (hbs : bs.length = 16) (w : Nat) : (d.coreWrite core (16 * tgt) (bs.map some)).1.husked (wordKey core w) =
      if w = tgt then d.husked (wordKey core w) && (List.range 16).any fun i => inRanges (d.chip.core core).closed (16 * tgt + i)
      else d.husked (wordKey core w) := by
  obtain ⟨hall, hany⟩ := wordPart_kept (d.chip.core core).closed tgt bs hbs
  have hwrite : (d.coreWrite core (16 * tgt) (bs.map some)).1.husked (wordKey core w) =
      (d.writeWord core (16 * tgt) (keptBytes (d.chip.core core).closed (16 * tgt) (bs.map some)) tgt).husked (wordKey core w) := by
    rw [Dev.coreWrite_fst, Dev.pantryWrite_eq, keptBytes_length, List.length_map, hbs, wordsOf_word hto]
    rfl
  rw [hwrite, Dev.writeWord, hall, hany]
  cases hhit : (List.range 16).any fun i => inRanges (d.chip.core core).closed (16 * tgt + i) with
  | false =>
    rw [Bool.not_false, if_pos rfl, Dev.husked_mark, Bool.and_false]
    exact if_congr wordKey_inj rfl rfl
  | true =>
    rw [Bool.not_true, if_neg (by simp), Bool.and_true, ite_self]
    split
    · exact congrArg (Tab.get false · (wordKey core w)) (Dev.Met.eccWord herr).husk
    · rfl

end

/-! ## The words of a COPY, one after the other -/

/-- What a core's copy has made of its slice so far: the bytes and the husk marks are those of `m`. -/
structure CopyInv (s : State) (core : Nat) (d₀ d : Dev) (m : (Nat → Byte) × (Nat → Bool)) : Prop where
  stores : d₀.Stores core d
  bytes : ∀ a, (d.memory s).get (pantryAddr core a) = m.1 a
  below : ∀ x, x < pantryAddr core 0 → (d.memory s).get x = s.mem.get x
  husk : ∀ w, d.husked (wordKey core w) = m.2 w

section
variable {s : State} {core : Nat} {d₀ d : Dev} {m : (Nat → Byte) × (Nat → Bool)}

/-- Reading words without uncorrectable errors changes nothing of it. -/
theorem CopyInv.met (h : CopyInv s core d₀ d m) {e : Dev} (he : d.Met core e) : CopyInv s core d₀ e m := by
  have hmem : e.memory s = d.memory s := congrArg (Mem.apply s.mem) he.wr
  exact ⟨h.stores.trans he.stores, by rw [hmem]; exact h.bytes, by rw [hmem]; exact h.below,
    fun w => (congrArg (Tab.get false · (wordKey core w)) he.husk).trans (h.husk w)⟩

/-- A byte of the next word. -/
theorem CopyInv.source (h : CopyInv s core d₀ d m) {org : Nat} (horg : org < sliceBytes / 16) {i : Nat} (hi : i < 16) :
    (d.wordBytes s core org)[i]? = some (m.1 (16 * org + i)) := by
  rw [Dev.wordBytes_eq horg, List.getElem?_map, List.getElem?_range hi, Option.map_some, h.bytes]

theorem Dev.wordBytes_length {org : Nat} (horg : org < sliceBytes / 16) : (d.wordBytes s core org).length = 16 := by
  simp [Dev.wordBytes_eq horg]

/-- The next word of a husked source (R165). -/
theorem CopyInv.coreHusk (h : CopyInv s core d₀ d m) {tgt org : Nat} (horg : org < sliceBytes / 16) (hhusk : m.2 org = true) :
    CopyInv s core d₀ (d.coreHusk core tgt (d.wordBytes s core org)).1 (copiedWord (inRanges (d₀.chip.core core).closed) tgt org m) := by
  have hhit : (d.coreHusk core tgt (d.wordBytes s core org)).1 =
      if (List.range 16).all fun i => inRanges (d₀.chip.core core).closed (16 * tgt + i) then d
      else d.huskWord (wordKey core tgt) (d.wordBytes s core org) := by
    rw [← h.stores.core]
    exact if_congr (by rw [List.all_map]; rfl) rfl rfl
  rw [hhit, copiedWord]
  split
  · exact h
  · let e := d.huskWord (wordKey core tgt) (d.wordBytes s core org)
    have hmark := Dev.Stores.mark core d (wordKey core tgt) true
    have hstores : d.Stores core e := ⟨⟨⟨hmark.others, hmark.outer, hmark.used⟩, hmark.standing⟩, hmark.cores, hmark.errs⟩
    have hkey : 16 * wordKey core tgt = pantryAddr core (16 * tgt) := by unfold wordKey pantryAddr; omega
    have hget (x : Nat) : (e.memory s).get x = if pantryAddr core (16 * tgt) ≤ x ∧ x < pantryAddr core (16 * tgt) + 16
        then (d.wordBytes s core org).getD (x - pantryAddr core (16 * tgt)) 0 else (d.memory s).get x := by
      have hwrite : e.memory s = (d.memory s).write (16 * wordKey core tgt) (d.wordBytes s core org) := Mem.apply_append ..
      rw [hwrite, Mem.get_write, hkey, Dev.wordBytes_length horg]
    refine ⟨h.stores.trans hstores, fun a => ?_, fun x hx => ?_, fun w => ?_⟩
    · have hoff : pantryAddr core a - pantryAddr core (16 * tgt) = a - 16 * tgt := Nat.add_sub_add_left ..
      rw [hget, hoff, h.bytes]
      simp only [hhusk, true_or, and_true, pantryAddr, Nat.add_assoc, Nat.add_le_add_iff_left, Nat.add_lt_add_iff_left]
      refine ite_congr rfl (fun hx => ?_) fun _ => rfl
      rw [List.getD_eq_getElem?_getD, h.source horg (by omega), Option.getD_some, Nat.add_comm]
    · rw [hget, if_neg (by unfold pantryAddr at hx ⊢; omega), h.below x hx]
    · dsimp only
      rw [hhusk, Bool.true_or, ← h.husk]
      exact (Dev.husked_mark ..).trans (if_congr wordKey_inj rfl rfl)

/-- The next word of a sound source (R127, R165). -/
theorem CopyInv.coreWrite (h : CopyInv s core d₀ d m) {tgt org : Nat} (htgt : tgt < sliceBytes / 16) (horg : org < sliceBytes / 16)
    (herr : Tab.get 0 d₀.chip.tow.errs (wordKey core tgt) ≠ 1000) (hhusk : m.2 org = false) :
    CopyInv s core d₀ (d.coreWrite core (16 * tgt) ((d.wordBytes s core org).map some)).1
      (copiedWord (inRanges (d₀.chip.core core).closed) tgt org m) := by
  have hlen := Dev.wordBytes_length (d := d) (s := s) (core := core) horg
  have herr' := h.stores.errs_ne herr
  obtain ⟨hstores, hwr⟩ := Dev.Stores.coreWrite (d := d) (core := core) (a := 16 * tgt) (l := (d.wordBytes s core org).map some)
    (by simpa [hlen, wordsOf_word htgt] using herr') (by simp [hlen]; omega)
  let e := (d.coreWrite core (16 * tgt) ((d.wordBytes s core org).map some)).1
  have hget (x : Nat) : (e.memory s).get x =
      if pantryAddr core (16 * tgt) ≤ x ∧ inRanges (d₀.chip.core core).closed (x - pantryAddr core 0) = false
        then (((d.wordBytes s core org).map some).getD (x - pantryAddr core (16 * tgt)) none).getD ((d.memory s).get x)
        else (d.memory s).get x := by
    rw [← get_apply_kept, ← h.stores.core, Dev.memory, hwr, Mem.apply_append]
    rfl
  have hbyte (a : Nat) : (e.memory s).get (pantryAddr core a) =
      if (16 * tgt ≤ a ∧ a < 16 * tgt + 16) ∧ (m.2 org = true ∨ inRanges (d₀.chip.core core).closed a = false)
        then m.1 (a - 16 * tgt + 16 * org) else m.1 a := by
    have hoff : pantryAddr core a - pantryAddr core (16 * tgt) = a - 16 * tgt ∧ pantryAddr core a - pantryAddr core 0 = a :=
      ⟨Nat.add_sub_add_left .., by unfold pantryAddr; omega⟩
    rw [hget, hoff.1, hoff.2, h.bytes, List.getD_eq_getElem?_getD, List.getElem?_map]
    simp only [hhusk, Bool.false_eq_true, false_or, pantryAddr, Nat.add_le_add_iff_left]
    by_cases hx : 16 * tgt ≤ a ∧ a < 16 * tgt + 16
    · rw [h.source horg (by omega), Nat.add_comm (16 * org)]
      simp [hx]
    · by_cases hle : 16 * tgt ≤ a
      · have hpast : (d.wordBytes s core org)[a - 16 * tgt]? = none := List.getElem?_eq_none (by omega)
        rw [hpast, Option.map_none, Option.getD_none, Option.getD_none, ite_self, if_neg fun hall => hx hall.1]
      · rw [if_neg fun hall => hle hall.1, if_neg fun hall => hx hall.1]
  have hbelow (x : Nat) (hx : x < pantryAddr core 0) : (e.memory s).get x = s.mem.get x := by
    rw [hget, if_neg (by unfold pantryAddr at hx ⊢; omega), h.below x hx]
  have hmark (w : Nat) : e.husked (wordKey core w) =
      if w = tgt then m.2 org || (m.2 w && (List.range 16).any fun i => inRanges (d₀.chip.core core).closed (16 * tgt + i)) else m.2 w := by
    rw [Dev.husked_coreWrite htgt herr' hlen, h.stores.core, h.husk, hhusk, Bool.false_or]
  by_cases hall : ((List.range 16).all fun i => inRanges (d₀.chip.core core).closed (16 * tgt + i)) = true
  · rw [copiedWord, if_pos hall]
    refine ⟨h.stores.trans hstores, fun a => ?_, hbelow, fun w => ?_⟩
    · rw [hbyte]
      refine if_neg fun ⟨hhere, hopen⟩ => ?_
      have hclosed := List.all_eq_true.mp hall (a - 16 * tgt) (List.mem_range.mpr (by omega))
      rw [show 16 * tgt + (a - 16 * tgt) = a by omega] at hclosed
      simp [hhusk, hclosed] at hopen
    · have hany : ((List.range 16).any fun i => inRanges (d₀.chip.core core).closed (16 * tgt + i)) = true :=
        List.any_eq_true.mpr ⟨0, by simp, List.all_eq_true.mp hall 0 (by simp)⟩
      rw [hmark, hany, hhusk, Bool.false_or, Bool.and_true, ite_self]
  · rw [copiedWord, if_neg hall]
    exact ⟨h.stores.trans hstores, hbyte, hbelow, hmark⟩

/-- The next word of a copy. -/
theorem CopyInv.copyWord (h : CopyInv s core d₀ d m) {tgt org : Nat} (htgt : tgt < sliceBytes / 16) (horg : org < sliceBytes / 16)
    (herr : Tab.get 0 d₀.chip.tow.errs (wordKey core tgt) ≠ 1000) :
    CopyInv s core d₀ (d.copyWord core tgt org s).1 (copiedWord (inRanges (d₀.chip.core core).closed) tgt org m) := by
  unfold Dev.copyWord
  rw [h.husk]
  split
  · next hhusk => exact h.coreHusk horg hhusk
  · next hhusk => exact h.coreWrite htgt horg herr (Bool.not_eq_true _ ▸ hhusk)

end

/-- The words of a slice from one on hold no uncorrectable error (R167). -/
def CleanWords (core : Nat) (d : Dev) (first n : Nat) : Prop :=
  ∀ w, first ≤ w → w < first + n → w < sliceBytes / 16 ∧ Tab.get 0 d.chip.tow.errs (wordKey core w) ≠ 1000

section
variable {s : State} {core : Nat} {d₀ d : Dev} {m₀ : (Nat → Byte) × (Nat → Bool)} {tgt org n : Nat}

/-- What `n` words make of a slice (R127, R147, R165). -/
def copiedWords (d₀ : Dev) (core tgt org n : Nat) (m₀ : (Nat → Byte) × (Nat → Bool)) : (Nat → Byte) × (Nat → Bool) :=
  Claims.copied (inRanges (d₀.chip.core core).closed) (16 * tgt) (16 * org) n m₀

/-- The next `c` words of a copy. -/
theorem CopyInv.words (h : CopyInv s core d₀ d (copiedWords d₀ core tgt org n m₀)) (c : Nat) (htgt : CleanWords core d₀ tgt (n + c))
    (horg : CleanWords core d₀ org (n + c)) (lost : Bool) :
    CopyInv s core d₀ ((List.range c).foldl (fun (acc : Dev × Bool) i => ((acc.1.copyWord core (tgt + n + i) (org + n + i) s).1,
      acc.2 || (acc.1.copyWord core (tgt + n + i) (org + n + i) s).2)) (d, lost)).1 (copiedWords d₀ core tgt org (n + c) m₀) := by
  induction c with
  | zero => exact h
  | succ c ih =>
    have hprev := ih (fun w h1 h2 => htgt w h1 (by omega)) fun w h1 h2 => horg w h1 (by omega)
    obtain ⟨htgtw, herr⟩ := htgt (tgt + n + c) (by omega) (by omega)
    have hnext := hprev.copyWord htgtw (horg (org + n + c) (by omega) (by omega)).1 herr
    rw [Nat.add_assoc tgt, Nat.add_assoc org, copiedWords, ← copied_succ, ← Nat.add_assoc tgt, ← Nat.add_assoc org] at hnext
    rw [List.range_succ, List.foldl_append]
    exact hnext

/-- The next line of a copy (R147). -/
theorem CopyInv.line (h : CopyInv s core d₀ d (copiedWords d₀ core tgt org n m₀)) (htgt : CleanWords core d₀ tgt (n + 8))
    (horg : CleanWords core d₀ org (n + 8)) :
    CopyInv s core d₀ (copyLine core (16 * (tgt + n)) (16 * (org + n)) s d).1 (copiedWords d₀ core tgt org (n + 8) m₀) := by
  have hread : d.Met core (d.readWords core (16 * (org + n)) 128) := .foldl_eccWord _ fun w hw => by
    obtain ⟨-, hlo, hhi, -⟩ := mem_wordsOf.mp hw
    exact h.stores.errs_ne (horg w (by omega) (by omega)).2
  rw [copyLine_eq]
  exact (h.met hread).words 8 htgt horg false

/-- All the lines of a copy (R147). -/
theorem CopyInv.lines (h : CopyInv s core d₀ d₀ m₀) (lines : Nat) (htgt : CleanWords core d₀ tgt (8 * lines))
    (horg : CleanWords core d₀ org (8 * lines)) :
    CopyInv s core d₀ ((List.range lines).foldl (fun (acc : Dev × Bool) k =>
      ((copyLine core (16 * tgt + 128 * k) (16 * org + 128 * k) s acc.1).1,
        acc.2 || (copyLine core (16 * tgt + 128 * k) (16 * org + 128 * k) s acc.1).2)) (d₀, false)).1
      (copiedWords d₀ core tgt org (8 * lines) m₀) := by
  induction lines with
  | zero => exact h
  | succ j ih =>
    have hprev := ih (fun w h1 h2 => htgt w h1 (by omega)) fun w h1 h2 => horg w h1 (by omega)
    rw [List.range_succ, List.foldl_append, List.foldl_cons, List.foldl_nil, show 8 * (j + 1) = 8 * j + 8 by ring]
    rw [show 8 * (j + 1) = 8 * j + 8 by ring] at htgt horg
    have hline := hprev.line htgt horg
    rw [show 16 * (tgt + 8 * j) = 16 * tgt + 128 * j by ring, show 16 * (org + 8 * j) = 16 * org + 128 * j by ring] at hline
    dsimp only
    exact hline

end

end Sys2Proof.Machine

namespace Sys2Proof.Claims

open Sys2Proof.Machine

section
variable {s : State} {k : Fetch} {w : OpWord}

/-- The chip after a word whose operation starts at once and makes `e` of the device. -/
theorem unit_chip {cls op : Nat} (h : Starts s k cls op w) (hc : cls < 4) (ho : op < 256) {e : Dev}
    (he : opEffect k.core ((coreAt s k).capture cls op w true {}) s (started s k cls op w) = e) (hw : (started s k cls op w).Works k.core e)
    {t : State} (ht : runs s (unitWord cls op k w s) = .next t) : t.dev.chip = (e.onCore k.core Core.wentOn).chip := by
  obtain ⟨-, hissues, hfree, hgo⟩ := h
  have hstarts := unit_starts hc ho hissues hfree
  have hnext : e.next k.core = e.onCore k.core Core.wentOn :=
    next_of_core hgo rfl ((computes_started s k cls op w).toWorks.trans hw).standing
  have heq : t = commit s (e.next k.core) := by
    subst he
    exact Host.Outcome.next.inj (ht.symm.trans hstarts)
  rw [heq, commit_chip, hnext]

/-- What issue says of alignment (R135). -/
theorem issues_aligned {cls op : Nat} (h : issues s k cls op w = true) :
    (((coreAt s k).capture cls op w true {}).touches s.dev.chip.frm.cur).2 = true := by
  simp only [issues, Bool.and_eq_true] at h
  exact h.2

/-- The words of lines without uncorrectable errors. -/
theorem cleanWords_of_noUncorr {first n : Nat} (hin : 16 * first + 16 * n ≤ sliceBytes) (hno : noUncorr s k (16 * first) (16 * n) = true)
    (cls op : Nat) (w : OpWord) : CleanWords k.core (started s k cls op w) first n := by
  intro x hlo hhi
  have hx : x < sliceBytes / 16 := by omega
  exact ⟨hx, noUncorr_started hno cls op w x (mem_wordsOf.mpr ⟨by omega, by omega, by omega, hx⟩)⟩

/-- COPY (R127, R147, R165). -/
theorem copy_done (h : Starts s k 0 0x07 w) (hsrc : noUncorr s k (srcOf s k w) (128 * w.h) = true)
    (hdst : noUncorr s k (addrOf s k w) (128 * w.h) = true) : ∃ t, exec (.copy k w) s = .next t
    ∧ (let m := copied (inRanges (coreAt s k).closed) (addrOf s k w) (srcOf s k w) (8 * w.h)
          (fun a => s.mem.get (pantryAddr k.core a), fun x => s.dev.husked (wordKey k.core x))
       (∀ a, a < sliceBytes → t.mem.get (pantryAddr k.core a) = m.1 a)
        ∧ ∀ x, x < sliceBytes / 16 → t.dev.husked (wordKey k.core x) = m.2 x)
    ∧ (∀ a, a < pantryAddr k.core 0 ∨ pantryAddr k.core 0 + sliceBytes ≤ a → t.mem.get a = s.mem.get a)
    ∧ SameFiles s t k ∧ GoesOn s t k := by
  have hpos : 0 < w.h := by simpa [valuesOk] using valuesOk_of_legal (issues_legal h.2.1)
  have hind := issues_inside h.2.1 (r := (addrOf s k w, 128 * w.h)) List.mem_cons_self (by show 0 < 128 * w.h; omega)
  have hins := issues_inside h.2.1 (r := (srcOf s k w, 128 * w.h)) (List.mem_cons_of_mem _ List.mem_cons_self) (by show 0 < 128 * w.h; omega)
  have haligned : addrOf s k w % 128 = 0 ∧ srcOf s k w % 128 = 0 := by
    have hall : [(addrOf s k w, 128 * w.h), (srcOf s k w, 128 * w.h)].all (fun x => x.1 % 128 = 0) = true := issues_aligned h.2.1
    simpa using hall
  have htgt : 16 * (addrOf s k w / 16) = addrOf s k w := by omega
  have horg : 16 * (srcOf s k w / 16) = srcOf s k w := by omega
  have hwords : 16 * (8 * w.h) = 128 * w.h := by ring
  let d₀ := started s k 0 0x07 w
  let m₀ : (Nat → Byte) × (Nat → Bool) := (fun a => s.mem.get (pantryAddr k.core a), fun x => s.dev.husked (wordKey k.core x))
  have hmem₀ : d₀.memory s = s.mem := by rw [Dev.memory, started_wr s k 0 0x07 w h.1.wr, Mem.apply_nil]
  have hinv₀ : CopyInv s k.core d₀ d₀ m₀ := by
    refine ⟨.refl .., fun a => by rw [hmem₀], fun x _ => by rw [hmem₀], fun x => ?_⟩
    exact (congrArg (fun c : Chip => Tab.get false c.tow.husk (wordKey k.core x)) (computes_started s k 0 0x07 w).chip :)
  have hinv := hinv₀.lines w.h (cleanWords_of_noUncorr (first := addrOf s k w / 16) (by rw [htgt, hwords]; exact hind)
    (by rw [htgt, hwords]; exact hdst) 0 0x07 w) (cleanWords_of_noUncorr (first := srcOf s k w / 16) (by rw [horg, hwords]; exact hins)
    (by rw [horg, hwords]; exact hsrc) 0 0x07 w)
  rw [copiedWords, started_closed, htgt, horg] at hinv
  let r := (List.range w.h).foldl (fun (acc : Dev × Bool) j =>
    ((copyLine k.core (addrOf s k w + 128 * j) (srcOf s k w + 128 * j) s acc.1).1,
      acc.2 || (copyLine k.core (addrOf s k w + 128 * j) (srcOf s k w + 128 * j) s acc.1).2)) (d₀, false)
  have heff : opEffect k.core ((coreAt s k).capture 0 0x07 w true {}) s d₀ = r.1.dropped k.core r.2 := rfl
  have hdropped := Dev.Computes.dropped k.core k.core r.1 r.2
  have hworks := hinv.stores.toWorks.trans hdropped.toWorks
  obtain ⟨t, hrun, hgo, hfiles, -, hmem, -⟩ := unit_works h (by omega) (by omega) heff hworks
  have hchip := unit_chip h (by omega) (by omega) heff hworks hrun
  have htmem : t.mem = r.1.memory s := hmem.trans (congrArg s.mem.apply hdropped.wr)
  have hhusk (x : Nat) : t.dev.husked (wordKey k.core x) = r.1.husked (wordKey k.core x) := by
    rw [Dev.husked, hchip]
    show Tab.get false (r.1.dropped k.core r.2).chip.tow.husk _ = _
    rw [Dev.dropped_chip]
    rfl
  refine ⟨t, hrun, ⟨fun a _ => by rw [htmem]; exact hinv.bytes a, fun x _ => by rw [hhusk]; exact hinv.husk x⟩, fun a ha => ?_,
    sameFiles_of_files (by rw [hfiles, Dev.dropped_chip, hinv.stores.core]; exact started_files ..), hgo⟩
  rw [htmem]
  obtain hlow | hhigh := ha
  · exact hinv.below a hlow
  · have hat : a = pantryAddr k.core (a - pantryAddr k.core 0) := by
      unfold pantryAddr at hhigh ⊢
      omega
    rw [hat, hinv.bytes, ← htgt, ← horg, copied_outside _ _ _ _ _ (by omega)]

end

/-- Settles O3: SETD replaces a field, COPY copies the words of its lines one after the other. -/
theorem setdAndCopy : Obligations.SetdAndCopy := by
  unfold Obligations.SetdAndCopy
  intro s k w
  exact ⟨setd_done, copy_done⟩

end Sys2Proof.Claims
end

section
/-! PROOF. The bank moves of MAT: CLR, TOV, FROMV and ROWSCALE (R148). -/

namespace Sys2Proof.Machine

/-! ## Lanes of 32 bits -/

/-- A lane of 32 bits as a number (R152). -/
theorem lane32_toNat (v : BitVec 2048) (l : Nat) : (lane32 v l).toNat = lane 0 v l := by
  show bitsOf v.toNat (32 * l) 32 % 2 ^ 32 = bitsOf v.toNat (32 * l) 32
  exact Nat.mod_mod _ _

theorem ofLanes32_eq (l : List Word) : ofLanes32 l = ofLanes 0 (l.map BitVec.toNat) := by
  rw [ofLanes32, ofLanes, List.flatMap_map]
  rfl

/-- A lane of a register built from words. -/
theorem lane_ofLanes32 {l : List Word} (hn : l.length ≤ 64) {i : Nat} (hi : i < 64) : lane 0 (ofLanes32 l) i = (l.getD i 0).toNat := by
  have hcount : laneCount 0 = 64 := by decide
  rw [ofLanes32_eq, lane_ofLanes_le (by simpa [hcount] using hn) (by rw [hcount]; exact hi)]
  simp only [List.getD_eq_getElem?_getD, List.getElem?_map]
  cases l[i]? with
  | none => rfl
  | some x => exact Nat.mod_eq_of_lt x.isLt

/-! ## Banks written cell by cell -/

/-- A row of a bank after its first entries were written. -/
theorem Bank.at'_foldl_row (b : Bank) (r : Nat) (f : Nat → BitVec 48) {n : Nat} (hn : n ≤ 64) (i : Nat) {j : Nat} (hj : j < 64) :
    ((List.range n).foldl (fun b j => b.set r j (f j)) b).at' i j = if i = r ∧ j < n then f j else b.at' i j := by
  induction n with
  | zero => simp
  | succ n ih =>
    rw [List.range_succ, List.foldl_append, List.foldl_cons, List.foldl_nil, Bank.at'_set _ _ _ _ _ _ (by omega) hj, ih (by omega)]
    by_cases hr : i = r
    · by_cases hlast : j = n
      · simp [hr, hlast]
      · have hlt : j < n + 1 ↔ j < n := by omega
        simp [hr, hlast, hlt]
    · simp [hr]

/-- A bank after its first entries were written, counted row by row, with what else was gathered. -/
theorem Bank.at'_foldl_cells (b : Bank) (f : Nat → BitVec 48) (g : Nat → Nat) (n x i : Nat) {j : Nat} (hj : j < 64) :
    ((List.range n).foldl (fun (acc : Bank × Nat) c => (acc.1.set (c / 64) (c % 64) (f c), acc.2 ||| g c)) (b, x)).1.at' i j =
      if 64 * i + j < n then f (64 * i + j) else b.at' i j := by
  induction n with
  | zero => simp
  | succ n ih =>
    rw [List.range_succ, List.foldl_append, List.foldl_cons, List.foldl_nil, Bank.at'_set _ _ _ _ _ _ (Nat.mod_lt _ (by omega)) hj, ih]
    by_cases hlast : 64 * i + j = n
    · rw [if_pos (by omega), if_pos (by omega), hlast]
    · have hlt : 64 * i + j < n + 1 ↔ 64 * i + j < n := by omega
      rw [if_neg (by omega), if_congr hlt rfl rfl]

end Sys2Proof.Machine

namespace Sys2Proof.Claims

open Sys2Proof.Machine

section
variable {s : State} {k : Fetch} {cls op : Nat} {w : OpWord}

/-- An operation that writes one bank and may set flags. -/
theorem bank_done (h : Starts s k cls op w) (hc : cls < 4) (ho : op < 256) {f : Core → Bank} {mask i : Nat} {v : Bank}
    (hv : f ((started s k cls op w).chip.core k.core) = v)
    (he : opEffect k.core ((coreAt s k).capture cls op w true {}) s (started s k cls op w) =
      ((started s k cls op w).onCore k.core fun c => c.wrB i (f c)).coreFlags k.core mask) :
    ∃ t, runs s (unitWord cls op k w s) = .next t ∧ (coreAt t k).rdB i = v ∧ OnlyB s t k i ∧ OnlyGoesOn s t k := by
  obtain ⟨t, hrun, hfiles, hgo⟩ := unit_computes h hc ho he ((Dev.Computes.onCore _ _ _ (Core.wrB_standing ..)).trans (.coreFlags ..))
  have hwrote : (coreAt t k).files = ((coreAt s k).wrB i v).files := by
    rw [hfiles, Dev.coreFlags_files, core_onCore, if_pos rfl, hv]
    exact Core.wrB_of_files (started_files ..) _ _
  exact ⟨t, hrun, by rw [Core.rdB_of_files hwrote, Core.rdB_wrB, if_pos rfl], onlyB_of_files hwrote, hgo⟩

/-- CLR (R148). -/
theorem clr_done (h : Starts s k 1 0x05 w) : ∃ t, exec (.clr k w) s = .next t
    ∧ (coreAt t k).rdB (opIdx w.f0) = Bank.cleared (bitOf w.i 18) 0x3F800000 0x3F800000 ∧ OnlyB s t k (opIdx w.f0) ∧ OnlyGoesOn s t k :=
  bank_done h (by omega) (by omega) (f := fun _ => Bank.cleared (bitOf w.i 18) 0x3F800000 0x3F800000) (mask := 0) rfl rfl

/-- TOV (R148). -/
theorem tov_done (h : Starts s k 1 0x07 w) : ∃ t, exec (.tov k w) s = .next t
    ∧ (∀ j, j < 64 → lane 0 ((coreAt t k).rdW (opIdx w.f0)) j = (((coreAt s k).rdB (opIdx w.f1)).at' w.h j).toNat % 2 ^ 32)
    ∧ OnlyW s t k (opIdx w.f0) ∧ OnlyGoesOn s t k := by
  let v := ofLanes32 ((List.range 64).map fun j => (((coreAt s k).rdB (opIdx w.f1)).at' w.h j).truncate 32)
  have heff : opEffect k.core ((coreAt s k).capture 1 0x07 w true {}) s (started s k 1 0x07 w) =
      (started s k 1 0x07 w).onCore k.core fun c =>
        c.wrW (opIdx w.f0) (ofLanes32 ((List.range 64).map fun j => ((c.rdB (opIdx w.f1)).at' w.h j).truncate 32)) := rfl
  obtain ⟨t, hrun, hfiles, hgo⟩ := unit_computes h (by omega) (by omega) heff (.onCore _ _ _ (Core.wrW_standing ..))
  have hwrote : (coreAt t k).files = ((coreAt s k).wrW (opIdx w.f0) v).files := by
    rw [hfiles, core_onCore, if_pos rfl, started_rdB]
    exact Core.wrW_of_files (started_files ..) _ _
  refine ⟨t, hrun, fun j hj => ?_, onlyW_of_files hwrote, hgo⟩
  rw [Core.rdW_of_files hwrote, Core.rdW_wrW, if_pos rfl, lane_ofLanes32 (by simp) hj]
  simp [hj]

/-- FROMV (R148). -/
theorem fromv_done (h : Starts s k 1 0x08 w) : ∃ t, exec (.fromv k w) s = .next t
    ∧ (∀ i j, j < 64 → (((coreAt t k).rdB (opIdx w.f0)).at' i j).toNat =
        if i = w.h then lane 0 ((coreAt s k).rdW (opIdx w.f1)) j else (((coreAt s k).rdB (opIdx w.f0)).at' i j).toNat)
    ∧ OnlyB s t k (opIdx w.f0) ∧ OnlyGoesOn s t k := by
  let v : BitVec 2048 := (coreAt s k).rdW (opIdx w.f1)
  obtain ⟨t, hrun, hv, honly, hgo⟩ := bank_done h (by omega) (by omega) (f := fun c =>
      (List.range 64).foldl (fun b j => b.set w.h j ((lane32 (c.rdW (opIdx w.f1)) j).zeroExtend 48)) (c.rdB (opIdx w.f0)))
    (mask := 0) (i := opIdx w.f0) (by rw [started_rdW, started_rdB]) rfl
  refine ⟨t, hrun, fun i j hj => ?_, honly, hgo⟩
  rw [hv, Bank.at'_foldl_row _ _ _ (Nat.le_refl 64) i hj]
  by_cases hi : i = w.h
  · rw [if_pos ⟨hi, hj⟩, if_pos hi, BitVec.toNat_setWidth_of_le (by omega), lane32_toNat]
  · rw [if_neg fun hrow => hi hrow.1, if_neg hi]

/-- ROWSCALE (R148). -/
theorem rowscale_done (h : Starts s k 1 0x06 w) : ∃ t, exec (.rowscale k w) s = .next t
    ∧ (∀ i j, i < 32 → j < 64 → (((coreAt t k).rdB (opIdx w.f0)).at' i j) =
        ((mulF32 ((((coreAt s k).rdB (opIdx w.f0)).at' i j).truncate 32) (lane32 ((coreAt s k).rdW (opIdx w.f1)) i)).1.zeroExtend 48 : BitVec 48))
    ∧ OnlyB s t k (opIdx w.f0) ∧ OnlyGoesOn s t k := by
  let b := (coreAt s k).rdB (opIdx w.f0)
  let x (c : Nat) := mulF32 ((b.at' (c / 64) (c % 64)).truncate 32) (lane32 ((coreAt s k).rdW (opIdx w.f1)) (c / 64))
  let r := (List.range 2048).foldl (fun (acc : Bank × Nat) c => (acc.1.set (c / 64) (c % 64) ((x c).1.zeroExtend 48), acc.2 ||| (x c).2)) (b, 0)
  have hop (d : Dev) : opEffect k.core ((coreAt s k).capture 1 0x06 w true {}) s d = opRowscale k.core ((coreAt s k).capture 1 0x06 w true {}) s d := by
    simp [opEffect, effectMat]
  obtain ⟨t, hrun, hv, honly, hgo⟩ := bank_done h (by omega) (by omega) (f := fun _ => r.1) (mask := r.2) (i := opIdx w.f0) rfl (by
    rw [hop, opRowscale]
    simp only [capture_w, started_rdW, started_rdB]
    rfl)
  refine ⟨t, hrun, fun i j hi hj => ?_, honly, hgo⟩
  rw [hv, Bank.at'_foldl_cells b _ _ _ _ i hj, if_pos (by omega)]
  have hcell : (64 * i + j) / 64 = i ∧ (64 * i + j) % 64 = j := by omega
  simp only [x, hcell.1, hcell.2, b]

end

/-- Settles O4: what each word leaves in its bank or vector register. -/
theorem bankMoves : Obligations.BankMoves := by
  unfold Obligations.BankMoves
  intro s k w
  refine ⟨fun h => ?_, tov_done, fromv_done, rowscale_done⟩
  obtain ⟨t, hrun, hbank, honly, hgo⟩ := clr_done h
  refine ⟨t, hrun, ?_, ?_, ?_, ?_, honly, hgo⟩ <;> rw [hbank]
  · exact fun _ _ => rfl
  · rfl
  · rfl
  · rfl

end Sys2Proof.Claims
end

section
/-! PROOF. Integer lanes and choices between lanes (R152). -/

namespace Sys2Proof.Machine

/-! ## Two's complement -/

/-- A pattern and the integer that it stands for agree in their low bits. -/
theorem toSigned_modEq (n a : Nat) : toSigned n a ≡ (a : Int) [ZMOD ((2 ^ n : Nat) : Int)] := by
  have hmod : ((a % 2 ^ n : Nat) : Int) ≡ a [ZMOD ((2 ^ n : Nat) : Int)] := by
    rw [Int.natCast_mod]
    exact Int.mod_modEq _ _
  unfold toSigned
  split
  · exact hmod
  · exact (Int.sub_modulus_modEq_iff ..).mpr hmod

/-- The pattern of an integer is known by its low bits. -/
theorem ofSigned_of_modEq {n m : Nat} {z : Int} (h : z ≡ (m : Int) [ZMOD ((2 ^ n : Nat) : Int)]) : ofSigned n z = m % 2 ^ n := by
  rw [ofSigned, h.eq, ← Int.natCast_mod, Int.toNat_natCast]

end Sys2Proof.Machine

namespace Sys2Proof.Claims

open Sys2Proof.Machine

section
variable {s : State} {k : Fetch} {op : Nat} {w : OpWord}

/-- A lane of the second source is a value of its width. -/
theorem laneB_lt (ty l : Nat) : laneB s k w ty l < 2 ^ laneBits ty := by
  unfold laneB
  split
  · exact Nat.mod_lt _ (Nat.two_pow_pos _)
  · exact lane_lt ..

/-- An operation that makes each lane from those of its two sources (R152). -/
theorem vecMap2_done (h : Starts s k 2 op w) (ho : op < 256) (hf2 : ((opForm 2 op w).getD {}).f2 = vsrc w) {g : Nat → Nat → Nat → LaneOut}
    (he : opEffect k.core ((coreAt s k).capture 2 op w true {}) s (started s k 2 op w) =
      writeLanes k.core ((coreAt s k).capture 2 op w true {}) (laneTy w) ((List.range (laneCount (laneTy w))).map fun l =>
        g l ((lanes (laneTy w) (((started s k 2 op w).chip.core k.core).rdW (opIdx w.f1))).getD l 0)
          ((src2 ((started s k 2 op w).chip.core k.core) ((coreAt s k).capture 2 op w true {}) (laneTy w)).getD l 0)) (started s k 2 op w))
    {f : Nat → Nat} (hf : ∀ l, (g l (laneA s k w (laneTy w) l) (laneB s k w (laneTy w) l)).1 % 2 ^ laneBits (laneTy w) =
      f l % 2 ^ laneBits (laneTy w)) :
    ∃ t, runs s (unitWord 2 op k w s) = .next t ∧ VecDone s t k w f := by
  refine vec_done h ho (.refl ..) rfl he (by simp) fun l hl => ?_
  simp only [List.getD_eq_getElem?_getD, List.getElem?_map, List.getElem?_range hl, Option.map_some, Option.getD_some]
  simp only [← List.getD_eq_getElem?_getD, started_lane _ hl, src2_getD hf2 hl]
  exact hf l

/-- An integer operation, as an operation on the low bits of its sources (R152). -/
theorem vecInt2_done (h : Starts s k 2 op w) (ho : op < 256) (hf2 : ((opForm 2 op w).getD {}).f2 = vsrc w) {g : Int → Int → Int}
    (he : ∀ d, opEffect k.core ((coreAt s k).capture 2 op w true {}) s d = vecInt2 k.core ((coreAt s k).capture 2 op w true {}) (fun _ => g) d)
    {f : Nat → Nat} (hf : ∀ l, g (toSigned (laneBits (laneTy w)) (laneA s k w (laneTy w) l)) (toSigned (laneBits (laneTy w)) (laneB s k w (laneTy w) l))
      ≡ (f l : Int) [ZMOD ((2 ^ laneBits (laneTy w) : Nat) : Int)]) :
    ∃ t, runs s (unitWord 2 op k w s) = .next t ∧ VecDone s t k w f :=
  vecMap2_done h ho hf2 (g := fun _ x y => (ofSigned (laneBits (laneTy w)) (g (toSigned (laneBits (laneTy w)) x) (toSigned (laneBits (laneTy w)) y)), 0))
    (he _) fun l => by rw [ofSigned_of_modEq (hf l), Nat.mod_mod]

/-- An operation on the bits of its sources (R152). -/
theorem vecBit2_done (h : Starts s k 2 op w) (ho : op < 256) (hf2 : ((opForm 2 op w).getD {}).f2 = vsrc w) {g : Nat → Nat → Nat → Nat}
    (he : ∀ d, opEffect k.core ((coreAt s k).capture 2 op w true {}) s d = vecBit2 k.core ((coreAt s k).capture 2 op w true {}) g d)
    {f : Nat → Nat} (hf : ∀ l, g (laneBits (laneTy w)) (laneA s k w (laneTy w) l) (laneB s k w (laneTy w) l) % 2 ^ laneBits (laneTy w) =
      f l % 2 ^ laneBits (laneTy w)) :
    ∃ t, runs s (unitWord 2 op k w s) = .next t ∧ VecDone s t k w f :=
  vecMap2_done h ho hf2 (g := fun _ x y => (g (laneBits (laneTy w)) x y % 2 ^ laneBits (laneTy w), 0)) (he _) fun l => by
    rw [Nat.mod_mod, hf l]

end

/-- Settles O8: the arithmetic is that of the low bits, the rest acts on them bit by bit. -/
theorem integerLanes : Obligations.IntegerLanes := by
  unfold Obligations.IntegerLanes
  intro s k w ty n a b
  have ha (l : Nat) : toSigned n (a l) ≡ (a l : Int) [ZMOD ((2 ^ n : Nat) : Int)] := toSigned_modEq ..
  have hb (l : Nat) : toSigned n (b l) ≡ (b l : Int) [ZMOD ((2 ^ n : Nat) : Int)] := toSigned_modEq ..
  refine ⟨fun h => ?_, fun h => ?_, fun h => ?_, fun h => ?_, fun h => ?_, fun h => ?_, fun h => ?_, fun h => ?_⟩
  · refine vecInt2_done h (by omega) rfl (g := (· + ·)) (fun _ => rfl) fun l => ?_
    push_cast
    exact (ha l).add (hb l)
  · refine vecInt2_done h (by omega) rfl (g := (· - ·)) (fun _ => rfl) fun l => ?_
    have hle : b l ≤ 2 ^ n := (laneB_lt ..).le
    have hcast : ((a l + (2 ^ n - b l) : Nat) : Int) = (a l : Int) - b l + ((2 ^ n : Nat) : Int) := by omega
    rw [hcast]
    exact ((ha l).sub (hb l)).trans (Int.add_modulus_modEq_iff.mpr rfl).symm
  · refine vecInt2_done h (by omega) rfl (g := (· * ·)) (fun _ => rfl) fun l => ?_
    push_cast
    exact (ha l).mul (hb l)
  · exact vecBit2_done h (by omega) rfl (g := fun _ x y => x &&& y) (fun _ => rfl) fun _ => rfl
  · exact vecBit2_done h (by omega) rfl (g := fun _ x y => x ||| y) (fun _ => rfl) fun _ => rfl
  · exact vecBit2_done h (by omega) rfl (g := fun _ x y => x ^^^ y) (fun _ => rfl) fun _ => rfl
  · refine vecBit2_done h (by omega) rfl (fun _ => rfl) fun l => ?_
    show shlBits n (a l) (b l) % 2 ^ n = _
    unfold shlBits
    split
    · rfl
    · rw [Nat.mod_mod, Nat.shiftLeft_eq]
  · refine vecBit2_done h (by omega) rfl (fun _ => rfl) fun l => ?_
    simp [sraBits, ofSigned, n, a, b, ty]

section
variable {s : State} {k : Fetch} {op : Nat} {w : OpWord}

/-- VEC MIN and VEC MAX (R152). -/
theorem vecPick_done (h : Starts s k 2 op w) (ho : op < 256) (hf2 : ((opForm 2 op w).getD {}).f2 = vsrc w) {choose : FV → FV → FV}
    (he : ∀ d, opEffect k.core ((coreAt s k).capture 2 op w true {}) s d = vecPick k.core ((coreAt s k).capture 2 op w true {}) choose d) :
    ∃ t, runs s (unitWord 2 op k w s) = .next t
      ∧ VecDone s t k w fun l => (pickLane (laneTy w) choose (laneA s k w (laneTy w) l) (laneB s k w (laneTy w) l)).1 :=
  vecMap2_done h ho hf2 (g := fun _ => pickLane (laneTy w) choose) (he _) fun _ => rfl

/-- SEL (R152). -/
theorem sel_done (h : Starts s k 2 0x08 w) : ∃ t, exec (.sel k w) s = .next t
    ∧ VecDone s t k w fun l => if ((coreAt s k).rdM (opIdx w.f3)).getLsbD l then laneA s k w (laneTy w) l else laneB s k w (laneTy w) l := by
  refine vecMap2_done h (by omega) rfl (g := fun l x y => (if ((coreAt s k).rdM (opIdx w.f3)).getLsbD l then x else y, 0)) ?_ fun _ => rfl
  have hop (d : Dev) : opEffect k.core ((coreAt s k).capture 2 0x08 w true {}) s d = opSel k.core ((coreAt s k).capture 2 0x08 w true {}) s d := by
    simp [opEffect, effectVec]
  rw [hop, opSel]
  simp only [capture_w, started_rdM]

/-- The bits that VEC_CMP puts into a mask (R152). -/
def cmpBits (s : State) (k : Fetch) (w : OpWord) (l : Nat) : Bool :=
  enabled s k w l && condFV (bitsOf w.i 0 3) ((laneFmt (laneTy w)).decode (laneA s k w (laneTy w) l))
    ((laneFmt (laneTy w)).decode (laneB s k w (laneTy w) l))

/-- A mask number depends on the bits of its lanes. -/
theorem maskOf_congr {n : Nat} {p q : Nat → Bool} (h : ∀ i, i < n → p i = q i) : maskOf n p = maskOf n q :=
  Nat.eq_of_testBit_eq fun i => by
    rw [testBit_maskOf, testBit_maskOf]
    by_cases hi : i < n
    · rw [h i hi]
    · simp [hi]

/-- VEC_CMP (R152). -/
theorem vecCmp_done (h : Starts s k 2 0x07 w) : ∃ t, exec (.vecCmp k w) s = .next t
    ∧ (∀ l, l < 128 → ((coreAt t k).rdM (opIdx w.f0)).getLsbD l =
        if opIdx w.f0 = 0 then true else decide (l < laneCount (laneTy w)) && cmpBits s k w l)
    ∧ OnlyM s t k (opIdx w.f0) ∧ OnlyGoesOn s t k := by
  let v : BitVec 128 := BitVec.ofNat 128 (maskOf (laneCount (laneTy w)) (cmpBits s k w))
  have heff : opEffect k.core ((coreAt s k).capture 2 0x07 w true {}) s (started s k 2 0x07 w) =
      (started s k 2 0x07 w).onCore k.core fun c => c.wrM (opIdx w.f0) v := by
    have hop (d : Dev) : opEffect k.core ((coreAt s k).capture 2 0x07 w true {}) s d = opVecCmp k.core ((coreAt s k).capture 2 0x07 w true {}) s d := by
      simp [opEffect, effectVec]
    simp only [hop, opVecCmp, capture_w]
    rw [maskOf_congr (q := cmpBits s k w) fun l hl => ?_]
    rw [started_lane _ hl, src2_getD rfl hl, started_rdM]
    rfl
  obtain ⟨t, hrun, hfiles, hgo⟩ := unit_computes h (by omega) (by omega) heff (.onCore _ _ _ (by simp [Core.standing]))
  have hwrote : (coreAt t k).files = ((coreAt s k).wrM (opIdx w.f0) v).files := by
    rw [hfiles, core_onCore, if_pos rfl]
    exact Core.wrM_of_files (started_files ..) _ _
  refine ⟨t, hrun, fun l hl => ?_, onlyM_of_files hwrote, hgo⟩
  rw [Core.rdM_of_files hwrote, Core.rdM_wrM, if_pos rfl]
  split
  · rw [BitVec.getLsbD_allOnes, decide_eq_true hl]
  · rw [BitVec.getLsbD_ofNat, decide_eq_true hl, Bool.true_and, testBit_maskOf]

end

/-- Settles O9: each word chooses between the lanes of its sources, or compares them into a mask. -/
theorem laneChoices : Obligations.LaneChoices := by
  unfold Obligations.LaneChoices
  intro s k w ty a b
  refine ⟨fun h => ?_, fun h => ?_, sel_done, fun h => ?_⟩
  · exact vecPick_done h (by omega) rfl fun _ => rfl
  · exact vecPick_done h (by omega) rfl fun _ => rfl
  · obtain ⟨t, hrun, hmask, honly, hgo⟩ := vecCmp_done h
    exact ⟨t, hrun, fun l hl => by rw [hmask l hl, cmpBits, Bool.and_assoc], honly, hgo⟩

end Sys2Proof.Claims
end

section
/-! PROOF. Reductions of bank rows and of expert vectors (R153, R158, R160). -/

namespace Sys2Proof.Machine

/-! ## The low lanes of a vector register -/

/-- The lanes that `setLow` does not replace. -/
theorem lane_setLow_ge {ty : Nat} (old : BitVec 2048) {xs : List Nat} {l : Nat} (hl : l < laneCount ty) (h : xs.length ≤ l) :
    lane ty (setLow ty old xs) l = lane ty old l := by
  rw [setLow, lane_ofLanes _ _ (by simp; omega) _ hl, List.getD_append_right _ _ _ _ h, List.getD_eq_getElem?_getD, List.getElem?_drop,
    Nat.add_sub_cancel' h, ← List.getD_eq_getElem?_getD, lanes_getD _ _ _ hl, Nat.mod_eq_of_lt (lane_lt ..)]

/-- A lane of 32 bits after the low ones were replaced. -/
theorem lane_low32 (v : BitVec 2048) {xs : List Word} (hn : xs.length ≤ 64) {l : Nat} (hl : l < 64) :
    lane 0 (low32 v xs) l = if l < xs.length then (xs.getD l 0).toNat else lane 0 v l := by
  have hcount : laneCount 0 = 64 := by decide
  unfold low32
  split
  · next h =>
    rw [lane_setLow _ (by simpa [hcount] using hn) (by simpa using h)]
    simp only [List.getD_eq_getElem?_getD, List.getElem?_map, List.getElem?_eq_getElem h, Option.map_some, Option.getD_some]
    exact Nat.mod_eq_of_lt (BitVec.isLt _)
  · next h => exact lane_setLow_ge _ (by rw [hcount]; exact hl) (by simpa using Nat.le_of_not_lt h)

/-- A word of a register after the low ones were replaced. -/
theorem lane32_low32 (v : BitVec 2048) {xs : List Word} (hn : xs.length ≤ 64) {l : Nat} (hl : l < xs.length) : lane32 (low32 v xs) l = xs.getD l 0 :=
  BitVec.eq_of_toNat_eq (by rw [lane32_toNat, lane_low32 v hn (by omega), if_pos hl])

/-! ## Captured scalars -/

section
variable {c : Core} {cls op : Nat} {w : OpWord}

theorem capture_sc2 (h : ((opForm cls op w).getD {}).f2 = src .s) : (c.capture cls op w true {}).sc.getD 2 0 = c.rdS (opIdx w.f2) := by
  simp [Core.capture, h, src]

theorem capture_sc3 (h : ((opForm cls op w).getD {}).f3 = src .s) : (c.capture cls op w true {}).sc.getD 3 0 = c.rdS (opIdx w.f3) := by
  simp [Core.capture, h, src]

/-- The further scalars that an operation captures (R141). -/
theorem capture_sx {x y : Nat} (h : ((opForm cls op w).getD {}).sx = [x, y]) :
    (c.capture cls op w true {}).sc.getD 4 0 = c.rdS x ∧ (c.capture cls op w true {}).sc.getD 5 0 = c.rdS y := by
  simp [Core.capture, h]

end

end Sys2Proof.Machine

namespace Sys2Proof.Claims

open Sys2Proof.Machine

section
variable {s : State} {k : Fetch} {op : Nat} {w : OpWord}

/-! ## BROWMAX and BROWSUM -/

/-- The entries of a row that a bank reduction takes (R153). -/
def bankRow (s : State) (k : Fetch) (w : OpWord) (i : Nat) : List Word :=
  (List.range (min ((coreAt s k).rdS (opIdx w.f2)).toNat 64)).map fun j => (((coreAt s k).rdB (opIdx w.f1)).at' i j).truncate 32

/-- A reduction of the rows of an FP32 bank (R153). -/
theorem bankRows_done (h : Starts s k 3 op w) (ho : op < 256) (hf2 : ((opForm 3 op w).getD {}).f2 = src .s)
    (hfp : ((coreAt s k).rdB (opIdx w.f1)).isInt = false) {f : List Word → Word × Nat}
    (he : ∀ d, opEffect k.core ((coreAt s k).capture 3 op w true {}) s d = bankRows k.core ((coreAt s k).capture 3 op w true {}) f d) :
    ∃ t, runs s (unitWord 3 op k w s) = .next t
      ∧ (∀ l, l < 64 → lane 0 ((coreAt t k).rdW (opIdx w.f0)) l =
          if l < 32 then (f (bankRow s k w l)).1.toNat else lane 0 ((coreAt s k).rdW (opIdx w.f0)) l)
      ∧ OnlyW s t k (opIdx w.f0) ∧ OnlyGoesOn s t k := by
  let rs := (List.range 32).map fun i => f (bankRow s k w i)
  have heff : opEffect k.core ((coreAt s k).capture 3 op w true {}) s (started s k 3 op w) =
      ((started s k 3 op w).onCore k.core fun c => c.wrW (opIdx w.f0) (low32 (c.rdW (opIdx w.f0)) (rs.map Prod.fst))).coreFlags k.core
        (orAll (rs.map Prod.snd)) := by
    rw [he, bankRows]
    simp only [capture_w, started_rdB, hfp, capture_sc2 hf2]
    rfl
  obtain ⟨t, hrun, hfiles, hgo⟩ := unit_computes h (by omega) ho heff ((Dev.Computes.onCore _ _ _ (Core.wrW_standing ..)).trans (.coreFlags ..))
  have hwrote : (coreAt t k).files =
      ((coreAt s k).wrW (opIdx w.f0) (low32 ((coreAt s k).rdW (opIdx w.f0)) (rs.map Prod.fst))).files := by
    rw [hfiles, Dev.coreFlags_files, core_onCore, if_pos rfl, started_rdW]
    exact Core.wrW_of_files (started_files ..) _ _
  refine ⟨t, hrun, fun l hl => ?_, onlyW_of_files hwrote, hgo⟩
  have hlen : (rs.map Prod.fst).length = 32 := by simp [rs]
  rw [Core.rdW_of_files hwrote, Core.rdW_wrW, if_pos rfl, lane_low32 _ (by omega) hl, hlen]
  refine ite_congr rfl (fun h32 => ?_) fun _ => rfl
  simp [rs, h32]

/-! ## SMX -/

/-- A core after an SMX: P in the bank, the new maxima, sums and corrections in the low lanes (R158). -/
def smxPut (w : OpWord) (b : Bank) (mu l cs : List Word) (c : Core) : Core :=
  let c := c.wrB (opIdx w.f1) b
  let c := c.wrW (opIdx w.f0) (low32 (c.rdW (opIdx w.f0)) mu)
  let c := c.wrW (opIdx w.f2) (low32 (c.rdW (opIdx w.f2)) l)
  c.wrW (opIdx w.f3) (low32 (c.rdW (opIdx w.f3)) cs)

theorem smxPut_of_files {c c' : Machine.Core} (h : c.files = c'.files) (w : OpWord) (b : Bank) (mu l cs : List Word) :
    (smxPut w b mu l cs c).files = (smxPut w b mu l cs c').files := by
  unfold smxPut
  dsimp only
  have hb := Core.wrB_of_files h (opIdx w.f1) b
  have h0 := Core.wrW_of_files hb (opIdx w.f0) (low32 ((c.wrB (opIdx w.f1) b).rdW (opIdx w.f0)) mu)
  rw [Core.rdW_of_files hb] at h0 ⊢
  have h2 := Core.wrW_of_files h0 (opIdx w.f2) (low32 (((c.wrB (opIdx w.f1) b).wrW (opIdx w.f0)
    (low32 ((c'.wrB (opIdx w.f1) b).rdW (opIdx w.f0)) mu)).rdW (opIdx w.f2)) l)
  rw [Core.rdW_of_files h0] at h2 ⊢
  rw [Core.rdW_of_files h2]
  exact Core.wrW_of_files h2 _ _

theorem smxPut_standing (w : OpWord) (b : Bank) (mu l cs : List Word) (c : Machine.Core) : (smxPut w b mu l cs c).standing = c.standing := by
  unfold smxPut
  rw [Core.wrW_standing, Core.wrW_standing, Core.wrW_standing, Core.wrB_standing]

theorem smxPut_rdB (w : OpWord) (b : Bank) (mu l cs : List Word) (c : Machine.Core) (j : Nat) :
    (smxPut w b mu l cs c).rdB j = if j = opIdx w.f1 then b else c.rdB j := Core.rdB_wrB ..

/-- What SMX makes of the rows of a bank (R158). -/
def smxRows (u : UOp) (c : Machine.Core) : List SmxRow := (List.range 32).map fun i =>
  smxRow (u.sc.getD 5 0) ((List.range 64).map fun j => ((c.rdB (opIdx u.w.f1)).at' i j).truncate 32) (min (u.sc.getD 4 0).toNat 64)
    (lane32 (c.rdW (opIdx u.w.f0)) i) (lane32 (c.rdW (opIdx u.w.f2)) i)

/-- The bank that SMX leaves of `b`: P, with tag 1.0 (R158). -/
def smxBank (b : Bank) (rows : List SmxRow) : Bank :=
  { ent := (rows.flatMap SmxRow.p).zipIdx.foldl (fun t p => Tab.put 0 t p.2 (p.1.zeroExtend 48)) []
    tagA := 0x3F800000, tagB := 0x3F800000, isInt := b.isInt }

/-- A core after an SMX with these rows. -/
def smxDone (w : OpWord) (b : Bank) (rows : List SmxRow) (c : Machine.Core) : Machine.Core :=
  smxPut w (smxBank b rows) (rows.map SmxRow.mu) (rows.map SmxRow.l) (rows.map SmxRow.c) c

/-- SMX over an FP32 bank, as a change of its core. -/
theorem opSmx_fp32 (core : Nat) (u : UOp) (s : State) (d : Dev) (h : ((d.chip.core core).rdB (opIdx u.w.f1)).isInt = false) :
    opSmx core u s d = (d.onCore core (smxDone u.w ((d.chip.core core).rdB (opIdx u.w.f1)) (smxRows u (d.chip.core core)))).coreFlags core
      (orAll ((smxRows u (d.chip.core core)).map SmxRow.flags)) := by
  unfold opSmx
  exact if_neg (by simp [h])

/-- What SMX makes of a row (R158). -/
def smxOf (s : State) (k : Fetch) (w : OpWord) (i : Nat) : SmxRow :=
  smxRow ((coreAt s k).rdS (bitsOf w.h 8 8)) ((List.range 64).map fun j => (((coreAt s k).rdB (opIdx w.f1)).at' i j).truncate 32)
    (min ((coreAt s k).rdS (bitsOf w.h 0 8)).toNat 64) (lane32 ((coreAt s k).rdW (opIdx w.f0)) i) (lane32 ((coreAt s k).rdW (opIdx w.f2)) i)

theorem smxRows_started : smxRows ((coreAt s k).capture 3 0x08 w true {}) ((started s k 3 0x08 w).chip.core k.core) =
    (List.range 32).map (smxOf s k w) := by
  have hsx := capture_sx (c := coreAt s k) (cls := 3) (op := 0x08) (w := w) (x := bitsOf w.h 0 8) (y := bitsOf w.h 8 8) rfl
  simp only [smxRows, capture_w, started_rdB, started_rdW, hsx.1, hsx.2]
  rfl

/-- A list of what SMX makes of the rows. -/
theorem smxOf_getD {i : Nat} (hi : i < 32) (f : SmxRow → Word) : (((List.range 32).map (smxOf s k w)).map f).getD i 0 = f (smxOf s k w i) := by
  simp [hi]

/-- SMX over an FP32 bank (R158). -/
theorem smx_done (h : Starts s k 3 0x08 w) (hfp : ((coreAt s k).rdB (opIdx w.f1)).isInt = false) (h02 : opIdx w.f0 ≠ opIdx w.f2)
    (h03 : opIdx w.f0 ≠ opIdx w.f3) (h23 : opIdx w.f2 ≠ opIdx w.f3) : ∃ t, exec (.smx k w) s = .next t
    ∧ (∀ i, i < 32 → lane32 ((coreAt t k).rdW (opIdx w.f0)) i = (smxOf s k w i).mu
        ∧ lane32 ((coreAt t k).rdW (opIdx w.f2)) i = (smxOf s k w i).l ∧ lane32 ((coreAt t k).rdW (opIdx w.f3)) i = (smxOf s k w i).c)
    ∧ ((coreAt t k).rdB (opIdx w.f1)).tagA = 0x3F800000 ∧ ((coreAt t k).rdB (opIdx w.f1)).tagB = 0x3F800000
    ∧ (∀ j, j ≠ opIdx w.f1 → (coreAt t k).rdB j = (coreAt s k).rdB j) ∧ OnlyGoesOn s t k := by
  let b := (coreAt s k).rdB (opIdx w.f1)
  let rows := (List.range 32).map (smxOf s k w)
  have hop (d : Dev) : opEffect k.core ((coreAt s k).capture 3 0x08 w true {}) s d = opSmx k.core ((coreAt s k).capture 3 0x08 w true {}) s d := by
    simp [opEffect, effectRed]
  have heff : opEffect k.core ((coreAt s k).capture 3 0x08 w true {}) s (started s k 3 0x08 w) =
      ((started s k 3 0x08 w).onCore k.core (smxDone w b rows)).coreFlags k.core (orAll (rows.map SmxRow.flags)) := by
    rw [hop, opSmx_fp32 _ _ _ _ (by rw [capture_w, started_rdB]; exact hfp), smxRows_started, capture_w, started_rdB]
  obtain ⟨t, hrun, hfiles, hgo⟩ := unit_computes h (by omega) (by omega) heff
    ((Dev.Computes.onCore _ _ _ (smxPut_standing ..)).trans (.coreFlags ..))
  have hwrote : (coreAt t k).files = (smxDone w b rows (coreAt s k)).files := by
    rw [hfiles, Dev.coreFlags_files, core_onCore, if_pos rfl]
    exact smxPut_of_files (started_files ..) ..
  have hbank (j : Nat) : (coreAt t k).rdB j = if j = opIdx w.f1 then smxBank b rows else (coreAt s k).rdB j := by
    rw [Core.rdB_of_files hwrote]
    exact smxPut_rdB ..
  have hlen (f : SmxRow → Word) : (rows.map f).length = 32 := by simp [rows]
  have hlane (v : BitVec 2048) (f : SmxRow → Word) {i : Nat} (hi : i < 32) : lane32 (low32 v (rows.map f)) i = f (smxOf s k w i) := by
    rw [lane32_low32 _ (by rw [hlen]; omega) (by rw [hlen]; exact hi), smxOf_getD hi]
  refine ⟨t, hrun, fun i hi => ⟨?_, ?_, ?_⟩, by rw [hbank, if_pos rfl]; rfl, by rw [hbank, if_pos rfl]; rfl,
    fun j hj => by rw [hbank, if_neg hj], hgo⟩
  · rw [Core.rdW_of_files hwrote, smxDone, smxPut, Core.rdW_wrW, if_neg h03, Core.rdW_wrW, if_neg h02, Core.rdW_wrW, if_pos rfl, hlane _ _ hi]
  · rw [Core.rdW_of_files hwrote, smxDone, smxPut, Core.rdW_wrW, if_neg h23, Core.rdW_wrW, if_pos rfl, hlane _ _ hi]
  · rw [Core.rdW_of_files hwrote, smxDone, smxPut, Core.rdW_wrW, if_pos rfl, hlane _ _ hi]

/-! ## MOEC -/

/-- The lane type of MOEC (R160). -/
def moecTy (t : Desc) : Nat := if t.format = .bf16 then 1 else 0

/-- One step of the sum of a lane: a gated vector's lane joins with one rounding (R160). -/
def moecStep (t : Desc) (g : BitVec 2048) (v : List Nat) (l : Nat) (a : Word) (e : Nat) : Word :=
  BitVec.ofNat 32 (convert .fp32 (((f32 (lane32 g e)).mul (t.format.decode (v.getD l 0))).add (f32 a)) false none).1

/-- A lane of MOEC's result, from the elements of each vector (R160). -/
def moecLane (t : Desc) (g : BitVec 2048) (vs : List (List Nat)) (l : Nat) : LaneOut :=
  let terms := vs.mapIdx fun e v => (f32 (lane32 g e), t.format.decode (v.getD l 0))
  let acc := terms.foldl (fun (a : Word × Nat) p =>
    let r := (p.1.mul p.2).add (f32 a.1)
    let k := convert .fp32 r false none
    (BitVec.ofNat 32 k.1, a.2 ||| k.2 ||| nvFlag r [p.1, p.2, f32 a.1])) ((0 : Word), 0)
  let k := convert t.format (f32 acc.1) false none
  (k.1, acc.2 ||| k.2)

/-- The lanes of MOEC's result. -/
def moecLanes (t : Desc) (g : BitVec 2048) (vs : List (List Nat)) : List LaneOut := (List.range (laneCount (moecTy t))).map (moecLane t g vs)

/-- The elements of the first `n` vectors. -/
def moecVectors (t : Desc) (n : Nat) (bytes : Nat → List Byte) : List (List Nat) :=
  (List.range n).map fun e => unpackElems t.format.bits (laneCount (moecTy t)) (bytes e)

/-- The value of a lane: the gated vectors added one after the other (R160). -/
theorem moecLane_value (t : Desc) (g : BitVec 2048) (n : Nat) (bytes : Nat → List Byte) (l : Nat) :
    (moecLane t g (moecVectors t n bytes) l).1 = (convert t.format (f32 ((List.range n).foldl (fun a e =>
      moecStep t g (unpackElems t.format.bits (laneCount (moecTy t)) (bytes e)) l a e) 0)) false none).1 := by
  have hterms : (moecVectors t n bytes).mapIdx (fun e v => (f32 (lane32 g e), t.format.decode (v.getD l 0))) =
      (List.range n).map fun e => (f32 (lane32 g e), t.format.decode ((unpackElems t.format.bits (laneCount (moecTy t)) (bytes e)).getD l 0)) := by
    refine List.ext_getElem (by simp [moecVectors]) fun e _ _ => ?_
    simp [moecVectors]
  unfold moecLane
  dsimp only
  rw [hterms, List.foldl_map]
  congr 2
  rw [← List.foldl_hom Prod.fst (g₂ := fun a e => moecStep t g (unpackElems t.format.bits (laneCount (moecTy t)) (bytes e)) l a e)
    fun _ _ => rfl]

/-- F0 takes the lanes of a MOEC, and the flags that they set (R160). -/
def moecPut (core : Nat) (w : OpWord) (t : Desc) (outs : List LaneOut) (d : Dev) : Dev :=
  (d.onCore core fun c => c.wrW (opIdx w.f0) (ofLanes (moecTy t) (outs.map Prod.fst))).coreFlags core (orAll (outs.map Prod.snd))

theorem opMoec_eq (core : Nat) (u : UOp) (s : State) (d : Dev) : opMoec core u s d =
    let t := (Desc.ofBits (u.ds.getD 1 0)).pingPong d.chip.frm.cur
    d.consumeAll core u.pc s (fun d => moecPut core u.w t (moecLanes t ((d.chip.core core).rdW (opIdx u.w.f2))
      (moecVectors t (bitsOf u.w.h 0 4) fun e => d.bytesOf s core (moecAddr u t e) 256)) d)
      ((List.range (bitsOf u.w.h 0 4)).map fun e => (moecAddr u t e, 256)) := rfl

/-- The tile that a MOEC names (R135, R160). -/
def moecTile (s : State) (k : Fetch) (w : OpWord) : Desc := (Desc.ofBits ((coreAt s k).rdD (opIdx w.f1))).pingPong s.dev.chip.frm.cur

/-- The address of a vector of a MOEC (R160). -/
def moecAt (s : State) (k : Fetch) (w : OpWord) (e : Nat) : Nat :=
  (moecTile s k w).base + e * (moecTile s k w).stride + ((coreAt s k).rdS (opIdx w.f3)).toNat

theorem moecAddr_capture (e : Nat) : moecAddr ((coreAt s k).capture 3 0x09 w true {}) (moecTile s k w) e = moecAt s k w e := by
  rw [moecAddr, capture_sc3 rfl, moecAt]

/-- What a MOEC writes (R160). -/
def moecOuts (s : State) (k : Fetch) (w : OpWord) : List LaneOut :=
  moecLanes (moecTile s k w) ((coreAt s k).rdW (opIdx w.f2))
    (moecVectors (moecTile s k w) (bitsOf w.h 0 4) fun e => sliceAt s k (moecAt s k w e) 256)

/-- Every vector that a MOEC reads lies in the slice (R135). -/
theorem moecAt_inside (h : Starts s k 3 0x09 w) {e : Nat} (he : e < bitsOf w.h 0 4) : moecAt s k w e + 256 ≤ sliceBytes := by
  have htouch : (((coreAt s k).capture 3 0x09 w true {}).touches s.dev.chip.frm.cur).1 =
      (List.range (bitsOf w.h 0 4)).map fun e => (moecAt s k w e, 256) := by
    simp only [UOp.touches, capture_cls, capture_op, capture_w, capture_ds1 (c := coreAt s k) (cls := 3) (op := 0x09) (w := w) rfl]
    exact List.map_congr_left fun e _ => by rw [← moecAddr_capture]; rfl
  exact issues_inside h.2.1 (r := (moecAt s k w e, 256)) (by rw [htouch]; exact List.mem_map_of_mem (List.mem_range.mpr he)) (by simp)

/-- MOEC over sound vectors (R160). -/
theorem opMoec_sound (h : Starts s k 3 0x09 w) (hsound : ∀ e, e < bitsOf w.h 0 4 → sound s k (moecAt s k w e) 256 = true) :
    ∃ e, (started s k 3 0x09 w).Met k.core e ∧ opEffect k.core ((coreAt s k).capture 3 0x09 w true {}) s (started s k 3 0x09 w) =
      moecPut k.core w (moecTile s k w) (moecOuts s k w) e := by
  have hop (d : Dev) : opEffect k.core ((coreAt s k).capture 3 0x09 w true {}) s d = opMoec k.core ((coreAt s k).capture 3 0x09 w true {}) s d := by
    simp [opEffect, effectRed]
  have hds : ((coreAt s k).capture 3 0x09 w true {}).ds.getD 1 0 = (coreAt s k).rdD (opIdx w.f1) := capture_ds1 rfl
  have htile : (Desc.ofBits ((coreAt s k).rdD (opIdx w.f1))).pingPong s.dev.chip.frm.cur = moecTile s k w := rfl
  rw [hop, opMoec_eq]
  dsimp only
  simp only [capture_w, hds, started_frm, htile, moecAddr_capture]
  obtain ⟨e, hmet, hall⟩ := Dev.consumeAll_sound (pc := ((coreAt s k).capture 3 0x09 w true {}).pc) s (fun d =>
      moecPut k.core w (moecTile s k w) (moecLanes (moecTile s k w) ((d.chip.core k.core).rdW (opIdx w.f2))
        (moecVectors (moecTile s k w) (bitsOf w.h 0 4) fun e => d.bytesOf s k.core (moecAt s k w e) 256)) d)
    ((List.range (bitsOf w.h 0 4)).map fun e => (moecAt s k w e, 256)) (d := started s k 3 0x09 w) fun r hr => by
      obtain ⟨e, he, rfl⟩ := List.mem_map.mp hr
      exact sound_started (hsound e (List.mem_range.mp he)) 3 0x09 w
  have hread : moecVectors (moecTile s k w) (bitsOf w.h 0 4) (fun i => e.bytesOf s k.core (moecAt s k w i) 256) =
      moecVectors (moecTile s k w) (bitsOf w.h 0 4) fun i => sliceAt s k (moecAt s k w i) 256 :=
    List.map_congr_left fun i hi => congrArg (unpackElems _ _)
      (Dev.bytesOf_inside (hmet.wr.trans (started_wr s k 3 0x09 w h.1.wr)) s k.core (moecAt_inside h (List.mem_range.mp hi)))
  refine ⟨e, hmet, hall.trans ?_⟩
  rw [hmet.core, started_rdW, hread, moecOuts]

/-- MOEC (R160). -/
theorem moec_done (h : Starts s k 3 0x09 w) (hsound : ∀ e, e < bitsOf w.h 0 4 → sound s k (moecAt s k w e) 256 = true) :
    ∃ t, exec (.moec k w) s = .next t
      ∧ (∀ l, l < laneCount (moecTy (moecTile s k w)) → lane (moecTy (moecTile s k w)) ((coreAt t k).rdW (opIdx w.f0)) l =
          (convert (moecTile s k w).format (f32 ((List.range (bitsOf w.h 0 4)).foldl (fun a e => moecStep (moecTile s k w)
            ((coreAt s k).rdW (opIdx w.f2)) (unpackElems (moecTile s k w).format.bits (laneCount (moecTy (moecTile s k w)))
              (sliceAt s k (moecAt s k w e) 256)) l a e) 0)) false none).1 % 2 ^ laneBits (moecTy (moecTile s k w)))
      ∧ OnlyW s t k (opIdx w.f0) ∧ GoesOn s t k ∧ SameMemory s t := by
  obtain ⟨e, hmet, heff⟩ := opMoec_sound h hsound
  have hcomp : e.Computes k.core (moecPut k.core w (moecTile s k w) (moecOuts s k w) e) :=
    (Dev.Computes.onCore _ _ _ (Core.wrW_standing ..)).trans (.coreFlags ..)
  obtain ⟨t, hrun, hgo, hfiles, -, hmem, -⟩ := unit_works h (by omega) (by omega) heff (hmet.toWorks.trans hcomp.toWorks)
  have hwrote : (coreAt t k).files =
      ((coreAt s k).wrW (opIdx w.f0) (ofLanes (moecTy (moecTile s k w)) ((moecOuts s k w).map Prod.fst))).files := by
    rw [hfiles, moecPut, Dev.coreFlags_files, core_onCore, if_pos rfl, hmet.core]
    exact Core.wrW_of_files (started_files ..) _ _
  refine ⟨t, hrun, fun l hl => ?_, onlyW_of_files hwrote, hgo, fun a => ?_⟩
  · have hlen : ((moecOuts s k w).map Prod.fst).length = laneCount (moecTy (moecTile s k w)) := by simp [moecOuts, moecLanes]
    rw [Core.rdW_of_files hwrote, Core.rdW_wrW, if_pos rfl, lane_ofLanes _ _ hlen _ hl, getD_map_fst, moecOuts, moecLanes,
      List.getD_eq_getElem _ _ (by simpa using hl), List.getElem_map, List.getElem_range, moecLane_value]
  · rw [hmem, hcomp.wr, hmet.wr, started_wr s k 3 0x09 w h.1.wr, Mem.apply_nil]

end

/-- Settles O14: what each reduction leaves in its registers. -/
theorem bankReductions : Obligations.BankReductions := by
  unfold Obligations.BankReductions
  intro s k w b n row
  refine ⟨fun h hfp => ?_, fun h hfp => ?_, fun h hfp h02 h03 h23 => smx_done h hfp h02 h03 h23, fun h => ?_⟩
  · exact bankRows_done h (by omega) rfl hfp (f := fun l => (toF32 (maxF32 (.inf true) l), 0)) fun d => by
      simp [opEffect, effectRed, opBrowmax]
  · exact bankRows_done h (by omega) rfl hfp (f := fun l => (sumAsc l, sumFlags (sumAsc l) l)) fun d => by
      simp [opEffect, effectRed, opBrowsum]
  · intro d ty at' hsound
    exact moec_done h hsound

end Sys2Proof.Claims
end

section
/-! PROOF. The pantry port: conflicts, the Hall's writes and collisions (R143, R164, R169 to R172). -/

namespace Sys2Proof.Machine

/-! ## The masters of a port cycle -/

/-- The masters that ask in a port cycle: of a core's two sides, where both ask, the one whose operation was issued earlier (R143, R169). -/
def portMasters (c : Chip) (core reqs : Nat) : List Nat :=
  (bitList 5 reqs).filter fun m => !(bitOf reqs 0 && bitOf reqs 1 && m = (c.core core).waitingSide)

theorem waitingSide_lt (c : Core) : c.waitingSide < 2 := by
  unfold Core.waitingSide
  dsimp only
  split
  · split <;> decide
  · decide
  · decide

theorem mem_bitList {n v m : Nat} : m ∈ bitList n v ↔ m < n ∧ v.testBit m = true := by simp [bitList]

theorem bitList_nodup (n v : Nat) : (bitList n v).Nodup := List.nodup_range.filter _

/-- A core of one side asks as itself. -/
theorem portMasters_one {c : Chip} {core reqs : Nat} (h : ¬ (bitOf reqs 0 = true ∧ bitOf reqs 1 = true)) : portMasters c core reqs = bitList 5 reqs := by
  refine List.filter_eq_self.mpr fun m _ => ?_
  rw [← Bool.and_eq_true, Bool.not_eq_true] at h
  rw [h, Bool.false_and, Bool.not_false]

/-- A core of both sides asks once. -/
theorem portMasters_both {c : Chip} {core reqs : Nat} (h : bitOf reqs 0 = true ∧ bitOf reqs 1 = true) :
    portMasters c core reqs = (bitList 5 reqs).erase (c.core core).waitingSide := by
  rw [(bitList_nodup 5 reqs).erase_eq_filter]
  refine List.filter_congr fun m _ => ?_
  rw [h.1, h.2, Bool.and_self, Bool.true_and, bne, beq_eq_decide]

/-- The later side is one of those that ask. -/
theorem length_portMasters_both {c : Chip} {core reqs : Nat} (h : bitOf reqs 0 = true ∧ bitOf reqs 1 = true) :
    (portMasters c core reqs).length = (bitList 5 reqs).length - 1 := by
  have hmem : (c.core core).waitingSide ∈ bitList 5 reqs := by
    have hlt := waitingSide_lt (c.core core)
    refine mem_bitList.mpr ⟨by omega, ?_⟩
    obtain h0 | h1 : (c.core core).waitingSide = 0 ∨ (c.core core).waitingSide = 1 := by omega
    · rw [h0]
      exact h.1
    · rw [h1]
      exact h.2
  rw [portMasters_both h, List.length_erase, if_pos hmem]

/-! ## The counts of conflicts -/

/-- The key of a conflict count (R164, R188). -/
theorem conflictKey_eq {m : Nat} (h : m < 5) (t k : Nat) :
    cntKey (conflictFld m) t 0 k = (k * 2 ^ 26 + 0x200310 + 4 * m + 0x80000 * t) * 32 ∧ (conflictFld m).w = 32 := by
  interval_cases m <;> simp [cntKey, regKey, Fld.addrOf, conflictFld, F.TOW_PAN_CONFLICT_MAT, F.TOW_PAN_CONFLICT_VEC, F.TOW_PAN_CONFLICT_HRX,
    F.TOW_PAN_CONFLICT_HTX, F.TOW_PAN_CONFLICT_DBG] <;> ring

/-- Another count than those of conflicts. -/
def OtherCount (t k key : Nat) : Prop := ∀ m, m < 5 → key ≠ cntKey (conflictFld m) t 0 k

theorem otherCount_collide (t k : Nat) : OtherCount t k (cntKey F.TOW_PAN_COLLIDE t 0 k) := by
  intro m hm
  rw [(conflictKey_eq hm t k).1]
  simp only [cntKey, regKey, Fld.addrOf, F.TOW_PAN_COLLIDE]
  omega

/-- Conflicts counted change the counts alone, each by one (R170). -/
theorem foldl_conflicts (t k : Nat) (ms : List Nat) (hlt : ∀ m ∈ ms, m < 5) (hnd : ms.Nodup) (d : Dev) :
    ∃ cnt tot, ms.foldl (fun d m => d.count (conflictFld m) 1 t 0 k) d = { d with cnt := cnt, tot := tot }
      ∧ (∀ m ∈ ms, (Tab.get {} cnt (cntKey (conflictFld m) t 0 k)).n =
          satAdd (conflictFld m).w (Tab.get {} d.cnt (cntKey (conflictFld m) t 0 k)).n 1)
      ∧ ∀ key, (∀ m ∈ ms, key ≠ cntKey (conflictFld m) t 0 k) → Tab.get {} cnt key = Tab.get {} d.cnt key := by
  induction ms generalizing d with
  | nil => exact ⟨d.cnt, d.tot, rfl, by simp, fun _ _ => rfl⟩
  | cons m ms ih =>
    obtain ⟨hm, hnd⟩ := List.nodup_cons.mp hnd
    have hkeys (x : Nat) (hx : x ∈ ms) : cntKey (conflictFld m) t 0 k ≠ cntKey (conflictFld x) t 0 k := by
      have hne : m ≠ x := fun heq => hm (heq ▸ hx)
      rw [(conflictKey_eq (hlt m (by simp)) t k).1, (conflictKey_eq (hlt x (by simp [hx])) t k).1]
      omega
    obtain ⟨cnt, tot, heq, hcounts, hkeeps⟩ := ih (fun x hx => hlt x (by simp [hx])) hnd (d.count (conflictFld m) 1 t 0 k)
    refine ⟨cnt, tot, heq, fun x hx => ?_, fun key hkey => ?_⟩
    · obtain rfl | hx := List.mem_cons.mp hx
      · rw [hkeeps _ hkeys]
        simp [Dev.count, Tab.get_upd]
      · rw [hcounts x hx]
        simp only [Dev.count, Tab.get_upd, if_neg (hkeys x hx).symm]
    · rw [hkeeps key fun x hx => hkey x (by simp [hx])]
      simp only [Dev.count, Tab.get_upd, if_neg (hkey m (by simp))]

/-- The device after the conflicts of a port cycle were counted (R170). -/
def Dev.conflicts (core reqs : Nat) (d : Dev) : Dev :=
  if 2 ≤ (portMasters d.chip core reqs).length then
    (portMasters d.chip core reqs).foldl (fun d m => d.count (conflictFld m) 1 (towerOf core) 0 (coreSel core)) d
  else d

/-- A collision of a core's write with the Hall's, counted and flagged (R171). -/
def Dev.collided (core : Nat) (b : Bool) (d : Dev) : Dev :=
  if b then (d.count F.TOW_PAN_COLLIDE 1 (towerOf core) 0 (coreSel core)).flag F.TOW_PAN_STATUS_COLLIDE (towerOf core) 0 (coreSel core) else d

section
variable (core : Nat) (b : Bool) (d : Dev)

theorem Dev.collided_chip : (d.collided core b).chip = d.chip := by
  unfold Dev.collided
  split <;> rfl

theorem Dev.collided_wr : (d.collided core b).wr = d.wr := by
  unfold Dev.collided
  split <;> rfl

theorem Dev.collided_outer : (d.collided core b).outerParts = d.outerParts ∧ (d.collided core b).injUsed = d.injUsed := by
  unfold Dev.collided
  split <;> exact ⟨rfl, rfl⟩

/-- A collision counts among collisions alone (R171). -/
theorem Dev.collided_cnt {key : Nat} (h : key ≠ cntKey F.TOW_PAN_COLLIDE (towerOf core) 0 (coreSel core)) :
    Tab.get {} (d.collided core b).cnt key = Tab.get {} d.cnt key := by
  unfold Dev.collided
  split
  · simp only [Dev.flag, Dev.count, Tab.get_upd, if_neg h]
  · rfl

end

section
variable {core reqs w : Nat} {bytes : List Byte} {husk : Bool} {other : Option Nat}

theorem portGrant_none (h : core < 4096) (hp : core % 32 < 17) (d : Dev) : portGrant core reqs none other d = d.conflicts core reqs := by
  unfold portGrant
  rw [if_neg (by omega)]
  rfl

theorem portGrant_hrx (h : core < 4096) (hp : core % 32 < 17) (h2 : bitOf reqs 2 = true) (h4 : bitOf reqs 4 = false) (hw : w < sliceBytes / 16)
    (hb : bytes.length = 16) (d : Dev) : portGrant core reqs (some (w, bytes, husk)) other d =
      ((d.conflicts core reqs).hrxWord core w bytes husk).collided core ((bitOf reqs 0 || bitOf reqs 1) && other = some w) := by
  have hpad : padTo 16 0 bytes = bytes := by simp [padTo, hb]
  have hword : ¬ ((!bitOf reqs 2) = true ∨ sliceBytes / 16 ≤ w) := by
    rw [h2]
    simp only [Bool.not_true, Bool.false_eq_true, false_or]
    omega
  unfold portGrant
  rw [if_neg (by omega)]
  dsimp only
  rw [if_neg hword, hpad, h4]
  rfl

/-- Conflicts counted change the counts alone: of each master that asks, if at least two do (R170). -/
theorem Dev.conflicts_eq (core reqs : Nat) (d : Dev) : ∃ cnt tot, d.conflicts core reqs = { d with cnt := cnt, tot := tot }
    ∧ (2 ≤ (portMasters d.chip core reqs).length → ∀ m ∈ portMasters d.chip core reqs,
        (Tab.get {} cnt (cntKey (conflictFld m) (towerOf core) 0 (coreSel core))).n =
          satAdd (conflictFld m).w (Tab.get {} d.cnt (cntKey (conflictFld m) (towerOf core) 0 (coreSel core))).n 1)
    ∧ ((portMasters d.chip core reqs).length < 2 → cnt = d.cnt)
    ∧ ∀ key, OtherCount (towerOf core) (coreSel core) key → Tab.get {} cnt key = Tab.get {} d.cnt key := by
  have hlt (m : Nat) (hm : m ∈ portMasters d.chip core reqs) : m < 5 := (mem_bitList.mp (List.mem_filter.mp hm).1).1
  have hnd : (portMasters d.chip core reqs).Nodup := (bitList_nodup 5 reqs).filter _
  unfold Dev.conflicts
  split
  · next h =>
    obtain ⟨cnt, tot, heq, hcounts, hkeeps⟩ := foldl_conflicts (towerOf core) (coreSel core) _ hlt hnd d
    exact ⟨cnt, tot, heq, fun _ => hcounts, fun hlow => by omega, fun key hkey => hkeeps key fun m hm => hkey m (hlt m hm)⟩
  · next h => exact ⟨d.cnt, d.tot, rfl, fun hhigh => absurd hhigh h, fun _ => rfl, fun _ _ => rfl⟩

end

end Sys2Proof.Machine

namespace Sys2Proof.Claims

open Sys2Proof.Machine

/-- What the statement says of the conflicts of a port cycle. -/
def ConflictsCounted (s t : State) (core reqs : Nat) : Prop :=
  let both : Prop := bitOf reqs 0 = true ∧ bitOf reqs 1 = true
  (¬ both → 2 ≤ (bitList 5 reqs).length → ∀ m, m < 5 → bitOf reqs m = true → counted s t 1 (conflictFld m) (towerOf core) 0 (coreSel core))
    ∧ (both → reqs % 32 = 3 → t.dev.cnt = s.dev.cnt)
    ∧ (both → 3 ≤ (bitList 5 reqs).length → ∀ m, m < 5 → bitOf reqs m = true → m ≠ (s.dev.chip.core core).waitingSide →
        counted s t 1 (conflictFld m) (towerOf core) 0 (coreSel core))

section
variable {s t : State} {core reqs : Nat}

/-- The counts of a state whose other counts than those of conflicts may have changed too, unless none did (R143, R170). -/
theorem conflictsCounted {cnt : Tab Cnt} (htwo : 2 ≤ (portMasters s.dev.chip core reqs).length → ∀ m ∈ portMasters s.dev.chip core reqs,
      (Tab.get {} cnt (cntKey (conflictFld m) (towerOf core) 0 (coreSel core))).n =
        satAdd (conflictFld m).w (Tab.get {} s.dev.cnt (cntKey (conflictFld m) (towerOf core) 0 (coreSel core))).n 1)
    (hone : (portMasters s.dev.chip core reqs).length < 2 → cnt = s.dev.cnt) (hthree : reqs % 32 = 3 → t.dev.cnt = cnt)
    (hkeys : ∀ m, m < 5 → Tab.get {} t.dev.cnt (cntKey (conflictFld m) (towerOf core) 0 (coreSel core)) =
      Tab.get {} cnt (cntKey (conflictFld m) (towerOf core) 0 (coreSel core))) : ConflictsCounted s t core reqs := by
  have hcounted (h2 : 2 ≤ (portMasters s.dev.chip core reqs).length) {m : Nat} (hm : m ∈ portMasters s.dev.chip core reqs) (hlt : m < 5) :
      counted s t 1 (conflictFld m) (towerOf core) 0 (coreSel core) := by
    rw [counted, hkeys m hlt]
    exact htwo h2 m hm
  refine ⟨fun hnot h2 m hlt hm => ?_, fun hboth h3 => ?_, fun hboth h3 m hlt hm hne => ?_⟩
  · have hms := portMasters_one (c := s.dev.chip) (core := core) hnot
    exact hcounted (by rw [hms]; exact h2) (by rw [hms]; exact mem_bitList.mpr ⟨hlt, hm⟩) hlt
  · have hlist : bitList 5 reqs = bitList 5 3 := by
      refine List.filter_congr fun i hi => ?_
      have hmod := Nat.testBit_mod_two_pow reqs 5 i
      rw [decide_eq_true (List.mem_range.mp hi), Bool.true_and] at hmod
      rw [← hmod]
      exact congrArg (Nat.testBit · i) h3
    rw [hthree h3]
    exact hone (by rw [length_portMasters_both hboth, hlist]; decide)
  · have hmem : m ∈ portMasters s.dev.chip core reqs := by
      rw [portMasters_both hboth]
      exact (List.mem_erase_of_ne hne).mpr (mem_bitList.mpr ⟨hlt, hm⟩)
    exact hcounted (by rw [length_portMasters_both hboth]; omega) hmem hlt

/-- A port cycle without a write of the Hall (R169, R170). -/
theorem portGrant_asks (h : Ready s) (hc : core < 4096) (hp : core % 32 < 17) (other : Option Nat) :
    ∃ t, exec (.pantryPortGrant core reqs none other) s = .next t ∧ ConflictsCounted s t core reqs ∧ Leaves s t s.dev.chip := by
  obtain ⟨cnt, tot, heq, htwo, hone, -⟩ := Dev.conflicts_eq core reqs ({ s.dev with out := [] } : Dev)
  have hrun : exec (.pantryPortGrant core reqs none other) s = .next (commit s (({ s.dev with out := [] } : Dev).conflicts core reqs)) :=
    (runs_active h.2 _).trans (congrArg (fun d => Host.Outcome.next (commit s d)) (portGrant_none hc hp _))
  rw [heq] at hrun
  refine ⟨_, hrun, conflictsCounted htwo hone (fun _ => by rw [commit_cnt]) (fun _ _ => by rw [commit_cnt]),
    ⟨keepsOuter_commit rfl h.1.used, fun a => ?_⟩, by rw [commit_chip]⟩
  rw [commit_mem, h.1.wr, Mem.apply_nil]

/-- A port cycle in which the Hall writes a word (R164, R169 to R171). -/
theorem portGrant_writes (h : Ready s) (hc : core < 4096) (hp : core % 32 < 17) {w : Nat} {bytes : List Byte} (husk : Bool) (other : Option Nat)
    (h2 : bitOf reqs 2 = true) (h4 : bitOf reqs 4 = false) (hw : w < sliceBytes / 16) (hb : bytes.length = 16) :
    ∃ t, exec (.pantryPortGrant core reqs (some (w, bytes, husk)) other) s = .next t ∧ ConflictsCounted s t core reqs
      ∧ (∀ i, i < 16 → t.mem.get (pantryAddr core (16 * w) + i) = bytes.getD i 0)
      ∧ (∀ x, x < pantryAddr core (16 * w) ∨ pantryAddr core (16 * w) + 16 ≤ x → t.mem.get x = s.mem.get x)
      ∧ t.dev.husked (wordKey core w) = husk ∧ (∀ j, j ≠ wordKey core w → t.dev.husked j = s.dev.husked j)
      ∧ ((bitOf reqs 0 = true ∨ bitOf reqs 1 = true) → other = some w →
          counted s t 1 F.TOW_PAN_COLLIDE (towerOf core) 0 (coreSel core) ∧ flagged t F.TOW_PAN_STATUS_COLLIDE (towerOf core) 0 (coreSel core))
      ∧ t.dev.chip.tow.cores = s.dev.chip.tow.cores ∧ KeepsOuter s t := by
  obtain ⟨cnt, tot, heq, htwo, hone, hother⟩ := Dev.conflicts_eq core reqs ({ s.dev with out := [] } : Dev)
  let hit : Bool := (bitOf reqs 0 || bitOf reqs 1) && other = some w
  let e : Dev := (({ s.dev with out := [], cnt := cnt, tot := tot } : Dev).hrxWord core w bytes husk).collided core hit
  have hrun : exec (.pantryPortGrant core reqs (some (w, bytes, husk)) other) s = .next (commit s e) := by
    have hgrant := portGrant_hrx (husk := husk) (other := other) hc hp h2 h4 hw hb ({ s.dev with out := [] } : Dev)
    rw [heq] at hgrant
    exact (runs_active h.2 _).trans (congrArg (fun d => Host.Outcome.next (commit s d)) hgrant)
  have hchip : e.chip = (s.dev.mark (wordKey core w) husk).chip := Dev.collided_chip ..
  have hwr : e.wr = [.write (pantryAddr core (16 * w)) bytes] := by
    rw [Dev.collided_wr]
    exact congrArg (· ++ [MemOp.write (pantryAddr core (16 * w)) bytes]) h.1.wr
  have houter : e.outerParts = s.dev.outerParts ∧ e.injUsed = s.dev.injUsed := Dev.collided_outer ..
  have hmem (x : Nat) : (commit s e).mem.get x =
      if pantryAddr core (16 * w) ≤ x ∧ x < pantryAddr core (16 * w) + bytes.length then bytes.getD (x - pantryAddr core (16 * w)) 0
      else s.mem.get x := by
    rw [commit_mem, hwr, ← Mem.get_write]
    rfl
  have hhusk (j : Nat) : (commit s e).dev.husked j = if j = wordKey core w then husk else s.dev.husked j := by
    rw [Dev.husked, commit_chip, hchip]
    exact Dev.husked_mark ..
  have hnot3 : reqs % 32 ≠ 3 := fun h3 => by
    have hbit := Nat.testBit_mod_two_pow reqs 5 2
    rw [show reqs % 2 ^ 5 = 3 from h3, show reqs.testBit 2 = true from h2] at hbit
    exact absurd hbit (by decide)
  refine ⟨_, hrun, conflictsCounted htwo hone (fun h3 => absurd h3 hnot3) (fun m hm => ?_), fun i hi => ?_, fun x hx => ?_,
    by rw [hhusk, if_pos rfl], fun j hj => by rw [hhusk, if_neg hj], fun hside hsame => ?_, by rw [commit_chip, hchip]; rfl,
    keepsOuter_commit houter.1 (houter.2.trans h.1.used)⟩
  · rw [commit_cnt]
    exact Dev.collided_cnt _ _ _ (otherCount_collide _ _ m hm).symm
  · rw [hmem, if_pos (by omega), Nat.add_sub_cancel_left]
  · rw [hmem, if_neg (by omega)]
  · have hhit : hit = true := by simpa [hit, hsame] using hside
    have he : e = ((({ s.dev with out := [], cnt := cnt, tot := tot } : Dev).hrxWord core w bytes husk).count F.TOW_PAN_COLLIDE 1
        (towerOf core) 0 (coreSel core)).flag F.TOW_PAN_STATUS_COLLIDE (towerOf core) 0 (coreSel core) := by
      dsimp only [e]
      rw [hhit]
      rfl
    refine ⟨?_, flagged_flag (by rw [commit_ev _ _ (houter.2.trans h.1.used), he]) (by decide)⟩
    rw [counted, commit_cnt, he, ← hother _ (otherCount_collide _ _)]
    simp [Dev.flag, Dev.count, Dev.hrxWord, Dev.memOp, Dev.mark, Dev.onTow, Dev.onChip, Tab.get_upd]

end

/-- Settles O42: the masters that ask are counted, and the Hall's word is written. -/
theorem portGrants : Obligations.PortGrants := by
  unfold Obligations.PortGrants
  intro s core reqs w bytes husk other h hc hp t0 k both conflicts
  exact ⟨portGrant_asks h hc hp other, fun h2 h4 hw hb => portGrant_writes h hc hp husk other h2 h4 hw hb⟩

end Sys2Proof.Claims
end

section
/-! PROOF. A queued MMA that uses an injection when its unit starts it (R140, R423, R443). -/

namespace Sys2Proof.Machine

/-! ## The injection that a K-block uses -/

/-- A K-block whose shell is compared uses an injection of kind 7 on its core (R443). -/
theorem mmaBlock_injUsed {core kb : Nat} {x : MmaArgs} {A : ABuf} {B : List Col × List Nat} {s : State} {d : Dev} {i : Inj}
    (hspecial : blockSpecial x A B = false) (hhalf : x.a.format.isHalf = false) (h6 : s.injOn d 6 = none) (h7 : s.injOn d 7 = some i)
    (hkind : i.srcKind = 1) (htarget : i.target = core) :
    (mmaBlock core x {} A B kb s d).injUsed = d.injUsed + 1 := by
  unfold blockSpecial Claims.sideOf at hspecial
  unfold mmaBlock
  extract_lets fa fb sideA sideB dl bank special outs bank' flags sats tol off mine i6 d0 i7 d1 inj sh0 sh d2 d3 d4 d5 d6 d7
  have hoff : off = false := by
    change (special || (x.a.format.isHalf && _)) = false
    rw [hhalf, Bool.false_and, Bool.or_false]
    exact hspecial
  have hi6 : i6 = none := by simp [i6, mine, h6]
  have hi7 : i7 = some i := by simp [i7, mine, h7, hoff, Option.filter, hkind, htarget]
  have h0 : d0 = d := by simp only [d0, hi6]
  have h1 : d1.injUsed = d.injUsed + 1 := by
    simp only [d1, hi7, h0]
    exact (Dev.Reports.log core { d with injUsed := d.injUsed + 1 } _).used
  clear_value d1 bank' flags
  have h2 : d1.Reads core d2 := (Dev.Computes.onCore core d1 (fun c => c.wrB x.bank bank') rfl).toReads
  have h3 : d2.Reads core d3 := (Dev.Computes.coreFlags ..).toReads
  have h4 : d3.Reports core d4 := .ite (.count ..) (.refl ..)
  have h5 : d4.Reports core d5 := .ite (.count ..) (.ite (.of_cores rfl rfl rfl rfl) (.refl ..))
  have h6 : d5.Reads core d6 := (Dev.Computes.countSat ..).toReads
  have h7 : d6.Reports core d7 := .ite (.of_cores rfl rfl rfl rfl) (.refl ..)
  have h8 : d7.Reports core (if sh.bad then d7.shellError core (sh.detail x.bank kb) (i6.or i7) else d7) := .ite (.shellError ..) (.refl ..)
  exact (h2.trans (h3.trans (h4.toReads.trans (h5.toReads.trans (h6.trans (h7.toReads.trans h8.toReads)))))).used.trans h1

/-- The device with a core's A buffer loaded. -/
def Dev.withAbuf (d : Dev) (core : Nat) (A : ABuf) : Dev := d.onCore core fun c => { c with abuf := A }

/-- One K-block that keeps the A buffer and the bank (R148, R150). -/
theorem mmaRun_keep {core kb : Nat} {u : UOp} {x : MmaArgs} {s : State} {d : Dev} (hkeep : x.keep = true) (hzero : x.zero = false) :
    mmaRun core u x [kb] s d =
      mmaBlock core x u.fault (d.chip.core core).abuf (loadB (d.withAbuf core (d.chip.core core).abuf) s core x.b kb) kb s
        (d.withAbuf core (d.chip.core core).abuf) := by
  unfold mmaRun
  simp only [hkeep, hzero, Bool.false_eq_true, if_false, if_true, List.foldl_cons, List.foldl_nil, Dev.withAbuf]

/-- The last use of an active injection ends it (R443). -/
theorem Inj.use_last {i : Inj} (hst : i.st = .active) (hleft : i.left = 1) : (i.use 1).st = .done := by
  simp [Inj.use, hst, hleft]

/-! ## A core whose queued MMA is injected -/

/-- An MMA of one K-block that keeps the A buffer, captured from descriptors of no columns. -/
def queuedMma : UOp := { cls := 1, op := 0x01, w := { h := 1, i := 2 ^ 17 } }

/-- An injection of kind 7 on core 0, to be used once. -/
def mmaInjection : Inj := { st := .active, left := 1, kind := 7, srcKind := 1, target := 0 }

/-- Core 0 holds the MMA in its queue, its MAT unit is free, and the injection is active. -/
def injectedMma : State :=
  { gate := { allow := true, inj := mmaInjection }, dev := { chip := { tow := { cores := [(0, { matQ := [queuedMma] })] } } } }

theorem inv_injectedMma : Inv injectedMma := ⟨rfl, nofun, rfl, rfl⟩

/-- The device in which the MMA's effect starts. -/
def mmaInFlight : Dev := (injectedMma.dev.onCore 0 fun c => c.setQueue .mat []).onCore 0 fun c => { c with flight := c.flight ++ [(.mat, queuedMma)] }

/-- The operands of the MMA. -/
def queuedArgs : MmaArgs := mmaArgs queuedMma 0

/-- The MMA's ranges of B hold no word. -/
theorem sound_queuedMma : ∀ r ∈ rangesB queuedArgs.b 0, mmaInFlight.Sound 0 r := by
  have hempty : ∀ r ∈ rangesB queuedArgs.b 0, wordsOf r.1 r.2 = [] := by decide
  intro r hr w hw
  rw [hempty r hr] at hw
  cases hw

theorem blockSpecial_queuedMma : blockSpecial queuedArgs {} (loadB injectedMma.dev injectedMma 0 queuedArgs.b 0) = false := by decide

/-- The injection stands before its use. -/
theorem injOn_injectedMma {d : Dev} (h : d.injUsed = 0) : injectedMma.injOn d 6 = none ∧ injectedMma.injOn d 7 = some mmaInjection := by
  simp [State.injOn, injectedMma, mmaInjection, h]

/-- The MMA uses the injection. -/
theorem queuedMma_injUsed : (unitStart 0 .mat injectedMma { injectedMma.dev with out := [] }).injUsed = 1 := by
  obtain ⟨e, hmet, hall⟩ := Dev.consumeAll_sound (pc := 0) injectedMma (mmaRun 0 queuedMma queuedArgs [0] injectedMma) _ sound_queuedMma
  have hstart : unitStart 0 .mat injectedMma { injectedMma.dev with out := [] } = mmaRun 0 queuedMma queuedArgs [0] injectedMma e := hall
  have habuf : (e.chip.core 0).abuf = {} := congrArg Core.abuf (hmet.core 0)
  have hused : (e.withAbuf 0 {}).injUsed = 0 := hmet.used
  have hloadB : loadB (e.withAbuf 0 {}) injectedMma 0 queuedArgs.b 0 = loadB injectedMma.dev injectedMma 0 queuedArgs.b 0 :=
    loadB_of_wr hmet.wr ..
  obtain ⟨h6, h7⟩ := injOn_injectedMma hused
  calc (unitStart 0 .mat injectedMma { injectedMma.dev with out := [] }).injUsed
      = (mmaBlock 0 queuedArgs {} {} (loadB injectedMma.dev injectedMma 0 queuedArgs.b 0) 0 injectedMma (e.withAbuf 0 {})).injUsed := by
        rw [hstart, mmaRun_keep rfl rfl, habuf, hloadB]
        rfl
    _ = (e.withAbuf 0 {}).injUsed + 1 := mmaBlock_injUsed blockSpecial_queuedMma rfl h6 h7 rfl rfl
    _ = 1 := by rw [hused]

end Sys2Proof.Machine

namespace Sys2Proof.Claims

open Sys2Proof.Machine

/-- Refutes O20: the clause of UNIT_START keeps the gate whatever the unit starts, but an MMA that starts under an active injection of kind 7 uses
it, and its last use ends it (R423, R443). -/
theorem not_unitsAndQueues : ¬ Obligations.UnitsAndQueues := by
  unfold Obligations.UnitsAndQueues
  intro h
  obtain ⟨-, -, hstart, -, -⟩ := h injectedMma { core := 0 } {} 0 0 1
  obtain ⟨t, hnext, -, -, -, ⟨-, hgate, -⟩, -⟩ := hstart inv_injectedMma rfl queuedMma [] rfl rfl
  have hruns : exec (.unitStart 0 1) injectedMma = .next (commit injectedMma (unitStart 0 .mat injectedMma { injectedMma.dev with out := [] })) :=
    runs_active (s := injectedMma) rfl _
  have ht : t = commit injectedMma (unitStart 0 .mat injectedMma { injectedMma.dev with out := [] }) :=
    Host.Outcome.next.inj (hnext.symm.trans hruns)
  have hdone : t.gate.inj.st = .done := by
    rw [ht, commit_gate, queuedMma_injUsed]
    exact Inj.use_last rfl rfl
  rw [hgate] at hdone
  exact absurd hdone (by decide)

end Sys2Proof.Claims
end

section
/-! PROOF. The layout of a slot (R198, R199, R202): a receiver reads back its payload, its tag and the husk marks of its words. -/

namespace Sys2Proof.Machine

/-! ## The tag -/

/-- The lowest bit of a number counted apart. -/
theorem popcount_succ (w n : Nat) : popcount (w + 1) n = n % 2 + popcount w (n / 2) := by
  have hrest : ((List.range w).map Nat.succ).filter (fun i => n.testBit i) = ((List.range w).filter fun i => (n / 2).testBit i).map Nat.succ := by
    rw [List.filter_map]
    exact congrArg (List.map Nat.succ) (List.filter_congr fun i _ => by simp [Nat.testBit_succ])
  rw [popcount, List.range_succ_eq_map, List.filter_cons, hrest, popcount]
  obtain h | h := Nat.mod_two_eq_zero_or_one n <;> simp [Nat.testBit_zero, h, Nat.add_comm]

section
variable (corridor line seq : Nat)

/-- The tag without its parity bit, halved (R199). -/
def tagFields : Nat := corridor % 512 * 64 + line % 32 * 2 + seq % 2

/-- The parity bit of a tag stands lowest (R199). -/
theorem slotTag_eq : slotTag corridor line seq =
    2 * tagFields corridor line seq + if popcount 15 (tagFields corridor line seq) % 2 = 0 then 1 else 0 := by
  have hfields : corridor % 512 * 128 + line % 32 * 4 + seq % 2 * 2 = 2 * tagFields corridor line seq := by
    unfold tagFields
    omega
  have hpop : popcount 16 (2 * tagFields corridor line seq) = popcount 15 (tagFields corridor line seq) := by
    rw [popcount_succ, Nat.mul_mod_right, Nat.zero_add, Nat.mul_div_cancel_left _ Nat.two_pos]
  simp only [slotTag, hfields, hpop]

theorem slotTag_bounds : 2 * tagFields corridor line seq ≤ slotTag corridor line seq ∧ slotTag corridor line seq ≤ 2 * tagFields corridor line seq + 1 := by
  rw [slotTag_eq]
  split <;> omega

/-- A tag holds an odd number of ones (R199). -/
theorem popcount_slotTag : popcount 16 (slotTag corridor line seq) % 2 = 1 := by
  rw [slotTag_eq, popcount_succ]
  split
  · next h => rw [show (2 * tagFields corridor line seq + 1) / 2 = tagFields corridor line seq by omega]; omega
  · next h => rw [show (2 * tagFields corridor line seq + 0) / 2 = tagFields corridor line seq by omega]; omega

theorem slotTag_lt : slotTag corridor line seq < 256 ^ 2 := by
  have h := slotTag_bounds corridor line seq
  unfold tagFields at h
  omega

/-- The fields of a tag (R199). -/
theorem slotTag_fields : bitsOf (slotTag corridor line seq) 7 9 = corridor % 512 ∧ bitsOf (slotTag corridor line seq) 2 5 = line % 32
    ∧ bitOf (slotTag corridor line seq) 1 = bitOf seq 0 := by
  have h := slotTag_bounds corridor line seq
  unfold tagFields at h
  simp only [bitsOf, bitOf, Nat.shiftRight_eq_div_pow, Nat.testBit_eq_decide_div_mod_eq, decide_eq_decide]
  omega

end

/-! ## Bytes of a list -/

/-- One byte of a record (R1). -/
theorem leField_one (l : List Byte) (o : Nat) : leField l o 1 = (l.getD o 0).toNat := by
  rw [leField, List.getD_eq_getElem?_getD, ← List.head?_drop]
  cases l.drop o <;> simp [ofLe]

/-- A list of the length asked for is not cut or filled. -/
theorem padTo_of_length {α : Type} {n : Nat} {x : α} {l : List α} (h : l.length = n) : padTo n x l = l := by
  simp [padTo, ← h]

/-! ## Parity bytes -/

theorem parityByte_lt (payload : List Byte) (j : Nat) : parityByte payload j < 256 :=
  Nat.lt_pow_two_of_testBit (n := 8) _ fun i hi => by
    rw [show parityByte payload j = maskOf 8 fun i => parityOf (payload.getD (8 * j + i) 0) from rfl, testBit_maskOf]
    simp [show ¬ i < 8 by omega]

/-- The parity byte as it is sent (R171, R198, R202). -/
def sentParity (payload : List Byte) (husks : Nat) (late : Bool) (j : Nat) : Nat :=
  if late || (j % 2 = 0 && bitOf husks (j / 2)) then 255 - parityByte payload j else parityByte payload j

theorem sentParity_lt (payload : List Byte) (husks : Nat) (late : Bool) (j : Nat) : sentParity payload husks late j < 256 := by
  have h := parityByte_lt payload j
  unfold sentParity
  split <;> omega

theorem parityBytes_eq (payload : List Byte) (husks : Nat) (late : Bool) :
    parityBytes payload husks late = (List.range 14).map fun j => BitVec.ofNat 8 (sentParity payload husks late j) :=
  List.map_eq_flatMap.symm

section
variable {payload : List Byte} (hlen : payload.length = 112) (husks corridor line seq : Nat)
include hlen

/-- A slot of a whole payload (R198). -/
theorem slotBytes_eq (late : Bool) : slotBytes payload husks corridor line seq late =
    payload ++ ((List.range 14).map fun j => BitVec.ofNat 8 (sentParity payload husks late j)) ++ leBytes 2 (slotTag corridor line seq) := by
  rw [slotBytes, padTo_of_length hlen, parityBytes_eq]

theorem slotBytes_length (late : Bool) : (slotBytes payload husks corridor line seq late).length = 128 := by
  simp [slotBytes_eq hlen, hlen]

theorem take_slotBytes (late : Bool) : (slotBytes payload husks corridor line seq late).take 112 = payload := by
  rw [slotBytes_eq hlen, List.append_assoc, List.take_left' hlen]

/-- The tag as a receiver reads it. -/
theorem tag_slotBytes (late : Bool) : leField (slotBytes payload husks corridor line seq late) 126 2 = slotTag corridor line seq := by
  rw [slotBytes_eq hlen, leField, List.drop_left' (by simp [hlen]), List.take_of_length_le (by simp), ofLe_leBytes,
    Nat.mod_eq_of_lt (slotTag_lt ..)]

/-- A parity byte as a receiver reads it. -/
theorem parity_slotBytes (late : Bool) {j : Nat} (hj : j < 14) :
    leField (slotBytes payload husks corridor line seq late) (112 + j) 1 = sentParity payload husks late j := by
  rw [leField_one, slotBytes_eq hlen, List.append_assoc, List.getD_append_right _ _ _ _ (by omega), hlen, Nat.add_sub_cancel_left,
    List.getD_append _ _ _ _ (by simpa using hj), List.getD_eq_getElem _ _ (by simpa using hj)]
  simpa using sentParity_lt payload husks late j

/-- The parity that a receiver expects. -/
theorem parityByte_slotBytes (late : Bool) {j : Nat} (hj : j < 14) :
    parityByte (slotBytes payload husks corridor line seq late) j = parityByte payload j := by
  refine congrArg ofBitList (List.filter_congr fun i hi => ?_)
  have hi := List.mem_range.mp hi
  rw [slotBytes_eq hlen, List.append_assoc, List.getD_append _ _ _ _ (by omega)]

/-- A word that was sent in time is read with its mark (R202, R203). -/
theorem wordState_slotBytes {w : Nat} (hw : w < 7) : wordState (slotBytes payload husks corridor line seq false) w = some (bitOf husks w) := by
  have hp := parityByte_lt payload (2 * w)
  have heven : sentParity payload husks false (2 * w) = if bitOf husks w then 255 - parityByte payload (2 * w) else parityByte payload (2 * w) := by
    simp [sentParity]
  have hodd : sentParity payload husks false (2 * w + 1) = parityByte payload (2 * w + 1) := by
    simp [sentParity, Nat.add_mod]
  unfold wordState
  simp only [parity_slotBytes hlen husks corridor line seq false (show 2 * w < 14 by omega),
    parity_slotBytes hlen husks corridor line seq false (show 2 * w + 1 < 14 by omega),
    parityByte_slotBytes hlen husks corridor line seq false (show 2 * w < 14 by omega),
    parityByte_slotBytes hlen husks corridor line seq false (show 2 * w + 1 < 14 by omega), heven, hodd]
  cases bitOf husks w
  · simp
  · rw [if_neg (by simp), if_pos rfl, if_neg (by omega), if_pos rfl]

end

end Sys2Proof.Machine
end

section
/-! PROOF. Words that the Hall receive writer stores one after another (R165). -/

namespace Sys2Proof.Machine

/-- The receive writer stores `n` words of a slice from word `w0`: the bytes and the husk mark of each. -/
def Dev.landWords (core w0 : Nat) (word : Nat → List Byte × Bool) (n : Nat) (d : Dev) : Dev :=
  (List.range n).foldl (fun d w => d.hrxWord core (w0 + w) (word w).1 (word w).2) d

/-- What storing `n` words does to memory. -/
def landOps (core w0 : Nat) (word : Nat → List Byte × Bool) (n : Nat) : List MemOp :=
  (List.range n).map fun w => .write (pantryAddr core (16 * (w0 + w))) (word w).1

section
variable (core w0 : Nat) (word : Nat → List Byte × Bool) (n : Nat)

theorem landOps_succ : landOps core w0 word (n + 1) = landOps core w0 word n ++ [.write (pantryAddr core (16 * (w0 + n))) (word n).1] := by
  simp [landOps, List.range_succ]

theorem Dev.landWords_succ (d : Dev) :
    d.landWords core w0 word (n + 1) = (d.landWords core w0 word n).hrxWord core (w0 + n) (word n).1 (word n).2 := by
  simp [Dev.landWords, List.range_succ]

/-- Of the device only the marks and errors of pantry words and memory change. -/
theorem Dev.landWords_eq (d : Dev) : ∃ husk errs, d.landWords core w0 word n =
    { d with chip := { d.chip with tow := { d.chip.tow with husk, errs } }, wr := d.wr ++ landOps core w0 word n } := by
  induction n with
  | zero => exact ⟨d.chip.tow.husk, d.chip.tow.errs, by rw [landOps, List.range_zero, List.map_nil, List.append_nil]; rfl⟩
  | succ n ih =>
    obtain ⟨husk, errs, h⟩ := ih
    rw [Dev.landWords_succ, landOps_succ, h, ← List.append_assoc]
    exact ⟨_, _, rfl⟩

/-- The marks that the words carry (R165). -/
theorem Dev.husked_landWords (d : Dev) {w : Nat} (hw : w < n) : (d.landWords core w0 word n).husked (wordKey core (w0 + w)) = (word w).2 := by
  induction n with
  | zero => cases hw
  | succ n ih =>
    have hlast (e : Dev) : (e.hrxWord core (w0 + n) (word n).1 (word n).2).husked (wordKey core (w0 + w)) =
        if wordKey core (w0 + w) = wordKey core (w0 + n) then (word n).2 else e.husked (wordKey core (w0 + w)) := Dev.husked_mark ..
    rw [Dev.landWords_succ, hlast]
    obtain hw | rfl := Nat.lt_succ_iff_lt_or_eq.mp hw
    · rw [if_neg fun h => by have := wordKey_inj.mp h; omega, ih hw]
    · rw [if_pos rfl]

end

/-- Memory after a payload's words were stored: its 112 bytes stand where they belong, every other byte is kept (R165). -/
theorem get_apply_landOps (m : Mem) (core w0 : Nat) (payload : List Byte) (mark : Nat → Bool) {n : Nat} (hlen : 16 * n ≤ payload.length) (x : Nat) :
    (m.apply (landOps core w0 (fun w => (payloadWord payload w, mark w)) n)).get x =
      if pantryAddr core (16 * w0) ≤ x ∧ x < pantryAddr core (16 * w0) + 16 * n then payload.getD (x - pantryAddr core (16 * w0)) 0
      else m.get x := by
  induction n with
  | zero => rw [if_neg (by omega)]; rfl
  | succ n ih =>
    have hword : (payloadWord payload n).length = 16 := by
      rw [payloadWord, List.length_take, List.length_drop]
      omega
    have haddr : pantryAddr core (16 * (w0 + n)) = pantryAddr core (16 * w0) + 16 * n := by
      unfold pantryAddr
      omega
    have hlast (m : Mem) : m.apply [.write (pantryAddr core (16 * (w0 + n))) (payloadWord payload n)] =
        m.write (pantryAddr core (16 * (w0 + n))) (payloadWord payload n) := rfl
    rw [landOps_succ, Mem.apply_append, hlast, Mem.get_write, hword, haddr, ih (by omega)]
    by_cases hx : pantryAddr core (16 * w0) + 16 * n ≤ x ∧ x < pantryAddr core (16 * w0) + 16 * n + 16
    · have hoff : x - pantryAddr core (16 * w0) = 16 * n + (x - (pantryAddr core (16 * w0) + 16 * n)) := by omega
      rw [if_pos hx, if_pos (by omega), hoff, payloadWord, List.getD_eq_getElem?_getD, List.getElem?_take_of_lt (by omega), List.getElem?_drop,
        ← List.getD_eq_getElem?_getD]
    · rw [if_neg hx]
      congr 1
      exact propext (by omega)

end Sys2Proof.Machine
end

section
/-! PROOF. Slots on arrival (R165, R203, R210): what the checks accept is stored, what they reject is counted and kept for a replay. -/

namespace Sys2Proof.Machine

open Sys2Proof.Claims (log_eq)

/-! ## Rejects -/

/-- The Hall after a slot of the running frame was rejected; `lineToo`: against its line as well (R203). -/
def Hall.rejected (h : Hall) (p : Place) (ep via line : Nat) (lineToo : Bool) : Hall :=
  { h with
    rejects := h.rejects ++ [(⟨p.run.bundle, p.lane, p.slot, ep, p.room, via⟩, p.run)]
    rejLanes := h.rejLanes ++ [(p.run.bundle, via)]
    lineHits := h.lineHits ++ if lineToo then [p.run.bundle * 18 + line] else [] }

/-- The counts of rejects and of snapshots missed lie apart. -/
theorem rejectKeys_ne (k : Nat) : cntKey F.HALL_REJECTS 0 0 0 ≠ cntKey F.HALL_LINE_REJECTS 0 0 k
    ∧ cntKey F.HALL_REJECTS 0 0 0 ≠ cntKey F.SNAP_MISSED 0 0 0 ∧ cntKey F.HALL_LINE_REJECTS 0 0 k ≠ cntKey F.SNAP_MISSED 0 0 0 := by
  simp only [cntKey, regKey, Fld.addrOf, F.HALL_REJECTS, F.HALL_LINE_REJECTS, F.SNAP_MISSED]
  omega

/-- The error event of a slot that counts against its line (R203, R419). -/
def Place.rejectEvent (p : Place) (line : Nat) : LogEv :=
  { cls := clsLineReject, kind := 3, index := p.run.bundle * 18 + line, room := p.room, injected := false, detail := leBytes 4 p.slot }

/-- The device with a reject counted, before the line's error is logged; `lineToo`: counted against its line as well (R203). -/
def Dev.countReject (d : Dev) (p : Place) (via line : Nat) (lineToo : Bool) : Dev :=
  let d := (d.count F.HALL_REJECTS).onHall fun h => { h with rejLanes := h.rejLanes ++ [(p.run.bundle, via)] }
  if lineToo then (d.count F.HALL_LINE_REJECTS 1 0 0 (p.run.bundle * 18 + line)).onHall fun h =>
    { h with lineHits := h.lineHits ++ [p.run.bundle * 18 + line] }
  else d

/-- A reject of a slot that is no replay is counted, logged where its line is to blame, and kept for a replay (R203, R210). -/
theorem Dev.rejectSlot_steps (d : Dev) {p : Place} (hrep : p.replay = false) (ep via line : Nat) (lineToo : Bool) :
    d.rejectSlot p ep via line lineToo none =
      (if lineToo then ((d.countReject p via line true).log (p.rejectEvent line)).chanErr 1 (p.run.bundle * 18 + line)
        else d.countReject p via line false).onHall fun h =>
          { h with rejects := h.rejects ++ [(⟨p.run.bundle, p.lane, p.slot, ep, p.room, via⟩, p.run)] } := by
  unfold Dev.rejectSlot
  simp only [hrep, Bool.false_eq_true, if_false]
  cases lineToo <;> rfl

/-- What rejecting a slot that is no replay changes: the Hall, the counts, and the error log with what it fires (R203, R419). -/
theorem Dev.rejectSlot_eq (d : Dev) {p : Place} (hrep : p.replay = false) (ep via line : Nat) (lineToo : Bool) :
    ∃ integ snap cnt tot, d.rejectSlot p ep via line lineToo none =
        { d with chip := { d.chip with integ, snap, hall := d.chip.hall.rejected p ep via line lineToo }, cnt, tot }
      ∧ (Tab.get {} cnt (cntKey F.HALL_REJECTS 0 0 0)).n = satAdd F.HALL_REJECTS.w (Tab.get {} d.cnt (cntKey F.HALL_REJECTS 0 0 0)).n 1
      ∧ (lineToo = true → (Tab.get {} cnt (cntKey F.HALL_LINE_REJECTS 0 0 (p.run.bundle * 18 + line))).n =
          satAdd F.HALL_LINE_REJECTS.w (Tab.get {} d.cnt (cntKey F.HALL_LINE_REJECTS 0 0 (p.run.bundle * 18 + line))).n 1) := by
  obtain ⟨hline, hmissed, hlineMissed⟩ := rejectKeys_ne (p.run.bundle * 18 + line)
  rw [Dev.rejectSlot_steps d hrep]
  cases lineToo with
  | false =>
    refine ⟨d.chip.integ, d.chip.snap, (d.countReject p via line false).cnt, (d.countReject p via line false).tot, ?_, ?_, nofun⟩
    · simp only [Hall.rejected, Bool.false_eq_true, if_false, List.append_nil]
      rfl
    · simp [Dev.countReject, Dev.onHall, Dev.onChip, Dev.count, Tab.get_upd]
  | true =>
    obtain ⟨integ, snap, cnt, tot, hlog, hkeeps, -⟩ := log_eq (d.countReject p via line true) (p.rejectEvent line)
    refine ⟨_, snap, cnt, tot, by rw [if_pos rfl, hlog]; rfl, ?_, fun _ => ?_⟩
    · rw [hkeeps _ hmissed]
      simp [Dev.countReject, Dev.onHall, Dev.onChip, Dev.count, Tab.get_upd, hline]
    · rw [hkeeps _ hlineMissed]
      simp [Dev.countReject, Dev.onHall, Dev.onChip, Dev.count, Tab.get_upd, hline.symm]

/-! ## The checks -/

section
variable (d : Dev) {p : Place} (ep latch via line : Nat)

/-- A slot whose tag has even parity is rejected, against its line unless the corridor or the map is to blame (R203, R207). -/
theorem Dev.checkSlot_evenTag {bytes : List Byte} (h : popcount 16 (leField bytes 126 2) % 2 = 0) (left : Nat) :
    d.checkSlot p ep latch via line bytes left none = d.rejectSlot p ep via line
      (decide ¬((p.run.bundle, ep) ∈ d.chip.hall.desync ∨ (d.chip.bundle p.run.bundle).mismatch = true)) none := by
  unfold Dev.checkSlot
  by_cases hblame : (p.run.bundle, ep) ∈ d.chip.hall.desync ∨ (d.chip.bundle p.run.bundle).mismatch = true
  · simp only [Bool.or_eq_true, decide_eq_true_eq, hblame, if_true, not_true, decide_false]
  · simp only [Bool.or_eq_true, decide_eq_true_eq, hblame, if_false, not_false_eq_true, decide_true, h, if_true]

/-- A slot as its source lays it out is delivered with its payload and husk marks (R203). -/
theorem Dev.checkSlot_sent {payload : List Byte} (hlen : payload.length = 112) (husks left : Nat) (hb : p.run.bundle < 512) (hl : line < 32)
    (hrep : p.replay = false) (hsync : (p.run.bundle, ep) ∉ d.chip.hall.desync) (hmap : (d.chip.bundle p.run.bundle).mismatch = false) :
    d.checkSlot p ep latch via line (slotBytes payload husks p.run.bundle line d.chip.frm.cur false) left none =
      d.deliverSlot p { ep, bytes := payload, husks := maskOf 7 (bitOf husks) } := by
  obtain ⟨hbundle, hline, hseq⟩ := slotTag_fields p.run.bundle line d.chip.frm.cur
  have hframe : d.chip.placeFrame p = d.chip.frm.cur := by simp [Chip.placeFrame, hrep]
  have hstates : (List.range 7).map (wordState (slotBytes payload husks p.run.bundle line d.chip.frm.cur false)) =
      (List.range 7).map fun w => some (bitOf husks w) :=
    List.map_congr_left fun w hw => wordState_slotBytes hlen _ _ _ _ (List.mem_range.mp hw)
  have hmask : ofBitList ((List.range 7).filter fun w => ((List.range 7).map fun w => some (bitOf husks w)).getD w none = some true) =
      maskOf 7 (bitOf husks) := by
    refine congrArg ofBitList (List.filter_congr fun w hw => ?_)
    simp [List.mem_range.mp hw]
  unfold Dev.checkSlot
  simp only [tag_slotBytes hlen, hbundle, hline, hseq, popcount_slotTag, hframe, hstates, hmask, take_slotBytes hlen, Nat.mod_eq_of_lt hb,
    Nat.mod_eq_of_lt hl, hsync, hmap, hrep]
  simp

end

/-- A slot on an assigned latch goes to the checks, where no injection is active (R203). -/
theorem slotReceive_eq {s : State} (hinj : s.gate.inj.st ≠ .active) (d : Dev) {ep latch slot b lane line : Nat} {p : Place} (hep : ep < 23)
    (hlatch : latch < latchCount ep) (hslot : slot ≠ 3) (htakes : d.chip.takes ep latch = some (b, lane))
    (hline : (d.chip.bundle b).lineOf lane = some line) (hplace : d.chip.placeAt b lane slot = some p) (hdest : p.run.dest = ep)
    {bytes : List Byte} (hbytes : bytes.length = 128) (left : Nat) :
    slotReceive ep latch slot bytes left s d = d.checkSlot p ep latch lane line bytes left none := by
  have hnone (line : Nat) (bytes : List Byte) : injectSlot s d line bytes = (bytes, none, d) := by
    simp [injectSlot, injOn_none hinj]
  simp [slotReceive, show ¬ (23 ≤ ep ∨ latchCount ep ≤ latch) by omega, hslot, htakes, hline, hplace, hdest, hnone, padTo_of_length hbytes]

/-- A payload for a pantry lands word by word (R165). -/
theorem Dev.landPantry_eq (d : Dev) (p : Place) (a : Arrival) : d.landPantry p a =
    d.landWords (d.chip.physCore (a.ep * 16 + p.run.dstUnit / 16 % 16) (p.run.dstUnit % 16)) ((p.run.dstAddr + 112 * p.index) / 16)
      (fun w => (payloadWord a.bytes w, bitOf a.husks w)) 7 := rfl

end Sys2Proof.Machine

namespace Sys2Proof.Claims

open Sys2Proof.Machine

/-- What words landed in a pantry slice leave of the state: the payload in the slice, its marks, and nothing else of the cores or the Hall. -/
theorem landed_commit {s : State} (core w0 : Nat) {payload : List Byte} (hlen : payload.length = 112) (mark : Nat → Bool) {d : Dev}
    (hwr : d.wr = []) (hused : d.injUsed = 0) (houter : d.outerParts = s.dev.outerParts) :
    let t := commit s (d.landWords core w0 (fun w => (payloadWord payload w, mark w)) 7)
    (∀ i, i < 112 → t.mem.get (pantryAddr core (16 * w0 + i)) = payload.getD i 0)
      ∧ (∀ x, x < pantryAddr core (16 * w0) ∨ pantryAddr core (16 * w0) + 112 ≤ x → t.mem.get x = s.mem.get x)
      ∧ (∀ w, w < 7 → t.dev.husked (wordKey core (w0 + w)) = mark w)
      ∧ t.dev.chip.tow.cores = d.chip.tow.cores ∧ t.dev.chip.tow.parts = d.chip.tow.parts ∧ t.dev.chip.hall = d.chip.hall
      ∧ t.dev.chip.cel = d.chip.cel ∧ t.dev.cnt = d.cnt ∧ KeepsOuter s t := by
  intro t
  obtain ⟨husk, errs, heq⟩ := Dev.landWords_eq core w0 (fun w => (payloadWord payload w, mark w)) 7 d
  have hmem (x : Nat) : t.mem.get x = if pantryAddr core (16 * w0) ≤ x ∧ x < pantryAddr core (16 * w0) + 112
      then payload.getD (x - pantryAddr core (16 * w0)) 0 else s.mem.get x := by
    rw [commit_mem, heq, show d.wr ++ landOps core w0 (fun w => (payloadWord payload w, mark w)) 7 = _ from by rw [hwr, List.nil_append]]
    exact get_apply_landOps _ _ _ _ _ (by omega) x
  have haddr (i : Nat) : pantryAddr core (16 * w0 + i) = pantryAddr core (16 * w0) + i := by
    unfold pantryAddr
    omega
  have hchip : t.dev.chip = { d.chip with tow := { d.chip.tow with husk, errs } } := by rw [commit_chip, heq]
  refine ⟨fun i hi => ?_, fun x hx => ?_, fun w hw => ?_, by rw [hchip], by rw [hchip], by rw [hchip], by rw [hchip], by rw [commit_cnt, heq],
    keepsOuter_commit (by rw [heq]; exact houter) (by rw [heq]; exact hused)⟩
  · rw [hmem, haddr, if_pos (by omega), Nat.add_sub_cancel_left]
  · rw [hmem, if_neg (by omega)]
  · rw [Dev.husked, commit_chip]
    exact Dev.husked_landWords _ _ _ _ _ hw

/-- A mask of seven words holds the marks it is made of. -/
theorem bitOf_maskOf {husks w : Nat} (hw : w < 7) : bitOf (maskOf 7 (bitOf husks)) w = husks.testBit w := by
  rw [bitOf, testBit_maskOf, decide_eq_true hw, Bool.true_and, bitOf]

section
variable {s : State} {ep latch slot b lane line : Nat} {p : Place}

/-- The effect of a slot that the checks accept (R165, R203). -/
theorem slotReceive_lands (h : Ready s) (left : Nat) (hinj : s.gate.inj.st ≠ .active) (hep : ep < 23) (hlatch : latch < latchCount ep)
    (hslot : slot ≠ 3) (hb : b < nBundles) (hl : line < 18) (htakes : s.dev.chip.takes ep latch = some (b, lane))
    (hline : (s.dev.chip.bundle b).lineOf lane = some line) (hplace : s.dev.chip.placeAt b lane slot = some p) (hdest : p.run.dest = ep)
    (hbundle : p.run.bundle = b) (hrep : p.replay = false) (hkind : p.run.dkind = 1) (hsync : (b, ep) ∉ s.dev.chip.hall.desync)
    (hmap : (s.dev.chip.bundle b).mismatch = false) {payload : List Byte} (hlen : payload.length = 112) (husks : Nat) :
    exec (.slotReceive ep latch slot (slotBytes payload husks b line s.dev.chip.frm.cur false) left) s = .next (commit s
      (({ s.dev with out := [] } : Dev).landWords (s.dev.chip.physCore (ep * 16 + p.run.dstUnit / 16 % 16) (p.run.dstUnit % 16))
        ((p.run.dstAddr + 112 * p.index) / 16) (fun w => (payloadWord payload w, bitOf (maskOf 7 (bitOf husks)) w)) 7)) := by
  subst hbundle
  have hreceive := slotReceive_eq hinj ({ s.dev with out := [] } : Dev) hep hlatch hslot htakes hline hplace hdest
    (slotBytes_length hlen husks p.run.bundle line s.dev.chip.frm.cur false) left
  have hcheck := Dev.checkSlot_sent ({ s.dev with out := [] } : Dev) ep latch lane line hlen husks left (by unfold nBundles at hb; omega) (by omega)
    hrep hsync hmap
  have hdeliver (d : Dev) (a : Arrival) : d.deliverSlot p a = d.landPantry p a := by simp only [Dev.deliverSlot, hkind]
  rw [hcheck, hdeliver, Dev.landPantry_eq] at hreceive
  exact (runs_active h.2 _).trans (congrArg (fun d => Host.Outcome.next (commit s d)) hreceive)

/-- The effect of a slot whose tag has even parity (R203, R210). -/
theorem slotReceive_rejects (h : Ready s) (left : Nat) (hinj : s.gate.inj.st ≠ .active) (hep : ep < 23) (hlatch : latch < latchCount ep)
    (hslot : slot ≠ 3) (htakes : s.dev.chip.takes ep latch = some (b, lane))
    (hline : (s.dev.chip.bundle b).lineOf lane = some line) (hplace : s.dev.chip.placeAt b lane slot = some p) (hdest : p.run.dest = ep)
    {bytes : List Byte} (hlen : bytes.length = 128) (heven : popcount 16 (leField bytes 126 2) % 2 = 0) :
    exec (.slotReceive ep latch slot bytes left) s = .next (commit s (({ s.dev with out := [] } : Dev).rejectSlot p ep lane line
      (decide ¬((p.run.bundle, ep) ∈ s.dev.chip.hall.desync ∨ (s.dev.chip.bundle p.run.bundle).mismatch = true)) none)) := by
  have hreceive := slotReceive_eq hinj ({ s.dev with out := [] } : Dev) hep hlatch hslot htakes hline hplace hdest hlen left
  rw [Dev.checkSlot_evenTag _ _ _ _ _ heven] at hreceive
  exact (runs_active h.2 _).trans (congrArg (fun d => Host.Outcome.next (commit s d)) hreceive)

end

/-- Settles O36: the slot that its source lays out passes every check and lands word by word; an even tag is rejected before the others. -/
theorem slotsArrive : Obligations.SlotsArrive := by
  unfold Obligations.SlotsArrive
  intro s ep latch slot b lane line left p payload husks h c core w0 hep hlatch hslot hb hl hinj htakes hline hplace hdest hbundle hrep
  refine ⟨fun hkind hsync hmap hlen _ => ?_, fun bytes hbytes heven => ?_⟩
  · obtain ⟨hput, hkeep, hmarks, hcores, -, hhall, -, -, houter⟩ := landed_commit (s := s) core w0 hlen (bitOf (maskOf 7 (bitOf husks)))
      (d := { s.dev with out := [] }) h.1.wr h.1.used rfl
    exact ⟨_, slotReceive_lands h left hinj hep hlatch hslot hb hl htakes hline hplace hdest hbundle hrep hkind hsync hmap hlen husks, hput, hkeep,
      fun w hw => (hmarks w hw).trans (bitOf_maskOf hw), hcores, hhall, houter⟩
  · subst hbundle
    obtain ⟨integ, snap, cnt, tot, heq, hrejects, hlines⟩ := Dev.rejectSlot_eq ({ s.dev with out := [] } : Dev) hrep ep lane line
      (decide ¬((p.run.bundle, ep) ∈ c.hall.desync ∨ (c.bundle p.run.bundle).mismatch = true))
    have hrun := slotReceive_rejects h left hinj hep hlatch hslot htakes hline hplace hdest hbytes heven
    rw [heq] at hrun
    refine ⟨_, hrun, by rw [counted, commit_cnt]; exact hrejects, fun hsync hmap => ?_, ?_, by rw [commit_chip],
      keepsOuter_commit rfl h.1.used, fun a => by rw [commit_mem, h.1.wr, Mem.apply_nil]⟩
    · rw [counted, commit_cnt]
      exact hlines (by simp [hsync, hmap])
    · rw [commit_chip]
      simp only [Hall.rejected]
      congr 2
      by_cases hblame : (p.run.bundle, ep) ∈ c.hall.desync ∨ (c.bundle p.run.bundle).mismatch = true <;> simp [hblame]

end Sys2Proof.Claims
end

section
/-! PROOF. Slots as they are sent (R171, R185, R198 to R207): what a line's place carries, and what sending it leaves. -/

namespace Sys2Proof.Machine

open Sys2Proof.Claims (log_eq)

/-! ## What a line sends -/

/-- A line sends at a slot: it is not retired, and its bundle is in service and has light (R198, R242). -/
def Chip.LineSends (c : Chip) (bundle line slot : Nat) : Prop :=
  bundle < nBundles ∧ line < 18 ∧ 3 ≤ slot ∧ slot < c.slots ∧ 2 ≤ (c.bundle bundle).st ∧ (c.bundle bundle).st ≤ 5
    ∧ (c.bundle bundle).dark = false ∧ (c.bundle bundle).lineRetired line = false

/-- A payload leaves as a slot of the running frame; sent in time, its husked words count (R171, R202, R204). -/
def Dev.sendPayload (d : Dev) (bundle line room : Nat) (x : Payload) (late : Bool) : Dev :=
  (if x.husks ≠ 0 ∧ !late then d.onHall fun h => { h with husks := Tab.upd 0 h.husks (bundle * 16 + room) (· + 1) } else d).emit
    (.slot bundle line (slotSymbols (slotBytes x.bytes x.husks bundle line d.chip.frm.cur late)))

/-- Of the device only the count of husked words sent and what goes out change. -/
theorem Dev.sendPayload_eq (d : Dev) (bundle line room : Nat) (x : Payload) (late : Bool) : ∃ husks, d.sendPayload bundle line room x late =
    { d with
      chip := { d.chip with hall := { d.chip.hall with husks } }
      out := d.out ++ [.slot bundle line (slotSymbols (slotBytes x.bytes x.husks bundle line d.chip.frm.cur late))] } := by
  unfold Dev.sendPayload
  split <;> exact ⟨_, rfl⟩

section
variable {s : State} {d : Dev} {bundle line slot : Nat} (h : d.chip.LineSends bundle line slot) (late : Bool) (gen : List Byte)
include h

/-- Past its guards, sending is a choice between the header, an idle slot and scheduled data (R198 to R204). -/
theorem Chip.LineSends.guards : ¬ (nBundles ≤ bundle ∨ 18 ≤ line ∨ slot < 3 ∨ d.chip.slots ≤ slot ∨ (d.chip.bundle bundle).st < 2
    ∨ 5 < (d.chip.bundle bundle).st ∨ (d.chip.bundle bundle).dark = true ∨ (d.chip.bundle bundle).lineRetired line = true) := by
  obtain ⟨hb, hl, hlo, hhi, hst2, hst5, hdark, hretired⟩ := h
  simp only [hdark, hretired, Bool.false_eq_true, or_false]
  omega

theorem slotSend_header (h3 : slot = 3) : slotSend bundle line slot late gen s d =
    (d.checkUpper bundle).emit (.slot bundle line (slotSymbols (d.chip.header bundle line))) := by
  unfold slotSend
  rw [if_neg h.guards, if_pos h3]

theorem slotSend_idle (h3 : slot ≠ 3) (hp : d.chip.placeAt bundle ((d.chip.bundle bundle).roles.getD line roleRetired) slot = none) :
    slotSend bundle line slot late gen s d = (d.idlePayload (bundle * 18 + line)).2.emit
      (.slot bundle line (slotSymbols (slotBytes (d.idlePayload (bundle * 18 + line)).1 0 bundle line d.chip.frm.cur false))) := by
  unfold slotSend
  simp only [if_neg h.guards, if_neg h3, hp]

/-- Data sent at its own place, whose payload no crossing slip spoiled (R171, R210, R456). -/
theorem slotSend_data (h3 : slot ≠ 3) {p : Place}
    (hp : d.chip.placeAt bundle ((d.chip.bundle bundle).roles.getD line roleRetired) slot = some p) (hrep : p.replay = false)
    (hfold : p.folded = false) {x : Payload} {e : Dev} (hfetch : d.fetchPlace s p gen = (x, e))
    (hslip : (bundle, p.lane, slot) ∉ (if late && p.run.reread then e.countLate p else e).chip.hall.slipped) :
    slotSend bundle line slot late gen s d =
      (if late && p.run.reread then e.countLate p else e).sendPayload bundle line p.room x (late && p.run.reread) := by
  unfold slotSend
  simp only [if_neg h.guards, if_neg h3, hp, hfetch, hrep, hfold, Bool.false_eq_true, if_false, hslip, decide_false, Bool.or_false]
  unfold Dev.sendPayload Chip.placeFrame
  simp only [hrep, Bool.false_eq_true, if_false]
  split <;> rfl

end

/-! ## The checks of a header -/

/-- Nothing is found where the upper die holds the same map and sees the same good lines, or agreement is under way (R207). -/
theorem Dev.checkUpper_agrees {d : Dev} {b : Nat} (h : (d.chip.bundle b).checkUpper b = (d.chip.bundle b).check b
    ∧ ((d.chip.bundle b).goodUpper = (d.chip.bundle b).goodBase ∨ (d.chip.bundle b).agree = true)) : d.checkUpper b = d := by
  obtain ⟨hcheck, hgood⟩ := h
  refine if_neg (not_or.mpr ⟨not_not.mpr hcheck, fun ⟨hne, hagree⟩ => ?_⟩)
  obtain hgood | hgood := hgood
  · exact hne hgood
  · simp [hgood] at hagree

theorem Dev.checkUpper_differs {d : Dev} {b : Nat} (h : ¬ ((d.chip.bundle b).checkUpper b = (d.chip.bundle b).check b
    ∧ ((d.chip.bundle b).goodUpper = (d.chip.bundle b).goodBase ∨ (d.chip.bundle b).agree = true))) : d.checkUpper b = d.mapMismatch b := by
  refine if_pos ?_
  by_contra hnot
  obtain ⟨hcheck, hgood⟩ := not_or.mp hnot
  refine h ⟨not_not.mp hcheck, ?_⟩
  by_cases heq : (d.chip.bundle b).goodUpper = (d.chip.bundle b).goodBase
  · exact .inl heq
  · exact .inr (by simpa [heq] using hgood)

/-- The Hall in which a bundle's map mismatch was found (R207, R226). -/
def Hall.mismatched (h : Hall) (b : Nat) : Hall :=
  { h with bundles := Tab.upd {} h.bundles b fun x => { x with mismatch := true, agreeDue := true }, mismatches := satAdd 32 h.mismatches 1 }

/-- A bundle after a mismatch was found on `b`. -/
theorem Hall.bundle_mismatched (h : Hall) (b j : Nat) : Tab.get {} (h.mismatched b).bundles j =
    if j = b then { Tab.get {} h.bundles b with mismatch := true, agreeDue := true } else Tab.get {} h.bundles j :=
  Tab.get_upd {} h.bundles b (fun x => { x with mismatch := true, agreeDue := true }) j

/-- What a map mismatch changes, when it is found first: the Hall, its event, and the error log with what it fires (R207, R419). -/
theorem Dev.mapMismatch_eq {d : Dev} {b : Nat} (h : (d.chip.bundle b).mismatch = false) : ∃ integ snap cnt tot, d.mapMismatch b =
    { d.flag F.HALL_INT_STATUS_MAP_MISMATCH with chip := { d.chip with integ, snap, hall := d.chip.hall.mismatched b }, cnt, tot } := by
  obtain ⟨integ, snap, cnt, tot, hlog, -, -⟩ := log_eq ((d.onHall fun x => x.mismatched b).flag F.HALL_INT_STATUS_MAP_MISMATCH)
    { cls := clsBundle, kind := 4, index := b, room := 0xFF }
  have hsteps : d.mapMismatch b = (((d.onHall fun x => x.mismatched b).flag F.HALL_INT_STATUS_MAP_MISMATCH).log
      { cls := clsBundle, kind := 4, index := b, room := 0xFF }).chanErr 2 b := by
    unfold Dev.mapMismatch
    rw [if_neg (by simp [h])]
    rfl
  rw [hsteps, hlog]
  exact ⟨_, snap, cnt, tot, rfl⟩

/-! ## Payloads -/

/-- A word without errors is read as it stands (R167). -/
theorem Dev.eccWord_clean {d : Dev} {core w : Nat} (h : Tab.get 0 d.chip.tow.errs (wordKey core w) = 0) : d.eccWord core w = d := by
  unfold Dev.eccWord
  simp only [h]

/-- Words without errors are read as they stand (R167). -/
theorem Dev.readWords_clean {d : Dev} {core a n : Nat} (h : ∀ w ∈ wordsOf a n, Tab.get 0 d.chip.tow.errs (wordKey core w) = 0) :
    d.readWords core a n = d :=
  List.foldlRecOn (motive := fun e => e = d) (wordsOf a n) (fun d w => d.eccWord core w) rfl fun _ he w hw => by
    rw [he]
    exact Dev.eccWord_clean (h w hw)

/-- The slice that a tower's run reads for a place (R171, R336). -/
def Chip.sourceCore (c : Chip) (p : Place) : Nat := c.physCore (endpointOf p.run.bundle * 16 + p.run.srcUnit / 16 % 16) (p.run.srcUnit % 16)

/-- A tower's slot that is read from a slice without errors carries the bytes and marks that stand there (R171). -/
theorem Dev.fetchPlace_read {s : State} {d : Dev} {p : Place} (gen : List Byte) (hrep : p.replay = false) (hread : p.run.reread = true)
    (hkind : p.run.dkind ≠ 6) (hep : endpointOf p.run.bundle < 8) (hwr : d.wr = []) (hin : p.run.srcAddr + 112 * p.index + 112 ≤ sliceBytes)
    (herr : ∀ w ∈ wordsOf (p.run.srcAddr + 112 * p.index) 112, Tab.get 0 d.chip.tow.errs (wordKey (d.chip.sourceCore p) w) = 0) :
    d.fetchPlace s p gen = (⟨s.mem.bytes (pantryAddr (d.chip.sourceCore p) (p.run.srcAddr + 112 * p.index)) 112,
      maskOf 7 fun w => d.husked (wordKey (d.chip.sourceCore p) ((p.run.srcAddr + 112 * p.index) / 16 + w))⟩, d) := by
  have hwords : d.readWords (d.chip.sourceCore p) (p.run.srcAddr + 112 * p.index) 112 = d := Dev.readWords_clean herr
  have htower : d.readTower s p = (⟨d.bytesOf s (d.chip.sourceCore p) (p.run.srcAddr + 112 * p.index) 112,
      maskOf 7 fun w => d.husked (wordKey (d.chip.sourceCore p) ((p.run.srcAddr + 112 * p.index) / 16 + w))⟩, d) := by
    unfold Dev.readTower
    unfold Chip.sourceCore at hwords ⊢
    simp only [hwords]
    rfl
  simp only [Dev.fetchPlace, Dev.payloadOf, hrep, hread, hep, Bool.false_eq_true, if_false, if_true, htower, Dev.bytesOf_inside hwr s _ hin]
  simp [hkind]

/-- A late slot of a tower is counted at its slice (R171). -/
theorem Dev.countLate_tower (d : Dev) {p : Place} (hep : endpointOf p.run.bundle < 8) : d.countLate p =
    (d.count F.TOW_PAN_TXLATE 1 (endpointOf p.run.bundle) 0 (coreSel (d.chip.sourceCore p))).flag F.TOW_PAN_STATUS_TX_LATE
      (endpointOf p.run.bundle) 0 (coreSel (d.chip.sourceCore p)) := by
  unfold Dev.countLate
  exact if_pos hep

/-- The records of the barrier service that a slot takes (R185, R197). -/
def Towers.waiting (t : Towers) (ep room dest : Nat) : List SigRec :=
  (t.signals.filter fun x => x.ep = ep && x.room = room && x.dest = dest).take 7

/-- The records taken leave the service. -/
theorem Dev.takeSignals_tower (d : Dev) {ep : Nat} (hep : ep < 8) (room dest : Nat) (gen : List Byte) : d.takeSignals ep room dest gen =
    (⟨padTo 112 0 ((d.chip.tow.waiting ep room dest).flatMap SigRec.bytes), 0⟩,
      d.onTow fun t => { t with signals := (d.chip.tow.waiting ep room dest).foldl (fun a x => a.erase x) t.signals }) := by
  have hnil (l : List SigRec) : (if l.isEmpty then d else d.onTow fun t => { t with signals := l.foldl (fun a x => a.erase x) t.signals }) =
      d.onTow fun t => { t with signals := l.foldl (fun a x => a.erase x) t.signals } := by
    cases l <;> rfl
  simp only [Dev.takeSignals, hep, if_true, List.append_nil]
  exact congrArg _ (hnil _)

/-- A generated signal slot of a tower carries waiting records, and its payload is kept for a replay (R185, R212). -/
theorem Dev.fetchPlace_signals {s : State} (d : Dev) {p : Place} (gen : List Byte) (hrep : p.replay = false) (hcls : p.run.cls = clsSignal)
    (hgen : p.run.generated = true) (hep : endpointOf p.run.bundle < 8) :
    ∃ hall, d.fetchPlace s p gen =
        (⟨padTo 112 0 ((d.chip.tow.waiting (endpointOf p.run.bundle) p.room p.run.dest).flatMap SigRec.bytes), 0⟩, d.onChip fun c => { c with
          tow := { c.tow with signals :=
            (d.chip.tow.waiting (endpointOf p.run.bundle) p.room p.run.dest).foldl (fun a x => a.erase x) c.tow.signals }, hall })
      ∧ hall.slipped = d.chip.hall.slipped := by
  have hread : p.run.reread = false := by simp [RunE.reread, hgen]
  have hpayload : d.payloadOf s p gen = d.takeSignals (endpointOf p.run.bundle) p.room p.run.dest gen := by
    simp [Dev.payloadOf, hread, hcls, hgen, show ¬ 8 ≤ endpointOf p.run.bundle by omega, show ¬ 20 ≤ endpointOf p.run.bundle by omega]
  rw [Dev.takeSignals_tower d hep] at hpayload
  simp only [Dev.fetchPlace, hrep, hpayload, hread, Bool.false_and, Bool.false_eq_true, if_false]
  exact ⟨_, rfl, rfl⟩

end Sys2Proof.Machine

namespace Sys2Proof.Claims

open Sys2Proof.Machine

section
variable {s : State} {bundle line slot : Nat} (h : Ready s) (hs : s.dev.chip.LineSends bundle line slot) (late : Bool) (gen : List Byte)
include h hs

/-- Slot 3 of a line whose two dies agree (R204). -/
theorem slotSend_agrees (h3 : slot = 3) (hagree : (s.dev.chip.bundle bundle).checkUpper bundle = (s.dev.chip.bundle bundle).check bundle
      ∧ ((s.dev.chip.bundle bundle).goodUpper = (s.dev.chip.bundle bundle).goodBase ∨ (s.dev.chip.bundle bundle).agree = true)) :
    ∃ t, exec (.slotSend bundle line slot late gen) s = .next t
      ∧ Answers s t [.slot bundle line (slotSymbols (s.dev.chip.header bundle line))] := by
  have hsend := slotSend_header (s := s) (d := { s.dev with out := [] }) hs late gen h3
  rw [Dev.checkUpper_agrees (d := { s.dev with out := [] }) hagree] at hsend
  exact ⟨_, runs_of_clean h.2 hsend (h.clean.congr rfl rfl), rfl⟩

/-- Slot 3 of a line whose two dies do not agree (R207). -/
theorem slotSend_differs (h3 : slot = 3) (hdiffer : ¬ ((s.dev.chip.bundle bundle).checkUpper bundle = (s.dev.chip.bundle bundle).check bundle
      ∧ ((s.dev.chip.bundle bundle).goodUpper = (s.dev.chip.bundle bundle).goodBase ∨ (s.dev.chip.bundle bundle).agree = true)))
    (hmap : (s.dev.chip.bundle bundle).mismatch = false) :
    ∃ t, exec (.slotSend bundle line slot late gen) s = .next t
      ∧ (t.dev.chip.bundle bundle).mismatch = true ∧ (t.dev.chip.bundle bundle).agreeDue = true ∧ flagged t F.HALL_INT_STATUS_MAP_MISMATCH
      ∧ (∀ j, j ≠ bundle → t.dev.chip.bundle j = s.dev.chip.bundle j) ∧ Quiet s t := by
  have hsend := slotSend_header (s := s) (d := { s.dev with out := [] }) hs late gen h3
  obtain ⟨integ, snap, cnt, tot, heq⟩ := Dev.mapMismatch_eq (d := { s.dev with out := [] }) hmap
  rw [Dev.checkUpper_differs (d := { s.dev with out := [] }) hdiffer, heq] at hsend
  have hbundle := Hall.bundle_mismatched s.dev.chip.hall bundle
  refine ⟨_, runs_of_clean h.2 hsend (h.clean.congr rfl rfl), ?_, ?_, flagged_flag (d := s.dev) rfl (by decide),
    fun j hj => (hbundle j).trans (if_neg hj), quiet_of_outerParts rfl⟩
  · exact congrArg Bundle.mismatch ((hbundle bundle).trans (if_pos rfl))
  · exact congrArg Bundle.agreeDue ((hbundle bundle).trans (if_pos rfl))

/-- A place that the schedule leaves free (R201). -/
theorem slotSend_free (h3 : slot ≠ 3)
    (hp : s.dev.chip.placeAt bundle ((s.dev.chip.bundle bundle).roles.getD line roleRetired) slot = none) :
    exec (.slotSend bundle line slot late gen) s = .next { s with dev :=
      (({ s.dev with out := [] } : Dev).idlePayload (bundle * 18 + line)).2.emit (.slot bundle line (slotSymbols
        (slotBytes (({ s.dev with out := [] } : Dev).idlePayload (bundle * 18 + line)).1 0 bundle line s.dev.chip.frm.cur false))) } :=
  runs_of_clean h.2 (slotSend_idle (s := s) (d := { s.dev with out := [] }) hs late gen h3 hp) (h.clean.congr rfl rfl)

section
variable {p : Place} (h3 : slot ≠ 3) (hp : s.dev.chip.placeAt bundle ((s.dev.chip.bundle bundle).roles.getD line roleRetired) slot = some p)
  (hrep : p.replay = false) (hfold : p.folded = false) (hep : endpointOf p.run.bundle < 8)
  (hslip : (bundle, p.lane, slot) ∉ s.dev.chip.hall.slipped)
include h3 hp hrep hfold hep hslip

/-- A slot scheduled from a slice without errors (R171, R202). -/
theorem slotSend_reads (hread : p.run.reread = true) (hkind : p.run.dkind ≠ 6) (hin : p.run.srcAddr + 112 * p.index + 112 ≤ sliceBytes)
    (herr : errorFree s (s.dev.chip.sourceCore p) (p.run.srcAddr + 112 * p.index) 112 = true) :
    ∃ t, exec (.slotSend bundle line slot late gen) s = .next t
      ∧ t.dev.out = [.slot bundle line (slotSymbols (slotBytes (s.mem.bytes (pantryAddr (s.dev.chip.sourceCore p)
          (p.run.srcAddr + 112 * p.index)) 112) (maskOf 7 fun w => s.dev.husked (wordKey (s.dev.chip.sourceCore p)
            ((p.run.srcAddr + 112 * p.index) / 16 + w))) bundle line s.dev.chip.frm.cur late))]
      ∧ (late = true → counted s t 1 F.TOW_PAN_TXLATE (endpointOf p.run.bundle) 0 (coreSel (s.dev.chip.sourceCore p))
          ∧ flagged t F.TOW_PAN_STATUS_TX_LATE (endpointOf p.run.bundle) 0 (coreSel (s.dev.chip.sourceCore p)))
      ∧ t.dev.chip.tow = s.dev.chip.tow ∧ SameMemory s t ∧ KeepsOuter s t := by
  have hclean : ∀ w ∈ wordsOf (p.run.srcAddr + 112 * p.index) 112, Tab.get 0 s.dev.chip.tow.errs (wordKey (s.dev.chip.sourceCore p) w) = 0 := by
    simpa [errorFree] using herr
  have hfetch := Dev.fetchPlace_read (s := s) (d := { s.dev with out := [] }) gen hrep hread hkind hep h.1.wr hin hclean
  have hlate := Dev.countLate_tower ({ s.dev with out := [] } : Dev) hep
  have hsend := slotSend_data (s := s) (d := { s.dev with out := [] }) hs late gen h3 hp hrep hfold hfetch (by
    rw [hlate]
    split <;> exact hslip)
  rw [hread, Bool.and_true, hlate] at hsend
  obtain ⟨husks, hpayload⟩ := Dev.sendPayload_eq (if late then _ else _) bundle line p.room _ late
  rw [hpayload] at hsend
  cases late with
  | false => exact ⟨_, runs_of_clean h.2 hsend (h.clean.congr rfl rfl), rfl, nofun, rfl, (quiet_of_outerParts rfl).2, (quiet_of_outerParts rfl).1⟩
  | true =>
    exact ⟨_, runs_of_clean h.2 hsend (h.clean.congr rfl rfl), rfl, fun _ => ⟨counted_count s s.dev rfl .., flagged_flag rfl (by decide)⟩, rfl,
      (quiet_of_outerParts rfl).2, (quiet_of_outerParts rfl).1⟩

/-- A generated signal slot of a tower (R185, R197). -/
theorem slotSend_signals (hcls : p.run.cls = clsSignal) (hgen : p.run.generated = true) :
    ∃ t, exec (.slotSend bundle line slot late gen) s = .next t
      ∧ t.dev.out = [.slot bundle line (slotSymbols (slotBytes (padTo 112 0
          ((s.dev.chip.tow.waiting (endpointOf p.run.bundle) p.room p.run.dest).flatMap SigRec.bytes)) 0 bundle line s.dev.chip.frm.cur false))]
      ∧ t.dev.chip.tow = { s.dev.chip.tow with signals :=
          (s.dev.chip.tow.waiting (endpointOf p.run.bundle) p.room p.run.dest).foldl (fun a x => a.erase x) s.dev.chip.tow.signals }
      ∧ SameMemory s t ∧ KeepsOuter s t := by
  have hread : p.run.reread = false := by simp [RunE.reread, hgen]
  obtain ⟨hall, hfetch, hslipped⟩ := Dev.fetchPlace_signals (s := s) ({ s.dev with out := [] } : Dev) gen hrep hcls hgen hep
  have hsend := slotSend_data (s := s) (d := { s.dev with out := [] }) hs late gen h3 hp hrep hfold hfetch (by
    rw [hread, Bool.and_false, if_neg Bool.false_ne_true]
    exact hslipped ▸ hslip)
  rw [hread, Bool.and_false, if_neg Bool.false_ne_true] at hsend
  exact ⟨_, runs_of_clean h.2 hsend (h.clean.congr rfl rfl), rfl, rfl, (quiet_of_outerParts rfl).2, (quiet_of_outerParts rfl).1⟩

end

end

/-- Settles O34: past its guards a line sends its header, an idle slot, or what its place carries. -/
theorem slotsAreSent : Obligations.SlotsAreSent := by
  unfold Obligations.SlotsAreSent
  intro s bundle line slot late gen h c b place agree seed g hb hl hlo hhi hst2 hst5 hdark hretired
  have hs : s.dev.chip.LineSends bundle line slot := ⟨hb, hl, hlo, hhi, hst2, hst5, hdark, hretired⟩
  exact ⟨slotSend_agrees h hs late gen, slotSend_differs h hs late gen,
    fun h3 hp => ⟨_, slotSend_free h hs late gen h3 hp, rfl⟩,
    fun p h3 hp hrep hfold hread hkind hep hslip => slotSend_reads h hs late gen h3 hp hrep hfold hep hslip hread hkind,
    fun p h3 hp hrep hfold hcls hgen hep hslip => slotSend_signals h hs late gen h3 hp hrep hfold hep hslip hcls hgen⟩

end Sys2Proof.Claims
end

section
/-! PROOF. Sum-on-arrival (R180 to R182, R264): a slot number whose contributions are all held is combined, written and used up. -/

namespace Sys2Proof.Machine

/-! ## The combined payload -/

/-- A combined payload fills the slot (R180). -/
theorem soaCombine_length (ty : Nat) (old : Option (List Byte)) (parts : List (List Byte)) : (soaCombine ty old parts).1.length = 112 := by
  have hwidth : 112 / soaWidth ty * soaWidth ty = 112 := by
    unfold soaWidth
    split <;> rfl
  have hbytes (l : List (Nat × Nat)) : (l.flatMap fun e => leBytes (soaWidth ty) e.1).length = l.length * soaWidth ty :=
    flatMap_length_const _ _ _ fun _ => leBytes_length ..
  rw [soaCombine, hbytes, List.length_map, List.length_range, hwidth]

/-- The words of a payload, one after another. -/
theorem flatMap_payloadWord {l : List Byte} (n : Nat) (h : l.length = 16 * n) : (List.range n).flatMap (payloadWord l) = l := by
  have hwords (k : Nat) : (List.range k).flatMap (payloadWord l) = l.take (16 * k) := by
    induction k with
    | zero => rfl
    | succ k ih =>
      rw [List.range_succ, List.flatMap_append, ih, List.flatMap_singleton, payloadWord, Nat.mul_succ, List.take_add]
  rw [hwords, ← h, List.take_length]

/-! ## Writing a slot number -/

/-- The contributions of a slot number of a tree, in the order of its sources (R179, R180). -/
def Chip.soaHeld (c : Chip) (frame : Nat) (x : SoaTree) (k : Nat) : List SoaPart :=
  (List.range x.srcs.length).filterMap fun i => (c.soaParts frame x k).find? fun p => p.src = i

/-- They are combined without what stands where they go (R180). -/
def Chip.soaSum (c : Chip) (frame : Nat) (x : SoaTree) (k : Nat) : List Byte × Nat :=
  soaCombine x.ty none ((c.soaHeld frame x k).map SoaPart.bytes)

/-- The contributions that are left once those of a slot number are used up (R182). -/
def Towers.without (t : Towers) (frame : Nat) (x : SoaTree) (k : Nat) : Towers :=
  { t with parts := t.parts.filter fun p => !(p.frame = frame && p.tile = x.tile && p.tree = x.id && p.room = x.room && p.k = k) }

/-- The device with a slot number's contributions used up and `sats` saturations counted (R181, R182). -/
def Dev.soaUsed (d : Dev) (x : SoaTree) (frame k sats : Nat) : Dev :=
  (d.onTow fun t => t.without frame x k).soaCount x.tile F.TOW_SOA_SAT F.CEL_SOA_SAT sats

section
variable (s : State) (d : Dev) {x : SoaTree} (frame k : Nat)

/-- Counting leaves all but the counts as it is; nothing is counted where nothing saturated (R188). -/
theorem Dev.soaCount_eq (tile : Nat) (tower cellar : Fld) (n : Nat) : ∃ cnt tot, d.soaCount tile tower cellar n = { d with cnt, tot } := by
  unfold Dev.soaCount
  split
  · exact ⟨_, _, rfl⟩
  · split <;> exact ⟨_, _, rfl⟩

/-- A slot number without husked words, of a tree that does not add to what stands there, is written with its combined words (R180, R182). -/
theorem Dev.soaStore_sound (hacc : ¬ (x.kind = 0 ∧ x.accum = true)) (hsound : ∀ p ∈ d.chip.soaParts frame x k, p.husks = 0) :
    d.soaStore s x frame k =
      if x.kind = 0 then
        (d.soaUsed x frame k (d.chip.soaSum frame x k).2).landWords (d.chip.physCore (x.tile * 16 + x.unit / 16 % 16) (x.unit % 16))
          ((x.addr + 112 * k) / 16) (fun w => (payloadWord (d.chip.soaSum frame x k).1 w, false)) 7
      else (d.soaUsed x frame k (d.chip.soaSum frame x k).2).onCel fun c => { c with writes := c.writes ++
        [⟨frame, (x.tile - 8) * 64 + x.unit % 64, x.addr + 112 * k, (d.chip.soaSum frame x k).1, 0⟩] } := by
  have hnone (w : Nat) : (d.chip.soaHeld frame x k).find? (fun p => bitOf p.husks w) = none := by
    refine List.find?_eq_none.mpr fun p hp => ?_
    obtain ⟨i, -, hi⟩ := List.mem_filterMap.mp hp
    rw [hsound p (List.mem_of_find?_eq_some hi), bitOf, Nat.zero_testBit]
    decide
  have hbytes : (List.range 7).flatMap (payloadWord (d.chip.soaSum frame x k).1) = (d.chip.soaSum frame x k).1 :=
    flatMap_payloadWord 7 (soaCombine_length ..)
  have hheld : ((List.range x.srcs.length).filterMap fun i => (d.chip.soaParts frame x k).find? fun p => p.src = i) =
      d.chip.soaHeld frame x k := rfl
  unfold Dev.soaStore
  simp only [hacc, if_false, false_and, hheld, hnone]
  split
  · rfl
  · exact congrArg (fun bytes => (d.soaUsed x frame k (d.chip.soaSum frame x k).2).onCel fun c => { c with writes := c.writes ++
      [⟨frame, (x.tile - 8) * 64 + x.unit % 64, x.addr + 112 * k, bytes, 0⟩] }) hbytes

/-- What using up a slot number's contributions changes (R181, R182). -/
theorem Dev.soaUsed_eq (x : SoaTree) (sats : Nat) : ∃ cnt tot, d.soaUsed x frame k sats =
    { d with chip := { d.chip with tow := d.chip.tow.without frame x k }, cnt, tot } := Dev.soaCount_eq ..

/-- Saturations of a tower's tile are counted (R181, R188). -/
theorem Dev.soaUsed_cnt {x : SoaTree} (htower : x.tile < 8) {sats : Nat} (hsats : sats ≠ 0) :
    (Tab.get {} (d.soaUsed x frame k sats).cnt (cntKey F.TOW_SOA_SAT x.tile 0 0)).n =
      satAdd F.TOW_SOA_SAT.w (Tab.get {} d.cnt (cntKey F.TOW_SOA_SAT x.tile 0 0)).n sats := by
  simp [Dev.soaUsed, Dev.soaCount, hsats, htower, Dev.count, Tab.get_upd, Dev.onTow, Dev.onChip]

/-- None of the contributions used up is left, and the others are. -/
theorem Chip.soaParts_without (c : Chip) (x : SoaTree) {t : Towers} (ht : t.parts = (c.tow.without frame x k).parts) :
    Chip.soaParts { c with tow := t } frame x k = []
      ∧ ∀ p, p ∉ c.soaParts frame x k → (p ∈ t.parts ↔ p ∈ c.tow.parts) := by
  refine ⟨List.filter_eq_nil_iff.mpr fun p hp hmine => ?_, fun p hp => ?_⟩
  · rw [show ({ c with tow := t } : Chip).tow.parts = (c.tow.without frame x k).parts from ht] at hp
    simpa only [hmine, Bool.not_true, Bool.false_eq_true] using (List.mem_filter.mp hp).2
  · rw [ht]
    refine ⟨fun h => (List.mem_filter.mp h).1, fun h => List.mem_filter.mpr ⟨h, ?_⟩⟩
    by_contra hmine
    exact hp (List.mem_filter.mpr ⟨h, by simpa only [Bool.not_eq_true', Bool.not_eq_false] using hmine⟩)

end

/-- SOA_WRITE for one tree: its slot number is written once every source has contributed (R182). -/
theorem soaWrite_one {s : State} {d : Dev} {tile id k frame : Nat} {late : Bool} {x : SoaTree}
    (hframe : frame = if late then frameSub d.chip.frm.cur 1 else d.chip.frm.cur)
    (hx : ((d.chip.treesOf frame).filter fun t => t.tile = tile && t.id = id) = [x]) :
    soaWrite tile id k late s d =
      if ∀ i, i < x.srcs.length → ((d.chip.soaParts frame x k).any fun p => p.src = i) = true then d.soaStore s x frame k else d := by
  unfold soaWrite
  simp only [← hframe, hx, List.foldl_cons, List.foldl_nil, List.all_eq_true, List.mem_range]

end Sys2Proof.Machine

namespace Sys2Proof.Claims

open Sys2Proof.Machine

section
variable {s : State} {tile id k : Nat} {late : Bool} {x : SoaTree} {frame : Nat} (h : Ready s)
  (hframe : frame = if late then frameSub s.dev.chip.frm.cur 1 else s.dev.chip.frm.cur)
  (hx : ((s.dev.chip.treesOf frame).filter fun t => t.tile = tile && t.id = id) = [x])
include h hframe hx

/-- A contribution is missing (R182). -/
theorem soaWrite_waits (hmissing : ¬ ∀ i, i < x.srcs.length → ((s.dev.chip.soaParts frame x k).any fun p => p.src = i) = true) :
    ∃ t, exec (.soaWrite tile id k late) s = .next t ∧ Answers s t [] := by
  have hwrite := soaWrite_one (s := s) (d := { s.dev with out := [] }) (k := k) hframe hx
  exact ⟨_, runs_of_clean h.2 (hwrite.trans (if_neg hmissing)) h.clean, rfl⟩

/-- All contributions are held and sound: the slot number is written (R182). -/
theorem soaWrite_writes (hall : ∀ i, i < x.srcs.length → ((s.dev.chip.soaParts frame x k).any fun p => p.src = i) = true)
    (hacc : ¬ (x.kind = 0 ∧ x.accum = true)) (hsound : ∀ p ∈ s.dev.chip.soaParts frame x k, p.husks = 0) :
    exec (.soaWrite tile id k late) s = .next (commit s
      (if x.kind = 0 then
        (({ s.dev with out := [] } : Dev).soaUsed x frame k (s.dev.chip.soaSum frame x k).2).landWords
          (s.dev.chip.physCore (x.tile * 16 + x.unit / 16 % 16) (x.unit % 16)) ((x.addr + 112 * k) / 16)
          (fun w => (payloadWord (s.dev.chip.soaSum frame x k).1 w, false)) 7
      else (({ s.dev with out := [] } : Dev).soaUsed x frame k (s.dev.chip.soaSum frame x k).2).onCel fun c => { c with writes := c.writes ++
        [⟨frame, (x.tile - 8) * 64 + x.unit % 64, x.addr + 112 * k, (s.dev.chip.soaSum frame x k).1, 0⟩] })) := by
  have hwrite := soaWrite_one (s := s) (d := { s.dev with out := [] }) (k := k) hframe hx
  have hstore := Dev.soaStore_sound s ({ s.dev with out := [] } : Dev) frame k hacc hsound
  exact (runs_active h.2 _).trans (congrArg (fun d => Host.Outcome.next (commit s d)) ((hwrite.trans (if_pos hall)).trans hstore))

end

/-- Settles O40: one tree is meant, and its slot number is written by the kind of its destination. -/
theorem sumOnArrival : Obligations.SumOnArrival := by
  unfold Obligations.SumOnArrival
  intro s tile id k late x h c frame held have' sum hx
  have hmem : x ∈ (c.treesOf frame).filter fun t => t.tile = tile && t.id = id := hx ▸ List.mem_singleton_self x
  obtain ⟨htile, -⟩ : x.tile = tile ∧ x.id = id := by simpa using (List.mem_filter.mp hmem).2
  obtain ⟨cnt, tot, hused⟩ := Dev.soaUsed_eq ({ s.dev with out := [] } : Dev) frame k x sum.2
  refine ⟨soaWrite_waits h rfl hx, fun hall hkind hsound => ?_, ?_⟩
  · have hrun := soaWrite_writes h rfl hx hall (fun hstack => by omega) hsound
    rw [if_neg (by omega), show (s.dev.chip.soaSum frame x k) = sum from rfl, hused] at hrun
    obtain ⟨hgone, hothers⟩ := Chip.soaParts_without frame k c x (t := c.tow.without frame x k) rfl
    refine ⟨_, hrun, ?_, ?_, ?_, ⟨keepsOuter_commit rfl h.1.used, fun a => by rw [commit_mem, Dev.onCel_eq, Dev.onChip_wr, h.1.wr, Mem.apply_nil]⟩, ?_⟩
    · rw [commit_chip, ← htile]
      rfl
    · rw [commit_chip]
      exact hgone
    · rw [commit_chip]
      exact hothers
    · rw [commit_chip]
      rfl
  · intro hall hkind hacc htower hsound core w0
    have hrun := soaWrite_writes h rfl hx hall (fun hadds => by simp [hacc] at hadds) hsound
    have hgone := (Chip.soaParts_without frame k c x (t := c.tow.without frame x k) rfl).1
    rw [if_pos hkind, show (s.dev.chip.soaSum frame x k) = sum from rfl, htile] at hrun
    obtain ⟨hput, hkeep, hmarks, hcores, hparts, -, hcel, hcnt, houter⟩ := landed_commit (s := s) core w0 (payload := sum.1) (soaCombine_length ..)
      (fun _ => false) (d := ({ s.dev with out := [] } : Dev).soaUsed x frame k sum.2) (by rw [hused]; exact h.1.wr) (by rw [hused]; exact h.1.used)
      (by rw [hused]; rfl)
    refine ⟨_, hrun, hput, hkeep, hmarks, fun hsats => ?_, ?_, hcores.trans (by rw [hused]; rfl), hcel.trans (by rw [hused]), houter⟩
    · rw [counted, hcnt, ← htile]
      exact Dev.soaUsed_cnt ({ s.dev with out := [] } : Dev) frame k (by omega) hsats
    · exact (congrArg (List.filter _) (hparts.trans (by rw [hused]))).trans hgone

end Sys2Proof.Claims
end

section
/-! PROOF. Barriers, flags, doorbells and in-band interrupts (R185, R186, R311, R541): what each record does where it arrives. -/

namespace Sys2Proof.Machine

/-! ## Barriers -/

/-- Who a record of arrivals speaks for: of cores those whose own arrival is old enough, of other senders themselves (R185). -/
def Chip.cameFrom (c : Chip) (id sender row mask frame : Nat) : List Nat :=
  if sender < 8 then ((bitList 16 mask).map fun x => (sender * 16 + row) * 16 + x).filter fun m => c.arrivedBy m id frame
  else if bitOf mask 0 then [4096 + sender] else []

/-- A record of arrivals at a barrier's home (R185). -/
theorem barrierArrive_home {d : Dev} {ep room id : Nat} {b : Barrier} (hb : Tab.find d.chip.tow.barriers (room * 256 + id) = some b)
    (hroom : room < 16) (hid : id < 256) (hhome : b.home = ep) (hmem : b.members ≠ []) (sender row mask : Nat) (late : Bool) :
    barrierArrive ep room id sender row mask late d =
      let done := frameSub d.chip.frm.cur (if late then 2 else 1)
      let came := (d.chip.cameFrom id sender row mask done).filter fun m => m ∈ b.members && m ∉ b.arrived
      if ∀ m ∈ b.members, m ∈ b.arrived ++ came then
        d.onTow fun t => { t with
          barriers := Tab.ins t.barriers (room * 256 + id) { b with arrived := [], doneFrame := some done }
          signals := t.signals ++ b.doneRecords ep room id done }
      else d.onTow fun t => { t with barriers := Tab.ins t.barriers (room * 256 + id) { b with arrived := b.arrived ++ came } } := by
  have hguard : ¬ (16 ≤ room ∨ 256 ≤ id ∨ b.home ≠ ep ∨ b.members.isEmpty = true) := by
    simp only [hhome, ne_eq, not_true, List.isEmpty_iff, hmem, or_false]
    omega
  unfold barrierArrive
  simp only [hb, if_neg hguard, List.all_eq_true, decide_eq_true_eq]
  rfl

/-- A completion that reaches one member core: it is delivered where the core's last arrival is old enough (R157, R185). -/
def Core.complete (id frame : Nat) (c : Core) : Core :=
  if c.arrived.any fun p => p.1 = id && !frameLater p.2 frame then
    { c with arrived := c.arrived.filter (fun p => p.1 ≠ id), done := c.done ++ [id] }
  else c

/-- The core that carries a barrier's member. -/
def Chip.memberCore (c : Chip) (m : Nat) : Nat := c.physCore (m / 16) (m % 16)

theorem Core.complete_done {id frame : Nat} {c : Core} (h : ∃ p ∈ c.arrived, p.1 = id ∧ frameLater p.2 frame = false) :
    id ∈ (c.complete id frame).done := by
  rw [Core.complete, if_pos (by simpa using h)]
  simp

theorem Core.mem_done_complete {id frame : Nat} {c : Core} (h : id ∈ c.done) : id ∈ (c.complete id frame).done := by
  unfold Core.complete
  split
  · simp [h]
  · exact h

/-- A completion reaches the cores of a list of members, one after another. -/
def Dev.completeCores (d : Dev) (id frame : Nat) (l : List Nat) : Dev :=
  l.foldl (fun d m => d.onCore (d.chip.memberCore m) (Core.complete id frame)) d

theorem Dev.core_onCore_memberCore (d : Dev) (m k : Nat) (g : Core → Core) :
    (d.onCore (d.chip.memberCore m) g).chip.core k = if k = d.chip.memberCore m then g (d.chip.core k) else d.chip.core k := by
  rw [Dev.onCore_eq, Dev.onChip_chip, Chip.core_setCore]
  split
  · next h => rw [h]
  · rfl

section
variable (id frame : Nat) (l : List Nat)

/-- Of the device only the cores change. -/
theorem Dev.completeCores_eq (d : Dev) : ∃ cores, d.completeCores id frame l = d.onTow fun t => { t with cores } := by
  induction l generalizing d with
  | nil => exact ⟨d.chip.tow.cores, rfl⟩
  | cons m l ih =>
    obtain ⟨cores, h⟩ := ih (d.onCore (d.chip.memberCore m) (Core.complete id frame))
    exact ⟨cores, h⟩

/-- A core that carries no member of the list is left alone. -/
theorem Dev.completeCores_other (d : Dev) {k : Nat} (h : ∀ m ∈ l, k ≠ d.chip.memberCore m) : (d.completeCores id frame l).chip.core k = d.chip.core k := by
  induction l generalizing d with
  | nil => rfl
  | cons m l ih =>
    refine (ih (d.onCore (d.chip.memberCore m) (Core.complete id frame)) fun x hx => h x (by simp [hx])).trans ?_
    rw [Dev.core_onCore_memberCore, if_neg (h m (by simp))]

/-- A completion that a core holds stays with it. -/
theorem Dev.mem_done_completeCores {d : Dev} {k : Nat} (h : id ∈ (d.chip.core k).done) : id ∈ ((d.completeCores id frame l).chip.core k).done := by
  induction l generalizing d with
  | nil => exact h
  | cons m l ih =>
    refine ih (d := d.onCore (d.chip.memberCore m) (Core.complete id frame)) ?_
    rw [Dev.core_onCore_memberCore]
    split
    · exact Core.mem_done_complete h
    · exact h

/-- A member of the list whose core arrived in time holds the completion. -/
theorem Dev.completeCores_done {d : Dev} {m : Nat} (hm : m ∈ l)
    (h : ∃ p ∈ (d.chip.core (d.chip.memberCore m)).arrived, p.1 = id ∧ frameLater p.2 frame = false) :
    id ∈ ((d.completeCores id frame l).chip.core (d.chip.memberCore m)).done := by
  induction l generalizing d with
  | nil => cases hm
  | cons x l ih =>
    have hcore := Dev.core_onCore_memberCore d x (d.chip.memberCore m) (Core.complete id frame)
    by_cases hx : d.chip.memberCore m = d.chip.memberCore x
    · rw [if_pos hx] at hcore
      exact Dev.mem_done_completeCores id frame l (d := d.onCore (d.chip.memberCore x) (Core.complete id frame))
        (hcore ▸ Core.complete_done h)
    · rw [if_neg hx] at hcore
      have hl : m ∈ l := (List.mem_cons.mp hm).resolve_left fun heq => hx (congrArg d.chip.memberCore heq)
      exact ih (d := d.onCore (d.chip.memberCore x) (Core.complete id frame)) hl (hcore ▸ h)

end

theorem all_eq_false_of_eq_some {α : Type} {o : Option α} {x : α} {p : α → Bool} (h : o = some x) (hp : p x = false) : o.all p = false := by
  rw [h, Option.all_some, hp]

/-- A completion on its way to a tower's members (R157, R185). -/
theorem barrierDone_members {d : Dev} {ep room id frame f : Nat} {b : Barrier} (hb : Tab.find d.chip.tow.barriers (room * 256 + id) = some b)
    (hroom : room < 16) (hid : id < 256) (hep : ep < 8) (hdone : b.doneFrame = some f) (hlate : frameLater frame f = false) :
    barrierDone ep room id frame d = d.completeCores id frame (b.members.filter fun m => decide (m < 2048) && m / 256 = ep) := by
  have hold : (b.doneFrame.all fun f => frameLater frame f) = false := all_eq_false_of_eq_some hdone hlate
  have hguard : ¬ (16 ≤ room ∨ 256 ≤ id ∨ 8 ≤ ep ∨ (b.doneFrame.all fun f => frameLater frame f) = true) := by
    rw [hold]
    simp only [Bool.false_eq_true, or_false]
    omega
  unfold barrierDone
  rw [hb]
  exact if_neg hguard

/-! ## Flags -/

/-- A value raised at a flag's home, in the running frame or, from a replay, in the one before (R186). -/
def Flag.raise (f : Flag) (value : Nat) (late : Bool) : Flag :=
  if late then { f with deliver := some (f.deliver.getD 0 ||| value % 2 ^ 32) } else { f with raised := some (f.raised.getD 0 ||| value % 2 ^ 32) }

theorem flagRaise_home {d : Dev} {ep room id : Nat} {f : Flag} (hf : Tab.find d.chip.tow.flags (room * 64 + id) = some f) (hroom : room < 16)
    (hid : id < 64) (hhome : f.home = ep) (value : Nat) (late : Bool) :
    flagRaise ep room id value late d = d.onTow fun t => { t with flags := Tab.ins t.flags (room * 64 + id) (f.raise value late) } := by
  have hguard : ¬ (16 ≤ room ∨ 64 ≤ id ∨ f.home ≠ ep) := by omega
  unfold flagRaise
  simp only [hf, if_neg hguard]
  rfl

/-! ## Interrupts -/

/-- Every number of a list is at most their maximum. -/
theorem le_foldl_max (l : List Nat) (a : Nat) : a ≤ l.foldl max a ∧ ∀ x ∈ l, x ≤ l.foldl max a := by
  induction l generalizing a with
  | nil => exact ⟨Nat.le_refl a, nofun⟩
  | cons y l ih =>
    obtain ⟨hstart, hrest⟩ := ih (max a y)
    exact ⟨(Nat.le_max_left a y).trans hstart, fun x hx => (List.mem_cons.mp hx).elim (fun h => h ▸ (Nat.le_max_right a y).trans hstart) (hrest x)⟩

/-- The in-band records of a host once it has one of a room's vector in a frame, in the order of those before it (R541). -/
def HostIf.noted (h : HostIf) (room vec frame : Nat) : List (Nat × Nat × Nat × Nat) :=
  if h.inband.any fun x => (x.1, x.2.1, x.2.2.1) = (room, vec, frame) then h.inband
  else h.inband ++ [(room, vec, frame, (h.inband.map fun x => x.2.2.2).foldl max 0)]

theorem HostIf.mem_noted (h : HostIf) (room vec frame : Nat) :
    (∃ o, (room, vec, frame, o) ∈ h.noted room vec frame) ∧ ∀ x ∈ h.inband, x ∈ h.noted room vec frame := by
  unfold HostIf.noted
  split
  · next hany =>
    obtain ⟨⟨room', vec', frame', o⟩, hx, hsame⟩ := List.any_eq_true.mp hany
    obtain ⟨rfl, rfl, rfl⟩ : room' = room ∧ vec' = vec ∧ frame' = frame := by simpa using hsame
    exact ⟨⟨o, hx⟩, fun _ => id⟩
  · exact ⟨⟨_, List.mem_append_right _ (List.mem_singleton_self _)⟩, fun x hx => List.mem_append_left _ hx⟩

/-- A record that may stand, without a place of its own, follows what has come before it (R541). -/
theorem interruptRecord_own {d : Dev} {room vec : Nat} (hroom : room < 16) (hlo : 1 ≤ vec) (hhi : vec ≤ 63) (late : Bool) :
    interruptRecord room room vec none late d =
      d.onHost fun h => { h with inband := d.chip.host.noted room vec (if late then frameSub d.chip.frm.cur 1 else d.chip.frm.cur) } := by
  have hguard : ¬ (room ≠ room ∨ 16 ≤ room ∨ vec = 0 ∨ 63 < vec) := by omega
  have hmin (x : Nat × Nat × Nat × Nat) (hx : x ∈ d.chip.host.inband) :
      min x.2.2.2 ((d.chip.host.inband.map fun x => x.2.2.2).foldl max 0) = x.2.2.2 :=
    Nat.min_eq_left ((le_foldl_max _ 0).2 _ (List.mem_map_of_mem hx))
  have hkept (p : Nat × Nat × Nat × Nat → Bool) : (d.chip.host.inband.map fun x =>
      if p x then (x.1, x.2.1, x.2.2.1, min x.2.2.2 ((d.chip.host.inband.map fun x => x.2.2.2).foldl max 0)) else x) = d.chip.host.inband := by
    refine (List.map_congr_left fun x hx => ?_).trans (List.map_id _)
    rw [hmin x hx]
    exact ite_self x
  unfold interruptRecord
  simp only [if_neg hguard, Option.getD_none, hkept]
  rfl

/-- A record that may not stand (R541). -/
theorem interruptRecord_bad {d : Dev} {owner room vec : Nat} (h : room ≠ owner ∨ vec = 0 ∨ 63 < vec) (order : Option Nat) (late : Bool) :
    interruptRecord owner room vec order late d = d.badDoorbell := if_pos (by omega)

/-! ## Doorbells -/

/-- A change of a queue that keeps its cells changes its entry alone, but for an event of the reserve (R299, R302). -/
theorem Dev.onQueue_held (d : Dev) (q : Nat) {f : Queue → Queue} (hheld : ∀ x, (f x).held = x.held) : ∃ ev, d.onQueue q f =
    { d with chip := { d.chip with que := { d.chip.que with qs := Tab.upd {} d.chip.que.qs q f } }, ev } := by
  simp only [Dev.onQueue, Dev.onQueues, hheld, Nat.lt_irrefl, if_false]
  split <;> exact ⟨_, rfl⟩

/-- A doorbell of a queue that takes one (R311). -/
theorem doorbell_rings {d : Dev} {room q : Nat} {e : QueueE} (hq : d.chip.queueDecl q = some (room, e)) (hkind : e.kind = qFeed ∨ e.kind = qFabModel)
    (value : Nat) (late : Bool) : doorbell room q value late d = d.onQueue q fun x =>
      { x with releases := x.releases ++ [(value % 2 ^ 32, if late then frameSub d.chip.frm.cur 1 else d.chip.frm.cur)] } := by
  unfold doorbell
  rw [hq]
  exact if_pos ⟨rfl, hkind⟩

theorem doorbell_none {d : Dev} {q : Nat} (hq : d.chip.queueDecl q = none) (room value : Nat) (late : Bool) :
    doorbell room q value late d = d.badDoorbell := by
  unfold doorbell
  rw [hq]

end Sys2Proof.Machine

namespace Sys2Proof.Claims

open Sys2Proof.Machine

/-- A record that changes the chip alone. -/
theorem runs_onChip {s : State} (h : Ready s) {k : Dev → Dev} {g : Chip → Chip}
    (hk : k { s.dev with out := [] } = ({ s.dev with out := [] } : Dev).onChip g) :
    ∃ t, runs s k = .next t ∧ t.dev.chip = g s.dev.chip ∧ Quiet s t :=
  ⟨_, runs_of_clean h.2 hk (h.clean.onChip g), rfl, quiet_of_outerParts rfl⟩

/-- A record that may not stand (R315, R541). -/
theorem runs_badDoorbell {s : State} (h : Ready s) {k : Dev → Dev} (hk : k { s.dev with out := [] } = ({ s.dev with out := [] } : Dev).badDoorbell) :
    ∃ t, runs s k = .next t ∧ counted s t 1 F.QUE_BAD_DOORBELL ∧ Leaves s t s.dev.chip :=
  ⟨_, runs_of_clean h.2 hk (h.clean.congr rfl rfl), counted_count s _ rfl .., quiet_of_outerParts rfl, rfl⟩

section
variable {s : State} (h : Ready s)
include h

theorem barrierArrive_acts {ep room id : Nat} {b : Barrier} (hb : Tab.find s.dev.chip.tow.barriers (room * 256 + id) = some b)
    (hroom : room < 16) (hid : id < 256) (hhome : b.home = ep) (hmem : b.members ≠ []) (sender row mask : Nat) (late : Bool) :
    let done := frameSub s.dev.chip.frm.cur (if late then 2 else 1)
    let came := (s.dev.chip.cameFrom id sender row mask done).filter fun m => m ∈ b.members && m ∉ b.arrived
    ∃ t b', exec (.barrierArrive ep room id sender row mask late) s = .next t
      ∧ Tab.find t.dev.chip.tow.barriers (room * 256 + id) = some b'
      ∧ ((∀ m ∈ b.members, m ∈ b.arrived ++ came) → b'.arrived = [] ∧ b'.doneFrame = some done
          ∧ t.dev.chip.tow.signals = s.dev.chip.tow.signals ++ b.doneRecords ep room id done)
      ∧ (¬ (∀ m ∈ b.members, m ∈ b.arrived ++ came) → b'.arrived = b.arrived ++ came ∧ b'.doneFrame = b.doneFrame
          ∧ t.dev.chip.tow.signals = s.dev.chip.tow.signals)
      ∧ (∀ j, j ≠ room * 256 + id → Tab.find t.dev.chip.tow.barriers j = Tab.find s.dev.chip.tow.barriers j)
      ∧ Leaves s t { s.dev.chip with tow := { s.dev.chip.tow with barriers := t.dev.chip.tow.barriers, signals := t.dev.chip.tow.signals } } := by
  intro done came
  have hhere (b' : Barrier) : Tab.find (Tab.ins s.dev.chip.tow.barriers (room * 256 + id) b') (room * 256 + id) = some b' := by
    rw [Tab.find_ins, if_pos rfl]
  have hothers (b' : Barrier) (j : Nat) (hj : j ≠ room * 256 + id) :
      Tab.find (Tab.ins s.dev.chip.tow.barriers (room * 256 + id) b') j = Tab.find s.dev.chip.tow.barriers j := by
    rw [Tab.find_ins, if_neg hj]
  have hstep := barrierArrive_home (d := { s.dev with out := [] }) hb hroom hid hhome hmem sender row mask late
  by_cases hfull : ∀ m ∈ b.members, m ∈ b.arrived ++ came
  · obtain ⟨t, hrun, hchip, hquiet⟩ := runs_onChip h (hstep.trans (if_pos hfull))
    refine ⟨t, _, hrun, by rw [hchip]; exact hhere _, fun _ => ⟨rfl, rfl, by rw [hchip]⟩, fun hnot => absurd hfull hnot, fun j hj => ?_, hquiet, ?_⟩
    · rw [hchip]
      exact hothers _ j hj
    · rw [hchip]
  · obtain ⟨t, hrun, hchip, hquiet⟩ := runs_onChip h (hstep.trans (if_neg hfull))
    refine ⟨t, { b with arrived := b.arrived ++ came }, hrun, by rw [hchip]; exact hhere _, fun hall => absurd hall hfull, fun _ => ⟨rfl, rfl, by rw [hchip]⟩, fun j hj => ?_, hquiet, ?_⟩
    · rw [hchip]
      exact hothers _ j hj
    · rw [hchip]

theorem barrierDone_acts {ep room id frame f : Nat} {b : Barrier} (hb : Tab.find s.dev.chip.tow.barriers (room * 256 + id) = some b)
    (hroom : room < 16) (hid : id < 256) (hep : ep < 8) (hdone : b.doneFrame = some f) (hlate : frameLater frame f = false) :
    ∃ t, exec (.barrierDone ep room id frame) s = .next t
      ∧ (∀ m ∈ b.members, m < 2048 → m / 256 = ep →
          (∃ p ∈ (s.dev.chip.core (s.dev.chip.memberCore m)).arrived, p.1 = id ∧ frameLater p.2 frame = false) →
          id ∈ (t.dev.chip.core (s.dev.chip.memberCore m)).done)
      ∧ (∀ k, (∀ m ∈ b.members, m / 256 = ep → k ≠ s.dev.chip.memberCore m) → t.dev.chip.core k = s.dev.chip.core k)
      ∧ Leaves s t { s.dev.chip with tow := { s.dev.chip.tow with cores := t.dev.chip.tow.cores } } := by
  let members := b.members.filter fun m => decide (m < 2048) && m / 256 = ep
  have hstep := barrierDone_members (d := { s.dev with out := [] }) hb hroom hid hep hdone hlate
  obtain ⟨cores, heq⟩ := Dev.completeCores_eq id frame members { s.dev with out := [] }
  obtain ⟨t, hrun, hchip, hquiet⟩ := runs_onChip h (hstep.trans heq)
  have hafter : t.dev.chip = (({ s.dev with out := [] } : Dev).completeCores id frame members).chip := by rw [hchip, heq]; rfl
  refine ⟨t, hrun, fun m hm hlt htile harr => ?_, fun k hk => ?_, hquiet, ?_⟩
  · rw [hafter]
    exact Dev.completeCores_done id frame members (List.mem_filter.mpr ⟨hm, by simp [hlt, htile]⟩) harr
  · rw [hafter]
    refine Dev.completeCores_other id frame members _ fun m hm => ?_
    obtain ⟨hm, htest⟩ := List.mem_filter.mp hm
    obtain ⟨-, htile⟩ : m < 2048 ∧ m / 256 = ep := by simpa using htest
    exact hk m hm htile
  · rw [hchip]

theorem flag_acts {ep room id : Nat} {f : Flag} (hf : Tab.find s.dev.chip.tow.flags (room * 64 + id) = some f) (hroom : room < 16)
    (hid : id < 64) (hhome : f.home = ep) (value : Nat) (late : Bool) :
    ∃ t, exec (.flag ep room id value late) s = .next t
      ∧ Tab.find t.dev.chip.tow.flags (room * 64 + id) = some (f.raise value late)
      ∧ (∀ j, j ≠ room * 64 + id → Tab.find t.dev.chip.tow.flags j = Tab.find s.dev.chip.tow.flags j)
      ∧ Leaves s t { s.dev.chip with tow := { s.dev.chip.tow with flags := t.dev.chip.tow.flags } } := by
  obtain ⟨t, hrun, hchip, hquiet⟩ := runs_onChip h (flagRaise_home (d := { s.dev with out := [] }) hf hroom hid hhome value late)
  refine ⟨t, hrun, ?_, fun j hj => ?_, hquiet, by rw [hchip]⟩
  · rw [hchip, Tab.find_ins, if_pos rfl]
  · rw [hchip, Tab.find_ins, if_neg hj]

theorem doorbell_acts {room q : Nat} {e : QueueE} (hq : s.dev.chip.queueDecl q = some (room, e)) (hkind : e.kind = qFeed ∨ e.kind = qFabModel)
    (value : Nat) (late : Bool) :
    ∃ t, exec (.doorbell room q value late) s = .next t
      ∧ (t.dev.chip.queue q).releases =
          (s.dev.chip.queue q).releases ++ [(value % 2 ^ 32, if late then frameSub s.dev.chip.frm.cur 1 else s.dev.chip.frm.cur)]
      ∧ (∀ j, j ≠ q → t.dev.chip.queue j = s.dev.chip.queue j) ∧ Leaves s t { s.dev.chip with que := t.dev.chip.que } := by
  let note (x : Queue) : Queue :=
    { x with releases := x.releases ++ [(value % 2 ^ 32, if late then frameSub s.dev.chip.frm.cur 1 else s.dev.chip.frm.cur)] }
  obtain ⟨ev, heq⟩ := Dev.onQueue_held { s.dev with out := [] } q (f := note) fun _ => rfl
  have hqueue := Tab.get_upd {} s.dev.chip.que.qs q note
  exact ⟨_, runs_of_clean h.2 ((doorbell_rings (d := { s.dev with out := [] }) hq hkind value late).trans heq) (h.clean.congr rfl rfl),
    congrArg Queue.releases ((hqueue q).trans (if_pos rfl)), fun j hj => (hqueue j).trans (if_neg hj), quiet_of_outerParts rfl, rfl⟩

theorem interrupt_acts {room vec : Nat} (hroom : room < 16) (hlo : 1 ≤ vec) (hhi : vec ≤ 63) (late : Bool) :
    ∃ t, exec (.interrupt room room vec late) s = .next t
      ∧ (∃ o, (room, vec, if late then frameSub s.dev.chip.frm.cur 1 else s.dev.chip.frm.cur, o) ∈ t.dev.chip.host.inband)
      ∧ (∀ x ∈ s.dev.chip.host.inband, x ∈ t.dev.chip.host.inband)
      ∧ Leaves s t { s.dev.chip with host := { s.dev.chip.host with inband := t.dev.chip.host.inband } } := by
  obtain ⟨t, hrun, hchip, hquiet⟩ := runs_onChip h (interruptRecord_own (d := { s.dev with out := [] }) hroom hlo hhi late)
  obtain ⟨hnew, hkept⟩ := s.dev.chip.host.mem_noted room vec (if late then frameSub s.dev.chip.frm.cur 1 else s.dev.chip.frm.cur)
  exact ⟨t, hrun, by rw [hchip]; exact hnew, by rw [hchip]; exact hkept, hquiet, by rw [hchip]⟩

end

/-- Settles O39: each record acts at the place that it names, and changes that alone. -/
theorem signalsAct : Obligations.SignalsAct := by
  unfold Obligations.SignalsAct
  intro s ep room id sender row mask value frame late h c key
  exact ⟨fun b hb hroom hid hhome hmem => barrierArrive_acts h hb hroom hid hhome hmem sender row mask late,
    fun b f hb hroom hid hep hdone hlate => barrierDone_acts h hb hroom hid hep hdone hlate,
    fun f hf hroom hid hhome => flag_acts h hf hroom hid hhome value late,
    fun e hq hkind => doorbell_acts h hq hkind value late,
    fun hq => runs_badDoorbell h (doorbell_none (d := { s.dev with out := [] }) hq room value late),
    fun hroom hlo hhi => interrupt_acts h hroom hlo hhi late,
    fun hbad => runs_badDoorbell h (interruptRecord_bad (d := { s.dev with out := [] }) hbad none late)⟩

end Sys2Proof.Claims
end

section
/-! PROOF. The debug window (R167, R173): when an access starts, and what it does when it is granted. -/

namespace Sys2Proof.Machine

/-! ## Starting an access -/

/-- A debug access of a slice is refused: the position is retired, or its row belongs to a loaded room that is not halted (R173). -/
def Chip.dbgDenies (c : Chip) (core : Nat) : Bool :=
  ((c.row (core / 32)).room.any fun r => c.loaded r && (c.room r).st ≠ .halted) || (Tab.get {} c.tow.pos core).st = 3

theorem Chip.dbgDenies_iff (c : Chip) (core : Nat) : c.dbgDenies core = true ↔
    (Tab.get {} c.tow.pos core).st = 3 ∨ ∃ r, (c.row (core / 32)).room = some r ∧ c.loaded r = true ∧ (c.room r).st ≠ .halted := by
  unfold Chip.dbgDenies
  cases (c.row (core / 32)).room <;> simp [or_comm]

/-- The debug window of the PF on a tower. -/
abbrev pfWindow (n : Nat) : Nat := n * 32 + Requester.pf.code

theorem Dev.onDbg_ite {p q : Prop} [Decidable p] [Decidable q] (d : Dev) (key : Nat) (f g h : Dbg → Dbg) :
    (if p then d.onDbg key f else if q then d.onDbg key g else d.onDbg key h) =
      d.onDbg key fun x => if p then f x else if q then g x else h x := by
  split
  · rfl
  · split <;> rfl

/-- What READ or WRITE makes of an idle window `x` of the PF (R173). -/
def Chip.dbgStarted (c : Chip) (n : Nat) (write : Bool) (x : Dbg) : Dbg :=
  if c.dbgDenies (c.selCore .pf n) then { x with status := 2 }
  else if sliceBytes / 16 ≤ c.fld F.TOW_DBG_ADDR n 0 Requester.pf.code then { x with status := 4 }
  else { busy := true, status := 0, isWrite := write, core := c.selCore .pf n, word := c.fld F.TOW_DBG_ADDR n 0 Requester.pf.code }

section
variable (d : Dev) {n : Nat}

theorem dbgStart_idle (hn : n < 8) (hidle : (d.chip.dbg (pfWindow n)).busy = false) (write : Bool) :
    dbgStart .pf n write d = d.onDbg (pfWindow n) (d.chip.dbgStarted n write) := by
  have hguard : ¬ (8 ≤ n ∨ (!isPf .pf) = true ∨ (d.chip.dbg (pfWindow n)).busy = true) := by
    simp only [isPf, hidle, decide_true, Bool.not_true, Bool.false_eq_true, or_false]
    omega
  unfold dbgStart Chip.dbgStarted Chip.dbgDenies
  rw [if_neg hguard]
  dsimp only
  cases (d.chip.row (d.chip.selCore .pf n / 32)).room with
  | none => exact Dev.onDbg_ite ..
  | some r => exact Dev.onDbg_ite ..

theorem dbgStart_busy (hbusy : (d.chip.dbg (pfWindow n)).busy = true) (write : Bool) : dbgStart .pf n write d = d :=
  if_pos (.inr (.inr hbusy))

end

/-! ## Accesses that are granted -/

theorem keptBytes_nil (a : Nat) (l : List (Option Byte)) : keptBytes [] a l = l := List.ext_getElem (by simp) (by simp [keptBytes, inRanges])

/-- A write of a whole word clears its mark and its errors (R165). -/
theorem Dev.pantryWrite_word (d : Dev) (core : Nat) {w : Nat} (hw : w < sliceBytes / 16) {bs : List Byte} (hbs : bs.length = 16) :
    d.pantryWrite core (16 * w) (bs.map some) =
      { d.mark (wordKey core w) false with wr := d.wr ++ segs (pantryAddr core (16 * w)) (bs.map some) } := by
  have hwhole : (wordPart (16 * w) (bs.map some) w).all Option.isSome = true := by
    have hpart := (wordPart_kept [] w bs hbs).1
    rw [keptBytes_nil] at hpart
    rw [hpart]
    simp [inRanges]
  have hword : d.writeWord core (16 * w) (bs.map some) w = d.mark (wordKey core w) false := if_pos hwhole
  have htake : (bs.map some).take (sliceBytes - 16 * w) = bs.map some := List.take_of_length_le (by rw [List.length_map, hbs]; omega)
  rw [Dev.pantryWrite_eq, List.length_map, hbs, wordsOf_word hw, List.foldl_cons, List.foldl_nil, hword, htake]
  rfl

/-- Memory after whole bytes were written. -/
theorem get_apply_segs_some (m : Mem) (a : Nat) (bs : List Byte) (x : Nat) :
    (m.apply (segs a (bs.map some))).get x = if a ≤ x ∧ x < a + bs.length then bs.getD (x - a) 0 else m.get x := by
  rw [apply_segs, List.getD_eq_getElem?_getD, List.getElem?_map, List.getD_eq_getElem?_getD]
  by_cases hx : a ≤ x
  · by_cases hlt : x < a + bs.length
    · rw [if_pos hx, if_pos ⟨hx, hlt⟩, List.getElem?_eq_getElem (by omega)]
      rfl
    · rw [if_pos hx, if_neg (by omega), List.getElem?_eq_none (by omega)]
      rfl
  · rw [if_neg hx, if_neg (by omega)]

/-- The data registers of the PF's window take the first `m` words of some bytes (R173). -/
def Dev.dbgFill (d : Dev) (n : Nat) (bs : List Byte) (m : Nat) : Dev :=
  (List.range m).foldl (fun d k => d.setFld F.TOW_DBG_DATA (leField bs (4 * k) 4) n k Requester.pf.code) d

section
variable {s : State} {d : Dev} {n : Nat} {x : Dbg} (hn : n < 8) (hx : d.chip.dbg (pfWindow n) = x) (hbusy : x.busy = true)
include hn hx hbusy

/-- A write that is granted (R167, R173). -/
theorem dbgDone_write (hwrite : x.isWrite = true) : dbgDone .pf n s d =
    (d.pantryWrite x.core (16 * x.word) ((d.chip.dbgData .pf n).map some)).onDbg (pfWindow n) fun y => { y with busy := false, status := 0 } := by
  subst hx
  unfold dbgDone
  exact (if_neg (by rw [hbusy, Bool.not_true, or_iff_left Bool.false_ne_true]; omega)).trans (if_pos hwrite)

/-- A read that is granted, of a word without errors (R167, R173). -/
theorem dbgDone_read (hread : x.isWrite = false) (herr : Tab.get 0 d.chip.tow.errs (wordKey x.core x.word) = 0) : dbgDone .pf n s d =
    (d.dbgFill n (d.wordBytes s x.core x.word) 4).onDbg (pfWindow n) fun y =>
      { y with busy := false, status := b2n (d.husked (wordKey x.core x.word)) } := by
  subst hx
  unfold dbgDone
  refine ((if_neg (by rw [hbusy, Bool.not_true, or_iff_left Bool.false_ne_true]; omega)).trans (if_neg (by rw [hread]; exact Bool.false_ne_true))).trans ?_
  rw [Dev.eccWord_clean herr]
  rfl

end

/-! ## The devices that an access leaves -/

theorem Dev.dbg_onDbg (d : Dev) (key : Nat) (f : Dbg → Dbg) (j : Nat) :
    (d.onDbg key f).chip.dbg j = if j = key then f (d.chip.dbg key) else d.chip.dbg j := Tab.get_upd ..

theorem Dev.husked_onDbg (d : Dev) (key : Nat) (f : Dbg → Dbg) (j : Nat) : (d.onDbg key f).husked j = d.husked j := rfl

/-- The device once a whole word was written and a window changed. -/
def Dev.wordStored (d : Dev) (core word : Nat) (bs : List Byte) (key : Nat) (f : Dbg → Dbg) : Dev :=
  Dev.onDbg { d.mark (wordKey core word) false with wr := d.wr ++ segs (pantryAddr core (16 * word)) (bs.map some) } key f

section
variable (d : Dev) (core word : Nat) (bs : List Byte) (key : Nat) (f : Dbg → Dbg)

theorem Dev.husked_wordStored : (d.wordStored core word bs key f).husked (wordKey core word) = false :=
  (Dev.husked_mark d _ false _).trans (if_pos rfl)

theorem Dev.dbg_wordStored : (d.wordStored core word bs key f).chip.dbg key = f (d.chip.dbg key) :=
  (Dev.dbg_onDbg ..).trans (if_pos rfl)

theorem Dev.wr_wordStored : (d.wordStored core word bs key f).wr = d.wr ++ segs (pantryAddr core (16 * word)) (bs.map some) := rfl

theorem Dev.wordStored_outer : (d.wordStored core word bs key f).outerParts = d.outerParts := rfl

theorem Dev.wordStored_injUsed : (d.wordStored core word bs key f).injUsed = d.injUsed := rfl

end

/-- A data register after one of its window was set. -/
theorem Chip.fld_setDbgData (c : Chip) (v n k j sel : Nat) : (c.setFld F.TOW_DBG_DATA v n k sel).fld F.TOW_DBG_DATA n j sel =
    if j = k then v % 2 ^ 32 else c.fld F.TOW_DBG_DATA n j sel := by
  have hkey : regKey (F.TOW_DBG_DATA.addrOf n j) sel = regKey (F.TOW_DBG_DATA.addrOf n k) sel ↔ j = k := by
    simp only [regKey, Fld.addrOf, F.TOW_DBG_DATA]
    omega
  simp only [Chip.setFld, Chip.fld, Chip.reg_setReg, hkey]
  split
  · have hreg := (c.reg (regKey (F.TOW_DBG_DATA.addrOf n k) sel)).isLt
    simp only [setBits, bitsOf, F.TOW_DBG_DATA, Nat.shiftRight_zero, BitVec.toNat_ofNat]
    omega
  · rfl

section
variable (d : Dev) (n : Nat) (bs : List Byte) (m : Nat)

/-- Of the device only registers change. -/
theorem Dev.dbgFill_eq : ∃ regs, d.dbgFill n bs m = d.onChip fun c => { c with regs } := by
  unfold Dev.dbgFill
  induction m with
  | zero => exact ⟨d.chip.regs, rfl⟩
  | succ m ih =>
    obtain ⟨regs, h⟩ := ih
    rw [List.range_succ, List.foldl_append, h]
    exact ⟨_, rfl⟩

theorem Dev.fld_dbgFill {i : Nat} (hi : i < m) :
    (d.dbgFill n bs m).chip.fld F.TOW_DBG_DATA n i Requester.pf.code = leField bs (4 * i) 4 := by
  have hlt : leField bs (4 * i) 4 < 2 ^ 32 := (ofLe_lt _).trans_le (Nat.pow_le_pow_right (n := 256) (by decide) (List.length_take_le ..))
  unfold Dev.dbgFill
  induction m with
  | zero => cases hi
  | succ m ih =>
    rw [List.range_succ, List.foldl_append, List.foldl_cons, List.foldl_nil]
    refine (Chip.fld_setDbgData ..).trans ?_
    obtain hi | rfl := Nat.lt_succ_iff_lt_or_eq.mp hi
    · rw [if_neg (by omega), ih hi]
    · rw [if_pos rfl, Nat.mod_eq_of_lt hlt]

end

end Sys2Proof.Machine

namespace Sys2Proof.Claims

open Sys2Proof.Machine

/-- A command that changes one debug window alone. -/
theorem dbg_changes {s : State} (h : Ready s) {k : Dev → Dev} {key : Nat} {f : Dbg → Dbg}
    (hk : k { s.dev with out := [] } = ({ s.dev with out := [] } : Dev).onDbg key f) :
    ∃ t, runs s k = .next t ∧ t.dev.chip.dbg key = f (s.dev.chip.dbg key) ∧ (∀ j, j ≠ key → t.dev.chip.dbg j = s.dev.chip.dbg j)
      ∧ Leaves s t { s.dev.chip with tow := { s.dev.chip.tow with dbg := t.dev.chip.tow.dbg } } := by
  obtain ⟨t, hrun, hchip, hquiet⟩ := runs_onChip h (g := fun c => { c with tow := { c.tow with dbg := Tab.upd {} c.tow.dbg key f } }) hk
  have hdbg := Tab.get_upd {} s.dev.chip.tow.dbg key f
  refine ⟨t, hrun, ?_, fun j hj => ?_, hquiet, by rw [hchip]⟩
  · rw [hchip]
    exact (hdbg key).trans (if_pos rfl)
  · rw [hchip]
    exact (hdbg j).trans (if_neg hj)

section
variable {s : State} {n : Nat} {x : Dbg} (h : Ready s) (hn : n < 8) (hx : s.dev.chip.dbg (pfWindow n) = x) (hbusy : x.busy = true)
  (hin : x.word < sliceBytes / 16)
include h hn hx hbusy hin

/-- A write of the PF's window that is granted (R167, R173). -/
theorem dbgAccessDone_writes (hwrite : x.isWrite = true) : ∃ t, exec (.dbgAccessDone .pf n) s = .next t
    ∧ (∀ i, i < 16 → t.mem.get (pantryAddr x.core (16 * x.word) + i) = (s.dev.chip.dbgData .pf n).getD i 0)
    ∧ (∀ a, a < pantryAddr x.core (16 * x.word) ∨ pantryAddr x.core (16 * x.word) + 16 ≤ a → t.mem.get a = s.mem.get a)
    ∧ t.dev.husked (wordKey x.core x.word) = false ∧ t.dev.chip.dbg (pfWindow n) = { x with busy := false, status := 0 } ∧ KeepsOuter s t := by
  have hlen : (s.dev.chip.dbgData .pf n).length = 16 := by
    rw [Chip.dbgData, flatMap_length_const _ 4 _ fun _ => leBytes_length .., List.length_range]
  have hdone := dbgDone_write (s := s) (d := { s.dev with out := [] }) hn hx hbusy hwrite
  rw [Dev.pantryWrite_word _ _ hin hlen] at hdone
  obtain ⟨e, he⟩ : ∃ e, e = ({ s.dev with out := [] } : Dev).wordStored x.core x.word (s.dev.chip.dbgData .pf n) (pfWindow n) fun y =>
      { y with busy := false, status := 0 } := ⟨_, rfl⟩
  have hrun : exec (.dbgAccessDone .pf n) s = .next (commit s e) :=
    (runs_active h.2 _).trans (congrArg (fun d => Host.Outcome.next (commit s d)) (hdone.trans he.symm))
  have hmem (a : Nat) : (commit s e).mem.get a = if pantryAddr x.core (16 * x.word) ≤ a ∧ a < pantryAddr x.core (16 * x.word) + 16
      then (s.dev.chip.dbgData .pf n).getD (a - pantryAddr x.core (16 * x.word)) 0 else s.mem.get a := by
    rw [commit_mem, he, Dev.wr_wordStored, h.1.wr, List.nil_append, get_apply_segs_some, hlen]
  have hout : KeepsOuter s (commit s e) := by
    refine keepsOuter_commit ?_ ?_
    · rw [he, Dev.wordStored_outer]
      rfl
    · rw [he, Dev.wordStored_injUsed, h.1.used]
  refine ⟨commit s e, hrun, fun i hi => ?_, fun a ha => ?_, ?_, ?_, hout⟩
  · rw [hmem, if_pos (by omega), Nat.add_sub_cancel_left]
  · rw [hmem, if_neg (by omega)]
  · rw [Dev.husked, commit_chip, he]
    exact Dev.husked_wordStored ..
  · rw [commit_chip, he, Dev.dbg_wordStored, hx]

/-- A read of the PF's window that is granted, of a word without errors (R167, R173). -/
theorem dbgAccessDone_reads (hread : x.isWrite = false) (herr : errorFree s x.core (16 * x.word) 16 = true) :
    ∃ t, exec (.dbgAccessDone .pf n) s = .next t
      ∧ (∀ i, i < 4 → t.dev.chip.fld F.TOW_DBG_DATA n i Requester.pf.code =
          leField (s.mem.bytes (pantryAddr x.core (16 * x.word)) 16) (4 * i) 4)
      ∧ t.dev.chip.dbg (pfWindow n) = { x with busy := false, status := if s.dev.husked (wordKey x.core x.word) then 1 else 0 } ∧ Quiet s t := by
  have hclean : Tab.get 0 s.dev.chip.tow.errs (wordKey x.core x.word) = 0 := by
    simpa [errorFree, wordsOf_word hin] using herr
  have hdone := dbgDone_read (s := s) (d := { s.dev with out := [] }) hn hx hbusy hread hclean
  have hbytes : ({ s.dev with out := [] } : Dev).wordBytes s x.core x.word = s.mem.bytes (pantryAddr x.core (16 * x.word)) 16 :=
    Dev.bytesOf_inside h.1.wr s x.core (by omega)
  rw [hbytes] at hdone
  have hdata (i : Nat) (hi : i < 4) := Dev.fld_dbgFill { s.dev with out := [] } n (s.mem.bytes (pantryAddr x.core (16 * x.word)) 16) 4 hi
  obtain ⟨regs, hfill⟩ := Dev.dbgFill_eq { s.dev with out := [] } n (s.mem.bytes (pantryAddr x.core (16 * x.word)) 16) 4
  rw [hfill] at hdone hdata
  refine ⟨_, runs_of_clean h.2 hdone (h.clean.congr rfl rfl), hdata, (Dev.dbg_onDbg ..).trans ((if_pos rfl).trans ?_), quiet_of_outerParts rfl⟩
  exact hx ▸ rfl

end

end Sys2Proof.Claims
end

section
/-! PROOF. March tests (R174 to R176): what is staged, what a run finds, and what it leaves. -/

namespace Sys2Proof.Machine

/-! ## Starting a run -/

theorem and_two_pow_mul_add {k b b' : Nat} (a a' : Nat) (hb : b < 2 ^ k) (hb' : b' < 2 ^ k) :
    (2 ^ k * a + b) &&& (2 ^ k * a' + b') = 2 ^ k * (a &&& a') + (b &&& b') := by
  refine Nat.eq_of_testBit_eq fun i => ?_
  rw [Nat.testBit_and, Nat.testBit_two_pow_mul_add _ hb, Nat.testBit_two_pow_mul_add _ hb', Nat.testBit_two_pow_mul_add _ (Nat.and_lt_two_pow _ hb')]
  split
  · rw [Nat.testBit_and]
  · rw [Nat.testBit_and]

/-- The fields of TOWn_MARCH_CTL are all staged (R175). -/
theorem marchCtl_masked {rows bg low : Nat} (hrows : rows < 2 ^ 16) (hbg : bg < 2 ^ 4) (hlow : low < 2 ^ 4) :
    (rows * 2 ^ 16 + bg * 2 ^ 8 + low) &&& 0xFFFF0F0F = rows * 2 ^ 16 + bg * 2 ^ 8 + low := by
  have hmask : 0xFFFF0F0F = 2 ^ 16 * (2 ^ 16 - 1) + (2 ^ 8 * (2 ^ 4 - 1) + (2 ^ 4 - 1)) := rfl
  have hval : rows * 2 ^ 16 + bg * 2 ^ 8 + low = 2 ^ 16 * rows + (2 ^ 8 * bg + low) := by omega
  rw [hmask, hval, and_two_pow_mul_add _ _ (by omega) (by omega), and_two_pow_mul_add _ _ (by omega) (by omega)]
  simp only [Nat.and_two_pow_sub_one_eq_mod, Nat.mod_eq_of_lt hrows, Nat.mod_eq_of_lt hbg, Nat.mod_eq_of_lt hlow]

/-- START with an algorithm that exists is staged with its fields (R175). -/
theorem marchWrite_staged (d : Dev) {n algo : Nat} (hn : n < 8) (halgo : algo < 2) (t rows bg : Nat) (preserve : Bool) :
    marchWrite .pf n t rows algo bg preserve d =
      { d with staged := d.staged ++ [⟨F.TOW_MARCH_CTL_START.key n, 0xFFFF0F0F,
          rows % 65536 * 2 ^ 16 + bg % 16 * 2 ^ 8 + algo * 4 + b2n preserve * 2 + 1, d.chip.dueFrame t, .pf⟩] } := by
  have hguard : ¬ ((!isPf .pf) = true ∨ 8 ≤ n ∨ 2 ≤ algo) := by
    simp only [isPf, decide_true, Bool.not_true, Bool.false_eq_true, false_or]
    omega
  have hpreserve : b2n preserve ≤ 1 := by cases preserve <;> decide
  have hvalue := marchCtl_masked (rows := rows % 65536) (bg := bg % 16) (low := algo * 4 + b2n preserve * 2 + 1) (by omega) (by omega) (by omega)
  simp only [← Nat.add_assoc] at hvalue
  unfold marchWrite Dev.stage
  rw [if_neg hguard, show F.TOW_MARCH_CTL_ROWS.mask + F.TOW_MARCH_CTL_BG.mask + F.TOW_MARCH_CTL_ALGO.mask + F.TOW_MARCH_CTL_PRESERVE.mask + 1
    = 0xFFFF0F0F from rfl, hvalue]

theorem marchWrite_ignored (d : Dev) {algo : Nat} (halgo : 2 ≤ algo) (n t rows bg : Nat) (preserve : Bool) :
    marchWrite .pf n t rows algo bg preserve d = d := if_pos (.inr (.inr halgo))

/-! ## What a run finds in a defective cell -/

/-- An operation adds at most its own place to the reads that failed. -/
theorem cellOp_bad (x : BadCell) (r : CellRun) (o : (Nat × Nat × Nat) × MarchOp) : (cellOp x r o).bad = r.bad ∨ (cellOp x r o).bad = r.bad ++ [o.1] := by
  unfold cellOp
  dsimp only
  by_cases hwrite : o.2.write = true
  · rw [if_pos hwrite]
    exact .inl rfl
  · rw [if_neg hwrite]
    exact ite_eq_or_eq ..

theorem cellOp_keeps_bad (x : BadCell) {r : CellRun} (h : r.bad ≠ []) (o : (Nat × Nat × Nat) × MarchOp) : (cellOp x r o).bad ≠ [] := by
  obtain heq | heq := cellOp_bad x r o
  · rwa [heq]
  · rw [heq]
    exact List.append_ne_nil_of_left_ne_nil h _

theorem foldl_cellOp_keeps_bad (x : BadCell) (ops : List ((Nat × Nat × Nat) × MarchOp)) {r : CellRun} (h : r.bad ≠ []) :
    (ops.foldl (cellOp x) r).bad ≠ [] := by
  induction ops generalizing r with
  | nil => exact h
  | cons o ops ih => exact ih (cellOp_keeps_bad x h o)

/-- A read of a stuck cell that expects the other value fails (R174). -/
theorem cellOp_stuck {x : BadCell} {v : Bool} (hx : x.fault = .stuck v) {o : (Nat × Nat × Nat) × MarchOp} (hread : o.2.write = false)
    (hwant : v ≠ xor (background o.1.1 (x.word / 8) x.bit) o.2.inv) (r : CellRun) : (cellOp x r o).bad ≠ [] := by
  unfold cellOp
  simp only [hx, hread, Bool.false_eq_true, if_false, if_neg hwant]
  exact List.append_ne_nil_of_right_ne_nil _ (List.cons_ne_nil _ _)

/-- An operation that always fails fails in every run that has it. -/
theorem foldl_cellOp_bad {x : BadCell} {o : (Nat × Nat × Nat) × MarchOp} (ho : ∀ r, (cellOp x r o).bad ≠ [])
    {ops : List ((Nat × Nat × Nat) × MarchOp)} (hmem : o ∈ ops) (r : CellRun) : (ops.foldl (cellOp x) r).bad ≠ [] := by
  obtain ⟨before, after, rfl⟩ := List.append_of_mem hmem
  rw [List.foldl_append, List.foldl_cons]
  exact foldl_cellOp_keeps_bad x after (ho _)

/-- Every element of an algorithm runs with every selected background (R174). -/
theorem mem_marchOps {algo bgs g i j : Nat} {e : MarchElem} {o : MarchOp} (hg : g ∈ bitList 4 bgs) (he : (e, i) ∈ (marchElems algo).zipIdx)
    (ho : (o, j) ∈ e.ops.zipIdx) : ((g, i, j), o) ∈ marchOps algo bgs :=
  List.mem_flatMap.mpr ⟨g, hg, List.mem_flatMap.mpr ⟨(e, i), he, List.mem_map.mpr ⟨(o, j), ho, rfl⟩⟩⟩

/-- Both algorithms read the background as their last element and its complement as the first operation of their third (R174). -/
theorem marchElems_reads (algo : Nat) (inv : Bool) : ∃ e i, (e, i) ∈ (marchElems algo).zipIdx ∧ ((⟨false, inv⟩ : MarchOp), 0) ∈ e.ops.zipIdx := by
  unfold marchElems
  cases inv
  · split
    · exact ⟨⟨false, [r0]⟩, 5, by decide, by decide⟩
    · exact ⟨⟨false, [r0]⟩, 5, by decide, by decide⟩
  · split
    · exact ⟨⟨false, [r1, w0]⟩, 2, by decide, by decide⟩
    · exact ⟨⟨false, [r1, r1, w1, r1, w0]⟩, 2, by decide, by decide⟩

theorem ne_xor_not_xor (v b : Bool) : v ≠ (b ^^ !(b ^^ v)) := by cases v <;> cases b <;> decide

theorem exists_mem_bitList {k n : Nat} (h : n % 2 ^ k ≠ 0) : ∃ i, i ∈ bitList k n := by
  obtain ⟨i, hi⟩ := Nat.exists_testBit_of_ne_zero h
  rw [Nat.testBit_mod_two_pow, Bool.and_eq_true, decide_eq_true_eq] at hi
  exact ⟨i, mem_bitList.mpr hi⟩

/-- A run with a background finds every stuck cell: a line is read when it holds the background and when it holds the complement (R174). -/
theorem marchOps_find_stuck {x : BadCell} {v : Bool} (hx : x.fault = .stuck v) {bgs : Nat} (hbgs : bgs % 16 ≠ 0) (algo : Nat) :
    ((marchOps algo bgs).foldl (cellOp x) {}).bad ≠ [] := by
  obtain ⟨g, hg⟩ := exists_mem_bitList (k := 4) hbgs
  obtain ⟨e, i, he, ho⟩ := marchElems_reads algo (!xor (background g (x.word / 8) x.bit) v)
  exact foldl_cellOp_bad (cellOp_stuck hx rfl (ne_xor_not_xor _ _)) (mem_marchOps hg he ho) {}

/-! ## The results of a run -/

section
variable (algo bgs : Nat) (preserve : Bool) {cells : List BadCell} {core : Nat}

theorem marchRun_fail : (marchRun algo bgs preserve cells core).fail = true ↔
    ∃ x ∈ cells, x.core = core ∧ x.word < 196608 ∧ x.bit < 138 ∧ ((marchOps algo bgs).foldl (cellOp x) {}).bad ≠ [] := by
  have hbad : (marchRun algo bgs preserve cells core).fail = true ↔ marchBad algo bgs preserve cells core ≠ [] := by
    unfold marchRun
    split
    · next h => simp [h]
    · next h => simp [h]
  rw [hbad]
  simp [marchBad, List.flatMap_eq_nil_iff, and_assoc]

theorem marchRun_sound (h : ∀ x ∈ cells, x.core ≠ core) : marchRun algo bgs preserve cells core = {} := by
  have hnone : (cells.filter fun x => x.core = core && decide (x.word < 196608) && decide (x.bit < 138)) = [] :=
    List.filter_eq_nil_iff.mpr fun x hx => by simp [h x hx]
  unfold marchRun marchBad
  rw [hnone]
  rfl

end

theorem get_foldl_put {α : Type} [DecidableEq α] (d : α) (f : Nat → α) (l : List Nat) (t : Tab α) (k : Nat) :
    Tab.get d (l.foldl (fun r j => Tab.put d r j (f j)) t) k = if k ∈ l then f k else Tab.get d t k := by
  induction l generalizing t with
  | nil => simp
  | cons j l ih =>
    rw [List.foldl_cons, ih, Tab.get_put]
    by_cases hk : k = j
    · simp [hk]
    · simp [hk]

/-- The slices of a run (R174). -/
def marchCores (n : Nat) (m : March) : List Nat := (bitList 16 m.rows).flatMap fun w => rowCores (n * 16 + w)

/-- What a run over defective cells leaves of results (R176). -/
def MarchResults (c : Chip) (n : Nat) (m : March) (cells : List BadCell) : Prop :=
  let failed (core : Nat) : Bool := (Tab.get {} c.tow.marchRes core).fail
  (c.march n).st = 2
    ∧ (∀ core ∈ marchCores n m, failed core = true ↔ ∃ x ∈ cells, x.core = core ∧ x.word < 196608 ∧ x.bit < 138
        ∧ ((marchOps m.algo m.bg).foldl (cellOp x) {}).bad ≠ [])
    ∧ (∀ core ∈ marchCores n m, m.bg % 16 ≠ 0 → (∃ x ∈ cells, x.core = core ∧ x.word < 196608 ∧ x.bit < 138 ∧ ∃ v, x.fault = .stuck v) →
        failed core = true)
    ∧ (∀ core ∈ marchCores n m, (∀ x ∈ cells, x.core ≠ core) → Tab.get {} c.tow.marchRes core = {})
    ∧ (∀ w, w < 16 → (bitOf (c.march n).failRows w = true ↔ bitOf m.rows w = true ∧ ∃ core ∈ rowCores (n * 16 + w), failed core = true))

section
variable (d : Dev) (n : Nat) (m : March) (cells : List BadCell)

/-- A march engine that is done, with its rows that failed (R176). -/
def March.ended (x m : March) (n : Nat) (cells : List BadCell) : March := { x with
  st := 2
  failRows := ofBitList ((bitList 16 m.rows).filter fun w =>
    (rowCores (n * 16 + w)).any fun core => (marchRun m.algo m.bg m.preserve cells core).fail) }

theorem Dev.march_marchEnd : (d.marchEnd n m.rows m.algo m.bg m.preserve cells).chip.march n =
    (d.chip.march n).ended m n cells := (Tab.get_upd ({} : March) d.chip.tow.march n (fun x => x.ended m n cells) n).trans (if_pos rfl)

theorem Dev.marchRes_marchEnd {core : Nat} (hcore : core ∈ marchCores n m) :
    Tab.get {} (d.marchEnd n m.rows m.algo m.bg m.preserve cells).chip.tow.marchRes core = marchRun m.algo m.bg m.preserve cells core :=
  (get_foldl_put {} (marchRun m.algo m.bg m.preserve cells) (marchCores n m) d.chip.tow.marchRes core).trans (if_pos hcore)

theorem Dev.marchEnd_results : MarchResults (d.marchEnd n m.rows m.algo m.bg m.preserve cells).chip n m cells := by
  have hres (core : Nat) (hcore : core ∈ marchCores n m) := d.marchRes_marchEnd n m cells hcore
  have hfail (core : Nat) (hcore : core ∈ marchCores n m) := congrArg MarchRes.fail (hres core hcore)
  refine ⟨by rw [Dev.march_marchEnd, March.ended], fun core hcore => ?_, fun core hcore hbg ⟨x, hx, hat, hword, hbit, v, hv⟩ => ?_, fun core hcore hnone => ?_,
    fun w hw => ?_⟩
  · exact (Eq.congr_left (hfail core hcore)).trans (marchRun_fail ..)
  · exact (hfail core hcore).trans ((marchRun_fail ..).mpr ⟨x, hx, hat, hword, hbit, marchOps_find_stuck hv hbg m.algo⟩)
  · rw [hres core hcore]
    exact marchRun_sound _ _ _ hnone
  · have hrow (hrows : m.rows.testBit w = true) (core : Nat) (hcore : core ∈ rowCores (n * 16 + w)) :=
      hfail core (List.mem_flatMap.mpr ⟨w, mem_bitList.mpr ⟨hw, hrows⟩, hcore⟩)
    rw [Dev.march_marchEnd, March.ended, bitOf, ofBitList, testBit_foldl_orBit, Nat.zero_testBit, Bool.false_or, decide_eq_true_eq, List.mem_filter, mem_bitList,
      List.any_eq_true, bitOf]
    constructor
    · rintro ⟨⟨-, hrows⟩, core, hcore, hbad⟩
      exact ⟨hrows, core, hcore, (hrow hrows core hcore).trans hbad⟩
    · rintro ⟨hrows, core, hcore, hbad⟩
      exact ⟨⟨hw, hrows⟩, core, hcore, (hrow hrows core hcore).symm.trans hbad⟩

end

/-! ## Slices cleared -/

theorem get_apply_clears (m : Mem) (l : List Nat) (f : Nat → Nat) (k x : Nat) :
    (m.apply (l.map fun c => .clear (f c) k)).get x = if ∃ c ∈ l, f c ≤ x ∧ x < f c + k then 0 else m.get x := by
  induction l generalizing m with
  | nil => simp [Mem.apply]
  | cons c l ih =>
    rw [List.map_cons, ← List.singleton_append, Mem.apply_append, ih]
    have hget : (m.apply [.clear (f c) k]).get x = if f c ≤ x ∧ x < f c + k then 0 else m.get x := Mem.get_clear ..
    rw [hget]
    by_cases hc : f c ≤ x ∧ x < f c + k
    · simp [hc]
    · simp [hc]

theorem wordKey_slice {core w : Nat} (hw : w < sliceBytes / 16) : wordKey core w / 2 ^ 18 = core := by
  unfold wordKey
  unfold sliceBytes at hw
  omega

/-- Slices cleared: zero data, and no marks (R175). -/
theorem Dev.foldl_clearSlice (d : Dev) (cores : List Nat) : ∃ husk errs,
    cores.foldl Dev.clearSlice d = { d.onTow fun t => { t with husk, errs } with
      wr := d.wr ++ cores.map fun c => .clear (pantryAddr c 0) sliceBytes }
    ∧ ∀ key, key / 2 ^ 18 ∈ cores ∨ d.husked key = false → Tab.get false husk key = false := by
  induction cores generalizing d with
  | nil => exact ⟨_, _, by rw [List.map_nil, List.append_nil]; rfl, by simp [Dev.husked]⟩
  | cons core cores ih =>
    obtain ⟨husk, errs, heq, hclear⟩ := ih (d.clearSlice core)
    refine ⟨husk, errs, ?_, fun key hkey => hclear key ?_⟩
    · rw [List.foldl_cons, heq, List.map_cons, ← List.singleton_append, ← List.append_assoc]
      rfl
    · have hhusked : (d.clearSlice core).husked key = if decide (key / 2 ^ 18 ≠ core) = true then d.husked key else false :=
        Tab.get_keep false d.chip.tow.husk (fun k => decide (k / 2 ^ 18 ≠ core)) key
      rw [hhusked]
      by_cases hcore : key / 2 ^ 18 = core
      · rw [if_neg (by rw [decide_eq_true_eq, not_not]; exact hcore)]
        exact .inr rfl
      · rw [if_pos (decide_eq_true hcore)]
        exact hkey.imp_left fun h => (List.mem_cons.mp h).resolve_left hcore

/-! ## A run that completes -/

section
variable {d : Dev} {n : Nat} {m : March} (hn : n < 8) (hm : d.chip.march n = m) (cells : List BadCell)
include hn hm

theorem marchDone_preserving (hst : m.st = 1) (hpreserve : m.preserve = true) :
    marchDone n cells d = d.marchEnd n m.rows m.algo m.bg m.preserve cells := by
  subst hm
  unfold marchDone
  rw [if_neg (by omega), if_pos hpreserve]

theorem marchDone_destructive (hst : m.st = 1) (hpreserve : m.preserve = false) :
    marchDone n cells d = ((marchCores n m).foldl Dev.clearSlice d).marchEnd n m.rows m.algo m.bg m.preserve cells := by
  subst hm
  unfold marchDone
  rw [if_neg (by omega), if_neg (by rw [hpreserve]; exact Bool.false_ne_true)]
  rfl

end

theorem marchDone_idle {d : Dev} {n : Nat} (hst : (d.chip.march n).st ≠ 1) (cells : List BadCell) : marchDone n cells d = d :=
  if_pos (.inr hst)

end Sys2Proof.Machine

namespace Sys2Proof.Claims

open Sys2Proof.Machine

/-- A command that does nothing here. -/
theorem runs_nothing {s : State} (h : Ready s) {k : Dev → Dev} (hk : k { s.dev with out := [] } = { s.dev with out := [] }) :
    ∃ t, runs s k = .next t ∧ Answers s t [] := ⟨_, runs_of_clean h.2 hk h.clean, rfl⟩

/-- READ or WRITE on an idle window changes it alone, and as `y` says (R173). -/
theorem dbgStart_changes {s : State} (h : Ready s) {n : Nat} (hn : n < 8) (hidle : (s.dev.chip.dbg (pfWindow n)).busy = false) (write : Bool) {y : Dbg}
    (hy : s.dev.chip.dbgStarted n write (s.dev.chip.dbg (pfWindow n)) = y) :
    ∃ t, runs s (dbgStart .pf n write) = .next t ∧ t.dev.chip.dbg (pfWindow n) = y ∧ (∀ j, j ≠ pfWindow n → t.dev.chip.dbg j = s.dev.chip.dbg j)
      ∧ Leaves s t { s.dev.chip with tow := { s.dev.chip.tow with dbg := t.dev.chip.tow.dbg } } := by
  subst hy
  exact dbg_changes h (dbgStart_idle { s.dev with out := [] } hn hidle write)

/-- A run that completes and preserves contents (R175, R176). -/
theorem marchDone_preserves {s : State} (h : Ready s) {n : Nat} (hn : n < 8) {m : March} (hm : s.dev.chip.march n = m) (cells : List BadCell)
    (hst : m.st = 1) (hpreserve : m.preserve = true) :
    ∃ t, exec (.marchDone n cells) s = .next t ∧ MarchResults t.dev.chip n m cells ∧ Quiet s t := by
  have hdone := marchDone_preserving (d := { s.dev with out := [] }) hn hm cells hst hpreserve
  exact ⟨_, runs_of_clean h.2 hdone (h.clean.congr rfl rfl), Dev.marchEnd_results .., quiet_of_outerParts rfl⟩

/-- A destructive run that completes leaves zero data without marks in its slices, and nothing else changed (R175, R176). -/
theorem marchDone_clears {s : State} (h : Ready s) {n : Nat} (hn : n < 8) {m : March} (hm : s.dev.chip.march n = m) (cells : List BadCell)
    (hst : m.st = 1) (hpreserve : m.preserve = false) :
    ∃ t, exec (.marchDone n cells) s = .next t ∧ MarchResults t.dev.chip n m cells
      ∧ (∀ core ∈ marchCores n m, ∀ a, a < sliceBytes → t.mem.get (pantryAddr core a) = 0)
      ∧ (∀ x, (∀ core ∈ marchCores n m, x < pantryAddr core 0 ∨ pantryAddr core 0 + sliceBytes ≤ x) → t.mem.get x = s.mem.get x)
      ∧ (∀ core ∈ marchCores n m, ∀ w, w < sliceBytes / 16 → t.dev.husked (wordKey core w) = false)
      ∧ t.dev.chip.tow.cores = s.dev.chip.tow.cores ∧ KeepsOuter s t := by
  have hdone := marchDone_destructive (d := { s.dev with out := [] }) hn hm cells hst hpreserve
  obtain ⟨husk, errs, hclear, hnone⟩ := Dev.foldl_clearSlice { s.dev with out := [] } (marchCores n m)
  rw [hclear] at hdone
  have hmem (x : Nat) : (commit s (marchDone n cells { s.dev with out := [] })).mem.get x =
      if ∃ c ∈ marchCores n m, pantryAddr c 0 ≤ x ∧ x < pantryAddr c 0 + sliceBytes then 0 else s.mem.get x := by
    have hwr : (marchDone n cells { s.dev with out := [] }).wr = s.dev.wr ++ (marchCores n m).map fun c => .clear (pantryAddr c 0) sliceBytes :=
      congrArg Dev.wr hdone
    rw [commit_mem, hwr, h.1.wr, List.nil_append, get_apply_clears]
  have hhusk (key : Nat) : (marchDone n cells { s.dev with out := [] }).husked key = Tab.get false husk key :=
    congrArg (fun d : Dev => d.husked key) hdone
  refine ⟨_, runs_active h.2 _, ?_, fun core hcore a ha => ?_, fun x hx => ?_, fun core hcore w hw => ?_, ?_, ?_⟩
  · rw [commit_chip, hdone]
    exact Dev.marchEnd_results ..
  · rw [hmem, if_pos ⟨core, hcore, by unfold pantryAddr; omega⟩]
  · rw [hmem, if_neg]
    rintro ⟨core, hcore, hlo, hhi⟩
    have := hx core hcore
    omega
  · have hin : wordKey core w / 2 ^ 18 ∈ marchCores n m := by
      rw [wordKey_slice hw]
      exact hcore
    rw [Dev.husked, commit_chip]
    exact (hhusk _).trans (hnone _ (.inl hin))
  · rw [commit_chip, hdone]
    rfl
  · rw [hdone]
    exact keepsOuter_commit rfl h.1.used

/-- Settles O43: an access is decided when it starts and done when it is granted; a run's results are those of its defective cells, of which a
stuck one fails either the read of a background or that of its complement, and a destructive run clears its slices. -/
theorem debugWindowAndMarchTests : Obligations.DebugWindowAndMarchTests := by
  unfold Obligations.DebugWindowAndMarchTests
  refine ⟨fun s n h hn => ?_, fun s n t0 rows algo bg preserve cells h hn => ?_⟩
  · have hdenied := s.dev.chip.dbgDenies_iff (s.dev.chip.selCore .pf n)
    refine ⟨fun hidle hfree hword => ?_, fun hidle hden => ?_, fun hidle hfree hword => ?_, fun hbusy => ?_, fun hbusy hwrite hin => ?_,
      fun hbusy hread hin herr => ?_⟩
    · have hstart (write : Bool) := dbgStart_changes h hn hidle write ((if_neg (mt hdenied.mp hfree)).trans (if_neg (Nat.not_le.mpr hword)))
      exact ⟨hstart false, hstart true⟩
    · exact dbgStart_changes h hn hidle false (if_pos (hdenied.mpr hden))
    · exact dbgStart_changes h hn hidle true ((if_neg (mt hdenied.mp hfree)).trans (if_pos hword))
    · exact runs_nothing h (dbgStart_busy { s.dev with out := [] } hbusy false)
    · exact dbgAccessDone_writes h hn rfl hbusy hin hwrite
    · exact dbgAccessDone_reads h hn rfl hbusy hin hread herr
  · refine ⟨fun halgo => ?_, fun halgo => ?_, fun hst hpreserve => ?_, fun hst hpreserve => ?_, fun hst => ?_⟩
    · have hstart := marchWrite_staged { s.dev with out := [] } hn halgo t0 rows bg preserve
      exact ⟨_, runs_of_clean h.2 hstart (h.clean.congr rfl rfl), _, rfl, rfl, rfl, rfl⟩
    · exact runs_nothing h (marchWrite_ignored _ halgo ..)
    · obtain ⟨t, hrun, hresults, hrest⟩ := marchDone_clears h hn rfl cells hst hpreserve
      exact ⟨t, ⟨hrun, hresults⟩, hrest⟩
    · obtain ⟨t, hrun, hresults, hquiet⟩ := marchDone_preserves h hn rfl cells hst hpreserve
      exact ⟨t, ⟨hrun, hresults⟩, hquiet⟩
    · exact runs_nothing h (marchDone_idle (d := { s.dev with out := [] }) hst cells)

end Sys2Proof.Claims
end
